-- ==== Sys2Proof/Word.lean ====
section
/-! DEFINITION. The word types of the GX9: bytes, 16-, 32- and 64-bit words (00 R7, R8; 01 R15). -/

namespace Sys2Proof

/-- One byte of storage (R238). -/
abbrev Byte := BitVec 8

/-- A 16-bit half word. -/
abbrev W16 := BitVec 16

/-- A 32-bit word: the unit of the full/empty bits (R133) and of FP32 (R71). -/
abbrev W32 := BitVec 32

/-- A 64-bit register value (R15, R16, R22). -/
abbrev W64 := BitVec 64

end Sys2Proof
end

