-- ==== Sys2Proof/Machine/Bits.lean ====
section
/-! DEFINITION. Bit fields, extensions and byte order: the helpers of 00 R8 and R11. -/

namespace Sys2Proof

/-- `bits(x, hi, lo)` of R11: bits hi down to lo as an unsigned integer. -/
def bits {n : Nat} (x : BitVec n) (hi lo : Nat) : Nat :=
  (x.toNat >>> lo) % 2 ^ (hi + 1 - lo)

/-- One bit of a word. -/
def bit {n : Nat} (x : BitVec n) (i : Nat) : Bool :=
  x.getLsbD i

/-- `SX(x, n)` of R11 for a bit vector: sign-extension to 64 bits. -/
def sx {n : Nat} (x : BitVec n) : W64 :=
  x.signExtend 64

/-- `ZX(x, n)` of R11 for a bit vector: zero-extension to 64 bits. -/
def zx {n : Nat} (x : BitVec n) : W64 :=
  x.setWidth 64

/-- `SX(x, n)` of R11 with a width given as a number: the low n bits of x, sign-extended. -/
def sxN (x : W64) (n : Nat) : W64 :=
  if n = 0 then 0
  else if 64 ≤ n then x
  else BitVec.ofInt 64 (Int.bmod (x.toNat : Int) (2 ^ n))

/-- `ZX(x, n)` of R11 with a width given as a number: the low n bits of x. -/
def zxN (x : W64) (n : Nat) : W64 :=
  BitVec.ofNat 64 (x.toNat % 2 ^ n)

/-- A Boolean as a 64-bit 0 or 1. -/
def boolW (b : Bool) : W64 :=
  if b then 1 else 0

/-- The little-endian bytes of a number: n bytes, least significant first (R8). -/
def toBytes : Nat → Nat → List Byte
  | 0, _ => []
  | n + 1, x => BitVec.ofNat 8 x :: toBytes n (x / 256)

/-- The number that little-endian bytes hold (R8). -/
def ofBytes : List Byte → Nat
  | [] => 0
  | b :: bs => b.toNat + 256 * ofBytes bs

/-- Ceiling of a division. -/
def ceilDiv (a b : Nat) : Nat :=
  (a + b - 1) / b

/-- A field of a 64-bit word with bits hi to lo replaced by the low bits of v. -/
def putBits (x : W64) (hi lo : Nat) (v : Nat) : W64 :=
  let w := hi + 1 - lo
  BitVec.ofNat 64 (x.toNat - (bits x hi lo) * 2 ^ lo + (v % 2 ^ w) * 2 ^ lo)

/-- The bits lo to hi set. -/
def maskBits (hi lo : Nat) : W64 :=
  BitVec.ofNat 64 ((2 ^ (hi + 1 - lo) - 1) * 2 ^ lo)

/-- A 57-bit address is canonical when bits [63:57] all equal bit 56 (R43). -/
def canonical (a : W64) : Bool :=
  bits a 63 56 == 0 || bits a 63 56 == 255

/-- An address field [56:2] as the address a resume or transfer uses: bits [1:0] zero, bits [63:57]
copies of bit 56 (R229). -/
def codeAddr (a : W64) : W64 :=
  sx (BitVec.ofNat 57 (bits a 56 2 * 4))

/-- The field [56:2] of a register that holds an instruction address, other bits zero (R24, R31, R34). -/
def addrField (a : W64) : W64 :=
  BitVec.ofNat 64 (bits a 56 2 * 4)

end Sys2Proof
end

