-- ==== Sys2Proof/Syntax.lean ====
section
/-! DEFINITION. The abstract syntax: operand forms and ONE inductive `Instr` with one constructor for
each row of spec/opcode_table.json. The first part of the table holds the instructions that a context
issues (02 R58 to R63); the second part holds the hardware and host steps, which have no encoding and
whose arguments carry which unit takes the step and what arrives from outside. -/

namespace Sys2Proof

/-- A context: the sheaf's device-wide serial number in the model, GRAINID and CTXID (R13, R35). -/
structure CtxId where
  sheaf : Nat
  grain : Nat
  ctx : Nat
  deriving DecidableEq, Repr

/-- A source code: 0 to 15 name g0 to g15, 16 to 31 name q1 to q16 (R49). `q n` is q(n+1). -/
inductive Src where
  | g (n : Fin 16)
  | q (n : Fin 16)
  deriving DecidableEq, Repr

/-- A destination code: 0 to 15 gN, 16 `q`, 17 nothing (R17). -/
inductive Dst where
  | g (n : Fin 16)
  | q
  | none
  deriving DecidableEq, Repr

/-- The guard fields GE, GN, GREG and GBIT (R48, R50). -/
inductive Guard where
  | always
  | on (neg : Bool) (reg : Src) (bit : Fin 64)
  deriving DecidableEq, Repr

/-- The fields every instruction has besides OPM, FN and its operands: guard, DST and LA (R48). -/
structure Head where
  guard : Guard
  dst : Dst
  la : Fin 16
  deriving DecidableEq, Repr

/-- The last source of an integer instruction by operand mode (R53, R54). -/
inductive IOp where
  | reg (r : Src)
  | imm (v : BitVec 16)
  | const (n : BitVec 10)
  | lit (v : W32)
  deriving DecidableEq, Repr

/-- The last source of an FP32 instruction by operand mode (R53, R54). -/
inductive FOp where
  | reg (r : Src)
  | imm20 (v : BitVec 20)
  | const (n : BitVec 10)
  | lit (v : W32)
  deriving DecidableEq, Repr

/-- A memory operand `[an]`, `[an+]` or `[an+imm]` (R22, R61). -/
inductive MemOp where
  | base (p : Fin 8)
  | post (p : Fin 8)
  | off (p : Fin 8) (imm : BitVec 16)
  deriving DecidableEq, Repr

/-- Access sizes b, h, w, d (R61). -/
inductive Size where
  | b | h | w | d
  deriving DecidableEq, Repr

/-- Ordering scopes, codes 1 to 7 (R61, R242). -/
inductive Scope where
  | core | quad | tile | clus | dom | dev | sys
  deriving DecidableEq, Repr

/-- Rounding modes, codes 0 to 2 (R57, R79). -/
inductive Rm where
  | rne | rtz | sr
  deriving DecidableEq, Repr

/-- Format codes 0x0 to 0x7 (R70). -/
inductive Fmt where
  | raw | fp32 | bf16 | kb8 | kb4 | int8 | int16 | int32
  deriving DecidableEq, Repr

/-- Vector element types, codes 0x0 to 0x7 (R57). -/
inductive VTy where
  | f32 | bf16 | s32 | s16 | s8 | u32 | u16 | u8
  deriving DecidableEq, Repr

/-- `fcvt` conversion kinds 0x0 to 0x7 (R60, R107). -/
inductive CvtKind where
  | f32s32 | f32u32 | s32f32 | u32f32 | f32s64 | s64f32 | f32bf16 | bf16f32
  deriving DecidableEq, Repr

/-- A vector descriptor by its AM (R55). A scalar names its register. -/
inductive VDesc where
  | absent
  | mem (p : Fin 8) (post : Bool)
  | scalar (r : Src)
  deriving DecidableEq, Repr

/-- The second word of format V with the scalar sources of the first word (R55). -/
structure VArgs where
  d : VDesc
  x : VDesc
  y : VDesc
  z : VDesc
  ty : VTy
  rm : Rm
  opt : BitVec 6
  imm : W32
  deriving DecidableEq, Repr

/-- The second word of format M (R56). `k` is KB, `n` NN and `m` MM as encoded, one below the value. -/
structure MArgs where
  opt : BitVec 9
  woff : BitVec 14
  kb : BitVec 8
  nn : BitVec 6
  mm : BitVec 6
  fb : Fmt
  fa : Fmt
  ta : Bool
  pb : Fin 8
  pa : Fin 8
  acc : Fin 64
  deriving DecidableEq, Repr

/-- The fields of an atomic (R135). -/
structure AmoArgs where
  p : Fin 8
  dw : Bool
  scope : Option Scope
  glob : Bool
  b : Src
  deriving DecidableEq, Repr

/-- The fields of a reduction (R137). -/
structure RedArgs where
  p : Fin 8
  dw : Bool
  scope : Option Scope
  b : Src
  deriving DecidableEq, Repr

/-- Copy kinds (R213). -/
inductive CpyKind where
  | g2l | l2g | h2l | l2h | l2c
  deriving DecidableEq, Repr

/-- The engine fields of `cpy` and `cpy.2d` (R57, R213). `rows` is ROWS − 1. -/
structure CpyArgs where
  kind : CpyKind
  plv : Fin 5
  rst : Bool
  rows : BitVec 16
  lstr : BitVec 19
  scope : Scope
  rm : Rm
  fpg : Bool
  fm : Fmt
  fs : Fmt
  ch : Fin 8
  deriving DecidableEq, Repr

/-- The engine fields of `gath` (R217). `count` and `rowel` are one below the value. -/
structure GathArgs where
  count : BitVec 16
  rowel : BitVec 16
  scope : Scope
  rm : Rm
  fpg : Bool
  fm : Fmt
  fs : Fmt
  deriving DecidableEq, Repr

/-- Collective operations (R218). -/
inductive CollOp where
  | allGather | rsAdd | rsMax
  deriving DecidableEq, Repr

/-- The engine fields of `coll` (R218). `p` is p − 1. -/
structure CollArgs where
  op : CollOp
  plv : Fin 5
  p : BitVec 6
  rank : BitVec 6
  scope : Scope
  fs : Fmt
  ch : Fin 8
  deriving DecidableEq, Repr

/-- Circuit kinds (R334). -/
inductive CktKind where
  | tile | mem | host | net
  deriving DecidableEq, Repr

/-- The two decode causes (R64, R237). -/
inductive DecodeCause where
  | illegalInstruction | illegalLength
  deriving DecidableEq, Repr

/-- The three register pages a host reaches (R325): the management page, a virtual device's
hypervisor page and its control page. -/
inductive RegPage where
  | mgmt
  | hyper (vd : Nat)
  | control (vd : Nat)
  deriving DecidableEq, Repr

/-- Answers to a page request (R320). -/
inductive PageAnswer where
  | success | invalid | failure
  deriving DecidableEq, Repr

/-- The instructions and the hardware steps: one constructor for each row of the opcode table, in its order. -/
inductive Instr where
  /-- PAD_WORD (R45): A pad word is skipped by fetch: it takes no issue slot and changes only the fetch address. -/
  | padWord
  /-- ADD (R101): Writes and pushes the 64-bit wrapped sum a + b. -/
  | add (h : Head) (a : Src) (b : IOp)
  /-- SUB (R101): Writes and pushes the 64-bit wrapped difference a − b. -/
  | sub (h : Head) (a : Src) (b : IOp)
  /-- MUL (R101): Writes bits [63:0] of a × b, at latency 3. -/
  | mul (h : Head) (a : Src) (b : IOp)
  /-- MULH (R101): Writes the high 64 bits of the signed 128-bit product. -/
  | mulh (h : Head) (a : Src) (b : IOp)
  /-- MULHU (R101): Writes the high 64 bits of the unsigned 128-bit product. -/
  | mulhu (h : Head) (a : Src) (b : IOp)
  /-- DIV (R101): Signed division; division by zero gives all ones and sets DZ. -/
  | div (h : Head) (a : Src) (b : IOp)
  /-- DIVU (R101): Unsigned division; division by zero gives all ones and sets DZ. -/
  | divu (h : Head) (a : Src) (b : IOp)
  /-- REM (R101): Signed remainder, which takes the sign of the dividend. -/
  | rem (h : Head) (a : Src) (b : IOp)
  /-- REMU (R101): Unsigned remainder. -/
  | remu (h : Head) (a : Src) (b : IOp)
  /-- MIN (R101): Writes the signed minimum of a and b. -/
  | minS (h : Head) (a : Src) (b : IOp)
  /-- MAX (R101): Writes the signed maximum of a and b. -/
  | maxS (h : Head) (a : Src) (b : IOp)
  /-- MINU (R101): Writes the unsigned minimum of a and b. -/
  | minu (h : Head) (a : Src) (b : IOp)
  /-- MAXU (R101): Writes the unsigned maximum of a and b. -/
  | maxu (h : Head) (a : Src) (b : IOp)
  /-- AND (R102): Writes the bitwise AND of a and b. -/
  | andW (h : Head) (a : Src) (b : IOp)
  /-- OR (R102): Writes the bitwise OR of a and b. -/
  | orW (h : Head) (a : Src) (b : IOp)
  /-- XOR (R102): Writes the bitwise XOR of a and b. -/
  | xorW (h : Head) (a : Src) (b : IOp)
  /-- ANDN (R102): Writes a AND NOT b. -/
  | andn (h : Head) (a : Src) (b : IOp)
  /-- ORN (R102): Writes a OR NOT b. -/
  | orn (h : Head) (a : Src) (b : IOp)
  /-- SHL (R102): Shifts a left by the low 6 bits of b. -/
  | shl (h : Head) (a : Src) (b : IOp)
  /-- SHR (R102): Shifts a right logically by the low 6 bits of b. -/
  | shr (h : Head) (a : Src) (b : IOp)
  /-- SRA (R102): Shifts a right arithmetically by the low 6 bits of b. -/
  | sra (h : Head) (a : Src) (b : IOp)
  /-- ROT (R102): Rotates a left by the low 6 bits of b. -/
  | rot (h : Head) (a : Src) (b : IOp)
  /-- CLZ (R103): Counts the leading zero bits of a. -/
  | clz (h : Head) (a : Src)
  /-- CTZ (R103): Counts the trailing zero bits of a. -/
  | ctz (h : Head) (a : Src)
  /-- POPC (R103): Counts the one bits of a. -/
  | popc (h : Head) (a : Src)
  /-- BEXT (R103): Extracts a bit field of a under a control word. -/
  | bext (h : Head) (a : Src) (b : IOp)
  /-- BINS (R103): Inserts b into a bit field of a under a control word. -/
  | bins (h : Head) (a b : Src) (c : IOp)
  /-- SEXT (R103): Sign-extends the low n bits of a. -/
  | sext (h : Head) (a : Src) (b : IOp)
  /-- ZEXT (R103): Zero-extends the low n bits of a. -/
  | zext (h : Head) (a : Src) (b : IOp)
  /-- SEL (R103): Selects b or c by bit 0 of a. -/
  | sel (h : Head) (a b : Src) (c : IOp)
  /-- CEQ (R104): Returns 1 if a equals b, and 0 otherwise. -/
  | ceq (h : Head) (a : Src) (b : IOp)
  /-- CNE (R104): Returns 1 if a differs from b, and 0 otherwise. -/
  | cne (h : Head) (a : Src) (b : IOp)
  /-- CLT (R104): Signed less-than compare. -/
  | clt (h : Head) (a : Src) (b : IOp)
  /-- CLE (R104): Signed less-or-equal compare. -/
  | cle (h : Head) (a : Src) (b : IOp)
  /-- CLTU (R104): Unsigned less-than compare. -/
  | cltu (h : Head) (a : Src) (b : IOp)
  /-- CLEU (R104): Unsigned less-or-equal compare. -/
  | cleu (h : Head) (a : Src) (b : IOp)
  /-- FADD (R105): FP32 addition rounded RNE. -/
  | fadd (h : Head) (a : Src) (b : FOp)
  /-- FSUB (R105): FP32 subtraction rounded RNE. -/
  | fsub (h : Head) (a : Src) (b : FOp)
  /-- FMUL (R105): FP32 multiplication rounded RNE. -/
  | fmul (h : Head) (a : Src) (b : FOp)
  /-- FFMA (R105): FP32 fused multiply-add with one rounding. -/
  | ffma (h : Head) (a b : Src) (c : FOp)
  /-- FMIN (R105): FP32 minimum under R82. -/
  | fmin (h : Head) (a : Src) (b : FOp)
  /-- FMAX (R105): FP32 maximum under R82. -/
  | fmax (h : Head) (a : Src) (b : FOp)
  /-- FABS (R105): Clears bit 31 of a. -/
  | fabs (h : Head) (a : Src)
  /-- FNEG (R105): Inverts bit 31 of a. -/
  | fneg (h : Head) (a : Src)
  /-- FRCP (R105): Correctly rounded FP32 reciprocal. -/
  | frcp (h : Head) (a : Src)
  /-- FRSQ (R105): Correctly rounded FP32 reciprocal square root. -/
  | frsq (h : Head) (a : Src)
  /-- FCEQ (R106): FP32 equality compare. -/
  | fceq (h : Head) (a : Src) (b : FOp)
  /-- FCLT (R106): FP32 less-than compare. -/
  | fclt (h : Head) (a : Src) (b : FOp)
  /-- FCLE (R106): FP32 less-or-equal compare. -/
  | fcle (h : Head) (a : Src) (b : FOp)
  /-- FCLASS (R106): Returns a one-hot class mask of a. -/
  | fclass (h : Head) (a : Src)
  /-- FCVT (R107): Converts one operand by the kind and rounding mode in its option field. -/
  | fcvt (h : Head) (a : Src) (k : CvtKind) (rm : Rm)
  /-- MOVI (R108): Writes the sign-extended 16-bit immediate. -/
  | movi (h : Head) (v : BitVec 16)
  /-- MOVHI (R108): Writes the literal as bits [63:32] above bits [31:0] of a. -/
  | movhi (h : Head) (a : Src) (v : W32)
  /-- MOV (R108): Copies a register. -/
  | movR (h : Head) (a : Src)
  /-- LIT (R108): Writes the sign-extended 32-bit literal. -/
  | lit (h : Head) (v : W32)
  /-- PSET (R109): Sets An and ASn. -/
  | pset (h : Head) (p : Fin 8) (a b : Src)
  /-- PSET_KEEP (R109): Sets An and keeps ASn (KS = 1). -/
  | psetKeep (h : Head) (p : Fin 8) (a : Src)
  /-- PADD (R109): Adds a register to An. -/
  | padd (h : Head) (p : Fin 8) (a : Src)
  /-- PADD_IMM (R109): Adds a sign-extended literal to An. -/
  | paddImm (h : Head) (p : Fin 8) (v : W32)
  /-- PGET (R109): Returns An, or ASn with S = 1. -/
  | pget (h : Head) (p : Fin 8) (stride : Bool)
  /-- BR (R110): Jumps by a 16-bit word offset; with a guard it is the conditional branch. -/
  | br (h : Head) (o : BitVec 16)
  /-- JMP (R110): Jumps by a 32-bit word offset. -/
  | jmp (h : Head) (o : W32)
  /-- CALL (R110): Writes the return address and jumps. -/
  | call (h : Head) (o : W32)
  /-- RET (R110): Jumps to the return address held in a register. -/
  | ret (h : Head) (a : Src)
  /-- BRX (R110): Jumps to the address held in a register. -/
  | brx (h : Head) (a : Src)
  /-- LOOP (R113): Opens a hardware loop level, or skips the body when the count is zero. -/
  | loopI (h : Head) (a : Src) (o : W32)
  /-- HSTART (R116): Starts a helper context at a target. -/
  | hstart (h : Head) (n : BitVec 4) (o : W32)
  /-- HJOIN (R117): Waits for a helper to end. -/
  | hjoin (h : Head) (n : BitVec 4)
  /-- HEXIT (R118): Ends the issuing helper and merges its flags into the control context. -/
  | hexit (h : Head)
  /-- NOP (R120): Takes one issue slot and has no other effect. -/
  | nop (h : Head)
  /-- LD (R125): Loads from the local address space, with optional acquire. -/
  | ld (h : Head) (m : MemOp) (sz : Size) (uns : Bool) (acq : Option Scope)
  /-- ST (R125): Stores to the local address space, with optional release. -/
  | st (h : Head) (m : MemOp) (sz : Size) (rel : Option Scope) (b : Src)
  /-- LDG (R131): Loads from global memory through translation. -/
  | ldg (h : Head) (m : MemOp) (sz : Size) (uns : Bool) (acq : Option Scope)
  /-- STG (R131): Stores to global memory, which completes at the home M-die. -/
  | stg (h : Head) (m : MemOp) (sz : Size) (rel : Option Scope) (b : Src)
  /-- GLOBAL_LOAD_RETURN (R131): The data of a global load returns and its result is written. -/
  | globalLoadReturn (c : CtxId)
  /-- STG_HOME_PERFORM (R131): A global store is performed at its home M-die and completes. -/
  | stgHomePerform (c : CtxId)
  /-- PEER_LOAD_TARGET_READ (R128): A peer load is checked and read at the target slice. -/
  | peerLoadTargetRead (c : CtxId)
  /-- LDSYNC (R134): Waits while the word is EMPTY, then loads it. -/
  | ldsync (h : Head) (m : MemOp)
  /-- LDSYNC_C (R134): Waits while the word is EMPTY, loads it and sets it EMPTY. -/
  | ldsyncC (h : Head) (m : MemOp)
  /-- STFULL (R134): Stores a word and sets it FULL. -/
  | stfull (h : Head) (m : MemOp) (b : Src)
  /-- SETEMPTY (R134): Sets a word EMPTY. -/
  | setempty (h : Head) (m : MemOp)
  /-- AMO_SWAP (R135): Atomic swap. -/
  | amoSwap (h : Head) (x : AmoArgs)
  /-- AMO_CAS (R135): Atomic compare-and-swap. -/
  | amoCas (h : Head) (x : AmoArgs) (c : Src)
  /-- AMO_ADD (R135): Atomic integer add. -/
  | amoAdd (h : Head) (x : AmoArgs)
  /-- AMO_FADD (R135): Atomic FP32 add. -/
  | amoFadd (h : Head) (x : AmoArgs)
  /-- AMO_MIN (R135): Atomic signed minimum. -/
  | amoMin (h : Head) (x : AmoArgs)
  /-- AMO_MAX (R135): Atomic signed maximum. -/
  | amoMax (h : Head) (x : AmoArgs)
  /-- AMO_AND (R135): Atomic AND. -/
  | amoAnd (h : Head) (x : AmoArgs)
  /-- AMO_OR (R135): Atomic OR. -/
  | amoOr (h : Head) (x : AmoArgs)
  /-- AMO_XOR (R135): Atomic XOR. -/
  | amoXor (h : Head) (x : AmoArgs)
  /-- AMO_HOME_REPLY (R135): The home of a global atomic replies and the result is written. -/
  | amoHomeReply (c : CtxId)
  /-- RED_ADD (R137): Update-only add in the reduction window. -/
  | redAdd (h : Head) (x : RedArgs)
  /-- RED_FADD (R137): Update-only FP32 add in the reduction window. -/
  | redFadd (h : Head) (x : RedArgs)
  /-- RED_MIN (R137): Update-only minimum in the reduction window. -/
  | redMin (h : Head) (x : RedArgs)
  /-- RED_MAX (R137): Update-only maximum in the reduction window. -/
  | redMax (h : Head) (x : RedArgs)
  /-- RED_AND (R137): Update-only AND in the reduction window. -/
  | redAnd (h : Head) (x : RedArgs)
  /-- RED_OR (R137): Update-only OR in the reduction window. -/
  | redOr (h : Head) (x : RedArgs)
  /-- RED_XOR (R137): Update-only XOR in the reduction window. -/
  | redXor (h : Head) (x : RedArgs)
  /-- FENCE (R132): Full fence at a scope. -/
  | fence (h : Head) (sc : Scope)
  /-- FENCE_ACQ (R132): Acquire fence at a scope. -/
  | fenceAcq (h : Head) (sc : Scope)
  /-- FENCE_REL (R132): Release fence at a scope. -/
  | fenceRel (h : Head) (sc : Scope)
  /-- BAR_ARV (R142): Arrives at a domain barrier level without waiting. -/
  | barArv (h : Head) (lvl : Fin 4)
  /-- BAR_WAIT (R141): Waits on a phase token. -/
  | barWait (h : Head) (t : Src) (lvl : Fin 4)
  /-- BAR_SYNC (R142): Arrives at a domain barrier and waits for the phase to complete. -/
  | barSync (h : Head) (lvl : Fin 4)
  /-- HELD_ARRIVAL_PERFORM (R142): A held barrier arrival is performed once the context's earlier commands complete. -/
  | heldArrivalPerform (c : CtxId)
  /-- BARRIER_PHASE_COMPLETE (R261): A domain phase completes when every grain has arrived and the pending bytes are zero; the phase advances and bound rings rotate. -/
  | barrierPhaseComplete (sheaf dom : Nat)
  /-- EVSIG (R144): Fires an event line and forwards the fire to the chosen cluster tiles. -/
  | evsig (h : Head) (n : Fin 32)
  /-- EVENT_FIRE_ARRIVE (R144): A forwarded event fire sets FIRED in the target tile. -/
  | eventFireArrive (tile : Nat) (n : Fin 32)
  /-- EVWAIT_LOAD (R143): A load of EVWAITn waits until FIRED, clears it and returns 1. -/
  | evwaitLoad (h : Head) (n : Fin 32)
  /-- MUTEX_TAKE (R146): A load of MXm waits until the mutex is free and takes it. -/
  | mutexTake (h : Head) (m : Fin 16)
  /-- MUTEX_TRY (R143): A load of MXTRYm takes the mutex if it is free, and never waits. -/
  | mutexTry (h : Head) (m : Fin 16)
  /-- MUTEX_RELEASE (R146): A store to MXm releases the mutex held by the issuing context. -/
  | mutexRelease (h : Head) (m : Fin 16)
  /-- TILE_BARRIER_ARRIVE (R147): A store to TBARVb arrives and can complete the tile barrier phase. -/
  | tileBarrierArrive (h : Head) (b : Fin 8)
  /-- TILE_BARRIER_WAIT (R147): A load of TBWAITb waits while the issuing context's arrival is outstanding. -/
  | tileBarrierWait (h : Head) (b : Fin 8)
  /-- TBCFG_WRITE (R147): A write of COUNT, which can complete or disable the tile barrier. -/
  | tbcfgWrite (h : Head) (b : Fin 8) (v : Src)
  /-- RDV_PUT (R148): Inserts a key and value into the core's mailbox. -/
  | rdvPut (h : Head) (key val : Src)
  /-- RDV_GET (R148): Waits for an entry with an equal key and takes the oldest one. -/
  | rdvGet (h : Head) (key : Src)
  /-- RQCFG_WRITE (R149): A write to a remote queue's configuration, which enables it (resetting its indices) or disables it. -/
  | rqcfgWrite (h : Head) (q : Fin 2) (n : Fin 16) (v : Src)
  /-- RQPUT (R150): Reserves an entry in a remote queue and sends a message to it. -/
  | rqput (h : Head) (p : Fin 8) (desc : Src) (len : Fin 8)
  /-- RQPUT_RESERVATION_ARRIVE (R150): A reservation reaches the target queue and is checked. -/
  | rqputReservationArrive (c : CtxId)
  /-- RQPUT_DELIVER (R150): A message is delivered into its reserved entry. -/
  | rqputDeliver (c : CtxId)
  /-- RQ_FREE_NOTICE (R150): The sender learns of an entry that an rqtake has freed. -/
  | rqFreeNotice (tile : Nat) (q : Fin 2) (n : Fin 16)
  /-- RQTAKE (R151): Waits for a message and takes it from the own quad's queue. -/
  | rqtake (h : Head) (p : Fin 8) (qn : Src)
  /-- RING_DEF (R152): Defines or undefines a ring. -/
  | ringDef (h : Head) (base size : Src) (d n : BitVec 5) (lvl : Fin 4) (k : Fin 8)
  /-- VADD (R167): Element-wise addition. -/
  | vadd (h : Head) (v : VArgs)
  /-- VSUB (R167): Element-wise subtraction. -/
  | vsub (h : Head) (v : VArgs)
  /-- VMUL (R167): Element-wise multiplication. -/
  | vmul (h : Head) (v : VArgs)
  /-- VFMA (R167): Element-wise fused multiply-add. -/
  | vfma (h : Head) (v : VArgs)
  /-- VFMS (R167): Element-wise fused multiply-subtract. -/
  | vfms (h : Head) (v : VArgs)
  /-- VMIN (R167): Element-wise minimum. -/
  | vmin (h : Head) (v : VArgs)
  /-- VMAX (R167): Element-wise maximum. -/
  | vmax (h : Head) (v : VArgs)
  /-- VABS (R167): Element-wise absolute value. -/
  | vabs (h : Head) (v : VArgs)
  /-- VNEG (R167): Element-wise negation. -/
  | vneg (h : Head) (v : VArgs)
  /-- VEXP2 (R168): Element-wise correctly rounded 2^x. -/
  | vexp2 (h : Head) (v : VArgs)
  /-- VLOG2 (R168): Element-wise correctly rounded log2 x. -/
  | vlog2 (h : Head) (v : VArgs)
  /-- VRCP (R168): Element-wise correctly rounded reciprocal. -/
  | vrcp (h : Head) (v : VArgs)
  /-- VRSQ (R168): Element-wise correctly rounded reciprocal square root. -/
  | vrsq (h : Head) (v : VArgs)
  /-- VCVT (R169): Element-wise type conversion. -/
  | vcvt (h : Head) (v : VArgs)
  /-- VAND (R170): Element-wise AND. -/
  | vand (h : Head) (v : VArgs)
  /-- VOR (R170): Element-wise OR. -/
  | vor (h : Head) (v : VArgs)
  /-- VXOR (R170): Element-wise XOR. -/
  | vxor (h : Head) (v : VArgs)
  /-- VSHL (R170): Element-wise shift left. -/
  | vshl (h : Head) (v : VArgs)
  /-- VSHR (R170): Element-wise logical shift right. -/
  | vshr (h : Head) (v : VArgs)
  /-- VSRA (R170): Element-wise arithmetic shift right. -/
  | vsra (h : Head) (v : VArgs)
  /-- VCMP (R171): Element-wise compare that writes 1 or 0. -/
  | vcmp (h : Head) (v : VArgs)
  /-- VSEL (R172): Element-wise select by bit 0 of x. -/
  | vsel (h : Head) (v : VArgs)
  /-- VBCAST (R173): Broadcasts one value to every element. -/
  | vbcast (h : Head) (v : VArgs)
  /-- VMOV (R173): Copies elements bit for bit. -/
  | vmov (h : Head) (v : VArgs)
  /-- VPERM (R174): Permutes elements by a pattern or by indices. -/
  | vperm (h : Head) (v : VArgs)
  /-- VREDADD (R175): Tree-sum reduction to a scalar. -/
  | vredadd (h : Head) (v : VArgs)
  /-- VREDMAX (R175): Tree-maximum reduction to a scalar. -/
  | vredmax (h : Head) (v : VArgs)
  /-- VREDMIN (R175): Tree-minimum reduction to a scalar. -/
  | vredmin (h : Head) (v : VArgs)
  /-- VSCAN (R176): Writes inclusive prefix results. -/
  | vscan (h : Head) (v : VArgs)
  /-- VGATH (R177): Gathers local elements by index, group by group. -/
  | vgath (h : Head) (v : VArgs)
  /-- VSCAT (R177): Scatters elements to local addresses by index, group by group. -/
  | vscat (h : Head) (v : VArgs)
  /-- VECTOR_GROUP (R177): One 16-lane group of a gather or scatter is checked and moved. -/
  | vectorGroup (c : CtxId)
  /-- VECTOR_COMPLETION (R163): A vector instruction completes: its destination is written and its flags are merged. -/
  | vectorCompletion (quad n : Nat)
  /-- VSETVL (R179): Sets VL from a register. -/
  | vsetvl (h : Head) (a : Src)
  /-- VSETVL_IMM (R179): Sets VL from an immediate. -/
  | vsetvlImm (h : Head) (n : BitVec 8)
  /-- MWLD (R190): Builds a weight image from a dense local B. -/
  | mwld (h : Head) (m : MArgs)
  /-- MWLD_IMG (R190): Copies a prepared weight image into the weight buffer. -/
  | mwldImg (h : Head) (g : Src) (m : MArgs)
  /-- MWLD_GL (R190): Builds a weight image from a dense global B. -/
  | mwldGl (h : Head) (g : Src) (m : MArgs)
  /-- MMA (R194): Accumulates A × B into an accumulator tile. -/
  | mma (h : Head) (m : MArgs)
  /-- MMA_SP (R195): Accumulates A × B over the K-blocks that a skip list selects. -/
  | mmaSp (h : Head) (m : MArgs)
  /-- MZERO (R196): Zeroes rows of an accumulator tile. -/
  | mzero (h : Head) (m : MArgs)
  /-- MACC_RD (R196): Writes accumulator rows to local memory. -/
  | maccRd (h : Head) (m : MArgs)
  /-- MACC_WR (R196): Writes local memory into accumulator rows. -/
  | maccWr (h : Head) (m : MArgs)
  /-- MACQ (R187): Acquires an accumulator tile and zeroes it. -/
  | macq (h : Head) (a : Fin 64)
  /-- MREL (R187): Frees an owned accumulator tile once no command names it. -/
  | mrel (h : Head) (a : Fin 64)
  /-- MPIN (R187): Pins an owned accumulator tile to the sheaf. -/
  | mpin (h : Head) (a : Fin 64)
  /-- MUNPIN (R187): Unpins a pinned tile to the issuing grain. -/
  | munpin (h : Head) (a : Fin 64)
  /-- MSTAT (R197): Returns an ownership entry, the skip stream or the tile-op count. -/
  | mstat (h : Head) (m : MArgs)
  /-- DELTA_UPD (R200): Applies one gated-delta token update to a state tile. -/
  | deltaUpd (h : Head) (m : MArgs)
  /-- DELTA_CHUNK (R200): Applies up to 16 token updates and writes an output after each. -/
  | deltaChunk (h : Head) (m : MArgs)
  /-- DELTA_QRY (R200): Computes a query output from the state tile. -/
  | deltaQry (h : Head) (m : MArgs)
  /-- TILE_OP (R184): The arbiter grants the array and one tile-op of a queued command runs. -/
  | tileOp (tile : Nat)
  /-- MATRIX_COMMAND_COMPLETE (R194): A queued matrix command completes after its last tile-op or transfer. -/
  | matrixCommandComplete (tile core : Nat)
  /-- MATRIX_ERROR_END (R205): A queued command that meets an uncorrectable error ends, and a deferred MEMORY_ERROR is taken. -/
  | matrixErrorEnd (tile core : Nat)
  /-- TILE_RESTORE (R188): Spelt restores a SPILLED accumulator tile on demand. -/
  | tileRestore (tile : Nat) (a : Fin 64)
  /-- CPY (R213): A one-row copy between local memory and global, host or remote tile memory. -/
  | cpy (h : Head) (sa sb sc : Src) (e : CpyArgs)
  /-- CPY_2D (R213): A multi-row copy with strides. -/
  | cpy2d (h : Head) (sa sb sc sd : Src) (e : CpyArgs)
  /-- ENGINE_TRANSLATION_DONE (R214): The translation pass of an engine command ends and the command enters its channel. -/
  | engineTranslationDone (c : CtxId)
  /-- CHANNEL_LINE_WRITE (R212): A channel writes one line, sets its words FULL and advances WPn. -/
  | channelLineWrite (tile : Nat) (ch : Fin 8)
  /-- ENGINE_COMMAND_COMPLETE (R212): An engine command completes and frees its scoreboard entry. -/
  | engineCommandComplete (tile : Nat) (ch : Fin 8)
  /-- ENGINE_FAULT_END (R215): A command in a channel meets a fault and ends, and a deferred trap is taken. -/
  | engineFaultEnd (tile : Nat) (ch : Fin 8)
  /-- WPWAIT (R216): Waits until a channel's write pointer reaches a threshold. -/
  | wpwait (h : Head) (ch : Fin 8) (a : Src)
  /-- GATH (R217): Gathers table rows from global memory into local memory. -/
  | gath (h : Head) (sa sb sc sd : Src) (e : GathArgs)
  /-- COLL (R218): Runs one member of a ring all-gather or reduce-scatter. -/
  | coll (h : Head) (sa sb sc : Src) (e : CollArgs)
  /-- SNAP (R219): Copies global memory as it stood at a checkpoint. -/
  | snap (h : Head) (sa sb sc sd : Src) (ch : Fin 8)
  /-- SIG_DEC (R220): Decrements a signal object, saturating at zero. -/
  | sigDec (h : Head) (p : Fin 8) (b : Src)
  /-- LAUNCH (R221): Submits a launch record from a kernel. -/
  | launch (h : Head) (rec : Src)
  /-- LAUNCH_ACCEPT (R221): A waiting launch record enters the pending list and its result is written. -/
  | launchAccept (c : CtxId)
  /-- ARM (R222): Arms a launch record for a message tag. -/
  | arm (h : Head) (rec tag : Src) (persist : Bool)
  /-- DISARM (R222): Removes an armed tag. -/
  | disarm (h : Head) (tag : Src)
  /-- CKT_REQ (R223): Asks Brome for a circuit. -/
  | cktReq (h : Head) (dest slots : Src) (k : CktKind)
  /-- CKT_REL (R224): Releases a circuit after its commands complete. -/
  | cktRel (h : Head) (a : Src)
  /-- CKT_STAT (R224): Returns the state of a circuit. -/
  | cktStat (h : Head) (a : Src)
  /-- LOCQ (R225): Answers a locality query. -/
  | locq (h : Head) (a : Src) (sel : Fin 3)
  /-- TFENCE (R226): Waits for all earlier work, then takes the arithmetic trap if enabled flags are set. -/
  | tfence (h : Head)
  /-- TRAP (R227): Raises a TRAP to the context's handler. -/
  | trapN (h : Head) (n : BitVec 8)
  /-- SVC (R227): Stops the context and reports it to the host. -/
  | svc (h : Head) (n : BitVec 8)
  /-- ERET (R228): Completes or drops the restart record and leaves the handler. -/
  | eret (h : Head)
  /-- SRD (R229): Reads a context system register. -/
  | srd (h : Head) (n : BitVec 9)
  /-- SWR (R229): Writes a context system register. -/
  | swr (h : Head) (n : BitVec 9) (a : Src)
  /-- SRS_RD (R230): Reads a device register of a unit. -/
  | srsRd (h : Head) (u : Src) (n : BitVec 16)
  /-- SRS_WR (R230): Writes a device register of a unit. -/
  | srsWr (h : Head) (u b : Src) (n : BitVec 16)
  /-- SRS_RD_ANSWER (R230): The unit answers an srs.rd and the result is written. -/
  | srsRdAnswer (c : CtxId) (k : Nat)
  /-- PRIO (R231): Sets the grain's priority, capped at the launch priority. -/
  | prio (h : Head) (n : BitVec 4)
  /-- TIME (R232): Returns slots, core cycles or issued instructions. -/
  | time (h : Head) (sel : Fin 3)
  /-- CHKPT (R233): Takes a checkpoint and returns its number. -/
  | chkpt (h : Head)
  /-- PWR_REQ (R234): Sets the core's operating-point request. -/
  | pwrReq (h : Head) (k : Fin 8)
  /-- HALT (R235): Ends the grain after its commands complete. -/
  | halt (h : Head)
  /-- BANKPWR_WRITE (R130): A write of bank power states that gates, retains or wakes banks. -/
  | bankpwrWrite (core : Nat) (k : Fin 8) (v : W64)
  /-- BANK_WAKE_DONE (R130): A bank finishes its 64-cycle wake from OFF, filled with zeros and EMPTY. -/
  | bankWakeDone (core bank : Nat)
  /-- RET_BANK_WAKE (R129): A retention bank wakes 24 cycles after an access reaches it. -/
  | retBankWake (core bank : Nat)
  /-- MQWT_WRITE (R183): A core writes its own matrix arbitration weight. -/
  | mqwtWrite (h : Head) (c : Fin 8) (v : Src)
  /-- LQ_ENABLE (R264): A write to LQCTLp that sets EN resets HEAD and NOTIFY and clears ERR. -/
  | lqEnable (vd : Nat) (p : Fin 12) (v : W64)
  /-- LQ_NOTIFY (R264): A write to LQNOTIFYp raises NOTIFY to the written stamp. -/
  | lqNotify (vd : Nat) (p : Fin 12) (v : W64)
  /-- LQ_FETCH (R265): The fetcher reads the slot at HEAD and accepts the record if its stamp matches. -/
  | lqFetch (vd : Nat) (p : Fin 12)
  /-- LQ_REREAD_TIMER (R265): 256 slots after a mismatch the fetcher reads again, or stops with QUEUE_SEQUENCE after 64 tries. -/
  | lqRereadTimer (vd : Nat) (p : Fin 12)
  /-- TAGGED_LAUNCH_MESSAGE (R266): A tagged message launches its armed record, or counts as a tag miss. -/
  | taggedLaunchMessage (vd : Nat) (tag : W16) (payload : List Byte)
  /-- WAITVA_POLL (R267): The signal at WAITVA is read and the sheaf moves to PENDING when it reads zero. -/
  | waitvaPoll (sheaf : Nat)
  /-- SHEAF_PLACE (R268): The scheduler places a pending sheaf whole. -/
  | sheafPlace (sheaf : Nat)
  /-- PLACEMENT_RETEST (R262): After a partition or die-map change, waiting sheaves that can never fit are retired. -/
  | placementRetest (vd : Nat)
  /-- SHEAF_STOP (R284): A stop request stops a sheaf at a superstep boundary and saves it. -/
  | sheafStop (sheaf : Nat)
  /-- STOP_TIMEOUT (R268): After 2^20 slots with no boundary the sheaf is stopped part-way. -/
  | stopTimeout (sheaf : Nat)
  /-- SPELT_SAVE_DONE (R291): Spelt finishes writing a save area and the sheaf's units are released. -/
  | speltSaveDone (sheaf : Nat)
  /-- SHEAF_RESUME (R292): A stopped sheaf is placed again and restored. -/
  | sheafResume (sheaf : Nat)
  /-- AGE_LIMIT_EXPIRY (R269): A sheaf's age passes its limit and a target area is cleared for it. -/
  | ageLimitExpiry (sheaf : Nat)
  /-- SHEAF_MIGRATE (R269): A running sheaf moves out of a target area at its superstep boundary. -/
  | sheafMigrate (sheaf vc target : Nat)
  /-- SHEAF_RETIRE (R272): After all grains retire, resources are released, the signal is decremented and SIGNAL is posted. -/
  | sheafRetire (sheaf : Nat)
  /-- GANG_RESERVED (R270): A member's RESERVED message reaches the gang leader. -/
  | gangReserved (sheaf pkg : Nat)
  /-- GANG_COMMIT (R270): A member receives COMMIT and starts its grains in slot T. -/
  | gangCommit (sheaf slot : Nat)
  /-- GANG_START_SLOT (R270): Slot T arrives and a committed member starts its grains. -/
  | gangStartSlot (sheaf : Nat)
  /-- GANG_ARRIVAL_MESSAGE (R271): Level-4 arrivals arrive on the gang circuit, and a reserved member answers MISSING. -/
  | gangArrivalMessage (sheaf pkg : Nat) (missing : Bool)
  /-- GKREQ_WRITE (R347): The driver requests the gang circuit by port and link tag. -/
  | gkreqWrite (vd : Nat) (v : W64)
  /-- GANGN_WRITE (R270): The host sets a gang-table entry; enabling with PKGS zero is ignored. -/
  | gangnWrite (vd : Nat) (n : Fin 16) (v : W64)
  /-- DEADLOCK_DETECT (R275): With every park line raised, nothing in flight and no host wake, each parked context takes DEADLOCK. -/
  | deadlockDetect (sheaf : Nat)
  /-- SVCRES_WRITE (R274): Resumes a context stopped by svc or by an unhandled trap. -/
  | svcresWrite (vd : Nat) (v : W64)
  /-- BATCH_SERVE (R278): A deterministic batch of requests is served in key order. -/
  | batchServe (sheaf q : Nat)
  /-- CHECKPOINT_COPY_DONE (R297): A marked item is copied into the save area after a checkpoint. -/
  | checkpointCopyDone (sheaf : Nat)
  /-- UNNUMBERED_CHECKPOINT (R299): In rollback mode an unlogged instruction is followed by a checkpoint without a number. -/
  | unnumberedCheckpoint (c : CtxId)
  /-- SLICE_END (R298): A tenant slice ends by save or by rollback. -/
  | sliceEnd (part : Fin 8)
  /-- SAVE_START_TIMER (R298): At the end slot less the save time, running sheaves stop for a save. -/
  | saveStartTimer (part : Fin 8)
  /-- TENANT_TURN (R360): A partition's turn passes to the next virtual device with work. -/
  | tenantTurn (part : Fin 8)
  /-- TLBINV1_WRITE (R312): Queues a VA invalidation for the virtual device. -/
  | tlbinv1Write (vd : Nat) (v : W64)
  /-- TLBINV2_WRITE (R312): Queues an IPA invalidation for the virtual device. -/
  | tlbinv2Write (vd : Nat) (v : W64)
  /-- TLB_INVALIDATION_DONE (R312): An invalidation completes as a release and DONE increases. -/
  | tlbInvalidationDone (vd : Nat) (stage2 : Bool)
  /-- PTDATA_WRITE (R326): Stores a stage-1 entry through stage 2 as a release at .sys. -/
  | ptdataWrite (vd : Nat) (v : W64)
  /-- S2PTDATA_WRITE (R326): Stores a stage-2 entry. -/
  | s2ptdataWrite (vd : Nat) (v : W64)
  /-- S2PTCLR (R326): Atomically clears bits of a stage-2 entry and latches the old value. -/
  | s2ptclr (vd : Nat) (v : W64)
  /-- PAGE_MOVE (R318): A write of PGCMD with GO starts a page copy between device and host. -/
  | pageMove (vd : Nat) (v : W64)
  /-- PAGE_MOVE_DONE (R318): A page move finishes and BUSY clears. -/
  | pageMoveDone (vd : Nat)
  /-- PAGE_RESPONSE (R320): A page response arrives and resumes or fails the faulting contexts, or is discarded as stale. -/
  | pageResponse (pasid : BitVec 20) (prg : BitVec 9) (a : PageAnswer)
  /-- ATS_TRANSLATION_COMPLETION (R320): The host answers an ATS translation request for an H-kind copy. -/
  | atsTranslationCompletion (c : CtxId) (granted : Bool) (host : W64)
  /-- ATS_INVALIDATION_REQUEST (R322): The host invalidates an ATC entry and is answered once copies have passed the page. -/
  | atsInvalidationRequest (vd : Nat) (va : W64) (bytes : Nat)
  /-- VD_RESET (R321): A write of VDCTL.RESET resets the virtual device and starts the zeroing pass. -/
  | vdReset (vd : Nat) (v : W64)
  /-- ZEROING_DONE (R363): The zeroing pass finishes and READY is set. -/
  | zeroingDone (vd : Nat)
  /-- KEY_LOAD (R316): KEYCMD loads a key slot from KEYDATA. -/
  | keyLoad (slot : BitVec 13)
  /-- KEY_CLEAR (R316): KEYCMD clears a key slot. -/
  | keyClear (slot : BitVec 13)
  /-- SIGNAL_WINDOW_READ (R325): A read of the VF signal window returns a global word as an acquire at .sys. -/
  | signalWindowRead (vd : Nat) (off : BitVec 20)
  /-- HOST_UNSUPPORTED_ACCESS (R325): A register access that is not aligned to 8 bytes completes as Unsupported Request. -/
  | hostUnsupportedAccess (page : RegPage) (off bytes : Nat)
  /-- FABCFG_WRITE (R329): Changes W, or is refused while circuits exist; Brome rebuilds the standing circuits. -/
  | fabcfgWrite (v : W64)
  /-- FABQUOTA_WRITE (R335): Sets fabric quotas, and lowering them makes Brome shrink circuits. -/
  | fabquotaWrite (vd : Nat) (v : W64)
  /-- CONFIG_TRAIN (R338): A collection train starts each turn and gathers circuit messages toward Brome. -/
  | configTrain
  /-- BROME_REQUEST (R339): Brome handles a circuit request, chooses slots and sends table writes. -/
  | bromeRequest
  /-- BROME_RELEASE (R340): Brome idles a released circuit's entries. -/
  | bromeRelease
  /-- BROME_ANSWER (R339): A circuit answer reaches the requester and the ckt.req result is written. -/
  | bromeAnswer
  /-- CIRCUIT_RESIZE (R340): Brome shrinks or grows a virtual device's circuits. -/
  | circuitResize (vd : Nat)
  /-- CIRCUIT_FLIT_ARRIVE (R331): A flit's words become visible at the target, or the flit is discarded on a CRC failure. -/
  | circuitFlitArrive (handle : Nat) (crcOk : Bool)
  /-- MEM_REQUEST_INJECT (R342): A memory request waits for its circuit's injection slot and is sent. -/
  | memRequestInject (c : CtxId)
  /-- MEM_RESPONSE (R342): An M-die response flit returns to the requesting tile. -/
  | memResponse (c : CtxId)
  /-- PORT_CFG_WRITE (R345): Enables a scale-out port or sets its mode. -/
  | portCfgWrite (p : Fin 16) (v : W64)
  /-- PTP_MESSAGE (R347): An IEEE 1588 event message aligns or trims the slot counter. -/
  | ptpMessage (p : Fin 16) (offset : Int) (delay : W16)
  /-- ETH_LAUNCH_FRAME (R348): A launch-message frame is received and its payload goes to the receive buffer. -/
  | ethLaunchFrame (p : Fin 16) (payload : List Byte)
  /-- ETH_BULK_FRAME (R348): A bulk frame moves between the port and the host-link share. -/
  | ethBulkFrame (p : Fin 16) (vd : Nat) (host : Nat) (payload : List Byte)
  /-- POINT_TRANSITION (R351): A quad changes operating point by ramping the supply and switching the clock. -/
  | pointTransition (quad : Nat)
  /-- POINT_TRANSITION_DONE (R351): A point transition ends and the quad resumes issue. -/
  | pointTransitionDone (quad : Nat)
  /-- SLEW_GRANT_UP (R353): The limiter grants a tile's ramp up. -/
  | slewGrantUp (tile : Nat)
  /-- SLEW_GRANT_DOWN (R353): The limiter grants a tile's ramp down. -/
  | slewGrantDown (tile : Nat)
  /-- RAMP_STEP_END (R352): A 4-cycle ramp step ends and the next duty entry applies. -/
  | rampStepEnd (tile : Nat)
  /-- PTCTL_WRITE (R356): Enables a partition or sets its share, its slew and its clusters; conflicting writes are ignored. -/
  | ptctlWrite (n : Fin 8) (v : W64)
  /-- PTRAMP_WRITE (R356): Sets a ramp table; an invalid table is ignored. -/
  | ptrampWrite (n : Fin 8) (v : W64)
  /-- VDSCHED_WRITE (R359): Sets a virtual device's slice scheduling, or is refused with CFGERR. -/
  | vdschedWrite (vd : Nat) (v : W64)
  /-- THERMAL_SAMPLE (R357): Every 10 µs core temperatures are compared with the limit and the thermal ceilings move. -/
  | thermalSample (temps : List (Nat × Nat))
  /-- THERMLIM_WRITE (R357): Sets the junction limit, clamped to the product's range. -/
  | thermlimWrite (v : W64)
  /-- PWRCAP_WRITE (R358): Sets the power cap, clamped to the product maximum. -/
  | pwrcapWrite (v : W64)
  /-- POWER_WINDOW (R358): A 1 ms power average closes. -/
  | powerWindow (watts : Nat) (parts : List Nat)
  /-- POWER_CAP_ADJUST (R358): Every 100 µs the cap ceilings are raised or lowered. -/
  | powerCapAdjust
  /-- COLD_RESET (R364): Power-on or PERST# runs every bring-up stage. -/
  | coldReset
  /-- BRINGUP_STAGE_DONE (R364): A bring-up stage finishes and the next starts, or RECOVERY is set. -/
  | bringupStageDone (error : BitVec 8)
  /-- PF0_FLR (R364): A PF0 function-level reset resets every virtual device, the keys, the partitions and the ports. -/
  | pf0Flr
  /-- VF_FLR (R364): A VF function-level reset resets the virtual device. -/
  | vfFlr (vd : Nat)
  /-- ATT_REPORT (R367): ATTCMD starts a signed attestation report. -/
  | attReport
  /-- ATT_CERT_CHAIN (R367): ATTCMD starts a certificate-chain transfer. -/
  | attCertChain
  /-- ATTEST_DONE (R367): Xonar writes the buffer and clears BUSY. -/
  | attestDone
  /-- UNCORRECTABLE_REGISTER_ERROR (R369): An uncorrectable error in context state stops the context as an unhandled trap. -/
  | uncorrectableRegisterError (c : CtxId)
  /-- AGEING_SAMPLE (R371): Every 2^38 slots path monitors are sampled and supply guards are set. -/
  | ageingSample (guards : List (Nat × Nat))
  /-- GUARD_FORCE_TRANSITION (R371): After 2^31 slots without a transition, firmware forces one to apply the new guard. -/
  | guardForceTransition (quad : Nat)
  /-- REGISTER_WRITE (R9): A write to a register with no behaviour of its own follows its access codes. -/
  | registerWrite (page : RegPage) (off : Nat) (v : W64)
  /-- ILLEGAL_INSTRUCTION (R64): Fetch decodes a word that is no legal instruction (reserved or illegal OPM, unassigned FN, bad LEN, bad fields) and the context takes the decode trap. -/
  | illegalInstruction (cause : DecodeCause) (detail : Byte)
  /-- PENDING_RESULT_WRITE (R96): The result of a class L instruction is written into its reserved queue entry and G destination at the end of its latency. -/
  | pendingResultWrite (c : CtxId) (k : Nat)
  /-- SUPPLY_RAMP_DONE (R351): The 5 mV per µs supply ramp of a point transition reaches its target, which starts the clock switch when raising and ends the transition when lowering. -/
  | supplyRampDone (quad : Nat)
  /-- THERMAL_MOVE_DONE (R293): The copy of a hot grain's slice and core state to the idle core ends, the core table is rewritten and the contexts resume. -/
  | thermalMoveDone (core : Nat)
  /-- SPELT_RESTORE_DONE (R292): Spelt finishes writing back a stopped sheaf's tile and grain blocks, and the contexts resume at their PC. -/
  | speltRestoreDone (sheaf : Nat)
  /-- CHECKPOINT_RECORDED (R294): Spelt finishes recording a checkpoint, the sheaf continues and the chkpt result is written. -/
  | checkpointRecorded (sheaf : Nat)
  /-- KEY_COMMAND_DONE (R316): A key load or clear ends and KEYSTAT.BUSY clears. -/
  | keyCommandDone
  /-- NET_CIRCUIT_ACTIVE (R346): An inter-package circuit becomes active once the peer package's end holds the same link tag with the same slot count. -/
  | netCircuitActive (handle : Nat)
  /-- ABANDONED_SLOT_REUSE (R321): 2^24 slots after a virtual device reset abandoned a page-request slot, the slot becomes usable again, and a fault that waits for a free slot may proceed. -/
  | abandonedSlotReuse (vd : Nat) (slot : Fin 64)
  deriving DecidableEq, Repr

end Sys2Proof
end

