-- ==== Sys2Proof/WellFormed.lean ====
section
/-! DEFINITION. Which terms of `Instr` an encoding names: the result classes (02 R51), the ranges and
the unused fields (02 R52 to R63, R402; 06 R166; 07 R190 to R199; 08 R213 to R222). A term that
`wellFormed` refuses is no instruction a fetch can decode. Hardware steps have no encoding. -/

namespace Sys2Proof

/-- Class N: no result, DST 17, LA 0 (R51). -/
def Head.classN (h : Head) : Bool := h.dst == .none && h.la == 0

/-- Class S: a result in the issue cycle, LA 0 (R51). -/
def Head.classS (h : Head) : Bool := h.la == 0

/-- A 64-bit constant-bank operand has an even index (R37, R54). -/
def IOp.ok : IOp → Bool
  | .const n => n.getLsbD 0 == false
  | _ => true

/-- `ffma` has no short-immediate mode (R53). -/
def FOp.okThree : FOp → Bool
  | .imm20 _ => false
  | _ => true

/-- Sign fields: U must be 0 for size d (R61). -/
def loadOk (sz : Size) (uns : Bool) : Bool := !(sz == .d && uns)

/-- `amo.fadd` and `red.fadd` accept words only (R62). -/
def faddOk (dw : Bool) : Bool := !dw

/-- Ring operands: D from 1 to N − 1, where n is N − 1 (R152). -/
def ringOk (d n : BitVec 5) : Bool := 0 < d.toNat && d.toNat ≤ n.toNat

/-- A helper number from 1 to 10 (R62). -/
def helperOk (n : BitVec 4) : Bool := 1 ≤ n.toNat && n.toNat ≤ 10

namespace VDesc
/-- A memory descriptor (M of R166). -/
def isM : VDesc → Bool
  | .mem _ _ => true
  | _ => false
/-- A memory or scalar descriptor (M, S of R166). -/
def isMS : VDesc → Bool
  | .absent => false
  | _ => true
/-- An absent descriptor (R166). -/
def isNone : VDesc → Bool
  | .absent => true
  | _ => false
/-- Absent or memory: the Y of `vperm` (R166). -/
def isNoneM : VDesc → Bool
  | .scalar _ => false
  | _ => true
end VDesc

/-- Float element types (R157). -/
def VTy.isFloat : VTy → Bool
  | .f32 | .bf16 => true
  | _ => false

/-- The code of a vector type (R57). -/
def VTy.code : VTy → BitVec 4
  | .f32 => 0 | .bf16 => 1 | .s32 => 2 | .s16 => 3 | .s8 => 4 | .u32 => 5 | .u16 => 6 | .u8 => 7

/-- The kinds of use that a vector instruction makes of OPT (R166). -/
inductive VOpt where
  | none | sat | cvt | cond | scan
  deriving DecidableEq, Repr

/-- What R166 requires of a vector instruction: types, the kinds D, X, Y, Z, the use of OPT, RM and IMM32. -/
structure VRule where
  types : VTy → Bool
  d : VDesc → Bool
  x : VDesc → Bool
  y : VDesc → Bool
  z : VDesc → Bool
  opt : VOpt
  rm : Bool
  imm : Bool

/-- The OPT values an instruction accepts, by type (check 10 of R64, R166). -/
def VOpt.inRange (o : VOpt) (ty : VTy) (v : BitVec 6) : Bool :=
  match o with
  | .none => true
  | .sat => !(v.getLsbD 0 && ty.isFloat)
  | .cvt => (v.toNat % 16 < 8) && v.toNat % 16 != ty.code.toNat
  | .cond => true
  | .scan => v.toNat % 4 != 3

/-- The OPT bits an instruction does not use are zero (check 11 of R64, R166). -/
def VOpt.unusedZero (o : VOpt) (v : BitVec 6) : Bool :=
  match o with
  | .none => v.toNat == 0
  | .sat => v.toNat / 2 == 0
  | .cvt => v.toNat / 16 == 0
  | .cond | .scan => v.toNat / 4 == 0

/-- The IMM32 pattern of `vperm`: bits [31:16] zero, and all of it zero in the indexed form (R174). -/
def VRule.immZero (r : VRule) (v : VArgs) : Bool :=
  if r.imm then
    (if v.y.isNone then v.imm.toNat < 65536 else v.imm.toNat == 0)
  else v.imm.toNat == 0

/-- A descriptor of an allowed kind; one present where R166 has — is the business of check 11. -/
def kindOk (want : VDesc → Bool) (d : VDesc) : Bool :=
  want d || (want .absent && d.isMS && !want (.mem 0 false))

/-- Check 10 of R64 for a vector instruction under R166. -/
def VRule.inRange (r : VRule) (v : VArgs) : Bool :=
  r.types v.ty && kindOk r.d v.d && kindOk r.x v.x && kindOk r.y v.y && kindOk r.z v.z
    && (match v.d with | .scalar _ => false | _ => true)
    && r.opt.inRange v.ty v.opt

/-- Check 11 of R64 for a vector instruction under R166. -/
def VRule.unusedZero (r : VRule) (v : VArgs) : Bool :=
  r.d v.d && r.x v.x && r.y v.y && r.z v.z
    && r.opt.unusedZero v.opt && (r.rm || v.rm == .rne) && r.immZero v

/-- All of R166 for a vector instruction. -/
def VRule.ok (r : VRule) (v : VArgs) : Bool := r.inRange v && r.unusedZero v

/-- Every type. -/
def anyTy : VTy → Bool := fun _ => true
/-- Integer types only. -/
def intTy : VTy → Bool := fun t => !t.isFloat

def vrBin : VRule := ⟨anyTy, VDesc.isM, VDesc.isMS, VDesc.isMS, VDesc.isNone, .sat, false, false⟩
def vrFma : VRule := ⟨anyTy, VDesc.isM, VDesc.isMS, VDesc.isMS, VDesc.isMS, .sat, false, false⟩
def vrMinMax : VRule := ⟨anyTy, VDesc.isM, VDesc.isMS, VDesc.isMS, VDesc.isNone, .none, false, false⟩
def vrUn : VRule := ⟨anyTy, VDesc.isM, VDesc.isMS, VDesc.isNone, VDesc.isNone, .sat, false, false⟩
def vrSpecial : VRule := ⟨VTy.isFloat, VDesc.isM, VDesc.isMS, VDesc.isNone, VDesc.isNone, .none, false, false⟩
def vrCvt : VRule := ⟨anyTy, VDesc.isM, VDesc.isMS, VDesc.isNone, VDesc.isNone, .cvt, true, false⟩
def vrShift : VRule := ⟨intTy, VDesc.isM, VDesc.isMS, VDesc.isMS, VDesc.isNone, .none, false, false⟩
def vrCmp : VRule := ⟨anyTy, VDesc.isM, VDesc.isMS, VDesc.isMS, VDesc.isNone, .cond, false, false⟩
def vrSel : VRule := ⟨anyTy, VDesc.isM, VDesc.isMS, VDesc.isMS, VDesc.isMS, .none, false, false⟩
def vrBcast : VRule := ⟨anyTy, VDesc.isM, VDesc.isMS, VDesc.isNone, VDesc.isNone, .none, false, false⟩
def vrMov : VRule := ⟨anyTy, VDesc.isM, VDesc.isM, VDesc.isNone, VDesc.isNone, .none, false, false⟩
def vrPerm : VRule := ⟨anyTy, VDesc.isM, VDesc.isM, VDesc.isNoneM, VDesc.isNone, .none, false, true⟩
def vrRed : VRule := ⟨anyTy, VDesc.isNone, VDesc.isM, VDesc.isNone, VDesc.isNone, .none, false, false⟩
def vrScan : VRule := ⟨anyTy, VDesc.isM, VDesc.isM, VDesc.isNone, VDesc.isNone, .scan, false, false⟩
def vrGath : VRule := ⟨anyTy, VDesc.isM, VDesc.isMS, VDesc.isM, VDesc.isNone, .none, false, false⟩
def vrScat : VRule := ⟨anyTy, VDesc.isM, VDesc.isMS, VDesc.isM, VDesc.isNone, .none, false, false⟩

/-- The operand formats of the array: BF16, KB8, KB4 (R190, R192). -/
def Fmt.isOperand : Fmt → Bool
  | .bf16 | .kb8 | .kb4 => true
  | _ => false

/-- Block formats (R73). -/
def Fmt.isKB : Fmt → Bool
  | .kb8 | .kb4 => true
  | _ => false

/-- Check 10 of `mwld` (R190). -/
def mwldRange (m : MArgs) : Bool := m.fb.isOperand
/-- Check 11 of `mwld`; `gl` is the form without PA (R190). -/
def mwldUnused (sel : Nat) (m : MArgs) : Bool :=
  m.opt.toNat == sel && m.mm == 0 && m.fa == .raw && !m.ta && m.pb == 0 && m.acc == 0
    && (sel != 2 || m.pa == 0)

/-- Check 10 of `mma` and `mma.sp` (R192). -/
def mmaRange (m : MArgs) : Bool := m.fa.isOperand && m.fb.isOperand && (!m.ta || m.fa == .bf16)
/-- Check 11 of `mma` (R192). -/
def mmaUnused (sp : Bool) (m : MArgs) : Bool := m.opt == 0 && (sp || m.pb == 0)

/-- Check 10 of `mzero`, `macc.rd` and `macc.wr`: row0 + M at most 64, and the local format (R196). -/
def maccRange (mem : Bool) (m : MArgs) : Bool :=
  decide (m.opt.toNat % 64 + (m.mm.toNat + 1) ≤ 64) && (!mem || m.fa == .fp32 || m.fa == .bf16)
/-- Check 11 of `mzero`, `macc.rd` and `macc.wr` (R196). -/
def maccUnused (mem : Bool) (m : MArgs) : Bool :=
  m.opt.toNat / 64 == 0 && m.kb == 0 && m.fb == .raw && !m.ta && m.pb == 0 && m.woff == 0
    && (mem || (m.pa == 0 && m.fa == .raw))

/-- Check 10 of `mstat`: sel 3 is no selector (R197). -/
def mstatRange (m : MArgs) : Bool := m.opt.toNat % 4 != 3
/-- Check 11 of `mstat` (R197). -/
def mstatUnused (m : MArgs) : Bool :=
  m.opt.toNat / 4 == 0 && m.woff == 0 && m.kb == 0 && m.nn == 0 && m.mm == 0 && m.fb == .raw
    && m.fa == .raw && !m.ta && m.pb == 0 && m.pa == 0 && (m.opt.toNat % 4 == 0 || m.acc == 0)

/-- Check 11 of the delta instructions: kind 0 `upd`, 1 `chunk`, 2 `qry` (R199). -/
def deltaUnused (kind : Nat) (m : MArgs) : Bool :=
  m.woff == 0 && m.kb == 0 && m.nn == 0 && m.mm == 0 && m.fb == .raw && m.fa == .raw && !m.ta
    && (if kind == 1 then m.opt.toNat / 32 == 0 else m.opt.toNat / 2 == 0)
    && (kind != 0 || m.pb == 0)

/-- Check 10 of `cpy`: L2C takes RAW on both sides (R213). -/
def cpyRange (e : CpyArgs) : Bool := e.kind != .l2c || (e.fs == .raw && e.fm == .raw)
/-- Check 11 of `cpy` and `cpy.2d` (R57, R213). -/
def cpyUnused (two : Bool) (sdZero : Bool) (e : CpyArgs) : Bool :=
  (!e.fpg || e.fm == .raw) && (e.kind != .l2c || (e.rm == .rne && !e.fpg && sdZero))
    && (two || (e.rows == 0 && e.lstr == 0))

/-- Check 10 of `gath`: no block formats (R217). -/
def gathRange (e : GathArgs) : Bool := !e.fs.isKB && !e.fm.isKB
/-- Check 11 of `gath`: FM is zero with FPG (R57). -/
def gathUnused (e : GathArgs) : Bool := !e.fpg || e.fm == .raw

/-- Check 10 of `coll` (R218). -/
def collRange (e : CollArgs) : Bool :=
  e.p != 0 && (match e.fs with
    | .raw => e.op == .allGather
    | .fp32 | .bf16 | .int32 => true
    | _ => false)

/-- Register g0 has source code 0, so a field that must be zero names g0 (R52). -/
def Src.isZero : Src → Bool
  | .g n => n == 0
  | .q _ => false

/-- The instructions an encoding names (R51 to R63, R402). A hardware step has no encoding and is not
well-formed. -/
def Instr.wellFormed : Instr → Bool
  | .padWord => true
  | .add h _ b | .sub h _ b | .minS h _ b | .maxS h _ b | .minu h _ b | .maxu h _ b
  | .andW h _ b | .orW h _ b | .xorW h _ b | .andn h _ b | .orn h _ b | .shl h _ b | .shr h _ b
  | .sra h _ b | .rot h _ b | .bext h _ b | .sext h _ b | .zext h _ b
  | .ceq h _ b | .cne h _ b | .clt h _ b | .cle h _ b | .cltu h _ b | .cleu h _ b => h.classS && b.ok
  | .mul _ _ b | .mulh _ _ b | .mulhu _ _ b | .div _ _ b | .divu _ _ b | .rem _ _ b | .remu _ _ b => b.ok
  | .clz h _ | .ctz h _ | .popc h _ => h.classS
  | .bins h _ _ c | .sel h _ _ c => h.classS && c.ok
  | .fadd .. | .fsub .. | .fmul .. | .fmin .. | .fmax .. | .fceq .. | .fclt .. | .fcle .. => true
  | .ffma _ _ _ c => c.okThree
  | .fabs .. | .fneg .. | .frcp .. | .frsq .. | .fclass .. | .fcvt .. => true
  | .movi h _ | .movhi h _ _ | .movR h _ | .lit h _ => h.classS
  | .pset h _ _ _ | .psetKeep h _ _ | .padd h _ _ | .paddImm h _ _ => h.classN
  | .pget h _ _ => h.classS
  | .br h _ | .jmp h _ | .ret h _ | .brx h _ | .loopI h _ _ => h.classN
  | .call h _ => h.classS
  | .hstart h n _ | .hjoin h n => h.classN && helperOk n
  | .hexit h | .nop h => h.classN
  | .ld _ _ sz u _ | .ldg _ _ sz u _ => loadOk sz u
  | .st h .. | .stg h .. => h.classN
  | .ldsync .. | .ldsyncC .. => true
  | .stfull h _ _ | .setempty h _ => h.classN
  | .amoSwap .. | .amoCas .. | .amoAdd .. | .amoMin .. | .amoMax .. | .amoAnd .. | .amoOr .. | .amoXor .. => true
  | .amoFadd _ x => faddOk x.dw
  | .redAdd h _ | .redMin h _ | .redMax h _ | .redAnd h _ | .redOr h _ | .redXor h _ => h.classN
  | .redFadd h x => h.classN && faddOk x.dw
  | .fence h _ | .fenceAcq h _ | .fenceRel h _ => h.classN
  | .barArv .. | .barWait .. | .barSync .. => true
  | .evsig h _ => h.classN
  | .rdvPut h _ _ => h.classN
  | .rdvGet .. => true
  | .rqput h _ _ _ => h.classN
  | .rqtake .. => true
  | .ringDef h _ _ d n _ _ => h.classN && ringOk d n
  | .vadd h v | .vsub h v | .vmul h v => h.classN && vrBin.ok v
  | .vfma h v | .vfms h v => h.classN && vrFma.ok v
  | .vmin h v | .vmax h v => h.classN && vrMinMax.ok v
  | .vabs h v | .vneg h v => h.classN && vrUn.ok v
  | .vexp2 h v | .vlog2 h v | .vrcp h v | .vrsq h v => h.classN && vrSpecial.ok v
  | .vcvt h v => h.classN && vrCvt.ok v
  | .vand h v | .vor h v | .vxor h v => h.classN && vrMinMax.ok v
  | .vshl h v | .vshr h v | .vsra h v => h.classN && vrShift.ok v
  | .vcmp h v => h.classN && vrCmp.ok v
  | .vsel h v => h.classN && vrSel.ok v
  | .vbcast h v => h.classN && vrBcast.ok v
  | .vmov h v => h.classN && vrMov.ok v
  | .vperm h v => h.classN && vrPerm.ok v
  | .vredadd _ v | .vredmax _ v | .vredmin _ v => vrRed.ok v
  | .vscan h v => h.classN && vrScan.ok v
  | .vgath h v => h.classN && vrGath.ok v
  | .vscat h v => h.classN && vrScat.ok v
  | .vsetvl h _ | .vsetvlImm h _ => h.classS
  | .mwld h m => h.classN && mwldRange m && mwldUnused 0 m
  | .mwldImg h _ m => h.classN && mwldRange m && mwldUnused 1 m
  | .mwldGl h _ m => h.classN && mwldRange m && mwldUnused 2 m
  | .mma h m => h.classN && mmaRange m && mmaUnused false m
  | .mmaSp h m => h.classN && mmaRange m && mmaUnused true m
  | .mzero h m => h.classN && maccRange false m && maccUnused false m
  | .maccRd h m | .maccWr h m => h.classN && maccRange true m && maccUnused true m
  | .macq .. => true
  | .mrel h _ | .mpin h _ | .munpin h _ => h.classN
  | .mstat _ m => mstatRange m && mstatUnused m
  | .deltaUpd h m => h.classN && deltaUnused 0 m
  | .deltaChunk h m => h.classN && deltaUnused 1 m
  | .deltaQry h m => h.classN && deltaUnused 2 m
  | .cpy h _ _ _ e => h.classN && cpyRange e && cpyUnused false true e
  | .cpy2d h _ _ _ sd e => h.classN && cpyRange e && cpyUnused true sd.isZero e
  | .wpwait h _ _ => h.classN
  | .gath h _ _ _ _ e => h.classN && gathRange e && gathUnused e
  | .coll h _ _ _ e => h.classN && collRange e
  | .snap h .. => h.classN
  | .sigDec h _ _ => h.classN
  | .launch .. => true
  | .arm h .. | .disarm h .. => h.classN
  | .cktReq .. => true
  | .cktRel h _ => h.classN
  | .cktStat .. | .locq .. => true
  | .tfence h | .eret h | .halt h => h.classN
  | .trapN h _ | .svc h _ => h.classN
  | .srd h _ => h.classS
  | .swr h _ _ => h.classN
  | .srsRd .. => true
  | .srsWr h _ _ _ => h.classN
  | .prio h n => h.classN && decide (n.toNat ≤ 11)
  | .time h _ => h.classS
  | .chkpt .. => true
  | .pwrReq h _ => h.classN
  | .globalLoadReturn .. | .stgHomePerform .. | .peerLoadTargetRead .. | .amoHomeReply ..
  | .heldArrivalPerform .. | .barrierPhaseComplete .. | .eventFireArrive .. | .evwaitLoad ..
  | .mutexTake .. | .mutexTry .. | .mutexRelease .. | .tileBarrierArrive .. | .tileBarrierWait ..
  | .tbcfgWrite .. | .rqcfgWrite .. | .rqputReservationArrive .. | .rqputDeliver .. | .rqFreeNotice ..
  | .vectorGroup .. | .vectorCompletion .. | .tileOp .. | .matrixCommandComplete ..
  | .matrixErrorEnd .. | .tileRestore .. | .engineTranslationDone .. | .channelLineWrite ..
  | .engineCommandComplete .. | .engineFaultEnd .. | .launchAccept .. | .srsRdAnswer ..
  | .bankpwrWrite .. | .bankWakeDone .. | .retBankWake .. | .mqwtWrite .. | .lqEnable .. | .lqNotify ..
  | .lqFetch .. | .lqRereadTimer .. | .taggedLaunchMessage .. | .waitvaPoll .. | .sheafPlace ..
  | .placementRetest .. | .sheafStop .. | .stopTimeout .. | .speltSaveDone .. | .sheafResume ..
  | .ageLimitExpiry .. | .sheafMigrate .. | .sheafRetire .. | .gangReserved .. | .gangCommit ..
  | .gangStartSlot .. | .gangArrivalMessage .. | .gkreqWrite .. | .gangnWrite .. | .deadlockDetect ..
  | .svcresWrite .. | .batchServe .. | .checkpointCopyDone .. | .unnumberedCheckpoint .. | .sliceEnd ..
  | .saveStartTimer .. | .tenantTurn .. | .tlbinv1Write .. | .tlbinv2Write .. | .tlbInvalidationDone ..
  | .ptdataWrite .. | .s2ptdataWrite .. | .s2ptclr .. | .pageMove .. | .pageMoveDone ..
  | .pageResponse .. | .atsTranslationCompletion .. | .atsInvalidationRequest .. | .vdReset ..
  | .zeroingDone .. | .keyLoad .. | .keyClear .. | .signalWindowRead .. | .hostUnsupportedAccess ..
  | .fabcfgWrite .. | .fabquotaWrite .. | .configTrain | .bromeRequest | .bromeRelease | .bromeAnswer
  | .circuitResize .. | .circuitFlitArrive .. | .memRequestInject .. | .memResponse .. | .portCfgWrite ..
  | .ptpMessage .. | .ethLaunchFrame .. | .ethBulkFrame .. | .pointTransition ..
  | .pointTransitionDone .. | .slewGrantUp .. | .slewGrantDown .. | .rampStepEnd .. | .ptctlWrite ..
  | .ptrampWrite .. | .vdschedWrite .. | .thermalSample .. | .thermlimWrite .. | .pwrcapWrite ..
  | .powerWindow .. | .powerCapAdjust | .coldReset | .bringupStageDone .. | .pf0Flr | .vfFlr ..
  | .attReport | .attCertChain | .attestDone | .uncorrectableRegisterError .. | .ageingSample ..
  | .guardForceTransition .. | .registerWrite .. | .illegalInstruction .. | .pendingResultWrite ..
  | .supplyRampDone .. | .thermalMoveDone .. | .speltRestoreDone .. | .checkpointRecorded ..
  | .keyCommandDone | .netCircuitActive .. | .abandonedSlotReuse .. => false

end Sys2Proof
end

