-- ==== Sys2Proof/Decode.lean ====
section
/-! DEFINITION. Decoding of instruction words, total on any bytes, with the checks 2 to 12 of 02 R64 in
their order and each refused by its cause and DETAIL (R45 to R63, R402), and the encoder written from the
same tables. -/

namespace Sys2Proof

/-! ### The fixed fields (R48) -/

/-- The fields of an instruction as numbers; `hi` holds what follows the first 64 bits. -/
structure Fields where
  len : Nat
  opm : Nat
  fn : Nat
  la : Nat
  ge : Nat
  gn : Nat
  greg : Nat
  gbit : Nat
  dst : Nat
  sa : Nat
  sb : Nat
  imm : Nat
  hi : Nat
  deriving DecidableEq, Repr

/-- The number whose bits are the instruction's (R48). -/
def Fields.word (f : Fields) : Nat :=
  f.len + 4 * (f.opm + 64 * (f.fn + 256 * (f.la + 16 * (f.ge + 2 * (f.gn + 2 * (f.greg + 32 * (f.gbit
    + 64 * (f.dst + 32 * (f.sa + 32 * (f.sb + 32 * (f.imm + 65536 * f.hi)))))))))))

/-- The fields of a number (R48). -/
def fieldsOf (w : Nat) : Fields where
  len := w % 4
  opm := w / 4 % 64
  fn := w / 2 ^ 8 % 256
  la := w / 2 ^ 16 % 16
  ge := w / 2 ^ 20 % 2
  gn := w / 2 ^ 21 % 2
  greg := w / 2 ^ 22 % 32
  gbit := w / 2 ^ 27 % 64
  dst := w / 2 ^ 33 % 32
  sa := w / 2 ^ 38 % 32
  sb := w / 2 ^ 43 % 32
  imm := w / 2 ^ 48 % 65536
  hi := w / 2 ^ 64

/-- Bytes of an instruction by LEN (R45). -/
def lenBytes (len : Nat) : Nat :=
  match len with
  | 0 => 8 | 1 => 12 | 2 => 16 | _ => 4

/-! ### Codes of the operand fields -/

/-- A number as an index below n; numbers from n on are refused by check 10 before this value is used. -/
def finOf (n : Nat) (h : 0 < n) (x : Nat) : Fin n := ⟨x % n, Nat.mod_lt x h⟩

/-- Source codes (R49). -/
def Src.code : Src → Nat
  | .g n => n.val
  | .q n => 16 + n.val
def srcOf (x : Nat) : Src :=
  if x / 16 % 2 = 0 then .g (finOf 16 (by decide) x) else .q (finOf 16 (by decide) x)

/-- Destination codes (R17). -/
def Dst.code : Dst → Nat
  | .g n => n.val
  | .q => 16
  | .none => 17
def dstOf (x : Nat) : Dst :=
  if x < 16 then .g (finOf 16 (by decide) x) else if x = 16 then .q else .none

/-- Guard fields (R50). -/
def Guard.ge : Guard → Nat
  | .always => 0
  | .on .. => 1
def Guard.gn : Guard → Nat
  | .always => 0
  | .on n _ _ => n.toNat
def Guard.greg : Guard → Nat
  | .always => 0
  | .on _ r _ => r.code
def Guard.gbit : Guard → Nat
  | .always => 0
  | .on _ _ b => b.val
def guardOf (ge gn greg gbit : Nat) : Guard :=
  if ge = 0 then .always else .on (gn == 1) (srcOf greg) (finOf 64 (by decide) gbit)

/-- Sizes (R61). -/
def Size.code : Size → Nat
  | .b => 0 | .h => 1 | .w => 2 | .d => 3
def sizeOf_ (x : Nat) : Size :=
  match x with
  | 0 => .b | 1 => .h | 2 => .w | _ => .d

/-- Scopes (R61): 0 is none. -/
def Scope.code : Scope → Nat
  | .core => 1 | .quad => 2 | .tile => 3 | .clus => 4 | .dom => 5 | .dev => 6 | .sys => 7
def scopeOf (x : Nat) : Scope :=
  match x with
  | 1 => .core | 2 => .quad | 3 => .tile | 4 => .clus | 5 => .dom | 6 => .dev | _ => .sys
def ordCode : Option Scope → Nat
  | none => 0
  | some s => s.code
def ordOf (x : Nat) : Option Scope := if x = 0 then none else some (scopeOf x)

/-- Rounding modes (R57). -/
def Rm.code : Rm → Nat
  | .rne => 0 | .rtz => 1 | .sr => 2
def rmOf (x : Nat) : Rm :=
  match x with
  | 0 => .rne | 1 => .rtz | _ => .sr

/-- Format codes (R70). -/
def Fmt.code : Fmt → Nat
  | .raw => 0 | .fp32 => 1 | .bf16 => 2 | .kb8 => 3 | .kb4 => 4 | .int8 => 5 | .int16 => 6 | .int32 => 7
def fmtOf (x : Nat) : Fmt :=
  match x with
  | 0 => .raw | 1 => .fp32 | 2 => .bf16 | 3 => .kb8 | 4 => .kb4 | 5 => .int8 | 6 => .int16 | _ => .int32

/-- Vector types (R57). -/
def vtyOf (x : Nat) : VTy :=
  match x with
  | 0 => .f32 | 1 => .bf16 | 2 => .s32 | 3 => .s16 | 4 => .s8 | 5 => .u32 | 6 => .u16 | _ => .u8

/-- Conversion kinds (R60). -/
def CvtKind.code : CvtKind → Nat
  | .f32s32 => 0 | .f32u32 => 1 | .s32f32 => 2 | .u32f32 => 3 | .f32s64 => 4 | .s64f32 => 5
  | .f32bf16 => 6 | .bf16f32 => 7
def cvtOf (x : Nat) : CvtKind :=
  match x with
  | 0 => .f32s32 | 1 => .f32u32 | 2 => .s32f32 | 3 => .u32f32 | 4 => .f32s64 | 5 => .s64f32
  | 6 => .f32bf16 | _ => .bf16f32

/-- Copy kinds (R213). -/
def CpyKind.code : CpyKind → Nat
  | .g2l => 0 | .l2g => 1 | .h2l => 2 | .l2h => 3 | .l2c => 4
def cpyKindOf (x : Nat) : CpyKind :=
  match x with
  | 0 => .g2l | 1 => .l2g | 2 => .h2l | 3 => .l2h | _ => .l2c

/-- Collective operations (R218). -/
def CollOp.code : CollOp → Nat
  | .allGather => 0 | .rsAdd => 1 | .rsMax => 2
def collOpOf (x : Nat) : CollOp :=
  match x with
  | 0 => .allGather | 1 => .rsAdd | _ => .rsMax

/-- Circuit kinds (R223). -/
def CktKind.code : CktKind → Nat
  | .tile => 0 | .mem => 1 | .host => 2 | .net => 3
def cktKindOf (x : Nat) : CktKind :=
  match x with
  | 0 => .tile | 1 => .mem | 2 => .host | _ => .net

def ptrOf (x : Nat) : Fin 8 := finOf 8 (by decide) x

/-- Memory operands by AM (R61). -/
def MemOp.am : MemOp → Nat
  | .base _ => 0 | .post _ => 1 | .off .. => 2
def MemOp.ptr : MemOp → Nat
  | .base p => p.val | .post p => p.val | .off p _ => p.val
def MemOp.immF : MemOp → Nat
  | .off _ v => v.toNat
  | _ => 0
def memOf (am sa imm : Nat) : MemOp :=
  match am with
  | 0 => .base (ptrOf sa) | 1 => .post (ptrOf sa) | _ => .off (ptrOf sa) (BitVec.ofNat 16 imm)

/-- Vector descriptors by AM (R55); a scalar names its register elsewhere. -/
def VDesc.code : VDesc → Nat
  | .absent => 0
  | .mem p post => (if post then 16 else 8) + p.val
  | .scalar _ => 24
def VDesc.reg : VDesc → Nat
  | .scalar r => r.code
  | _ => 0
def descOf (c reg : Nat) : VDesc :=
  match c / 8 with
  | 0 => .absent
  | 1 => .mem (ptrOf c) false
  | 2 => .mem (ptrOf c) true
  | _ => .scalar (srcOf reg)
/-- The unused parts of a descriptor are zero (R55). -/
def descZero (c reg : Nat) : Bool :=
  match c / 8 with
  | 0 => c % 8 == 0 && reg == 0
  | 3 => c % 8 == 0
  | _ => reg == 0

def bitOf (b : Bool) : Nat := b.toNat

/-! ### Checks in their order (R64) -/

/-- Result classes (R51). -/
inductive Cls where
  | n | s | l
  deriving DecidableEq, Repr

/-- What an assigned function makes of its fields: whether LEN and the operand mode fit (check 6), the
result class (8, 9), whether every field is in range (10), every unused one zero (11), a 64-bit constant
index even (12), and the instruction. -/
structure Cand where
  lenOk : Bool
  cls : Cls
  range : Bool
  unused : Bool
  even : Bool := true
  instr : Instr
  deriving DecidableEq, Repr

/-- Check 7 (R50). -/
def Fields.guardOk (f : Fields) : Bool := f.ge != 0 || (f.gn == 0 && f.greg == 0 && f.gbit == 0)

/-- Check 8 (R17, R51). -/
def Fields.dstOk (f : Fields) (c : Cls) : Bool :=
  match c with
  | .n => f.dst == 17
  | _ => decide (f.dst ≤ 17)

/-- Check 9 (R51). -/
def Fields.laOk (f : Fields) (c : Cls) : Bool :=
  match c with
  | .l => true
  | _ => f.la == 0

/-- Guard, destination and lookahead (R48). -/
def Fields.head (f : Fields) : Head :=
  ⟨guardOf f.ge f.gn f.greg f.gbit, dstOf f.dst, finOf 16 (by decide) f.la⟩

/-- Fields that must be zero (R52). -/
def zero? (xs : List Nat) : Bool := xs.all fun x => x == 0

/-- The operand mode (R53). -/
def Fields.mode (f : Fields) : Nat := f.fn / 64

/-- LEN by operand mode: a literal has LEN 0b01 (R53). -/
def Fields.modeLen (f : Fields) : Bool := f.len == (if f.mode = 3 then 1 else 0)

/-- The last source of an integer instruction, in SB or SC (R53, R54). -/
def Fields.iop (f : Fields) (reg : Nat) : IOp :=
  match f.mode with
  | 0 => .reg (srcOf reg)
  | 1 => .imm (BitVec.ofNat 16 f.imm)
  | 2 => .const (BitVec.ofNat 10 f.imm)
  | _ => .lit (BitVec.ofNat 32 f.hi)

/-- The last source of an FP32 instruction (R53, R54). -/
def Fields.fop (f : Fields) (reg : Nat) : FOp :=
  match f.mode with
  | 0 => .reg (srcOf reg)
  | 1 => .imm20 (BitVec.ofNat 20 (f.imm * 16 + f.sb / 2))
  | 2 => .const (BitVec.ofNat 10 f.imm)
  | _ => .lit (BitVec.ofNat 32 f.hi)

/-- The fields a two-source integer instruction leaves zero, by mode (R53). -/
def Fields.zero2 (f : Fields) : Bool :=
  match f.mode with
  | 0 => zero? [f.imm]
  | 1 => zero? [f.sb]
  | 2 => zero? [f.sb, f.imm / 1024]
  | _ => zero? [f.sb, f.imm]

/-- The same of a two-source FP32 instruction. -/
def Fields.zero2f (f : Fields) : Bool :=
  match f.mode with
  | 0 => zero? [f.imm]
  | 1 => zero? [f.sb % 2]
  | 2 => zero? [f.sb, f.imm / 1024]
  | _ => zero? [f.sb, f.imm]

/-- The same of a three-source instruction. -/
def Fields.zero3 (f : Fields) : Bool :=
  match f.mode with
  | 0 => zero? [f.imm / 32]
  | 1 => true
  | 2 => zero? [f.imm / 1024]
  | _ => zero? [f.imm]

/-- Check 12: mode 0b10 of an integer instruction names an even constant (R54). -/
def Fields.evenC (f : Fields) : Bool := f.mode != 2 || f.imm % 2 == 0

def int2 (f : Fields) (c : Cls) (i : Head → Src → IOp → Instr) : Option Cand :=
  some ⟨f.modeLen, c, true, f.zero2, f.evenC, i f.head (srcOf f.sa) (f.iop f.sb)⟩
def int3 (f : Fields) (i : Head → Src → Src → IOp → Instr) : Option Cand :=
  some ⟨f.modeLen, .s, true, f.zero3, f.evenC, i f.head (srcOf f.sa) (srcOf f.sb) (f.iop (f.imm % 32))⟩
def one (f : Fields) (c : Cls) (i : Head → Src → Instr) : Option Cand :=
  some ⟨f.mode == 0 && f.len == 0, c, true, zero? [f.sb, f.imm], true, i f.head (srcOf f.sa)⟩
def flt2 (f : Fields) (i : Head → Src → FOp → Instr) : Option Cand :=
  some ⟨f.modeLen, .l, true, f.zero2f, true, i f.head (srcOf f.sa) (f.fop f.sb)⟩

/-- A candidate of the groups without operand modes. -/
def cand (f : Fields) (len : Nat) (c : Cls) (range : Bool) (unused : List Nat) (i : Instr) : Option Cand :=
  some ⟨f.len == len, c, range, zero? unused, true, i⟩

/-! ### The opcode map (R59, R62, R63) -/

/-- OPM 0x01 (R59). -/
def map01 (f : Fields) : Option Cand :=
  match f.fn % 64 with
  | 0 => int2 f .s .add
  | 1 => int2 f .s .sub
  | 2 => int2 f .l .mul
  | 3 => int2 f .l .mulh
  | 4 => int2 f .l .mulhu
  | 5 => int2 f .l .div
  | 6 => int2 f .l .divu
  | 7 => int2 f .l .rem
  | 8 => int2 f .l .remu
  | 9 => int2 f .s .minS
  | 10 => int2 f .s .maxS
  | 11 => int2 f .s .minu
  | 12 => int2 f .s .maxu
  | _ => none

/-- OPM 0x02 (R59). -/
def map02 (f : Fields) : Option Cand :=
  match f.fn % 64 with
  | 0 => int2 f .s .andW
  | 1 => int2 f .s .orW
  | 2 => int2 f .s .xorW
  | 3 => int2 f .s .andn
  | 4 => int2 f .s .orn
  | 5 => int2 f .s .shl
  | 6 => int2 f .s .shr
  | 7 => int2 f .s .sra
  | 8 => int2 f .s .rot
  | _ => none

/-- OPM 0x03 (R59). -/
def map03 (f : Fields) : Option Cand :=
  match f.fn % 64 with
  | 0 => one f .s .clz
  | 1 => one f .s .ctz
  | 2 => one f .s .popc
  | 3 => int2 f .s .bext
  | 4 => int3 f .bins
  | 5 => int2 f .s .sext
  | 6 => int2 f .s .zext
  | 7 => int3 f .sel
  | _ => none

/-- OPM 0x04 (R59). -/
def map04 (f : Fields) : Option Cand :=
  match f.fn % 64 with
  | 0 => int2 f .s .ceq
  | 1 => int2 f .s .cne
  | 2 => int2 f .s .clt
  | 3 => int2 f .s .cle
  | 4 => int2 f .s .cltu
  | 5 => int2 f .s .cleu
  | _ => none

/-- `ffma` accepts no short immediate (R53). -/
def candFfma (f : Fields) : Option Cand :=
  some ⟨f.modeLen && f.mode != 1, .l, true, f.zero3, true,
    .ffma f.head (srcOf f.sa) (srcOf f.sb) (f.fop (f.imm % 32))⟩

/-- `fcvt` holds its kind and rounding mode in IMM16 (R60). -/
def candFcvt (f : Fields) : Option Cand :=
  some ⟨f.mode == 0 && f.len == 0, .l, decide (f.imm % 16 < 8) && f.imm / 16 % 4 != 3,
    zero? [f.sb, f.imm / 64], true,
    .fcvt f.head (srcOf f.sa) (cvtOf (f.imm % 16)) (rmOf (f.imm / 16 % 4))⟩

/-- OPM 0x10 (R59). -/
def map10 (f : Fields) : Option Cand :=
  match f.fn % 64 with
  | 0 => flt2 f .fadd
  | 1 => flt2 f .fsub
  | 2 => flt2 f .fmul
  | 3 => candFfma f
  | 4 => flt2 f .fmin
  | 5 => flt2 f .fmax
  | 6 => one f .l .fabs
  | 7 => one f .l .fneg
  | 8 => one f .l .frcp
  | 9 => one f .l .frsq
  | _ => none

/-- OPM 0x11 (R59). -/
def map11 (f : Fields) : Option Cand :=
  match f.fn % 64 with
  | 0 => flt2 f .fceq
  | 1 => flt2 f .fclt
  | 2 => flt2 f .fcle
  | 3 => one f .l .fclass
  | 4 => candFcvt f
  | _ => none

/-- OPM 0x18 (R62). -/
def map18 (f : Fields) : Option Cand :=
  match f.fn with
  | 0 => cand f 0 .s true [f.sa, f.sb] (.movi f.head (BitVec.ofNat 16 f.imm))
  | 1 => cand f 1 .s true [f.sb, f.imm] (.movhi f.head (srcOf f.sa) (BitVec.ofNat 32 f.hi))
  | 2 => cand f 0 .s true [f.sb, f.imm] (.movR f.head (srcOf f.sa))
  | 3 => cand f 1 .s true [f.sa, f.sb, f.imm] (.lit f.head (BitVec.ofNat 32 f.hi))
  | _ => none

/-- `pset`: KS keeps ASn, and SB is then zero (R62). -/
def candPset (f : Fields) : Option Cand :=
  if f.imm / 8 % 2 = 1 then cand f 0 .n true [f.sb, f.imm / 16] (.psetKeep f.head (ptrOf f.imm) (srcOf f.sa))
  else cand f 0 .n true [f.imm / 16] (.pset f.head (ptrOf f.imm) (srcOf f.sa) (srcOf f.sb))

/-- `padd` by LEN (R62). -/
def candPadd (f : Fields) : Option Cand :=
  if f.len = 1 then cand f 1 .n true [f.sa, f.sb, f.imm / 8] (.paddImm f.head (ptrOf f.imm) (BitVec.ofNat 32 f.hi))
  else cand f 0 .n true [f.sb, f.imm / 8] (.padd f.head (ptrOf f.imm) (srcOf f.sa))

/-- OPM 0x19 (R62). -/
def map19 (f : Fields) : Option Cand :=
  match f.fn with
  | 0 => candPset f
  | 1 => candPadd f
  | 2 => cand f 0 .s true [f.sa, f.sb, f.imm / 16] (.pget f.head (ptrOf f.imm) (f.imm / 8 % 2 == 1))
  | _ => none

/-- OPM 0x1C (R62). -/
def map1C (f : Fields) : Option Cand :=
  match f.fn with
  | 0 => cand f 0 .n true [f.sa, f.sb] (.br f.head (BitVec.ofNat 16 f.imm))
  | 1 => cand f 1 .n true [f.sa, f.sb, f.imm] (.jmp f.head (BitVec.ofNat 32 f.hi))
  | 2 => cand f 1 .s true [f.sa, f.sb, f.imm] (.call f.head (BitVec.ofNat 32 f.hi))
  | 3 => cand f 0 .n true [f.sb, f.imm] (.ret f.head (srcOf f.sa))
  | 4 => cand f 0 .n true [f.sb, f.imm] (.brx f.head (srcOf f.sa))
  | 5 => cand f 1 .n true [f.sb, f.imm] (.loopI f.head (srcOf f.sa) (BitVec.ofNat 32 f.hi))
  | _ => none

/-- A helper number is 1 to 10 (R62). -/
def Fields.helper (f : Fields) : BitVec 4 := BitVec.ofNat 4 f.imm

/-- OPM 0x1D (R62). -/
def map1D (f : Fields) : Option Cand :=
  match f.fn with
  | 0 => cand f 1 .n (helperOk f.helper) [f.sa, f.sb, f.imm / 16] (.hstart f.head f.helper (BitVec.ofNat 32 f.hi))
  | 1 => cand f 0 .n (helperOk f.helper) [f.sa, f.sb, f.imm / 16] (.hjoin f.head f.helper)
  | 2 => cand f 0 .n true [f.sa, f.sb, f.imm] (.hexit f.head)
  | 3 => cand f 0 .n true [f.sa, f.sb, f.imm] (.nop f.head)
  | _ => none

/-! Loads and stores (R61) -/

def Fields.size (f : Fields) : Size := sizeOf_ (f.fn % 4)
def Fields.uns (f : Fields) : Bool := f.fn / 4 % 2 == 1
def Fields.mem (f : Fields) : MemOp := memOf (f.fn / 8 % 4) f.sa f.imm
def Fields.ord (f : Fields) : Option Scope := ordOf (f.fn / 32)
/-- AM is accepted and the pointer exists (R402, R49). -/
def Fields.memOk (f : Fields) : Bool := f.fn / 8 % 4 != 3 && decide (f.sa < 8)
/-- IMM16 is zero without an offset (R61). -/
def Fields.memZero (f : Fields) : Nat := if f.fn / 8 % 4 = 2 then 0 else f.imm

def candLoad (f : Fields) (i : Head → MemOp → Size → Bool → Option Scope → Instr) : Option Cand :=
  cand f 0 .l f.memOk [f.sb, f.memZero, bitOf (!loadOk f.size f.uns)] (i f.head f.mem f.size f.uns f.ord)
def candStore (f : Fields) (i : Head → MemOp → Size → Option Scope → Src → Instr) : Option Cand :=
  cand f 0 .n f.memOk [f.memZero, f.fn / 4 % 2] (i f.head f.mem f.size f.ord (srcOf f.sb))

/-- OPM 0x24: FN[1:0] selects, FN[2] and FN[7:5] are zero (R62, R402). -/
def map24 (f : Fields) : Option Cand :=
  match f.fn % 4 with
  | 0 => cand f 0 .l f.memOk [f.memZero, f.fn / 4 % 2, f.fn / 32, f.sb] (.ldsync f.head f.mem)
  | 1 => cand f 0 .l f.memOk [f.memZero, f.fn / 4 % 2, f.fn / 32, f.sb] (.ldsyncC f.head f.mem)
  | 2 => cand f 0 .n f.memOk [f.memZero, f.fn / 4 % 2, f.fn / 32] (.stfull f.head f.mem (srcOf f.sb))
  | 3 => cand f 0 .n f.memOk [f.memZero, f.fn / 4 % 2, f.fn / 32, f.sb] (.setempty f.head f.mem)
  | _ => none

/-! Atomics and reductions (R62) -/

def Fields.dw (f : Fields) : Bool := f.fn / 16 % 2 == 1
def Fields.amoArgs (f : Fields) : AmoArgs := ⟨ptrOf f.sa, f.dw, f.ord, f.imm / 32 % 2 == 1, (srcOf f.sb)⟩
def Fields.redArgs (f : Fields) : RedArgs := ⟨ptrOf f.sa, f.dw, f.ord, (srcOf f.sb)⟩

def candAmo (f : Fields) (i : Head → AmoArgs → Instr) : Option Cand :=
  cand f 0 .l (decide (f.sa < 8)) [f.imm % 32, f.imm / 64] (i f.head f.amoArgs)
def candRed (f : Fields) (i : Head → RedArgs → Instr) : Option Cand :=
  cand f 0 .n (decide (f.sa < 8)) [f.imm] (i f.head f.redArgs)

/-- OPM 0x28: FN[3:0] selects (R62, R402). -/
def map28 (f : Fields) : Option Cand :=
  match f.fn % 16 with
  | 0 => candAmo f .amoSwap
  | 1 => cand f 0 .l (decide (f.sa < 8)) [f.imm / 64] (.amoCas f.head f.amoArgs (srcOf (f.imm % 32)))
  | 2 => candAmo f .amoAdd
  | 3 => cand f 0 .l (decide (f.sa < 8) && faddOk f.dw) [f.imm % 32, f.imm / 64] (.amoFadd f.head f.amoArgs)
  | 4 => candAmo f .amoMin
  | 5 => candAmo f .amoMax
  | 6 => candAmo f .amoAnd
  | 7 => candAmo f .amoOr
  | 8 => candAmo f .amoXor
  | _ => none

/-- OPM 0x29: FN[3:0] selects (R62, R402). -/
def map29 (f : Fields) : Option Cand :=
  match f.fn % 16 with
  | 0 => candRed f .redAdd
  | 1 => cand f 0 .n (decide (f.sa < 8) && faddOk f.dw) [f.imm] (.redFadd f.head f.redArgs)
  | 2 => candRed f .redMin
  | 3 => candRed f .redMax
  | 4 => candRed f .redAnd
  | 5 => candRed f .redOr
  | 6 => candRed f .redXor
  | _ => none

/-- OPM 0x2A: kind and scope are fields under check 10 (R62, R402). -/
def map2A (f : Fields) : Option Cand :=
  let ok := f.fn % 8 != 0 && f.fn / 8 % 4 != 3
  let sc := scopeOf (f.fn % 8)
  cand f 0 .n ok [f.fn / 32, f.sa, f.sb, f.imm]
    (match f.fn / 8 % 4 with
     | 0 => .fence f.head sc
     | 1 => .fenceAcq f.head sc
     | _ => .fenceRel f.head sc)

/-- The level field (R62). -/
def Fields.lvl (f : Fields) : Fin 4 := finOf 4 (by decide) f.imm

/-- OPM 0x2C (R62). -/
def map2C (f : Fields) : Option Cand :=
  match f.fn with
  | 0 => cand f 0 .l true [f.sa, f.sb, f.imm / 4] (.barArv f.head f.lvl)
  | 1 => cand f 0 .l true [f.sb, f.imm / 4] (.barWait f.head (srcOf f.sa) f.lvl)
  | 2 => cand f 0 .l true [f.sa, f.sb, f.imm / 4] (.barSync f.head f.lvl)
  | 3 => cand f 0 .n true [f.sa, f.sb, f.imm / 32] (.evsig f.head (finOf 32 (by decide) f.imm))
  | _ => none

/-- OPM 0x2D (R62). -/
def map2D (f : Fields) : Option Cand :=
  match f.fn with
  | 0 => cand f 0 .n true [f.imm] (.rdvPut f.head (srcOf f.sa) (srcOf f.sb))
  | 1 => cand f 0 .l true [f.sb, f.imm] (.rdvGet f.head (srcOf f.sa))
  | 2 => cand f 0 .n (decide (f.sa < 8)) [f.imm / 8] (.rqput f.head (ptrOf f.sa) (srcOf f.sb) (ptrOf f.imm))
  | 3 => cand f 0 .l (decide (f.sa < 8)) [f.imm] (.rqtake f.head (ptrOf f.sa) (srcOf f.sb))
  | _ => none

/-- OPM 0x2E (R62, R152). -/
def map2E (f : Fields) : Option Cand :=
  match f.fn with
  | 0 => cand f 0 .n (ringOk (BitVec.ofNat 5 (f.imm / 1024)) (BitVec.ofNat 5 (f.imm / 32))) [f.imm / 32768]
      (.ringDef f.head (srcOf f.sa) (srcOf f.sb) (BitVec.ofNat 5 (f.imm / 1024)) (BitVec.ofNat 5 (f.imm / 32))
        (finOf 4 (by decide) (f.imm / 8)) (ptrOf f.imm))
  | _ => none

/-! Vector (R55, R63, R166) -/

/-- The second word of format V with the scalar sources. -/
def Fields.vargs (f : Fields) : VArgs where
  d := descOf (f.hi % 32) 0
  x := descOf (f.hi / 32 % 32) f.sa
  y := descOf (f.hi / 2 ^ 10 % 32) f.sb
  z := descOf (f.hi / 2 ^ 15 % 32) (f.imm % 32)
  ty := vtyOf (f.hi / 2 ^ 20 % 16)
  rm := rmOf (f.hi / 2 ^ 24 % 4)
  opt := BitVec.ofNat 6 (f.hi / 2 ^ 26)
  imm := BitVec.ofNat 32 (f.hi / 2 ^ 32)

/-- TYPE and RM hold codes (R57). -/
def Fields.vcodes (f : Fields) : Bool := decide (f.hi / 2 ^ 20 % 16 < 8) && f.hi / 2 ^ 24 % 4 != 3
/-- Unused parts of the descriptors are zero (R55). -/
def Fields.vzero (f : Fields) : Bool :=
  descZero (f.hi % 32) 0 && descZero (f.hi / 32 % 32) f.sa && descZero (f.hi / 2 ^ 10 % 32) f.sb
    && descZero (f.hi / 2 ^ 15 % 32) (f.imm % 32)

def candV (f : Fields) (c : Cls) (r : VRule) (i : Head → VArgs → Instr) : Option Cand :=
  some ⟨f.len == 2, c, f.vcodes && r.inRange f.vargs, f.vzero && r.unusedZero f.vargs && f.imm / 32 == 0,
    true, i f.head f.vargs⟩

/-- OPM 0x30 (R63). -/
def map30 (f : Fields) : Option Cand :=
  match f.fn with
  | 0 => candV f .n vrBin .vadd
  | 1 => candV f .n vrBin .vsub
  | 2 => candV f .n vrBin .vmul
  | 3 => candV f .n vrFma .vfma
  | 4 => candV f .n vrFma .vfms
  | 5 => candV f .n vrMinMax .vmin
  | 6 => candV f .n vrMinMax .vmax
  | 7 => candV f .n vrUn .vabs
  | 8 => candV f .n vrUn .vneg
  | _ => none

/-- OPM 0x31 (R63). -/
def map31 (f : Fields) : Option Cand :=
  match f.fn with
  | 0 => candV f .n vrSpecial .vexp2
  | 1 => candV f .n vrSpecial .vlog2
  | 2 => candV f .n vrSpecial .vrcp
  | 3 => candV f .n vrSpecial .vrsq
  | 4 => candV f .n vrCvt .vcvt
  | _ => none

/-- OPM 0x32 (R63). -/
def map32 (f : Fields) : Option Cand :=
  match f.fn with
  | 0 => candV f .n vrMinMax .vand
  | 1 => candV f .n vrMinMax .vor
  | 2 => candV f .n vrMinMax .vxor
  | 3 => candV f .n vrShift .vshl
  | 4 => candV f .n vrShift .vshr
  | 5 => candV f .n vrShift .vsra
  | 6 => candV f .n vrCmp .vcmp
  | 7 => candV f .n vrSel .vsel
  | _ => none

/-- OPM 0x33 (R63). -/
def map33 (f : Fields) : Option Cand :=
  match f.fn with
  | 0 => candV f .n vrBcast .vbcast
  | 1 => candV f .n vrMov .vmov
  | 2 => candV f .n vrPerm .vperm
  | _ => none

/-- OPM 0x34 (R63). -/
def map34 (f : Fields) : Option Cand :=
  match f.fn with
  | 0 => candV f .l vrRed .vredadd
  | 1 => candV f .l vrRed .vredmax
  | 2 => candV f .l vrRed .vredmin
  | 3 => candV f .n vrScan .vscan
  | _ => none

/-- OPM 0x35 (R63). -/
def map35 (f : Fields) : Option Cand :=
  match f.fn with
  | 0 => candV f .n vrGath .vgath
  | 1 => candV f .n vrScat .vscat
  | _ => none

/-- OPM 0x36 (R63). -/
def map36 (f : Fields) : Option Cand :=
  match f.fn with
  | 0 => cand f 0 .s true [f.sb, f.imm] (.vsetvl f.head (srcOf f.sa))
  | 1 => cand f 0 .s true [f.sa, f.sb, f.imm / 256] (.vsetvlImm f.head (BitVec.ofNat 8 f.imm))
  | _ => none

/-! Matrix (R56, R63, R187 to R199) -/

/-- The second word of format M. A format code from 8 on is no format that a matrix instruction takes. -/
def Fields.margs (f : Fields) : MArgs where
  acc := finOf 64 (by decide) f.hi
  pa := ptrOf (f.hi / 2 ^ 6)
  pb := ptrOf (f.hi / 2 ^ 9)
  ta := f.hi / 2 ^ 12 % 2 == 1
  fa := fmtOf (f.hi / 2 ^ 13 % 16)
  fb := fmtOf (f.hi / 2 ^ 17 % 16)
  mm := BitVec.ofNat 6 (f.hi / 2 ^ 21)
  nn := BitVec.ofNat 6 (f.hi / 2 ^ 27)
  kb := BitVec.ofNat 8 (f.hi / 2 ^ 33)
  woff := BitVec.ofNat 14 (f.hi / 2 ^ 41)
  opt := BitVec.ofNat 9 (f.hi / 2 ^ 55)

def candM (f : Fields) (c : Cls) (range unused : Bool) (i : Head → MArgs → Instr) : Option Cand :=
  cand f 2 c range [f.sa, f.sb, f.imm, bitOf (!unused)] (i f.head f.margs)

/-- `mwld` by OPT[1:0] (R190). -/
def candMwld (f : Fields) : Option Cand :=
  let m := f.margs
  match f.hi / 2 ^ 55 % 4 with
  | 0 => candM f .n (mwldRange m) (mwldUnused 0 m) .mwld
  | 1 => cand f 2 .n (mwldRange m) [f.sa, f.imm, bitOf (!mwldUnused 1 m)] (.mwldImg f.head (srcOf f.sb) m)
  | 2 => cand f 2 .n (mwldRange m) [f.sb, f.imm, bitOf (!mwldUnused 2 m)] (.mwldGl f.head (srcOf f.sa) m)
  | _ => cand f 2 .n false [] (.mwld f.head m)

/-- OPM 0x38 (R63). -/
def map38 (f : Fields) : Option Cand :=
  match f.fn with
  | 0 => candMwld f
  | 1 => candM f .n (mmaRange f.margs) (mmaUnused false f.margs) .mma
  | 2 => candM f .n (mmaRange f.margs) (mmaUnused true f.margs) .mmaSp
  | 3 => candM f .n (maccRange false f.margs) (maccUnused false f.margs) .mzero
  | _ => none

/-- The ownership instructions name a tile and nothing else (R187). -/
def candOwn (f : Fields) (c : Cls) (i : Head → Fin 64 → Instr) : Option Cand :=
  cand f 2 c true [f.sa, f.sb, f.imm, f.hi / 64] (i f.head (finOf 64 (by decide) f.hi))

/-- OPM 0x39 (R63). -/
def map39 (f : Fields) : Option Cand :=
  match f.fn with
  | 0 => candM f .n (maccRange true f.margs) (maccUnused true f.margs) .maccRd
  | 1 => candM f .n (maccRange true f.margs) (maccUnused true f.margs) .maccWr
  | 2 => candOwn f .l .macq
  | 3 => candOwn f .n .mrel
  | 4 => candOwn f .n .mpin
  | 5 => candOwn f .n .munpin
  | 6 => candM f .l (mstatRange f.margs) (mstatUnused f.margs) .mstat
  | _ => none

/-- OPM 0x3A (R63). -/
def map3A (f : Fields) : Option Cand :=
  match f.fn with
  | 0 => candM f .n true (deltaUnused 0 f.margs) .deltaUpd
  | 1 => candM f .n true (deltaUnused 1 f.margs) .deltaChunk
  | 2 => candM f .n true (deltaUnused 2 f.margs) .deltaQry
  | _ => none

/-! Engines, circuits and system (R57, R63, R213 to R235) -/

def Fields.plv (f : Fields) : Nat := f.hi / 2 ^ 20 % 8
def plvOf (x : Nat) : Fin 5 := finOf 5 (by decide) x
/-- Formats, rounding mode and scope hold codes (R57, R70, R207). DESIGN CHOICE (entry 107): R64 leaves open whether an
undefined code in a field that must be zero fails check 10 (0x07) or check 11 (0x08). Here codes of FM above 7, with FPG = 1
too, and RM = 3 of a copy fail check 10; those of `coll` and the matrix forms fail check 11. -/
def Fields.ecodes (f : Fields) : Bool :=
  decide (f.hi / 8 % 16 < 8) && decide (f.hi / 2 ^ 7 % 16 < 8) && f.hi / 2 ^ 12 % 4 != 3
    && f.hi / 2 ^ 14 % 8 != 0

def Fields.cpyArgs (f : Fields) : CpyArgs where
  ch := ptrOf f.hi
  fs := fmtOf (f.hi / 8 % 16)
  fm := fmtOf (f.hi / 2 ^ 7 % 16)
  fpg := f.hi / 2 ^ 11 % 2 == 1
  rm := rmOf (f.hi / 2 ^ 12 % 4)
  scope := scopeOf (f.hi / 2 ^ 14 % 8)
  kind := cpyKindOf (f.hi / 2 ^ 17 % 8)
  plv := plvOf f.plv
  rst := f.hi / 2 ^ 23 % 2 == 1
  rows := BitVec.ofNat 16 (f.hi / 2 ^ 24)
  lstr := BitVec.ofNat 19 (f.hi / 2 ^ 40)

/-- Check 10 of `cpy` and `cpy.2d` (R210, R213). -/
def Fields.cpyOk (f : Fields) : Bool :=
  f.ecodes && decide (f.hi / 2 ^ 17 % 8 < 5) && decide (f.plv < 5) && cpyRange f.cpyArgs

def Fields.gathArgs (f : Fields) : GathArgs where
  fs := fmtOf (f.hi / 8 % 16)
  fm := fmtOf (f.hi / 2 ^ 7 % 16)
  fpg := f.hi / 2 ^ 11 % 2 == 1
  rm := rmOf (f.hi / 2 ^ 12 % 4)
  scope := scopeOf (f.hi / 2 ^ 14 % 8)
  count := BitVec.ofNat 16 (f.hi / 2 ^ 17)
  rowel := BitVec.ofNat 16 (f.hi / 2 ^ 33)

def Fields.collArgs (f : Fields) : CollArgs where
  ch := ptrOf f.hi
  fs := fmtOf (f.hi / 8 % 16)
  scope := scopeOf (f.hi / 2 ^ 14 % 8)
  op := collOpOf (f.hi / 2 ^ 17 % 4)
  plv := plvOf f.plv
  p := BitVec.ofNat 6 (f.hi / 2 ^ 23)
  rank := BitVec.ofNat 6 (f.hi / 2 ^ 29)

/-- Check 10 of `coll` (R218). -/
def Fields.collOk (f : Fields) : Bool :=
  decide (f.hi / 8 % 16 < 8) && f.hi / 2 ^ 14 % 8 != 0 && f.hi / 2 ^ 17 % 4 != 3 && decide (f.plv < 5)
    && collRange f.collArgs

/-- OPM 0x3C (R63). -/
def map3C (f : Fields) : Option Cand :=
  match f.fn with
  | 0 => cand f 2 .n f.cpyOk [f.imm / 32, f.hi / 2 ^ 59, bitOf (!cpyUnused false true f.cpyArgs)]
      (.cpy f.head (srcOf f.sa) (srcOf f.sb) (srcOf (f.imm % 32)) f.cpyArgs)
  | 1 => cand f 2 .n f.cpyOk [f.imm / 1024, f.hi / 2 ^ 59,
      bitOf (!cpyUnused true (srcOf (f.imm / 32 % 32)).isZero f.cpyArgs)]
      (.cpy2d f.head (srcOf f.sa) (srcOf f.sb) (srcOf (f.imm % 32)) (srcOf (f.imm / 32 % 32)) f.cpyArgs)
  | 2 => cand f 0 .n true [f.sb, f.imm / 8] (.wpwait f.head (ptrOf f.imm) (srcOf f.sa))
  | 3 => cand f 2 .n (f.ecodes && gathRange f.gathArgs)
      [f.imm / 1024, f.hi % 8, f.hi / 2 ^ 49, bitOf (!gathUnused f.gathArgs)]
      (.gath f.head (srcOf f.sa) (srcOf f.sb) (srcOf (f.imm % 32)) (srcOf (f.imm / 32 % 32)) f.gathArgs)
  | 4 => cand f 2 .n f.collOk
      [f.imm / 32, f.hi / 2 ^ 7 % 2 ^ 7, f.hi / 2 ^ 19 % 2, f.hi / 2 ^ 35]
      (.coll f.head (srcOf f.sa) (srcOf f.sb) (srcOf (f.imm % 32)) f.collArgs)
  | 5 => cand f 2 .n true [f.imm / 1024, f.hi / 8] (.snap f.head (srcOf f.sa) (srcOf f.sb) (srcOf (f.imm % 32)) (srcOf (f.imm / 32 % 32)) (ptrOf f.hi))
  | 6 => cand f 0 .n (decide (f.sa < 8)) [f.imm] (.sigDec f.head (ptrOf f.sa) (srcOf f.sb))
  | 7 => cand f 2 .l true [f.sb, f.imm, f.hi] (.launch f.head (srcOf f.sa))
  | 8 => cand f 2 .n true [f.imm, f.hi % 2 ^ 17, f.hi / 2 ^ 18] (.arm f.head (srcOf f.sa) (srcOf f.sb) (f.hi / 2 ^ 17 % 2 == 1))
  | 9 => cand f 0 .n true [f.sb, f.imm] (.disarm f.head (srcOf f.sa))
  | _ => none

/-- OPM 0x3D (R63). -/
def map3D (f : Fields) : Option Cand :=
  match f.fn with
  | 0 => cand f 2 .l true [f.imm, f.hi % 2 ^ 17, f.hi / 2 ^ 19] (.cktReq f.head (srcOf f.sa) (srcOf f.sb) (cktKindOf (f.hi / 2 ^ 17 % 4)))
  | 1 => cand f 0 .n true [f.sb, f.imm] (.cktRel f.head (srcOf f.sa))
  | 2 => cand f 0 .l true [f.sb, f.imm] (.cktStat f.head (srcOf f.sa))
  | 3 => cand f 0 .l (f.imm % 4 != 3) [f.sb, f.imm / 4] (.locq f.head (srcOf f.sa) (finOf 3 (by decide) (f.imm % 4)))
  | _ => none

/-- OPM 0x3E (R63). -/
def map3E (f : Fields) : Option Cand :=
  match f.fn with
  | 0 => cand f 0 .n true [f.sa, f.sb, f.imm] (.tfence f.head)
  | 1 => cand f 0 .n true [f.sa, f.sb, f.imm / 256] (.trapN f.head (BitVec.ofNat 8 f.imm))
  | 2 => cand f 0 .n true [f.sa, f.sb, f.imm / 256] (.svc f.head (BitVec.ofNat 8 f.imm))
  | 3 => cand f 0 .n true [f.sa, f.sb, f.imm] (.eret f.head)
  | 4 => cand f 0 .s true [f.sa, f.sb, f.imm / 512] (.srd f.head (BitVec.ofNat 9 f.imm))
  | 5 => cand f 0 .n true [f.sb, f.imm / 512] (.swr f.head (BitVec.ofNat 9 f.imm) (srcOf f.sa))
  | 6 => cand f 0 .l true [f.sb] (.srsRd f.head (srcOf f.sa) (BitVec.ofNat 16 f.imm))
  | 7 => cand f 0 .n true [] (.srsWr f.head (srcOf f.sa) (srcOf f.sb) (BitVec.ofNat 16 f.imm))
  | 8 => cand f 0 .n (decide (f.imm % 16 ≤ 11)) [f.sa, f.sb, f.imm / 16] (.prio f.head (BitVec.ofNat 4 f.imm))
  | 9 => cand f 0 .s (f.imm % 4 != 3) [f.sa, f.sb, f.imm / 4] (.time f.head (finOf 3 (by decide) (f.imm % 4)))
  | 0xA => cand f 0 .l true [f.sa, f.sb, f.imm] (.chkpt f.head)
  | 0xB => cand f 0 .n true [f.sa, f.sb, f.imm / 8] (.pwrReq f.head (ptrOf f.imm))
  | 0xC => cand f 0 .n true [f.sa, f.sb, f.imm] (.halt f.head)
  | _ => none

/-- The opcode map: none for an OPM that is illegal or reserved (check 4), some none for an FN that is
not assigned (check 5) (R58). -/
def opMap (f : Fields) : Option (Option Cand) :=
  match f.opm with
  | 0x01 => some (map01 f)
  | 0x02 => some (map02 f)
  | 0x03 => some (map03 f)
  | 0x04 => some (map04 f)
  | 0x10 => some (map10 f)
  | 0x11 => some (map11 f)
  | 0x18 => some (map18 f)
  | 0x19 => some (map19 f)
  | 0x1C => some (map1C f)
  | 0x1D => some (map1D f)
  | 0x20 => some (candLoad f .ld)
  | 0x21 => some (candStore f .st)
  | 0x22 => some (candLoad f .ldg)
  | 0x23 => some (candStore f .stg)
  | 0x24 => some (map24 f)
  | 0x28 => some (map28 f)
  | 0x29 => some (map29 f)
  | 0x2A => some (map2A f)
  | 0x2C => some (map2C f)
  | 0x2D => some (map2D f)
  | 0x2E => some (map2E f)
  | 0x30 => some (map30 f)
  | 0x31 => some (map31 f)
  | 0x32 => some (map32 f)
  | 0x33 => some (map33 f)
  | 0x34 => some (map34 f)
  | 0x35 => some (map35 f)
  | 0x36 => some (map36 f)
  | 0x38 => some (map38 f)
  | 0x39 => some (map39 f)
  | 0x3A => some (map3A f)
  | 0x3C => some (map3C f)
  | 0x3D => some (map3D f)
  | 0x3E => some (map3E f)
  | _ => none

/-- Checks 4 to 12: the instruction, or the DETAIL of ILLEGAL_INSTRUCTION (R64). -/
def decodeFields (f : Fields) : Except Nat Instr :=
  match opMap f with
  | none => .error 1
  | some none => .error 2
  | some (some c) =>
    if !c.lenOk then .error 3
    else if !f.guardOk then .error 4
    else if !f.dstOk c.cls then .error 5
    else if !f.laOk c.cls then .error 6
    else if !c.range then .error 7
    else if !c.unused then .error 8
    else if !c.even then .error 9
    else .ok c.instr

/-- Why a word is no legal instruction: cause and DETAIL (R64). -/
structure DecodeError where
  cause : DecodeCause
  detail : Nat
  deriving DecidableEq, Repr

/-- Decodes the instruction at the head of the bytes that its fetch block holds from it on: the
instruction and its length in bytes. An instruction longer than these bytes crosses its block (R45, R46,
R64 checks 2 to 12). -/
def decode (bs : List Byte) : Except DecodeError (Instr × Nat) :=
  let w := ofBytes (bs.take 4)
  if bs.length < 4 then .error ⟨.illegalLength, 2⟩
  else if w = 3 then .ok (.padWord, 4)
  else if w % 4 = 3 then .error ⟨.illegalLength, 1⟩
  else
    let n := lenBytes (w % 4)
    if bs.length < n then .error ⟨.illegalLength, 2⟩
    else match decodeFields (fieldsOf (ofBytes (bs.take n))) with
      | .error d => .error ⟨.illegalInstruction, d⟩
      | .ok i => .ok (i, n)

/-- The instruction that the decoder reads from a word of the opcode table: bits from the low end of the
first word on, zero above them. -/
def decodeTableWord (nbits w : Nat) : Option Instr :=
  match decode (toBytes 16 (w % 2 ^ nbits)) with
  | .ok r => some r.1
  | .error _ => none

/-! ### The encoder -/

/-- The fields of an instruction with its head, other fields zero. -/
def Head.fields (h : Head) (len opm fn : Nat) : Fields where
  len := len
  opm := opm
  fn := fn
  la := h.la.val
  ge := h.guard.ge
  gn := h.guard.gn
  greg := h.guard.greg
  gbit := h.guard.gbit
  dst := h.dst.code
  sa := 0
  sb := 0
  imm := 0
  hi := 0

/-- A two-source integer instruction (R53). -/
def encInt2 (h : Head) (opm op : Nat) (a : Src) (b : IOp) : Fields :=
  match b with
  | .reg r => { h.fields 0 opm op with sa := a.code, sb := r.code }
  | .imm v => { h.fields 0 opm (64 + op) with sa := a.code, imm := v.toNat }
  | .const n => { h.fields 0 opm (128 + op) with sa := a.code, imm := n.toNat }
  | .lit v => { h.fields 1 opm (192 + op) with sa := a.code, hi := v.toNat }

/-- A three-source integer instruction. -/
def encInt3 (h : Head) (opm op : Nat) (a b : Src) (c : IOp) : Fields :=
  match c with
  | .reg r => { h.fields 0 opm op with sa := a.code, sb := b.code, imm := r.code }
  | .imm v => { h.fields 0 opm (64 + op) with sa := a.code, sb := b.code, imm := v.toNat }
  | .const n => { h.fields 0 opm (128 + op) with sa := a.code, sb := b.code, imm := n.toNat }
  | .lit v => { h.fields 1 opm (192 + op) with sa := a.code, sb := b.code, hi := v.toNat }

/-- A one-source instruction. -/
def encOne (h : Head) (opm op : Nat) (a : Src) : Fields := { h.fields 0 opm op with sa := a.code }

/-- A two-source FP32 instruction. -/
def encFlt2 (h : Head) (opm op : Nat) (a : Src) (b : FOp) : Fields :=
  match b with
  | .reg r => { h.fields 0 opm op with sa := a.code, sb := r.code }
  | .imm20 v => { h.fields 0 opm (64 + op) with sa := a.code, sb := v.toNat % 16 * 2, imm := v.toNat / 16 }
  | .const n => { h.fields 0 opm (128 + op) with sa := a.code, imm := n.toNat }
  | .lit v => { h.fields 1 opm (192 + op) with sa := a.code, hi := v.toNat }

/-- `ffma`. -/
def encFfma (h : Head) (a b : Src) (c : FOp) : Fields :=
  match c with
  | .reg r => { h.fields 0 0x10 3 with sa := a.code, sb := b.code, imm := r.code }
  | .imm20 _ => { h.fields 0 0x10 67 with sa := a.code, sb := b.code }
  | .const n => { h.fields 0 0x10 131 with sa := a.code, sb := b.code, imm := n.toNat }
  | .lit v => { h.fields 1 0x10 195 with sa := a.code, sb := b.code, hi := v.toNat }

def encLoad (h : Head) (opm : Nat) (m : MemOp) (sz : Size) (u : Bool) (o : Option Scope) : Fields :=
  { h.fields 0 opm (sz.code + 4 * bitOf u + 8 * m.am + 32 * ordCode o) with sa := m.ptr, imm := m.immF }
def encStore (h : Head) (opm : Nat) (m : MemOp) (sz : Size) (o : Option Scope) (b : Src) : Fields :=
  { h.fields 0 opm (sz.code + 8 * m.am + 32 * ordCode o) with sa := m.ptr, sb := b.code, imm := m.immF }
def encSync (h : Head) (op : Nat) (m : MemOp) (b : Nat) : Fields :=
  { h.fields 0 0x24 (op + 8 * m.am) with sa := m.ptr, sb := b, imm := m.immF }
def encAmo (h : Head) (op : Nat) (x : AmoArgs) (c : Nat) : Fields :=
  { h.fields 0 0x28 (op + 16 * bitOf x.dw + 32 * ordCode x.scope) with
    sa := x.p.val, sb := x.b.code, imm := c + 32 * bitOf x.glob }
def encRed (h : Head) (op : Nat) (x : RedArgs) : Fields :=
  { h.fields 0 0x29 (op + 16 * bitOf x.dw + 32 * ordCode x.scope) with sa := x.p.val, sb := x.b.code }

/-- The second word of format V (R55). -/
def VArgs.word (v : VArgs) : Nat :=
  v.d.code + 32 * (v.x.code + 32 * (v.y.code + 32 * (v.z.code + 32 * (v.ty.code.toNat + 16 * (v.rm.code
    + 4 * (v.opt.toNat + 64 * v.imm.toNat))))))
def encV (h : Head) (opm fn : Nat) (v : VArgs) : Fields :=
  { h.fields 2 opm fn with sa := v.x.reg, sb := v.y.reg, imm := v.z.reg, hi := v.word }

/-- The second word of format M (R56). -/
def MArgs.word (m : MArgs) : Nat :=
  m.acc.val + 64 * (m.pa.val + 8 * (m.pb.val + 8 * (bitOf m.ta + 2 * (m.fa.code + 16 * (m.fb.code
    + 16 * (m.mm.toNat + 64 * (m.nn.toNat + 64 * (m.kb.toNat + 256 * (m.woff.toNat + 2 ^ 14 * m.opt.toNat)))))))))
def encM (h : Head) (opm fn : Nat) (m : MArgs) : Fields := { h.fields 2 opm fn with hi := m.word }
def encOwn (h : Head) (fn : Nat) (a : Fin 64) : Fields := { h.fields 2 0x39 fn with hi := a.val }

/-- The second word of format E (R57, R213, R217, R218). -/
def CpyArgs.word (e : CpyArgs) : Nat :=
  e.ch.val + 8 * (e.fs.code + 16 * (e.fm.code + 16 * (bitOf e.fpg + 2 * (e.rm.code + 4 * (e.scope.code
    + 8 * (e.kind.code + 8 * (e.plv.val + 8 * (bitOf e.rst + 2 * (e.rows.toNat + 65536 * e.lstr.toNat)))))))))
def GathArgs.word (e : GathArgs) : Nat :=
  8 * (e.fs.code + 16 * (e.fm.code + 16 * (bitOf e.fpg + 2 * (e.rm.code + 4 * (e.scope.code
    + 8 * (e.count.toNat + 65536 * e.rowel.toNat))))))
def CollArgs.word (e : CollArgs) : Nat :=
  e.ch.val + 8 * (e.fs.code + 2 ^ 11 * (e.scope.code + 8 * (e.op.code + 8 * (e.plv.val
    + 8 * (e.p.toNat + 64 * e.rank.toNat)))))

/-- The fields of an instruction; none for a hardware step, and for the pad word, which is one word. -/
def Instr.fields : Instr → Option Fields
  | .add h a b => some (encInt2 h 0x01 0 a b)
  | .sub h a b => some (encInt2 h 0x01 1 a b)
  | .mul h a b => some (encInt2 h 0x01 2 a b)
  | .mulh h a b => some (encInt2 h 0x01 3 a b)
  | .mulhu h a b => some (encInt2 h 0x01 4 a b)
  | .div h a b => some (encInt2 h 0x01 5 a b)
  | .divu h a b => some (encInt2 h 0x01 6 a b)
  | .rem h a b => some (encInt2 h 0x01 7 a b)
  | .remu h a b => some (encInt2 h 0x01 8 a b)
  | .minS h a b => some (encInt2 h 0x01 9 a b)
  | .maxS h a b => some (encInt2 h 0x01 10 a b)
  | .minu h a b => some (encInt2 h 0x01 11 a b)
  | .maxu h a b => some (encInt2 h 0x01 12 a b)
  | .andW h a b => some (encInt2 h 0x02 0 a b)
  | .orW h a b => some (encInt2 h 0x02 1 a b)
  | .xorW h a b => some (encInt2 h 0x02 2 a b)
  | .andn h a b => some (encInt2 h 0x02 3 a b)
  | .orn h a b => some (encInt2 h 0x02 4 a b)
  | .shl h a b => some (encInt2 h 0x02 5 a b)
  | .shr h a b => some (encInt2 h 0x02 6 a b)
  | .sra h a b => some (encInt2 h 0x02 7 a b)
  | .rot h a b => some (encInt2 h 0x02 8 a b)
  | .clz h a => some (encOne h 0x03 0 a)
  | .ctz h a => some (encOne h 0x03 1 a)
  | .popc h a => some (encOne h 0x03 2 a)
  | .bext h a b => some (encInt2 h 0x03 3 a b)
  | .bins h a b c => some (encInt3 h 0x03 4 a b c)
  | .sext h a b => some (encInt2 h 0x03 5 a b)
  | .zext h a b => some (encInt2 h 0x03 6 a b)
  | .sel h a b c => some (encInt3 h 0x03 7 a b c)
  | .ceq h a b => some (encInt2 h 0x04 0 a b)
  | .cne h a b => some (encInt2 h 0x04 1 a b)
  | .clt h a b => some (encInt2 h 0x04 2 a b)
  | .cle h a b => some (encInt2 h 0x04 3 a b)
  | .cltu h a b => some (encInt2 h 0x04 4 a b)
  | .cleu h a b => some (encInt2 h 0x04 5 a b)
  | .fadd h a b => some (encFlt2 h 0x10 0 a b)
  | .fsub h a b => some (encFlt2 h 0x10 1 a b)
  | .fmul h a b => some (encFlt2 h 0x10 2 a b)
  | .ffma h a b c => some (encFfma h a b c)
  | .fmin h a b => some (encFlt2 h 0x10 4 a b)
  | .fmax h a b => some (encFlt2 h 0x10 5 a b)
  | .fabs h a => some (encOne h 0x10 6 a)
  | .fneg h a => some (encOne h 0x10 7 a)
  | .frcp h a => some (encOne h 0x10 8 a)
  | .frsq h a => some (encOne h 0x10 9 a)
  | .fceq h a b => some (encFlt2 h 0x11 0 a b)
  | .fclt h a b => some (encFlt2 h 0x11 1 a b)
  | .fcle h a b => some (encFlt2 h 0x11 2 a b)
  | .fclass h a => some (encOne h 0x11 3 a)
  | .fcvt h a k rm => some ({ h.fields 0 0x11 4 with sa := a.code, imm := k.code + 16 * rm.code })
  | .movi h v => some ({ h.fields 0 0x18 0 with imm := v.toNat })
  | .movhi h a v => some ({ h.fields 1 0x18 1 with sa := a.code, hi := v.toNat })
  | .movR h a => some ({ h.fields 0 0x18 2 with sa := a.code })
  | .lit h v => some ({ h.fields 1 0x18 3 with hi := v.toNat })
  | .pset h p a b => some ({ h.fields 0 0x19 0 with sa := a.code, sb := b.code, imm := p.val })
  | .psetKeep h p a => some ({ h.fields 0 0x19 0 with sa := a.code, imm := p.val + 8 })
  | .padd h p a => some ({ h.fields 0 0x19 1 with sa := a.code, imm := p.val })
  | .paddImm h p v => some ({ h.fields 1 0x19 1 with imm := p.val, hi := v.toNat })
  | .pget h p sr => some ({ h.fields 0 0x19 2 with imm := p.val + 8 * bitOf sr })
  | .br h o => some ({ h.fields 0 0x1C 0 with imm := o.toNat })
  | .jmp h o => some ({ h.fields 1 0x1C 1 with hi := o.toNat })
  | .call h o => some ({ h.fields 1 0x1C 2 with hi := o.toNat })
  | .ret h a => some ({ h.fields 0 0x1C 3 with sa := a.code })
  | .brx h a => some ({ h.fields 0 0x1C 4 with sa := a.code })
  | .loopI h a o => some ({ h.fields 1 0x1C 5 with sa := a.code, hi := o.toNat })
  | .hstart h n o => some ({ h.fields 1 0x1D 0 with imm := n.toNat, hi := o.toNat })
  | .hjoin h n => some ({ h.fields 0 0x1D 1 with imm := n.toNat })
  | .hexit h => some (h.fields 0 0x1D 2)
  | .nop h => some (h.fields 0 0x1D 3)
  | .ld h m sz u o => some (encLoad h 0x20 m sz u o)
  | .st h m sz o b => some (encStore h 0x21 m sz o b)
  | .ldg h m sz u o => some (encLoad h 0x22 m sz u o)
  | .stg h m sz o b => some (encStore h 0x23 m sz o b)
  | .ldsync h m => some (encSync h 0 m 0)
  | .ldsyncC h m => some (encSync h 1 m 0)
  | .stfull h m b => some (encSync h 2 m b.code)
  | .setempty h m => some (encSync h 3 m 0)
  | .amoSwap h x => some (encAmo h 0 x 0)
  | .amoCas h x c => some (encAmo h 1 x c.code)
  | .amoAdd h x => some (encAmo h 2 x 0)
  | .amoFadd h x => some (encAmo h 3 x 0)
  | .amoMin h x => some (encAmo h 4 x 0)
  | .amoMax h x => some (encAmo h 5 x 0)
  | .amoAnd h x => some (encAmo h 6 x 0)
  | .amoOr h x => some (encAmo h 7 x 0)
  | .amoXor h x => some (encAmo h 8 x 0)
  | .redAdd h x => some (encRed h 0 x)
  | .redFadd h x => some (encRed h 1 x)
  | .redMin h x => some (encRed h 2 x)
  | .redMax h x => some (encRed h 3 x)
  | .redAnd h x => some (encRed h 4 x)
  | .redOr h x => some (encRed h 5 x)
  | .redXor h x => some (encRed h 6 x)
  | .fence h sc => some (h.fields 0 0x2A sc.code)
  | .fenceAcq h sc => some (h.fields 0 0x2A (8 + sc.code))
  | .fenceRel h sc => some (h.fields 0 0x2A (16 + sc.code))
  | .barArv h l => some ({ h.fields 0 0x2C 0 with imm := l.val })
  | .barWait h t l => some ({ h.fields 0 0x2C 1 with sa := t.code, imm := l.val })
  | .barSync h l => some ({ h.fields 0 0x2C 2 with imm := l.val })
  | .evsig h n => some ({ h.fields 0 0x2C 3 with imm := n.val })
  | .rdvPut h k v => some ({ h.fields 0 0x2D 0 with sa := k.code, sb := v.code })
  | .rdvGet h k => some ({ h.fields 0 0x2D 1 with sa := k.code })
  | .rqput h p d n => some ({ h.fields 0 0x2D 2 with sa := p.val, sb := d.code, imm := n.val })
  | .rqtake h p n => some ({ h.fields 0 0x2D 3 with sa := p.val, sb := n.code })
  | .ringDef h a b d n l k => some ({ h.fields 0 0x2E 0 with
      sa := a.code, sb := b.code, imm := k.val + 8 * (l.val + 4 * (n.toNat + 32 * d.toNat)) })
  | .vadd h v => some (encV h 0x30 0 v)
  | .vsub h v => some (encV h 0x30 1 v)
  | .vmul h v => some (encV h 0x30 2 v)
  | .vfma h v => some (encV h 0x30 3 v)
  | .vfms h v => some (encV h 0x30 4 v)
  | .vmin h v => some (encV h 0x30 5 v)
  | .vmax h v => some (encV h 0x30 6 v)
  | .vabs h v => some (encV h 0x30 7 v)
  | .vneg h v => some (encV h 0x30 8 v)
  | .vexp2 h v => some (encV h 0x31 0 v)
  | .vlog2 h v => some (encV h 0x31 1 v)
  | .vrcp h v => some (encV h 0x31 2 v)
  | .vrsq h v => some (encV h 0x31 3 v)
  | .vcvt h v => some (encV h 0x31 4 v)
  | .vand h v => some (encV h 0x32 0 v)
  | .vor h v => some (encV h 0x32 1 v)
  | .vxor h v => some (encV h 0x32 2 v)
  | .vshl h v => some (encV h 0x32 3 v)
  | .vshr h v => some (encV h 0x32 4 v)
  | .vsra h v => some (encV h 0x32 5 v)
  | .vcmp h v => some (encV h 0x32 6 v)
  | .vsel h v => some (encV h 0x32 7 v)
  | .vbcast h v => some (encV h 0x33 0 v)
  | .vmov h v => some (encV h 0x33 1 v)
  | .vperm h v => some (encV h 0x33 2 v)
  | .vredadd h v => some (encV h 0x34 0 v)
  | .vredmax h v => some (encV h 0x34 1 v)
  | .vredmin h v => some (encV h 0x34 2 v)
  | .vscan h v => some (encV h 0x34 3 v)
  | .vgath h v => some (encV h 0x35 0 v)
  | .vscat h v => some (encV h 0x35 1 v)
  | .vsetvl h a => some ({ h.fields 0 0x36 0 with sa := a.code })
  | .vsetvlImm h n => some ({ h.fields 0 0x36 1 with imm := n.toNat })
  | .mwld h m => some (encM h 0x38 0 m)
  | .mwldImg h g m => some ({ encM h 0x38 0 m with sb := g.code })
  | .mwldGl h g m => some ({ encM h 0x38 0 m with sa := g.code })
  | .mma h m => some (encM h 0x38 1 m)
  | .mmaSp h m => some (encM h 0x38 2 m)
  | .mzero h m => some (encM h 0x38 3 m)
  | .maccRd h m => some (encM h 0x39 0 m)
  | .maccWr h m => some (encM h 0x39 1 m)
  | .macq h a => some (encOwn h 2 a)
  | .mrel h a => some (encOwn h 3 a)
  | .mpin h a => some (encOwn h 4 a)
  | .munpin h a => some (encOwn h 5 a)
  | .mstat h m => some (encM h 0x39 6 m)
  | .deltaUpd h m => some (encM h 0x3A 0 m)
  | .deltaChunk h m => some (encM h 0x3A 1 m)
  | .deltaQry h m => some (encM h 0x3A 2 m)
  | .cpy h a b c e => some ({ h.fields 2 0x3C 0 with sa := a.code, sb := b.code, imm := c.code, hi := e.word })
  | .cpy2d h a b c d e => some ({ h.fields 2 0x3C 1 with sa := a.code, sb := b.code, imm := c.code + 32 * d.code, hi := e.word })
  | .wpwait h c a => some ({ h.fields 0 0x3C 2 with sa := a.code, imm := c.val })
  | .gath h a b c d e => some ({ h.fields 2 0x3C 3 with sa := a.code, sb := b.code, imm := c.code + 32 * d.code, hi := e.word })
  | .coll h a b c e => some ({ h.fields 2 0x3C 4 with sa := a.code, sb := b.code, imm := c.code, hi := e.word })
  | .snap h a b c d ch => some ({ h.fields 2 0x3C 5 with sa := a.code, sb := b.code, imm := c.code + 32 * d.code, hi := ch.val })
  | .sigDec h p b => some ({ h.fields 0 0x3C 6 with sa := p.val, sb := b.code })
  | .launch h r => some ({ h.fields 2 0x3C 7 with sa := r.code })
  | .arm h r t p => some ({ h.fields 2 0x3C 8 with sa := r.code, sb := t.code, hi := 2 ^ 17 * bitOf p })
  | .disarm h t => some ({ h.fields 0 0x3C 9 with sa := t.code })
  | .cktReq h d n k => some ({ h.fields 2 0x3D 0 with sa := d.code, sb := n.code, hi := 2 ^ 17 * k.code })
  | .cktRel h a => some ({ h.fields 0 0x3D 1 with sa := a.code })
  | .cktStat h a => some ({ h.fields 0 0x3D 2 with sa := a.code })
  | .locq h a k => some ({ h.fields 0 0x3D 3 with sa := a.code, imm := k.val })
  | .tfence h => some (h.fields 0 0x3E 0)
  | .trapN h n => some ({ h.fields 0 0x3E 1 with imm := n.toNat })
  | .svc h n => some ({ h.fields 0 0x3E 2 with imm := n.toNat })
  | .eret h => some (h.fields 0 0x3E 3)
  | .srd h n => some ({ h.fields 0 0x3E 4 with imm := n.toNat })
  | .swr h n a => some ({ h.fields 0 0x3E 5 with sa := a.code, imm := n.toNat })
  | .srsRd h u n => some ({ h.fields 0 0x3E 6 with sa := u.code, imm := n.toNat })
  | .srsWr h u b n => some ({ h.fields 0 0x3E 7 with sa := u.code, sb := b.code, imm := n.toNat })
  | .prio h n => some ({ h.fields 0 0x3E 8 with imm := n.toNat })
  | .time h k => some ({ h.fields 0 0x3E 9 with imm := k.val })
  | .chkpt h => some (h.fields 0 0x3E 0xA)
  | .pwrReq h k => some ({ h.fields 0 0x3E 0xB with imm := k.val })
  | .halt h => some (h.fields 0 0x3E 0xC)
  | .padWord
  | .globalLoadReturn .. | .stgHomePerform .. | .peerLoadTargetRead .. | .amoHomeReply ..
  | .heldArrivalPerform .. | .barrierPhaseComplete .. | .eventFireArrive .. | .evwaitLoad ..
  | .mutexTake .. | .mutexTry .. | .mutexRelease .. | .tileBarrierArrive .. | .tileBarrierWait ..
  | .tbcfgWrite .. | .rqcfgWrite .. | .rqputReservationArrive .. | .rqputDeliver .. | .rqFreeNotice ..
  | .vectorGroup .. | .vectorCompletion .. | .tileOp .. | .matrixCommandComplete ..
  | .matrixErrorEnd .. | .tileRestore .. | .engineTranslationDone .. | .channelLineWrite ..
  | .engineCommandComplete .. | .engineFaultEnd .. | .launchAccept .. | .srsRdAnswer ..
  | .bankpwrWrite .. | .bankWakeDone .. | .retBankWake .. | .mqwtWrite .. | .lqEnable .. | .lqNotify ..
  | .lqFetch .. | .lqRereadTimer .. | .taggedLaunchMessage .. | .waitvaPoll .. | .sheafPlace ..
  | .placementRetest .. | .sheafStop .. | .stopTimeout .. | .speltSaveDone .. | .sheafResume ..
  | .ageLimitExpiry .. | .sheafMigrate .. | .sheafRetire .. | .gangReserved .. | .gangCommit ..
  | .gangStartSlot .. | .gangArrivalMessage .. | .gkreqWrite .. | .gangnWrite .. | .deadlockDetect ..
  | .svcresWrite .. | .batchServe .. | .checkpointCopyDone .. | .unnumberedCheckpoint .. | .sliceEnd ..
  | .saveStartTimer .. | .tenantTurn .. | .tlbinv1Write .. | .tlbinv2Write .. | .tlbInvalidationDone ..
  | .ptdataWrite .. | .s2ptdataWrite .. | .s2ptclr .. | .pageMove .. | .pageMoveDone ..
  | .pageResponse .. | .atsTranslationCompletion .. | .atsInvalidationRequest .. | .vdReset ..
  | .zeroingDone .. | .keyLoad .. | .keyClear .. | .signalWindowRead .. | .hostUnsupportedAccess ..
  | .fabcfgWrite .. | .fabquotaWrite .. | .configTrain | .bromeRequest | .bromeRelease | .bromeAnswer
  | .circuitResize .. | .circuitFlitArrive .. | .memRequestInject .. | .memResponse .. | .portCfgWrite ..
  | .ptpMessage .. | .ethLaunchFrame .. | .ethBulkFrame .. | .pointTransition ..
  | .pointTransitionDone .. | .slewGrantUp .. | .slewGrantDown .. | .rampStepEnd .. | .ptctlWrite ..
  | .ptrampWrite .. | .vdschedWrite .. | .thermalSample .. | .thermlimWrite .. | .pwrcapWrite ..
  | .powerWindow .. | .powerCapAdjust | .coldReset | .bringupStageDone .. | .pf0Flr | .vfFlr ..
  | .attReport | .attCertChain | .attestDone | .uncorrectableRegisterError .. | .ageingSample ..
  | .guardForceTransition .. | .registerWrite .. | .illegalInstruction .. | .pendingResultWrite ..
  | .supplyRampDone .. | .thermalMoveDone .. | .speltRestoreDone .. | .checkpointRecorded ..
  | .keyCommandDone | .netCircuitActive .. | .abandonedSlotReuse .. => none

/-- The bytes of an instruction in memory order; empty for a hardware step (R8, R45). -/
def encode (i : Instr) : List Byte :=
  match i with
  | .padWord => toBytes 4 3
  | i =>
    match i.fields with
    | none => []
    | some f => toBytes (lenBytes f.len) f.word

end Sys2Proof
end

