-- ==== Sys2Proof/Machine/Aes.lean ====
section
/-! DEFINITION. AES-256 (FIPS 197) and its XTS mode (NIST SP 800-38E) on a 64-byte line, as 12 R315 names them. The standards
are not part of the specification's text: their content is PRESUMED (entry 6). -/

namespace Sys2Proof.Machine

/-! ### The field of 256 elements -/

def aesDouble (a : Nat) : Nat := if a < 128 then 2 * a else (2 * a) ^^^ 0x11B

/-- The product of two field elements; the first argument counts the bits of the last. -/
def aesMulBits : Nat → Nat → Nat → Nat
  | 0, _, _ => 0
  | k + 1, a, b => (if b % 2 = 1 then a else 0) ^^^ aesMulBits k (aesDouble a) (b / 2)

def aesMul (a b : Nat) : Nat := aesMulBits 8 a b

/-- The inverse, with 0 for 0: the 254th power. -/
def aesInv (a : Nat) : Nat :=
  let sq (x : Nat) : Nat := aesMul x x
  let a2 := sq a
  let a4 := sq a2
  let a8 := sq a4
  let a16 := sq a8
  let a32 := sq a16
  let a64 := sq a32
  aesMul (aesMul (aesMul a2 a4) (aesMul a8 a16)) (aesMul (aesMul a32 a64) (sq a64))

def aesRot (x n : Nat) : Nat := (x * 2 ^ n + x / 2 ^ (8 - n)) % 256

def aesSub (x : Nat) : Nat :=
  let i := aesInv x
  i ^^^ aesRot i 1 ^^^ aesRot i 2 ^^^ aesRot i 3 ^^^ aesRot i 4 ^^^ 0x63

def aesUnsub (x : Nat) : Nat := aesInv (aesRot x 1 ^^^ aesRot x 3 ^^^ aesRot x 6 ^^^ 0x05)

/-! ### The cipher on 16 bytes, column by column -/

def xorBytes (a b : List Nat) : List Nat := (a.zip b).map fun p => p.1 ^^^ p.2

/-- The key words from the i-th on, of 4 bytes each; the latest word comes first. -/
def aesExpand : (left i : Nat) → List (List Nat) → List (List Nat)
  | 0, _, ws => ws
  | k + 1, i, ws =>
    let last := ws.headD []
    let t := if i % 8 = 0 then
        xorBytes ((last.drop 1 ++ last.take 1).map aesSub) [2 ^ (i / 8 - 1), 0, 0, 0]
      else if i % 8 = 4 then last.map aesSub else last
    aesExpand k (i + 1) (xorBytes (ws.getD 7 []) t :: ws)

/-- The 15 round keys of a 32-byte key, 16 bytes each. -/
def aesRoundKeys (key : List Nat) : List (List Nat) :=
  let ws := (List.range 8).reverse.map fun i => (key.drop (4 * i)).take 4
  let all := (aesExpand 52 8 ws).reverse
  (List.range 15).map fun r => ((all.drop (4 * r)).take 4).flatten

/-- Moves row r by r columns, forward or back. -/
def aesRows (back : Bool) (st : List Nat) : List Nat :=
  (List.range 16).map fun k =>
    let r := k % 4
    let c := k / 4
    st.getD (4 * ((c + if back then 4 - r else r) % 4) + r) 0

/-- Multiplies each column by the circulant matrix of four factors. -/
def aesColumns (m : List Nat) (st : List Nat) : List Nat :=
  (List.range 16).map fun k =>
    (List.range 4).foldl (fun x i => x ^^^ aesMul (m.getD ((i + 4 - k % 4) % 4) 0) (st.getD (4 * (k / 4) + i) 0)) 0

def aesEncrypt (keys : List (List Nat)) (block : List Nat) : List Nat :=
  let st := xorBytes block (keys.headD [])
  let st := (keys.drop 1).zipIdx.foldl (fun st k =>
    let t := aesRows false (st.map aesSub)
    xorBytes (if k.2 = 13 then t else aesColumns [2, 3, 1, 1] t) k.1) st
  st

def aesDecrypt (keys : List (List Nat)) (block : List Nat) : List Nat :=
  let ks := keys.reverse
  let st := xorBytes block (ks.headD [])
  (ks.drop 1).zipIdx.foldl (fun st k =>
    let t := xorBytes ((aesRows true st).map aesUnsub) k.1
    if k.2 = 13 then t else aesColumns [14, 11, 13, 9] t) st

/-! ### XTS on a line -/

def natBytes (n v : Nat) : List Nat := (List.range n).map fun i => v / 256 ^ i % 256
def bytesNat (bs : List Nat) : Nat := bs.foldr (fun b n => b + 256 * n) 0

/-- The bytes of key words, each in little-endian order (PRESUMED, entry 6). -/
def keyBytes (ws : List W64) : List Nat := ws.flatMap fun w => natBytes 8 w.toNat

/-- The next tweak: a product by x. -/
def xtsNext (t : Nat) : Nat := if t < 2 ^ 127 then 2 * t else (2 * t) % 2 ^ 128 ^^^ 0x87

/-- A 64-byte line through XTS: the data key is words 0 to 3, the tweak key words 4 to 7, the tweak DPA bits [38:6]. -/
def xtsLine (decrypt : Bool) (key : List W64) (line : Nat) (bs : List Nat) : List Nat :=
  let k1 := aesRoundKeys (keyBytes (key.take 4))
  let k2 := aesRoundKeys (keyBytes (key.drop 4))
  let t0 := bytesNat (aesEncrypt k2 (natBytes 16 line))
  let go (p : List Nat × Nat) (j : Nat) : List Nat × Nat :=
    let t := natBytes 16 p.2
    let x := xorBytes ((bs.drop (16 * j)).take 16) t
    let y := if decrypt then aesDecrypt k1 x else aesEncrypt k1 x
    (p.1 ++ xorBytes y t, xtsNext p.2)
  ((List.range 4).foldl go ([], t0)).1

/-- What a line written under one key reads as under another; no key words stand for plaintext (R315). -/
def rekeyLine (written reading : List W64) (line : Nat) (bs : List Byte) : List Byte :=
  let x := bs.map BitVec.toNat
  let c := if written = [] then x else xtsLine false written line x
  let p := if reading = [] then c else xtsLine true reading line c
  p.map (BitVec.ofNat 8)

end Sys2Proof.Machine
end

