-- ==== Sys2Proof/Machine/Flags.lean ====
section
/-! DEFINITION. The arithmetic flags (01 R28) and exact arithmetic rounded once (03 R70 to R92): FP32 and
BF16, the correctly rounded functions, conversions, stochastic rounding, block formats and the matrix path. -/

namespace Sys2Proof.Machine

/-- Flags in the bit layout of AFLAGS (R28). -/
abbrev Flags := BitVec 6

def fNV : Flags := 1
def fDZ : Flags := 2
def fOF : Flags := 4
def fUF : Flags := 8
def fNX : Flags := 16
def fSAT : Flags := 32

/-- The flags f when b holds. -/
def fIf (b : Bool) (f : Flags) : Flags := if b then f else 0

/-- A binary format: precision p, exponent emin of the least subnormal, width in bits (R71). -/
structure FFmt where
  p : Nat
  emin : Int
  w : Nat
  deriving DecidableEq, Repr

def fp32 : FFmt := ⟨24, -149, 32⟩
def bf16 : FFmt := ⟨8, -133, 16⟩

/-- An exact value: a NaN, an infinity, or (−1)^neg × m × 2^e. -/
inductive FVal where
  | nan (signalling : Bool)
  | inf (neg : Bool)
  | fin (neg : Bool) (m : Nat) (e : Int)
  deriving DecidableEq, Repr

/-- The value of a bit pattern; e is the exponent of the unit in the last place of its format (R71, R83). -/
def FFmt.unpack (f : FFmt) (x : Nat) : FVal :=
  let frac := x % 2 ^ (f.p - 1)
  let ex := (x / 2 ^ (f.p - 1)) % 256
  let neg := (x / 2 ^ (f.w - 1)) % 2 == 1
  if ex = 255 then
    (if frac = 0 then .inf neg else .nan ((frac / 2 ^ (f.p - 2)) % 2 == 0))
  else if ex = 0 then .fin neg frac f.emin
  else .fin neg (frac + 2 ^ (f.p - 1)) (f.emin + (ex : Int) - 1)

def FFmt.signBit (f : FFmt) (neg : Bool) : Nat := if neg then 2 ^ (f.w - 1) else 0
/-- The pattern of an infinity. -/
def FFmt.infP (f : FFmt) (neg : Bool) : Nat := f.signBit neg + 255 * 2 ^ (f.p - 1)
/-- The default NaN (R71). -/
def FFmt.nanP (f : FFmt) : Nat := 255 * 2 ^ (f.p - 1) + 2 ^ (f.p - 2)
/-- The largest finite magnitude. -/
def FFmt.maxP (f : FFmt) (neg : Bool) : Nat := f.signBit neg + 255 * 2 ^ (f.p - 1) - 1
def FFmt.zeroP (f : FFmt) (neg : Bool) : Nat := f.signBit neg

/-- A rounding mode with the generator's state after its step (R83). -/
inductive Mode where
  | rne
  | rtz
  | sr (rnd : W32)
  deriving DecidableEq, Repr

/-- Rounds m × 2^e, plus a positive excess below one unit of 2^e when sticky holds, to a multiple of
2^u: the multiple and whether it is inexact (R79, R83). -/
def roundUnit (md : Mode) (m : Nat) (e u : Int) (sticky : Bool) : Nat × Bool :=
  if u ≤ e then (m * 2 ^ (e - u).toNat, sticky)
  else
    let sh := (u - e).toNat
    let n := m >>> sh
    let r := m % 2 ^ sh
    let up := match md with
      | .rne => decide (2 * r > 2 ^ sh) || (decide (2 * r = 2 ^ sh) && (sticky || n % 2 == 1))
      | .rtz => false
      | .sr rnd =>
        let k := min 32 sh
        decide (rnd.toNat % 2 ^ k < r >>> (sh - k))
    (if up then n + 1 else n, r != 0 || sticky)

/-- The pattern of n × 2^u in a format, n × 2^u being representable or above its range (R80, R85). -/
def FFmt.pack (f : FFmt) (md : Mode) (neg : Bool) (n : Nat) (u : Int) : Nat × Bool :=
  let (n, u) := if n = 2 ^ f.p then (2 ^ (f.p - 1), u + 1) else (n, u)
  if n < 2 ^ (f.p - 1) then (f.signBit neg + n, false)
  else
    let ex := (u - f.emin).toNat + 1
    if 255 ≤ ex then ((if md = .rtz then f.maxP neg else f.infP neg), true)
    else (f.signBit neg + ex * 2 ^ (f.p - 1) + (n - 2 ^ (f.p - 1)), false)

/-- One rounding of an exact nonzero magnitude to a format, with the flags of R80 and R85: tininess is
detected after rounding. -/
def FFmt.round (f : FFmt) (md : Mode) (neg : Bool) (m : Nat) (e : Int) (sticky : Bool := false) : Nat × Flags :=
  if m = 0 then (f.zeroP neg, fIf sticky (fNX ||| fUF))
  else
    let lg : Int := (Nat.log2 m : Int) + e
    let uFree := lg - ((f.p : Int) - 1)
    let u := max f.emin uFree
    let (n, inexact) := roundUnit md m e u sticky
    let (n', _) := roundUnit md m e uFree sticky
    let tiny := decide (uFree < f.emin) &&
      !(decide (n' = 2 ^ f.p) && decide (uFree + 1 = f.emin))
    let (x, ovf) := f.pack md neg n u
    (x, fIf ovf (fOF ||| fNX) ||| fIf inexact fNX ||| fIf (tiny && inexact) fUF)

def anyNaN (a b : FVal) : Bool :=
  match a, b with
  | .nan _, _ => true
  | _, .nan _ => true
  | _, _ => false

/-- Whether a value is a signalling NaN. -/
def FVal.snan : FVal → Bool
  | .nan s => s
  | _ => false

def FVal.isNaN : FVal → Bool
  | .nan _ => true
  | _ => false

def FVal.neg : FVal → Bool
  | .nan _ => false
  | .inf n => n
  | .fin n _ _ => n

def FVal.negate : FVal → FVal
  | .nan s => .nan s
  | .inf n => .inf (!n)
  | .fin n m e => .fin (!n) m e

/-- The exact sum of two finite values as a signed integer and an exponent. -/
def addExact (n1 : Bool) (m1 : Nat) (e1 : Int) (n2 : Bool) (m2 : Nat) (e2 : Int) : Int × Int :=
  let e := min e1 e2
  let a : Int := (m1 * 2 ^ (e1 - e).toNat : Nat)
  let b : Int := (m2 * 2 ^ (e2 - e).toNat : Nat)
  ((if n1 then -a else a) + (if n2 then -b else b), e)

/-- The sum of two values, rounded once (R80, R105). -/
def FFmt.addV (f : FFmt) (a b : FVal) : Nat × Flags :=
  match a, b with
  | .nan s, .nan t => (f.nanP, fIf (s || t) fNV)
  | .nan s, _ => (f.nanP, fIf s fNV)
  | _, .nan s => (f.nanP, fIf s fNV)
  | .inf n, .inf k => if n = k then (f.infP n, 0) else (f.nanP, fNV)
  | .inf n, .fin .. => (f.infP n, 0)
  | .fin .., .inf n => (f.infP n, 0)
  | .fin n1 m1 e1, .fin n2 m2 e2 =>
    let (v, e) := addExact n1 m1 e1 n2 m2 e2
    if v = 0 then (f.zeroP (m1 == 0 && m2 == 0 && n1 && n2), 0)
    else f.round .rne (decide (v < 0)) v.natAbs e

/-- The exact product of two values; invalid for ∞ × 0 (R105). -/
def mulV (a b : FVal) : FVal × Bool :=
  match a, b with
  | .nan s, x => (.nan (s || x.snan), false)
  | x, .nan s => (.nan (s || x.snan), false)
  | .inf n, .inf k => (.inf (n != k), false)
  | .inf n, .fin k m _ => if m = 0 then (.nan false, true) else (.inf (n != k), false)
  | .fin k m _, .inf n => if m = 0 then (.nan false, true) else (.inf (n != k), false)
  | .fin n1 m1 e1, .fin n2 m2 e2 => (.fin (n1 != n2) (m1 * m2) (e1 + e2), false)

/-- A value rounded to a format. -/
def FFmt.ofVal (f : FFmt) (md : Mode) (v : FVal) : Nat × Flags :=
  match v with
  | .nan s => (f.nanP, fIf s fNV)
  | .inf n => (f.infP n, 0)
  | .fin n m e => f.round md n m e

def FFmt.add (f : FFmt) (a b : Nat) : Nat × Flags := f.addV (f.unpack a) (f.unpack b)
def FFmt.sub (f : FFmt) (a b : Nat) : Nat × Flags := f.addV (f.unpack a) (f.unpack b).negate

def FFmt.mul (f : FFmt) (a b : Nat) : Nat × Flags :=
  let (v, inv) := mulV (f.unpack a) (f.unpack b)
  if inv then (f.nanP, fNV) else f.ofVal .rne v

/-- a × b + c with one rounding; ∞ × 0 gives the default NaN and NV even when c is a quiet NaN (R105). -/
def FFmt.fma (f : FFmt) (a b c : Nat) (negate : Bool := false) : Nat × Flags :=
  let (v, inv) := mulV (f.unpack a) (f.unpack b)
  let v := if negate then v.negate else v
  if inv then (f.nanP, fNV) else f.addV v (f.unpack c)

/-- Order of two values that are not NaN, −0 below +0 (R82). -/
def ltTotal (f : FFmt) (a b : Nat) : Bool :=
  let key (x : Nat) : Int :=
    let mag : Int := (x % 2 ^ (f.w - 1) : Nat)
    if (x / 2 ^ (f.w - 1)) % 2 = 1 then -mag - 1 else mag
  decide (key a < key b)

/-- Minimum and maximum (R82). -/
def FFmt.minmax (f : FFmt) (mx : Bool) (a b : Nat) : Nat × Flags :=
  let va := f.unpack a
  let vb := f.unpack b
  let fl := fIf (va.snan || vb.snan) fNV
  if va.isNaN && vb.isNaN then (f.nanP, fl)
  else if va.isNaN then (b, fl)
  else if vb.isNaN then (a, fl)
  else if ltTotal f a b then ((if mx then b else a), fl)
  else ((if mx then a else b), fl)

/-- Equality of values, −0 equal to +0; false with a NaN (R82). -/
def FFmt.eqV (f : FFmt) (a b : Nat) : Bool :=
  let va := f.unpack a
  let vb := f.unpack b
  !va.isNaN && !vb.isNaN && (a == b || (a % 2 ^ (f.w - 1) == 0 && b % 2 ^ (f.w - 1) == 0))

/-- Less-than of values; false with a NaN (R82). -/
def FFmt.ltV (f : FFmt) (a b : Nat) : Bool :=
  let va := f.unpack a
  let vb := f.unpack b
  !va.isNaN && !vb.isNaN && !(a % 2 ^ (f.w - 1) == 0 && b % 2 ^ (f.w - 1) == 0) && ltTotal f a b

/-- Comparison codes 0 equal, 1 less-than, 2 less-or-equal, 3 not equal, with the flags of R82. -/
def FFmt.cmp (f : FFmt) (k : Nat) (a b : Nat) : Bool × Flags :=
  let va := f.unpack a
  let vb := f.unpack b
  let nan := va.isNaN || vb.isNaN
  let sn := va.snan || vb.snan
  match k with
  | 0 => (f.eqV a b, fIf sn fNV)
  | 1 => (f.ltV a b, fIf nan fNV)
  | 2 => (f.ltV a b || f.eqV a b, fIf nan fNV)
  | _ => (!nan && !f.eqV a b, fIf sn fNV)

/-- The mask of `fclass` (R106). -/
def fclass32 (a : Nat) : Nat :=
  match fp32.unpack a with
  | .inf true => 1
  | .inf false => 128
  | .nan true => 256
  | .nan false => 512
  | .fin n m _ =>
    if m = 0 then (if n then 8 else 16)
    else if m < 2 ^ 23 then (if n then 4 else 32)
    else (if n then 2 else 64)

/-! ### Correctly rounded functions (R81) -/

def FFmt.rcp (f : FFmt) (a : Nat) : Nat × Flags :=
  match f.unpack a with
  | .nan s => (f.nanP, fIf s fNV)
  | .inf n => (f.zeroP n, 0)
  | .fin n m e =>
    if m = 0 then (f.infP n, fDZ)
    else
      let k := Nat.log2 m + 32
      f.round .rne n (2 ^ k / m) (-(k : Int) - e) (2 ^ k % m != 0)

/-- Integer square root, found bit by bit from the top. -/
def isqrt (x : Nat) : Nat → Nat → Nat
  | 0, r => r
  | b + 1, r => isqrt x b (if (r + 2 ^ b) * (r + 2 ^ b) ≤ x then r + 2 ^ b else r)

def FFmt.rsq (f : FFmt) (a : Nat) : Nat × Flags :=
  match f.unpack a with
  | .nan s => (f.nanP, fIf s fNV)
  | .inf n => if n then (f.nanP, fNV) else (f.zeroP false, 0)
  | .fin n m e =>
    if m = 0 then (f.infP n, fDZ)
    else if n then (f.nanP, fNV)
    else
      let (m, e) := if e % 2 = 0 then (m, e) else (2 * m, e - 1)
      let k := Nat.log2 m + 32
      let q := isqrt (2 ^ (2 * k) / m) (k + 1) 0
      f.round .rne false q (-(k : Int) - e / 2) (q * q * m != 2 ^ (2 * k))

/-- Fixed-point width of the series and recurrences below: far above the distance of any result from a
rounding boundary (entry 9). -/
def fxBits : Nat := 256

/-- ln 2 as a fixed-point fraction: the sum of 1 / (k 2^k). -/
def ln2Fx : Nat → Nat
  | 0 => 0
  | k + 1 => ln2Fx k + 2 ^ fxBits / ((k + 1) * 2 ^ (k + 1))

/-- The terms y^i / i! from i on, truncated, as fixed-point fractions. -/
def expTerms (y : Nat) : (fuel i term : Nat) → Nat
  | 0, _, _ => 0
  | fuel + 1, i, t => t + expTerms y fuel (i + 1) (t * y / 2 ^ fxBits / (i + 1))

/-- 2^x for a finite x, rounded once (R81). -/
def FFmt.exp2 (f : FFmt) (a : Nat) : Nat × Flags :=
  match f.unpack a with
  | .nan s => (f.nanP, fIf s fNV)
  | .inf n => if n then (f.zeroP false, 0) else (f.infP false, 0)
  | .fin n m e =>
    if 0 ≤ (Nat.log2 m : Int) + e - 9 ∧ m ≠ 0 then
      -- |x| ≥ 512: the result lies outside the range of the format
      (if n then f.round .rne false 1 (-600) true else f.round .rne false 1 600 false)
    else
      -- x = i + r with 0 ≤ r < 1
      let fx : Int := if 0 ≤ e + fxBits then (m * 2 ^ (e + fxBits).toNat : Nat) else 0
      let v : Int := if n then -fx else fx
      let i := v / (2 ^ fxBits : Nat)
      let r := (v - i * (2 ^ fxBits : Nat)).toNat
      if r = 0 then f.round .rne false 1 i
      else f.round .rne false (expTerms (r * ln2Fx 256 / 2 ^ fxBits) 80 0 (2 ^ fxBits)) (i - fxBits) true

/-- Bits of log2 of t, 1 ≤ t < 2 in fixed point, by repeated squaring. -/
def log2Bits : (fuel t acc : Nat) → Nat
  | 0, _, acc => acc
  | k + 1, t, acc =>
    let t2 := t * t / 2 ^ fxBits
    if t2 ≥ 2 ^ (fxBits + 1) then log2Bits k (t2 / 2) (2 * acc + 1)
    else log2Bits k t2 (2 * acc)

def FFmt.log2 (f : FFmt) (a : Nat) : Nat × Flags :=
  match f.unpack a with
  | .nan s => (f.nanP, fIf s fNV)
  | .inf n => if n then (f.nanP, fNV) else (f.infP false, 0)
  | .fin n m e =>
    if m = 0 then (f.infP true, fDZ)
    else if n then (f.nanP, fNV)
    else
      let lg := Nat.log2 m
      let k : Int := (lg : Int) + e
      let t := m * 2 ^ (fxBits - lg)
      if m = 2 ^ lg then
        (if k = 0 then (f.zeroP false, 0) else f.round .rne (decide (k < 0)) k.natAbs 0)
      else
        let fr := log2Bits 120 t 0
        if 0 ≤ k then f.round .rne false (k.toNat * 2 ^ 120 + fr) (-120) true
        else f.round .rne true (k.natAbs * 2 ^ 120 - fr - 1) (-120) true

/-! ### Conversions (R83 to R86) -/

/-- One step of a stochastic-rounding register (R83). -/
def lfsrStep (v : W32) : W32 :=
  if bit v 0 then (v >>> 1) ^^^ 0x8020_0003 else v >>> 1

/-- n steps. -/
def lfsrSteps (v : W32) : Nat → W32
  | 0 => v
  | n + 1 => lfsrSteps (lfsrStep v) n

/-- A float value to an integer between two bounds (R86). -/
def toIntRange (md : Mode) (lo hi : Int) (v : FVal) : Int × Flags :=
  match v with
  | .nan _ => (0, fNV)
  | .inf n => ((if n then lo else hi), fSAT ||| fNX)
  | .fin n m e =>
    let (k, inexact) := roundUnit md m e 0 false
    let x : Int := if n then -(k : Int) else k
    if x < lo then (lo, fSAT ||| fNX)
    else if hi < x then (hi, fSAT ||| fNX)
    else (x, fIf inexact fNX)

/-- An integer as an exact value: unit 1 (R83). -/
def intVal (x : Int) : FVal := .fin (decide (x < 0)) x.natAbs 0

/-- `fcvt` (R60, R107): the 64-bit result and flags. -/
def fcvtOp (k : CvtKind) (md : Mode) (a : W64) : W64 × Flags :=
  let lo32 := a.toNat % 2 ^ 32
  let f := fp32.unpack lo32
  let i64 (r : Int × Flags) : W64 × Flags := (BitVec.ofInt 64 r.1, r.2)
  let n64 (r : Nat × Flags) : W64 × Flags := (BitVec.ofNat 64 r.1, r.2)
  match k with
  | .f32s32 => i64 (toIntRange md (-(2 ^ 31)) (2 ^ 31 - 1) f)
  | .f32u32 => i64 (toIntRange md 0 (2 ^ 32 - 1) f)
  | .s32f32 => n64 (fp32.ofVal md (intVal (BitVec.ofNat 32 lo32).toInt))
  | .u32f32 => n64 (fp32.ofVal md (intVal lo32))
  | .f32s64 => i64 (toIntRange md (-(2 ^ 63)) (2 ^ 63 - 1) f)
  | .s64f32 => n64 (fp32.ofVal md (intVal a.toInt))
  | .f32bf16 => n64 (bf16.ofVal md f)
  | .bf16f32 => n64 (fp32.ofVal md (bf16.unpack (a.toNat % 65536)))

/-- The mode of a conversion with a generator state after its step. -/
def rmMode (rm : Rm) (rnd : W32) : Mode :=
  match rm with
  | .rne => .rne
  | .rtz => .rtz
  | .sr => .sr rnd

/-! ### Block formats (R73, R87) -/

/-- The exponent offset of a block format: 133 for KB8, 129 for KB4 (R73). -/
def kbBias (kb4 : Bool) : Int := if kb4 then 129 else 133

/-- The value of an element code (R73). As the source of an SR rounding its ULP is the block's unit, 2^(E8 − 133) or
2^(E8 − 129), whatever the element (R83; DESIGN CHOICE, entry 118). -/
def kbVal (kb4 : Bool) (e8 code : Nat) : FVal :=
  let w := if kb4 then 4 else 8
  let c : Int := if code < 2 ^ (w - 1) then code else (code : Int) - 2 ^ w
  if code = 2 ^ (w - 1) then .nan false
  else .fin (decide (c < 0)) c.natAbs ((e8 : Int) - kbBias kb4)

/-- Whether a finite magnitude times 2^(bias − E8) is at most the largest code. -/
def kbFits (kb4 : Bool) (e8 : Nat) : FVal → Bool
  | .fin _ m e =>
    let sh := e + kbBias kb4 - e8
    let top := if kb4 then 7 else 127
    if 0 ≤ sh then decide (m * 2 ^ sh.toNat ≤ top) else decide (m ≤ top * 2 ^ (-sh).toNat)
  | _ => true

/-- The smallest E8 at which every finite element of a block fits (R87). Where no E8 of 0 to 255 does (a KB8 block above
7 × 2^126 into KB4), the model takes 255 and rounds each element there (DESIGN CHOICE, entry 117). -/
def kbExp (kb4 : Bool) (vs : List FVal) : (fuel e8 : Nat) → Nat
  | 0, e8 => e8
  | k + 1, e8 => if vs.all (kbFits kb4 e8) then e8 else kbExp kb4 vs k (e8 + 1)

/-- One element rounded to a code (R87). -/
def kbCode (kb4 : Bool) (e8 : Nat) (md : Mode) (v : FVal) : Nat × Flags :=
  let w := if kb4 then 4 else 8
  match v with
  | .nan s => (2 ^ (w - 1), fIf s fNV)
  | .inf _ => (2 ^ (w - 1), fNV)
  | .fin n m e =>
    let (k, inexact) := roundUnit md m e ((e8 : Int) - kbBias kb4) false
    ((if n then (2 ^ w - k) % 2 ^ w else k),
      fIf inexact fNX ||| fIf (inexact && k == 0) fUF)

/-! ### The matrix path (R88 to R92) -/

/-- An operand block: 32 values with their format; BF16 values carry bits for alignment. -/
structure MBlock where
  fmt : Fmt
  /-- Codes or BF16 patterns. -/
  elts : List Nat
  e8 : Nat
  deriving DecidableEq, Repr

/-- The value of each element of a block, unaligned. -/
def MBlock.vals (b : MBlock) : List FVal :=
  match b.fmt with
  | .kb8 => b.elts.map (kbVal false b.e8)
  | .kb4 => b.elts.map (kbVal true b.e8)
  | _ => b.elts.map bf16.unpack

def isSpecial : FVal → Bool
  | .fin .. => false
  | _ => true

/-- Effective exponent and significand of a BF16 pattern (R88). -/
def bfExp (x : Nat) : Nat := max 1 ((x / 128) % 256)
def bfSig (x : Nat) : Nat := if (x / 128) % 256 = 0 then x % 128 else 128 + x % 128

/-- The integers and scale of an operand block without special values, and NX of its alignment (R88). -/
def MBlock.ints (b : MBlock) : List Int × Int × Flags :=
  match b.fmt with
  | .kb8 => (b.elts.map fun c : Nat => if c < 128 then (c : Int) else (c : Int) - 256, (b.e8 : Int) - 133, 0)
  | .kb4 => (b.elts.map fun c : Nat => if c < 8 then (c : Int) else (c : Int) - 16, (b.e8 : Int) - 129, 0)
  | _ =>
    let emax := b.elts.foldl (fun m x => max m (bfExp x)) 1
    let one (x : Nat) : Int × Bool :=
      let (k, nx) := roundUnit .rne (bfSig x) 0 ((emax : Int) - bfExp x) false
      (if x / 32768 % 2 = 1 then -(k : Int) else k, nx)
    let ms := b.elts.map one
    (ms.map Prod.fst, (emax : Int) - 134, fIf (ms.any Prod.snd) fNX)

/-- One block of a dot product added to an accumulator element (R89 to R92). -/
def accBlock (acc : Nat) (a b : MBlock) : Nat × Flags :=
  let va := a.vals
  let vb := b.vals
  let ps := va.zip vb
  if va.any isSpecial || vb.any isSpecial then
    let anyN := va.any FVal.isNaN || vb.any FVal.isNaN
    let anyS := va.any FVal.snan || vb.any FVal.snan
    let bad := ps.any fun p => (mulV p.1 p.2).2
    let infs := (ps.map fun p => (mulV p.1 p.2).1).filterMap fun v =>
      match v with
      | .inf n => some n
      | _ => none
    if anyN then (fp32.nanP, fIf anyS fNV)
    else if bad then (fp32.nanP, fNV)
    else if infs.any id && infs.any not then (fp32.nanP, fNV)
    else
      let n := infs.any id
      match fp32.unpack acc with
      | .nan s => (fp32.nanP, fIf s fNV)
      | .inf k => if k = n then (acc, 0) else (fp32.nanP, fNV)
      | .fin .. => (fp32.infP n, 0)
  else
    let (ia, sa, f1) := a.ints
    let (ib, sb, f2) := b.ints
    let i := ((ia.zip ib).map fun p => p.1 * p.2).foldl (· + ·) 0
    if i = 0 then (acc, f1 ||| f2)
    else
      let (x, f3) := fp32.addV (fp32.unpack acc) (.fin (decide (i < 0)) i.natAbs (sa + sb))
      (x, f1 ||| f2 ||| f3)

/-! ### Read-modify-write operations (R135, R137) -/

/-- Operations of atomics: swap, cas, add, fadd, min, max, and, or, xor, numbered as `amo` numbers them. -/
def amoValue (op : Nat) (dw : Bool) (old b c : W64) : W64 × Flags :=
  let w := if dw then 64 else 32
  let lo (x : W64) : W64 := zxN x w
  let si (x : W64) : Int := (sxN x w).toInt
  match op with
  | 0 => (lo b, 0)
  | 1 => (if lo old = lo c then lo b else lo old, 0)
  | 2 => (lo (old + b), 0)
  | 3 => let (x, f) := fp32.add (lo old).toNat (lo b).toNat; (BitVec.ofNat 64 x, f)
  | 4 => (if si b < si old then lo b else lo old, 0)
  | 5 => (if si old < si b then lo b else lo old, 0)
  | 6 => (lo (old &&& b), 0)
  | 7 => (lo (old ||| b), 0)
  | _ => (lo (old ^^^ b), 0)

/-- The identity of a reduction by its `amo` number (R137). -/
def redIdentity (op : Nat) (dw : Bool) : W64 :=
  match op with
  | 3 => 0x8000_0000
  | 4 => if dw then 0x7FFF_FFFF_FFFF_FFFF else 0x7FFF_FFFF
  | 5 => if dw then 0x8000_0000_0000_0000 else 0x8000_0000
  | 6 => if dw then 0xFFFF_FFFF_FFFF_FFFF else 0xFFFF_FFFF
  | _ => 0

end Sys2Proof.Machine
end

