-- ==== Sys2Proof/Config.lean ====
section
/-! DEFINITION. What the specification leaves open or fixes only by reference: free values, each an
opaque constant with no body, and the ordering code's constants (00 R1). -/

namespace Sys2Proof.Config

/-- DESIGN CHOICE (entry 5), safe: which of the outcomes of R19 occurs. Applied to the state's counter
and the operand's place. -/
opaque windowChoice : Nat → Nat → Bool

/-- DESIGN CHOICE (entry 5), safe: a 64-bit value the specification leaves open, for a fresh counter
value and a place. -/
opaque freeWord : Nat → Nat → BitVec 64

/-- DESIGN CHOICE (entry 7), safe: the ML-DSA-87 signature of a digest under the identity key (R366, R367). -/
opaque identitySign : BitVec 512 → Nat → BitVec 8

/-- DESIGN CHOICE (entry 7), safe: byte n of the certificate chain, and its length (R366, R367). -/
opaque certChain : Nat → BitVec 8
opaque certChainLen : Nat

/-- DESIGN CHOICE (entry 7), safe: byte n of the identity public key (R366). -/
opaque publicKey : Nat → BitVec 8

/-- DESIGN CHOICE (entry 7), safe: what a cold reset, by its number, finds of each firmware image (R365): header and
body, security version, signature and verifying key. Images by number: 0 Xonar, 1 M-die, 2 fabric, 3 scheduler, 4 and 5
the others. -/
opaque firmware : (boot image : Nat) → List (BitVec 8)
opaque firmwareSvn : (boot image : Nat) → BitVec 6
opaque firmwareSignature : (boot image : Nat) → List (BitVec 8)
opaque firmwareKey : (boot image : Nat) → List (BitVec 8)

/-- DESIGN CHOICE (entry 7), safe: the digest of the verifying key fused in X-die 0, and whether an ML-DSA-87 signature
of a digest verifies under a key (R365). -/
opaque fusedKeyDigest : BitVec 512
opaque mldsaVerify : (key : List (BitVec 8)) → BitVec 512 → (signature : List (BitVec 8)) → Bool

/-- DESIGN CHOICE (entry 8): the offset of the capability list in the management page and in a control
page; R372 gives the register that holds it and not its value. -/
def capOffset : Nat := 0x0E00

/-- The ordering code modelled: the bare package KM-GX9-PK when false, the module when true (R1). -/
def module_ : Bool := false

end Sys2Proof.Config
end

