-- ==== Sys2Proof/Machine/Tab.lean ====
section
/-! DEFINITION. Tables by key and sparse byte memories: the plain data that the machine's state is made of. -/

namespace Sys2Proof

/-- A table: values by key, the first entry of a key counting. -/
abbrev Tab (κ α : Type) := List (κ × α)

/-- The value of a key, if the table has one. -/
def Tab.find {κ α : Type} [DecidableEq κ] : Tab κ α → κ → Option α
  | [], _ => none
  | (k', v) :: t, k => if k' = k then some v else Tab.find t k

/-- The value of a key, or the value that an unlisted key has. -/
def Tab.getD {κ α : Type} [DecidableEq κ] (t : Tab κ α) (k : κ) (d : α) : α :=
  (Tab.find t k).getD d

/-- Sets the value of a key in place, or appends it. -/
def Tab.put {κ α : Type} [DecidableEq κ] : Tab κ α → κ → α → Tab κ α
  | [], k, v => [(k, v)]
  | (k', v') :: t, k, v => if k' = k then (k, v) :: t else (k', v') :: Tab.put t k v

/-- Changes the value of a key that the table has; without effect on an absent key. -/
def Tab.upd {κ α : Type} [DecidableEq κ] : Tab κ α → κ → (α → α) → Tab κ α
  | [], _, _ => []
  | (k', v') :: t, k, f => if k' = k then (k', f v') :: t else (k', v') :: Tab.upd t k f

/-- Changes the value of a key, starting from the value that an unlisted key has. -/
def Tab.updD {κ α : Type} [DecidableEq κ] (t : Tab κ α) (k : κ) (d : α) (f : α → α) : Tab κ α :=
  Tab.put t k (f (Tab.getD t k d))

/-- Removes a key. -/
def Tab.del {κ α : Type} [DecidableEq κ] (t : Tab κ α) (k : κ) : Tab κ α :=
  t.filter fun e => decide (e.1 ≠ k)

/-- A sparse byte memory: addresses strictly rising, no entry equal to 0, which is what an unlisted
address reads as (DESIGN CHOICE, entry 2: unsafe). -/
abbrev Mem := List Host.Cell

/-- The byte at an address. -/
def Mem.get : Mem → Nat → BitVec 8
  | [], _ => 0
  | (a', v) :: m, a => if a' = a then v else if a < a' then 0 else Mem.get m a

/-- Writes one byte and keeps the canonical form. -/
def Mem.set : Mem → Nat → BitVec 8 → Mem
  | [], a, v => if v = 0 then [] else [(a, v)]
  | (a', v') :: m, a, v =>
    if a < a' then (if v = 0 then (a', v') :: m else (a, v) :: (a', v') :: m)
    else if a = a' then (if v = 0 then m else (a, v) :: m)
    else (a', v') :: Mem.set m a v

/-- The canonical form from a lower bound on. -/
def Mem.wfFrom : Nat → Mem → Bool
  | _, [] => true
  | n, (a, v) :: m => decide (n ≤ a) && decide (v ≠ 0) && Mem.wfFrom (a + 1) m

/-- The canonical form: strictly rising addresses and no entry that equals the unlisted byte. -/
def Mem.wf (m : Mem) : Bool := Mem.wfFrom 0 m

/-- The n bytes from an address on. -/
def Mem.read (m : Mem) (a : Nat) : Nat → List (BitVec 8)
  | 0 => []
  | n + 1 => Mem.get m a :: Mem.read m (a + 1) n

/-- Writes bytes from an address on. -/
def Mem.write : Mem → Nat → List (BitVec 8) → Mem
  | m, _, [] => m
  | m, a, b :: bs => Mem.write (Mem.set m a b) (a + 1) bs

/-- Sets n bytes from an address on to zero. -/
def Mem.clear (m : Mem) (a n : Nat) : Mem :=
  m.filter fun e => decide (e.1 < a ∨ a + n ≤ e.1)

end Sys2Proof
end

