-- ==== Sys2Proof/Machine/State.lean ====
section
/-! DEFINITION. The state of the device as plain data, the reasons a step can stop, and the state after
a cold reset. Every field names the rule of spec/ that gives it; INVENTORY.md lists them with their
widths and reset values. -/

namespace Sys2Proof.Machine

/-- Why a step stops with a fault. -/
inductive Fault where
  /-- Raised by an instruction executed when the context that the state names as the issuer is not live:
  no such execution exists on the device (R12). Safe: the model stops where there is nothing to run. -/
  | noIssuer
  deriving DecidableEq, Repr

/-- Why a step has no meaning. -/
inductive Refusal where
  /-- Raised by an arm of `exec` that has no meaning yet. Safe. -/
  | notModelled (mnemonic : String)
  deriving DecidableEq, Repr

/-- A trap about to be taken (R34, R237). -/
structure Trap where
  cause : Nat
  detail : Nat
  addr : W64 := 0
  restart : Bool := false
  inpix : Bool := false
  /-- The access that a page request asks for (R320): 0 read, 1 write, 2 both, 3 fetch. -/
  acc : Nat := 0
  deriving DecidableEq, Repr

/-- A pending result: the queue entry and the G destination of an instruction whose result is not yet
written (R18, R19), with its window (R97). -/
structure Pend where
  /-- 0 for a result of fixed latency; otherwise the number of the outstanding instruction that writes it. -/
  tag : Nat
  /-- Present age of the reserved entry, 1 to 16; 0 when there is none or it has aged out. -/
  age : Nat
  g : Option (Fin 16)
  la : Nat
  /-- Instructions issued since. -/
  dist : Nat
  /-- The core cycle in which the result is written; none while its moment is not known. -/
  due : Option Nat
  val : Option W64
  /-- Flags that the instruction ORs into AFLAGS when it completes (R29). -/
  flags : BitVec 6
  /-- Set when a later instruction inside the window wrote the same G register (R19). -/
  clobber : Bool
  deriving DecidableEq, Repr

/-- Where an outstanding restart-class instruction stands. -/
inductive Stage where
  /-- Issued; its first hardware step is still to come. -/
  | accepted
  /-- A memory request is on its way (R342). -/
  | sent
  /-- The home has performed it and the response is on its way (R342). -/
  | performed
  /-- The answer is at the tile. -/
  | answered
  /-- A barrier arrival held behind the context's earlier commands (R142). -/
  | heldArrival
  /-- An arrival performed; the phase has not completed (R142). -/
  | waiting
  /-- Past every point at which it can fault or be stopped; in a unit's queue (R30). -/
  | past
  deriving DecidableEq, Repr

/-- A restart-class instruction in progress, with what it captured at issue (R30, R32, R289). -/
structure Out where
  tag : Nat
  instr : Instr
  pc : W64
  dst : Dst
  prog : Nat
  held : Bool
  stage : Stage
  /-- Effective address or captured base. -/
  addr : W64
  /-- Captured register values. -/
  caps : List W64
  /-- Captured or returned bytes. -/
  data : List Byte
  /-- The unit's own number for the request: a port, a handle, a page-request slot. -/
  aux : Nat
  due : Option Nat
  /-- Core cycle, and logical quantum, of its issue (R255, R279). -/
  cycle : Nat := 0
  quantum : Nat := 0
  deriving DecidableEq, Repr

/-- Why a context waits at issue (R122, R123) or is stopped. -/
inductive Wait where
  | none
  /-- Waits on a condition that another party sets: parked (R123), with the DETAIL of R275 for the wait.
  The instruction is tried again. -/
  | parked (detail : Nat)
  /-- Waits on its own earlier work, a fixed latency, a bank, the scoreboard or a fence: stalled. -/
  | stalled
  /-- A request that has entered the task queue of a deterministic sheaf (R278), and one being served. -/
  | task
  | granted
  /-- Behind a page request (R320). -/
  | page
  /-- Waits for the next `abandonedSlotReuse` or free page-request slot (R320). -/
  | pageSlot
  /-- Stopped with its sheaf, for a checkpoint, a save or a thermal move (R284, R293). -/
  | stopped
  deriving DecidableEq, Repr

/-- A thread context (R13). It exists only while live (R12). -/
structure Ctx where
  pc : W64
  g : Vector W64 16
  q : Vector W64 16
  a : Vector W64 8
  as_ : Vector W64 8
  ls : Vector W64 4
  le : Vector W64 4
  lc : Vector W32 4
  depth : Nat
  vl : Nat
  lfsr : Vector W32 64
  aflags : BitVec 6
  amask : BitVec 6
  /-- PIX (R31): PV, PQ, PD, HELD and PROG; PIXPC stands in `pixpc`. -/
  pv : Bool
  pq : Nat
  pd : Nat
  held : Bool
  prog : W32
  pixpc : W64
  /-- TRAPCAUSE as its word (R34). -/
  trapcause : W64
  trappc : W64
  trapaddr : W64
  lcnt : Nat
  issued : Nat
  handler : Bool
  hostStop : Bool
  /-- Stopped by an uncorrectable register error: SVCRES is ignored (R369). -/
  dead : Bool
  pend : List Pend
  out : Option Out
  /-- The instruction that the restart record describes, with its captures (R32, R289). -/
  saved : Option Out
  /-- The recorded instruction is being completed before the context continues (R32 step 3). -/
  resuming : Bool
  wait : Wait
  /-- Deferred traps, taken before the next issue (R280). -/
  deferred : List Trap
  /-- A trap, with its TRAPPC, whose entry waits for issued results (R98). -/
  taking : Option (Trap × W64)
  /-- Holds of a fence (R132): memory instructions wait for the context's earlier commands. -/
  fence : Bool
  /-- The fence is a full or `.rel` one of scope `.dom`, `.dev` or `.sys`: a `red` that is applied behind it is combined at
  once (R137, R251). -/
  fenceWide : Bool
  /-- The physical range whose banks a stalled access waits for (R129, R130). -/
  bankWait : Option (Nat × Nat)
  /-- The level whose phase completion ends a ring or PLV hold that it waits in (R155, R210, R279). -/
  holdLevel : Option Nat
  /-- The DETAIL of R275 for the wait in which its next instruction has parked last; 0 when it has not parked (R279). -/
  parkedOn : Nat
  /-- A checkpoint without a number follows this instruction (R299). -/
  needCkpt : Bool
  readyAt : Nat
  lastIssue : Nat
  /-- Counts since the previous trace record (R362): issued instructions, stalled or parked cycles, tile-ops
  and engine bytes. -/
  trIssued : Nat
  trStall : Nat
  trOps : Nat
  trBytes : Nat
  deriving DecidableEq, Repr

/-- A context whose registers are all zero: the empty block of R289. -/
def Ctx.zero : Ctx where
  pc := 0
  g := Vector.replicate 16 0
  q := Vector.replicate 16 0
  a := Vector.replicate 8 0
  as_ := Vector.replicate 8 0
  ls := Vector.replicate 4 0
  le := Vector.replicate 4 0
  lc := Vector.replicate 4 0
  depth := 0
  vl := 64
  lfsr := Vector.replicate 64 0
  aflags := 0
  amask := 0
  pv := false
  pq := 0
  pd := 0
  held := false
  prog := 0
  pixpc := 0
  trapcause := 0
  trappc := 0
  trapaddr := 0
  lcnt := 0
  issued := 0
  handler := false
  hostStop := false
  dead := false
  pend := []
  out := none
  saved := none
  resuming := false
  wait := .none
  deferred := []
  taking := none
  fence := false
  fenceWide := false
  bankWait := none
  holdLevel := none
  parkedOn := 0
  needCkpt := false
  readyAt := 0
  lastIssue := 0
  trIssued := 0
  trStall := 0
  trOps := 0
  trBytes := 0

/-- A ring of a core (R152, R156). `n` is N, `level` 1 to 4. -/
structure Ring where
  base : Nat
  size : Nat
  n : Nat
  d : Nat
  level : Nat
  sp : Nat
  deriving DecidableEq, Repr

/-- A command in a matrix queue, with what it captured at issue (R180, R182, R288). -/
structure MCmd where
  /-- Order of issue in the tile (R211), and the logical quantum at issue (R278). -/
  seq : Nat
  q : Nat
  instr : Instr
  ctx : CtxId
  /-- Number of the pending result of `mstat`, or of the outstanding global `mwld`; 0 otherwise. -/
  tag : Nat
  /-- Captured local addresses, own-quad offsets, stride and register values. -/
  caps : List W64
  /-- Local ranges read and written: own-quad offset and length (R211). -/
  reads : List (Nat × Nat)
  writes : List (Nat × Nat)
  /-- Tile-ops done; blocks written for a global `mwld`. -/
  prog : Nat
  /-- Tile-ops of an array command, and the K-blocks that `mma.sp` has read from its list. -/
  ops : Nat
  kept : List Nat
  started : Bool
  /-- Core cycle in which it completes, once known. -/
  due : Option Nat
  flags : BitVec 6
  deriving DecidableEq, Repr

/-- The core state of a placed grain (R13, R288). -/
structure Grain where
  /-- Physical core: 8 × tile + 4 × quad + index (R257, R293). -/
  core : Nat
  prio : Nat
  dommask : W64
  const : Mem
  /-- `launch` call index (R221). -/
  launches : Nat
  mqwt : Nat
  skip : W64
  tileOps : Nat
  pwrReq : Nat
  rings : Vector (Option Ring) 8
  mailbox : List (W64 × W64)
  chk : Vector Nat 11
  mq : List MCmd
  /-- Levels 1 to 4 at which the grain has arrived in the current phase (R140). -/
  arrived : Vector Bool 4
  /-- Core cycle of placement (`time` sel 1, R232). -/
  cycle0 : Int
  retired : Bool
  /-- Being moved to another core of the tile (R293). -/
  moving : Bool
  deriving DecidableEq, Repr

/-- A TLB entry: a combined translation (R311). -/
structure TlbEntry where
  vd : Nat
  /-- First VA that it maps, and how many bytes. -/
  va : Nat
  bytes : Nat
  /-- The stage-1 leaf: FMT, BG, OWN and permissions. -/
  s1 : W64
  /-- IPA of the first byte. -/
  ipa : Nat
  /-- The stage-2 leaf, with D as it was found. -/
  s2 : W64
  /-- DPA of the first byte. -/
  dpa : Nat
  deriving DecidableEq, Repr

/-- A physical core (05 R129, R130; 12 R311). -/
structure Core where
  /-- BANKPWR0 to BANKPWR7 (R130). -/
  bankpwr : Vector W64 8
  /-- Banks that are waking, with the core cycle in which they are ON (R129, R130). -/
  waking : Tab Nat Nat
  /-- Banks that go OFF once the accesses stalled on them or in progress have completed (R130). -/
  goingOff : List Nat
  /-- The first-level TLB, most recently filled entry first (R311). -/
  tlb : List TlbEntry
  /-- The sheaf that was bound to the core last (R128). -/
  lastSheaf : Option Nat
  /-- Idle core that a thermal move copies to, and the cycle in which the copy ends (R293). -/
  moveTo : Option (Nat × Nat)
  /-- The core cycle for which the thread selector has chosen its candidates (R93). -/
  selCycle : Option Nat
  deriving DecidableEq, Repr

/-- A vector instruction in flight in a quad's vector unit (R163, R164). -/
structure VOp where
  n : Nat
  ctx : CtxId
  /-- The bytes it writes, by physical local address (R164). -/
  writes : List Host.Cell
  /-- The physical ranges of its destination and of its sources: start and length. -/
  dests : List (Nat × Nat)
  srcs : List (Nat × Nat)
  flags : BitVec 6
  due : Nat
  /-- Cycle from which it is past its last stop point (R163). -/
  past : Nat
  deriving DecidableEq, Repr

/-- A line of a quad's reduction window in state U (R137): op by its `red` code. -/
structure ULine where
  vd : Nat
  va : Nat
  /-- Home of the line and the key slot of its page. -/
  dpa : Nat
  key : Nat
  op : Nat
  dw : Bool
  /-- Partial values by offset in the line. -/
  vals : Tab Nat W64
  /-- Contexts that have applied a `red` to the line. -/
  by_ : List CtxId
  deriving DecidableEq, Repr

/-- A quad (13, 14 R349 to R351; 15 R371; 06 R161). -/
structure Quad where
  cycle : Nat
  /-- Accumulated MHz against the 2,000 MHz slot clock (R349). -/
  frac : Nat
  point : Nat
  /-- Supply in millivolts (R349, R351). -/
  supply : Nat
  target : Nat
  /-- 0 none; 1 supply rising; 2 clock switching; 3 supply falling (R351). -/
  phase : Nat
  phaseEnd : Nat
  thermCeil : Nat
  capCeil : Nat
  /-- Supply guard in millivolts, the newest one sampled, and since when it waits to be applied (R371). -/
  guard : Nat
  newGuard : Nat
  guardSince : Nat
  /-- Highest operating point that the quad keeps (R371). -/
  top : Nat
  /-- The vector unit: occupied until this cycle, the core index accepted last, instructions in flight. -/
  vbusy : Nat
  vlast : Nat
  vops : List VOp
  /-- The reduction window, least recently updated line first, and its size (R137, R138). -/
  ulines : List ULine
  deriving DecidableEq, Repr

/-- An accumulator's ownership entry (R185): the model's sheaf number beside the SHEAFID that the entry shows. -/
inductive AccState where
  | free
  | owned (sheaf grain : Nat)
  | pinned (sheaf grain : Nat)
  | spilled (sheaf grain : Nat) (pin : Bool)
  deriving DecidableEq, Repr

/-- A remote queue (R149, R150). -/
structure RQueue where
  cfg : W64
  head : Nat
  tail : Nat
  count : Nat
  /-- Entries reserved and not yet freed. -/
  reserved : Nat
  /-- Lengths and sender GRAINIDs of the delivered entries, by entry index. -/
  msgs : Tab Nat (Nat × Nat)
  /-- Entries freed whose notices have not reached the senders (R150). -/
  freed : Nat
  /-- Sheaf and virtual tile in whose addresses BASE is given: those of the last writer of RQCFG (R149, R257). -/
  view : Nat × Nat
  deriving DecidableEq, Repr

/-- A tile barrier (R147): PHASE, COUNT and the arrival marks. -/
structure TBar where
  phase : Nat
  count : Nat
  marks : List CtxId
  deriving DecidableEq, Repr

/-- A copy or collective command: in its translation pass or in a channel; or the tile's gather (R212 to R218). -/
structure ECmd where
  seq : Nat
  /-- Number of the outstanding instruction, and the logical quantum, at issue (R279). -/
  tag : Nat
  q : Nat
  instr : Instr
  ctx : CtxId
  ch : Nat
  /-- Captured local address, other side, count, stride, generator seed and own-quad offset. -/
  caps : List W64
  /-- Translations held: page VA, page bytes, device or host address, key number, FMT word (R214). -/
  trans : List (Nat × Nat × Nat × Nat × Nat)
  reads : List (Nat × Nat)
  writes : List (Nat × Nat)
  /-- Lines done of the command (R212). -/
  prog : Nat
  started : Bool
  /-- PLV level, and the bytes still counted in its domain (R210). -/
  plv : Nat
  bytes : Nat
  flags : BitVec 6
  /-- Flits received by a collective (R218). -/
  recv : Nat
  /-- A fault that has met the command on its circuit: cause, DETAIL and address (R215). -/
  fault : Option (Nat × Nat × W64)
  deriving DecidableEq, Repr

/-- A copy channel (R212). -/
structure Chan where
  wp : W64
  cmds : List ECmd
  deriving DecidableEq, Repr

/-- A trace record waiting in a tile's trace queue (R362). -/
structure TraceRec where
  w0 : W64
  w1 : W64
  w2 : W64
  w3 : W64
  deriving DecidableEq, Repr

/-- Duty state of a tile's array under the current-slew limiter (R352 to R354). `i` is the ramp-table entry. -/
inductive Duty where
  | rest
  /-- A step of a ramp up, and the cycle in which it ends. -/
  | up (i fin : Nat)
  | full
  /-- Holds the duty of an entry. -/
  | hold (i : Nat)
  /-- A step of a ramp down. -/
  | down (i fin : Nat)
  /-- The last step of a ramp down that a tile-op has ended (R354). -/
  | land (i fin : Nat)
  deriving DecidableEq, Repr

/-- A tile-op in progress on the array: the grain that owns the queue, eighth-cycles left, and the cycle
up to which they are counted (R184, R352). -/
structure RunOp where
  sheaf : Nat
  grain : Nat
  left : Nat
  since : Nat
  deriving DecidableEq, Repr

/-- A fire on its way to another tile (R144): the line, the slot by which it lands, the quantum of its `evsig` (R279), and the
context whose release it is (R239). -/
structure Fire where
  line : Nat
  due : Nat
  q : Nat
  by_ : CtxId
  deriving DecidableEq, Repr

/-- A tile (R13). -/
structure Tile where
  vd : Option Nat
  evflag : Vector Bool 32
  evfwd : Vector (BitVec 4) 32
  /-- Fires on their way to this tile (R144). -/
  fires : List Fire
  mutex : Vector (Option CtxId) 16
  tbar : Vector TBar 8
  rq : Vector RQueue 32
  chans : Vector Chan 8
  /-- Commands whose translation pass has not ended. -/
  pass : List ECmd
  gath : Option ECmd
  acc : Vector AccState 64
  /-- Accumulator tiles whose restore failed its CRC (R202), and those being zeroed until a cycle (R186). -/
  accBad : List Nat
  accZero : Tab Nat Nat
  /-- The arbiter: core whose turn it is, tile-ops used in the turn, core served last (R184). -/
  turn : Option Nat
  used : Nat
  last : Nat
  run : Option RunOp
  duty : Duty
  /-- Ramp table in force since the array last left its rest (R356). -/
  ramp : W64
  l2 : List TlbEntry
  /-- The walk cache: virtual device, stage, address of the table entry, entry (R311). -/
  walk : List (Nat × Nat × Nat × W64)
  traceQ : List TraceRec
  /-- Order number of the next command of the tile (R211). -/
  seqNext : Nat
  deriving DecidableEq, Repr

/-- The state of a sheaf (R267). -/
inductive SheafSt where
  | waitsig | pending | reserved | running | stopped | retired
  deriving DecidableEq, Repr

/-- Why a sheaf is being stopped (R284). -/
inductive StopFor where
  | none | save | checkpoint | migrate | slice (rollback : Bool)
  deriving DecidableEq, Repr

/-- A domain's barrier slot (R261). -/
structure Dom where
  phase : Nat
  arrived : Nat
  pend : Nat
  /-- Largest quantum among the arrivals of the phase (R279). -/
  tag : Nat
  deriving DecidableEq, Repr

/-- A request in the task queue of a deterministic sheaf: quantum, GRAINID, CTXID, LCNT (R278); or the end of a context that
holds a mutex, which only a batch may release (R146). -/
structure TaskReq where
  instr : Instr
  q : Nat
  grain : Nat
  ctx : Nat
  lcnt : Nat
  ends : Bool := false
  deriving DecidableEq, Repr

/-- The tile block of a save area (R290). -/
structure SavedTile where
  vtile : Nat
  /-- Whether the units of the tile are saved with the sheaf. -/
  units : Bool
  tile : Tile
  wbuf : Mem
  acc : Mem
  /-- The tile and the accumulators as the block shows them: with those of every sheaf that is saved together, where the
  block holds the units. -/
  full : Tile
  fullAcc : Mem
  /-- VA of the tile block that holds the spill records of the sheaf's accumulators. -/
  base : Nat
  deriving DecidableEq, Repr

/-- What Spelt has saved of a sheaf: the structured contents of its save area (R287 to R290, R297). -/
structure Saved where
  va : Nat
  /-- Size of its area in the pool, 0 where it has none. -/
  size : Nat
  ctxs : Tab CtxId Ctx
  grains : Tab Nat Grain
  cores : Tab Nat Core
  /-- Slice bytes and full/empty bits, by GRAINID × 2^19 + offset and by word. -/
  slices : Mem
  fe : Mem
  tiles : List SavedTile
  doms : Tab Nat Dom
  slot : Nat
  /-- Error markers saved with the contents (R323): PLACE, and a word of a slice, a weight unit or an accumulator element by
  its saved place (entry 113). -/
  marks : List (Nat × Nat)
  deriving DecidableEq, Repr

/-- A sheaf (10 R257 to R272). -/
structure Sheaf where
  vd : Nat
  sheafid : Nat
  /-- The 128 bytes of its launch record (R262). -/
  record : Mem
  st : SheafSt
  debug : Bool
  det : Bool
  quantum : Nat
  prio : Nat
  sys : Bool
  accepted : Nat
  placedAt : Nat
  stoppedAt : Nat
  stop : StopFor
  stopAt : Nat
  /-- PHASE of the level-4 domain when the stop was requested (R268). -/
  stopPhase : Nat
  /-- The word that a RECORD_ERROR event of the sheaf carries: its stamp, or its record's VA (R273). -/
  errData : W64
  /-- Order among stopped contexts and saves: the slot in which Spelt is done (R291). -/
  speltDone : Option Nat
  /-- Virtual cluster to physical cluster, while it is placed or an area is kept for it (R257, R269). -/
  clusters : List Nat
  /-- Logical core to physical core, 32 entries for each virtual cluster, while it is placed (R257, R293). -/
  cores : List Nat
  /-- The die map under which it was placed (R225, R344). -/
  dieMap : W64
  doms : Tab Nat Dom
  parent : Option CtxId
  callNo : Nat
  /-- Task queue (R278). -/
  tasks : List TaskReq
  /-- Quantum tags of the events that can end a wait: kind, virtual place and quantum (R279). Kinds: 1 phase, 2 event
  line, 3 word FULL, 4 `hexit`, 5 queue delivery, 6 tile-barrier phase; 7 the arrivals of a tile barrier's present phase. -/
  wakes : Tab (Nat × Nat) Nat
  /-- Handles of the circuits it holds through `ckt.req` (R223, R287). -/
  circuits : List Nat
  saved : Option Saved
  /-- The place of the pool that its save in progress has taken: VA and bytes (R286). -/
  area : Option (Nat × Nat)
  /-- Its state at its latest checkpoint, or at its placement (R297), and the items whose copy into the area is pending:
  slice lines, weight units and accumulator rows by PLACE, virtual tile and number; the slot of the next copy. -/
  ckpt : Option Saved
  ckptItems : List (Nat × Nat × Nat)
  ckptAt : Nat
  ckptBy : Option CtxId
  /-- Its place in the order of log records and moments. -/
  ckptSeq : Nat
  /-- Gang launch (R270, R271): members whose RESERVED has come, start slot, MISSING met, arrivals. -/
  gangRes : List Nat
  gangT : Option Nat
  gangMissing : Bool
  gangArrived : List Nat
  /-- Whether the package's own arrivals of the present level-4 phase have gone out (R270). -/
  gangSent : Bool
  /-- Of a deterministic sheaf: the slot in which a batch was served last (R278); and where its grains share cores, the
  ones that Spelt has switched in, the quantum up to which they run, and the slot from which they may (R276). -/
  servedAt : Option Nat
  shelf : Nat
  shelfQ : Nat
  shelfAt : Nat
  gangWaitPosted : Bool
  blockedPosted : Bool
  waitPolled : Nat
  deriving DecidableEq, Repr

/-- A page-request slot (R320, R321). -/
structure PageReq where
  used : Bool
  va : Nat
  /-- The access asked for: 0 read, 1 write, 2 both, 3 fetch. -/
  acc : Nat
  waiters : List CtxId
  /-- Slot from which an abandoned request's slot is usable again (R321). -/
  abandoned : Option Nat
  deriving DecidableEq, Repr

/-- A record of the checkpoint log (R295). -/
structure LogRec where
  /-- Order of making, shared with the checkpoint moments. -/
  seq : Nat
  line : Nat
  dpa : Nat
  slot : Nat
  sheafid : Nat
  old : List Byte
  /-- The line held an uncorrectable error: its marker goes with the contents (R323). -/
  bad : Bool
  deriving DecidableEq, Repr

/-- A checkpoint moment: the context and number that name it (number 0 for one without a number), its
slot, and its order among the log records (R233, R294, R296). -/
structure Moment where
  seq : Nat
  ctx : CtxId
  num : Nat
  slot : Nat
  /-- No record made after it has been discarded (R296). -/
  held : Bool
  deriving DecidableEq, Repr

/-- A page move in progress (R318): its direction, host address, the pages that it holds as VA, DPA and key slot,
and the fault that ends it after them: cause and DETAIL. -/
structure PageMove where
  toDevice : Bool
  host : Nat
  pages : List (Nat × Nat × Nat)
  fault : Option (Nat × Nat)
  deriving DecidableEq, Repr

/-- What the device itself has to write for a virtual device and waits for log space (R296): an event record, or a tagged
launch message with its payload. -/
inductive Late where
  | event (record : List Byte)
  | message (tag : Nat) (payload : List Byte)
  deriving DecidableEq, Repr

/-- A virtual device. -/
structure Vd where
  /-- The control page and the hypervisor page: register words by offset (R263, R286, R326, R335, R344,
  R347, R359, R362). An unlisted register holds its reset value. -/
  control : Tab Nat W64
  hyper : Tab Nat W64
  /-- NOTIFY of each launch queue, tries and re-read slot of its fetcher (R264, R265). -/
  notify : Vector Nat 12
  tries : Vector Nat 12
  reread : Vector (Option Nat) 12
  nextSheafid : Nat
  /-- Armed tags: tag, record VA, PERSIST (R222). -/
  tags : List (Nat × Nat × Bool)
  rxVa : Nat
  pages : Vector PageReq 64
  /-- Queued invalidations, oldest first: the words written (R312). -/
  inval1 : List W64
  inval2 : List W64
  log : List LogRec
  /-- Lines that have a record since the latest moment, whether or not the log still holds it (R295). -/
  logged : List Nat
  /-- Records ever appended: the next one goes to this place of the ring (R295). -/
  logCount : Nat
  moments : List Moment
  /-- A page move in progress (R318). -/
  move : Option PageMove
  /-- The zeroing pass in progress: the slot in which it ends, and the ranges that it zeroes with their keys (R363). -/
  zeroing : Option (Nat × List (Nat × Nat × List W64))
  /-- Tiles used since the virtual device last became ready (R363). -/
  usedTiles : List Nat
  /-- Its slices are shorter than the save time of its running sheaves, and the slots that its last save ran past the end
  (R361). -/
  short : Bool
  owed : Nat
  /-- A write waits for log space; what the device itself has to write then, oldest first (R296). -/
  logWait : Bool
  late : List Late
  deriving DecidableEq, Repr

/-- A flit on its way (R331): the slot in which its words are visible, its place at the target (an address
in the target tile, or a piece number of a collective), its bytes, and the channel that sent it. -/
structure Flit where
  due : Nat
  at_ : Nat
  bytes : List Byte
  tile : Nat
  ch : Nat
  seq : Nat
  coll : Bool
  deriving DecidableEq, Repr

/-- A circuit (R333 to R342). -/
structure Circuit where
  handle : Nat
  vd : Nat
  kind : CktKind
  /-- Physical tiles of the source and, for kind `tile`, of the target. -/
  src : Nat
  dst : Nat
  dest : W64
  slots : List Nat
  want : Nat
  lat : Nat
  active : Bool
  releasing : Bool
  /-- The sheaf that holds it; none for a circuit of the device itself. -/
  sheaf : Option Nat
  flits : List Flit
  /-- Flits of a `net` circuit that have come in through its port and have not been taken (R332, R346). -/
  inbound : List Flit
  /-- Injection slots that a resize takes away, with the slot in which the source is told (R340). -/
  leaving : List (Nat × Nat)
  /-- Slots between a flit's arrival at its edge port and its return there, as they were when the slots were chosen (R342,
  R346). -/
  delay : Nat
  deriving DecidableEq, Repr

/-- A configuration flit away from Brome (R338): the turn in which it leaves, its output of router (0, 0), the first word of its
header, and those of its words that have not been applied or delivered. -/
structure AwayFlit where
  turn : Nat
  south : Bool
  head : W64
  words : List W64
  deriving DecidableEq, Repr

/-- A message of the configuration trains to or from Brome (R338, R339). -/
structure TrainMsg where
  ctx : Option CtxId
  tag : Nat
  handle : Nat
  dest : W64
  slots : Nat
  kind : CktKind
  vd : Nat
  tile : Nat
  release : Bool
  due : Nat
  answer : W64
  /-- Slot of its issue: from then on a train takes it (R338). -/
  born : Nat
  /-- The requester's virtual tile (R338), and whether its sheaf held 128 circuits when it made the request (R223). -/
  vt : Nat
  full : Bool
  deriving DecidableEq, Repr

/-- A scale-out port (R345, R346). -/
structure Port where
  cfg : W64
  frames : Nat
  deriving DecidableEq, Repr

/-- A partition (14 R353, R356, R360). -/
structure Part where
  clus0 : W64
  clus1 : W64
  ctl : W64
  ramp : W64
  /-- Tile granted last in each direction (R353). -/
  lastUp : Nat
  lastDown : Nat
  turnVd : Option Nat
  turnStart : Nat
  turnSlots : Nat
  ending : Bool
  /-- Slices of the turn that have begun, and the virtual device that had the last turn (R360, R361). -/
  slices : Nat
  lastVd : Option Nat
  deriving DecidableEq, Repr

/-- The package outside its cores and virtual devices. -/
structure Dev where
  /-- The management page: register words by offset (R326). An unlisted register holds its reset value. -/
  mgmt : Tab Nat W64
  /-- Keys by slot: the words of KEYDATA at the load (R316). -/
  keys : Tab Nat (List W64)
  /-- The key words that wrote each 64-byte line last (R315); an unlisted line is plaintext. -/
  lineKey : Tab Nat (List W64)
  /-- Poisoned locations (R205, R323): device lines, local words, weight units, accumulator words. -/
  poisonHbm : List Nat
  poisonLmem : List Nat
  poisonWbuf : List Nat
  poisonAcc : List Nat
  /-- The ATS Translation Cache, newest entry first: PASID, VA, bytes, host address (R322). -/
  atc : List (Nat × Nat × Nat × Nat)
  /-- 64-byte lines of host memory whose data the link delivers in a poisoned TLP (R322). -/
  poisonHost : List Nat
  /-- Spilled accumulator tiles that Spelt restores, in order: tile and number, and the slot in which it is done (R188). -/
  restoreQ : Tab (Nat × Nat) Nat
  /-- Errors detected only now, whose marker is not yet stored: PLACE and unit (R324). -/
  unmarked : List (Nat × Nat)
  circuits : List Circuit
  toBrome : List TrainMsg
  fromBrome : List TrainMsg
  /-- The slot from which Brome takes its next message, and how often W has changed (R339, R341). -/
  bromeFree : Nat
  wheelNo : Nat
  /-- Slot tables: plane, router, output port and slot, holding the circuit's handle (R330). -/
  slotTab : Tab (Nat × Nat × Nat × Nat) Nat
  /-- The routers' entries, where they are not idle and no standing or configuration circuit holds them (R330). -/
  tables : Tab (Nat × Nat × Nat × Nat) W64
  /-- Configuration flits that leave or are on their way (R338). -/
  away : List AwayFlit
  /-- The slot in which the next trains start (R338). -/
  trainNext : Nat
  ports : Vector Port 16
  parts : Vector Part 8
  ptpAligned : Bool
  /-- Every clock has stopped at 125 °C (R357). -/
  halted : Bool
  /-- An attestation command in progress: OP and the captured nonce (R367). -/
  attest : Option (Nat × List W64)
  /-- Kept across cold resets: the fused SVN minimum of each image type, the slots of power before the last one (they
  give AGESTAT.HOURS), and the number of cold resets (R365, R371). -/
  svnMin : List Nat
  powerSlots : Int
  boots : Nat
  /-- Power averages of the partitions over the last window (R358). -/
  partAvg : List Nat
  lastTherm : Nat
  lastCap : Nat
  lastAvg : Nat
  lastAge : Nat
  seq : Nat
  nextSheaf : Nat
  /-- Words returned to the host by the last read of a signal window, or none when it ended Unsupported
  Request (R325). -/
  hostRead : Option W64
  /-- Messages and interrupts sent to the host: MSI-X vectors, page requests and completions (R273, R320). -/
  toHost : List (Nat × W64)
  deriving DecidableEq, Repr

/-- Which agent moves next. -/
inductive Move where
  /-- The context issues its next instruction if it is ready. -/
  | issue (c : CtxId)
  /-- A hardware step, or something that arrives from outside. -/
  | row (i : Instr)
  /-- An error in a unit of a place of R324: correctable, or not (R303, R323, R369). -/
  | flaw (place unit : Nat) (uncorrectable : Bool)
  /-- The virtual function of a virtual device is disabled (R363). -/
  | vfDisable (vd : Nat)
  /-- A bulk frame leaves the host's memory through a port in Ethernet mode: the virtual device, the address, the length
  (R348). -/
  | frameOut (port vd host len : Nat)
  /-- A flit of a collective comes in through a scale-out port in slot mode: the link tag of its circuit, the channel of its
  member, its bytes, and whether its CRC holds (R346). -/
  | netFlit (port tag ch : Nat) (bytes : List Byte) (crcOk : Bool)
  /-- One slot passes. -/
  | tick
  deriving DecidableEq, Repr

/-- The whole device. -/
structure State where
  /-- The moves that come next; when it is empty the model picks one (entry 1). The model's own field. -/
  sched : List Move
  /-- The context that executes in this step. The model's own field. -/
  cur : CtxId
  /-- The counter that free values are applied to (entry 5). The model's own field. -/
  freeN : Nat
  slot : Nat
  ctxs : Tab CtxId Ctx
  grains : Tab (Nat × Nat) Grain
  sheaves : Tab Nat Sheaf
  cores : Tab Nat Core
  quads : Tab Nat Quad
  tiles : Tab Nat Tile
  vds : Tab Nat Vd
  dev : Dev
  hbm : Mem
  lmem : Mem
  fe : Mem
  wbuf : Mem
  accm : Mem
  host : Mem
  deriving DecidableEq, Repr

/-- A core that the tables do not list: every bank OFF (R130). -/
def Core.zero : Core where
  bankpwr := Vector.replicate 8 0xAAAA_AAAA_AAAA_AAAA
  waking := []
  goingOff := []
  tlb := []
  lastSheaf := none
  moveTo := none
  selCycle := none

/-- A quad that the tables do not list: no ceiling below 7 (R350), point 0 and its 400 mV supply
(DESIGN CHOICE, entry 4). Its vector unit has accepted nothing: the rotation of R161 begins with core 0 of the quad (DESIGN
CHOICE, entry 122). -/
def Quad.zero : Quad where
  cycle := 0
  frac := 0
  point := 0
  supply := 400
  target := 0
  phase := 0
  phaseEnd := 0
  thermCeil := 7
  capCeil := 7
  guard := 0
  newGuard := 0
  guardSince := 0
  top := 7
  vbusy := 0
  vlast := 3
  vops := []
  ulines := []

/-- A disabled remote queue (R149). -/
def RQueue.zero : RQueue where
  cfg := 0
  head := 0
  tail := 0
  count := 0
  reserved := 0
  msgs := []
  freed := 0
  view := (0, 0)

/-- A tile that the tables do not list (R143, R149, R185, R212). -/
def Tile.zero : Tile where
  vd := none
  evflag := Vector.replicate 32 false
  evfwd := Vector.replicate 32 0
  fires := []
  mutex := Vector.replicate 16 none
  tbar := Vector.replicate 8 ⟨0, 0, []⟩
  rq := Vector.replicate 32 RQueue.zero
  chans := Vector.replicate 8 ⟨0, []⟩
  pass := []
  gath := none
  acc := Vector.replicate 64 .free
  accBad := []
  accZero := []
  turn := none
  used := 0
  last := 7
  run := none
  duty := .rest
  ramp := 0x8765_4321
  l2 := []
  walk := []
  traceQ := []
  seqNext := 0

/-- A free page-request slot (R320). -/
def PageReq.zero : PageReq where
  used := false
  va := 0
  acc := 0
  waiters := []
  abandoned := none

/-- A virtual device that the tables do not list: every register at its reset value. -/
def Vd.zero : Vd where
  control := []
  hyper := []
  notify := Vector.replicate 12 0
  tries := Vector.replicate 12 0
  reread := Vector.replicate 12 none
  nextSheafid := 0
  tags := []
  rxVa := 0
  pages := Vector.replicate 64 PageReq.zero
  inval1 := []
  inval2 := []
  log := []
  logged := []
  logCount := 0
  moments := []
  move := none
  zeroing := none
  usedTiles := []
  short := false
  owed := 0
  logWait := false
  late := []

/-- A partition at reset: no cluster, disabled, SLEW 16, the reset ramp table (R356). -/
def Part.zero : Part where
  clus0 := 0
  clus1 := 0
  ctl := 0x1000
  ramp := 0x8765_4321
  lastUp := 383
  lastDown := 383
  turnVd := none
  turnStart := 0
  turnSlots := 0
  ending := false
  slices := 0
  lastVd := none

/-- The package after a cold reset (R326, R345, R356, R364). -/
def Dev.zero : Dev where
  mgmt := []
  keys := []
  lineKey := []
  poisonHbm := []
  poisonLmem := []
  poisonWbuf := []
  poisonAcc := []
  atc := []
  poisonHost := []
  restoreQ := []
  unmarked := []
  circuits := []
  toBrome := []
  fromBrome := []
  bromeFree := 0
  wheelNo := 0
  slotTab := []
  tables := []
  away := []
  trainNext := 0
  ports := Vector.replicate 16 ⟨0, 0⟩
  parts := Vector.replicate 8 Part.zero
  ptpAligned := false
  halted := false
  attest := none
  svnMin := [0, 0, 0, 0, 0, 0]
  powerSlots := 0
  boots := 0
  partAvg := []
  lastTherm := 0
  lastCap := 0
  lastAvg := 0
  lastAge := 0
  seq := 0
  nextSheaf := 0
  hostRead := none
  toHost := []

/-- The device right after a cold reset: no context, grain or sheaf exists (R12), every register holds
its reset value, nothing is listed in any memory, and no move is scheduled. -/
def State.reset : State where
  sched := []
  cur := ⟨0, 0, 0⟩
  freeN := 0
  slot := 0
  ctxs := []
  grains := []
  sheaves := []
  cores := []
  quads := []
  tiles := []
  vds := []
  dev := Dev.zero
  hbm := []
  lmem := []
  fe := []
  wbuf := []
  accm := []
  host := []

end Sys2Proof.Machine
end

