-- ==== Sys2Proof/Machine/Access.lean ====
section
/-! DEFINITION. Access to the parts of the state, the trap cause codes (08 R237), and the numbering of
cores, quads, tiles and clusters (10 R257). -/

namespace Sys2Proof.Machine

/-! ### Cause codes (R237) -/

namespace Cause
def illegalInstruction : Nat := 0x01
def illegalLength : Nat := 0x02
def windowHazard : Nat := 0x03
def sysregNumber : Nat := 0x04
def sysregValue : Nat := 0x05
def privilege : Nat := 0x06
def localAddress : Nat := 0x08
def misaligned : Nat := 0x09
def addressForm : Nat := 0x0A
def bankOff : Nat := 0x0B
def peerGone : Nat := 0x0C
def formatAccess : Nat := 0x0D
def memoryError : Nat := 0x0E
def translation : Nat := 0x10
def migration : Nat := 0x11
def loopState : Nat := 0x18
def helperState : Nat := 0x19
def barrierLevel : Nat := 0x1A
def barrierToken : Nat := 0x1B
def ringConfig : Nat := 0x1C
def queueState : Nat := 0x1D
def mutexState : Nat := 0x1E
def matrixOwner : Nat := 0x20
def matrixOperand : Nat := 0x21
def engineState : Nat := 0x28
def arithmetic : Nat := 0x30
def trap : Nat := 0x31
def svc : Nat := 0x32
def gangMissing : Nat := 0x38
def deadlock : Nat := 0x39
end Cause

/-! ### Parts of the state -/

/-- The context, when it is live (R12). -/
def State.ctx (s : State) (c : CtxId) : Option Ctx := Tab.find s.ctxs c

/-- The executing context; all zero when it is not live. -/
def State.me (s : State) : Ctx := (Tab.find s.ctxs s.cur).getD Ctx.zero

/-- Changes a live context. -/
def State.updCtx (s : State) (c : CtxId) (f : Ctx → Ctx) : State :=
  { s with ctxs := Tab.upd s.ctxs c f }

/-- Changes the executing context. -/
def State.updMe (s : State) (f : Ctx → Ctx) : State := s.updCtx s.cur f

/-- The grain of a context. -/
def State.grainOf (s : State) (c : CtxId) : Option Grain := Tab.find s.grains (c.sheaf, c.grain)

def Grain.zero : Grain where
  core := 0
  prio := 0
  dommask := 0
  const := []
  launches := 0
  mqwt := 1
  skip := 0
  tileOps := 0
  pwrReq := 4
  rings := Vector.replicate 8 none
  mailbox := []
  chk := Vector.replicate 11 0
  mq := []
  arrived := Vector.replicate 4 false
  cycle0 := 0
  retired := false
  moving := false

/-- The grain of the executing context. -/
def State.grain (s : State) : Grain := (s.grainOf s.cur).getD Grain.zero

def State.updGrainOf (s : State) (c : CtxId) (f : Grain → Grain) : State :=
  { s with grains := Tab.upd s.grains (c.sheaf, c.grain) f }

def State.updGrain (s : State) (f : Grain → Grain) : State := s.updGrainOf s.cur f

def Sheaf.zero : Sheaf where
  vd := 0
  sheafid := 0
  record := []
  st := .retired
  debug := false
  det := false
  quantum := 4096
  prio := 0
  sys := false
  accepted := 0
  placedAt := 0
  stoppedAt := 0
  stop := .none
  stopAt := 0
  stopPhase := 0
  errData := 0
  speltDone := none
  clusters := []
  cores := []
  dieMap := 0
  doms := []
  parent := none
  callNo := 0
  tasks := []
  wakes := []
  circuits := []
  saved := none
  area := none
  ckpt := none
  ckptItems := []
  ckptAt := 0
  ckptBy := none
  ckptSeq := 0
  gangRes := []
  gangT := none
  gangMissing := false
  gangArrived := []
  gangSent := false
  servedAt := none
  shelf := 0
  shelfQ := 0
  shelfAt := 0
  gangWaitPosted := false
  blockedPosted := false
  waitPolled := 0

def State.sheafOf (s : State) (n : Nat) : Sheaf := Tab.getD s.sheaves n Sheaf.zero

/-- The sheaf of the executing context. -/
def State.sheaf (s : State) : Sheaf := s.sheafOf s.cur.sheaf

def State.updSheaf (s : State) (n : Nat) (f : Sheaf → Sheaf) : State :=
  { s with sheaves := Tab.upd s.sheaves n f }

def State.coreOf (s : State) (n : Nat) : Core := Tab.getD s.cores n Core.zero
def State.updCore (s : State) (n : Nat) (f : Core → Core) : State :=
  { s with cores := Tab.updD s.cores n Core.zero f }

def State.quadOf (s : State) (n : Nat) : Quad := Tab.getD s.quads n Quad.zero
def State.updQuad (s : State) (n : Nat) (f : Quad → Quad) : State :=
  { s with quads := Tab.updD s.quads n Quad.zero f }

def State.tileOf (s : State) (n : Nat) : Tile := Tab.getD s.tiles n Tile.zero
def State.updTile (s : State) (n : Nat) (f : Tile → Tile) : State :=
  { s with tiles := Tab.updD s.tiles n Tile.zero f }

def State.vdOf (s : State) (n : Nat) : Vd := Tab.getD s.vds n Vd.zero
def State.updVd (s : State) (n : Nat) (f : Vd → Vd) : State :=
  { s with vds := Tab.updD s.vds n Vd.zero f }

def State.updDev (s : State) (f : Dev → Dev) : State := { s with dev := f s.dev }

/-! ### Numbering -/

/-- Physical core, quad and tile of the executing context's grain: core 8 × tile + 4 × quad + index. -/
def State.myCore (s : State) : Nat := s.grain.core
def State.myQuad (s : State) : Nat := s.grain.core / 4
def State.myTile (s : State) : Nat := s.grain.core / 8

/-- The virtual device of a context's sheaf. -/
def State.vdOfCtx (s : State) (c : CtxId) : Nat := (s.sheafOf c.sheaf).vd
def State.myVd (s : State) : Nat := s.sheaf.vd

/-- Present core cycle of a quad (R96, R232). -/
def State.cycleOf (s : State) (quad : Nat) : Nat := (s.quadOf quad).cycle
def State.cycle (s : State) : Nat := s.cycleOf s.myQuad

/-- Present core cycle of a context's quad. -/
def State.cycleOfCtx (s : State) (c : CtxId) : Nat :=
  s.cycleOf (((s.grainOf c).getD Grain.zero).core / 4)

/-- The grain placed on a physical core, with its key. -/
def State.grainAt (s : State) (core : Nat) : Option ((Nat × Nat) × Grain) :=
  s.grains.find? fun e => e.2.core == core && !e.2.retired

/-- The contexts of a grain, with their keys. -/
def State.ctxsOf (s : State) (sheaf grain : Nat) : List (CtxId × Ctx) :=
  s.ctxs.filter fun e => e.1.sheaf == sheaf && e.1.grain == grain

/-- The grains of a tile, with their keys. -/
def State.grainsAtTile (s : State) (tile : Nat) : List ((Nat × Nat) × Grain) :=
  s.grains.filter fun e => e.2.core / 8 == tile && !e.2.retired

/-- Field values of a launch record (R262): 64-bit word at a byte offset, and the SHAPE fields. -/
def Sheaf.word (h : Sheaf) (off : Nat) : W64 := BitVec.ofNat 64 (ofBytes (Mem.read h.record off 8))
def Sheaf.shape (h : Sheaf) : W64 := h.word 0x18
def Sheaf.grains (h : Sheaf) : Nat := bits h.shape 11 0
def Sheaf.helpers (h : Sheaf) : Nat := bits h.shape 15 12
def Sheaf.recPrio (h : Sheaf) : Nat := bits h.shape 19 16
def Sheaf.irq (h : Sheaf) : Bool := bit h.shape 21
def Sheaf.rwl (h : Sheaf) : Nat := bits h.shape 28 22
def Sheaf.spadk (h : Sheaf) : Nat := bits h.shape 41 32

/-- Every rule that picks one of several outcomes draws on this counter (entry 5). -/
def State.fresh (s : State) : State := { s with freeN := s.freeN + 1 }

end Sys2Proof.Machine
end

