-- ==== Sys2Proof/Machine/Regs.lean ====
section
/-! DEFINITION. The register pages of the host link: offsets, access masks and reset values (00 R9, R10;
10 R263, R264, R273, R274; 11 R286; 12 R326; 13 R329, R335, R344, R345, R347; 14 R356 to R362; 15 R364,
R367, R370 to R372). -/

namespace Sys2Proof.Machine

/-- A register of a page: its offset, its reset value, and which bits a write sets (RW) or clears (W1C);
every other bit ignores a write (R9, R10). -/
structure RegSpec where
  off : Nat
  reset : W64
  rw : W64
  w1c : W64
  deriving DecidableEq, Repr

/-! Offsets in the control page of a virtual device. -/
def rLQBASE (p : Nat) : Nat := 0x20 * p
def rLQCTL (p : Nat) : Nat := 0x08 + 0x20 * p
def rLQNOTIFY (p : Nat) : Nat := 0x10 + 0x20 * p
def rLQSTAT (p : Nat) : Nat := 0x18 + 0x20 * p
def rVDMODE : Nat := 0x0200
def rHWAKE : Nat := 0x0208
def rEVQBASE : Nat := 0x0210
def rEVQCTL : Nat := 0x0218
def rEVQTAIL : Nat := 0x0220
def rEVQHEAD : Nat := 0x0228
def rTAGMISS : Nat := 0x0230
def rSVCRES : Nat := 0x0238
def rGANG (n : Nat) : Nat := 0x0300 + 8 * n
def rTLBINV1 : Nat := 0x0800
def rTLBSTAT1 : Nat := 0x0808
def rS1BASE : Nat := 0x0810
def rPTADDR : Nat := 0x0818
def rPTDATA : Nat := 0x0820
def rPGVA : Nat := 0x0828
def rPGHOST : Nat := 0x0830
def rPGCMD : Nat := 0x0838
def rPGSTAT : Nat := 0x0840
def rSIGWBASE : Nat := 0x0848
def rGKREQ : Nat := 0x0900
def rGKSTAT : Nat := 0x0908
def rTRBASE : Nat := 0x0A00
def rTRCTL : Nat := 0x0A08
def rTRTAIL : Nat := 0x0A10
def rTRHEAD : Nat := 0x0A18
def rVCAPPTR : Nat := 0x0C00

/-! Offsets in the hypervisor page of a virtual device. -/
def rS2BASE : Nat := 0x0000
def rVDCTL : Nat := 0x0008
def rTLBINV2 : Nat := 0x0010
def rTLBSTAT2 : Nat := 0x0018
def rPRSTALE : Nat := 0x0020
def rS2PTADDR : Nat := 0x0028
def rS2PTDATA : Nat := 0x0030
def rS2PTCLR : Nat := 0x0038
def rS2PTOLD : Nat := 0x0040
def rSPBASE : Nat := 0x0400
def rSPSIZE : Nat := 0x0408
def rLOGBASE : Nat := 0x0410
def rLOGSIZE : Nat := 0x0418
def rLOGCTL : Nat := 0x0420
def rFABQUOTA : Nat := 0x0480
def rDIEMAP : Nat := 0x0488
def rVDSCHED : Nat := 0x0500

/-! Offsets in the management page. -/
def rCAPPTR : Nat := 0x0000
def rBOOTSTAT : Nat := 0x0010
def rKEYCMD : Nat := 0x0100
def rKEYSTAT : Nat := 0x0108
def rKEYDATA (n : Nat) : Nat := 0x0140 + 8 * n
def rFABCFG : Nat := 0x0200
def rPORT (p : Nat) : Nat := 0x0300 + 8 * p
def rPWRCAP : Nat := 0x0400
def rPWRSTAT : Nat := 0x0408
def rTHERMLIM : Nat := 0x0410
def rPART (n : Nat) : Nat := 0x0500 + 0x20 * n
def rERRCNT (p : Nat) : Nat := 0x0600 + 8 * p
def rERRLOG : Nat := 0x0640
def rAGESTAT (n : Nat) : Nat := 0x0700 + 8 * n
def rATTADDR : Nat := 0x0800
def rATTCMD : Nat := 0x0808
def rATTSTAT : Nat := 0x0810
def rATTNONCE (n : Nat) : Nat := 0x0840 + 8 * n

/-- Registers of the control page with a reset value other than 0 or with RW or W1C bits. -/
def controlSpecs : List RegSpec :=
  ((List.range 12).map fun p => ⟨rLQBASE p, 0, maskBits 63 7, 0⟩) ++
  ((List.range 12).map fun p => ⟨rLQCTL p, 0, maskBits 63 63 ||| maskBits 3 0, 0⟩) ++
  [⟨rVDMODE, putBits 0x1000 47 32 16, maskBits 63 62 ||| maskBits 47 0, 0⟩,
   ⟨rHWAKE, 0, 1, 0⟩,
   ⟨rEVQBASE, 0, maskBits 63 5, 0⟩,
   ⟨rEVQCTL, 0, maskBits 63 63 ||| maskBits 26 16 ||| maskBits 3 0, maskBits 62 62⟩,
   ⟨rEVQHEAD, 0, maskBits 63 0, 0⟩,
   ⟨rTAGMISS, 0, maskBits 31 0, 0⟩] ++
  ((List.range 16).map fun n => ⟨rGANG n, 0, maskBits 63 63 ||| maskBits 37 32 ||| maskBits 15 0, 0⟩) ++
  [⟨rTLBSTAT1, 0, 0, maskBits 63 63⟩,
   ⟨rS1BASE, 0, maskBits 47 12, 0⟩,
   ⟨rPTADDR, 0, maskBits 47 3, 0⟩,
   ⟨rPGVA, 0, maskBits 56 12, 0⟩,
   ⟨rPGHOST, 0, maskBits 63 12, 0⟩,
   ⟨rPGSTAT, 0, 0, maskBits 62 62⟩,
   ⟨rSIGWBASE, 0, maskBits 56 20, 0⟩,
   ⟨rTRBASE, 0, maskBits 56 12, 0⟩,
   ⟨rTRCTL, 4096 * 256, maskBits 63 63 ||| maskBits 23 8 ||| maskBits 3 0, maskBits 62 62⟩,
   ⟨rTRHEAD, 0, maskBits 63 0, 0⟩,
   ⟨rVCAPPTR, BitVec.ofNat 64 Config.capOffset, 0, 0⟩]

/-- Registers of the hypervisor page. -/
def hyperSpecs : List RegSpec :=
  [⟨rS2BASE, 0, maskBits 38 12, 0⟩,
   ⟨rVDCTL, 0, maskBits 63 63 ||| maskBits 19 0, 0⟩,
   ⟨rTLBSTAT2, 0, 0, maskBits 63 63⟩,
   ⟨rPRSTALE, 0, maskBits 31 0, 0⟩,
   ⟨rS2PTADDR, 0, maskBits 38 3, 0⟩,
   ⟨rSPBASE, 0, maskBits 56 16, 0⟩,
   ⟨rSPSIZE, 0, maskBits 39 16, 0⟩,
   ⟨rLOGBASE, 0, maskBits 56 12, 0⟩,
   ⟨rLOGSIZE, 0, maskBits 39 12, 0⟩,
   ⟨rLOGCTL, 0, maskBits 63 63, maskBits 62 62⟩,
   ⟨rFABQUOTA, 0, maskBits 31 8, 0⟩,
   ⟨rDIEMAP, putBits (maskBits 63 48) 31 0 0xFFFF_FFFF, maskBits 63 48 ||| maskBits 31 0, 0⟩,
   ⟨rVDSCHED, putBits 4096 39 32 1, maskBits 63 63 ||| maskBits 50 48 ||| maskBits 39 0, maskBits 62 62⟩]

/-- Registers of the management page; the partitions and the ports stand in their own fields. -/
def mgmtSpecs : List RegSpec :=
  [⟨rCAPPTR, BitVec.ofNat 64 Config.capOffset, 0, 0⟩,
   ⟨rFABCFG, 8, maskBits 3 0, maskBits 63 63⟩,
   ⟨rPWRCAP, (if Config.module_ then 1800 else 0), maskBits 15 0, 0⟩,
   ⟨rTHERMLIM, (if Config.module_ then 100 else 105), maskBits 7 0, 0⟩,
   ⟨rERRLOG, 0, 0, maskBits 63 63⟩,
   ⟨rATTADDR, 0, maskBits 63 13, 0⟩,
   ⟨rATTSTAT, 0, 0, maskBits 62 62⟩] ++
  ((List.range 8).map fun p => ⟨rERRCNT p, 0, maskBits 63 0, 0⟩) ++
  ((List.range 8).map fun n => ⟨rAGESTAT n, putBits 0 58 56 7, 0, 0⟩)

def findSpec : List RegSpec → Nat → Option RegSpec
  | [], _ => none
  | r :: rs, off => if r.off = off then some r else findSpec rs off

/-- The reset value of a register by its page's list. -/
def resetWord (specs : List RegSpec) (off : Nat) : W64 :=
  match findSpec specs off with
  | some r => r.reset
  | none => 0

def Vd.ctl (v : Vd) (off : Nat) : W64 := Tab.getD v.control off (resetWord controlSpecs off)
def Vd.hyp (v : Vd) (off : Nat) : W64 := Tab.getD v.hyper off (resetWord hyperSpecs off)
def Vd.setCtl (v : Vd) (off : Nat) (w : W64) : Vd := { v with control := Tab.put v.control off w }
def Vd.setHyp (v : Vd) (off : Nat) (w : W64) : Vd := { v with hyper := Tab.put v.hyper off w }
def Dev.mg (d : Dev) (off : Nat) : W64 := Tab.getD d.mgmt off (resetWord mgmtSpecs off)
def Dev.setMg (d : Dev) (off : Nat) (w : W64) : Dev := { d with mgmt := Tab.put d.mgmt off w }

def State.ctl (s : State) (vd off : Nat) : W64 := (s.vdOf vd).ctl off
def State.hyp (s : State) (vd off : Nat) : W64 := (s.vdOf vd).hyp off
def State.mg (s : State) (off : Nat) : W64 := s.dev.mg off
def State.setCtl (s : State) (vd off : Nat) (w : W64) : State := s.updVd vd fun v => v.setCtl off w
def State.setHyp (s : State) (vd off : Nat) (w : W64) : State := s.updVd vd fun v => v.setHyp off w
def State.setMg (s : State) (off : Nat) (w : W64) : State := s.updDev fun d => d.setMg off w

/-- What a write leaves in a register by its access codes (R9, R10). -/
def RegSpec.write (r : RegSpec) (old v : W64) : W64 :=
  ((old &&& ~~~r.rw) ||| (v &&& r.rw)) &&& ~~~(v &&& r.w1c)

end Sys2Proof.Machine
end

