-- ==== Sys2Proof/Machine/Trans.lean ====
section
/-! DEFINITION. Device memory with its keys and poison (12 R301 to R303, R315, R323), the two-stage walk,
TLBs, accessed and dirty bits, permissions (R304 to R313), page formats (03 R76, R78), the checkpoint
log's records (11 R295) and the combination of U lines at their home (05 R137). -/

namespace Sys2Proof.Machine

/-! ### Device memory -/

/-- First reserved DPA (R301): the 4 GiB from here on belong to the firmware. -/
def dpaReserved : Nat := 0x7F_0000_0000

/-- The stack of a DPA (R302). -/
def stackOf (pa : Nat) : Nat :=
  ((pa / 2 ^ 8) % 8) ^^^ ((pa / 2 ^ 18) % 8) ^^^ ((pa / 2 ^ 28) % 8)

/-- The offset of a DPA in its stack, and the channel and pseudo-channel of an offset (R302). -/
def stackOffset (pa : Nat) : Nat := pa / 2 ^ 11 % 2 ^ 28 * 256 + pa % 256
def channelOf (o : Nat) : Nat := o / 2 ^ 8 % 32
def pseudoChannelOf (o : Nat) : Nat := o / 2 ^ 13 % 2

/-- The key words of a slot; slot 0 is plaintext, and a cleared slot holds zeros (R315, R316). -/
def State.key (s : State) (slot : Nat) : List W64 :=
  if slot = 0 then [] else Tab.getD s.dev.keys slot (List.replicate 8 0)

/-- The 64 bytes of a line as a key reads them (R315): memory holds what the key that wrote the line reads. -/
def State.lineAs (s : State) (key : List W64) (line : Nat) : List Byte :=
  let w := Tab.getD s.dev.lineKey line []
  let bs := Mem.read s.hbm (64 * line) 64
  if w = key then bs else rekeyLine w key line bs

/-- One byte of device memory as a key reads it. -/
def State.devByte (s : State) (key : List W64) (a : Nat) : Byte :=
  if Tab.getD s.dev.lineKey (a / 64) [] = key then Mem.get s.hbm a
  else (s.lineAs key (a / 64)).getD (a % 64) 0

/-- Bytes of device memory as a key reads them. DESIGN CHOICE (entry 106): values seen after a rollback without the checkpoint
of R299, the contents of a page that changed owner outside the sequences of R319, and those of the pool and log pages after a
software access (R286) are undefined under R6; the model reads what memory holds. -/
def State.devRead (s : State) (key : List W64) (a : Nat) : Nat → List Byte
  | 0 => []
  | n + 1 => s.devByte key a :: s.devRead key (a + 1) n

/-- One byte written with a key: a line under another key is first read with the new one (R315). -/
def State.devPut (s : State) (key : List W64) (a : Nat) (b : Byte) : State :=
  let line := a / 64
  if Tab.getD s.dev.lineKey line [] = key then { s with hbm := Mem.set s.hbm a b }
  else
    let bs := s.lineAs key line
    { s with
      hbm := Mem.set (Mem.write s.hbm (64 * line) bs) a b
      dev := { s.dev with lineKey :=
        if key = [] then Tab.del s.dev.lineKey line else Tab.put s.dev.lineKey line key } }

/-- Bytes written one by one; a write of a whole aligned line clears its poison marker (R323). -/
def State.devPuts (s : State) (key : List W64) (a : Nat) : List Byte → State
  | [] => s
  | b :: bs => (s.devPut key a b).devPuts key (a + 1) bs

/-- The errors detected only now of the units of a place that a test does not pick. -/
def Dev.unmark (d : Dev) (place : Nat) (p : Nat → Bool) : List (Nat × Nat) :=
  d.unmarked.filter fun u => !(u.1 == place && p u.2)

/-- Clears the poison markers of the lines, local words, weight units or accumulator words that a test picks (R205, R323). -/
def State.cleanHbm (s : State) (p : Nat → Bool) : State :=
  if s.dev.poisonHbm = [] then s
  else s.updDev fun d => { d with poisonHbm := d.poisonHbm.filter fun l => !p l, unmarked := d.unmark 2 p }
def State.cleanLmem (s : State) (p : Nat → Bool) : State :=
  if s.dev.poisonLmem = [] then s
  else s.updDev fun d => { d with poisonLmem := d.poisonLmem.filter fun l => !p l, unmarked := d.unmark 0 p }
def State.cleanWbuf (s : State) (p : Nat → Bool) : State :=
  if s.dev.poisonWbuf = [] then s
  else s.updDev fun d => { d with poisonWbuf := d.poisonWbuf.filter fun l => !p l, unmarked := d.unmark 3 p }
def State.cleanAcc (s : State) (p : Nat → Bool) : State :=
  if s.dev.poisonAcc = [] then s
  else s.updDev fun d => { d with poisonAcc := d.poisonAcc.filter fun l => !p l, unmarked := d.unmark 4 p }

def State.devWrite (s : State) (key : List W64) (a : Nat) (bs : List Byte) : State :=
  let s := s.devPuts key a bs
  if bs.length = 64 ∧ a % 64 = 0 then s.cleanHbm (· == a / 64) else s

/-- Marks lines of device memory as poisoned by what is written to them (R322). -/
def State.poisonHbm (s : State) (ls : List Nat) : State :=
  s.updDev fun d => { d with poisonHbm := ls.filter (fun l => !d.poisonHbm.contains l) ++ d.poisonHbm }

/-- Host lines that hold data of a poisoned TLP: whether a range meets one, a poisoned TLP to them, and the end of their
poison where a range covers them whole (R322). -/
def State.hostPoisoned (s : State) (a n : Nat) : Bool :=
  s.dev.poisonHost.any fun l => decide (a / 64 ≤ l) && decide (l ≤ (a + n - 1) / 64)
def State.poisonHost (s : State) (ls : List Nat) : State :=
  s.updDev fun d => { d with poisonHost := ls.filter (fun l => !d.poisonHost.contains l) ++ d.poisonHost }
def State.cleanHost (s : State) (a n : Nat) : State :=
  if s.dev.poisonHost = [] then s
  else s.updDev fun d => { d with poisonHost := d.poisonHost.filter fun l => !(decide (a ≤ 64 * l) && decide (64 * l + 64 ≤ a + n)) }

/-- Whether any line of a range is poisoned. -/
def State.hbmPoisoned (s : State) (a n : Nat) : Bool :=
  s.dev.poisonHbm.any fun l => decide (a / 64 ≤ l) && decide (l ≤ (a + n - 1) / 64)

/-- The syndrome of R324. -/
def syndrome (place : Nat) (mark walk : Bool) (unit : Nat) : Nat :=
  place * 32 + (if mark then 16 else 0) + (if walk then 8 else 0) + unit

/-- Whether what is poisoned of a place carries its marker: no error that is detected only now lies from one unit of the
place to another (R324). The units are words, lines and weight units. -/
def State.marked (s : State) (place lo hi : Nat) : Bool :=
  !(s.dev.unmarked.any fun u => u.1 == place && decide (lo ≤ u.2) && decide (u.2 ≤ hi))

/-- The syndrome of an error in device memory. -/
def State.hbmSyndrome (s : State) (walk : Bool) (pa : Nat) : Nat :=
  syndrome 2 (s.marked 2 (pa / 64) (pa / 64)) walk (stackOf pa)

/-- The syndrome of an error in a scratchpad word of a physical range, for the own quad or a peer. -/
def State.localSyndrome (s : State) (place phys n : Nat) : Nat :=
  syndrome place (s.marked 0 (phys / 4) ((phys + n - 1) / 4)) false 0

/-- Counts an uncorrectable error of a place and logs it, over whatever ERRLOG holds (R370). -/
def State.countError (s : State) (place addr : Nat) : State :=
  let w := s.mg (rERRCNT place)
  (s.setMg (rERRCNT place) (putBits w 63 32 (min (bits w 63 32 + 1) (2 ^ 32 - 1)))).setMg rERRLOG
    (BitVec.ofNat 64 (2 ^ 63 + place * 2 ^ 56 + addr))

/-- Counts a corrected error of a place (R369, R370). -/
def State.countCorrected (s : State) (place : Nat) : State :=
  let w := s.mg (rERRCNT place)
  s.setMg (rERRCNT place) (putBits w 31 0 (min (bits w 31 0 + 1) (2 ^ 32 - 1)))

/-- ERRLOG's ADDR for an own-quad offset of a tile (R370). -/
def errAddr (tile off : Nat) : Nat := tile * 2 ^ 30 + off % 2 ^ 21

/-! ### Walks -/

/-- A failed translation or access: cause and DETAIL. -/
structure Fail where
  cause : Nat
  detail : Nat
  deriving DecidableEq, Repr

inductive Acc where
  | fetch | read | write | rw
  deriving DecidableEq, Repr

/-- Permission by the X, W and R bits of a leaf (R309). -/
def Acc.allowed (k : Acc) (leaf : W64) : Bool :=
  match k with
  | .fetch => bit leaf 6
  | .read => bit leaf 4
  | .write => bit leaf 5
  | .rw => bit leaf 4 && bit leaf 5

def Acc.writes : Acc → Bool
  | .write | .rw => true
  | _ => false

/-- Bytes that a leaf of a level maps (R305, R308). -/
def leafBytes (level : Nat) (cont : Bool) : Nat :=
  match level with
  | 0 => if cont then 2 ^ 16 else 2 ^ 12
  | 1 => 2 ^ 21
  | _ => if cont then 2 ^ 34 else 2 ^ 30

/-- Whether a valid entry is malformed (R306, R307, R310; DEDUCED, entry 10: CONT at L1 is a leaf that is
not permitted). `rsvd` are the reserved bits and `attr` the bits that must be zero in a table entry. -/
def malformed (rsvd attr : W64) (level : Nat) (e : W64) : Bool :=
  e &&& rsvd != 0 ||
  (if bit e 1 then decide (3 ≤ level) || (level == 1 && bit e 3) else level == 0 || e &&& attr != 0)

def s1Rsvd : W64 := maskBits 56 48 ||| maskBits 11 7 ||| maskBits 2 2
def s1Attr : W64 := maskBits 63 57 ||| maskBits 6 3
def s2Rsvd : W64 := maskBits 63 63 ||| maskBits 49 39 ||| maskBits 11 9 ||| maskBits 2 2
def s2Attr : W64 := maskBits 62 50 ||| maskBits 8 3

def word64 (bs : List Byte) : W64 := BitVec.ofNat 64 (ofBytes bs)

/-- The index of an address at a level. -/
def walkIndex (a level : Nat) : Nat := (a / 2 ^ (12 + 9 * level)) % 512

/-- What ends a walk, and the DPAs of the entries that it has read. -/
structure Stop where
  fail : Fail
  met : List Nat
  deriving DecidableEq, Repr

/-- An 8-byte table entry as a load of it reads it: the value at its home, with the partial values of U lines that the
load combines first (R137, R305). -/
def State.loadEntry (s : State) (key : List W64) (dpa : Nat) : W64 :=
  let apply (u : ULine) (v : W64) (p : Nat × W64) : W64 :=
    let at_ := u.dpa + p.1
    if u.dw then (if at_ = dpa then (amoValue u.op true v p.2 0).1 else v)
    else if at_ = dpa then putBits v 31 0 (amoValue u.op false (BitVec.ofNat 64 (bits v 31 0)) p.2 0).1.toNat
    else if at_ = dpa + 4 then putBits v 63 32 (amoValue u.op false (BitVec.ofNat 64 (bits v 63 32)) p.2 0).1.toNat
    else v
  (s.quads.flatMap fun q => q.2.ulines).foldl (fun v u => if u.dpa / 64 = dpa / 64 then u.vals.foldl (apply u) v else v)
    (word64 (s.devRead key dpa 8))

/-- A stage-2 table entry, as the walker reads it: plaintext memory of the device (DEDUCED, entry 10). -/
def State.s2Entry (s : State) (met : List Nat) (at_ : Nat) : Except Stop W64 :=
  if s.hbmPoisoned at_ 8 then .error ⟨⟨Cause.memoryError, s.hbmSyndrome true at_⟩, met⟩
  else .ok (s.loadEntry [] at_)

/-- In a contiguous group whose entries differ, the entry that applies is undefined: a free choice among
the 16 (R308, entry 5). Yields the index of the entry that applies. -/
def groupPick (n idx : Nat) (same : Bool) : Nat :=
  if same then idx else idx / 16 * 16 + (Config.freeWord n 40).toNat % 16

/-- Whether the 16 entries of a group have equal attributes and consecutive, aligned ADDR values; one that cannot be
read differs. -/
def groupSame (addrHi : Nat) (pageBytes : Nat) (es : List (Option W64)) : Bool :=
  match es with
  | some e0 :: _ =>
    let mask := ~~~(maskBits addrHi 12)
    decide ((bits e0 addrHi 12 * 4096 / pageBytes) % 16 = 0) &&
      (es.zipIdx).all fun p => match p.1 with
        | none => false
        | some e =>
          -- A and D (bits 8 and 7) of a stage-2 entry are no part of the comparison
          ((e &&& mask) ||| maskBits 8 7) == ((e0 &&& mask) ||| maskBits 8 7) &&
            bits e addrHi 12 * 4096 == bits e0 addrHi 12 * 4096 + p.2 * pageBytes
  | _ => false

/-- The index of the entry that applies at index `idx` of a table, and whether it maps as one of a contiguous group (R308):
only L0 and L2 have groups; where the entries of a group differ, one of the 16 applies, by itself. `read` gives the entries of
the table. -/
def groupIndex {ε : Type} (n addrHi level idx : Nat) (e : W64) (read : Nat → Except ε W64) : Nat × Bool :=
  if (level == 0 || level == 2) && bit e 0 && bit e 1 && bit e 3 then
    let es := (List.range 16).map fun i => (read (idx / 16 * 16 + i)).toOption
    let same := groupSame addrHi (leafBytes level false) es
    (groupPick n idx same, same)
  else (idx, false)

/-- The outcome of a stage-2 walk: leaf, its place, bytes mapped, DPA of the address, entries read. -/
structure S2 where
  leaf : W64
  at_ : Nat
  bytes : Nat
  dpa : Nat
  met : List Nat
  deriving DecidableEq, Repr

/-- The stage-2 walk from a table at a level (R304, R305). The entry that applies is checked like any other (R308). -/
def State.s2From (s : State) (ipa : Nat) : (level1 table : Nat) → List Nat → Except Stop S2
  | 0, _, met => .error ⟨⟨Cause.translation, 5⟩, met⟩
  | lv + 1, table, met => do
    let idx := walkIndex ipa lv
    let e ← s.s2Entry met (table + 8 * idx)
    let met := (table + 8 * idx) :: met
    let read (i : Nat) : Except Stop W64 := s.s2Entry met (table + 8 * i)
    let (j, whole) := groupIndex s.freeN 38 lv idx e read
    let at_ := table + 8 * j
    let e ← if j = idx then .ok e else read j
    if !bit e 0 then .error ⟨⟨Cause.translation, 3⟩, met⟩
    else if malformed s2Rsvd s2Attr lv e then .error ⟨⟨Cause.translation, 5⟩, met⟩
    else if bit e 1 then
      let bytes := leafBytes lv whole
      let a := bits e 38 12 * 4096
      .ok ⟨e, at_, bytes, a / bytes * bytes + ipa % bytes, met⟩
    else s.s2From ipa lv (bits e 38 12 * 4096) met

def State.s2Walk (s : State) (vd ipa : Nat) : Except Stop S2 :=
  s.s2From ipa 4 (bits (s.hyp vd rS2BASE) 38 12 * 4096) []

/-- Sets A, and D for a write, in a stage-2 leaf (R313). -/
def State.setAD (s : State) (at_ : Nat) (d : Bool) : State :=
  let e := word64 (s.devRead [] at_ 8)
  let e' := e ||| 0x80 ||| (if d then 0x100 else 0)
  if e = e' then s else s.devPuts [] at_ (toBytes 8 e'.toNat)

/-- Whether D is set in every stage-2 entry of what a leaf maps: the entry itself, or the 16 of its group (R313, R314). -/
def State.dirty (s : State) (t : S2) : Bool :=
  if t.bytes = leafBytes 0 true ∨ t.bytes = leafBytes 2 true then
    (List.range 16).all fun i => bit (s.loadEntry [] (t.at_ / 128 * 128 + 8 * i)) 8
  else bit (s.loadEntry [] t.at_) 8

/-- A stage-1 table entry at an IPA, read through stage 2, which needs R (R304, R309): the entry, the place of the
stage-2 leaf, and the entries read so far. -/
def State.s1Entry (s : State) (vd : Nat) (met : List Nat) (ipa : Nat) : Except Stop (W64 × Nat × List Nat) :=
  match s.s2Walk vd ipa with
  | .error e => .error ⟨e.fail, e.met ++ met⟩
  | .ok t =>
    let met := t.met ++ met
    if !bit t.leaf 4 then .error ⟨⟨Cause.translation, 4⟩, met⟩
    else if dpaReserved ≤ t.dpa then .error ⟨⟨Cause.translation, 6⟩, met⟩
    else if s.hbmPoisoned t.dpa 8 then .error ⟨⟨Cause.memoryError, s.hbmSyndrome true t.dpa⟩, met⟩
    else .ok (s.loadEntry (s.key (bits t.leaf 62 50)) t.dpa, t.at_, t.dpa :: met)

/-- The outcome of a stage-1 walk: leaf, bytes mapped, IPA of the address, stage-2 leaves used. -/
structure S1 where
  leaf : W64
  bytes : Nat
  ipa : Nat
  used : List Nat
  /-- Table entries met, for the walk cache: IPA of the entry and the entry (R311). -/
  tables : List (Nat × W64)
  met : List Nat
  deriving DecidableEq, Repr

/-- The stage-1 walk from a table at a level. `cache` answers a table entry from the walk cache (R311). -/
def State.s1From (s : State) (vd va : Nat) (cache : Nat → Option W64) :
    (level1 table : Nat) → List Nat → List (Nat × W64) → List Nat → Except Stop S1
  | 0, _, _, _, met => .error ⟨⟨Cause.translation, 5⟩, met⟩
  | lv + 1, table, used, tabs, met => do
    let idx := walkIndex va lv
    let get (met : List Nat) (i : Nat) : Except Stop (W64 × Nat × List Nat) :=
      match cache (table + 8 * i) with
      | some e => .ok (e, 0, met)
      | none => s.s1Entry vd met (table + 8 * i)
    let first ← get met idx
    let (j, whole) := groupIndex s.freeN 47 lv idx first.1 fun i => (get [] i).map Prod.fst
    let (e, at_, met) ← if j = idx then .ok first else get first.2.2 j
    let used := if at_ = 0 then used else at_ :: used
    if !bit e 0 then .error ⟨⟨Cause.translation, 1⟩, met⟩
    else if malformed s1Rsvd s1Attr lv e then .error ⟨⟨Cause.translation, 5⟩, met⟩
    else if bit e 1 then
      let bytes := leafBytes lv whole
      let a := bits e 47 12 * 4096
      .ok ⟨e, bytes, a / bytes * bytes + va % bytes, used, tabs, met⟩
    else s.s1From vd va cache lv (bits e 47 12 * 4096) used ((table + 8 * j, e) :: tabs) met

/-- The 57 bits of a VA as a number. -/
def vaNat (va : W64) : Nat := va.toNat % 2 ^ 57

/-- A completed translation: the TLB entry that holds it, and the DPA of the address. -/
structure Xlat where
  e : TlbEntry
  dpa : Nat
  deriving DecidableEq, Repr

def Xlat.fmt (x : Xlat) : Nat := bits x.e.s1 63 60
def Xlat.bg (x : Xlat) : Nat := bits x.e.s1 59 58
def Xlat.keyid (x : Xlat) : Nat := bits x.e.s2 62 50

/-- Which TLBs an access uses: those of a core and its tile, or none for the device's own accesses. -/
abbrev Via := Option Nat

def tlbFind (l : List TlbEntry) (vd va : Nat) : Option TlbEntry :=
  l.find? fun e => e.vd == vd && decide (e.va ≤ va) && decide (va < e.va + e.bytes)

/-- A new entry at the head, the oldest dropped above the size (R311). -/
def tlbFill (size : Nat) (l : List TlbEntry) (e : TlbEntry) : List TlbEntry :=
  (e :: l.filter fun x => !(x.vd == e.vd && x.va == e.va && x.bytes == e.bytes)).take size

/-- The walk cache of the tile of a core (R311). -/
def State.walkCache (s : State) (via : Via) (vd : Nat) (ipa : Nat) : Option W64 :=
  match via with
  | none => none
  | some core =>
    ((s.tileOf (core / 8)).walk.find? fun w => w.1 == vd && w.2.1 == 1 && w.2.2.1 == ipa).map fun w => w.2.2.2

/-- The stage-1 walk of a VA from the root (R304). -/
def State.s1Walk (s : State) (via : Via) (vd va : Nat) : Except Stop S1 :=
  s.s1From vd va (s.walkCache via vd) 5 (bits (s.ctl vd rS1BASE) 47 12 * 4096) [] [] []

/-- The DPAs of the table entries that a walk of both stages reads. -/
def State.walkMet (s : State) (via : Via) (vd va : Nat) : List Nat :=
  match s.s1Walk via vd va with
  | .error e => e.met
  | .ok w => w.met ++ match s.s2Walk vd w.ipa with
    | .error e => e.met
    | .ok t => t.met

/-- The same for the stage-1 walk alone. -/
def State.s1Met (s : State) (via : Via) (vd va : Nat) : List Nat :=
  match s.s1Walk via vd va with
  | .error e => e.met
  | .ok w => w.met

/-- A walk of both stages, with checks 2 to 6 of R309 and the A and D bits of R313. -/
def State.walkBoth (s : State) (via : Via) (vd va : Nat) (k : Acc) : State × Except Fail Xlat :=
  match s.s1Walk via vd va with
  | .error e => (s, .error e.fail)
  | .ok w =>
    let s := w.used.foldl (fun s at_ => s.setAD at_ false) s
    if !k.allowed w.leaf then (s, .error ⟨Cause.translation, 2⟩)
    else if bit w.leaf 57 then (s, .error ⟨Cause.migration, 1⟩)
    else
      match s.s2Walk vd w.ipa with
      | .error e => (s, .error e.fail)
      | .ok t =>
        if !k.allowed t.leaf then (s, .error ⟨Cause.translation, 4⟩)
        else if dpaReserved ≤ t.dpa then (s, .error ⟨Cause.translation, 6⟩)
        else
          let s := s.setAD t.at_ k.writes
          let n := min w.bytes t.bytes
          let o := va % n
          let e : TlbEntry := ⟨vd, va - o, n, w.leaf, w.ipa - o,
            (t.leaf ||| 0x180) ^^^ (if s.dirty t then 0 else 0x100), t.dpa - o⟩
          let s := match via with
            | none => s
            | some core =>
              let s := s.updCore core fun c => { c with tlb := tlbFill 64 c.tlb e }
              s.updTile (core / 8) fun x => { x with
                l2 := tlbFill 4096 x.l2 e
                walk := (w.tables.map fun p => (vd, 1, p.1, p.2)) ++ x.walk }
          (s, .ok ⟨e, t.dpa⟩)

/-- The TLB entry that serves an access: of the core's first level, or of the tile's second level. -/
def State.tlbServe (s : State) (via : Via) (vd va : Nat) : Option TlbEntry :=
  match via with
  | none => none
  | some core => (tlbFind (s.coreOf core).tlb vd va).or (tlbFind (s.tileOf (core / 8)).l2 vd va)

/-- An entry of the second level that serves an access fills the first level (R311). -/
def State.tlbRefill (s : State) (via : Via) (vd va : Nat) (e : TlbEntry) : State :=
  match via with
  | none => s
  | some core =>
    if (tlbFind (s.coreOf core).tlb vd va).isSome then s
    else s.updCore core fun c => { c with tlb := tlbFill 64 c.tlb e }

/-- Whether an access walks the tables: no TLB entry serves it, or it writes through one that recorded D as clear (R313). -/
def State.walks (s : State) (via : Via) (vd va : Nat) (k : Acc) : Bool :=
  match s.tlbServe via vd va with
  | none => true
  | some e => k.allowed e.s1 && k.allowed e.s2 && k.writes && !bit e.s2 8

/-- Translation of a canonical VA through the TLBs or a walk, with the checks of R309, where no U line holds a table
entry that a walk reads. -/
def State.xlate (s : State) (via : Via) (vd : Nat) (va : W64) (k : Acc) : State × Except Fail Xlat :=
  if !canonical va then (s, .error ⟨Cause.addressForm, 1⟩)
  else
    let a := vaNat va
    match s.tlbServe via vd a with
    | none => s.walkBoth via vd a k
    | some e =>
      let s := s.tlbRefill via vd a e
      if !k.allowed e.s1 then (s, .error ⟨Cause.translation, 2⟩)
      else if !k.allowed e.s2 then (s, .error ⟨Cause.translation, 4⟩)
      else if k.writes && !bit e.s2 8 then s.walkBoth via vd a k
      else (s, .ok ⟨e, e.dpa + (a - e.va)⟩)

/-- A core's global access on a formatted page (R76, R78): cause 0x04, then 0x01. -/
def coreFormat (x : Xlat) : Option Fail :=
  if 8 ≤ x.fmt ∨ (x.fmt ≠ 3 ∧ x.fmt ≠ 4 ∧ x.bg ≠ 0) then some ⟨Cause.formatAccess, 4⟩
  else if x.fmt ≠ 0 then some ⟨Cause.formatAccess, 1⟩
  else none

/-! ### The log (R295) and U lines (R137) -/

/-- Whether global writes of a virtual device are logged. -/
def State.logging (s : State) (vd : Nat) : Bool := bit (s.hyp vd rLOGCTL) 63

/-- The records that the log holds: its size in units of 128 bytes (R286, R295). -/
def State.logRoom (s : State) (vd : Nat) : Nat := bits (s.hyp vd rLOGSIZE) 39 12 * 4096 / 128

/-- Writes one 64-byte piece at a VA of the log, unlogged (R286); the copy of a line that holds an uncorrectable error is
poisoned (R323; entry 113). -/
def State.logPut (s : State) (vd : Nat) (va : W64) (bs : List Byte) (bad : Bool) : State :=
  match s.xlate none vd va .write with
  | (s, .error _) => s
  | (s, .ok x) =>
    let s := s.devWrite (s.key x.keyid) x.dpa bs
    if bad then s.poisonHbm [x.dpa / 64] else s

/-- Whether a virtual device's slices end by rollback to checkpoints (R298, R359). -/
def State.rollback (s : State) (vd : Nat) : Bool := s.logging vd && !bit (s.hyp vd rVDSCHED) 63

/-- Whether the log may not discard a record: in rollback mode, one made after the latest checkpoint of a sheaf that runs or
that is being rolled back (R296, R298). -/
def State.logKeeps (s : State) (vd : Nat) (r : LogRec) : Bool :=
  s.rollback vd && s.sheaves.any fun e =>
    e.2.vd == vd && (e.2.st == .running || e.2.stop == .slice true) && e.2.ckpt.isSome && decide (e.2.ckptSeq < r.seq)

/-- Discards the oldest record, with the moments that are held no longer, and sets WRAP (R296). -/
def State.logDrop (s : State) (vd : Nat) : State :=
  match (s.vdOf vd).log with
  | [] => s
  | r :: l =>
    let keep (m : Moment) : Moment := if m.seq < r.seq then { m with held := false } else m
    (s.updVd vd fun v => { v with log := l, moments := v.moments.map keep }).setHyp vd rLOGCTL
      (s.hyp vd rLOGCTL ||| maskBits 62 62)

/-- Discards up to n oldest records, stopping at one that the log keeps. -/
def State.logTrim (s : State) (vd : Nat) : (n : Nat) → State
  | 0 => s
  | n + 1 =>
    match (s.vdOf vd).log with
    | [] => s
    | r :: _ => if s.logKeeps vd r then s else (s.logDrop vd).logTrim vd n

/-- The first write to a line after a checkpoint moment appends a record, whose bytes are also placed in the ring (R295);
a full log discards its oldest record (R296). `sid` is the writer's SHEAFID, all ones for none. -/
def State.logLine (s : State) (vd line dpa sid : Nat) (key : List W64) : State :=
  let v := s.vdOf vd
  if v.moments = [] ∨ v.logged.contains line then s
  else
    let old := s.devRead key (dpa / 64 * 64) 64
    let bad := s.dev.poisonHbm.contains (dpa / 64)
    let r : LogRec := ⟨s.dev.seq + 1, line, dpa / 64, s.slot, sid, old, bad⟩
    let s := s.updDev fun d => { d with seq := d.seq + 1 }
    let room := s.logRoom vd
    let at_ := codeAddr (s.hyp vd rLOGBASE) + BitVec.ofNat 64 (128 * (v.logCount % max 1 room))
    let s := if room = 0 then s else
      (s.logPut vd at_ (toBytes 8 (line * 64) ++ toBytes 8 s.slot ++ toBytes 8 sid ++ toBytes 40 0) false).logPut vd (at_ + 64) old bad
    let s := s.updVd vd fun v => { v with log := v.log ++ [r], logCount := v.logCount + 1, logged := line :: v.logged }
    s.logTrim vd ((s.vdOf vd).log.length - room)

/-- Whether a write to lines waits for log space: the records that it appends need the discard of one that the log keeps
(R296). -/
def State.logHeld (s : State) (vd : Nat) (lines : List Nat) : Bool :=
  let v := s.vdOf vd
  s.rollback vd && v.moments != [] &&
    (let new := (lines.filter fun l => !v.logged.contains l).eraseDups.length
     decide (0 < new) && decide (s.logRoom vd < (v.log.filter (s.logKeeps vd)).length + new))

/-- Combines one U line into its home value, logged where the log runs (R137, R295). -/
def State.combineU (s : State) (u : ULine) : State :=
  let key := s.key u.key
  let sid := match u.by_ with
    | c :: _ => (s.sheafOf c.sheaf).sheafid
    | [] => 2 ^ 64 - 1
  let s := if s.logging u.vd then s.logLine u.vd (u.va / 64) u.dpa sid key else s
  u.vals.foldl (fun s p =>
    let n := if u.dw then 8 else 4
    let old := word64 (s.devRead key (u.dpa + p.1) n)
    let v := (amoValue u.op u.dw old p.2 0).1
    s.devWrite key (u.dpa + p.1) (toBytes n v.toNat)) s

/-- Removes and combines the U lines of every quad that a test picks (R137). -/
def State.flushU (s : State) (p : Nat → ULine → Bool) : State :=
  let hit := s.quads.flatMap fun q => q.2.ulines.filter (p q.1)
  let s := { s with quads := s.quads.map fun q =>
    (q.1, { q.2 with ulines := q.2.ulines.filter fun u => !p q.1 u }) }
  hit.foldl (fun s u => s.combineU u) s

/-- Combines every U line of a home location before it is read (R137). -/
def State.flushHome (s : State) (dpa n : Nat) : State :=
  if s.quads.all fun q => q.2.ulines.isEmpty then s
  else s.flushU fun _ u => decide (u.dpa / 64 * 64 < dpa + n) && decide (dpa < u.dpa / 64 * 64 + 64)

/-- Whether the combination of U lines that a test picks waits for log space (R296). -/
def State.combineHeld (s : State) (p : Nat → ULine → Bool) : Bool :=
  let hit := s.quads.flatMap fun q => q.2.ulines.filter (p q.1)
  hit.any fun u => s.logHeld u.vd ((hit.filter fun w => w.vd == u.vd).map fun w => w.va / 64)

/-- The same for the U lines of a home location. -/
def State.homeHeld (s : State) (dpa n : Nat) : Bool :=
  s.combineHeld fun _ u => decide (u.dpa / 64 * 64 < dpa + n) && decide (dpa < u.dpa / 64 * 64 + 64)

/-- Notes that a write of a virtual device waits for log space: its slice is to end by a save (R296). -/
def State.waitLog (s : State) (vd : Nat) : State :=
  if (s.vdOf vd).logWait then s else s.updVd vd fun v => { v with logWait := true }

/-- Combines the U lines that a test picks, unless that waits for log space (R296). -/
def State.flushWhen (s : State) (vd : Nat) (p : Nat → ULine → Bool) : State :=
  if s.combineHeld p then s.waitLog vd else s.flushU p

/-- Combines the U lines of a home location that the device reads by itself, as soon as the log has room: until then the line
stays in its window, and its values stand in what is read (R137, R296). -/
def State.flushSoft (s : State) (vd dpa n : Nat) : State :=
  if s.homeHeld dpa n then s.waitLog vd else s.flushHome dpa n

/-- Combines the U lines that hold entries of a walk, which loads them (R137, R305). -/
def State.flushMet (s : State) (vd : Nat) (met : List Nat) : State :=
  if s.quads.all fun q => q.2.ulines.isEmpty then s else met.foldl (fun s a => s.flushSoft vd a 8) s

/-- Bytes as a load combines them: those at their home, with the partial values of the U lines that hold them. -/
def State.loadBytes (s : State) (key : List W64) (dpa n : Nat) : List Byte :=
  if s.quads.all fun q => q.2.ulines.isEmpty then s.devRead key dpa n
  else (List.range n).map fun i => (toBytes 8 (s.loadEntry key ((dpa + i) / 8 * 8)).toNat).getD ((dpa + i) % 8) 0

/-- Translation with the checks of R309; the entries that its walk reads are ordinary loads (R305). -/
def State.translate (s : State) (via : Via) (vd : Nat) (va : W64) (k : Acc) : State × Except Fail Xlat :=
  if canonical va && s.walks via vd (vaNat va) k then
    (s.flushMet vd (s.walkMet via vd (vaNat va))).xlate via vd va k
  else s.xlate via vd va k

/-- The DPA that a VA has, whatever its permissions (R225); none where it is not mapped to the device. -/
def State.homeOf (s : State) (via : Via) (vd : Nat) (va : W64) : Option Nat :=
  if !canonical va then none
  else match s.tlbServe via vd (vaNat va) with
    | some e => some (e.dpa + (vaNat va - e.va))
    | none =>
      match s.s1Walk via vd (vaNat va) with
      | .error _ => none
      | .ok w =>
        if bit w.leaf 57 then none
        else match s.s2Walk vd w.ipa with
          | .error _ => none
          | .ok t => some t.dpa

/-! ### Accesses of the device itself -/

/-- Reads global bytes within one page for the device: launch records, constant banks, signals (R304). -/
def State.gread (s : State) (via : Via) (vd : Nat) (va : W64) (n : Nat) : State × Except Fail (List Byte) :=
  match s.translate via vd va .read with
  | (s, .error f) => (s, .error f)
  | (s, .ok x) =>
    let s := s.flushSoft vd x.dpa n
    if s.hbmPoisoned x.dpa n then (s, .error ⟨Cause.memoryError, s.hbmSyndrome false x.dpa⟩)
    else (s, .ok (s.loadBytes (s.key x.keyid) x.dpa n))

/-- Whether a write of the device to a line waits for log space (R296). -/
def State.lineHeld (s : State) (vd : Nat) (va : W64) : Bool := s.logging vd && s.logHeld vd [vaNat va / 64]

/-- Writes global bytes within one page, logged where the log runs (R295). Its callers wait for log space first. -/
def State.gwrite (s : State) (via : Via) (vd sid : Nat) (va : W64) (bs : List Byte) : State × Except Fail Unit :=
  match s.translate via vd va .write with
  | (s, .error f) => (s, .error f)
  | (s, .ok x) =>
    let key := s.key x.keyid
    let s := s.flushHome x.dpa bs.length
    let s := if s.logging vd then s.logLine vd (vaNat va / 64) x.dpa sid key else s
    (s.devWrite key x.dpa bs, .ok ())

/-- Writes bytes that may span pages, in pieces of at most 64 bytes, faults being dropped (event and trace
rings, receive buffers). `fuel` bounds the pieces. -/
def State.gwriteAll (s : State) (vd sid : Nat) : (fuel : Nat) → W64 → List Byte → State
  | 0, _, _ => s
  | _ + 1, _, [] => s
  | k + 1, va, bs =>
    let n := 64 - va.toNat % 64
    (s.gwrite none vd sid va (bs.take n)).1.gwriteAll vd sid k (va + BitVec.ofNat 64 n) (bs.drop n)

/-- SHEAFID field of log records for a write by no sheaf (R295). -/
def noSheaf : Nat := 2 ^ 64 - 1

end Sys2Proof.Machine
end

