-- ==== Sys2Proof/Machine/Ops.lean ====
section
/-! DEFINITION. The named operations of a context: the result queue and pending results (01 R17 to R19),
the loop-end test (04 R114, R115), issue bookkeeping (R97, R277), events to the host (10 R273), page
requests (12 R320), taking a trap (01 R32, R34; 04 R98; 11 R280 to R283) and returning from one (08 R228). -/

namespace Sys2Proof.Machine

/-! ### The result queue -/

/-- The age of an entry after one more push; 0 once it has aged out (R31). -/
def ageUp (n : Nat) : Nat := if n = 0 then 0 else if 16 ≤ n then 0 else n + 1

/-- Pushes a value: every entry ages by one (R18). -/
def Ctx.push (c : Ctx) (v : W64) : Ctx :=
  { c with
    q := Vector.ofFn fun i => if i.val = 0 then v else c.q[i.val - 1]
    pend := c.pend.map fun p => { p with age := ageUp p.age }
    pq := ageUp c.pq }

/-- An earlier result pending for the same G register may or may not stand (R19). -/
def Ctx.clobber (c : Ctx) (n : Fin 16) : Ctx :=
  { c with pend := c.pend.map fun p => if p.g = some n then { p with clobber := true } else p }

/-- The write of a class S result, guarded on (R17). -/
def Ctx.result (c : Ctx) (d : Dst) (v : W64) : Ctx :=
  match d with
  | .none => c
  | .q => c.push v
  | .g n => { (c.clobber n).push v with g := c.g.set n v }

/-- The push of an instruction guarded off (R17). While gN is pending, `old gN` is the value not yet overwritten
(DESIGN CHOICE, entry 92). -/
def Ctx.skipResult (c : Ctx) (d : Dst) : Ctx :=
  match d with
  | .none => c
  | .q => c.push 0
  | .g n => c.push c.g[n]

/-- The G destination of a DST code. -/
def dstReg : Dst → Option (Fin 16)
  | .g n => some n
  | _ => none

/-- Reserves the entry of a class L result, guarded on: the entry is pending and holds the displaced
value (R18). -/
def Ctx.reserve (c : Ctx) (h : Head) (tag : Nat) (due : Option Nat) (val : Option W64) (fl : Flags) : Ctx :=
  let p : Pend := ⟨tag, if h.dst = .none then 0 else 1, dstReg h.dst, h.la.val, 0, due, val, fl,
    match h.dst with
    | .g n => c.pend.any fun p => p.g == some n
    | _ => false⟩
  let c := match h.dst with
    | .none => c
    | .q => c.push c.q[15]
    | .g n => (c.clobber n).push c.q[15]
  { c with pend := c.pend ++ [p] }

/-- The value that a read of a pending result gives: the old or the new one (R19, entry 5). A result whose value no
step has determined yet gives the old one (DEDUCED, entry 91). -/
def pendingRead (n k : Nat) (old : W64) (p : Pend) : W64 :=
  match p.val with
  | some v => if Config.windowChoice n (k + p.tag) then v else old
  | none => old

/-- The value of a source code. `n` is the free counter and `k` the operand's place (R18, R19). -/
def Ctx.src (c : Ctx) (n k : Nat) (r : Src) : W64 :=
  match r with
  | .g i => (c.pend.filter fun p => p.g == some i).foldl (pendingRead n k) c.g[i]
  | .q i => (c.pend.filter fun p => p.age == i.val + 1).foldl (pendingRead n k) c.q[i]

/-- Writes a result into its entry and G destination. Of two results for one register inside a window,
the one that completes last stands or not (R19). -/
def Ctx.writeResult (c : Ctx) (n : Nat) (p : Pend) (v : W64) : Ctx :=
  let rest := c.pend.erase p
  let q := if h : 0 < p.age ∧ p.age ≤ 16 then c.q.set (p.age - 1) v (by omega) else c.q
  let g := match p.g with
    | none => c.g
    | some i =>
      if p.clobber && !(rest.any fun r => r.g == some i && r.clobber) && !Config.windowChoice n 60 then c.g
      else c.g.set i v
  { c with q := q, g := g, pend := rest, aflags := c.aflags ||| p.flags }

/-- The written value of a pending result: its own, or a free one where the specification gives none. -/
def Pend.value (p : Pend) (n : Nat) : W64 := p.val.getD (Config.freeWord n 61)

/-- The value of a pending result is determined before it is written; a read inside the window may give it (R19). -/
def Ctx.learn (c : Ctx) (tag : Nat) (v : W64) : Ctx :=
  { c with pend := c.pend.map fun p => if p.tag = tag then { p with val := some v } else p }

/-- Writes the result of an outstanding instruction by its number, with its flags (R29). -/
def Ctx.complete (c : Ctx) (n tag : Nat) (v : W64) (fl : Flags) : Ctx :=
  match c.pend.find? fun p => p.tag == tag with
  | none => { c with aflags := c.aflags ||| fl }
  | some p => let c := c.writeResult n p v
              { c with aflags := c.aflags ||| fl }

/-! ### The loop-end test and control transfers -/

/-- The loop-end test at address p from a depth on (R114). -/
def Ctx.loopTest (c : Ctx) (p next : W64) : (depth : Nat) → Ctx × W64
  | 0 => ({ c with depth := 0 }, next)
  | i + 1 =>
    if h : i < 4 then
      if addrField p = c.le[i] then
        let n := c.lc[i] - 1
        let c := { c with lc := c.lc.set i n }
        if n ≠ 0 then ({ c with depth := i + 1 }, codeAddr (c.ls[i]))
        else c.loopTest p next i
      else ({ c with depth := i + 1 }, next)
    else ({ c with depth := i + 1 }, next)

/-- Closes the levels that a taken transfer leaves (R115). -/
def Ctx.closeLoops (c : Ctx) (t : W64) : (depth : Nat) → Nat
  | 0 => 0
  | i + 1 =>
    if h : i < 4 then
      if c.ls[i].toNat ≤ (addrField t).toNat && (addrField t).toNat ≤ c.le[i].toNat then i + 1
      else c.closeLoops t i
    else i + 1

/-- Counts an issue (R97, R232, R277). -/
def Ctx.tally (c : Ctx) (cycle : Nat) : Ctx :=
  { c with
    lcnt := c.lcnt + 1
    issued := c.issued + 1
    pend := c.pend.map fun p => { p with dist := p.dist + 1 }
    lastIssue := cycle
    readyAt := cycle + 1
    wait := .none
    parkedOn := 0 }

/-- Moves past an instruction of `len` bytes, with the loop-end test outside handler mode (R114, R282). -/
def Ctx.next (c : Ctx) (len : Nat) : Ctx :=
  let n := c.pc + BitVec.ofNat 64 len
  if c.handler then { c with pc := n }
  else
    let r := c.loopTest c.pc n c.depth
    { r.1 with pc := r.2 }

/-- A taken transfer: the next instruction issues no earlier than three cycles later (R96). `closes` is
false for `call` (R115). -/
def Ctx.jump (c : Ctx) (t : W64) (closes : Bool) : Ctx :=
  { c with
    pc := t
    readyAt := c.lastIssue + 3
    depth := if closes && !c.handler then c.closeLoops t c.depth else c.depth }

/-! ### Completing an issue -/

/-- An instruction of class N, or guarded on without a result, has issued. -/
def State.doneN (s : State) (len : Nat) : State :=
  (s.updMe fun c => (c.tally s.cycle).next len).fresh

/-- A class S result, written in the issue cycle (R51). -/
def State.doneS (s : State) (h : Head) (len : Nat) (v : W64) (fl : Flags := 0) : State :=
  (s.updMe fun c =>
    let c := (c.tally s.cycle).result h.dst v
    { c with aflags := c.aflags ||| fl }.next len).fresh

/-- A class L result of a fixed latency (R96). -/
def State.doneL (s : State) (h : Head) (len lat : Nat) (v : W64) (fl : Flags := 0) : State :=
  (s.updMe fun c => ((c.tally s.cycle).reserve h 0 (some (s.cycle + lat)) (some v) fl).next len).fresh

/-- A class L result that another step writes, by the number of the outstanding instruction. -/
def State.doneTag (s : State) (h : Head) (len tag : Nat) : State :=
  (s.updMe fun c => ((c.tally s.cycle).reserve h tag none none 0).next len).fresh

/-- An instruction guarded off: one issue slot and the push of R17. -/
def State.skip (s : State) (h : Head) (len : Nat) : State :=
  (s.updMe fun c => ((c.tally s.cycle).skipResult h.dst).next len).fresh

/-- A taken transfer of class N. -/
def State.doneJump (s : State) (t : W64) : State :=
  (s.updMe fun c => (c.tally s.cycle).jump t true).fresh

/-- Whether the guard is on (R18, R50). -/
def State.guardOn (s : State) (h : Head) : Bool :=
  match h.guard with
  | .always => true
  | .on neg r b => bit (s.me.src s.freeN 0 r) b != neg

/-- A source operand of the executing instruction. -/
def State.src (s : State) (k : Nat) (r : Src) : W64 := s.me.src s.freeN k r

/-- The frame of every instruction a context issues: no issuer, guarded off, or the body. -/
def issue (h : Head) (len : Nat) (s : State) (body : State) : Host.Outcome State Fault Refusal :=
  match s.ctx s.cur with
  | none => .fault .noIssuer
  | some _ => .next (if s.guardOn h then body else s.skip h len)

/-- Waits at issue, parked, with the DETAIL of R275 (R122, R123). -/
def State.park (s : State) (detail : Nat) : State := s.updMe fun c => { c with wait := .parked detail, parkedOn := detail }

/-- Waits at issue, stalled (R123). -/
def State.stall (s : State) : State := s.updMe fun c => { c with wait := .stalled, bankWait := none }

/-! ### Events and messages to the host -/

/-- A message to the host: its kind and a word. 1 MSI-X vector, 2 page request, 3 ATS translation request, 4 invalidation
completion, 5 gang message, 6 bulk frame, 7 signal word, 8 Unsupported Request, 9 the page VA of a page request, 10 the start slot
of a gang's COMMIT, 11 a bulk frame that leaves, 12 a flit that leaves through a port: port, link tag, channel and length, 13
eight of its bytes. -/
def State.tell (s : State) (kind : Nat) (w : W64) : State :=
  s.updDev fun d => { d with toHost := d.toHost ++ [(kind, w)] }

/-- Where the next event record of a virtual device goes (R273). -/
def State.eventAt (s : State) (vd : Nat) : W64 :=
  s.ctl vd rEVQBASE + BitVec.ofNat 64 (32 * ((s.ctl vd rEVQTAIL).toNat % 2 ^ (bits (s.ctl vd rEVQCTL) 3 0 + 4)))

/-- An event record goes into the event ring, if it is enabled and not full (R273). -/
def State.eventOut (s : State) (vd : Nat) (bs : List Byte) : State :=
  let ctl := s.ctl vd rEVQCTL
  let tail := s.ctl vd rEVQTAIL
  if !bit ctl 63 then s
  else if (tail - s.ctl vd rEVQHEAD).toNat = 2 ^ (bits ctl 3 0 + 4) then s.setCtl vd rEVQCTL (ctl ||| maskBits 62 62)
  else
    ((s.gwriteAll vd noSheaf 3 (s.eventAt vd) bs).setCtl vd rEVQTAIL (tail + 1)).tell 1
      (BitVec.ofNat 64 (vd * 2 ^ 32 + bits ctl 26 16))

/-- Posts an event record (R273); it waits behind a write that waits for log space (R296). -/
def State.postEvent (s : State) (vd code detail ctx grain sheafid : Nat) (w : W64) : State :=
  let w0 := (code % 256) + (detail % 256) * 2 ^ 8 + (ctx % 16) * 2 ^ 16 + (grain % 4096) * 2 ^ 20
  let bs := toBytes 8 w0 ++ toBytes 8 (sheafid % 2 ^ 48) ++ toBytes 8 w.toNat ++ toBytes 8 s.slot
  if (s.vdOf vd).late = [] ∧ s.lineHeld vd (s.eventAt vd) = false then s.eventOut vd bs
  else (s.waitLog vd).updVd vd fun v => { v with late := v.late ++ [.event bs] }

/-- Posts an event of a context. -/
def State.postCtx (s : State) (c : CtxId) (code detail : Nat) (w : W64) : State :=
  let h := s.sheafOf c.sheaf
  s.postEvent h.vd code detail c.ctx c.grain h.sheafid w

/-- Posts an event of a sheaf. -/
def State.postSheaf (s : State) (n : Nat) (code detail : Nat) (w : W64) : State :=
  let h := s.sheafOf n
  s.postEvent h.vd code detail 0 0 h.sheafid w

/-! ### Taking a trap -/

/-- TRAPCAUSE for a trap: DROP is 0 (R34). -/
def Trap.word (t : Trap) : W64 :=
  BitVec.ofNat 64 (t.cause % 256 + (t.detail % 256) * 2 ^ 8 + (if t.restart then 2 ^ 16 else 0)
    + (if t.inpix then 2 ^ 17 else 0))

/-- The trap registers, written when a trap reaches the handler or the host. A TRANSLATION or MIGRATION that the page service
resolves is not taken: it leaves TRAPCAUSE and TRAPADDR alone (R34, R282; DESIGN CHOICE, entry 116). -/
def Ctx.trapRegs (c : Ctx) (t : Trap) (pc : W64) : Ctx :=
  { c with trapcause := t.word, trappc := addrField pc, trapaddr := t.addr, taking := none, wait := .none, parkedOn := 0 }

/-- The handler entry of a grain: c[1022] and c[1023] (R281). -/
def Grain.handler (g : Grain) : W64 := word64 (Mem.read g.const 4088 8)

/-- An unhandled trap, or an SVC, stops the context until the host resumes it (R227, R283). -/
def Ctx.toHost (c : Ctx) : Ctx := { c with hostStop := true }

/-- Handler entry, or the stop of an unhandled trap (R282, R283) or of a register error (R369). An entry address whose bits
[1:0] are not zero is taken as it stands (DESIGN CHOICE, entry 93). -/
def State.deliver (s : State) (c : CtxId) (t : Trap) (pc : W64) : State :=
  let entry := ((s.grainOf c).getD Grain.zero).handler
  match s.ctx c with
  | none => s
  | some x =>
    if x.handler || entry == 0 || x.dead then
      (s.updCtx c fun x => (x.trapRegs t pc).toHost).postCtx c 0x09 t.cause t.addr
    else s.updCtx c fun x => { x.trapRegs t pc with handler := true, pc := entry }

/-- The first page-request slot that a test picks. -/
def Vd.pageSlot (v : Vd) (p : PageReq → Bool) : Option (Fin 64) :=
  (List.finRange 64).find? fun i => p v.pages[i]

/-- The PASID of a virtual device (R326). -/
def State.pasid (s : State) (vd : Nat) : Nat := bits (s.hyp vd rVDCTL) 19 0

/-- The page VA of a request: 4 KiB (R320). -/
def pageOf (va : W64) : Nat := vaNat va / 4096 * 4096

/-- Asks the host for a page: a shared or a new request, or a wait for a free slot (R320, R321). The message has the PASID, the
PRG index, Last and the access in one word and the page VA in the next. -/
def State.requestPage (s : State) (c : CtxId) (t : Trap) (pc : W64) : State :=
  let vd := s.vdOfCtx c
  let v := s.vdOf vd
  let va := pageOf t.addr
  let s := s.updCtx c fun x => { x with taking := some (t, pc), wait := .page }
  match v.pageSlot fun r => r.used && r.abandoned.isNone && r.va == va && r.acc == t.acc with
  | some i => s.updVd vd fun v =>
      { v with pages := v.pages.set i { v.pages[i] with waiters := v.pages[i].waiters ++ [c] } }
  | none =>
    match v.pageSlot fun r => !r.used && r.abandoned.isNone with
    | none => s.updCtx c fun x => { x with wait := .pageSlot }
    | some i =>
      let epoch := bits (v.hyp rVDCTL) 34 32
      let s := s.updVd vd fun v =>
        { v with pages := v.pages.set i ⟨true, va, t.acc, [c], none⟩ }
      (s.tell 2 (BitVec.ofNat 64 (s.pasid vd * 2 ^ 44 + 2 ^ 41 + (epoch * 64 + i.val) * 2 ^ 32 + t.acc))).tell 9
        (BitVec.ofNat 64 va)

/-- Routes a trap whose entry need not wait (R281): SVC to the host; TRANSLATION and MIGRATION to the
page service, unless handler mode makes them unhandled (R283); the rest to the handler. -/
def State.enterTrap (s : State) (c : CtxId) (t : Trap) (pc : W64) : State :=
  match s.ctx c with
  | none => s
  | some x =>
    if t.cause = Cause.svc then
      (s.updCtx c fun x => (x.trapRegs t pc).toHost).postCtx c 0x01 t.detail (codeAddr (addrField pc))
    else if (t.cause = Cause.translation ∨ t.cause = Cause.migration) ∧ x.handler = false then
      s.requestPage c t pc
    else s.deliver c t pc

/-- The DST code of a destination (R17). -/
def dstCode : Dst → Nat
  | .g n => n.val
  | .q => 16
  | .none => 17

/-- Records a restart-class instruction in progress: the restart record, and TRAPPC at the first instruction that has not
issued (R31, R32). -/
def Ctx.record (c : Ctx) (o : Out) : Ctx :=
  let age := match c.pend.find? fun p => p.tag == o.tag with
    | some p => p.age
    | none => 0
  { c with
    pv := true
    pixpc := addrField o.pc
    trappc := addrField c.pc
    prog := BitVec.ofNat 32 o.prog
    pd := dstCode o.dst
    pq := age
    held := o.held
    saved := some o
    out := none
    resuming := false
    pend := c.pend.filter fun p => p.tag != o.tag }

/-- Whether an instruction in progress is past its last stop point (R30), or is a `rqput` that has reserved its
entry and will be delivered (R150, R284). -/
def Out.runsOn (o : Out) : Bool :=
  o.stage == .past || (o.stage == .sent && match o.instr with
    | .rqput .. => true
    | _ => false)

/-- Records the outstanding instruction unless it runs on (R30, R32). -/
def Ctx.recordOut (c : Ctx) : Ctx :=
  match c.out with
  | some o => if o.runsOn then c else c.record o
  | none => c

/-- Whether a recorded instruction is an access, which is performed again in full (R128, R131, R284). -/
def isAccess : Instr → Bool
  | .ld .. | .ldg .. | .stg .. | .sigDec .. | .amoSwap .. | .amoCas .. | .amoAdd .. | .amoFadd .. | .amoMin ..
  | .amoMax .. | .amoAnd .. | .amoOr .. | .amoXor .. | .redAdd .. | .redFadd .. | .redMin .. | .redMax ..
  | .redAnd .. | .redOr .. | .redXor .. => true
  | _ => false

/-- Where a recorded instruction takes up again. -/
def Out.again (o : Out) : Stage :=
  if o.held then .heldArrival else if isAccess o.instr then .accepted else o.stage

/-- Subtracts bytes from the pending-byte counter of a context's domain (R210). -/
def State.lessPend (s : State) (c : CtxId) (level n : Nat) : State :=
  if level = 0 ∨ n = 0 then s
  else
    let g := (s.grainOf c).getD Grain.zero
    let d := bits g.dommask (16 * level - 2) (16 * (level - 1))
    let z : Dom := ⟨0, 0, 0, 0⟩
    s.updSheaf c.sheaf fun h => { h with doms := Tab.updD h.doms d z fun d => { d with pend := d.pend - n } }

/-- The commands that a context has in their translation pass, or as the tile's gather, but those with some tags, end: their
scoreboard entries and pending bytes are released (R210, R211). -/
def State.leaveEngine (s : State) (c : CtxId) (keep : List Nat := []) : State :=
  let tile := ((s.grainOf c).getD Grain.zero).core / 8
  let t := Tab.getD s.tiles tile Tile.zero
  let mine (e : ECmd) : Bool := e.ctx == c && !keep.contains e.tag
  if !(t.pass.any mine || t.gath.any mine) then s
  else
    let s := (t.pass.filter mine).foldl (fun s e => s.lessPend c e.plv e.bytes) s
    s.updTile tile fun t => { t with
      pass := t.pass.filter fun e => !mine e
      gath := t.gath.filter fun e => !mine e }

/-- A command whose instruction has been recorded keeps its scoreboard entries, since it has not ended (R211); a gather makes
room for another one (R217). -/
def State.parkEngine (s : State) (c : CtxId) : State :=
  let tags := (((s.ctx c).getD Ctx.zero).saved.toList ++ ((s.ctx c).getD Ctx.zero).out.toList).map fun o => o.tag
  let tile := ((s.grainOf c).getD Grain.zero).core / 8
  let parks (e : ECmd) : Bool := e.ctx == c && !(((s.ctx c).bind fun x => x.out).any fun o => o.tag == e.tag)
  let s := s.leaveEngine c tags
  if !((Tab.getD s.tiles tile Tile.zero).gath.any parks) then s
  else s.updTile tile fun t => { t with
    pass := t.pass ++ (t.gath.filter parks).toList
    gath := t.gath.filter fun e => !parks e }

/-- Whether vector instructions of a context are in flight. -/
def State.vecBusy (s : State) (c : CtxId) : Bool :=
  s.quads.any fun q => q.2.vops.any fun v => v.ctx == c

/-- Whether a context's trap can be entered: no result of its issued instructions is pending (R98) and no vector
instruction of its own is in progress (R165). -/
def State.trapReady (s : State) (c : CtxId) (x : Ctx) : Bool := x.pend.isEmpty && !s.vecBusy c

/-- Takes a trap: a restart-class instruction in progress is recorded (R32), and the trap is entered once every issued
result has been written, each at the end of its latency (R98), and the context's vector instructions have completed. -/
def State.takeTrap (s : State) (c : CtxId) (t : Trap) (pc : W64) : State :=
  let s := ((s.updCtx c Ctx.recordOut).parkEngine c).fresh
  match s.ctx c with
  | none => s
  | some x =>
    if s.trapReady c x then s.enterTrap c t pc
    else s.updCtx c fun x => { x with taking := some (t, pc), wait := .stalled }

/-- An exact fault at issue: nothing written, nothing pushed, no pointer updated (R21). -/
def State.exact (s : State) (cause detail : Nat) (addr : W64 := 0) (restart : Bool := false) : State :=
  s.takeTrap s.cur ⟨cause, detail, addr, restart, false, 0⟩ s.me.pc

/-- A fault recorded in the outstanding instruction of a context (R32, R33, R280). -/
def State.recorded (s : State) (c : CtxId) (cause detail : Nat) (addr : W64) (restart : Bool) (acc : Nat := 0) : State :=
  match s.ctx c with
  | none => s
  | some x => s.takeTrap c ⟨cause, detail, addr, restart, true, acc⟩ x.pc

/-- The RESTART bit of a late fault by its cause (R78, R124, R236, R310). -/
def restartOf (cause detail : Nat) : Bool :=
  cause == Cause.translation || cause == Cause.migration || cause == Cause.formatAccess
    || (cause == Cause.bankOff && detail ≤ 2)

def Acc.code : Acc → Nat
  | .read => 0 | .write => 1 | .rw => 2 | .fetch => 3

/-- A failed translation or access recorded in a context (R131). -/
def State.recordFail (s : State) (c : CtxId) (f : Fail) (addr : W64) (k : Acc) : State :=
  s.recorded c f.cause f.detail addr (restartOf f.cause f.detail) k.code

/-- A deferred trap, to be taken before the context's next issue (R280). -/
def State.defer (s : State) (c : CtxId) (t : Trap) : State :=
  s.updCtx c fun x => { x with deferred := x.deferred ++ [t] }

/-- An instruction whose effect no log covers is followed by a checkpoint in rollback mode (R299). -/
def State.unlogged (s : State) (c : CtxId) : State :=
  if s.rollback (s.vdOfCtx c) then s.updCtx c fun x => { x with needCkpt := true } else s

/-! ### Returning -/

/-- Puts the recorded instruction back in progress, so that the device completes it first (R32): its
result goes to the entry of age PQ and to G[PD]. The latency of an access counts anew. -/
def Ctx.resume (c : Ctx) : Ctx :=
  match c.saved with
  | none => { c with pv := false }
  | some o =>
    let g : Option (Fin 16) := if h : c.pd < 16 then some ⟨c.pd, h⟩ else none
    let p : Pend := ⟨o.tag, c.pq, g, 0, 0, none, none, 0, false⟩
    { c with
      pv := false
      saved := none
      resuming := true
      out := some { o with
        stage := o.again
        prog := c.prog.toNat
        held := c.held
        due := if isAccess o.instr then none else o.due
        cycle := 0 }
      pend := if c.pq = 0 ∧ g = none then c.pend else c.pend ++ [p] }

/-- Abandons the recorded instruction (R33). -/
def Ctx.drop (c : Ctx) : Ctx :=
  { c with pv := false, saved := none }

/-- The part of `eret` that the context does at once (R228). -/
def Ctx.leaveHandler (c : Ctx) : Ctx :=
  let c := if bit c.trapcause 18 then c.drop else if c.pv then c.resume else c
  { c with
    trapcause := c.trapcause &&& ~~~(maskBits 18 18)
    handler := false
    pc := codeAddr c.trappc }

end Sys2Proof.Machine
end

