-- ==== Sys2Proof/Machine/Operands.lean ====
section
/-! DEFINITION. Operand forms: the last source by operand mode (02 R53, R54), pointers and memory operands
(01 R22), local addresses with their regions, windows, rings, owners and banks (01 R39 to R42, R401; 05
R126 to R130, R138, R153, R155), and holds on a context's own commands (R132, R204, R209). -/

namespace Sys2Proof.Machine

/-! ### Scalar operands -/

/-- Word n of the constant bank (R37). -/
def State.constW (s : State) (n : Nat) : W32 := BitVec.ofNat 32 (ofBytes (Mem.read s.grain.const (4 * n) 4))

/-- Constant-bank operand read as 64 bits: c[n] and c[n + 1] (R37, R54). -/
def State.constD (s : State) (n : Nat) : W64 := word64 (Mem.read s.grain.const (4 * n) 8)

/-- The last source of an integer instruction (R54). `k` is the operand's place. -/
def State.iop (s : State) (k : Nat) : IOp → W64
  | .reg r => s.src k r
  | .imm v => sx v
  | .const n => s.constD n.toNat
  | .lit v => sx v

/-- The last source of an FP32 instruction: a binary32 pattern (R54). -/
def State.fop (s : State) (k : Nat) : FOp → Nat
  | .reg r => (s.src k r).toNat % 2 ^ 32
  | .imm20 v => v.toNat * 4096
  | .const n => (s.constW n.toNat).toNat
  | .lit v => v.toNat

/-- Bits [31:0] of a source (R16). -/
def State.fsrc (s : State) (k : Nat) (r : Src) : Nat := (s.src k r).toNat % 2 ^ 32

/-- Bytes of an integer instruction: 12 with a trailing literal (R53). -/
def iopLen : IOp → Nat
  | .lit _ => 12
  | _ => 8

def fopLen : FOp → Nat
  | .lit _ => 12
  | _ => 8

/-! ### Pointers -/

/-- The address of a memory operand (R22). -/
def State.ea (s : State) : MemOp → W64
  | .base p => s.me.a[p]
  | .post p => s.me.a[p]
  | .off p imm => s.me.a[p] + sx imm

/-- The post-increment of a pointer (R22). -/
def Ctx.bump (c : Ctx) (p : Fin 8) : Ctx := { c with a := c.a.set p (c.a[p] + c.as_[p]) }

/-- The pointer update of a memory operand at issue (R22). -/
def State.advance (s : State) : MemOp → State
  | .post p => s.updMe fun c => c.bump p
  | _ => s

/-- Bytes of an access size (R61). -/
def sizeBytes : Size → Nat
  | .b => 1 | .h => 2 | .w => 4 | .d => 8

/-- Acts for a context: the model's executing context is that one meanwhile. -/
def State.asCtx (s : State) (c : CtxId) (f : State → State) : State :=
  { f { s with cur := c } with cur := s.cur }

/-! ### Local memory -/

/-- A tile as a sheaf names it: the sheaf's number and the virtual tile (R257). -/
abbrev View := Nat × Nat

/-- The view of the executing context: its grain's virtual tile. -/
def State.myView (s : State) : View := (s.cur.sheaf, s.cur.grain / 8)

/-- The view of a command: its issuing context's. -/
def ECmd.view (e : ECmd) : View := (e.ctx.sheaf, e.ctx.grain / 8)

def MCmd.view (c : MCmd) : View := (c.ctx.sheaf, c.ctx.grain / 8)

/-- A core number that no core has: where a sheaf's table names none. -/
def noCore : Nat := 2 ^ 20

/-- The physical core of a logical core index of a virtual tile (R257, R293). -/
def State.physCore (s : State) (w : View) (lc : Nat) : Nat :=
  (s.sheafOf w.1).cores.getD (8 * w.2 + lc) noCore

/-- The physical tile of a virtual tile of a sheaf (R257). -/
def Sheaf.tile (h : Sheaf) (v : Nat) : Nat := h.cores.getD (8 * v) noCore / 8

/-- The logical index of a physical core in a virtual tile. -/
def State.logicalCore (s : State) (w : View) (core : Nat) : Nat :=
  ((List.range 8).find? fun i => s.physCore w i == core).getD 0

/-- The physical address of an offset in a quad's 2 MiB: bits [20:19] select the slice (R39). -/
def State.physAddr (s : State) (w : View) (quad off : Nat) : Nat :=
  s.physCore w (4 * quad + off / 2 ^ 19) * 2 ^ 19 + off % 2 ^ 19

/-- The logical quad of the executing grain within its tile. -/
def State.myLQuad (s : State) : Nat := s.cur.grain % 8 / 4

/-- The physical address that a context's peer load reaches now: its target is named by virtual tile, quad and offset, so
that it is the same logical neighbour after a move (R41, R128). -/
def State.peerPhys (s : State) (c : CtxId) (at_ : Nat) : Nat :=
  s.physAddr (c.sheaf, at_ / 2 ^ 22) (at_ / 2 ^ 21 % 2) (at_ % 2 ^ 21)

/-- The slices that a range of the own quad touches. -/
def slicesOf (off n : Nat) : List Nat :=
  (List.range 4).filter fun i => decide (off < (i + 1) * 2 ^ 19) && decide (i * 2 ^ 19 < off + max 1 n)

/-- Any grain bound to a physical core, with its key: the slice's owner (R128, R401). -/
def State.holder (s : State) (core : Nat) : Option ((Nat × Nat) × Grain) :=
  s.grains.find? fun e => e.2.core == core

/-- Whether a core holds a grain of a virtual device (R401). -/
def State.coreHeldBy (s : State) (vd core : Nat) : Bool :=
  match s.holder core with
  | some e => (s.sheafOf e.1.1).vd == vd
  | none => false

/-- Whether every slice that a range of the own quad touches holds a grain of the virtual device (R401). -/
def State.slicesHeld (s : State) (off n : Nat) : Bool :=
  (slicesOf off n).all fun i => s.coreHeldBy s.myVd (s.physCore s.myView (4 * s.myLQuad + i))

/-- Lines of a quad's reduction window: the largest RWL among its grains (R138, R262). -/
def State.rwl (s : State) (quad : Nat) : Nat :=
  s.grains.foldl (fun m e => if e.2.core / 4 = quad then max m (s.sheafOf e.1.1).rwl else m) 0

/-- Whether a range of a quad touches its reduction window (R138). -/
def State.inWindow (s : State) (quad off n : Nat) : Bool :=
  decide (2 ^ 21 - 64 * s.rwl quad < off + n)

/-- State of a bank (R129). -/
inductive BankSt where
  | on | ret | off | waking
  deriving DecidableEq, Repr

/-- The bank number of a physical address (R130). -/
def bankOf (phys : Nat) : Nat := phys % 1024 / 4

/-- The two-bit state code of a bank (R130). -/
def Core.bankCode (c : Core) (bank : Nat) : Nat :=
  bits (c.bankpwr.toList.getD (bank / 32) 0) (2 * (bank % 32) + 1) (2 * (bank % 32))

def State.bankSt (s : State) (phys : Nat) : BankSt :=
  let c := s.coreOf (phys / 2 ^ 19)
  let bank := bankOf phys
  if (Tab.find c.waking bank).isSome then .waking
  else match c.bankCode bank with
    | 0 => .on
    | 1 => .ret
    | _ => .off

/-- The worst state among the banks that n bytes touch: OFF first, then a wake. -/
def State.rangeBank (s : State) (phys n : Nat) : BankSt :=
  let sts := (List.range (min 256 ((phys + n + 3) / 4 - phys / 4))).map fun i => s.bankSt (phys / 4 * 4 + 4 * i)
  if sts.any (· == .off) then .off
  else if sts.any (· == .waking) then .waking
  else if sts.any (· == .ret) then .ret
  else .on

/-- Starts the wake of every RET bank that n bytes touch: 24 core cycles (R129). -/
def State.wakeRet (s : State) (phys n : Nat) : State :=
  let core := phys / 2 ^ 19
  let due := s.cycleOf (core / 4) + 24
  (List.range (min 256 ((phys + n + 3) / 4 - phys / 4))).foldl (fun s i =>
    let a := phys / 4 * 4 + 4 * i
    if s.bankSt a = .ret then s.updCore core fun c => { c with waking := Tab.put c.waking (bankOf a) due } else s) s

/-- Waits at issue for the banks that n bytes touch to wake (R129, R130). -/
def State.bankStall (s : State) (phys n : Nat) : State :=
  (s.wakeRet phys n).updMe fun c => { c with wait := .stalled, bankWait := some (phys, n) }

/-- Uses of a local address, for the permissions of R39 and R134. -/
inductive LUse where
  | load | store | sync | syncw | amo
  deriving DecidableEq, Repr

/-- What the checks of R126 yield. -/
inductive LRes where
  | bad (cause detail : Nat)
  /-- Held by the ring arrival rule (R155). -/
  | hold (level : Nat)
  /-- A bank is waking or must wake first (R129, R130). -/
  | sleep (phys : Nat)
  /-- Own-quad memory, with the load latency (R127). -/
  | mem (phys lat : Nat)
  /-- Another core's slice through the sibling or cluster window (R128): its logical place, as `peerPhys` reads it. -/
  | peer (at_ lat : Nat)
  /-- The tile control page. -/
  | page (off : Nat)
  deriving DecidableEq, Repr

/-- The place of an address in a ring window: ring and offset (R39). -/
def ringOf (a : Nat) : Nat × Nat := ((a - 0x00C0_0000) / 0x0008_0000, (a - 0x00C0_0000) % 0x0008_0000)

/-- The stage and own-quad address of an offset in a ring (R153). -/
def Ring.place (r : Ring) (o : Nat) : Option (Nat × Nat) :=
  let j := o / r.size
  if r.d < j then none
  else some (j, r.base + (r.sp + j) % r.n * r.size + o % r.size)

/-- A ring of the executing core (R152). -/
def State.ring (s : State) (k : Nat) : Option Ring := (s.grain.rings.toList.getD k none)

/-- Whether the grain has arrived at a level in the current phase (R140, R155). -/
def Grain.hasArrived (g : Grain) (level : Nat) : Bool := g.arrived.toList.getD (level - 1) false

/-- Checks 5 and 6 on own-quad memory, and the answer. -/
def State.ownBank (s : State) (phys n lat : Nat) : LRes :=
  match s.rangeBank phys n with
  | .on => .mem phys lat
  | .off => .bad Cause.bankOff 1
  | _ => .sleep phys

/-- The checks of R126 on a local access of n bytes at ea (R39 to R42, R134, R135, R138, R153, R155, R401). -/
def State.localCheck (s : State) (u : LUse) (ea : W64) (n : Nat) : LRes :=
  let a := ea.toNat
  let w := s.myView
  let lq := s.myLQuad
  let quad := s.myQuad
  let own (off : Nat) (lat : Nat) (arr : Option Nat) : LRes :=
    if !s.slicesHeld off n then .bad Cause.peerGone 3
    else if a % n ≠ 0 then .bad Cause.misaligned 1
    else if s.inWindow quad off n then .bad Cause.localAddress 7
    else match arr with
      | some k => .hold k
      | none => s.ownBank (s.physAddr w lq off) n lat
  let far (vt q off lat : Nat) : LRes :=
    if a % n ≠ 0 then .bad Cause.misaligned 1
    else match u with
      | .store | .syncw | .amo => .bad Cause.localAddress 2
      | .sync => .bad Cause.localAddress 5
      | .load =>
        let at_ := vt * 2 ^ 22 + q * 2 ^ 21 + off
        let phys := s.peerPhys s.cur at_
        if s.inWindow (phys / 2 ^ 21) off n then .bad Cause.localAddress 7
        else
          if phys / 2 ^ 19 = s.myCore then s.ownBank phys n lat else .peer at_ lat
  if 2 ^ 32 ≤ a then .bad Cause.localAddress 3
  else if a < 0x0020_0000 then own a 4 none
  else if a < 0x0040_0000 then far w.2 (1 - lq) (a - 0x0020_0000) 14
  else if 0x00C0_0000 ≤ a ∧ a < 0x0100_0000 then
    let (k, o) := ringOf a
    match (s.ring k).bind fun r => (r.place o).map fun p => (r, p.2) with
    | none => if a % n ≠ 0 then .bad Cause.misaligned 1 else .bad Cause.localAddress 6
    | some (r, off) => own off 4 (if s.grain.hasArrived r.level then some r.level else none)
  else if 0x0100_0000 ≤ a ∧ a < 0x0200_0000 then
    let t := (a - 0x0100_0000) / 0x0040_0000
    let q := (a - 0x0100_0000) / 0x0020_0000 % 2
    let vt := w.2 / 4 * 4 + t
    let lat := if vt ≠ w.2 then 40 else if q = lq then 6 else 14
    far vt q (a % 0x0020_0000) lat
  else if 0x0200_0000 ≤ a ∧ a < 0x0201_0000 then
    if a % n ≠ 0 then .bad Cause.misaligned 1
    else match u with
      | .load | .store => if n ≠ 8 then .bad Cause.localAddress 4 else .page (a - 0x0200_0000)
      | _ => .bad Cause.localAddress 5
  else .bad Cause.localAddress 1

/-- A hold by the arrival at a level parks the context (R155, R210), unless a gang has met a MISSING answer (R271). The
completion of that level's phase ends the wait (R279). -/
def State.holdAt (s : State) (level : Nat) : State :=
  if level = 4 ∧ s.sheaf.gangMissing then s.exact Cause.gangMissing 3
  else (s.park 7).updMe fun c => { c with holdLevel := some level }

/-- RESTART of an exact local fault: BANK_OFF alone restarts (R124). -/
def localRestart (cause : Nat) : Bool := cause == Cause.bankOff

/-- Little-endian value of n bytes of local memory (R8, R125). -/
def State.lread (s : State) (phys n : Nat) : W64 := word64 (Mem.read s.lmem phys n)

/-- Writes n bytes of local memory; full/empty bits stay (R125). -/
def State.lwrite (s : State) (phys n : Nat) (v : W64) : State :=
  { s with lmem := Mem.write s.lmem phys (toBytes n v.toNat) }

/-- The full/empty bit of a word (R133). -/
def State.isFull (s : State) (phys : Nat) : Bool := Mem.get s.fe (phys / 4) != 0

def State.setFe (s : State) (phys : Nat) (full : Bool) : State :=
  { s with fe := Mem.set s.fe (phys / 4) (if full then 1 else 0) }

/-- Whether a word or range of local memory holds an uncorrectable error (R124). -/
def State.lPoisoned (s : State) (phys n : Nat) : Bool :=
  s.dev.poisonLmem.any fun w => decide (phys / 4 ≤ w) && decide (w ≤ (phys + n - 1) / 4)

/-- Extension of a loaded value (R125). -/
def extend (sz : Size) (uns : Bool) (v : W64) : W64 :=
  if uns then zxN v (8 * sizeBytes sz) else sxN v (8 * sizeBytes sz)

/-! ### A context's own commands -/

/-- Whether a context has a matrix command that has not completed (R204). -/
def State.matrixBusy (s : State) (c : CtxId) : Bool :=
  s.grains.any fun e => e.2.mq.any fun m => m.ctx == c

/-- The engine commands of a tile that have not completed. -/
def Tile.cmds (t : Tile) : List ECmd :=
  t.chans.toList.flatMap (fun c => c.cmds) ++ t.pass ++ t.gath.toList

/-- The engine commands that Spelt has saved with stopped sheaves (R287, R290). -/
def State.savedCmds (s : State) : List ECmd :=
  s.sheaves.flatMap fun e => if e.2.st = .stopped then ((e.2.saved.map fun v => v.tiles).getD []).flatMap fun t => t.tile.cmds else []

/-- Whether the instruction of an engine command is recorded: the command goes on when it is resumed (R32, R211). -/
def State.recordedCmd (s : State) (m : ECmd) : Bool :=
  ((s.ctx m.ctx).bind fun x => x.saved).any fun o => o.tag == m.tag && m.tag != 0

/-- Whether a context has an engine command that has not completed, apart from a recorded one; `all` counts those with PLV ≠ 0
too (R132, R209). -/
def State.engineBusy (s : State) (c : CtxId) (all : Bool) : Bool :=
  (s.tiles.any fun t => t.2.cmds.any fun m => m.ctx == c && (all || m.plv == 0) && !s.recordedCmd m)

/-- Whether a context's outstanding instruction is an engine command still in its translation pass. -/
def Instr.isEngine : Instr → Bool
  | .cpy .. | .cpy2d .. | .gath .. | .coll .. | .snap .. => true
  | _ => false

/-- Copies of an instruction's PLV field (R210). -/
def Instr.plv : Instr → Nat
  | .cpy _ _ _ _ e | .cpy2d _ _ _ _ _ e => e.plv.val
  | .coll _ _ _ _ e => e.plv.val
  | _ => 0

/-- Commands that a release of a context waits for (R204, R209): matrix commands and PLV-0 engine commands,
those in their translation pass included. -/
def State.cmdPending (s : State) (c : CtxId) : Bool :=
  s.matrixBusy c || s.engineBusy c false ||
    (match s.ctx c with
     | some x => match x.out with
       | some o => (o.stage != .past) && ((Instr.isEngine o.instr && Instr.plv o.instr == 0)
           || (match o.instr with
               | .mwldGl .. => true
               | _ => false))
       | none => false
     | none => false)

/-- Every command of a context that a fence or `tfence` waits for (R132, R226). -/
def State.cmdBusy (s : State) (c : CtxId) : Bool :=
  s.matrixBusy c || s.engineBusy c true ||
    (match s.ctx c with
     | some x => match x.out with
       | some o => Instr.isEngine o.instr || (match o.instr with
           | .mwldGl .. => true
           | _ => false)
       | none => false
     | none => false)

/-- Whether a fire that an `evsig` of a context has forwarded is still on its way: its RMW is not performed (R144, R239). -/
def State.firing (s : State) (c : CtxId) : Bool := s.tiles.any fun t => t.2.fires.any fun f => f.by_ == c

/-- What a release waits for: its context's earlier commands (R204, R209), and every earlier access that is
not yet performed, which it must follow (09 R245). -/
def State.relBusy (s : State) (c : CtxId) : Bool :=
  s.cmdPending c || ((s.ctx c).bind fun x => x.out).isSome || s.vecBusy c || s.firing c

/-- Whether an instruction is an acquire, after which its context's later accesses come (09 R239, R245). -/
def isAcquire : Instr → Bool
  | .ld _ _ _ _ q | .ldg _ _ _ _ q => q.isSome
  | .amoSwap _ x | .amoCas _ x _ | .amoAdd _ x | .amoFadd _ x | .amoMin _ x | .amoMax _ x
  | .amoAnd _ x | .amoOr _ x | .amoXor _ x => x.scope.isSome
  | .barSync .. => true
  | _ => false

/-- Whether an instruction is a release (09 R239). -/
def isRelease : Instr → Bool
  | .stg _ _ _ q _ => q.isSome
  | .amoSwap _ x | .amoCas _ x _ | .amoAdd _ x | .amoFadd _ x | .amoMin _ x | .amoMax _ x
  | .amoAnd _ x | .amoOr _ x | .amoXor _ x => x.scope.isSome
  | .rqput .. | .sigDec .. | .launch .. | .barArv .. | .barSync .. => true
  | _ => false

/-- Whether an acquire waits for a release of its context that is not performed yet (09 R245). -/
def State.acqHeld (s : State) : Bool := (s.me.out.any fun o => isRelease o.instr) || s.firing s.cur

/-- Whether a restart-class instruction must wait for an earlier one of its context (R30). -/
def State.rcBusy (s : State) : Bool :=
  s.me.out.isSome || ((s.quadOf s.myQuad).vops.any fun v => v.ctx == s.cur && decide (s.cycle < v.past))

/-- Whether a fence holds the context's next memory instruction (R132), or an acquire whose result is
outstanding does (09 R245). -/
def State.fenced (s : State) : Bool :=
  (s.me.fence && (s.cmdBusy s.cur || s.me.out.isSome || s.vecBusy s.cur || s.firing s.cur)) ||
    (s.me.out.any fun o => isAcquire o.instr)

/-- A fence whose ordering has been met holds nothing further (R132). Memory instructions apply this first. -/
def State.unfence (s : State) : State :=
  if s.me.fence && !s.fenced then s.updMe fun c => { c with fence := false, fenceWide := false } else s

/-- Overlap of two byte ranges. -/
def touches (a b : Nat × Nat) : Bool := decide (a.1 < b.1 + b.2) && decide (b.1 < a.1 + a.2)

/-- The physical range that an outstanding peer load reads (R128). -/
def State.peerRange (s : State) (c : CtxId) (o : Out) : Option (Nat × Nat) :=
  match o.instr with
  | .ld _ _ sz _ _ => some (s.peerPhys c (o.caps.getD 0 0).toNat, sizeBytes sz)
  | _ => none

/-- Whether a gather or scatter of the context has not completed: every later local access waits for it (R164). -/
def State.gathering (s : State) : Bool := s.me.out.any fun o => match o.instr with
  | .vgath .. | .vscat .. => true
  | _ => false

/-- Whether a local access of the context waits for a vector instruction of its own (R164), or for its outstanding peer
load of one of the same bytes (09 R245). -/
def State.vecHeld (s : State) (phys n : Nat) : Bool :=
  s.gathering || (s.me.out.any fun o => (s.peerRange s.cur o).any (touches (phys, n))) ||
  ((s.quadOf s.myQuad).vops.any fun v => v.ctx == s.cur && v.dests.any (touches (phys, n)))

/-- Whether a local store of the context waits for a source of its own vector instruction (R164). -/
def State.srcHeld (s : State) (phys n : Nat) : Bool :=
  (s.quadOf s.myQuad).vops.any fun v =>
    v.ctx == s.cur && decide (s.cycle < v.past) && v.srcs.any (touches (phys, n))

/-- Scopes from `.dom` on, at which a release combines the context's U lines (R137). -/
def wideScope : Scope → Bool
  | .dom | .dev | .sys => true
  | _ => false

/-- Whether a release of a scope waits for log space, which the combination of its context's U lines needs (R296). -/
def State.relLog (s : State) (sc : Option Scope) : Bool :=
  sc.any wideScope && s.combineHeld fun _ u => u.by_.contains s.cur

/-- A release that waits at issue; one that waits for log space has the slice end by a save (R296). -/
def State.stallRel (s : State) (sc : Option Scope) : State := (if s.relLog sc then s.waitLog s.myVd else s).stall

/-- What a release of the executing context performs at once: its U lines are combined (R137, R251). -/
def State.release (s : State) (sc : Scope) : State :=
  if wideScope sc then s.flushU fun _ u => u.by_.contains s.cur else s

/-- The same for an optional scope. -/
def State.releaseOpt (s : State) (sc : Option Scope) : State :=
  match sc with
  | some sc => s.release sc
  | none => s

/-! ### Deterministic waits (10 R277, R279) -/

/-- The logical quantum of a context (R277). -/
def State.quantumOf (s : State) (c : CtxId) : Nat :=
  ((s.ctx c).getD Ctx.zero).lcnt / max 1 (s.sheafOf c.sheaf).quantum

/-- The virtual place of an event (R257): event lines and tile barriers by virtual tile, 32 of each; queue entries, 256 for each
of its 32 queues; words by logical core; the write pointers of channels, from 2^40 on, by virtual tile. -/
def State.wakePlace (s : State) (sheaf kind place : Nat) : Nat :=
  let h := s.sheafOf sheaf
  let core (p : Nat) : Nat := h.cores.findIdx fun c => c == p
  let tile (t : Nat) : Nat := core (8 * t) / 8
  match kind with
  | 2 | 6 | 7 => 32 * tile (place / 32) + place % 32
  | 5 => 8192 * tile (place / 8192) + place % 8192
  | 3 =>
    if place < 2 ^ 40 then 2 ^ 17 * core (place / 2 ^ 17) + place % 2 ^ 17
    else 2 ^ 40 + 8 * tile ((place - 2 ^ 40) / 8) + place % 8
  | _ => place

/-- Records the quantum of an event that can end a wait (R279). -/
def State.wakeTag (s : State) (sheaf kind place q : Nat) : State :=
  if (s.sheafOf sheaf).det then
    s.updSheaf sheaf fun h => { h with wakes := Tab.put h.wakes (kind, s.wakePlace sheaf kind place) q }
  else s

/-- The quantum of the event that ended a wait (R279). -/
def State.wakeOf (s : State) (sheaf kind place : Nat) : Nat :=
  Tab.getD (s.sheafOf sheaf).wakes (kind, s.wakePlace sheaf kind place) 0

/-- A context of a deterministic sheaf whose wait an event has ended goes on with the event's quantum at least (R279). -/
def State.raise (s : State) (c : CtxId) (kind place : Nat) : State :=
  if (s.sheafOf c.sheaf).det then
    s.updCtx c fun x => { x with lcnt := max x.lcnt (s.wakeOf c.sheaf kind place * (s.sheafOf c.sheaf).quantum) }
  else s

/-- Whether a wait of a DETAIL of R275 is one that an event of a kind ends (R279). -/
def endsWait (detail kind : Nat) : Bool :=
  match detail with
  | 1 | 9 => kind == 3
  | 3 => kind == 2 || kind == 6
  | 4 => kind == 1
  | 5 => kind == 5
  | 6 => kind == 4
  | _ => false

/-- A context that parked and whose wait has been ended by an event of quantum m goes on with LCNT at least
m × QUANTUM, also where it has stalled in between (R279). -/
def State.settle (s : State) (kind place : Nat) : State :=
  if endsWait s.me.parkedOn kind then s.raise s.cur kind place else s

/-! ### The range scoreboard (08 R211) -/

/-- Overlap of two ranges rounded outward to 64-byte lines. -/
def rangesMeet (a b : Nat × Nat) : Bool :=
  decide (a.1 / 64 * 64 < (b.1 + b.2 + 63) / 64 * 64) && decide (b.1 / 64 * 64 < (a.1 + a.2 + 63) / 64 * 64)
    && decide (0 < a.2) && decide (0 < b.2)

/-- The pieces of a quad range by slice: physical address and length. -/
def State.pieces (s : State) (w : View) (lq off n : Nat) : List (Nat × Nat) :=
  (slicesOf off n).filterMap fun i =>
    let lo := max off (i * 2 ^ 19)
    let hi := min (off + n) ((i + 1) * 2 ^ 19)
    if lo < hi then some (s.physAddr w lq lo, hi - lo) else none

/-- The entries of a tile's scoreboard: order of issue, whether written, physical range. -/
def State.scoreboard (s : State) (tile : Nat) : List (Nat × Bool × (Nat × Nat)) :=
  let place (k : Nat × Nat) (r : Nat × Nat) : List (Nat × Nat) := s.pieces (k.1, k.2 / 8) (k.2 % 8 / 4) r.1 r.2
  let m := s.grains.flatMap fun e => if e.2.core / 8 = tile then e.2.mq.flatMap (fun c =>
    (c.reads.flatMap (place e.1)).map (fun r => (c.seq, false, r)) ++
    (c.writes.flatMap (place e.1)).map (fun r => (c.seq, true, r))) else []
  let t := (s.tileOf tile).cmds.flatMap fun c =>
    (c.reads.flatMap (place (c.ctx.sheaf, c.ctx.grain))).map (fun r => (c.seq, false, r)) ++
    (c.writes.flatMap (place (c.ctx.sheaf, c.ctx.grain))).map (fun r => (c.seq, true, r))
  m ++ t

/-- Entries of a tile's scoreboard in use: one for each range of a command (R211). -/
def State.scoreUsed (s : State) (tile : Nat) : Nat :=
  (s.grains.map fun e => if e.2.core / 8 = tile then (e.2.mq.map fun c => c.reads.length + c.writes.length).sum else 0).sum +
    ((s.tileOf tile).cmds.map fun c => c.reads.length + c.writes.length).sum

/-- Whether a physical range meets a slice line whose copy for a checkpoint is pending (R297). -/
def State.copyMeets (s : State) (phys n : Nat) : Bool :=
  s.sheaves.any fun e => e.2.ckptItems.any fun i => i.1 == 0 &&
    rangesMeet (e.2.cores.getD (i.2.2 / 2 ^ 13) noCore * 2 ^ 19 + i.2.2 % 2 ^ 13 * 64, 64) (phys, n)

/-- The same for a weight unit of a tile, or a row of an accumulator. -/
def State.unitCopying (s : State) (tile : Nat) (p : Nat → Nat → Bool) : Bool :=
  s.sheaves.any fun e => e.2.ckptItems.any fun i => i.1 != 0 && e.2.tile i.2.1 == tile && p i.1 i.2.2
def State.weightsCopying (s : State) (tile : Nat) : Bool := s.unitCopying tile fun k _ => k == 3
def State.accCopying (s : State) (tile : Nat) (a : Fin 64) : Bool := s.unitCopying tile fun k r => k == 4 && r / 64 == a.val

/-- Whether a store to a range overlaps a pending command's range (R211), or an item whose copy is pending (R297). -/
def State.storeHeld (s : State) (tile phys n : Nat) : Bool :=
  (s.scoreboard tile).any (fun e => rangesMeet e.2.2 (phys, n)) || s.copyMeets phys n

/-- Whether a command's own-quad ranges wait for an earlier command (R211), or for a checkpoint's copy (R297). -/
def State.cmdHeld (s : State) (w : View) (lq seq : Nat) (reads writes : List (Nat × Nat)) : Bool :=
  let place (r : Nat × Nat) : List (Nat × Nat) := s.pieces w lq r.1 r.2
  let rs := reads.flatMap place
  let ws := writes.flatMap place
  ((s.scoreboard ((s.sheafOf w.1).tile w.2)).any fun e => decide (e.1 < seq) &&
    (ws.any (rangesMeet e.2.2) || (e.2.1 && rs.any (rangesMeet e.2.2)))) ||
    ws.any fun r => s.copyMeets r.1 r.2

end Sys2Proof.Machine
end

