-- ==== Sys2Proof/Machine/Fetch.lean ====
section
/-! DEFINITION. Reading instruction words: translation for fetch and the length checks 1 to 3 of R64. -/

namespace Sys2Proof.Machine

/-- The physical core of a context. -/
def State.coreOfCtx (s : State) (c : CtxId) : Nat := ((s.grainOf c).getD Grain.zero).core

/-- The bytes of a fetch block from an address to the block's end, at most 32 (R46). DESIGN CHOICE (entry 105): of code bytes
that changed while a sheaf is placed R254 lets a fetch return the old or the new block; the model returns those that memory
holds now. -/
def State.fetchBlock (s : State) (c : CtxId) (pc : W64) : State × Except Fail (List Byte) :=
  let n := 32 - pc.toNat % 32
  match s.translate (some (s.coreOfCtx c)) (s.vdOfCtx c) pc .fetch with
  | (s, .error f) => (s, .error f)
  | (s, .ok x) =>
    if s.hbmPoisoned x.dpa n then (s, .error ⟨Cause.memoryError, s.hbmSyndrome false x.dpa⟩)
    else (s, .ok (s.devRead (s.key x.keyid) x.dpa n))

/-- Whether a first word is the pad word (R45). -/
def isPad (w : Nat) : Bool := w == 3

/-- Checks 2 and 3 of R64 on a first word at an address: the DETAIL of ILLEGAL_LENGTH, or the length. -/
def lenCheck (pc : W64) (w : Nat) : Except Nat Nat :=
  if w % 4 = 3 ∧ !isPad w then .error 1
  else if 32 < pc.toNat % 32 + lenBytes (w % 4) then .error 2
  else .ok (lenBytes (w % 4))

/-- The fault of a fetch by its failed translation: TRAPADDR is the address of the instruction's first
word and RESTART is 1 for check 1 (R64). -/
def State.fetchFault (s : State) (c : CtxId) (f : Fail) (pc : W64) : State :=
  s.takeTrap c ⟨f.cause, f.detail, pc, restartOf f.cause f.detail, false, 3⟩ pc

end Sys2Proof.Machine
end

