-- ==== Sys2Proof/Machine/Scalar.lean ====
section
/-! DEFINITION. Scalar integer instructions, OPM 0x01 to 0x04 (04 R100 to R104). -/

namespace Sys2Proof.Machine

abbrev Out3 := Host.Outcome State Fault Refusal

/-- A two-source integer instruction of class S (R100). -/
def aluS (h : Head) (a : Src) (b : IOp) (s : State) (f : W64 → W64 → W64) : Out3 :=
  issue h (iopLen b) s (s.doneS h (iopLen b) (f (s.src 1 a) (s.iop 2 b)))

/-- A two-source integer instruction of class L with its latency (R96). -/
def aluL (lat : Nat) (h : Head) (a : Src) (b : IOp) (s : State) (f : W64 → W64 → W64 × Flags) : Out3 :=
  let r := f (s.src 1 a) (s.iop 2 b)
  issue h (iopLen b) s (s.doneL h (iopLen b) lat r.1 r.2)

/-- A one-source integer instruction of class S. -/
def alu1 (h : Head) (a : Src) (s : State) (f : W64 → W64) : Out3 :=
  issue h 8 s (s.doneS h 8 (f (s.src 1 a)))

/-- A three-source integer instruction of class S. -/
def alu3 (h : Head) (a b : Src) (c : IOp) (s : State) (f : W64 → W64 → W64 → W64) : Out3 :=
  issue h (iopLen c) s (s.doneS h (iopLen c) (f (s.src 1 a) (s.src 2 b) (s.iop 3 c)))

/-! ### Values -/

def allOnes64 : W64 := 0xFFFF_FFFF_FFFF_FFFF

/-- Signed division truncating toward zero, with the corners of R101. -/
def divV (a b : W64) : W64 × Flags :=
  if b = 0 then (allOnes64, fDZ) else (BitVec.ofInt 64 (Int.tdiv a.toInt b.toInt), 0)
def divuV (a b : W64) : W64 × Flags :=
  if b = 0 then (allOnes64, fDZ) else (BitVec.ofNat 64 (a.toNat / b.toNat), 0)
def remV (a b : W64) : W64 × Flags :=
  if b = 0 then (a, fDZ) else (BitVec.ofInt 64 (Int.tmod a.toInt b.toInt), 0)
def remuV (a b : W64) : W64 × Flags :=
  if b = 0 then (a, fDZ) else (BitVec.ofNat 64 (a.toNat % b.toNat), 0)

/-- Bits [127:64] of the signed and of the unsigned product (R101). -/
def mulhV (a b : W64) : W64 := BitVec.ofInt 64 (a.toInt * b.toInt / 2 ^ 64)
def mulhuV (a b : W64) : W64 := BitVec.ofNat 64 (a.toNat * b.toNat / 2 ^ 64)

/-- The shift count: the low 6 bits (R102). -/
def shCount (b : W64) : Nat := bits b 5 0

def clzV (a : W64) : W64 := if a = 0 then 64 else BitVec.ofNat 64 (63 - Nat.log2 a.toNat)
/-- The number of low zero bits below n. -/
def ctzN (a : W64) : Nat → Nat
  | 0 => 64
  | n + 1 => if bit a (63 - n) then 63 - n else ctzN a n
def ctzV (a : W64) : W64 := BitVec.ofNat 64 (ctzN a 64)
def popcV (a : W64) : W64 := BitVec.ofNat 64 ((List.range 64).countP fun i => bit a i)

/-- Field position and width of a control word (R103). -/
def fieldLo (k : W64) : Nat := bits k 5 0
def fieldW (k : W64) : Nat := min 64 (bits k 14 8)

def bextV (a k : W64) : W64 :=
  if fieldW k = 0 then 0 else zxN (a >>> fieldLo k) (fieldW k)

def binsV (a b k : W64) : W64 :=
  let m := BitVec.ofNat 64 ((2 ^ fieldW k - 1) * 2 ^ fieldLo k)
  (a &&& ~~~m) ||| ((b <<< fieldLo k) &&& m)

def sextV (a b : W64) : W64 := sxN a (bits b 6 0)
def zextV (a b : W64) : W64 := if 64 ≤ bits b 6 0 then a else zxN a (bits b 6 0)

/-! ### OPM 0x01 -/

def execAdd (h : Head) (a : Src) (b : IOp) (s : State) : Out3 := aluS h a b s fun x y => x + y
def execSub (h : Head) (a : Src) (b : IOp) (s : State) : Out3 := aluS h a b s fun x y => x - y
def execMul (h : Head) (a : Src) (b : IOp) (s : State) : Out3 := aluL 3 h a b s fun x y => (x * y, 0)
def execMulh (h : Head) (a : Src) (b : IOp) (s : State) : Out3 := aluL 3 h a b s fun x y => (mulhV x y, 0)
def execMulhu (h : Head) (a : Src) (b : IOp) (s : State) : Out3 := aluL 3 h a b s fun x y => (mulhuV x y, 0)
def execDiv (h : Head) (a : Src) (b : IOp) (s : State) : Out3 := aluL 18 h a b s divV
def execDivu (h : Head) (a : Src) (b : IOp) (s : State) : Out3 := aluL 18 h a b s divuV
def execRem (h : Head) (a : Src) (b : IOp) (s : State) : Out3 := aluL 18 h a b s remV
def execRemu (h : Head) (a : Src) (b : IOp) (s : State) : Out3 := aluL 18 h a b s remuV
def execMinS (h : Head) (a : Src) (b : IOp) (s : State) : Out3 := aluS h a b s fun x y => if y.slt x then y else x
def execMaxS (h : Head) (a : Src) (b : IOp) (s : State) : Out3 := aluS h a b s fun x y => if x.slt y then y else x
def execMinu (h : Head) (a : Src) (b : IOp) (s : State) : Out3 := aluS h a b s fun x y => if y.ult x then y else x
def execMaxu (h : Head) (a : Src) (b : IOp) (s : State) : Out3 := aluS h a b s fun x y => if x.ult y then y else x

/-! ### OPM 0x02 -/

def execAndW (h : Head) (a : Src) (b : IOp) (s : State) : Out3 := aluS h a b s fun x y => x &&& y
def execOrW (h : Head) (a : Src) (b : IOp) (s : State) : Out3 := aluS h a b s fun x y => x ||| y
def execXorW (h : Head) (a : Src) (b : IOp) (s : State) : Out3 := aluS h a b s fun x y => x ^^^ y
def execAndn (h : Head) (a : Src) (b : IOp) (s : State) : Out3 := aluS h a b s fun x y => x &&& ~~~y
def execOrn (h : Head) (a : Src) (b : IOp) (s : State) : Out3 := aluS h a b s fun x y => x ||| ~~~y
def execShl (h : Head) (a : Src) (b : IOp) (s : State) : Out3 := aluS h a b s fun x y => x <<< shCount y
def execShr (h : Head) (a : Src) (b : IOp) (s : State) : Out3 := aluS h a b s fun x y => x >>> shCount y
def execSra (h : Head) (a : Src) (b : IOp) (s : State) : Out3 := aluS h a b s fun x y => x.sshiftRight (shCount y)
def execRot (h : Head) (a : Src) (b : IOp) (s : State) : Out3 := aluS h a b s fun x y => x.rotateLeft (shCount y)

/-! ### OPM 0x03 -/

def execClz (h : Head) (a : Src) (s : State) : Out3 := alu1 h a s clzV
def execCtz (h : Head) (a : Src) (s : State) : Out3 := alu1 h a s ctzV
def execPopc (h : Head) (a : Src) (s : State) : Out3 := alu1 h a s popcV
def execBext (h : Head) (a : Src) (b : IOp) (s : State) : Out3 := aluS h a b s bextV
def execBins (h : Head) (a b : Src) (c : IOp) (s : State) : Out3 := alu3 h a b c s binsV
def execSext (h : Head) (a : Src) (b : IOp) (s : State) : Out3 := aluS h a b s sextV
def execZext (h : Head) (a : Src) (b : IOp) (s : State) : Out3 := aluS h a b s zextV
def execSel (h : Head) (a b : Src) (c : IOp) (s : State) : Out3 :=
  alu3 h a b c s fun x y z => if bit x 0 then y else z

/-! ### OPM 0x04 -/

def execCeq (h : Head) (a : Src) (b : IOp) (s : State) : Out3 := aluS h a b s fun x y => boolW (x == y)
def execCne (h : Head) (a : Src) (b : IOp) (s : State) : Out3 := aluS h a b s fun x y => boolW (x != y)
def execClt (h : Head) (a : Src) (b : IOp) (s : State) : Out3 := aluS h a b s fun x y => boolW (x.slt y)
def execCle (h : Head) (a : Src) (b : IOp) (s : State) : Out3 := aluS h a b s fun x y => boolW (x.sle y)
def execCltu (h : Head) (a : Src) (b : IOp) (s : State) : Out3 := aluS h a b s fun x y => boolW (x.ult y)
def execCleu (h : Head) (a : Src) (b : IOp) (s : State) : Out3 := aluS h a b s fun x y => boolW (x.ule y)

end Sys2Proof.Machine
end

