-- ==== Sys2Proof/Machine/Control.lean ====
section
/-! DEFINITION. Control flow, loops and helpers, OPM 0x1C and 0x1D (04 R110 to R120; 01 R14, R27). -/

namespace Sys2Proof.Machine

/-- PC plus a signed word offset (R110). -/
def State.target (s : State) {n : Nat} (o : BitVec n) : W64 := s.me.pc + (sx o <<< 2)

/-- The checks of a target before control moves (R111; DETAIL 0x01 DEDUCED, entry 11). -/
def State.checkTarget (s : State) (t : W64) (go : State) : State :=
  if !canonical t then s.exact Cause.addressForm 1 t
  else if bits t 1 0 ≠ 0 then s.exact Cause.misaligned 1 t
  else go

def execBr (h : Head) (o : BitVec 16) (s : State) : Out3 :=
  let t := s.target o
  issue h 8 s (s.checkTarget t (s.doneJump t))

def execJmp (h : Head) (o : W32) (s : State) : Out3 :=
  let t := s.target o
  issue h 12 s (s.checkTarget t (s.doneJump t))

def execCall (h : Head) (o : W32) (s : State) : Out3 :=
  let t := s.target o
  issue h 12 s (s.checkTarget t
    (s.updMe fun c => ((c.tally s.cycle).result h.dst (c.pc + 12)).jump t false).fresh)

def execRet (h : Head) (a : Src) (s : State) : Out3 :=
  let t := s.src 1 a
  issue h 8 s (s.checkTarget t (s.doneJump t))

def execBrx (h : Head) (a : Src) (s : State) : Out3 :=
  let t := s.src 1 a
  issue h 8 s (s.checkTarget t (s.doneJump t))

/-- Moves on to a given address with the loop-end test (R113, R114). -/
def Ctx.nextTo (c : Ctx) (n : W64) : Ctx :=
  let r := c.loopTest c.pc n c.depth
  { r.1 with pc := r.2 }

/-- Opens a loop level (R113). -/
def Ctx.openLoop (c : Ctx) (first last : W64) (n : W32) : Ctx :=
  if h : c.depth < 4 then
    { c with
      ls := c.ls.set c.depth (addrField first)
      le := c.le.set c.depth (addrField last)
      lc := c.lc.set c.depth n
      depth := c.depth + 1 }
  else c

/-- `loop` (R113). A zero count reads the word at T for its length only, with checks 1 to 3 of R64. -/
def execLoopI (h : Head) (a : Src) (o : W32) (s : State) : Out3 :=
  let c := s.me
  let t := s.target o
  let n : W32 := (s.src 1 a).setWidth 32
  issue h 12 s <|
    if c.handler then s.exact Cause.loopState 3
    else if (t - (c.pc + 12)).toInt < 0 then s.exact Cause.loopState 2
    else if n = 0 then
      match s.fetchBlock s.cur t with
      | (s, .error f) => s.fetchFault s.cur f t
      | (s, .ok bs) =>
        match lenCheck t (ofBytes (bs.take 4)) with
        | .error d => s.takeTrap s.cur ⟨Cause.illegalLength, d, 0, false, false, 0⟩ t
        | .ok len => (s.updMe fun c => (c.tally s.cycle).nextTo (t + BitVec.ofNat 64 len)).fresh
    else if 4 ≤ c.depth then s.exact Cause.loopState 1
    else (s.updMe fun c => ((c.tally s.cycle).openLoop (c.pc + 12) t n).next 12).fresh

/-- Lane i's seed (R27). -/
def lfsrSeed (grain ctx i : Nat) : W32 :=
  0x5EED_0000 ^^^ BitVec.ofNat 32 (grain * 0x1_0000) ^^^ BitVec.ofNat 32 (ctx * 0x100) ^^^ BitVec.ofNat 32 i

/-- A control context at grain start (R14). -/
def Ctx.control (entry : W64) (args : List W64) (grain cycle : Nat) : Ctx :=
  { Ctx.zero with
    pc := entry
    g := Vector.ofFn fun i => if i.val < 8 then 0 else args.getD (i.val - 8) 0
    vl := 64
    lfsr := Vector.ofFn fun i => lfsrSeed grain 0 i.val
    lastIssue := cycle }

/-- A helper at `hstart`, with the values it copies from the control context (R14, R277). -/
def Ctx.helper (c : Ctx) (t : W64) (grain n cycle : Nat) : Ctx :=
  { Ctx.zero with
    pc := t
    g := c.g
    a := c.a
    as_ := c.as_
    vl := c.vl
    amask := c.amask
    lfsr := Vector.ofFn fun i => lfsrSeed grain n i.val
    lcnt := c.lcnt
    readyAt := cycle + 4
    lastIssue := cycle }

/-- A helper of the executing grain. -/
def State.helperId (s : State) (n : Nat) : CtxId := { s.cur with ctx := n }

/-- `hstart`, a release held under R204 and issued after every earlier result is written (R14, R116). The hold comes after
the checks that need no state of the helper (HELPER_STATE 0x01 and 0x03) and before the others (DESIGN CHOICE, entry 96). A
fence before it holds it too (09 R247). -/
def execHstart (h : Head) (n : BitVec 4) (o : W32) (s : State) : Out3 :=
  let t := s.target o
  let k := n.toNat
  let id := s.helperId k
  issue h 12 s <|
    if s.cur.ctx ≠ 0 then s.exact Cause.helperState 1
    else if s.sheaf.helpers < k then s.exact Cause.helperState 3
    else if s.me.pend ≠ [] ∨ s.relBusy s.cur ∨ s.fenced then s.stall
    else if (s.ctx id).isSome then s.exact Cause.helperState 2
    else if !canonical t then s.exact Cause.addressForm 1 t
    else
      let x := s.me.helper t s.cur.grain k s.cycle
      ({ s with ctxs := Tab.put s.ctxs id x }).doneN 12

/-- `hjoin` (R117). -/
def execHjoin (h : Head) (n : BitVec 4) (s : State) : Out3 :=
  let k := n.toNat
  issue h 8 s <|
    if s.cur.ctx ≠ 0 then s.exact Cause.helperState 1
    else if s.sheaf.helpers < k then s.exact Cause.helperState 3
    else if s.acqHeld || s.fenced then s.stall
    else if (s.ctx (s.helperId k)).isSome then s.park 6
    else (s.settle 4 (16 * s.cur.grain + k)).doneN 8

/-! ### Trace records (R362) -/

/-- The four words of a context's trace record. -/
def State.traceRec (s : State) (c : CtxId) (x : Ctx) : TraceRec :=
  ⟨BitVec.ofNat 64 (s.slot % 2 ^ 48 + c.grain % 4096 * 2 ^ 48 + c.ctx % 16 * 2 ^ 60),
   BitVec.ofNat 64 ((s.sheafOf c.sheaf).sheafid % 2 ^ 48),
   BitVec.ofNat 64 ((x.issued - x.trIssued) % 2 ^ 32 + x.trStall % 2 ^ 32 * 2 ^ 32),
   BitVec.ofNat 64 (x.trOps % 2 ^ 32 + x.trBytes / 64 % 2 ^ 32 * 2 ^ 32)⟩

/-- A context emits a trace record: a full tile queue drops it and sets LOST. -/
def State.emitTrace (s : State) (c : CtxId) : State :=
  let vd := s.vdOfCtx c
  let tile := s.coreOfCtx c / 8
  let ctl := s.ctl vd rTRCTL
  match s.ctx c with
  | none => s
  | some x =>
    if !bit ctl 63 then s
    else
      let r := s.traceRec c x
      let s := s.updCtx c fun x => { x with trIssued := x.issued, trStall := 0, trOps := 0, trBytes := 0 }
      if 64 ≤ (s.tileOf tile).traceQ.length then s.setCtl vd rTRCTL (ctl ||| maskBits 62 62)
      else s.updTile tile fun t => { t with traceQ := t.traceQ ++ [r] }

/-- The mutexes that a context holds become free. -/
def State.freeMutexes (s : State) (c : CtxId) : State :=
  { s with tiles := s.tiles.map fun t => (t.1, { t.2 with mutex := t.2.mutex.map fun m => if m = some c then none else m }) }

/-- The mutexes of a context that ends are released (R146): at once, or, since the mutexes of a deterministic sheaf change
only in batches, with the batch of its quantum (R278; DEDUCED, entry 133). -/
def State.dropMutexes (s : State) (c : CtxId) : State :=
  if !(s.tiles.any fun t => t.2.mutex.toList.contains (some c)) then s
  else if (s.sheafOf c.sheaf).det then
    let l := ((s.ctx c).getD Ctx.zero).lcnt
    s.updSheaf c.sheaf fun h => { h with tasks := h.tasks ++ [⟨.padWord, l / max 1 h.quantum, c.grain, c.ctx, l, true⟩] }
  else s.freeMutexes c

/-- A context ends: its mutexes are released (R146), its flags go to the control context, and so do its
queued commands (R118). -/
def State.endCtx (s : State) (c : CtxId) : State :=
  let s := (s.leaveEngine c).dropMutexes c
  let ctl : CtxId := { c with ctx := 0 }
  let x := (s.ctx c).getD Ctx.zero
  let ops := (s.quads.flatMap fun q => q.2.vops).filter fun v => v.ctx == c
  let fl := ops.foldl (fun f v => f ||| v.flags) (x.pend.foldl (fun f p => f ||| p.flags) x.aflags)
  let s := { s with ctxs := Tab.del s.ctxs c }
  let s := s.updCtx ctl fun x => { x with aflags := x.aflags ||| fl }
  { s with
    tiles := s.tiles.map fun t => (t.1, { t.2 with
      chans := t.2.chans.map fun ch => { ch with cmds := ch.cmds.map fun e =>
        if e.ctx = c then { e with ctx := ctl } else e } })
    grains := s.grains.map fun e => (e.1, { e.2 with
      mq := e.2.mq.map fun m => if m.ctx = c then { m with ctx := ctl } else m }) }

/-- `hexit` (R118): waits for its own earlier work, then ends the helper, which emits its last trace record (R362). -/
def execHexit (h : Head) (s : State) : Out3 :=
  issue h 8 s <|
    if s.cur.ctx = 0 then s.exact Cause.helperState 4
    else if s.me.pend ≠ [] ∨ s.me.out ≠ none ∨ s.vecBusy s.cur ∨ s.relBusy s.cur ∨ s.fenced then s.stall
    else (((s.emitTrace s.cur).wakeTag s.cur.sheaf 4 (16 * s.cur.grain + s.cur.ctx) (s.quantumOf s.cur)).endCtx s.cur).fresh

def execNop (h : Head) (s : State) : Out3 := issue h 8 s (s.doneN 8)

/-- A pad word: fetch skips it (R45). -/
def execPadWord (s : State) : Out3 :=
  match s.ctx s.cur with
  | none => .fault .noIssuer
  | some _ => .next (s.updMe fun c => { c with pc := c.pc + 4 })

end Sys2Proof.Machine
end

