-- ==== Sys2Proof/Machine/EventUnit.lean ====
section
/-! DEFINITION. The tile control page (01 R42): the event unit, mutexes and tile barriers (05 R143 to R147),
the registers of the remote queues (R149), WPn (08 R212), the ownership view (07 R185) and the arbitration
weights (07 R183), as `ld.d` and `st.d` reach them. -/

namespace Sys2Proof.Machine

/-- The logical core index of the executing grain within its tile (R257). -/
def State.myLCore (s : State) : Nat := s.cur.grain % 8

/-- A request of a deterministic sheaf waits in the task queue until its batch is served (R278). -/
def State.detGate (s : State) (i : Instr) (body : State) : State :=
  if s.sheaf.det && s.me.wait != .granted then
    let c := s.me
    let q := c.lcnt / max 1 s.sheaf.quantum
    let r : TaskReq := ⟨i, q, s.cur.grain, s.cur.ctx, c.lcnt, false⟩
    if c.wait = .task then s
    else
      let s := s.updSheaf s.cur.sheaf fun h => { h with tasks := h.tasks ++ [r] }
      s.updMe fun c => { c with wait := .task }
  else body

/-- A load of the page completes: latency 6 (R127, R143). -/
def State.pageDone (s : State) (h : Head) (m : MemOp) (v : W64) : State :=
  (s.advance m).doneL h 8 6 v

/-- A store to the page completes; a release combines the context's U lines at its wide scopes (R137). -/
def State.pageStored (s : State) (m : MemOp) (rel : Option Scope) : State := ((s.releaseOpt rel).advance m).doneN 8

/-- The holds that every access to the page meets: a fence or an acquire (09 R245, R247), and a gather or scatter of the
context (R164). -/
def State.pageAccess (s : State) (go : State → State) : State :=
  let s := s.unfence
  if s.fenced || s.gathering then s.stall else go s

def State.updMyTile (s : State) (f : Tile → Tile) : State := s.updTile s.myTile f

/-! ### Event lines (R143, R144) -/

def State.evwait (s : State) (h : Head) (m : MemOp) (n : Fin 32) : State :=
  if s.acqHeld then s.stall
  else if (s.tileOf s.myTile).evflag[n] then
    ((s.settle 2 (32 * s.myTile + n.val)).updMyTile fun t =>
      { t with evflag := t.evflag.set n false }).pageDone h m 1
  else s.park 3

/-! ### Mutexes (R143, R146) -/

def State.takeMutex (s : State) (k : Fin 16) : State :=
  s.updMyTile fun t => { t with mutex := t.mutex.set k (some s.cur) }

/-- A load of MXm, an acquire: what holds it comes before it enters a deterministic sheaf's task queue (R278). -/
def State.mutexLoad (s : State) (h : Head) (i : Instr) (m : MemOp) (k : Fin 16) : State :=
  if s.acqHeld then s.stall
  else s.detGate i <|
    if (s.tileOf s.myTile).mutex[k] = none then (s.takeMutex k).pageDone h m 1
    else s.park 3

def State.mutexTryLoad (s : State) (h : Head) (i : Instr) (m : MemOp) (k : Fin 16) : State :=
  if s.acqHeld then s.stall
  else s.detGate i <|
    if (s.tileOf s.myTile).mutex[k] = none then (s.takeMutex k).pageDone h m 1
    else s.pageDone h m 0

/-- A store to MXm: a release, held under R204 before it enters a task queue (R146, R278). -/
def State.mutexStore (s : State) (i : Instr) (m : MemOp) (rel : Option Scope) (ea : W64) (k : Fin 16) : State :=
  if s.relBusy s.cur then s.stall
  else s.detGate i <| match (s.tileOf s.myTile).mutex[k] with
    | none => s.exact Cause.mutexState 2 ea
    | some c =>
      if c = s.cur then (s.updMyTile fun t => { t with mutex := t.mutex.set k none }).pageStored m rel
      else s.exact Cause.mutexState 1 ea

/-- MXOWNm as a word: HELD, CTX and the holder's logical core index within a virtual tile (R143, R290). -/
def State.mxownWord (s : State) (w : View) : Option CtxId → W64
  | none => 0
  | some c => BitVec.ofNat 64 (2 ^ 15 + (c.ctx % 16) * 16 + s.logicalCore w ((s.grainOf c).getD Grain.zero).core)

/-! ### Tile barriers (R147) -/

/-- The arrival mark of the executing context. -/
def State.mark (s : State) : CtxId := s.cur

/-- The phase completes: PHASE advances and every mark clears. -/
def TBar.complete (b : TBar) : TBar := { b with phase := (b.phase + 1) % 2 ^ 32, marks := [] }

/-- An arrival of quantum q at a tile barrier: the phase that it completes carries the largest quantum among its arrivals
(R279). -/
def State.tbarTag (s : State) (k : Fin 8) (done : Bool) (q : Nat) : State :=
  let place := 32 * s.myTile + k.val
  let q := max q (s.wakeOf s.cur.sheaf 7 place)
  if done then (s.wakeTag s.cur.sheaf 6 place q).wakeTag s.cur.sheaf 7 place 0 else s.wakeTag s.cur.sheaf 7 place q

def State.tbarArrive (s : State) (m : MemOp) (rel : Option Scope) (ea : W64) (k : Fin 8) : State :=
  let b := (s.tileOf s.myTile).tbar[k]
  if s.relBusy s.cur then s.stall
  else if b.count = 0 then s.exact Cause.localAddress 5 ea
  else if b.marks.contains s.mark then s.park 3
  else
    let b := { b with marks := b.marks ++ [s.mark] }
    let done := decide (b.count ≤ b.marks.length)
    let s := (s.settle 6 (32 * s.myTile + k.val)).tbarTag k done (s.quantumOf s.cur)
    (s.updMyTile fun t => { t with tbar := t.tbar.set k (if done then b.complete else b) }).pageStored m rel

def State.tbarWait (s : State) (h : Head) (m : MemOp) (k : Fin 8) : State :=
  let b := (s.tileOf s.myTile).tbar[k]
  if s.acqHeld then s.stall
  else if b.marks.contains s.mark then s.park 3
  else (s.settle 6 (32 * s.myTile + k.val)).pageDone h m (BitVec.ofNat 64 b.phase)

/-- A write of COUNT: at or below the arrivals it completes the phase, and 0 disables the barrier (R147). -/
def TBar.setCount (b : TBar) (n : Nat) : TBar :=
  let n := min 88 n
  let b := { b with count := n }
  if n ≤ b.marks.length ∧ (b.marks ≠ [] ∨ n = 0) then b.complete else b

def State.tbcfgStore (s : State) (m : MemOp) (rel : Option Scope) (k : Fin 8) (v : W64) : State :=
  let b := (s.tileOf s.myTile).tbar[k]
  let s := if (b.setCount (bits v 6 0)).phase = b.phase then s else s.tbarTag k true (s.quantumOf s.cur)
  (s.updMyTile fun t => { t with tbar := t.tbar.set k (t.tbar[k].setCount (bits v 6 0)) }).pageStored m rel

def TBar.word (b : TBar) : W64 := BitVec.ofNat 64 (b.phase * 2 ^ 32 + b.count)

/-! ### Remote-queue registers (R149) -/

/-- RQCFG's writable bits: EN, CNT and BASE. -/
def rqMask : W64 := maskBits 63 63 ||| maskBits 39 32 ||| maskBits 20 6

/-- A write of RQCFG. Clearing EN discards every entry: the model leaves HEAD, TAIL and COUNT at 0 then as setting it does
(R149; DESIGN CHOICE for HEAD and TAIL, entry 121). -/
def RQueue.write (r : RQueue) (w : View) (v : W64) : RQueue :=
  if bit r.cfg 63 && bit v 63 then r
  else { RQueue.zero with cfg := v &&& rqMask, view := w }

def RQueue.stat (r : RQueue) : W64 := BitVec.ofNat 64 (r.count * 2 ^ 32 + r.tail * 256 + r.head)

/-- Whether a write of RQCFG takes effect: one that leaves EN at 1 is ignored (R149). -/
def RQueue.writes (r : RQueue) (v : W64) : Bool := !(bit r.cfg 63 && bit v 63)

/-- The target of a queue descriptor of a sender: physical tile and queue number (R150). -/
def State.rqTarget (s : State) (c : CtxId) (desc : W64) : Nat × Nat :=
  ((s.sheafOf c.sheaf).tile (c.grain / 32 * 4 + bits desc 7 6), 16 * bits desc 5 5 + bits desc 3 0)

/-- A queue that is reset or disabled discards every entry, those reserved for messages under way too: their `rqput`
completes (R149; DEDUCED, entry 94). -/
def State.dropReserved (s : State) (tile k : Nat) : State :=
  let gone (c : CtxId) (o : Out) : Bool :=
    (match o.instr with
     | .rqput .. => true
     | _ => false) && o.stage == .sent && s.rqTarget c (o.caps.getD 0 0) == (tile, k)
  { s with ctxs := s.ctxs.map fun e =>
      if e.2.out.any (gone e.1) then (e.1, { e.2 with out := none, resuming := false }) else e }

def State.rqcfgStore (s : State) (m : MemOp) (rel : Option Scope) (k : Fin 32) (v : W64) : State :=
  let s' := if ((s.tileOf s.myTile).rq[k]).writes v then s.dropReserved s.myTile k else s
  (s'.updMyTile fun t => { t with rq := t.rq.set k (t.rq[k].write s.myView v) }).pageStored m rel

/-! ### The ownership view (R185) -/

/-- The state of an accumulator tile's entry as a number. -/
def AccState.code : AccState → Nat
  | .free => 0
  | .owned .. => 1
  | .pinned .. => 2
  | .spilled .. => 3

/-- The sheaf of the owner. -/
def AccState.sheaf : AccState → Option Nat
  | .free => none
  | .owned s _ | .pinned s _ | .spilled s _ _ => some s

/-- An ownership entry as the tile's virtual device sees it (R185). -/
def State.accWord (s : State) (a : AccState) : W64 :=
  let show_ (st pin grain sheaf : Nat) : W64 :=
    let h := s.sheafOf sheaf
    if h.vd ≠ s.myVd then BitVec.ofNat 64 (3 * 2 ^ 62)
    else BitVec.ofNat 64 (st * 2 ^ 62 + pin * 2 ^ 61 + grain * 2 ^ 48 + h.sheafid % 2 ^ 48)
  match a with
  | .free => 0
  | .owned sh g => show_ 1 0 g sh
  | .pinned sh g => show_ 2 0 g sh
  | .spilled sh g pin => show_ 3 (if pin then 1 else 0) g sh

/-! ### Arbitration weights (R183) -/

/-- MQWTc of a core of the tile: its grain's weight, 1 without a grain. -/
def State.mqwtOf (s : State) (lc : Nat) : Nat :=
  match s.grainAt (s.physCore s.myView lc) with
  | some e => e.2.mqwt
  | none => 1

/-- A write of the core's own weight; 0 is ignored, another core's register faults (R183). -/
def State.mqwtStore (s : State) (m : MemOp) (rel : Option Scope) (ea : W64) (c : Fin 8) (v : W64) : State :=
  if c.val ≠ s.myLCore then s.exact Cause.localAddress 4 ea
  else
    let w := bits v 3 0
    (if w = 0 then s else s.updGrain fun g => { g with mqwt := w }).pageStored m rel

/-! ### Access by offset -/

/-- A number below n as an index. -/
def fin? (n i : Nat) : Option (Fin n) := if h : i < n then some ⟨i, h⟩ else none

/-- A load of the page at an offset (R42, R143). -/
def State.pageLoad (s : State) (h : Head) (i : Instr) (m : MemOp) (ea : W64) (off : Nat) : State :=
  let t := s.tileOf s.myTile
  let bad := s.exact Cause.localAddress 4 ea
  let at_ (lo n : Nat) : Option (Fin n) := if off < lo then none else fin? n ((off - lo) / 8)
  match at_ 0x0000 32 with
  | some n => s.pageDone h m (boolW t.evflag[n])
  | none =>
  match at_ 0x0100 32 with
  | some n => s.evwait h m n
  | none =>
  match at_ 0x0200 32 with
  | some n => s.pageDone h m (zx t.evfwd[n])
  | none =>
  if off < 0x0400 then bad else
  match at_ 0x0400 16 with
  | some k => s.mutexLoad h i m k
  | none =>
  match at_ 0x0480 16 with
  | some k => s.mutexTryLoad h i m k
  | none =>
  match at_ 0x0500 16 with
  | some k => s.pageDone h m (s.mxownWord s.myView t.mutex[k])
  | none =>
  if off < 0x0600 then bad else
  match at_ 0x0600 8 with
  | some k => s.pageDone h m t.tbar[k].word
  | none =>
  if off < 0x0680 then bad else
  match at_ 0x0680 8 with
  | some k => s.tbarWait h m k
  | none =>
  if off < 0x1000 then bad
  else if off < 0x1800 then
    match fin? 32 ((off - 0x1000) / 0x40) with
    | some k =>
      if off % 0x40 = 0 then s.pageDone h m t.rq[k].cfg
      else if off % 0x40 = 8 then s.pageDone h m t.rq[k].stat
      else bad
    | none => bad
  else if off < 0x2000 then bad
  else match at_ 0x2000 8 with
  | some k => s.pageDone h m t.chans[k].wp
  | none =>
  if off < 0x3000 then bad else
  match at_ 0x3000 64 with
  | some k => s.pageDone h m (s.accWord t.acc[k])
  | none =>
  if off < 0x4000 then bad else
  match at_ 0x4000 8 with
  | some k => s.pageDone h m (BitVec.ofNat 64 (s.mqwtOf k))
  | none => bad

/-- A store to the page at an offset (R42, R143). RQSTAT, whose fields are all RO, takes no store: LOCAL_ADDRESS 0x04, as any
register of the page that has no store (DESIGN CHOICE, entry 121). -/
def State.pageStore (s : State) (i : Instr) (m : MemOp) (rel : Option Scope) (ea : W64) (off : Nat) (v : W64) : State :=
  let bad := s.exact Cause.localAddress 4 ea
  let at_ (lo n : Nat) : Option (Fin n) := if off < lo then none else fin? n ((off - lo) / 8)
  match at_ 0x0000 32 with
  | some n =>
    (if bit v 0 then s.updMyTile fun t => { t with evflag := t.evflag.set n false } else s).pageStored m rel
  | none =>
  if off < 0x0200 then bad else
  match at_ 0x0200 32 with
  | some n => (s.updMyTile fun t => { t with evfwd := t.evfwd.set n (v.setWidth 4) }).pageStored m rel
  | none =>
  if off < 0x0400 then bad else
  match at_ 0x0400 16 with
  | some k => s.mutexStore i m rel ea k
  | none =>
  if off < 0x0600 then bad else
  match at_ 0x0600 8 with
  | some k => s.tbcfgStore m rel k v
  | none =>
  match at_ 0x0640 8 with
  | some k => s.tbarArrive m rel ea k
  | none =>
  if off < 0x1000 then bad
  else if off < 0x1800 then
    match fin? 32 ((off - 0x1000) / 0x40) with
    | some k => if off % 0x40 = 0 then s.rqcfgStore m rel k v else bad
    | none => bad
  else if off < 0x4000 then bad
  else match at_ 0x4000 8 with
  | some k => s.mqwtStore m rel ea k v
  | none => bad

/-! ### The rows of the opcode table for these accesses

Each is the `ld.d` or `st.d` whose address, held in A0 with no pointer update, resolved to the named
register (R42). -/

/-- A memory operand without an update. -/
def pageOp : MemOp := .base 0

/-- The local address of a page offset. -/
def pageAddr (off : Nat) : W64 := BitVec.ofNat 64 (0x0200_0000 + off)

def execEvwaitLoad (h : Head) (n : Fin 32) (s : State) : Out3 := issue h 8 s (s.pageAccess fun s => s.evwait h pageOp n)
def execMutexTake (h : Head) (k : Fin 16) (s : State) : Out3 :=
  issue h 8 s (s.pageAccess fun s => s.mutexLoad h (.mutexTake h k) pageOp k)
def execMutexTry (h : Head) (k : Fin 16) (s : State) : Out3 :=
  issue h 8 s (s.pageAccess fun s => s.mutexTryLoad h (.mutexTry h k) pageOp k)
def execMutexRelease (h : Head) (k : Fin 16) (s : State) : Out3 :=
  issue h 8 s (s.pageAccess fun s => s.mutexStore (.mutexRelease h k) pageOp none (pageAddr (0x0400 + 8 * k.val)) k)
def execTileBarrierArrive (h : Head) (b : Fin 8) (s : State) : Out3 :=
  issue h 8 s (s.pageAccess fun s => s.tbarArrive pageOp none (pageAddr (0x0640 + 8 * b.val)) b)
def execTileBarrierWait (h : Head) (b : Fin 8) (s : State) : Out3 :=
  issue h 8 s (s.pageAccess fun s => s.tbarWait h pageOp b)
def execTbcfgWrite (h : Head) (b : Fin 8) (v : Src) (s : State) : Out3 :=
  issue h 8 s (s.pageAccess fun u => u.tbcfgStore pageOp none b (s.src 2 v))
def execRqcfgWrite (h : Head) (q : Fin 2) (n : Fin 16) (v : Src) (s : State) : Out3 :=
  issue h 8 s (s.pageAccess fun u => u.rqcfgStore pageOp none ⟨16 * q.val + n.val, by omega⟩ (s.src 2 v))
def execMqwtWrite (h : Head) (c : Fin 8) (v : Src) (s : State) : Out3 :=
  issue h 8 s (s.pageAccess fun u => u.mqwtStore pageOp none (pageAddr (0x4000 + 8 * c.val)) c (s.src 2 v))

/-! ### Where a remote queue stands (R149) -/

def RQueue.en (r : RQueue) : Bool := bit r.cfg 63
def RQueue.entries (r : RQueue) : Nat := bits r.cfg 39 32 + 1
/-- Own-quad offset of an entry. -/
def RQueue.entryOff (r : RQueue) (i : Nat) : Nat := bits r.cfg 20 6 * 64 + 64 * i

/-- A queue of a tile by its number 16 × quad + n. -/
def State.rqOf (s : State) (tile q : Nat) : RQueue := (s.tileOf tile).rq.toList.getD q RQueue.zero

/-- The first sheaf placed on a tile, with the virtual tile that it has there. -/
def State.tileView (s : State) (tile : Nat) : View :=
  (s.sheaves.findSome? fun e =>
    ((List.range (ceilDiv e.2.grains 8)).find? fun v => e.2.tile v == tile).map fun v => (e.1, v)).getD (0, noCore)

/-- The view in which a queue's BASE is an address: that of the sheaf that configured it while it stands on the tile,
then that of any other. -/
def State.queueView (s : State) (tile q : Nat) : View :=
  let w := (s.rqOf tile q).view
  if (s.sheafOf w.1).tile w.2 = tile then w else s.tileView tile

/-- The physical address of an entry of a queue. -/
def State.entryPhys (s : State) (tile q i : Nat) : Nat :=
  s.physAddr (s.queueView tile q) (q / 16) ((s.rqOf tile q).entryOff i % 2 ^ 21)

end Sys2Proof.Machine
end

