-- ==== Sys2Proof/Machine/Memory.lean ====
section
/-! DEFINITION. Local and global loads and stores, full/empty bits, peer loads and bank power (05 R125 to
R134), with the steps of a memory request through the fabric (13 R342). -/

namespace Sys2Proof.Machine

/-! ### Restart-class instructions -/

/-- Puts a restart-class instruction in progress (R30). -/
def State.start (s : State) (i : Instr) (dst : Dst) (addr : W64) (caps : List W64) (data : List Byte)
    (stage : Stage := .accepted) : State :=
  s.updMe fun c => { c with out := some ⟨s.freeN + 1, i, c.pc, dst, 0, false, stage, addr, caps, data, 0, none, s.cycle, s.quantumOf s.cur⟩ }

/-- Issues a restart-class instruction of class L. -/
def State.startL (s : State) (i : Instr) (h : Head) (len : Nat) (addr : W64) (caps : List W64 := [])
    (data : List Byte := []) (stage : Stage := .accepted) : State :=
  (s.start i h.dst addr caps data stage).doneTag h len (s.freeN + 1)

/-- Issues a restart-class instruction of class N. -/
def State.startN (s : State) (i : Instr) (len : Nat) (addr : W64) (caps : List W64 := [])
    (data : List Byte := []) (stage : Stage := .accepted) : State :=
  (s.start i .none addr caps data stage).doneN len

/-- The outstanding instruction of a context. -/
def State.outOf (s : State) (c : CtxId) : Option Out := (s.ctx c).bind fun x => x.out

/-- Changes the outstanding instruction of a context. -/
def State.updOut (s : State) (c : CtxId) (f : Out → Out) : State :=
  s.updCtx c fun x => { x with out := x.out.map f }

/-- Completes the outstanding instruction of a context with its result and flags. -/
def State.finish (s : State) (c : CtxId) (tag : Nat) (v : W64) (fl : Flags := 0) : State :=
  (s.updCtx c fun x => { x.complete s.freeN tag v fl with out := none, resuming := false }).fresh

/-- The result of an outstanding instruction is known and is written at a cycle: it is then an issued
result of fixed latency (R98). -/
def State.fixResult (s : State) (c : CtxId) (tag : Nat) (v : W64) (due : Nat) (fl : Flags := 0) : State :=
  s.updCtx c fun x => { x with
    out := none
    resuming := false
    pend := x.pend.map fun p => if p.tag = tag then
      { p with tag := 0, val := some v, due := some due, flags := p.flags ||| fl } else p }

/-! ### Local loads and stores (R125, R126) -/

/-- The holds common to every local access: a fence, the context's vector instructions. -/
def State.accessHeld (s : State) (phys n : Nat) : Bool := s.vecHeld phys n

/-- A load (R125). -/
def State.loadBody (s : State) (h : Head) (i : Instr) (m : MemOp) (sz : Size) (uns : Bool) : State :=
  let n := sizeBytes sz
  let ea := s.ea m
  let s := s.unfence
  if s.fenced || (isAcquire i && s.acqHeld) then s.stall
  else match s.localCheck .load ea n with
    | .bad c d => s.exact c d ea (localRestart c)
    | .hold k => s.holdAt k
    | .sleep p => s.bankStall p n
    | .mem p lat =>
      if s.accessHeld p n then s.stall
      else if s.lPoisoned p n then s.exact Cause.memoryError (s.localSyndrome 0 p n) ea
      else (s.advance m).doneL h 8 lat (extend sz uns (s.lread p n))
    | .peer at_ lat =>
      if s.rcBusy || s.accessHeld (s.peerPhys s.cur at_) n then s.stall
      else
        let due := some (s.cycle + lat)
        let s := (s.advance m).startL i h 8 ea [BitVec.ofNat 64 at_, BitVec.ofNat 64 lat]
        s.updMe fun c => { c with out := c.out.map fun o => { o with due := due } }
    | .page off => if s.gathering then s.stall else s.pageLoad h i m ea off

def execLd (h : Head) (m : MemOp) (sz : Size) (uns : Bool) (acq : Option Scope) (s : State) : Out3 :=
  issue h 8 s (s.loadBody h (.ld h m sz uns acq) m sz uns)

/-- A store (R125); a release is held under R204 and combines the context's U lines (R137). -/
def State.storeBody (s : State) (i : Instr) (m : MemOp) (sz : Size) (rel : Option Scope) (v : W64) : State :=
  let n := sizeBytes sz
  let ea := s.ea m
  let s := s.unfence
  if s.fenced || (rel.isSome && s.relBusy s.cur) || s.relLog rel then s.stallRel rel
  else match s.localCheck .store ea n with
    | .bad c d => s.exact c d ea (localRestart c)
    | .hold k => s.holdAt k
    | .sleep p => s.bankStall p n
    | .mem p _ =>
      if s.accessHeld p n || s.srcHeld p n || s.storeHeld s.myTile p n then s.stall
      else
        let s := s.releaseOpt rel
        ((s.lwrite p n v).advance m).doneN 8
    | .peer _ _ => s.exact Cause.localAddress 2 ea
    | .page off => if s.gathering then s.stall else s.pageStore i m rel ea off v

def execSt (h : Head) (m : MemOp) (sz : Size) (rel : Option Scope) (b : Src) (s : State) : Out3 :=
  issue h 8 s (s.storeBody (.st h m sz rel b) m sz rel (s.src 2 b))

/-! ### Peer loads (R128) -/

/-- The check of a peer slice at the target: the DETAIL of PEER_GONE. -/
def State.peerGone (s : State) (vd core : Nat) : Option Nat :=
  match s.holder core with
  | some e => if (s.sheafOf e.1.1).vd = vd then none else some 2
  | none =>
    match (s.coreOf core).lastSheaf with
    | some n => let h := s.sheafOf n
                if h.vd = vd ∧ h.st = .retired then some 1 else some 2
    | none => some 2

/-- Whether the grain of a core is being moved (R293). -/
def State.coreMoving (s : State) (core : Nat) : Bool :=
  match s.holder core with
  | some e => e.2.moving
  | none => false

/-- A peer load is checked and read at the target, which its logical place names (R128). Its result is written at the end
of its latency, counted anew when it is performed again. It does nothing where none is outstanding. -/
def State.peerRead (s : State) (c : CtxId) : State :=
  match s.outOf c with
  | none => s
  | some o =>
    match o.instr with
    | .ld _ _ sz uns _ =>
      let p := s.peerPhys c (o.caps.getD 0 0).toNat
      let n := sizeBytes sz
      let due := o.due.getD (s.cycleOfCtx c + (o.caps.getD 1 0).toNat)
      let core := p / 2 ^ 19
      if s.coreMoving core then s
      else match s.peerGone (s.vdOfCtx c) core with
        | some d => s.recorded c Cause.peerGone d o.addr false
        | none =>
          match s.rangeBank p n with
          | .off => s.recorded c Cause.bankOff 2 o.addr true
          | .ret => s.wakeRet p n
          | .waking => s
          | .on =>
            if s.lPoisoned p n then s.recorded c Cause.memoryError (s.localSyndrome 1 p n) o.addr false
            else s.fixResult c o.tag (extend sz uns (s.lread p n)) due
    | _ => s

def execPeerLoadTargetRead (c : CtxId) (s : State) : Out3 := .next (s.peerRead c)

/-! ### Global loads and stores (R131) -/

/-- The issue checks of a global access (R131, R137). -/
def State.globalCheck (s : State) (ea : W64) (n : Nat) (go : State) : State :=
  if !canonical ea then s.exact Cause.addressForm 1 ea
  else if ea.toNat % n ≠ 0 then s.exact Cause.misaligned 1 ea
  else go

def execLdg (h : Head) (m : MemOp) (sz : Size) (uns : Bool) (acq : Option Scope) (s : State) : Out3 :=
  let ea := s.ea m
  let t := s.unfence
  issue h 8 s <| if t.fenced || t.rcBusy || (acq.isSome && t.acqHeld) then t.stall
    else t.globalCheck ea (sizeBytes sz) ((t.advance m).startL (.ldg h m sz uns acq) h 8 ea)

def execStg (h : Head) (m : MemOp) (sz : Size) (rel : Option Scope) (b : Src) (s : State) : Out3 :=
  let ea := s.ea m
  let v := s.src 2 b
  let t := s.unfence
  issue h 8 s <| if t.fenced || t.rcBusy || (rel.isSome && t.relBusy t.cur) || t.relLog rel then t.stallRel rel
    else t.globalCheck ea (sizeBytes sz) (((t.releaseOpt rel).advance m).startN (.stg h m sz rel b) 8 ea [v])

/-- What a global instruction needs of its page, and its width in bytes. -/
def globalNeeds : Instr → Option (Acc × Nat)
  | .ldg _ _ sz _ _ => some (.read, sizeBytes sz)
  | .stg _ _ sz _ _ => some (.write, sizeBytes sz)
  | .amoSwap _ x | .amoCas _ x _ | .amoAdd _ x | .amoFadd _ x | .amoMin _ x | .amoMax _ x
  | .amoAnd _ x | .amoOr _ x | .amoXor _ x => some (.rw, if x.dw then 8 else 4)
  | .redAdd _ x | .redFadd _ x | .redMin _ x | .redMax _ x | .redAnd _ x | .redOr _ x
  | .redXor _ x => some (.rw, if x.dw then 8 else 4)
  | .sigDec .. => some (.write, 8)
  | _ => none

/-- The `amo` number of a read-modify-write instruction (R135, R137). -/
def amoOp : Instr → Option Nat
  | .amoSwap .. => some 0 | .amoCas .. => some 1 | .amoAdd .. | .redAdd .. => some 2
  | .amoFadd .. | .redFadd .. => some 3 | .amoMin .. | .redMin .. => some 4
  | .amoMax .. | .redMax .. => some 5 | .amoAnd .. | .redAnd .. => some 6
  | .amoOr .. | .redOr .. => some 7 | .amoXor .. | .redXor .. => some 8
  | _ => none

/-- The arguments of a reduction. -/
def redArgs : Instr → Option RedArgs
  | .redAdd _ x | .redFadd _ x | .redMin _ x | .redMax _ x | .redAnd _ x | .redOr _ x
  | .redXor _ x => some x
  | _ => none

/-- The home and key slot of a request that has been sent. -/
def Out.dpa (o : Out) : Nat := (o.caps.getD 2 0).toNat
def Out.keyid (o : Out) : Nat := (o.caps.getD 3 0).toNat

/-- A write performed at the home, logged where the log runs (R131, R295). -/
def State.homeWrite (s : State) (c : CtxId) (o : Out) (n : Nat) (v : W64) : State :=
  let vd := s.vdOfCtx c
  let key := s.key o.keyid
  let s := s.flushHome o.dpa n
  let s := if s.logging vd then
      s.logLine vd (vaNat o.addr / 64) o.dpa (s.sheafOf c.sheaf).sheafid key else s
  s.devWrite key o.dpa (toBytes n v.toNat)

/-- The value at a request's home; U lines of it are combined first (R137). -/
def State.homeRead (s : State) (o : Out) (n : Nat) : W64 := word64 (s.devRead (s.key o.keyid) o.dpa n)

/-- Whether a global access of a context comes after one that its core issued in the same cycle for a context of lower CTXID,
to one of the same bytes, which is still to be performed (R95, R255). -/
def State.behind (s : State) (c : CtxId) (o : Out) : Bool :=
  let width (i : Instr) : Nat := ((globalNeeds i).map fun p => p.2).getD 0
  s.ctxs.any fun e => e.1.sheaf == c.sheaf && e.1.grain == c.grain && decide (e.1.ctx < c.ctx) &&
    e.2.out.any fun p => p.cycle == o.cycle && (p.stage == .accepted || p.stage == .sent) &&
      decide (vaNat p.addr < vaNat o.addr + width o.instr) && decide (vaNat o.addr < vaNat p.addr + width p.instr)

def isLdg : Instr → Bool
  | .ldg .. => true
  | _ => false

/-- Whether a request at its home waits for log space: for the record of its own write, or of the U lines that it combines
first (R296). -/
def State.homeWaits (s : State) (c : CtxId) (o : Out) : Bool :=
  s.homeHeld o.dpa (((globalNeeds o.instr).map Prod.snd).getD 1) ||
    (!isLdg o.instr && s.logHeld (s.vdOfCtx c) [vaNat o.addr / 64])

/-- The U lines of a quad that the application of a reduction combines: a line of the location held for another operation
or width, and the least recently updated one where the window needs the entry (R137). -/
def State.redLeaves (s : State) (quad line op : Nat) (dw : Bool) (q : Nat) (u : ULine) : Bool :=
  let ls := (s.quadOf quad).ulines
  q == quad && (if u.dpa = line then !(u.op == op && u.dw == dw)
    else !(ls.any fun u => u.dpa == line) && decide (s.rwl quad ≤ ls.length) && (ls.head?.map fun l => l.dpa) == some u.dpa)

/-- Applies a reduction to the issuing quad's window, evicting the least recently updated line (R137). A
line held for another operation or width is combined first (DEDUCED, entry 12). -/
def State.applyRed (s : State) (c : CtxId) (o : Out) (op : Nat) (x : RedArgs) (b : W64) : State :=
  let quad := (s.coreOfCtx c) / 4
  let line := o.dpa / 64 * 64
  let same (u : ULine) : Bool := u.dpa == line
  let s := s.flushU (s.redLeaves quad line op x.dw)
  let old := (s.quadOf quad).ulines.find? same
  let u : ULine := old.getD ⟨s.vdOfCtx c, vaNat o.addr / 64 * 64, line, o.keyid, op, x.dw, [], []⟩
  let off := o.dpa % 64
  let v := (amoValue op x.dw (Tab.getD u.vals off (redIdentity op x.dw)) b 0).1
  let u := { u with vals := Tab.put u.vals off v, by_ := if u.by_.contains c then u.by_ else c :: u.by_ }
  s.updQuad quad fun q => { q with ulines := (q.ulines.filter fun l => !same l) ++ [u] }

/-- A memory request is translated and checked, and sent in its circuit's slot (R131, R342). A reduction
with a window is applied there, once the log has room for the line that it evicts (R296). -/
def State.inject (s : State) (c : CtxId) : State :=
  match s.outOf c with
  | none => s
  | some o =>
    match globalNeeds o.instr, o.stage with
    | some (k, _), .accepted =>
      if s.behind c o then s
      else match s.translate (some (s.coreOfCtx c)) (s.vdOfCtx c) o.addr k with
      | (s, .error f) => s.recordFail c f o.addr k
      | (s, .ok x) =>
        match coreFormat x with
        | some f => s.recordFail c f o.addr k
        | none =>
          let o' := { o with
            stage := .sent
            caps := [o.caps.getD 0 0, o.caps.getD 1 0, BitVec.ofNat 64 x.dpa, BitVec.ofNat 64 x.keyid] }
          match redArgs o.instr, amoOp o.instr with
          | some r, some op =>
            let quad := s.coreOfCtx c / 4
            if s.rwl quad = 0 then s.updOut c fun _ => o'
            else if s.combineHeld (s.redLeaves quad (o'.dpa / 64 * 64) op r.dw) then s
            else
              let s := (s.applyRed c o' op r (o.caps.getD 0 0)).finish c o.tag 0
              -- behind a wide fence the partial value is combined before the fence completes
              if ((s.ctx c).map fun x => x.fenceWide).getD false then s.flushU fun _ u => u.by_.contains c else s
          | _, _ => s.updOut c fun _ => o'
    | _, _ => s

def execMemRequestInject (c : CtxId) (s : State) : Out3 := .next (s.inject c)

/-- An uncorrectable error at the home of a request (R124, R136, R323). -/
def State.homeError (s : State) (c : CtxId) (o : Out) : State :=
  s.recorded c Cause.memoryError (s.hbmSyndrome false o.dpa) o.addr false

/-- WAITVA of a launch record (R262). -/
def Sheaf.waitVa (h : Sheaf) : W64 := h.word 0x30

/-- Reads the signal at WAITVA of a waiting sheaf, an acquire at `.sys` (R267). -/
def State.pollWait (s : State) (n : Nat) : State :=
  let h := s.sheafOf n
  if h.st ≠ .waitsig then s
  else
    let r := s.gread none h.vd h.waitVa 8
    let s := r.1.updSheaf n fun h => { h with waitPolled := s.slot }
    match r.2 with
    | .ok bs => if word64 bs = 0 then s.updSheaf n fun h => { h with st := .pending } else s
    | .error _ => s

/-- Reads every signal that a sheaf of a virtual device waits on (R267). -/
def State.pollVd (s : State) (vd : Nat) : State :=
  s.sheaves.foldl (fun s e => if e.2.vd = vd then s.pollWait e.1 else s) s

/-- The response of a request: a load is read at its home and its data is on the way back; `sig.dec` and a
reduction without a window are performed (R131, R137, R220). After a decrement the signals that sheaves wait on are read
(R267). -/
def State.respond (s : State) (c : CtxId) : State :=
  match s.outOf c with
  | none => s
  | some o =>
    if o.stage ≠ .sent ∨ s.behind c o ∨ s.homeWaits c o then s
    else match o.instr with
      | .ldg _ _ sz uns _ =>
        let n := sizeBytes sz
        let s := s.flushHome o.dpa n
        if s.hbmPoisoned o.dpa n then s.homeError c o
        else (s.updOut c fun o => { o with stage := .answered, caps := [s.homeRead o n] }).updCtx c fun x =>
          x.learn o.tag (extend sz uns (s.homeRead o n))
      | .sigDec .. =>
        let s := s.flushHome o.dpa 8
        if s.hbmPoisoned o.dpa 8 then s.homeError c o
        else
          let old := s.homeRead o 8
          let b := o.caps.getD 0 0
          (((s.homeWrite c o 8 (if b.toNat ≤ old.toNat then old - b else 0)).finish c o.tag 0
            (fIf (decide (old.toNat < b.toNat)) fSAT)).unlogged c).pollVd (s.vdOfCtx c)
      | i =>
        match redArgs i, amoOp i with
        | some r, some op =>
          let n := if r.dw then 8 else 4
          let s := s.flushHome o.dpa n
          if s.hbmPoisoned o.dpa n then s.homeError c o
          else
            let v := (amoValue op r.dw (s.homeRead o n) (o.caps.getD 0 0) 0).1
            (s.homeWrite c o n v).finish c o.tag 0
        | _, _ => s

def execMemResponse (c : CtxId) (s : State) : Out3 := .next (s.respond c)

/-- The data of a global load returns and its result is written (R131). -/
def State.loadReturn (s : State) (c : CtxId) : State :=
  match s.outOf c with
  | none => s
  | some o =>
    match o.instr, o.stage with
    | .ldg _ _ sz uns _, .answered => s.finish c o.tag (extend sz uns (o.caps.getD 0 0))
    | _, _ => s

def execGlobalLoadReturn (c : CtxId) (s : State) : Out3 := .next (s.loadReturn c)

/-- A global store is performed at its home and completes (R131). -/
def State.storeHome (s : State) (c : CtxId) : State :=
  match s.outOf c with
  | none => s
  | some o =>
    match o.instr, o.stage with
    | .stg _ _ sz _ _, .sent => if s.homeWaits c o || s.behind c o then s else (s.homeWrite c o (sizeBytes sz) (o.caps.getD 0 0)).finish c o.tag 0
    | _, _ => s

def execStgHomePerform (c : CtxId) (s : State) : Out3 := .next (s.storeHome c)

/-! ### Full/empty bits (R134) -/

/-- `ldsync` and `ldsync.c`: wait while EMPTY; the bit is cleared in the issue cycle. -/
def State.ldsyncBody (s : State) (h : Head) (m : MemOp) (clear : Bool) : State :=
  let ea := s.ea m
  let s := s.unfence
  if s.fenced || s.acqHeld then s.stall
  else match s.localCheck .sync ea 4 with
    | .bad c d => s.exact c d ea (localRestart c)
    | .hold k => s.holdAt k
    | .sleep p => s.bankStall p 4
    | .mem p lat =>
      if s.accessHeld p 4 then s.stall
      else if !s.isFull p then s.park 1
      else if s.lPoisoned p 4 then s.exact Cause.memoryError (s.localSyndrome 0 p 4) ea
      else
        let v := s.lread p 4
        let s := s.settle 3 (p / 4)
        let s := if clear then s.setFe p false else s
        (s.advance m).doneL h 8 lat v
    | _ => s.exact Cause.localAddress 5 ea

def execLdsync (h : Head) (m : MemOp) (s : State) : Out3 := issue h 8 s (s.ldsyncBody h m false)
def execLdsyncC (h : Head) (m : MemOp) (s : State) : Out3 := issue h 8 s (s.ldsyncBody h m true)

/-- The checks of `stfull` and `setempty`, which stall on the scoreboard (R134, R211). -/
def State.feStore (s : State) (m : MemOp) (act : State → Nat → State) : State :=
  let ea := s.ea m
  let s := s.unfence
  if s.fenced then s.stall
  else match s.localCheck .syncw ea 4 with
    | .bad c d => s.exact c d ea (localRestart c)
    | .hold k => s.holdAt k
    | .sleep p => s.bankStall p 4
    | .mem p _ =>
      if s.accessHeld p 4 || s.srcHeld p 4 || s.storeHeld s.myTile p 4 then s.stall
      else ((act s p).advance m).doneN 8
    | _ => s.exact Cause.localAddress 5 ea

/-- `stfull` is a release at `.quad`, held under R204. -/
def execStfull (h : Head) (m : MemOp) (b : Src) (s : State) : Out3 :=
  let v := s.src 2 b
  issue h 8 s (if s.relBusy s.cur then s.stall
    else s.feStore m fun s p =>
      let t := (s.lwrite p 4 v).setFe p true
      -- a write that finds the word FULL ends no wait
      if s.isFull p then t else t.wakeTag s.cur.sheaf 3 (p / 4) (s.quantumOf s.cur))

def execSetempty (h : Head) (m : MemOp) (s : State) : Out3 :=
  issue h 8 s (s.feStore m fun s p => s.setFe p false)

/-! ### Bank power (R129, R130) -/

/-- Whether an address or a word index lies in a bank of a core's slice. -/
def inBank (core bank a : Nat) : Bool := a / 2 ^ 19 == core && bankOf a == bank
def wordInBank (core bank w : Nat) : Bool := inBank core bank (4 * w)

/-- A bank loses its contents: it then reads as zeros, and its full/empty bits as EMPTY (R129, R130). -/
def State.clearBank (s : State) (core bank : Nat) : State :=
  { s with
    lmem := s.lmem.filter fun e => !inBank core bank e.1
    fe := s.fe.filter fun e => !wordInBank core bank e.1
    dev := { s.dev with
      poisonLmem := s.dev.poisonLmem.filter fun w => !wordInBank core bank w
      unmarked := s.dev.unmark 0 (wordInBank core bank) } }

/-- The state code of a bank set to a value. -/
def Core.setBank (c : Core) (bank code : Nat) : Core :=
  let k := bank / 32
  let w := putBits (c.bankpwr.toList.getD k 0) (2 * (bank % 32) + 1) (2 * (bank % 32)) code
  { c with bankpwr := if h : k < 8 then c.bankpwr.set k w else c.bankpwr }

/-- Whether a physical range touches a bank. -/
def touchesBank (core bank : Nat) (r : Nat × Nat) : Bool :=
  (List.range (min 257 ((r.1 + r.2 + 3) / 4 - r.1 / 4))).any fun i => inBank core bank (r.1 / 4 * 4 + 4 * i)

/-- The entry that a `rqput` with a reservation is to be delivered to. -/
def State.deliveryRange (s : State) (c : CtxId) (o : Out) : Option (Nat × Nat) :=
  match o.instr, o.stage with
  | .rqput .., .sent => let t := s.rqTarget c (o.caps.getD 0 0); some (s.entryPhys t.1 t.2 o.aux, 64)
  | _, _ => none

/-- Whether an access is stalled on a bank, or in progress there: a core access or a command that waits at issue for a wake, a
peer load, a delivery, or a vector instruction that is still to write (R130). -/
def State.bankInUse (s : State) (core bank : Nat) : Bool :=
  (s.ctxs.any fun e => (e.2.wait == .stalled && e.2.bankWait.any (touchesBank core bank)) ||
    e.2.out.any fun o => (s.peerRange e.1 o).any (touchesBank core bank) ||
      (s.deliveryRange e.1 o).any (touchesBank core bank)) ||
  s.quads.any fun q => q.2.vops.any fun v => v.dests.any (touchesBank core bank)

/-- A bank goes OFF: its contents are lost (R129). -/
def State.bankOff (s : State) (core bank : Nat) : State :=
  (s.updCore core fun c => { c.setBank bank 2 with
    waking := Tab.del c.waking bank
    goingOff := c.goingOff.filter (· != bank) }).clearBank core bank

/-- A bank whose change to OFF waited goes OFF once no earlier access needs it (R130; DEDUCED, entry 98). -/
def State.offStep (s : State) (core bank : Nat) : State :=
  if (s.coreOf core).goingOff.contains bank && !s.bankInUse core bank then s.bankOff core bank else s

/-- One bank's part of a write of BANKPWRk (R129, R130). A change to OFF comes after the accesses that are stalled on the
bank or in progress there. An OFF bank that is set to RET is in RET at once, holding zeros (DEDUCED, entry 47). -/
def State.bankWrite (s : State) (core bank code : Nat) : State :=
  let c := s.coreOf core
  let old := c.bankCode bank
  if code = 3 then s
  else if code = 2 then
    if old = 2 then s
    else if s.bankInUse core bank then
      s.updCore core fun c => { c with goingOff := bank :: c.goingOff.filter (· != bank) }
    else s.bankOff core bank
  else if code = old then s.updCore core fun c => { c with goingOff := c.goingOff.filter (· != bank) }
  else
    let s := s.updCore core fun c => { c with goingOff := c.goingOff.filter (· != bank) }
    let s := s.updCore core fun c => c.setBank bank code
    if old = 2 ∧ code = 0 then
      s.updCore core fun c => { c with waking := Tab.put c.waking bank (s.cycleOf (core / 4) + 64) }
    else s.updCore core fun c => { c with waking := Tab.del c.waking bank }

/-- A write of BANKPWRk of a core (R130). -/
def State.bankpwrWrite (s : State) (core k : Nat) (v : W64) : State :=
  (List.range 32).foldl (fun s j => s.bankWrite core (32 * k + j) (bits v (2 * j + 1) (2 * j))) s

def execBankpwrWrite (core : Nat) (k : Fin 8) (v : W64) (s : State) : Out3 :=
  .next (s.bankpwrWrite core k.val v)

/-- A bank finishes its wake. It does nothing before the wake's due cycle. -/
def State.wakeDone (s : State) (core bank : Nat) (ret : Bool) : State :=
  let c := s.coreOf core
  match Tab.find c.waking bank with
  | none => s
  | some due =>
    if due ≤ s.cycleOf (core / 4) ∧ (c.bankCode bank == 1) = ret then
      s.updCore core fun c => { (if ret then c.setBank bank 0 else c) with waking := Tab.del c.waking bank }
    else s

def execBankWakeDone (core bank : Nat) (s : State) : Out3 := .next (s.wakeDone core bank false)
def execRetBankWake (core bank : Nat) (s : State) : Out3 := .next (s.wakeDone core bank true)

end Sys2Proof.Machine
end

