-- ==== Sys2Proof/Machine/Atomics.lean ====
section
/-! DEFINITION. Atomics, update-only reductions and fences (05 R132, R135 to R137). -/

namespace Sys2Proof.Machine

/-! ### Atomics (R135, R136) -/

/-- The checks of a local atomic, and its read-modify-write at issue with latency 6. -/
def State.amoLocal (s : State) (h : Head) (op : Nat) (x : AmoArgs) (ea b c : W64) : State :=
  let n := if x.dw then 8 else 4
  match s.localCheck .amo ea n with
  | .bad k d => s.exact k d ea (localRestart k)
  | .hold k => s.holdAt k
  | .sleep p => s.bankStall p n
  | .mem p _ =>
    if s.accessHeld p n || s.srcHeld p n || s.storeHeld s.myTile p n then s.stall
    else if s.lPoisoned p n then s.exact Cause.memoryError (s.localSyndrome 0 p n) ea
    else
      let old := s.lread p n
      let r := amoValue op x.dw old b c
      ((s.releaseOpt x.scope).lwrite p n r.1).doneL h 8 6 old r.2
  | _ => s.exact Cause.localAddress 5 ea

/-- An atomic: with a scope it is a release, held under R204; with G = 1 it runs at the home. -/
def State.amoBody (s : State) (h : Head) (i : Instr) (op : Nat) (x : AmoArgs) (c : W64) : State :=
  let ea := s.me.a[x.p]
  let b := s.src 2 x.b
  let s := s.unfence
  if s.fenced || (x.scope.isSome && s.relBusy s.cur) || s.relLog x.scope then s.stallRel x.scope
  else if x.glob then
    if s.rcBusy then s.stall
    else s.globalCheck ea (if x.dw then 8 else 4) ((s.releaseOpt x.scope).startL i h 8 ea [b, c])
  else s.amoLocal h op x ea b c

def execAmoSwap (h : Head) (x : AmoArgs) (s : State) : Out3 := issue h 8 s (s.amoBody h (.amoSwap h x) 0 x 0)
def execAmoCas (h : Head) (x : AmoArgs) (c : Src) (s : State) : Out3 :=
  issue h 8 s (s.amoBody h (.amoCas h x c) 1 x (s.src 3 c))
def execAmoAdd (h : Head) (x : AmoArgs) (s : State) : Out3 := issue h 8 s (s.amoBody h (.amoAdd h x) 2 x 0)
def execAmoFadd (h : Head) (x : AmoArgs) (s : State) : Out3 := issue h 8 s (s.amoBody h (.amoFadd h x) 3 x 0)
def execAmoMin (h : Head) (x : AmoArgs) (s : State) : Out3 := issue h 8 s (s.amoBody h (.amoMin h x) 4 x 0)
def execAmoMax (h : Head) (x : AmoArgs) (s : State) : Out3 := issue h 8 s (s.amoBody h (.amoMax h x) 5 x 0)
def execAmoAnd (h : Head) (x : AmoArgs) (s : State) : Out3 := issue h 8 s (s.amoBody h (.amoAnd h x) 6 x 0)
def execAmoOr (h : Head) (x : AmoArgs) (s : State) : Out3 := issue h 8 s (s.amoBody h (.amoOr h x) 7 x 0)
def execAmoXor (h : Head) (x : AmoArgs) (s : State) : Out3 := issue h 8 s (s.amoBody h (.amoXor h x) 8 x 0)

/-- The width of a global atomic. -/
def amoWide : Instr → Option Bool
  | .amoSwap _ x | .amoCas _ x _ | .amoAdd _ x | .amoFadd _ x | .amoMin _ x | .amoMax _ x
  | .amoAnd _ x | .amoOr _ x | .amoXor _ x => some x.dw
  | _ => none

/-- The home performs a global atomic and replies: the result is the old value, and a failed read writes
nothing (R135, R136). It does nothing where no atomic of the context is on its way. -/
def State.amoReply (s : State) (c : CtxId) : State :=
  match s.outOf c with
  | none => s
  | some o =>
    match amoWide o.instr, amoOp o.instr, o.stage with
    | some dw, some op, .sent =>
      if s.homeWaits c o || s.behind c o then s else
      let n := if dw then 8 else 4
      let s := s.flushHome o.dpa n
      if s.hbmPoisoned o.dpa n then s.homeError c o
      else
        let old := s.homeRead o n
        let r := amoValue op dw old (o.caps.getD 0 0) (o.caps.getD 1 0)
        (s.homeWrite c o n r.1).finish c o.tag old r.2
    | _, _, _ => s

def execAmoHomeReply (c : CtxId) (s : State) : Out3 := .next (s.amoReply c)

/-! ### Reductions (R137) -/

/-- A reduction issues with the checks of R131; it is applied when its translation is known. -/
def State.redBody (s : State) (i : Instr) (x : RedArgs) : State :=
  let ea := s.me.a[x.p]
  let b := s.src 2 x.b
  let s := s.unfence
  if s.fenced || s.rcBusy then s.stall
  else s.globalCheck ea (if x.dw then 8 else 4) (s.startN i 8 ea [b])

def execRedAdd (h : Head) (x : RedArgs) (s : State) : Out3 := issue h 8 s (s.redBody (.redAdd h x) x)
def execRedFadd (h : Head) (x : RedArgs) (s : State) : Out3 := issue h 8 s (s.redBody (.redFadd h x) x)
def execRedMin (h : Head) (x : RedArgs) (s : State) : Out3 := issue h 8 s (s.redBody (.redMin h x) x)
def execRedMax (h : Head) (x : RedArgs) (s : State) : Out3 := issue h 8 s (s.redBody (.redMax h x) x)
def execRedAnd (h : Head) (x : RedArgs) (s : State) : Out3 := issue h 8 s (s.redBody (.redAnd h x) x)
def execRedOr (h : Head) (x : RedArgs) (s : State) : Out3 := issue h 8 s (s.redBody (.redOr h x) x)
def execRedXor (h : Head) (x : RedArgs) (s : State) : Out3 := issue h 8 s (s.redBody (.redXor h x) x)

/-! ### Fences (R132) -/

/-- A fence issues at once and holds the context's later memory instructions; `wide` says that it combines U lines. -/
def State.fenceBody (s : State) (wide : Bool) : State :=
  (s.updMe fun c => { c with fence := true, fenceWide := c.fenceWide || wide }).doneN 8

/-- A full or `.rel` fence combines the context's U lines at its wide scopes (R137). -/
def execFence (h : Head) (sc : Scope) (s : State) : Out3 :=
  issue h 8 s (if s.relLog (some sc) then s.stallRel (some sc) else (s.release sc).fenceBody (wideScope sc))
def execFenceAcq (h : Head) (_sc : Scope) (s : State) : Out3 := issue h 8 s (s.fenceBody false)
def execFenceRel (h : Head) (sc : Scope) (s : State) : Out3 :=
  issue h 8 s (if s.relLog (some sc) then s.stallRel (some sc) else (s.release sc).fenceBody (wideScope sc))

end Sys2Proof.Machine
end

