-- ==== Sys2Proof/Machine/Barriers.lean ====
section
/-! DEFINITION. Domains (10 R259 to R261), domain barriers (05 R139 to R142, 10 R271), ring rotation (R154)
and event fires (R144). -/

namespace Sys2Proof.Machine

/-! ### Domains (R259, R260) -/

/-- The DOMAINS field of a level below 4: grains per domain, 0 for none. -/
def Sheaf.levField (h : Sheaf) (k : Nat) : Nat :=
  match k with
  | 1 => bits (h.word 0x20) 11 0
  | 2 => bits (h.word 0x20) 27 16
  | _ => bits (h.word 0x20) 43 32

/-- Grains of a domain of a level (R259). -/
def Sheaf.levSize (h : Sheaf) (k : Nat) : Nat :=
  let l1 := h.levField 1
  let l2 := h.levField 2
  let l3 := h.levField 3
  let s3 := if l3 ≠ 0 then l3 else h.grains
  let s2 := if l2 ≠ 0 then l2 else s3
  match k with
  | 1 => if l1 ≠ 0 then l1 else s2
  | 2 => s2
  | 3 => s3
  | _ => h.grains

/-- Whether a level is VALID (R259). -/
def Sheaf.levValid (h : Sheaf) (k : Nat) : Bool :=
  match k with
  | 1 => h.levField 1 != 0
  | 2 => h.levField 1 != 0 || h.levField 2 != 0
  | 3 => h.levField 1 != 0 || h.levField 2 != 0 || h.levField 3 != 0
  | _ => true

/-- Number of domains of a level. -/
def Sheaf.levCount (h : Sheaf) (k : Nat) : Nat :=
  if h.levValid k then h.grains / max 1 (h.levSize k) else 0

/-- First virtual domain number of a level (R260). -/
def Sheaf.levOff (h : Sheaf) (k : Nat) : Nat :=
  match k with
  | 1 => 1 + h.levCount 3 + h.levCount 2
  | 2 => 1 + h.levCount 3
  | 3 => 1
  | _ => 0

/-- Domains of the sheaf. -/
def Sheaf.domCount (h : Sheaf) : Nat := h.levOff 1 + h.levCount 1

/-- Virtual domain number of a grain at a level (R260). -/
def Sheaf.domNum (h : Sheaf) (k grain : Nat) : Nat := h.levOff k + grain / max 1 (h.levSize k)

/-- DOMMASK of a grain (R35, R260). -/
def Sheaf.dommask (h : Sheaf) (grain : Nat) : W64 :=
  let f (k : Nat) : Nat := if h.levValid k then 0x8000 + h.domNum k grain else 0
  BitVec.ofNat 64 (f 1 + f 2 * 2 ^ 16 + f 3 * 2 ^ 32 + f 4 * 2 ^ 48)

/-- The level of a virtual domain number. -/
def Sheaf.domLevel (h : Sheaf) (n : Nat) : Nat :=
  if n = 0 then 4
  else if n < h.levOff 2 then 3
  else if n < h.levOff 1 then 2
  else 1

/-- The domain that the executing grain uses at a level, when the level is VALID (R36). -/
def Grain.dom (g : Grain) (k : Nat) : Option Nat :=
  if bit g.dommask (16 * k - 1) then some (bits g.dommask (16 * k - 2) (16 * (k - 1))) else none

def State.domOf (s : State) (sheaf n : Nat) : Dom := Tab.getD (s.sheafOf sheaf).doms n ⟨0, 0, 0, 0⟩
def State.updDom (s : State) (sheaf n : Nat) (f : Dom → Dom) : State :=
  s.updSheaf sheaf fun h => { h with doms := Tab.updD h.doms n ⟨0, 0, 0, 0⟩ f }

/-! ### Arrivals -/

/-- A barrier level as an index. -/
def lvlNum (l : Fin 4) : Nat := l.val + 1

/-- Phase of the barrier that a context's grain uses at a level. -/
def State.phaseOf (s : State) (c : CtxId) (k : Nat) : Nat :=
  let g := (s.grainOf c).getD Grain.zero
  (s.domOf c.sheaf ((g.dom k).getD 0)).phase

/-- The level of a barrier instruction. -/
def barLevel : Instr → Option (Fin 4)
  | .barArv _ l | .barSync _ l => some l
  | .barWait _ _ l => some l
  | _ => none

/-- The logical quantum of a barrier instruction that arrives: at its issue (R279). -/
def State.barQuantum (s : State) (c : CtxId) : Nat :=
  match (s.ctx c).bind fun x => x.out with
  | some o => o.quantum
  | none => s.quantumOf c

/-- An arrival of a context's grain is performed: it is counted, and it is a release at `.dom`. Held arrivals
of the grain's other contexts then count toward the next phase (R140, R142). -/
def State.arrive (s : State) (c : CtxId) (l : Fin 4) : State :=
  let k := lvlNum l
  let g := (s.grainOf c).getD Grain.zero
  let n := (g.dom k).getD 0
  let s := s.flushU fun _ u => u.by_.contains c
  let s := s.updGrainOf c fun g => { g with arrived := g.arrived.set l true }
  let q := s.barQuantum c
  let s := s.updDom c.sheaf n fun d => { d with arrived := d.arrived + 1, tag := max d.tag q }
  let p := (s.domOf c.sheaf n).phase
  { s with ctxs := s.ctxs.map fun e =>
      if e.1.sheaf = c.sheaf ∧ e.1.grain = c.grain ∧ e.1 ≠ c then
        (e.1, { e.2 with out := e.2.out.map fun o =>
          if o.stage = .heldArrival ∧ barLevel o.instr = some l then { o with prog := (p + 1) % 2 ^ 32 } else o })
      else e }

/-- The checks and waits common to `bar.arv` and `bar.sync` (R36, R140, R271). -/
def State.arriveCheck (s : State) (l : Fin 4) (go : State → State) : State :=
  let k := lvlNum l
  let s := s.unfence
  if (s.grain.dom k).isNone then s.exact Cause.barrierLevel 1
  else if k = 4 ∧ s.sheaf.gangMissing then s.exact Cause.gangMissing 1
  else if s.fenced || s.rcBusy || s.vecBusy s.cur || s.firing s.cur || s.relLog (some .dom) then s.stallRel (some .dom)
  else if s.grain.arrived[l] then s.park 4
  else go (s.settle 1 ((s.grain.dom k).getD 0))

/-- `bar.arv`: the arrival at issue, or held behind the context's commands (R139, R142). -/
def execBarArv (h : Head) (l : Fin 4) (s : State) : Out3 :=
  issue h 8 s <| s.arriveCheck l fun s =>
    let p := s.phaseOf s.cur (lvlNum l)
    if s.cmdPending s.cur then
      let s := s.startL (.barArv h l) h 8 0 [] [] .heldArrival
      s.updOut s.cur fun o => { o with prog := p, held := true }
    else (s.arrive s.cur l).doneL h 8 4 (BitVec.ofNat 64 p)

/-- `bar.sync` (R139, R142). -/
def execBarSync (h : Head) (l : Fin 4) (s : State) : Out3 :=
  issue h 8 s <| s.arriveCheck l fun s =>
    let p := s.phaseOf s.cur (lvlNum l)
    if s.cmdPending s.cur then
      let s := s.startL (.barSync h l) h 8 0 [] [] .heldArrival
      s.updOut s.cur fun o => { o with prog := p, held := true }
    else
      let s := (s.arrive s.cur l).startL (.barSync h l) h 8 0 [] [] .waiting
      s.updOut s.cur fun o => { o with prog := p }

/-- `bar.wait` (R141); a gang that has met a MISSING answer never completes its level-4 phase (R271). -/
def execBarWait (h : Head) (t : Src) (l : Fin 4) (s : State) : Out3 :=
  let k := lvlNum l
  let tok := bits (s.src 1 t) 31 0
  issue h 8 s <|
    let s := s.unfence
    match s.grain.dom k with
    | none => s.exact Cause.barrierLevel 1
    | some n =>
      if s.fenced || s.acqHeld then s.stall
      else
        let d := (s.phaseOf s.cur k + 2 ^ 32 - tok) % 2 ^ 32
        if k = 4 ∧ s.sheaf.gangMissing ∧ (d = 0 ∨ 2 ^ 31 ≤ d) then s.exact Cause.gangMissing 2
        else if d = 0 then s.park 4
        else if d = 1 then (s.settle 1 n).doneL h 8 2 0
        else if d < 2 ^ 31 then (s.settle 1 n).doneL h 8 2 1
        else s.exact Cause.barrierToken 1

/-- Whether a context waits behind a `bar.sync` whose phase has not completed, one that it completes after a resume too
(R32, R123, R142). -/
def Ctx.behindSync (x : Ctx) : Bool :=
  (x.pend.any (fun p => decide (p.la ≤ p.dist)) || x.wait == .stalled || x.resuming) && match x.out with
    | some o => o.stage == .waiting && match o.instr with
      | .barSync .. => true
      | _ => false
    | none => false

/-- A `bar.sync` receives its result, the phase, two core cycles later; a context parked behind it goes on with the quantum
of the phase's completion (R142, R279). -/
def State.syncResult (s : State) (c : CtxId) (o : Out) (dom phase : Nat) : State :=
  let s := if ((s.ctx c).map Ctx.behindSync).getD false then s.raise c 1 dom else s
  s.fixResult c o.tag (BitVec.ofNat 64 phase) (s.cycleOfCtx c + 2)

/-- A context whose level-4 `bar.sync`, or held arrival, meets MISSING: the arrival is not counted, and the instruction
is taken back. If younger instructions have issued, it is recorded instead (DEDUCED, entry 19). -/
def State.missArrival (s : State) (c : CtxId) : State :=
  match s.outOf c with
  | none => s
  | some o =>
    match barLevel o.instr with
    | some 3 =>
      let counted := o.stage == .waiting
      let s := if counted then
          (s.updDom c.sheaf 0 fun d => { d with arrived := d.arrived - 1 }).updGrainOf c fun g =>
            { g with arrived := g.arrived.set 3 false }
        else s
      let x := (s.ctx c).getD Ctx.zero
      let p := x.pend.find? fun p => p.tag == o.tag
      if p.all fun p => p.dist == 0 then
        let pushed := o.dst != .none
        let q := if pushed then Vector.ofFn fun i : Fin 16 => x.q.toList.getD ((i.val + 1) % 16) 0 else x.q
        let back (n : Nat) : Nat := if pushed then n - 1 else n
        let s := s.updCtx c fun x => { x with
          out := none
          resuming := false
          pc := o.pc
          q := q
          pq := back x.pq
          pend := (x.pend.filter fun p => p.tag != o.tag).map fun p => { p with age := back p.age } }
        s.takeTrap c ⟨Cause.gangMissing, 1, 0, false, false, 0⟩ o.pc
      else s.recorded c Cause.gangMissing 1 0 false
    | _ => s

/-- Whether the level of a barrier instruction is 4 and the gang has met a MISSING answer: its phase never completes (R271). -/
def State.missed (s : State) (c : CtxId) (l : Fin 4) : Bool := lvlNum l == 4 && (s.sheafOf c.sheaf).gangMissing

/-- A held arrival is performed once the commands it waits for have completed, and its combination of U lines has log space
(R296); a `bar.sync` whose phase completed while it was recorded gets its result (R142). One at level 4 that a MISSING answer
has overtaken, while it was recorded too, takes its trap (R271). -/
def State.performHeld (s : State) (c : CtxId) : State :=
  match s.outOf c with
  | none => s
  | some o =>
    match barLevel o.instr, o.stage with
    | some l, .heldArrival =>
      let g := (s.grainOf c).getD Grain.zero
      if s.missed c l then s.missArrival c
      else if s.cmdPending c || g.arrived[l] then s
      else if s.combineHeld (fun _ u => u.by_.contains c) then s.waitLog (s.vdOfCtx c)
      else
        let p := s.phaseOf c (lvlNum l)
        let s := s.arrive c l
        match o.instr with
        | .barSync .. => s.updOut c fun o => { o with stage := .waiting, held := false, prog := p }
        | _ => s.fixResult c o.tag (BitVec.ofNat 64 p) (s.cycleOfCtx c + 4)
    | some l, .waiting =>
      if s.phaseOf c (lvlNum l) = o.prog then (if s.missed c l then s.missArrival c else s)
      else s.syncResult c o ((((s.grainOf c).getD Grain.zero).dom (lvlNum l)).getD 0) o.prog
    | _, _ => s

def execHeldArrivalPerform (c : CtxId) (s : State) : Out3 := .next (s.performHeld c)

/-! ### Phase completion (R261, R154) -/

/-- The rings of a core bound to a level rotate, and its grain has arrived at that level no more. -/
def Grain.rotate (g : Grain) (k : Nat) : Grain :=
  { g with
    rings := g.rings.map fun r => r.map fun r =>
      if r.level = k then { r with sp := (r.sp + 1) % max 1 r.n } else r
    arrived := Vector.ofFn fun i : Fin 4 => if i.val + 1 = k then false else g.arrived[i] }

/-- Whether a grain belongs to a domain of its sheaf. -/
def Sheaf.inDom (h : Sheaf) (n grain : Nat) : Bool := h.domNum (h.domLevel n) grain == n

/-- Whether a phase is complete: every grain has arrived and no byte is pending; at level 4 of a gang the
package has sent its arrivals, and every other member package has too (R261, R270, R271). -/
def State.phaseReady (s : State) (sheaf n : Nat) : Bool :=
  let h := s.sheafOf sheaf
  let d := s.domOf sheaf n
  let k := h.domLevel n
  h.st == .running && h.levValid k && decide (0 < h.levSize k) && d.arrived == h.levSize k && d.pend == 0 &&
    (k != 4 || !bit (h.word 0x28) 4 || (!h.gangMissing && h.gangSent &&
      h.gangArrived.eraseDups.length == bits (s.ctl h.vd (rGANG (bits (h.word 0x28) 3 0))) 37 32))

/-- A phase completes: PHASE advances, rings rotate, and every `bar.sync` that waits for it receives its
result two core cycles later (R139, R142, R154, R261). It does nothing while the phase is not complete. -/
def State.phaseComplete (s : State) (sheaf n : Nat) : State :=
  if !s.phaseReady sheaf n then s
  else
    let h := s.sheafOf sheaf
    let k := h.domLevel n
    let d := s.domOf sheaf n
    let s := s.wakeTag sheaf 1 n d.tag
    let s := s.updDom sheaf n fun d => ⟨(d.phase + 1) % 2 ^ 32, 0, d.pend, 0⟩
    let s := if k = 4 then s.updSheaf sheaf fun h => { h with
        gangArrived := h.gangArrived.eraseDups.foldl (fun l p => l.erase p) h.gangArrived
        gangSent := false } else s
    let mine (sh g : Nat) : Bool := sh == sheaf && h.inDom n g
    let next (e : (Nat × Nat) × Grain) : (Nat × Nat) × Grain :=
      if mine e.1.1 e.1.2 then (e.1, e.2.rotate k) else e
    let s := { s with grains := s.grains.map next }
    s.ctxs.foldl (fun s e =>
      match e.2.out with
      | some o =>
        match o.instr, o.stage with
        | .barSync _ l, .waiting =>
          if mine e.1.sheaf e.1.grain && lvlNum l == k && o.prog == d.phase then
            s.syncResult e.1 o n d.phase
          else s
        | _, _ => s
      | none => s) s

/-- A package whose slot of the level-4 domain has completed sends its arrivals on the gang circuit, once in a phase
(R270). -/
def State.gangArrivals (s : State) (sheaf : Nat) : State :=
  let h := s.sheafOf sheaf
  let d := s.domOf sheaf 0
  if h.st = .running ∧ bit (h.word 0x28) 4 ∧ h.gangSent = false ∧ 0 < h.levSize 4 ∧ d.arrived = h.levSize 4 ∧ d.pend = 0 then
    (s.updSheaf sheaf fun h => { h with gangSent := true }).tell 5 (BitVec.ofNat 64 (h.sheafid * 4 + 1))
  else s

def execBarrierPhaseComplete (sheaf dom : Nat) (s : State) : Out3 := .next (s.phaseComplete sheaf dom)

/-! ### Event fires (R144) -/

/-- Sets FIRED of a line. -/
def Tile.fire (t : Tile) (n : Fin 32) : Tile := { t with evflag := t.evflag.set n true }

/-- A fire of quantum q reaches a line of a tile. One that finds FIRED clear is the event that ends a wait (R143, R279). -/
def State.fireLine (s : State) (sheaf tile : Nat) (n : Fin 32) (q : Nat) : State :=
  let was := (s.tileOf tile).evflag[n]
  let s := s.updTile tile fun t => t.fire n
  if was then s else s.wakeTag sheaf 2 (32 * tile + n.val) q

/-- `evsig`: the own tile's line at once, and a message to each tile that EVFWDn names, on its way for at
most 24 slots. A release, held under R204. -/
def execEvsig (h : Head) (n : Fin 32) (s : State) : Out3 :=
  issue h 8 s <|
    let s := s.unfence
    if s.fenced || s.relBusy s.cur then s.stall
    else
      let tile := s.myTile
      let mask := (s.tileOf tile).evfwd[n]
      let q := s.quantumOf s.cur
      let s := s.fireLine s.cur.sheaf tile n q
      let s := (List.range 4).foldl (fun s t =>
        let tile' := s.sheaf.tile (s.cur.grain / 32 * 4 + t)
        if bit mask t && tile' != tile then
          s.updTile tile' fun x => { x with fires := x.fires ++ [⟨n.val, s.slot + 24, q, s.cur⟩] }
        else s) s
      s.doneN 8

/-- A forwarded fire lands. It does nothing where none is on its way. -/
def State.fireArrive (s : State) (tile : Nat) (n : Fin 32) : State :=
  match (s.tileOf tile).fires.find? fun f => f.line == n.val with
  | none => s
  | some f => (s.updTile tile fun t => { t with fires := t.fires.erase f }).fireLine f.by_.sheaf tile n f.q

def execEventFireArrive (tile : Nat) (n : Fin 32) (s : State) : Out3 := .next (s.fireArrive tile n)

/-! ### The instances of scopes (09 R242) -/

/-- What can access memory, as the scopes tell it apart (09 R242): a context, a command that a context issued, a tile's event
unit, and what lies outside the package. -/
inductive Agent where
  | ctx (c : CtxId)
  | command (c : CtxId)
  | eventUnit (tile : Nat)
  | outside
  deriving DecidableEq, Repr

/-- Whether an agent lies in the instance of a scope that contains a context, by the placement now (R242). `.dom` is the
sheaf, the level-4 domain; for a barrier or a ring of level k it is the level-k domain. The model keeps every scoped edge,
whether or not it counts under R244 (DESIGN CHOICE, entry 48). -/
def State.scopeHas (s : State) (p : CtxId) (sc : Scope) (a : Agent) (k : Nat := 4) : Bool :=
  let near (n : Nat) (c : CtxId) : Bool := s.coreOfCtx c / n == s.coreOfCtx p / n
  let vdOfTile (t : Nat) : Bool := (s.tileOf t).vd == some (s.vdOfCtx p)
  match sc, a with
  | .sys, _ => true
  | _, .outside => false
  | .core, .ctx c => near 1 c
  | .core, _ => false
  | .quad, .ctx c | .quad, .command c => near 4 c
  | .quad, .eventUnit _ => false
  | .tile, .ctx c | .tile, .command c => near 8 c
  | .tile, .eventUnit t => t == s.coreOfCtx p / 8
  | .clus, .ctx c | .clus, .command c => near 32 c
  | .clus, .eventUnit t => t / 4 == s.coreOfCtx p / 32
  | .dom, .ctx c | .dom, .command c => c.sheaf == p.sheaf && (s.sheafOf p.sheaf).domNum k c.grain == (s.sheafOf p.sheaf).domNum k p.grain
  | .dom, .eventUnit _ => false
  | .dev, .ctx c | .dev, .command c => s.vdOfCtx c == s.vdOfCtx p
  | .dev, .eventUnit t => vdOfTile t

end Sys2Proof.Machine
end

