-- ==== Sys2Proof/Machine/Ranges.lean ====
section
/-! DEFINITION. Ranges of local memory as vector, matrix and engine instructions name them: resolution and the
checks of 06 R160 (which 07 R182 and 08 R207 also use), reading and writing by quad offset. -/

namespace Sys2Proof.Machine

/-- A range of the own quad: its local address, the own-quad offset of its first byte, and the level of the
ring that it was named through. -/
structure Rng where
  base : W64
  off : Nat
  len : Nat
  level : Option Nat
  deriving DecidableEq, Repr

/-- Whether an address lies in a region of R39. -/
def inRegion (a : Nat) : Bool :=
  decide (a < 0x0040_0000) || (decide (0x00C0_0000 ≤ a) && decide (a < 0x0201_0000))

/-- A range as its first byte resolves: own-quad offset, ring level, and the bytes left in the stage or the window. -/
structure Place where
  off : Nat
  level : Option Nat
  room : Nat
  deriving DecidableEq, Repr

/-- The place of a ring address by its first byte (R153). -/
def State.ringPlace (s : State) (a : Nat) : Option Place :=
  let (k, o) := ringOf a
  (s.ring k).bind fun r => (r.place o).map fun p => ⟨p.2, some r.level, r.size - o % r.size⟩

/-- The place of an address in the own-quad window or in a ring window. -/
def State.placeOf (s : State) (a : Nat) : Option Place :=
  if a < 2 ^ 21 then some ⟨a, none, 2 ^ 21 - a⟩
  else if 0x00C0_0000 ≤ a ∧ a < 0x0100_0000 then s.ringPlace a else none

/-- Whether an extent lies in the own-quad window or in one ring stage, seen from its first byte (R153, R207). -/
def State.oneStage (s : State) (base : W64) (n : Nat) : Bool :=
  match s.placeOf base.toNat with
  | some p => decide (n ≤ p.room)
  | none => false

/-- Steps 1 to 5 of R160 on a range of n bytes aligned to `align`; `ring` says whether ring windows are
accepted. The failing check is a cause and DETAIL. -/
def State.range (s : State) (base : W64) (n align : Nat) (ring : Bool := true) : Except (Nat × Nat) Rng :=
  let a := base.toNat
  let isRing := decide (0x00C0_0000 ≤ a) && decide (a < 0x0100_0000)
  if 2 ^ 32 ≤ a then .error (Cause.localAddress, 3)
  else if !inRegion a then .error (Cause.localAddress, 1)
  else
    match s.placeOf a with
    | some p =>
      -- step 2 comes before steps 3 and 4, over the bytes that resolve
      if !s.slicesHeld p.off (min n p.room) then .error (Cause.peerGone, 3)
      else if a % align ≠ 0 then .error (Cause.misaligned, 1)
      else if isRing ∧ !ring then .error (Cause.localAddress, 5)
      else if p.room < n then .error (Cause.localAddress, if isRing then 6 else 5)
      else if s.inWindow s.myQuad p.off n && decide (0 < n) then .error (Cause.localAddress, 7)
      else .ok ⟨base, p.off, n, p.level⟩
    | none =>
      if a % align ≠ 0 then .error (Cause.misaligned, 1)
      else if isRing ∧ ring then .error (Cause.localAddress, 6)
      else .error (Cause.localAddress, 5)

/-- Step 6: the ring arrival rule (R155). -/
def State.rangeHeld (s : State) (r : Rng) : Bool :=
  match r.level with
  | some k => s.grain.hasArrived k
  | none => false

/-- The physical pieces of an own-quad range. -/
def State.myPieces (s : State) (r : Rng) : List (Nat × Nat) := s.pieces s.myView s.myLQuad r.off r.len

/-- Whether a range touches a slice that a thermal move copies (R293). -/
def State.rngMoving (s : State) (r : Rng) : Bool := (s.myPieces r).any fun p => s.coreMoving (p.1 / 2 ^ 19)

/-- Step 7: the worst state of the banks of a range (R160). -/
def State.rngBank (s : State) (r : Rng) : BankSt :=
  let sts := (s.myPieces r).map fun p => s.rangeBank p.1 p.2
  if sts.any (· == .off) then .off
  else if sts.any (· == .waking) then .waking
  else if sts.any (· == .ret) then .ret
  else .on

/-- The lowest gated address of a range, as a local address (R160). -/
def State.gatedAddr (s : State) (r : Rng) : W64 :=
  match (List.range (r.len / 4 + 2)).find? fun i =>
      s.bankSt (s.physAddr s.myView s.myLQuad (min (r.off + r.len - 1) (r.off + 4 * i))) == .off with
  | some i => if i = 0 then r.base else BitVec.ofNat 64 ((r.base.toNat + 4 * i) / 4 * 4)
  | none => r.base

/-- Starts the wakes of a range (R129). -/
def State.rngWake (s : State) (r : Rng) : State :=
  (s.myPieces r).foldl (fun s p => s.wakeRet p.1 p.2) s

/-- Waits at issue for the banks of a range to wake; the piece that is not ON yet is the one waited for (R129, R130). -/
def State.rngStall (s : State) (r : Rng) : State :=
  (s.rngWake r).updMe fun c => { c with
    wait := .stalled
    bankWait := (s.myPieces r).find? fun p => s.rangeBank p.1 p.2 != .on }

/-- Steps 1 to 5 on several ranges in order: base, bytes, alignment. Yields the failing base with its cause. -/
def State.rangesOf (s : State) (ring : Bool) : List (W64 × Nat × Nat) → Except (W64 × Nat × Nat) (List Rng)
  | [] => .ok []
  | (b, n, al) :: rs =>
    match s.range b n al ring with
    | .error e => .error (b, e.1, e.2)
    | .ok r =>
      match s.rangesOf ring rs with
      | .error e => .error e
      | .ok l => .ok (r :: l)

/-- Steps 6 and 7 on checked ranges, then the body (R160). -/
def State.rangesReady (s : State) (rs : List Rng) (go : State) : State :=
  match rs.find? s.rangeHeld with
  | some r => s.holdAt (r.level.getD 0)
  | none => match rs.find? fun r => s.rngBank r != .on with
    | none => go
    | some r =>
      match s.rngBank r with
      | .off => s.exact Cause.bankOff 1 (s.gatedAddr r) true
      | _ => s.rngStall r

/-! ### Bytes by quad offset -/

/-- n bytes of a quad's memory from an offset on. -/
def State.qread (s : State) (w : View) (lq off n : Nat) : List Byte :=
  (List.range n).map fun i => Mem.get s.lmem (s.physAddr w lq (off + i))

/-- The bytes of a range. -/
def State.rread (s : State) (r : Rng) : List Byte := s.qread s.myView s.myLQuad r.off r.len

/-- Cells for bytes of a quad's memory from an offset on. -/
def State.cells (s : State) (w : View) (lq off : Nat) (bs : List Byte) : List Host.Cell :=
  bs.zipIdx.map fun p => (s.physAddr w lq (off + p.2), p.1)

/-- Writes cells by physical address. -/
def State.putCells (s : State) (cs : List Host.Cell) : State :=
  { s with lmem := cs.foldl (fun m c => Mem.set m c.1 c.2) s.lmem }

/-- Sets the words of cells FULL (R133). -/
def State.fillCells (s : State) (cs : List Host.Cell) : State :=
  { s with fe := cs.foldl (fun m c => Mem.set m (c.1 / 4) 1) s.fe }

/-- A core or engine write that covers whole words clears their markers (DEDUCED, entry 17). -/
def State.cleanCells (s : State) (cs : List Host.Cell) : State :=
  s.cleanLmem fun w => cs.any fun c => c.1 / 4 == w

/-- Whether any word of a range holds an uncorrectable error. -/
def State.rngPoisoned (s : State) (r : Rng) : Bool := (s.myPieces r).any fun p => s.lPoisoned p.1 p.2

/-- The syndrome of the errors of a range (R324). -/
def State.rngSyndrome (s : State) (r : Rng) : Nat :=
  match (s.myPieces r).find? fun p => s.lPoisoned p.1 p.2 with
  | some p => s.localSyndrome 0 p.1 p.2
  | none => syndrome 0 true false 0

/-- Whether a pending command's range overlaps a range of the own quad (R211). -/
def State.rngStoreHeld (s : State) (r : Rng) : Bool := (s.myPieces r).any fun p => s.storeHeld s.myTile p.1 p.2

/-- Whether the context's own vector instructions hold an access to a range (R164). -/
def State.rngVecHeld (s : State) (r : Rng) : Bool := (s.myPieces r).any fun p => s.vecHeld p.1 p.2

end Sys2Proof.Machine
end

