-- ==== Sys2Proof/Machine/Array.lean ====
section
/-! DEFINITION. A tile's array as a resource: partitions' ramp tables and slew budgets (14 R352 to R356), the
matrix queues' heads and the arbiter (07 R183, R184), and ownership of accumulator tiles (R185, R186). -/

namespace Sys2Proof.Machine

/-- Present core cycle of a tile's quad 0, in which matrix and engine timing is counted (R349). -/
def State.tileCycle (s : State) (tile : Nat) : Nat := s.cycleOf (2 * tile)

/-! ### Partitions (R356) -/

def Part.en (p : Part) : Bool := bit p.ctl 63
def Part.slew (p : Part) : Nat := bits p.ctl 15 8
def Part.has (p : Part) (cluster : Nat) : Bool :=
  if cluster < 64 then bit p.clus0 cluster else decide (cluster < 96) && bit p.clus1 (cluster - 64)

/-- The enabled partition of a cluster. -/
def State.partOf (s : State) (cluster : Nat) : Option (Fin 8) :=
  (List.finRange 8).find? fun n => s.dev.parts[n].en && s.dev.parts[n].has (cluster % 96)

/-- The partition whose tables a tile follows; one with the reset values where it belongs to none. -/
def State.tilePart (s : State) (tile : Nat) : Part :=
  match s.partOf (tile / 4) with
  | some n => s.dev.parts[n]
  | none => Part.zero

/-- Entry Ei of a ramp table. -/
def rampEntry (ramp : W64) (i : Nat) : Nat := bits ramp (4 * i + 3) (4 * i)

/-- The rising weight of a table (R353). -/
def rampWeight (ramp : W64) : Nat :=
  (List.range 8).foldl (fun m i => max m (rampEntry ramp i - (if i = 0 then 0 else rampEntry ramp (i - 1))))
    (8 - rampEntry ramp 7)

/-- The table that a tile follows: its partition's, which changes only while the array is at rest (R356). -/
def State.rampOf (s : State) (tile : Nat) : W64 :=
  if (s.tileOf tile).duty = .rest then (s.tilePart tile).ramp else (s.tileOf tile).ramp

/-- The eighths of a full cycle's work that a tile's array does in each core cycle (R352). -/
def State.dutyOf (s : State) (tile : Nat) : Nat :=
  match (s.tileOf tile).duty with
  | .rest => 0
  | .full => 8
  | .up i _ | .hold i | .down i _ | .land i _ => rampEntry (s.rampOf tile) i

/-- Tiles of the partition of a tile, in increasing number. -/
def State.partTiles (s : State) (tile : Nat) : List Nat :=
  let n := s.partOf (tile / 4)
  (s.tiles.map Prod.fst).filter fun t => s.partOf (t / 4) == n

def Duty.rising : Duty → Bool
  | .up .. => true
  | _ => false
def Duty.falling : Duty → Bool
  | .down .. => true
  | _ => false

/-- The rising and the falling sum of a tile's partition (R353, R354). -/
def State.slewSum (s : State) (tile : Nat) (p : Duty → Bool) : Nat :=
  ((s.partTiles tile).map fun t => if p (s.tileOf t).duty then rampWeight (s.rampOf t) else 0).sum

/-! ### Accumulator tiles (R185 to R188) -/

/-- Byte address of an accumulator element. -/
def accAddr (tile a i j : Nat) : Nat := tile * 2 ^ 20 + a * 2 ^ 14 + 4 * (64 * i + j)

def State.accGet (s : State) (tile a i j : Nat) : Nat := ofBytes (Mem.read s.accm (accAddr tile a i j) 4)

/-- Writes an element, which clears its error marker (R205). -/
def State.accPut (s : State) (tile a i j v : Nat) : State :=
  let w := accAddr tile a i j / 4
  let s := { s with accm := Mem.write s.accm (accAddr tile a i j) (toBytes 4 v) }
  s.cleanAcc (· == w)

/-- All elements of a tile become +0 (R186). -/
def State.accClear (s : State) (tile a : Nat) : State :=
  let lo := accAddr tile a 0 0
  let s := { s with accm := Mem.clear s.accm lo (2 ^ 14) }
  s.cleanAcc fun w => decide (lo ≤ 4 * w) && decide (4 * w < lo + 2 ^ 14)

def State.accState (s : State) (tile : Nat) (a : Fin 64) : AccState := (s.tileOf tile).acc[a]

/-- Whether a queued command of a grain may name a tile in a state (R188). -/
def AccState.opens (x : AccState) (sheaf grain : Nat) : Bool :=
  match x with
  | .free => false
  | .owned sh g => sh == sheaf && g == grain
  | .pinned sh _ => sh == sheaf
  | .spilled sh g pin => sh == sheaf && (pin || g == grain)

def AccState.isSpilled : AccState → Bool
  | .spilled .. => true
  | _ => false

/-- Whether a sheaf is placed on a tile: it has a grain there. -/
def State.placedOn (s : State) (sheaf tile : Nat) : Bool :=
  s.grains.any fun e => e.1.1 == sheaf && e.2.core / 8 == tile && !e.2.retired

/-! ### Matrix queues (R180, R184) -/

/-- Whether a queued command uses the array (R184). -/
def isArray : Instr → Bool
  | .mma .. | .mmaSp .. | .deltaUpd .. | .deltaChunk .. | .deltaQry .. => true
  | _ => false

def isDelta : Instr → Bool
  | .deltaUpd .. | .deltaChunk .. | .deltaQry .. => true
  | _ => false

/-- The accumulator tile that a queued command names. -/
def accName : Instr → Option (Fin 64)
  | .mma _ m | .mmaSp _ m | .mzero _ m | .maccRd _ m | .maccWr _ m | .deltaUpd _ m | .deltaChunk _ m
  | .deltaQry _ m => some m.acc
  | _ => none

def isMstat : Instr → Bool
  | .mstat .. => true
  | _ => false

/-- The commands that write the weight buffer (R190). -/
def isLoad : Instr → Bool
  | .mwld .. | .mwldImg .. | .mwldGl .. => true
  | _ => false

/-- A delta command between the tile-ops of one token runs on to its end (R201). -/
def MCmd.midToken (c : MCmd) : Bool :=
  match c.instr with
  | .deltaUpd .. => c.prog % 2 != 0
  | .deltaChunk .. => c.prog % 3 != 0
  | _ => false

/-- A queued command that a stop waits for: one inside a token (R201), or a running one that names no stop point, a local
`mwld`, `mzero`, `macc.rd`, `macc.wr` or `mstat` (R181, R196). -/
def MCmd.runsOn (c : MCmd) : Bool := c.midToken || (!isArray c.instr && c.due.isSome)

/-- The grain on a core of a tile by its physical index, when its queue runs: its sheaf runs, or is being stopped
while the queue still owes the result of a `mstat` (R98, R284), or its head runs on. -/
def State.mqGrain (s : State) (tile lc : Nat) : Option ((Nat × Nat) × Grain) :=
  match s.grainAt (8 * tile + lc) with
  | some e =>
    let h := s.sheafOf e.1.1
    let owes := (e.2.mq.any fun c => isMstat c.instr) || (e.2.mq.head?.map MCmd.runsOn).getD false
    if h.st = .running ∨ (h.stop ≠ .none ∧ owes) then some e else none
  | none => none

/-- The head of a core's matrix queue. -/
def State.mqHead (s : State) (tile lc : Nat) : Option ((Nat × Nat) × MCmd) :=
  match s.mqGrain tile lc with
  | some e => e.2.mq.head?.map fun c => (e.1, c)
  | none => none

/-- Whether a command that names a tile has started in another queue of the physical tile (R184). -/
def State.accInUse (s : State) (tile : Nat) (key : Nat × Nat) (a : Fin 64) : Bool :=
  (s.grainsAtTile tile).any fun e => e.1 != key && e.2.mq.any fun c => c.started && accName c.instr == some a

/-- Whether any queue of a tile holds a command that names an accumulator tile (R187). -/
def State.accNamed (s : State) (tile : Nat) (a : Fin 64) : Bool :=
  (s.grainsAtTile tile).any fun e => e.2.mq.any fun c => accName c.instr == some a

/-- Whether the head of a queue may start (R184, R186, R188, R211). -/
def State.mqStartable (s : State) (tile : Nat) (key : Nat × Nat) (c : MCmd) : Bool :=
  (match accName c.instr with
   | none => true
   | some a => !(s.accState tile a).isSpilled && !s.accInUse tile key a &&
      decide (Tab.getD (s.tileOf tile).accZero a.val 0 ≤ s.tileCycle tile) && !s.accCopying tile a) &&
    !(isLoad c.instr && s.weightsCopying tile) &&
    !s.cmdHeld (key.1, key.2 / 8) (key.2 % 8 / 4) c.seq c.reads c.writes

/-- Whether the head of a queue may go on or start. One that has started waits again where its tile is SPILLED: after a
resume (R184, R188, R203). -/
def State.mqGoing (s : State) (tile : Nat) (key : Nat × Nat) (c : MCmd) : Bool :=
  if c.started then (accName c.instr).all fun a => !(s.accState tile a).isSpilled && !s.accCopying tile a
  else s.mqStartable tile key c

/-- The array command at the head of a core's queue, when it is ready for a tile-op. -/
def State.arrayReady (s : State) (tile lc : Nat) : Option ((Nat × Nat) × MCmd) :=
  match s.mqHead tile lc with
  | none => none
  | some (key, c) => if isArray c.instr && c.due.isNone && s.mqGoing tile key c then some (key, c) else none

/-- The weight of a core's grain (R183). -/
def State.mqWeight (s : State) (tile lc : Nat) : Nat :=
  match s.mqGrain tile lc with
  | some e => e.2.mqwt
  | none => 1

/-- The core whose tile-op comes next (R184). -/
def State.arbiter (s : State) (tile : Nat) : Option Nat :=
  let t := s.tileOf tile
  let ready (lc : Nat) : Bool := (s.arrayReady tile lc).isSome
  let next (lc : Nat) : Option Nat := ((List.range 8).map fun k => (lc + 1 + k) % 8).find? ready
  match t.turn with
  | some lc => if ready lc && decide (t.used < s.mqWeight tile lc) then some lc else next lc
  | none => next t.last

/-- Where the array is at rest the turn goes to the arbiter's choice at once: a tile-op that waits for its grant keeps it
(R184). -/
def State.takeTurn (s : State) (tile : Nat) : State :=
  match s.arbiter tile with
  | none => s
  | some lc =>
    let t := s.tileOf tile
    if t.turn = some lc ∧ t.used < s.mqWeight tile lc then s
    else s.updTile tile fun t => { t with turn := some lc, used := 0, last := lc }

/-! ### The current-slew limiter (R352 to R354) -/

/-- Counts the work done by the running tile-op up to a cycle. -/
def State.account (s : State) (tile at_ : Nat) : State :=
  let d := s.dutyOf tile
  s.updTile tile fun t => { t with run := t.run.map fun r =>
    { r with left := r.left - d * (at_ - r.since), since := max r.since at_ } }

/-- Whether the running tile-op of a tile ends in this cycle: it ends before the limiter looks at the array (R353). -/
def State.opOver (s : State) (tile : Nat) : Bool :=
  (s.tileOf tile).run.any fun r => decide (r.left ≤ s.dutyOf tile * (s.tileCycle tile - r.since))

def State.setDuty (s : State) (tile : Nat) (d : Duty) : State := s.updTile tile fun t => { t with duty := d }

/-- Whether the array has work: a tile-op running or one ready. -/
def State.arrayWork (s : State) (tile : Nat) : Bool := (s.tileOf tile).run.isSome || (s.arbiter tile).isSome

/-- Whether a tile waits for a grant up, and for a grant down. -/
def State.wantsUp (s : State) (tile : Nat) : Bool :=
  match (s.tileOf tile).duty with
  | .rest | .hold _ => s.arrayWork tile
  | _ => false
def State.wantsDown (s : State) (tile : Nat) : Bool :=
  match (s.tileOf tile).duty with
  | .full | .hold _ => !s.arrayWork tile
  | _ => false

/-- The waiting tile that is granted next in a direction (R353): increasing tile number, rotating. -/
def firstWaiting (last : Nat) (ts : List Nat) : Option Nat :=
  ts.foldl (fun b t => match b with
    | none => some t
    | some u => if (t % 384 + 768 - last % 384 - 1) % 384 < (u % 384 + 768 - last % 384 - 1) % 384 then some t else some u) none

/-- Changes the partition of a tile. -/
def State.updTilePart (s : State) (tile : Nat) (f : Part → Part) : State :=
  match s.partOf (tile / 4) with
  | some n => s.updDev fun d => { d with parts := d.parts.set n (f d.parts[n]) }
  | none => s

/-- A ramp up is granted. It does nothing where the tile is not the next to be granted, or the test fails. -/
def State.grantUp (s : State) (tile : Nat) : State :=
  let p := s.tilePart tile
  let at_ := s.tileCycle tile
  if s.opOver tile = false ∧ firstWaiting p.lastUp ((s.partTiles tile).filter s.wantsUp) = some tile ∧
      s.slewSum tile Duty.rising + rampWeight (s.rampOf tile) ≤ p.slew then
    let s := (s.account tile at_).updTilePart tile fun p => { p with lastUp := tile }
    match (s.tileOf tile).duty with
    | .hold i => s.setDuty tile (if 7 ≤ i then .full else .up (i + 1) (at_ + 4))
    | _ => (s.updTile tile fun t => { t with ramp := p.ramp }).setDuty tile (.up 0 (at_ + 4))
  else s

def execSlewGrantUp (tile : Nat) (s : State) : Out3 := .next (s.grantUp tile)

/-- A ramp down is granted. -/
def State.grantDown (s : State) (tile : Nat) : State :=
  let p := s.tilePart tile
  let at_ := s.tileCycle tile
  if s.opOver tile = false ∧ firstWaiting p.lastDown ((s.partTiles tile).filter s.wantsDown) = some tile ∧
      s.slewSum tile Duty.falling + rampWeight (s.rampOf tile) ≤ p.slew then
    let s := s.updTilePart tile fun p => { p with lastDown := tile }
    match (s.tileOf tile).duty with
    | .hold 0 => s.setDuty tile .rest
    | .hold (i + 1) => s.setDuty tile (.down i (at_ + 4))
    | _ => s.setDuty tile (.down 7 (at_ + 4))
  else s

def execSlewGrantDown (tile : Nat) (s : State) : Out3 := .next (s.grantDown tile)

/-- A step of a ramp ends. It does nothing before its last cycle, or before a tile-op that ends with it. -/
def State.stepEnd (s : State) (tile : Nat) : State :=
  let now := s.tileCycle tile
  match (s.tileOf tile).duty with
  | .up i fin =>
    if now < fin ∨ s.opOver tile then s
    else
      let s := s.account tile fin
      if !s.arrayWork tile then s.setDuty tile (.hold i)
      else s.setDuty tile (if 7 ≤ i then .full else .up (i + 1) (fin + 4))
  | .down i fin =>
    if now < fin then s
    else (s.account tile fin).setDuty tile (if i = 0 then .rest else .down (i - 1) (fin + 4))
  | .land i fin => if now < fin then s else (s.account tile fin).setDuty tile (.hold i)
  | _ => s

def execRampStepEnd (tile : Nat) (s : State) : Out3 := .next (s.stepEnd tile)

end Sys2Proof.Machine
end

