-- ==== Sys2Proof/Machine/Lanes.lean ====
section
/-! DEFINITION. The arithmetic of the vector unit on element patterns: 06 R157, R158, R167 to R176. -/

namespace Sys2Proof.Machine

/-! ### Types (R157) -/

def VTy.bits : VTy → Nat
  | .f32 | .s32 | .u32 => 32
  | .bf16 | .s16 | .u16 => 16
  | .s8 | .u8 => 8

def VTy.bytes (t : VTy) : Nat := VTy.bits t / 8

def VTy.isFloat : VTy → Bool
  | .f32 | .bf16 => true
  | _ => false

def VTy.signed : VTy → Bool
  | .s32 | .s16 | .s8 => true
  | _ => false

/-- The float format of a type; FP32 for the others. -/
def VTy.fmt : VTy → FFmt
  | .bf16 => bf16
  | _ => fp32

/-- The active element count (R157); conversions, gathers and scatters take 64 at most for every type. -/
def activeE (t : VTy) (narrow : Bool) (vl : Nat) : Nat :=
  if t = .bf16 ∧ !narrow then vl else min vl 64

/-- The integer that an element pattern holds (R158). -/
def VTy.int (t : VTy) (x : Nat) : Int :=
  let w := VTy.bits t
  if VTy.signed t ∧ 2 ^ (w - 1) ≤ x then (x : Int) - 2 ^ w else x

/-- The range of an integer type. -/
def VTy.lo (t : VTy) : Int := if VTy.signed t then -(2 ^ (VTy.bits t - 1) : Int) else 0
def VTy.hi (t : VTy) : Int := if VTy.signed t then 2 ^ (VTy.bits t - 1) - 1 else 2 ^ VTy.bits t - 1

/-- The low bits of an exact integer. -/
def VTy.wrap (t : VTy) (x : Int) : Nat := (x % (2 ^ VTy.bits t : Int)).toNat

/-- An exact integer result: wrapped, or clamped with SAT (R167). -/
def VTy.fit (t : VTy) (sat : Bool) (x : Int) : Nat × Flags :=
  if sat && decide (x < VTy.lo t) then (VTy.wrap t (VTy.lo t), fSAT)
  else if sat && decide (VTy.hi t < x) then (VTy.wrap t (VTy.hi t), fSAT)
  else (VTy.wrap t x, 0)

/-! ### Element results -/

/-- A vector's elements with the union of their flags. -/
def lanes (rs : List (Nat × Flags)) : List Nat × Flags :=
  (rs.map Prod.fst, rs.foldl (fun f r => f ||| r.2) 0)

/-- A two-source operation by its float and integer forms. -/
def two (t : VTy) (sat : Bool) (ff : FFmt → Nat → Nat → Nat × Flags) (fi : Int → Int → Int) (xs ys : List Nat) :
    List Nat × Flags :=
  lanes ((xs.zip ys).map fun p =>
    if VTy.isFloat t then ff (VTy.fmt t) p.1 p.2 else VTy.fit t sat (fi (VTy.int t p.1) (VTy.int t p.2)))

/-- A fused operation. -/
def three (t : VTy) (sat minus : Bool) (xs ys zs : List Nat) : List Nat × Flags :=
  lanes (((xs.zip ys).zip zs).map fun p =>
    let (x, y, z) := (p.1.1, p.1.2, p.2)
    if VTy.isFloat t then
      let f := VTy.fmt t
      f.fma x y (if minus then (z + 2 ^ (f.w - 1)) % 2 ^ f.w else z)
    else
      let zi := VTy.int t z
      VTy.fit t sat (VTy.int t x * VTy.int t y + if minus then -zi else zi))

/-- `vabs` and `vneg` (R167): floats change their sign bit alone. -/
def absV (t : VTy) (sat : Bool) (xs : List Nat) : List Nat × Flags :=
  lanes (xs.map fun x =>
    if VTy.isFloat t then (x % 2 ^ (VTy.bits t - 1), 0) else VTy.fit t sat (VTy.int t x).natAbs)
def negV (t : VTy) (sat : Bool) (xs : List Nat) : List Nat × Flags :=
  let w := VTy.bits t
  lanes (xs.map fun x =>
    if VTy.isFloat t then ((x + 2 ^ (w - 1)) % 2 ^ w, 0) else VTy.fit t sat (-VTy.int t x))

/-- A one-source float operation (R168). -/
def oneF (t : VTy) (f : FFmt → Nat → Nat × Flags) (xs : List Nat) : List Nat × Flags :=
  lanes (xs.map (f (VTy.fmt t)))

/-- A raw-bit operation without flags (R170). -/
def rawOp (f : Nat → Nat → Nat) (xs ys : List Nat) : List Nat × Flags :=
  ((xs.zip ys).map fun p => f p.1 p.2, 0)

/-- The three shifts on a w-bit pattern (R170). -/
def shlV (t : VTy) (x y : Nat) : Nat := (x <<< (y % VTy.bits t)) % 2 ^ VTy.bits t
def shrV (t : VTy) (x y : Nat) : Nat := x >>> (y % VTy.bits t)
def sraV (t : VTy) (x y : Nat) : Nat :=
  let w := VTy.bits t
  let xi : Int := if 2 ^ (w - 1) ≤ x then (x : Int) - 2 ^ w else x
  VTy.wrap t (xi >>> (y % w))

/-- One compare by its OPT code (R171). -/
def cmp1 (t : VTy) (k : Nat) (x y : Nat) : Nat × Flags :=
  let b (v : Bool) : Nat := if v then 1 else 0
  if VTy.isFloat t then
    let f := VTy.fmt t
    match k with
    | 0 => let r := f.cmp 0 x y; (b r.1, r.2)
    | 1 => let r := f.cmp 0 x y; (b (!r.1 && !anyNaN (f.unpack x) (f.unpack y)), r.2)
    | 2 => let r := f.cmp 1 x y; (b r.1, r.2)
    | _ => let r := f.cmp 2 x y; (b r.1, r.2)
  else
    let xi := VTy.int t x
    let yi := VTy.int t y
    (b (match k with
      | 0 => decide (xi = yi)
      | 1 => decide (xi ≠ yi)
      | 2 => decide (xi < yi)
      | _ => decide (xi ≤ yi)), 0)

def cmpL (t : VTy) (k : Nat) (xs ys : List Nat) : List Nat × Flags :=
  lanes ((xs.zip ys).map fun p => cmp1 t k p.1 p.2)

def selL (xs ys zs : List Nat) : List Nat × Flags :=
  (((xs.zip ys).zip zs).map fun p => if p.1.1 % 2 = 1 then p.1.2 else p.2, 0)

/-- The element index of the pattern form of `vperm` (R174). -/
def permIdx (imm : W32) (e i : Nat) : Nat :=
  let j := if bit imm 15 then e - 1 - i else i
  ((j ^^^ bits imm 14 8) + bits imm 6 0) % max 1 e

def permL (xs : List Nat) (p : List Nat) : List Nat × Flags := (p.map fun i => xs.getD i 0, 0)

/-! ### Conversions (R169) -/

/-- A conversion of one element under a mode. -/
def cvt1 (src dst : VTy) (md : Mode) (x : Nat) : Nat × Flags :=
  let v : FVal := if VTy.isFloat src then (VTy.fmt src).unpack x else intVal (VTy.int src x)
  if VTy.isFloat dst then (VTy.fmt dst).ofVal md v
  else
    let r := toIntRange md (VTy.lo dst) (VTy.hi dst) v
    (VTy.wrap dst r.1, r.2)

/-- The register index of an element under SR (R169). -/
def srLane (dst : VTy) (i : Nat) : Nat := if dst = .bf16 then i / 2 else i

/-- Whether a conversion rounds stochastically: one between integers ignores RM and rounds nothing, so that it steps no
register (R26, R169; DEDUCED against R83, entry 97). -/
def cvtSr (src dst : VTy) (rm : Rm) : Bool := decide (rm = .sr) && (VTy.isFloat src || VTy.isFloat dst)

/-- Converts elements in order; under SR each steps its lane's register first. -/
def cvtL (src dst : VTy) (rm : Rm) : (i : Nat) → Vector W32 64 → List Nat → List (Nat × Flags) × Vector W32 64
  | _, l, [] => ([], l)
  | i, l, x :: xs =>
    let k := srLane dst i % 64
    let rnd := lfsrStep (l.toList.getD k 0)
    let l' := if cvtSr src dst rm then (if h : k < 64 then l.set k rnd else l) else l
    let r := cvt1 src dst (rmMode rm rnd) x
    let rest := cvtL src dst rm (i + 1) l' xs
    (r :: rest.1, rest.2)

/-! ### Reductions and scans (R175, R176) -/

/-- A partial value: an FP32 pattern, or an exact integer. -/
inductive Part1 where
  | f (x : Nat)
  | i (x : Int)
  deriving DecidableEq, Repr

/-- elem(i): a float as FP32, an integer exactly. -/
def elemOf (t : VTy) (x : Nat) : Part1 :=
  match t with
  | .f32 => .f x
  | .bf16 => .f (x * 65536)
  | _ => .i (VTy.int t x)

/-- comb by its operation: 0 add, 1 max, 2 min. -/
def comb (k : Nat) : Part1 → Part1 → Part1 × Flags
  | .f a, .f b =>
    let r := if k = 0 then fp32.add a b else fp32.minmax (k == 1) a b
    (.f r.1, r.2)
  | .i a, .i b => (.i (if k = 0 then a + b else if k = 1 then max a b else min a b), 0)
  | a, _ => (a, 0)

/-- One level of the tree: neighbours combine, an absent partner passes the other through. -/
def treeLevel (k : Nat) : List Part1 → List Part1 × Flags
  | a :: b :: rest =>
    let c := comb k a b
    let r := treeLevel k rest
    (c.1 :: r.1, c.2 ||| r.2)
  | l => (l, 0)

/-- The tree: at most seven levels. -/
def tree (k : Nat) : (levels : Nat) → List Part1 → List Part1 × Flags
  | 0, l => (l, 0)
  | n + 1, l =>
    let r := treeLevel k l
    let q := tree k n r.1
    (q.1, r.2 ||| q.2)

/-- The scalar result of a reduction. -/
def reduceV (t : VTy) (k : Nat) (xs : List Nat) : W64 × Flags :=
  let r := tree k 7 (xs.map (elemOf t))
  match r.1.head? with
  | some (.f x) => (BitVec.ofNat 64 x, r.2)
  | some (.i x) => (BitVec.ofInt 64 x, r.2)
  | none => (0, r.2)

/-- out(s) of a scan. -/
def scanOut (t : VTy) : Part1 → Nat × Flags
  | .f x => if t = .bf16 then bf16.ofVal .rne (fp32.unpack x) else (x, 0)
  | .i x => (VTy.wrap t x, 0)

/-- Inclusive prefixes after a running value. -/
def scanFrom (t : VTy) (k : Nat) (acc : Part1) : List Nat → List (Nat × Flags)
  | [] => []
  | x :: xs =>
    let c := comb k acc (elemOf t x)
    let o := scanOut t c.1
    (o.1, c.2 ||| o.2) :: scanFrom t k c.1 xs

def scanL (t : VTy) (k : Nat) : List Nat → List Nat × Flags
  | [] => ([], 0)
  | x :: xs => lanes (scanOut t (elemOf t x) :: scanFrom t k (elemOf t x) xs)

end Sys2Proof.Machine
end

