-- ==== Sys2Proof/Machine/Queues.lean ====
section
/-! DEFINITION. Rendezvous (05 R148), remote queues (R149 to R151) and ring definitions (R152). -/

namespace Sys2Proof.Machine

/-! ### Rendezvous (R148) -/

/-- `rdv.put`: a release, then an insertion when the mailbox has room. -/
def State.putBody (s : State) (key v : W64) : State :=
  if 16 ≤ s.grain.mailbox.length then s.park 2
  else (s.updGrain fun g => { g with mailbox := g.mailbox ++ [(key, v)] }).doneN 8

def execRdvPut (h : Head) (key val : Src) (s : State) : Out3 :=
  let k := s.src 1 key
  let v := s.src 2 val
  issue h 8 s <|
    let s := s.unfence
    if s.fenced || s.relBusy s.cur then s.stall
    else s.detGate (.rdvPut h key val) (s.putBody k v)

/-- `rdv.get`: takes the oldest entry with an equal key, at latency 2. -/
def State.getBody (s : State) (h : Head) (key : W64) : State :=
  match s.grain.mailbox.find? fun e => e.1 == key with
  | none => s.park 2
  | some e => (s.updGrain fun g => { g with mailbox := g.mailbox.erase e }).doneL h 8 2 e.2

def execRdvGet (h : Head) (key : Src) (s : State) : Out3 :=
  let k := s.src 1 key
  issue h 8 s <|
    let s := s.unfence
    if s.fenced || s.acqHeld then s.stall else s.detGate (.rdvGet h key) (s.getBody h k)

/-! ### Remote queues (R149 to R151) -/

def State.updRq (s : State) (tile q : Nat) (f : RQueue → RQueue) : State :=
  s.updTile tile fun t => if h : q < 32 then { t with rq := t.rq.set q (f t.rq[q]) } else t

def isRqput : Instr → Bool
  | .rqput .. => true
  | _ => false

/-- Whether an outstanding instruction of a context of a tile is a `rqput` to a queue whose reservation has
not arrived. -/
def State.inFlight (s : State) (tile q : Nat) : Nat :=
  s.ctxs.countP fun e =>
    match e.2.out with
    | some o =>
      isRqput o.instr && o.stage == .accepted && s.rqTarget e.1 (o.caps.getD 0 0) == (tile, q)
    | none => false

/-- Bytes of a message. -/
def msgLen (len : Fin 8) : Nat := 8 * (len.val + 1)

/-- `rqput` (R150). -/
def State.rqputBody (s : State) (h : Head) (p : Fin 8) (desc : Src) (len : Fin 8) : State :=
  let ea := s.me.a[p]
  let d := s.src 2 desc
  let n := msgLen len
  let s := s.unfence
  if s.fenced || s.rcBusy || s.relBusy s.cur then s.stall
  else match s.range ea n 8 false with
    | .error (c, k) => s.exact c k ea
    | .ok r =>
      if d &&& ~~~(maskBits 7 5 ||| maskBits 3 0) ≠ 0 then s.exact Cause.queueState 2 ea
      else s.rangesReady [r] <|
        if s.rngVecHeld r then s.stall
        else if s.rngPoisoned r then s.exact Cause.memoryError (s.rngSyndrome r) ea
        else
          let t := s.rqTarget s.cur d
          let q := s.rqOf t.1 t.2
          if q.en && decide (q.entries ≤ q.reserved + q.freed + s.inFlight t.1 t.2) then s.park 5
          else s.startN (.rqput h p desc len) 8 ea [d] (s.rread r)

def execRqput (h : Head) (p : Fin 8) (desc : Src) (len : Fin 8) (s : State) : Out3 :=
  issue h 8 s (s.rqputBody h p desc len)

/-- Whether a `rqput` that the same core issued earlier has not made its reservation yet: reservations of one core are made
in issue order (R150). -/
def State.rqBehind (s : State) (c : CtxId) (o : Out) : Bool :=
  s.ctxs.any fun e => e.1.sheaf == c.sheaf && e.1.grain == c.grain &&
    e.2.out.any fun p => isRqput p.instr && p.stage == .accepted && decide (p.tag < o.tag)

/-- A reservation reaches the target: the queue must be enabled and its slice's owner present; the entry at
TAIL is then reserved (R150). -/
def State.rqReserve (s : State) (c : CtxId) : State :=
  match s.outOf c with
  | none => s
  | some o =>
    match o.instr, o.stage with
    | .rqput .., .accepted =>
      let (tile, q) := s.rqTarget c (o.caps.getD 0 0)
      let r := s.rqOf tile q
      let core := s.entryPhys tile q r.tail / 2 ^ 19
      if s.coreMoving core || s.rqBehind c o then s
      else match s.peerGone (s.vdOfCtx c) core with
        | some d => s.recorded c Cause.peerGone d o.addr false
        | none =>
          if !r.en then s.recorded c Cause.queueState 1 o.addr false
          else if r.entries ≤ r.reserved + r.freed then s
          else
            let s := s.updRq tile q fun r => { r with tail := (r.tail + 1) % r.entries, reserved := r.reserved + 1 }
            s.updOut c fun o => { o with stage := .sent, aux := r.tail }
    | _, _ => s

def execRqputReservationArrive (c : CtxId) (s : State) : Out3 := .next (s.rqReserve c)

/-- Undoes a reservation whose delivery failed: the later ones move up (R150). -/
def State.rqUndo (s : State) (tile q idx : Nat) : State :=
  let r := s.rqOf tile q
  let pos (i : Nat) : Nat := (i + r.entries - r.head) % r.entries
  let s := s.updRq tile q fun r =>
    { r with tail := (r.tail + r.entries - 1) % r.entries, reserved := r.reserved - 1 }
  let mine (c : CtxId) (o : Out) : Bool :=
    o.stage == .sent && isRqput o.instr && decide (pos idx < pos o.aux) &&
      s.rqTarget c (o.caps.getD 0 0) == (tile, q)
  let up (c : CtxId) (o : Out) : Out :=
    if mine c o then { o with aux := (o.aux + r.entries - 1) % r.entries } else o
  { s with ctxs := s.ctxs.map fun e => (e.1, { e.2 with out := e.2.out.map (up e.1) }) }

/-- Delivers a reserved message, in the order of the reservations (R150). -/
def State.rqDeliver (s : State) (c : CtxId) : State :=
  match s.outOf c with
  | none => s
  | some o =>
    match o.instr, o.stage with
    | .rqput .., .sent =>
      let (tile, q) := s.rqTarget c (o.caps.getD 0 0)
      let r := s.rqOf tile q
      let at_ := s.entryPhys tile q o.aux
      if o.aux ≠ (r.head + r.count) % r.entries ∨ s.coreMoving (at_ / 2 ^ 19) || s.copyMeets at_ 64 then s
      else match s.rangeBank at_ 64 with
        | .off =>
          ((s.rqUndo tile q o.aux).updOut c fun o => { o with stage := .accepted }).recorded c Cause.bankOff 2 o.addr true
        | .ret => s.wakeRet at_ 64
        | .waking => s
        | .on =>
          let n := o.data.length
          let s := { s with lmem := Mem.write s.lmem at_ o.data }
          let s := s.cleanLmem fun w => decide (at_ ≤ 4 * w) && decide (4 * w + 4 ≤ at_ + n)
          let s := s.updRq tile q fun r =>
            { r with count := r.count + 1, msgs := Tab.put r.msgs o.aux (n, c.grain) }
          (s.wakeTag c.sheaf 5 (256 * (32 * tile + q) + o.aux) o.quantum).finish c o.tag 0
    | _, _ => s

def execRqputDeliver (c : CtxId) (s : State) : Out3 := .next (s.rqDeliver c)

/-- The senders learn of a freed entry (R150). -/
def execRqFreeNotice (tile : Nat) (q : Fin 2) (n : Fin 16) (s : State) : Out3 :=
  .next (s.updRq tile (16 * q.val + n.val) fun r => { r with freed := r.freed - 1 })

/-- `rqtake` (R151): the result and the buffer bytes are written at latency 12. A queue entry in a gated bank raises exact
BANK_OFF with DETAIL 0x01 and An as TRAPADDR (DESIGN CHOICE, entry 95). -/
def State.rqtakeBody (s : State) (h : Head) (p : Fin 8) (qn : Src) : State :=
  let ea := s.me.a[p]
  let v := s.src 2 qn
  let s := s.unfence
  let q := 16 * s.myLQuad + bits v 3 0
  let r := s.rqOf s.myTile q
  if s.fenced || s.acqHeld then s.stall
  else if bits v 63 4 ≠ 0 then s.exact Cause.queueState 2 ea
  else if !r.en then s.exact Cause.queueState 1 ea
  else match s.range ea 64 8 false with
    | .error (c, k) => s.exact c k ea
    | .ok b => s.rangesReady [b] <|
      if s.rngVecHeld b || s.rngStoreHeld b then s.stall
      else if r.count = 0 then s.park 5
      else
        let at_ := s.entryPhys s.myTile q r.head
        match s.rangeBank at_ 64 with
        | .off => s.exact Cause.bankOff 1 ea true
        | .ret | .waking => s.bankStall at_ 64
        | .on =>
          if s.lPoisoned at_ 64 then s.exact Cause.memoryError (s.localSyndrome 1 at_ 64) ea
          else
            let m := Tab.getD r.msgs r.head (64, 0)
            let bs := Mem.read s.lmem at_ m.1
            let due := s.cycle + 12
            let op : VOp := ⟨s.freeN + 1, s.cur, s.cells s.myView s.myLQuad b.off bs,
              s.pieces s.myView s.myLQuad b.off m.1, [], 0, due, s.cycle⟩
            let s := s.settle 5 (256 * (32 * s.myTile + q) + r.head)
            let s := s.updRq s.myTile q fun r =>
              { r with head := (r.head + 1) % r.entries, count := r.count - 1, reserved := r.reserved - 1, freed := r.freed + 1 }
            let s := s.updQuad s.myQuad fun x => { x with vops := x.vops ++ [op] }
            s.doneL h 8 12 (BitVec.ofNat 64 (m.1 + m.2 * 2 ^ 16))

def execRqtake (h : Head) (p : Fin 8) (qn : Src) (s : State) : Out3 := issue h 8 s (s.rqtakeBody h p qn)

/-! ### Rings (R152) -/

/-- The register checks of `ring.def`: the DETAIL of RING_CONFIG. -/
def ringCheck (base size : W64) (d n : Nat) : Option Nat :=
  let b := base.toNat
  let z := size.toNat
  if 2 ^ 21 ≤ b ∨ b % 64 ≠ 0 then some 1
  else if z % 64 ≠ 0 ∨ 2 ^ 19 < (d + 1) * z then some 2
  else if 2 ^ 21 < b + n * z then some 3
  else none

def execRingDef (h : Head) (base size : Src) (d n : BitVec 5) (lvl : Fin 4) (k : Fin 8) (s : State) : Out3 :=
  let b := s.src 1 base
  let z := s.src 2 size
  let nn := n.toNat + 1
  issue h 8 s <|
    if (s.grain.dom (lvlNum lvl)).isNone then s.exact Cause.barrierLevel 1
    else if z = 0 then (s.updGrain fun g => { g with rings := g.rings.set k none }).doneN 8
    else match ringCheck b z d.toNat nn with
      | some e => s.exact Cause.ringConfig e
      | none =>
        let r : Option Ring := some ⟨b.toNat, z.toNat, nn, d.toNat, lvlNum lvl, 0⟩
        (s.updGrain fun g => { g with rings := g.rings.set k r }).doneN 8

end Sys2Proof.Machine
end

