-- ==== Sys2Proof/Machine/Vector.lean ====
section
/-! DEFINITION. Vector instructions, OPM 0x30 to 0x36 (06 R157 to R179). -/

namespace Sys2Proof.Machine

/-! ### Operands -/

/-- The value that a descriptor captures at issue: a base address or a scalar (R159). -/
def State.vcap (s : State) (k : Nat) : VDesc → W64
  | .absent => 0
  | .mem p _ => s.me.a[p]
  | .scalar r => s.src k r

def vmem? : VDesc → Bool
  | .mem .. => true
  | _ => false

/-- The pointers that a format V instruction advances: each named one once (R159). -/
def VArgs.posts (v : VArgs) : List (Fin 8) :=
  ([v.d, v.x, v.y, v.z].filterMap fun
    | .mem p true => some p
    | _ => none).eraseDups

def State.vbump (s : State) (v : VArgs) : State :=
  (VArgs.posts v).foldl (fun s p => s.updMe fun c => c.bump p) s

/-- A memory operand at issue: its place in D, X, Y, Z, base, bytes, alignment, and whether it is only a
base (R177). -/
structure VOpd where
  k : Nat
  base : W64
  n : Nat
  align : Nat
  only : Bool
  deriving DecidableEq, Repr

/-- Whether an instruction takes at most 64 elements of every type (R157). -/
def vnarrow : Instr → Bool
  | .vcvt .. | .vgath .. | .vscat .. => true
  | _ => false

/-- The source type of a conversion (R169). -/
def cvtSrc (v : VArgs) : VTy := vtyOf (v.opt.toNat % 8)

/-- The memory operands of an instruction with their sizes, from its captured bases (R158, R173, R174, R177). -/
def vopds (i : Instr) (v : VArgs) (e : Nat) (caps : List W64) : List VOpd :=
  let b := VTy.bytes v.ty
  let cap (k : Nat) : W64 := caps.getD k 0
  let full (k : Nat) : VOpd := ⟨k, cap k, e * b, b, false⟩
  let idx : VOpd := ⟨2, cap 2, 4 * e, 4, false⟩
  let pick (k : Nat) (d : VDesc) (o : VOpd) : List VOpd := if vmem? d then [{ o with k := k }] else []
  match i with
  | .vcvt .. =>
    let bs := VTy.bytes (cvtSrc v)
    full 0 :: pick 1 v.x ⟨1, cap 1, e * bs, bs, false⟩
  | .vbcast .. => full 0 :: pick 1 v.x ⟨1, cap 1, b, b, false⟩
  | .vperm .. => full 0 :: full 1 :: pick 2 v.y idx
  | .vgath .. => [full 0, ⟨1, cap 1, 0, b, true⟩, idx]
  | .vscat .. => [⟨0, cap 0, 0, b, true⟩] ++ pick 1 v.x (full 1) ++ [idx]
  | _ => pick 0 v.d (full 0) ++ pick 1 v.x (full 1) ++ pick 2 v.y (full 2) ++ pick 3 v.z (full 3)

/-- Steps 1 to 3 of R160 on a base alone, by the slice of the place that it resolves to (R177, R401). -/
def State.baseCheck (s : State) (b : W64) (al : Nat) : Option (Nat × Nat) :=
  let a := b.toNat
  if 2 ^ 32 ≤ a then some (Cause.localAddress, 3)
  else if !inRegion a then some (Cause.localAddress, 1)
  else if (s.placeOf a).any fun p => !s.slicesHeld p.off 1 then some (Cause.peerGone, 3)
  else if a % al ≠ 0 then some (Cause.misaligned, 1)
  else none

/-- The first pass of R160 over operands in order: the resolved ranges by place, or the failing base. -/
def State.vranges (s : State) : List VOpd → Except (W64 × Nat × Nat) (List (Nat × Rng))
  | [] => .ok []
  | o :: os =>
    if o.only then
      match s.baseCheck o.base o.align with
      | some e => .error (o.base, e.1, e.2)
      | none => s.vranges os
    else
      match s.range o.base o.n o.align with
      | .error e => .error (o.base, e.1, e.2)
      | .ok r =>
        match s.vranges os with
        | .error e => .error e
        | .ok l => .ok ((o.k, r) :: l)

/-- The (slice, quarter) pairs that a range touches (R162). -/
def Rng.pairs (r : Rng) : List (Nat × Nat) :=
  ((List.range (r.len / 256 + 2)).filterMap fun i =>
    let a := r.off / 256 * 256 + 256 * i
    if a < r.off + r.len then some (a / 2 ^ 19, a / 256 % 4) else none).eraseDups

/-- C: the bank-quarter collisions of the operands (R162). -/
def collisions (rs : List Rng) : Nat :=
  let ps := rs.map Rng.pairs
  ((ps.flatten).eraseDups.map fun p => (ps.countP fun l => l.contains p) - 1).sum

/-- Occupancy and completion, in cycles from acceptance, without C (R163). -/
def vlat : Instr → Nat × Nat
  | .vexp2 .. | .vlog2 .. | .vrcp .. | .vrsq .. => (2, 12)
  | .vredadd .. | .vredmax .. | .vredmin .. => (1, 10)
  | .vscan .. => (2, 10)
  | _ => (1, 6)

/-- Elements from bytes. -/
def elemsOf (k : Nat) : (n : Nat) → List Byte → List Nat
  | 0, _ => []
  | n + 1, bs => ofBytes (bs.take k) :: elemsOf k n (bs.drop k)

/-- The elements of a source: from memory, or the scalar's low bits in every lane (R158). -/
def State.velems (s : State) (rs : List (Nat × Rng)) (k : Nat) (d : VDesc) (ty : VTy) (bytes e : Nat) (cap : W64)
    (one : Bool) : List Nat :=
  match d with
  | .absent => []
  | .scalar _ => List.replicate e (cap.toNat % 2 ^ VTy.bits ty)
  | .mem .. =>
    match Tab.find rs k with
    | none => []
    | some r =>
      let bs := s.rread r
      if one then List.replicate e (ofBytes (bs.take bytes)) else elemsOf bytes e bs

/-! ### Results -/

/-- What an instruction computes: destination elements, flags, a scalar result, and the rounding registers. -/
structure VRes where
  outs : List Nat
  fl : Flags
  scalar : Option W64 := none
  lfsr : Option (Vector W32 64) := none
  deriving DecidableEq, Repr

def VRes.of (p : List Nat × Flags) : VRes := ⟨p.1, p.2, none, none⟩
def VRes.red (p : W64 × Flags) : VRes := ⟨[], p.2, some p.1, none⟩

/-- The results of an instruction on its source elements (R167 to R176). -/
def vcompute (i : Instr) (v : VArgs) (e : Nat) (lf : Vector W32 64) (xs ys zs : List Nat) : VRes :=
  let t := v.ty
  let sat := bit v.opt 0
  let k := v.opt.toNat % 4
  match i with
  | .vadd .. => .of (two t sat FFmt.add (· + ·) xs ys)
  | .vsub .. => .of (two t sat FFmt.sub (· - ·) xs ys)
  | .vmul .. => .of (two t sat FFmt.mul (· * ·) xs ys)
  | .vfma .. => .of (three t sat false xs ys zs)
  | .vfms .. => .of (three t sat true xs ys zs)
  | .vmin .. => .of (two t false (fun f => f.minmax false) min xs ys)
  | .vmax .. => .of (two t false (fun f => f.minmax true) max xs ys)
  | .vabs .. => .of (absV t sat xs)
  | .vneg .. => .of (negV t sat xs)
  | .vexp2 .. => .of (oneF t FFmt.exp2 xs)
  | .vlog2 .. => .of (oneF t FFmt.log2 xs)
  | .vrcp .. => .of (oneF t FFmt.rcp xs)
  | .vrsq .. => .of (oneF t FFmt.rsq xs)
  | .vcvt .. =>
    let r := cvtL (cvtSrc v) t v.rm 0 lf xs
    let o := lanes r.1
    ⟨o.1, o.2, none, some r.2⟩
  | .vand .. => .of (rawOp Nat.land xs ys)
  | .vor .. => .of (rawOp Nat.lor xs ys)
  | .vxor .. => .of (rawOp Nat.xor xs ys)
  | .vshl .. => .of (rawOp (shlV t) xs ys)
  | .vshr .. => .of (rawOp (shrV t) xs ys)
  | .vsra .. => .of (rawOp (sraV t) xs ys)
  | .vcmp .. => .of (cmpL t k xs ys)
  | .vsel .. => .of (selL xs ys zs)
  | .vbcast .. | .vmov .. => .of (xs, 0)
  | .vperm .. =>
    .of (permL xs (if vmem? v.y then ys.map fun y => y % max 1 e else (List.range e).map (permIdx v.imm e)))
  | .vredadd .. => .red (reduceV t 0 xs)
  | .vredmax .. => .red (reduceV t 1 xs)
  | .vredmin .. => .red (reduceV t 2 xs)
  | .vscan .. => .of (scanL t k xs)
  | _ => ⟨[], 0, none, none⟩

/-- The sources of an instruction read from its ranges, and its results. -/
def State.vresult (s : State) (i : Instr) (v : VArgs) (e : Nat) (caps : List W64) (rs : List (Nat × Rng)) : VRes :=
  let ty := v.ty
  let b := VTy.bytes ty
  let xt := match i with
    | .vcvt .. => cvtSrc v
    | _ => ty
  let one := match i with
    | .vbcast .. => true
    | _ => false
  let idx := match i with
    | .vperm .. => true
    | _ => false
  let xs := s.velems rs 1 v.x xt (VTy.bytes xt) e (caps.getD 1 0) one
  let ys := s.velems rs 2 v.y ty (if idx then 4 else b) e (caps.getD 2 0) false
  let zs := s.velems rs 3 v.z ty b e (caps.getD 3 0) false
  vcompute i v e s.me.lfsr xs ys zs

/-! ### Acceptance (R160, R161) -/

/-- Whether the unit accepts nothing in this cycle. -/
def State.vunitBusy (s : State) : Bool := decide (s.cycle < (s.quadOf s.myQuad).vbusy)

/-- The address of lane i of a gather or scatter, from a captured base and index bytes (R177). -/
def gathAddr (base : W64) (idx : List Byte) (bytes i : Nat) : W64 :=
  base + sx (BitVec.ofNat 32 (ofBytes ((idx.drop (4 * i)).take 4))) * BitVec.ofNat 64 bytes

/-- The physical ranges that an accepted gather or scatter is still to write (R161). -/
def State.gathDests (s : State) (c : CtxId) (o : Out) : List (Nat × Nat) :=
  let w : View := (c.sheaf, c.grain / 8)
  let lq := c.grain % 8 / 4
  let e := (o.caps.getD 1 0).toNat
  match o.instr, o.stage with
  | .vgath _ v, .sent => s.pieces w lq (o.caps.getD 2 0).toNat (e * VTy.bytes v.ty)
  | .vscat _ v, .sent =>
    let b := VTy.bytes v.ty
    ((List.range e).map fun i => (gathAddr (o.caps.getD 0 0) o.data b i).toNat).filterMap fun a =>
      if a + b ≤ 2 ^ 21 then some (s.physAddr w lq a, b) else none
  | _, _ => []

/-- The physical ranges that the accepted instructions of the quad are still to write. -/
def State.vdests (s : State) : List (Nat × Nat) :=
  (s.quadOf s.myQuad).vops.flatMap (fun o => o.dests) ++ s.ctxs.flatMap fun e =>
    if s.coreOfCtx e.1 / 4 = s.myQuad then (e.2.out.toList.flatMap (s.gathDests e.1)) else []

/-- Whether an operand overlaps the destination of an instruction in flight in the quad (R161). -/
def State.vheld (s : State) (rs : List Rng) : Bool :=
  rs.any fun r => (s.myPieces r).any fun p => s.vdests.any (touches p)

/-- The unit is taken for O cycles by the executing core. -/
def State.vtake (s : State) (o : Nat) : State :=
  s.updQuad s.myQuad fun q => { q with vbusy := q.cycle + o, vlast := s.myCore % 4 }

/-- The destination and source ranges of an instruction. -/
def vdest (rs : List (Nat × Rng)) : List Rng := (rs.filter fun p => p.1 == 0).map Prod.snd
def vsrcs (rs : List (Nat × Rng)) : List Rng := (rs.filter fun p => p.1 != 0).map Prod.snd

/-- The local address of the lowest word of a source that holds an uncorrectable error (R165). -/
def State.poisonIn (s : State) (rs : List Rng) : Option W64 :=
  match rs.find? s.rngPoisoned with
  | none => none
  | some r =>
    let bad (k : Nat) : Bool :=
      s.lPoisoned (s.physAddr s.myView s.myLQuad (min (r.off + r.len - 1) ((r.off + 4 * k) / 4 * 4))) 1
    match (List.range (r.len / 4 + 2)).find? bad with
    | some 0 => some r.base
    | some k => some (BitVec.ofNat 64 ((r.base.toNat + 4 * k) / 4 * 4))
    | none => some r.base

/-- The syndrome of the first of the sources that holds an error (R324). -/
def State.vecSyndrome (s : State) (rs : List Rng) : Nat :=
  ((rs.find? s.rngPoisoned).map s.rngSyndrome).getD (syndrome 0 true false 0)

/-- The instruction enters the unit: its results are known, and its destination is written by completion. -/
def State.venter (s : State) (i : Instr) (v : VArgs) (e : Nat) (caps : List W64) (rs : List (Nat × Rng)) :
    State × VRes × Nat :=
  let c := collisions (rs.map Prod.snd)
  let l := vlat i
  let r := s.vresult i v e caps rs
  let bs := r.outs.flatMap fun x => toBytes (VTy.bytes v.ty) x
  let d := vdest rs
  let op : VOp := ⟨s.freeN + 1, s.cur, d.flatMap fun x => s.cells s.myView s.myLQuad x.off bs,
    d.flatMap s.myPieces, (vsrcs rs).flatMap s.myPieces, if r.scalar.isSome then 0 else r.fl,
    s.cycle + l.2 + c, s.cycle + l.1 + c⟩
  let s := (s.vtake (l.1 + c)).updQuad s.myQuad fun q => { q with vops := q.vops ++ [op] }
  let s := match r.lfsr with
    | some lf => s.updMe fun x => { x with lfsr := lf }
    | none => s
  (s, r, l.2 + c)

/-- The memory of the executing context's tile that a vector destination covers waits on the scoreboard. -/
def State.vstoreHeld (s : State) (rs : List (Nat × Rng)) : Bool := (vdest rs).any s.rngStoreHeld

/-- A vector instruction other than gather and scatter at issue. -/
def State.vecBody (s : State) (h : Head) (i : Instr) (v : VArgs) : State :=
  let e := activeE v.ty (vnarrow i) s.me.vl
  let caps := [s.vcap 0 v.d, s.vcap 1 v.x, s.vcap 2 v.y, s.vcap 3 v.z, BitVec.ofNat 64 e]
  let s := s.unfence
  if s.fenced || s.rcBusy || s.vunitBusy then s.stall
  else match s.vranges (vopds i v e caps) with
    | .error (b, c, d) => s.exact c d b
    | .ok rs => s.rangesReady (rs.map Prod.snd) <|
      if s.vheld (rs.map Prod.snd) || s.vstoreHeld rs then s.stall
      else match s.poisonIn (vsrcs rs) with
        | some a =>
          (((s.vtake ((vlat i).1 + collisions (rs.map Prod.snd))).vbump v).startL i h 16 a caps).recorded s.cur
            Cause.memoryError (s.vecSyndrome (vsrcs rs)) a false
        | none =>
          let (s, r, lat) := s.venter i v e caps rs
          match r.scalar with
          | some x => (s.vbump v).doneL h 16 lat x r.fl
          | none => (s.vbump v).doneN 16

def execVadd (h : Head) (v : VArgs) (s : State) : Out3 := issue h 16 s (s.vecBody h (.vadd h v) v)
def execVsub (h : Head) (v : VArgs) (s : State) : Out3 := issue h 16 s (s.vecBody h (.vsub h v) v)
def execVmul (h : Head) (v : VArgs) (s : State) : Out3 := issue h 16 s (s.vecBody h (.vmul h v) v)
def execVfma (h : Head) (v : VArgs) (s : State) : Out3 := issue h 16 s (s.vecBody h (.vfma h v) v)
def execVfms (h : Head) (v : VArgs) (s : State) : Out3 := issue h 16 s (s.vecBody h (.vfms h v) v)
def execVmin (h : Head) (v : VArgs) (s : State) : Out3 := issue h 16 s (s.vecBody h (.vmin h v) v)
def execVmax (h : Head) (v : VArgs) (s : State) : Out3 := issue h 16 s (s.vecBody h (.vmax h v) v)
def execVabs (h : Head) (v : VArgs) (s : State) : Out3 := issue h 16 s (s.vecBody h (.vabs h v) v)
def execVneg (h : Head) (v : VArgs) (s : State) : Out3 := issue h 16 s (s.vecBody h (.vneg h v) v)
def execVexp2 (h : Head) (v : VArgs) (s : State) : Out3 := issue h 16 s (s.vecBody h (.vexp2 h v) v)
def execVlog2 (h : Head) (v : VArgs) (s : State) : Out3 := issue h 16 s (s.vecBody h (.vlog2 h v) v)
def execVrcp (h : Head) (v : VArgs) (s : State) : Out3 := issue h 16 s (s.vecBody h (.vrcp h v) v)
def execVrsq (h : Head) (v : VArgs) (s : State) : Out3 := issue h 16 s (s.vecBody h (.vrsq h v) v)
def execVcvt (h : Head) (v : VArgs) (s : State) : Out3 := issue h 16 s (s.vecBody h (.vcvt h v) v)
def execVand (h : Head) (v : VArgs) (s : State) : Out3 := issue h 16 s (s.vecBody h (.vand h v) v)
def execVor (h : Head) (v : VArgs) (s : State) : Out3 := issue h 16 s (s.vecBody h (.vor h v) v)
def execVxor (h : Head) (v : VArgs) (s : State) : Out3 := issue h 16 s (s.vecBody h (.vxor h v) v)
def execVshl (h : Head) (v : VArgs) (s : State) : Out3 := issue h 16 s (s.vecBody h (.vshl h v) v)
def execVshr (h : Head) (v : VArgs) (s : State) : Out3 := issue h 16 s (s.vecBody h (.vshr h v) v)
def execVsra (h : Head) (v : VArgs) (s : State) : Out3 := issue h 16 s (s.vecBody h (.vsra h v) v)
def execVcmp (h : Head) (v : VArgs) (s : State) : Out3 := issue h 16 s (s.vecBody h (.vcmp h v) v)
def execVsel (h : Head) (v : VArgs) (s : State) : Out3 := issue h 16 s (s.vecBody h (.vsel h v) v)
def execVbcast (h : Head) (v : VArgs) (s : State) : Out3 := issue h 16 s (s.vecBody h (.vbcast h v) v)
def execVmov (h : Head) (v : VArgs) (s : State) : Out3 := issue h 16 s (s.vecBody h (.vmov h v) v)
def execVperm (h : Head) (v : VArgs) (s : State) : Out3 := issue h 16 s (s.vecBody h (.vperm h v) v)
def execVredadd (h : Head) (v : VArgs) (s : State) : Out3 := issue h 16 s (s.vecBody h (.vredadd h v) v)
def execVredmax (h : Head) (v : VArgs) (s : State) : Out3 := issue h 16 s (s.vecBody h (.vredmax h v) v)
def execVredmin (h : Head) (v : VArgs) (s : State) : Out3 := issue h 16 s (s.vecBody h (.vredmin h v) v)
def execVscan (h : Head) (v : VArgs) (s : State) : Out3 := issue h 16 s (s.vecBody h (.vscan h v) v)

/-! ### Gather and scatter (R177, R178) -/

/-- B of one group: the most lanes whose elements fall in one bank (R163). -/
def groupB (as_ : List Nat) : Nat :=
  let ks := as_.map fun a => (a / 2 ^ 19 % 4, bankOf a)
  (ks.map fun k => ks.count k).foldl max 1

/-- ΣB over the groups of 16 lanes. -/
def sumB (as_ : List Nat) : Nat → Nat
  | 0 => 0
  | n + 1 => groupB (as_.take 16) + sumB (as_.drop 16) n

/-- What a gather or scatter captures at acceptance: its indices followed by the data to scatter, the offset of its dense
destination, the elements that it names in the own-quad window, as physical ranges, and its occupancy (R163, R177). -/
structure GathCap where
  data : List Byte
  dOff : Nat
  elems : List (Nat × Nat)
  occ : Nat
  deriving DecidableEq, Repr

def State.gathCap (s : State) (v : VArgs) (scatter : Bool) (e : Nat) (caps : List W64) (rs : List (Nat × Rng)) : GathCap :=
  let b := VTy.bytes v.ty
  let idx := match Tab.find rs 2 with
    | some r => s.rread r
    | none => []
  let xs := if scatter then (s.velems rs 1 v.x v.ty b e (caps.getD 1 0) false).flatMap (toBytes b) else []
  let as_ := (List.range e).map fun k => (gathAddr (caps.getD (if scatter then 0 else 1) 0) idx b k).toNat
  ⟨idx ++ xs, ((vdest rs).head?.map fun r => r.off).getD 0,
    (as_.filter fun a => decide (a + b ≤ 2 ^ 21)).map fun a => (s.physAddr s.myView s.myLQuad a, b),
    6 + collisions (rs.map Prod.snd) + sumB as_ ((e + 15) / 16)⟩

/-- Whether an accepted gather or scatter must wait: its dense operands and its elements for the destinations of earlier accepted
instructions (R161), and what it writes for pending engine commands (R160, R211). -/
def State.gathHeld (s : State) (scatter : Bool) (rs : List (Nat × Rng)) (g : GathCap) : Bool :=
  s.vheld (rs.map Prod.snd) || (g.elems.any fun p => s.vdests.any (touches p)) ||
    if scatter then g.elems.any fun p => s.storeHeld s.myTile p.1 p.2 else s.vstoreHeld rs

/-- `vgath` and `vscat` at acceptance: the base, E, the indices and the data to scatter are captured. -/
def State.gathBody (s : State) (_h : Head) (i : Instr) (v : VArgs) (scatter : Bool) : State :=
  let e := activeE v.ty true s.me.vl
  let caps := [s.vcap 0 v.d, s.vcap 1 v.x, s.vcap 2 v.y]
  let s := s.unfence
  if s.fenced || s.rcBusy || s.vunitBusy then s.stall
  else match s.vranges (vopds i v e caps) with
    | .error (a, c, d) => s.exact c d a
    | .ok rs => s.rangesReady (rs.map Prod.snd) <|
      let g := s.gathCap v scatter e caps rs
      if s.gathHeld scatter rs g then s.stall
      else
        let base := caps.getD (if scatter then 0 else 1) 0
        match s.poisonIn (vsrcs rs) with
        | some a =>
          (((s.vtake g.occ).vbump v).startN i 16 a (caps ++ [BitVec.ofNat 64 e])).recorded s.cur Cause.memoryError
            (s.vecSyndrome (vsrcs rs)) a false
        | none =>
          let due := s.cycle + g.occ
          let s := ((s.vtake g.occ).vbump v).startN i 16 base
            [base, BitVec.ofNat 64 e, BitVec.ofNat 64 g.dOff] g.data .sent
          s.updOut s.cur fun x => { x with due := some due }

def execVgath (h : Head) (v : VArgs) (s : State) : Out3 := issue h 16 s (s.gathBody h (.vgath h v) v false)
def execVscat (h : Head) (v : VArgs) (s : State) : Out3 := issue h 16 s (s.gathBody h (.vscat h v) v true)

/-- The check of one lane's element (R177). -/
inductive LaneChk where
  | ok
  | wake
  | bad (cause detail : Nat) (restart : Bool)
  deriving DecidableEq, Repr

/-- The check of one lane. The slice check of R401 is made here, against the placement of that moment, and recorded as the other
checks of R177 are (DEDUCED, entry 57). -/
def State.laneCheck (s : State) (a : W64) (b : Nat) : LaneChk :=
  let off := a.toNat
  if 2 ^ 32 ≤ off then .bad Cause.localAddress 3 false
  else if 2 ^ 21 < off + b then .bad Cause.localAddress 5 false
  else if !s.slicesHeld off b then .bad Cause.peerGone 3 false
  else if s.inWindow s.myQuad off b then .bad Cause.localAddress 7 false
  else
    let p := s.physAddr s.myView s.myLQuad off
    match s.rangeBank p b with
    | .off => .bad Cause.bankOff 3 true
    | .on => .ok
    | _ => .wake

/-- The first lane of a group whose element, read by a gather, holds an uncorrectable error (R178). -/
def State.lanePoison (s : State) (o : Out) (b : Nat) (is_ : List Nat) : Option Nat :=
  is_.find? fun i => s.lPoisoned (s.physAddr s.myView s.myLQuad (gathAddr (o.caps.getD 0 0) o.data b i).toNat) b

/-- One group of lanes: every address is checked in order, then the elements are read and moved (R177, R178). A write to a line
whose copy for a checkpoint is pending waits (R297). The last group ends the instruction, no earlier than its completion
cycle. -/
def State.gathGroup (s : State) (o : Out) (v : VArgs) (scatter : Bool) : State :=
  let b := VTy.bytes v.ty
  let base := o.caps.getD 0 0
  let e := (o.caps.getD 1 0).toNat
  let dOff := (o.caps.getD 2 0).toNat
  let lo := o.prog
  let hi := min (lo + 16) e
  let is_ := (List.range e).filter fun i => decide (lo ≤ i) && decide (i < hi)
  let last := decide (e ≤ lo + 16)
  let wait := last && (match o.due with
    | some d => decide (s.cycle < d)
    | none => false)
  if wait then s
  else match is_.find? fun i => s.laneCheck (gathAddr base o.data b i) b != .ok with
    | some i =>
      let a := gathAddr base o.data b i
      match s.laneCheck a b with
      | .bad c d r => s.recorded s.cur c d a r
      | _ => s.wakeRet (s.physAddr s.myView s.myLQuad a.toNat) b
    | none =>
      let at_ (i : Nat) : Nat := (gathAddr base o.data b i).toNat
      match if scatter then none else s.lanePoison o b is_ with
      | some i => s.recorded s.cur Cause.memoryError
          (s.localSyndrome 0 (s.physAddr s.myView s.myLQuad (at_ i)) b) (gathAddr base o.data b i) false
      | none =>
      let cells :=
        if scatter then
          is_.flatMap fun i => s.cells s.myView s.myLQuad (at_ i) ((o.data.drop (4 * e + b * i)).take b)
        else
          is_.flatMap fun i => s.cells s.myView s.myLQuad (dOff + b * i) (s.qread s.myView s.myLQuad (at_ i) b)
      if cells.any fun x => s.copyMeets x.1 1 then s else
      let s := (s.putCells cells).cleanCells cells
      if last then s.finish s.cur o.tag 0
      else s.updOut s.cur fun o => { o with prog := lo + 16 }

/-- The operands of a format V instruction. -/
def vargsOf : Instr → Option VArgs
  | .vadd _ v | .vsub _ v | .vmul _ v | .vfma _ v | .vfms _ v | .vmin _ v | .vmax _ v | .vabs _ v | .vneg _ v
  | .vexp2 _ v | .vlog2 _ v | .vrcp _ v | .vrsq _ v | .vcvt _ v | .vand _ v | .vor _ v | .vxor _ v
  | .vshl _ v | .vshr _ v | .vsra _ v | .vcmp _ v | .vsel _ v | .vbcast _ v | .vmov _ v | .vperm _ v
  | .vredadd _ v | .vredmax _ v | .vredmin _ v | .vscan _ v => some v
  | _ => none

/-- A recorded vector instruction is completed on resume, from its captured operands (R32, R165). -/
def State.vecRetry (s : State) (o : Out) (v : VArgs) : State :=
  let e := (o.caps.getD 4 0).toNat
  if s.vunitBusy then s
  else match s.vranges (vopds o.instr v e o.caps) with
    | .error (b, c, d) => s.recorded s.cur c d b false
    | .ok rs =>
      if (rs.any fun p => s.rngBank p.2 != .on) || s.vheld (rs.map Prod.snd) || s.vstoreHeld rs then
        rs.foldl (fun s p => s.rngWake p.2) s
      else match s.poisonIn (vsrcs rs) with
        | some a => s.recorded s.cur Cause.memoryError (s.vecSyndrome (vsrcs rs)) a false
        | none =>
          let (s, r, lat) := s.venter o.instr v e o.caps rs
          match r.scalar with
          | some x => s.fixResult s.cur o.tag x (s.cycle + lat) r.fl
          | none => s.finish s.cur o.tag 0

/-- A gather or scatter recorded before it captured its operands starts again from its captured bases: it enters the unit as an
accepted one does. One recorded between groups goes on without the unit (DESIGN CHOICE, entry 123). -/
def State.gathRetry (s : State) (o : Out) (v : VArgs) (scatter : Bool) : State :=
  let e := (o.caps.getD 3 0).toNat
  if s.vunitBusy then s
  else match s.vranges (vopds o.instr v e o.caps) with
  | .error (a, c, d) => s.recorded s.cur c d a false
  | .ok rs =>
    let g := s.gathCap v scatter e o.caps rs
    if (rs.any fun p => s.rngBank p.2 != .on) || s.gathHeld scatter rs g then
      rs.foldl (fun s p => s.rngWake p.2) s
    else match s.poisonIn (vsrcs rs) with
      | some a => s.recorded s.cur Cause.memoryError (s.vecSyndrome (vsrcs rs)) a false
      | none =>
        let due := s.cycle + g.occ
        (s.vtake g.occ).updOut s.cur fun o => { o with
          stage := .sent
          caps := [o.caps.getD (if scatter then 0 else 1) 0, BitVec.ofNat 64 e, BitVec.ofNat 64 g.dOff]
          data := g.data
          due := some due }

/-- One group of a gather or scatter, or the completion of a recorded vector instruction. It does nothing
where the context has no vector instruction in progress, nor while the quad's clock switches (14 R351). -/
def State.vecStep (s : State) (c : CtxId) : State :=
  match s.outOf c with
  | none => s
  | some o => if (s.quadOf (s.coreOfCtx c / 4)).phase = 2 then s else s.asCtx c fun s =>
    match o.instr with
    | .vgath _ v => if o.stage = .sent then s.gathGroup o v false else s.gathRetry o v false
    | .vscat _ v => if o.stage = .sent then s.gathGroup o v true else s.gathRetry o v true
    | i => match vargsOf i with
      | some v => s.vecRetry o v
      | none => s

def execVectorGroup (c : CtxId) (s : State) : Out3 := .next (s.vecStep c)

/-- A vector instruction completes (R163). It does nothing before its completion cycle. -/
def State.vecDone (s : State) (quad n : Nat) : State :=
  match (s.quadOf quad).vops.find? fun o => o.n == n with
  | none => s
  | some o =>
    if s.cycleOf quad < o.due then s
    else
      let s := s.updQuad quad fun q => { q with vops := q.vops.erase o }
      ((s.putCells o.writes).cleanCells o.writes).updCtx o.ctx fun x => { x with aflags := x.aflags ||| o.flags }

def execVectorCompletion (quad n : Nat) (s : State) : Out3 := .next (s.vecDone quad n)

/-! ### Setting the length (R179) -/

def State.setVl (s : State) (h : Head) (v : W64) : State :=
  if v = 0 ∨ 128 < v.toNat then s.exact Cause.sysregValue 1
  else (s.updMe fun c => { c with vl := v.toNat }).doneS h 8 v

def execVsetvl (h : Head) (a : Src) (s : State) : Out3 := issue h 8 s (s.setVl h (s.src 1 a))
def execVsetvlImm (h : Head) (n : BitVec 8) (s : State) : Out3 := issue h 8 s (s.setVl h (zx n))

end Sys2Proof.Machine
end

