-- ==== Sys2Proof/Machine/Matrix.lean ====
section
/-! DEFINITION. Matrix and delta instructions, OPM 0x38 to 0x3A (07 R180 to R205): the checks at issue, the
queued commands, and the steps that execute them. -/

namespace Sys2Proof.Machine

/-! ### Sizes (R189, R194) -/

/-- M, N and K / 32 of a format M instruction. -/
def mM (x : MArgs) : Nat := x.mm.toNat + 1
def mN (x : MArgs) : Nat := x.nn.toNat + 1
def mNK (x : MArgs) : Nat := x.kb.toNat + 1

def isKb : Fmt → Bool
  | .kb8 | .kb4 => true
  | _ => false

/-- Units of the bitmap, the exponents and the data of an image of N × NK blocks (R189). -/
def bitmapUnits (blocks : Nat) : Nat := ceilDiv blocks 256
def expUnits (fb : Fmt) (blocks : Nat) : Nat := if isKb fb then ceilDiv blocks 32 else 0
def dataUnits (fb : Fmt) (blocks : Nat) : Nat :=
  match fb with
  | .kb8 => blocks
  | .kb4 => ceilDiv blocks 2
  | _ => 2 * blocks
def footprint (fb : Fmt) (blocks : Nat) : Nat := bitmapUnits blocks + expUnits fb blocks + dataUnits fb blocks

/-- Bytes of a block's elements. -/
def blockBytes : Fmt → Nat
  | .kb8 => 32
  | .kb4 => 16
  | _ => 64

/-- Slots of a KB group, and the offsets of block j's integers and exponent (R74). -/
def groupSlots (f : Fmt) : Nat := if f = .kb4 then 60 else 31
def kbAt (f : Fmt) (j : Nat) : Nat × Nat :=
  let g := j / groupSlots f * 1024
  let sl := j % groupSlots f
  (g + blockBytes f * sl, g + (if f = .kb4 then 960 else 992) + sl)

/-- Bytes of a dense range of blocks: whole groups for a KB format. -/
def denseBytes (f : Fmt) (blocks : Nat) : Nat :=
  if isKb f then ceilDiv blocks (groupSlots f) * 1024 else 64 * blocks

/-- The elements of a block from its bytes. -/
def blockElts (f : Fmt) (bs : List Byte) : List Nat :=
  match f with
  | .kb8 => bs.map BitVec.toNat
  | .kb4 => bs.flatMap fun b => [b.toNat % 16, b.toNat / 16]
  | _ => elemsOf 2 32 bs

/-- K-blocks per tile-op (R194). -/
def sigma (m : MArgs) : Nat := if m.fa = .kb4 ∧ m.fb = .kb4 then 4 else 2

/-! ### Issue (R182) -/

/-- The failing check of a tile's ownership at issue (R188), and of a restore that failed its CRC (R202). -/
def State.ownCheck (s : State) (a : Fin 64) : Option (Nat × Nat) :=
  let x := s.accState s.myTile a
  if !x.opens s.cur.sheaf s.cur.grain then some (Cause.matrixOwner, 1)
  else if x.isSpilled && (s.tileOf s.myTile).accBad.contains a.val then some (Cause.memoryError, syndrome 7 false false 0)
  else none

/-- The first context that meets a restore that failed takes the error; a later command asks for the restore again (R202). -/
def State.meetBad (s : State) (own : Option (Fin 64)) : State :=
  match own with
  | some a => if (s.tileOf s.myTile).accBad.contains a.val then
      s.updTile s.myTile fun t => { t with accBad := t.accBad.filter (· != a.val) } else s
  | none => s

/-- Puts a command into its core's queue. -/
def State.enqueue (s : State) (i : Instr) (tag : Nat) (caps : List W64) (reads writes : List (Nat × Nat))
    (ops : Nat) : State :=
  let tile := s.myTile
  let c : MCmd := ⟨(s.tileOf tile).seqNext, s.quantumOf s.cur, i, s.cur, tag, caps, reads, writes, 0, ops, [], false, none, 0⟩
  (s.updTile tile fun t => { t with seqNext := t.seqNext + 1 }).updGrain fun g => { g with mq := g.mq ++ [c] }

/-- The waits that come before a queued command's checks: fences, an earlier restart-class instruction, a
full queue. -/
def State.mqWait (s : State) : Bool := s.fenced || s.rcBusy || decide (16 ≤ s.grain.mq.length)

/-- The checks of R182 in their order, then the body. `mid` is the alignment check of a dense `mwld`
(R190), `post` are the register values; both yield the DETAIL of MATRIX_OPERAND and an address. -/
def State.mqChecks (s : State) (own : Option (Fin 64)) (foot : Option (Nat × Nat)) (rs : List (W64 × Nat × Nat))
    (mid post : Option (Nat × W64)) (go : List Rng → State) : State :=
  match own.bind s.ownCheck with
  | some (c, d) => (if c = Cause.memoryError then s.meetBad own else s).exact c d
  | none =>
    if (match foot with
        | some (w, f) => decide (16384 < w + f)
        | none => false) then s.exact Cause.matrixOperand 1
    else match s.rangesOf true rs with
      | .error (b, c, d) => s.exact c d b
      | .ok l =>
        match mid with
        | some (d, b) => s.exact Cause.matrixOperand d b
        | none =>
          match l.find? s.rangeHeld with
          | some r => s.holdAt (r.level.getD 0)
          | none => match l.find? fun r => s.rngBank r != .on with
            | some r => if s.rngBank r = .off then s.exact Cause.bankOff 1 r.base true else s.rngStall r
            | none =>
              match post with
              | some (d, b) => s.exact Cause.matrixOperand d b
              | none => if l.any s.rngVecHeld || l.any s.rngMoving || decide (128 < s.scoreUsed s.myTile + l.length) then s.stall else go l

/-- A range as the scoreboard holds it. -/
def Rng.span (r : Rng) : Nat × Nat := (r.off, r.len)

/-- The stride and base limits of R193 and R196: a multiple of 64 up to 2^20, and a base aligned to 64. -/
def strideBad (base stride : W64) : Bool :=
  base.toNat % 64 != 0 || stride.toNat % 64 != 0 || decide (0x0010_0000 < stride.toNat)

def offs (r : Rng) : W64 := BitVec.ofNat 64 r.off

/-! ### `mwld` (R190) -/

def execMwld (h : Head) (m : MArgs) (s : State) : Out3 :=
  issue h 16 s <|
    let s := s.unfence
    if s.mqWait then s.stall
    else
      let a := s.me.a[m.pa]
      let blocks := (mN m) * (mNK m)
      let kb := isKb m.fb
      let mid := if a.toNat % (if kb then 1024 else 64) ≠ 0 then some (2, a) else none
      s.mqChecks none (some (m.woff.toNat, footprint m.fb blocks)) [(a, denseBytes m.fb blocks, if kb then 1 else 2)]
        mid none fun l => (s.enqueue (.mwld h m) 0 (a :: l.map offs) (l.map Rng.span) [] 0).doneN 16

def execMwldImg (h : Head) (g : Src) (m : MArgs) (s : State) : Out3 :=
  let n := s.src 2 g
  issue h 16 s <|
    let s := s.unfence
    if s.mqWait then s.stall
    else
      let a := s.me.a[m.pa]
      let f := footprint m.fb ((mN m) * (mNK m))
      let post := if n.toNat % 32 ≠ 0 ∨ n.toNat < 32 ∨ 32 * f < n.toNat then some (3, 0) else none
      s.mqChecks none (some (m.woff.toNat, f)) [(a, n.toNat, 1)] none post fun l =>
        (s.enqueue (.mwldImg h g m) 0 (a :: l.map offs ++ [n]) (l.map Rng.span) [] 0).doneN 16

def execMwldGl (h : Head) (g : Src) (m : MArgs) (s : State) : Out3 :=
  let a := s.src 1 g
  issue h 16 s <|
    let s := s.unfence
    if s.mqWait then s.stall
    else
      s.mqChecks none (some (m.woff.toNat, footprint m.fb ((mN m) * (mNK m)))) [] none none fun _ =>
        if !canonical a then s.exact Cause.addressForm 1 a
        else if a.toNat % 64 ≠ 0 then s.exact Cause.misaligned 1 a
        else (s.enqueue (.mwldGl h g m) (s.freeN + 1) [a] [] [] 0).startN (.mwldGl h g m) 16 a

/-! ### `mma` (R192 to R195) -/

/-- The range of A: bytes and alignment (R193). -/
def aRange (m : MArgs) (stride : W64) : Nat × Nat :=
  if isKb m.fa then (denseBytes m.fa ((mM m) * (mNK m)), 1)
  else if m.ta then ((32 * (mNK m) - 1) * stride.toNat + 2 * (mM m), 2)
  else (((mM m) - 1) * stride.toNat + 64 * (mNK m), 2)

/-- The register check of A. -/
def aBad (m : MArgs) (a stride : W64) : Option (Nat × W64) :=
  if isKb m.fa then (if a.toNat % 1024 ≠ 0 then some (2, a) else none)
  else if strideBad a stride then some (2, a) else none

def execMma (h : Head) (m : MArgs) (s : State) : Out3 :=
  issue h 16 s <|
    let s := s.unfence
    if s.mqWait then s.stall
    else
      let a := s.me.a[m.pa]
      let st := s.me.as_[m.pa]
      let r := aRange m st
      s.mqChecks (some m.acc) (some (m.woff.toNat, footprint m.fb ((mN m) * (mNK m)))) [(a, r.1, r.2)] none (aBad m a st)
        fun l => (s.enqueue (.mma h m) 0 ([a] ++ l.map offs ++ [st]) (l.map Rng.span) []
          (ceilDiv (mNK m) (sigma m))).doneN 16

/-- The skip stream register takes the list's address at issue (R195). -/
def execMmaSp (h : Head) (m : MArgs) (s : State) : Out3 :=
  issue h 16 s <|
    let s := s.unfence
    if s.mqWait then s.stall
    else
      let a := s.me.a[m.pa]
      let st := s.me.as_[m.pa]
      let b := s.me.a[m.pb]
      let r := aRange m st
      s.mqChecks (some m.acc) (some (m.woff.toNat, footprint m.fb ((mN m) * (mNK m)))) [(a, r.1, r.2), (b, 4 * (mNK m), 4)]
        none (aBad m a st) fun l =>
          let caps := match l with
            | [x, y] => [a, offs x, st, b, offs y]
            | _ => []
          ((s.enqueue (.mmaSp h m) 0 caps (l.map Rng.span) [] 0).updGrain fun g => { g with skip := b }).doneN 16

/-! ### Moving tile data (R196) and `mstat` (R197) -/

def execMzero (h : Head) (m : MArgs) (s : State) : Out3 :=
  issue h 16 s <|
    let s := s.unfence
    if s.mqWait then s.stall
    else s.mqChecks (some m.acc) none [] none none fun _ => (s.enqueue (.mzero h m) 0 [] [] [] 0).doneN 16

/-- Bytes of an element of the local side. -/
def accElt (m : MArgs) : Nat := if m.fa = .bf16 then 2 else 4

def State.accMove (s : State) (i : Instr) (m : MArgs) (write : Bool) : State :=
  let s := s.unfence
  if s.mqWait then s.stall
  else
    let a := s.me.a[m.pa]
    let st := s.me.as_[m.pa]
    let n := ((mM m) - 1) * st.toNat + (mN m) * accElt m
    let post := if strideBad a st then some (2, a) else none
    s.mqChecks (some m.acc) none [(a, n, accElt m)] none post fun l =>
      let sp := l.map Rng.span
      (s.enqueue i 0 ([a] ++ l.map offs ++ [st]) (if write then sp else []) (if write then [] else sp) 0).doneN 16

def execMaccRd (h : Head) (m : MArgs) (s : State) : Out3 := issue h 16 s (s.accMove (.maccRd h m) m false)
def execMaccWr (h : Head) (m : MArgs) (s : State) : Out3 := issue h 16 s (s.accMove (.maccWr h m) m true)

def execMstat (h : Head) (m : MArgs) (s : State) : Out3 :=
  issue h 16 s <|
    let s := s.unfence
    if s.mqWait then s.stall
    else (s.enqueue (.mstat h m) (s.freeN + 1) [] [] [] 0).doneTag h 16 (s.freeN + 1)

/-! ### Ownership (R186, R187) -/

def State.setAcc (s : State) (tile : Nat) (a : Fin 64) (x : AccState) : State :=
  s.updTile tile fun t => { t with acc := t.acc.set a x }

/-- A tile is taken and zeroed: 16 core cycles (R186). -/
def State.takeAcc (s : State) (a : Fin 64) : State :=
  let tile := s.myTile
  let due := s.tileCycle tile + 16
  let s := s.updTile tile fun t => { t with
    accZero := Tab.put t.accZero a.val due
    accBad := t.accBad.filter (· != a.val) }
  (s.accClear tile a).setAcc tile a (.owned s.cur.sheaf s.cur.grain)

def execMacq (h : Head) (a : Fin 64) (s : State) : Out3 :=
  issue h 16 s <|
    match s.accState s.myTile a with
    | .free => (s.takeAcc a).doneL h 16 4 1
    | .spilled sh _ _ =>
      if s.placedOn sh s.myTile then s.doneL h 16 4 0 else (s.takeAcc a).doneL h 16 4 1
    | .owned sh g => s.doneL h 16 4 (if sh = s.cur.sheaf ∧ g = s.cur.grain then 2 else 0)
    | .pinned .. => s.doneL h 16 4 0

def execMrel (h : Head) (a : Fin 64) (s : State) : Out3 :=
  issue h 16 s <|
    if s.accNamed s.myTile a then s.park 0
    else if s.accState s.myTile a = .owned s.cur.sheaf s.cur.grain then (s.setAcc s.myTile a .free).doneN 16
    else s.exact Cause.matrixOwner 2

def execMpin (h : Head) (a : Fin 64) (s : State) : Out3 :=
  issue h 16 s <|
    if s.accState s.myTile a = .owned s.cur.sheaf s.cur.grain then
      (s.setAcc s.myTile a (.pinned s.cur.sheaf s.cur.grain)).doneN 16
    else s.exact Cause.matrixOwner 2

def execMunpin (h : Head) (a : Fin 64) (s : State) : Out3 :=
  issue h 16 s <|
    if s.accNamed s.myTile a then s.park 0
    else match s.accState s.myTile a with
      | .pinned sh _ =>
        if sh = s.cur.sheaf then (s.setAcc s.myTile a (.owned sh s.cur.grain)).doneN 16
        else s.exact Cause.matrixOwner 3
      | _ => s.exact Cause.matrixOwner 3

/-! ### The delta instructions (R198, R199) -/

/-- The pointers of a delta instruction that PI advances. -/
def deltaBump (s : State) (m : MArgs) (two : Bool) : State :=
  if bit m.opt 0 then
    let s := s.updMe fun c => c.bump m.pa
    if two ∧ m.pb ≠ m.pa then s.updMe fun c => c.bump m.pb else s
  else s

def State.deltaBody (s : State) (i : Instr) (m : MArgs) (inB : Nat) (outB : Option Nat) (ops : Nat) : State :=
  let s := s.unfence
  if s.mqWait then s.stall
  else
    let a := s.me.a[m.pa]
    let b := s.me.a[m.pb]
    let rs := (a, inB, 256) :: (match outB with
      | some n => [(b, n, 256)]
      | none => [])
    s.mqChecks (some m.acc) none rs none none fun l =>
      let caps := match l with
        | [x, y] => [a, offs x, 0, b, offs y]
        | [x] => [a, offs x]
        | _ => []
      ((deltaBump s m outB.isSome).enqueue i 0 caps ((l.take 1).map Rng.span) ((l.drop 1).map Rng.span) ops).doneN 16

/-- Tokens of `delta.chunk`. -/
def deltaT (m : MArgs) : Nat := bits m.opt 4 1 + 1

def execDeltaUpd (h : Head) (m : MArgs) (s : State) : Out3 :=
  issue h 16 s (s.deltaBody (.deltaUpd h m) m 1024 none 2)
def execDeltaChunk (h : Head) (m : MArgs) (s : State) : Out3 :=
  issue h 16 s (s.deltaBody (.deltaChunk h m) m (1024 * deltaT m) (some (256 * deltaT m)) (3 * deltaT m))
def execDeltaQry (h : Head) (m : MArgs) (s : State) : Out3 :=
  issue h 16 s (s.deltaBody (.deltaQry h m) m 256 (some 256) 1)

/-! ### Execution: memory -/

/-- Captured values of a command. -/
def MCmd.aLocal (c : MCmd) : W64 := c.caps.getD 0 0
def MCmd.aOff (c : MCmd) : Nat := (c.caps.getD 1 0).toNat
def MCmd.stride (c : MCmd) : Nat := (c.caps.getD 2 0).toNat
def MCmd.bLocal (c : MCmd) : W64 := c.caps.getD 3 0
def MCmd.bOff (c : MCmd) : Nat := (c.caps.getD 4 0).toNat

/-- Writes local words as an engine or matrix command does: FULL, markers cleared, and lost in a bank that
has been gated since issue (R133, R182). -/
def State.putEngine (s : State) (cs : List Host.Cell) : State :=
  let cs := cs.filter fun c => s.bankSt c.1 != .off
  ((s.putCells cs).fillCells cs).cleanCells cs

/-- Byte address of the weight buffer of a tile. -/
def wAddr (tile o : Nat) : Nat := tile * 2 ^ 19 + o

/-- Writes weight-buffer bytes; a unit written clears its marker. -/
def State.wput (s : State) (tile o : Nat) (bs : List Byte) : State :=
  let lo := wAddr tile o
  let s := { s with wbuf := Mem.write s.wbuf lo bs }
  s.cleanWbuf fun u => decide (lo ≤ 32 * u) && decide (32 * u + 32 ≤ lo + bs.length)

def State.wget (s : State) (tile o n : Nat) : List Byte := Mem.read s.wbuf (wAddr tile o) n

/-- Whether block j of an image is stored, and how many before it are (R189). -/
def State.wbit (s : State) (tile woff j : Nat) : Bool :=
  bit (Mem.get s.wbuf (wAddr tile (32 * woff + j / 8))) (j % 8)
def State.wrank (s : State) (tile woff : Nat) : Nat → Nat
  | 0 => 0
  | j + 1 => s.wrank tile woff j + (if s.wbit tile woff j then 1 else 0)

/-- Block j of an image of `blocks` blocks (R189). -/
def State.wblock (s : State) (tile : Nat) (fb : Fmt) (woff blocks j : Nat) : MBlock :=
  let ex := 32 * (woff + bitmapUnits blocks)
  let data := ex + 32 * expUnits fb blocks
  let e8 := if isKb fb then (Mem.get s.wbuf (wAddr tile (ex + j))).toNat else 0
  if s.wbit tile woff j then
    ⟨fb, blockElts fb (s.wget tile (data + blockBytes fb * s.wrank tile woff j) (blockBytes fb)), e8⟩
  else ⟨fb, List.replicate 32 0, e8⟩

/-- Block kb of row i of operand A (R193). -/
def State.ablock (s : State) (lq : Nat) (c : MCmd) (m : MArgs) (i kb : Nat) : MBlock :=
  if isKb m.fa then
    let at_ := kbAt m.fa (i * (mNK m) + kb)
    let e := (s.qread c.view lq (c.aOff + at_.2) 1).headD 0
    ⟨m.fa, blockElts m.fa (s.qread c.view lq (c.aOff + at_.1) (blockBytes m.fa)), e.toNat⟩
  else if m.ta then
    ⟨.bf16, (List.range 32).map fun k => ofBytes (s.qread c.view lq (c.aOff + (32 * kb + k) * c.stride + 2 * i) 2), 0⟩
  else ⟨.bf16, elemsOf 2 32 (s.qread c.view lq (c.aOff + i * c.stride + 64 * kb) 64), 0⟩

/-! ### Execution: tile-ops -/

/-- One element's K-blocks added in order (R90). -/
def accBlocks (acc : Nat) (fl : Flags) : List (MBlock × MBlock) → Nat × Flags
  | [] => (acc, fl)
  | p :: ps => let r := accBlock acc p.1 p.2; accBlocks r.1 (fl ||| r.2) ps

/-- One tile-op of `mma` over K-blocks (R194). -/
def State.mmaOp (s : State) (tile lq : Nat) (c : MCmd) (m : MArgs) (kbs : List Nat) : State × Flags :=
  let as_ := (List.range (mM m)).map fun i => kbs.map fun kb => s.ablock lq c m i kb
  let bs := (List.range (mN m)).map fun j => kbs.map fun kb =>
    s.wblock tile m.fb m.woff.toNat ((mN m) * (mNK m)) (j * (mNK m) + kb)
  as_.zipIdx.foldl (fun p a => bs.zipIdx.foldl (fun p b =>
    let r := accBlocks (p.1.accGet tile m.acc a.2 b.2) 0 (a.1.zip b.1)
    (p.1.accPut tile m.acc a.2 b.2 r.1, p.2 ||| r.2)) p) (s, 0)

/-- a × b + c × d with one rounding (R200). -/
def dot2 (a b c d : Nat) : Nat × Flags :=
  let (v, i) := mulV (fp32.unpack a) (fp32.unpack b)
  let (w, k) := mulV (fp32.unpack c) (fp32.unpack d)
  if i || k then (fp32.nanP, fNV) else fp32.addV v w

/-- TREE over 64 products, each rounded (R200). -/
def dotTree (row ks : List Nat) : Nat × Flags :=
  let ps := (row.zip ks).map fun p => fp32.mul p.1 p.2
  let r := tree 0 6 (ps.map fun p => .f p.1)
  (match r.1.head? with
   | some (.f x) => x
   | _ => 0, ps.foldl (fun f p => f ||| p.2) r.2)

/-- The state tile as rows. -/
def State.accRows (s : State) (tile : Nat) (a : Fin 64) : List (List Nat) :=
  (List.range 64).map fun i => elemsOf 4 64 (Mem.read s.accm (accAddr tile a i 0) 256)

/-- The update of one token: rows and flags (R200). -/
def deltaUpdate (rows : List (List Nat)) (rec : List Byte) : List (List Nat) × Flags :=
  let k := elemsOf 4 64 rec
  let v := elemsOf 4 64 (rec.drop 256)
  let al := ofBytes ((rec.drop 768).take 4)
  let be := ofBytes ((rec.drop 772).take 4)
  let out := (rows.zip v).map fun p =>
    let u := dotTree p.1 k
    let x := fp32.mul al u.1
    let y := fp32.sub p.2 x.1
    let e := fp32.mul be y.1
    let row := (p.1.zip k).map fun q => dot2 al q.1 e.1 q.2
    (row.map Prod.fst, row.foldl (fun f r => f ||| r.2) (u.2 ||| x.2 ||| y.2 ||| e.2))
  (out.map Prod.fst, out.foldl (fun f r => f ||| r.2) 0)

/-- A query output: 256 bytes and flags. -/
def deltaQuery (rows : List (List Nat)) (q : List Nat) : List Byte × Flags :=
  let o := rows.map fun r => dotTree r q
  (o.flatMap fun x => toBytes 4 x.1, o.foldl (fun f x => f ||| x.2) 0)

def State.accPutRows (s : State) (tile : Nat) (a : Fin 64) (rows : List (List Nat)) : State :=
  rows.zipIdx.foldl (fun s r => r.1.zipIdx.foldl (fun s x => s.accPut tile a r.2 x.2 x.1) s) s

/-- One tile-op of a delta instruction, by the number of tile-ops done: the second of a token updates the
state, and the last of a token of `delta.chunk` writes its output (R200). -/
def State.deltaOp (s : State) (tile lq : Nat) (c : MCmd) (a : Fin 64) (perToken : Nat) (qry : Bool) : State × Flags :=
  let t := c.prog / perToken
  let rows := s.accRows tile a
  if qry then
    let o := deltaQuery rows (elemsOf 4 64 (s.qread c.view lq c.aOff 256))
    (s.putEngine (s.cells c.view lq c.bOff o.1), o.2)
  else
    let rec_ := s.qread c.view lq (c.aOff + 1024 * t) 1024
    if c.prog % perToken = 1 then
      let r := deltaUpdate rows rec_
      (s.accPutRows tile a r.1, r.2)
    else if c.prog % perToken = 2 then
      let o := deltaQuery rows (elemsOf 4 64 (rec_.drop 512))
      (s.putEngine (s.cells c.view lq (c.bOff + 256 * t) o.1), o.2)
    else (s, 0)

/-- The K-blocks of the next tile-op of a multiply. -/
def MCmd.kbs (c : MCmd) (m : MArgs) : List Nat :=
  match c.instr with
  | .mmaSp .. => (c.kept.drop (sigma m * c.prog)).take (sigma m)
  | _ => ((List.range (mNK m)).drop (sigma m * c.prog)).take (sigma m)

/-- The effect of the next tile-op of a command (R184). -/
def State.opEffect (s : State) (tile lq : Nat) (c : MCmd) : State × Flags :=
  match c.instr with
  | .mma _ m | .mmaSp _ m => s.mmaOp tile lq c m (c.kbs m)
  | .deltaUpd _ m => s.deltaOp tile lq c m.acc 2 false
  | .deltaChunk _ m => s.deltaOp tile lq c m.acc 3 false
  | .deltaQry _ m => s.deltaOp tile lq c m.acc 1 true
  | _ => (s, 0)

/-- Reads the skip list (R195): the kept blocks and the number of entries read. -/
def readSkip (nk : Nat) : (fuel pos reads : Nat) → List Byte → List Nat × Nat
  | 0, _, reads, _ => ([], reads)
  | k + 1, pos, reads, bs =>
    if nk ≤ pos then ([], reads)
    else
      let e := ofBytes (bs.take 4)
      let lo := min nk (pos + e % 65536)
      let n := min (e / 65536) (nk - lo)
      let r := readSkip nk k (lo + n) (reads + 1) (bs.drop 4)
      ((List.range n).map (lo + ·) ++ r.1, r.2)

/-- Core cycles of a tile-op at full duty. -/
def opCycles : Instr → Nat
  | .mma _ m | .mmaSp _ m => (mM m)
  | _ => 64

def State.updGrainAt (s : State) (key : Nat × Nat) (f : Grain → Grain) : State :=
  { s with grains := Tab.upd s.grains key f }

/-- Changes the head of a grain's queue. -/
def State.updHead (s : State) (key : Nat × Nat) (f : MCmd → MCmd) : State :=
  s.updGrainAt key fun g => match g.mq with
    | [] => g
    | c :: cs => { g with mq := f c :: cs }

/-- The head command starts: `mma.sp` reads its list and sets the stream register. -/
def State.startHead (s : State) (key : Nat × Nat) (c : MCmd) : State :=
  match c.instr with
  | .mmaSp _ m =>
    let r := readSkip (mNK m) (mNK m) 0 0 (s.qread c.view (key.2 % 8 / 4) c.bOff (4 * (mNK m)))
    let ops := max (ceilDiv r.1.length (sigma m)) (ceilDiv (mNK m) (2 * sigma m))
    (s.updGrainAt key fun g => { g with skip := c.bLocal + BitVec.ofNat 64 (4 * r.2) }).updHead key
      fun c => { c with started := true, kept := r.1, ops := ops }
  | _ => s.updHead key fun c => { c with started := true }

/-! ### Errors (R205) -/

/-- The local ranges, weight-buffer byte ranges and accumulator words that a command's next unit reads. -/
def State.mTouch (s : State) (tile : Nat) (c : MCmd) : List (Nat × Nat) × List (Nat × Nat) × List Nat :=
  let accW (a : Fin 64) (r0 m n : Nat) : List Nat :=
    (List.range m).flatMap fun i => (List.range n).map fun j => accAddr tile a (r0 + i) j / 4
  match c.instr with
  | .mma _ m | .mmaSp _ m =>
    let kbs := c.kbs m
    let arow (i kb : Nat) : List (Nat × Nat) :=
      if isKb m.fa then
        let p := kbAt m.fa (i * (mNK m) + kb)
        [(c.aOff + p.1, blockBytes m.fa), (c.aOff + p.2, 1)]
      else if m.ta then (List.range 32).map fun k => (c.aOff + (32 * kb + k) * c.stride + 2 * i, 2)
      else [(c.aOff + i * c.stride + 64 * kb, 64)]
    let blocks := (mN m) * (mNK m)
    let ex := 32 * (m.woff.toNat + bitmapUnits blocks)
    let data := ex + 32 * expUnits m.fb blocks
    let wblk (j : Nat) : List (Nat × Nat) :=
      (32 * m.woff.toNat + j / 8, 1) :: (if isKb m.fb then [(ex + j, 1)] else []) ++
        (if s.wbit tile m.woff.toNat j then
          [(data + blockBytes m.fb * s.wrank tile m.woff.toNat j, blockBytes m.fb)] else [])
    let list := match c.instr with
      | .mmaSp .. => if c.started then [] else [(c.bOff, 4 * (mNK m))]
      | _ => []
    (list ++ (List.range (mM m)).flatMap fun i => kbs.flatMap (arow i),
     (List.range (mN m)).flatMap fun j => kbs.flatMap fun kb => wblk (j * (mNK m) + kb), accW m.acc 0 (mM m) (mN m))
  | .deltaUpd _ m => ([(c.aOff, 776)], [], accW m.acc 0 64 64)
  | .deltaChunk _ m => ([(c.aOff + 1024 * (c.prog / 3), 776)], [], accW m.acc 0 64 64)
  | .deltaQry _ m => ([(c.aOff, 256)], [], accW m.acc 0 64 64)
  | .maccRd _ m => ([], [], accW m.acc (bits m.opt 5 0) (mM m) (mN m))
  | .maccWr _ m => ((List.range (mM m)).map fun i => (c.aOff + i * c.stride, (mN m) * accElt m), [], [])
  | .mwld .. | .mwldImg .. => (c.reads, [], [])
  | _ => ([], [], [])

/-- The words that a byte range touches. -/
def wordsOf (off n : Nat) : List Nat := (List.range ((off % 4 + n + 3) / 4)).map fun k => off / 4 * 4 + 4 * k

/-- The error that a command's next unit meets: TRAPADDR, which names the first local word in error, and the syndrome. -/
def State.mError (s : State) (tile lq : Nat) (c : MCmd) : Option (W64 × Nat) :=
  if s.dev.poisonLmem = [] ∧ s.dev.poisonWbuf = [] ∧ s.dev.poisonAcc = [] then none
  else
    let (ls, ws, as_) := s.mTouch tile c
    let bad (w : Nat) : Option Nat :=
      ((s.pieces c.view lq w 4).find? fun p => s.lPoisoned p.1 p.2).map fun p => s.localSyndrome 0 p.1 p.2
    match ls.findSome? fun r => (wordsOf r.1 r.2).findSome? fun w => (bad w).map fun d => (w, d) with
    | some (w, d) =>
      let inA := c.aOff ≤ w ∧ (c.caps.length < 4 ∨ w < c.bOff ∨ c.bOff < c.aOff)
      some (if inA then c.aLocal + BitVec.ofNat 64 (w - c.aOff) else c.bLocal + BitVec.ofNat 64 (w - c.bOff), d)
    | none =>
      match ws.findSome? fun r => s.dev.poisonWbuf.find? fun u => touches (wAddr tile r.1, r.2) (32 * u, 32) with
      | some u => some (0, syndrome 3 (s.marked 3 u u) false 0)
      | none => (as_.find? s.dev.poisonAcc.contains).map fun w => (0, syndrome 4 (s.marked 4 w w) false 0)

/-! ### Rows -/

/-- One tile-op (R184): a running one ends and takes its effect, or the next one starts on an array that is not at rest, in the
next core cycle where its tile ramps down (R354); on one at rest the turn is given. It does nothing while none of these can
happen. -/
def State.tileOpStep (s : State) (tile : Nat) : State :=
  let t := s.tileOf tile
  let now := s.tileCycle tile
  match t.run with
  | some r =>
    let s' := s.account tile now
    let left := match (s'.tileOf tile).run with
      | some r => r.left
      | none => 0
    if left ≠ 0 then s
    else
      let key := (r.sheaf, r.grain)
      let lq := r.grain % 8 / 4
      let s := s.updTile tile fun t => { t with run := none }
      match (Tab.find s.grains key).bind fun g => g.mq.head? with
      | none => s
      | some c =>
        if (s.mError tile lq c).isSome then s
        else
          let (s, fl) := s.opEffect tile lq c
          let last := decide (c.ops ≤ c.prog + 1)
          let s := s.updHead key fun c => { c with
            prog := c.prog + 1
            flags := c.flags ||| fl
            due := if last then some (now + if isDelta c.instr then 8 else 12) else none }
          let s := s.updGrainAt key fun g => { g with tileOps := (g.tileOps + 1) % 2 ^ 64 }
          let s := s.updCtx c.ctx fun x => { x with trOps := x.trOps + 1 }
          let lc := ((Tab.find s.grains key).map fun g => g.core % 8).getD 0
          if (s.arrayReady tile lc).isSome then s
          else s.updTile tile fun t => { t with turn := none, last := lc }
  | none =>
    if t.duty = .rest then s.takeTurn tile
    else match s.arbiter tile with
      | none => s
      | some lc =>
        match s.arrayReady tile lc with
        | none => s
        | some (key, c) =>
          if (s.mError tile (key.2 % 8 / 4) c).isSome then s
          else
            let s := if c.started then s else s.startHead key c
            let s := s.updTile tile fun t => { t with
              used := if t.turn = some lc ∧ t.used < s.mqWeight tile lc then t.used + 1 else 1
              turn := some lc
              last := lc
              run := some ⟨key.1, key.2, 8 * opCycles c.instr, match t.duty with
                | .down .. => now + 1
                | _ => now⟩ }
            match t.duty with
            | .down i fin => s.setDuty tile (.land i fin)
            | _ => s

def execTileOp (tile : Nat) (s : State) : Out3 := .next (s.tileOpStep tile)

/-- Writes a dense local B as an image (R190). -/
def State.buildImage (s : State) (tile lq : Nat) (c : MCmd) (m : MArgs) : State :=
  let blocks := (mN m) * (mNK m)
  let blk (j : Nat) : List Byte × Nat :=
    if isKb m.fb then
      let p := kbAt m.fb j
      (s.qread c.view lq (c.aOff + p.1) (blockBytes m.fb), ((s.qread c.view lq (c.aOff + p.2) 1).headD 0).toNat)
    else (s.qread c.view lq (c.aOff + 64 * j) 64, 0)
  let bl := (List.range blocks).map blk
  let zero (b : List Byte) : Bool :=
    if isKb m.fb then b.all (· == 0) else (elemsOf 2 32 b).all fun x => x % 32768 == 0
  let base := 32 * m.woff.toNat
  let bitmap := (bl.zipIdx.map fun p => if zero p.1.1 then 0 else 2 ^ p.2).sum
  let s := s.wput tile base (toBytes (32 * bitmapUnits blocks) bitmap)
  let s := if isKb m.fb then
      s.wput tile (base + 32 * bitmapUnits blocks) (bl.map fun b => BitVec.ofNat 8 b.2) else s
  s.wput tile (base + 32 * (bitmapUnits blocks + expUnits m.fb blocks))
    ((bl.filter fun b => !zero b.1).flatMap Prod.fst)

/-- Rounds an accumulator element to BF16, or keeps it (R196). -/
def accOut (m : MArgs) (x : Nat) : Nat × Flags :=
  if m.fa = .bf16 then bf16.ofVal .rne (fp32.unpack x) else (x, 0)

/-- `macc.rd`: rows to local memory, whose words become FULL. -/
def State.accToLocal (s : State) (tile lq : Nat) (c : MCmd) (m : MArgs) : State × Flags :=
  let r0 := bits m.opt 5 0
  (List.range (mM m)).foldl (fun p i =>
    let row := (List.range (mN m)).map fun j => accOut m (s.accGet tile m.acc (r0 + i) j)
    let bs := row.flatMap fun x => toBytes (accElt m) x.1
    (p.1.putEngine (p.1.cells c.view lq (c.aOff + i * c.stride) bs), row.foldl (fun f x => f ||| x.2) p.2)) (s, 0)

/-- `macc.wr`: local memory to rows; BF16 widens exactly. -/
def State.localToAcc (s : State) (tile lq : Nat) (c : MCmd) (m : MArgs) : State :=
  let r0 := bits m.opt 5 0
  let vals (i : Nat) : List Nat :=
    (elemsOf (accElt m) (mN m) (s.qread c.view lq (c.aOff + i * c.stride) ((mN m) * accElt m))).map
      fun x => if m.fa = .bf16 then x * 65536 else x
  (List.range (mM m)).foldl (fun t i => (vals i).zipIdx.foldl (fun t x => t.accPut tile m.acc (r0 + i) x.2 x.1) t) s

/-- `mzero`. -/
def State.accZeroRows (s : State) (tile : Nat) (m : MArgs) : State :=
  (List.range (mM m)).foldl (fun s i => (List.range (mN m)).foldl (fun s j =>
    s.accPut tile m.acc (bits m.opt 5 0 + i) j 0) s) s

/-- The result of `mstat` (R197). -/
def State.mstatValue (s : State) (tile : Nat) (g : Grain) (m : MArgs) : W64 :=
  match bits m.opt 1 0 with
  | 0 => s.accWord (s.accState tile m.acc)
  | 1 => g.skip
  | _ => BitVec.ofNat 64 g.tileOps

/-- Core cycles from start to completion of a command that does not use the array (R190, R196, R197). -/
def plainCycles (c : MCmd) : Nat :=
  match c.instr with
  | .mwld .. | .mwldImg .. => ceilDiv ((c.reads.map Prod.snd).sum) 64 + 8
  | .mzero _ m => (mM m)
  | .maccRd _ m | .maccWr _ m => (mM m) + 8
  | _ => 2

/-- The effect of a plain command at its completion. -/
def State.plainEffect (s : State) (tile lq : Nat) (g : Grain) (c : MCmd) : State × Flags :=
  match c.instr with
  | .mwld _ m => (s.buildImage tile lq c m, 0)
  | .mwldImg _ _ m => (s.wput tile (32 * m.woff.toNat) (s.qread c.view lq c.aOff (c.caps.getD 2 0).toNat), 0)
  | .mzero _ m => (s.accZeroRows tile m, 0)
  | .maccRd _ m => s.accToLocal tile lq c m
  | .maccWr _ m => (s.localToAcc tile lq c m, 0)
  | .mstat _ m =>
    (s.asCtx c.ctx fun s => s.updCtx c.ctx fun x => x.complete s.freeN c.tag (s.mstatValue tile g m) 0, 0)
  | _ => (s, 0)

/-- The head leaves its queue and its flags go to the issuing context (R194). -/
def State.popHead (s : State) (key : Nat × Nat) (c : MCmd) (fl : Flags) : State :=
  (s.updGrainAt key fun g => { g with mq := g.mq.drop 1 }).updCtx c.ctx
    fun x => { x with aflags := x.aflags ||| c.flags ||| fl }

/-- The format faults of a page of a global `mwld` (R190, R78). -/
def glPage (x y : Xlat) (m : MArgs) (g : W64) : Option Nat :=
  let kb (f : Nat) : Bool := f == 3 || f == 4
  if 8 ≤ x.fmt ∨ (!kb x.fmt ∧ x.bg ≠ 0) then some 4
  else if x.fmt ≠ y.fmt ∨ x.bg ≠ y.bg then some 3
  else if x.fmt ≠ 0 ∧ x.fmt ≠ Fmt.code m.fb then some 2
  else if (isKb m.fb ∧ g.toNat % 1024 ≠ 0) ∨ (kb x.fmt ∧ x.bg ≠ 0) then some 5
  else none

/-- One block of a global `mwld` is read through translation and written (R190). -/
def State.glBlock (s : State) (tile : Nat) (key : Nat × Nat) (c : MCmd) (m : MArgs) (j : Nat) : State :=
  let g := c.aLocal
  let blocks := (mN m) * (mNK m)
  let p := if isKb m.fb then kbAt m.fb j else (64 * j, 64 * j)
  let va := g + BitVec.ofNat 64 p.1
  let vd := s.vdOfCtx c.ctx
  let via := some (s.coreOfCtx c.ctx)
  let s := s.updOut c.ctx fun o => { o with prog := j }
  match s.translate via vd va .read with
  | (s, .error f) => s.recordFail c.ctx f va .read
  | (s, .ok x) =>
    match s.translate via vd g .read with
    | (s, .error f) => s.recordFail c.ctx f g .read
    | (s, .ok y) =>
      match glPage x y m g with
      | some d => s.recorded c.ctx Cause.formatAccess d va true
      | none =>
        match s.gread via vd va (blockBytes m.fb), s.gread via vd (g + BitVec.ofNat 64 p.2) 1 with
        | (s, .ok bs), (_, .ok es) =>
          let base := 32 * m.woff.toNat
          let ex := base + 32 * bitmapUnits blocks
          let data := ex + 32 * expUnits m.fb blocks
          let rank := s.wrank tile m.woff.toNat j
          let zero := if isKb m.fb then bs.all (· == 0) else (elemsOf 2 32 bs).all fun v => v % 32768 == 0
          let old := (Mem.get s.wbuf (wAddr tile (base + j / 8))).toNat
          let low := old % 2 ^ (j % 8) + (if zero then 0 else 2 ^ (j % 8))
          let keep := if j + 1 = blocks then low else low + old / 2 ^ (j % 8 + 1) * 2 ^ (j % 8 + 1)
          let s := s.wput tile (base + j / 8) [BitVec.ofNat 8 keep]
          let s := if j + 1 = blocks then
              s.wput tile (base + j / 8 + 1) (List.replicate (32 * bitmapUnits blocks - j / 8 - 1) 0) else s
          let s := if isKb m.fb then s.wput tile (ex + j) es else s
          let s := if zero then s else s.wput tile (data + blockBytes m.fb * rank) bs
          let s := s.updHead key fun c => { c with prog := j + 1 }
          s.updOut c.ctx fun o => { o with prog := j + 1 }
        | (s, .error f), _ => s.recordFail c.ctx f va .read
        | (s, _), (_, .error f) => s.recordFail c.ctx f va .read

/-- A command that does not use the array moves on: it starts, or takes its effect and completes; a global
`mwld` reads its next block. An array command completes after its last tile-op. -/
def State.mqComplete (s : State) (tile lc : Nat) : State :=
  match s.mqHead tile lc with
  | none => s
  | some (key, c) =>
    let now := s.tileCycle tile
    let lq := key.2 % 8 / 4
    let g := (Tab.find s.grains key).getD Grain.zero
    if (match c.instr with
        | .mwldGl .. => false
        | _ => !isArray c.instr && (s.mError tile lq c).isSome) then s
    else match c.instr with
      | .mwldGl _ _ m =>
        match s.outOf c.ctx with
        | some o =>
          if o.tag ≠ c.tag ∨ !s.mqStartable tile key c then s
          else if c.prog < (mN m) * (mNK m) then
            (s.updHead key fun c => { c with started := true }).glBlock tile key c m c.prog
          else (s.popHead key c 0).finish c.ctx c.tag 0
        | none => s
      | i =>
        match c.due with
        | some d =>
          if now < d then s
          else if isArray i then s.popHead key c 0
          else
            let (s, fl) := s.plainEffect tile lq g c
            s.popHead key c fl
        | none =>
          if isArray i || !s.mqStartable tile key c then s
          else s.updHead key fun c => { c with started := true, due := some (now + plainCycles c) }

def execMatrixCommandComplete (tile core : Nat) (s : State) : Out3 := .next (s.mqComplete tile core)

/-- The commands of a context in a matrix queue are discarded (R205). The result of a discarded `mstat`, which no rule
states, is a free value (DESIGN CHOICE, entry 99); a discarded global `mwld` ends. -/
def State.discardMq (s : State) (key : Nat × Nat) (c : CtxId) : State :=
  let gone := (((Tab.find s.grains key).map fun g => g.mq).getD []).filter fun m => m.ctx == c
  let s := s.updGrainAt key fun g => { g with mq := g.mq.filter fun m => m.ctx != c }
  s.updCtx c fun x => gone.foldl (fun x m =>
    if m.tag = 0 then x
    else
      let x := if x.out.any fun o => o.tag == m.tag then { x with out := none, resuming := false } else x
      if x.pend.any fun p => p.tag == m.tag then x.complete s.freeN m.tag (Config.freeWord s.freeN m.tag) 0 else x) x

/-- A command that meets an uncorrectable error ends: its context takes a deferred MEMORY_ERROR, and the
context's later commands in the queue are discarded (R205). -/
def State.mqErrorEnd (s : State) (tile lc : Nat) : State :=
  match s.mqHead tile lc with
  | none => s
  | some (key, c) =>
    let running := match (s.tileOf tile).run with
      | some r => r.sheaf == key.1 && r.grain == key.2
      | none => false
    if running || c.due.isSome && isArray c.instr || !s.mqGoing tile key c then s
    else match s.mError tile (key.2 % 8 / 4) c with
      | none => s
      | some (a, syn) =>
        let s := s.popHead key c 0
        ((s.discardMq key c.ctx).defer c.ctx ⟨Cause.memoryError, syn, a, false, false, 0⟩).fresh

def execMatrixErrorEnd (tile core : Nat) (s : State) : Out3 := .next (s.mqErrorEnd tile core)

end Sys2Proof.Machine
end

