-- ==== Sys2Proof/Machine/Convert.lean ====
section
/-! DEFINITION. The data movement of converting engine commands: sizes, block places and converted bytes of
the two sides (03 R74, R75, R77, R84 to R87). -/

namespace Sys2Proof.Machine

/-- Bytes of an element of a format that is not KB. -/
def fmtBytes : Fmt → Nat
  | .fp32 | .int32 => 4
  | .bf16 | .int16 => 2
  | _ => 1

/-- Bytes of a row of E elements: whole groups for a KB format (R74). -/
def rowBytes (f : Fmt) (e : Nat) : Nat :=
  if isKb f then ceilDiv (e / 32) (groupSlots f) * 1024 else e * fmtBytes f

/-- Panel width of a block geometry, 0 for ROW (R75). -/
def colWidth (bg : Nat) : Nat := if bg = 0 then 0 else 8 * 2 ^ bg

/-- One side of a command: its format, geometry, row length and rows. -/
structure Side where
  fmt : Fmt
  bg : Nat
  len : Nat
  rows : Nat
  deriving DecidableEq, Repr

/-- Rows of bytes of a side, and bytes of each: a COLw range is one row of groups. DESIGN CHOICE (entry 109): the memory side
of a converting copy on a COLw page is one contiguous range at SB, whatever the stride (R75, R213). -/
def Side.byteRows (d : Side) : Nat := if isKb d.fmt ∧ d.bg ≠ 0 then 1 else d.rows
def Side.rowLen (d : Side) : Nat :=
  if isKb d.fmt ∧ d.bg ≠ 0 then rowBytes d.fmt (d.rows * d.len) else rowBytes d.fmt d.len
def Side.total (d : Side) : Nat := d.byteRows * d.rowLen

/-- The byte row, block and index in it of an element of a KB side (R75). -/
def Side.blockOf (d : Side) (y x : Nat) : Nat × Nat × Nat :=
  let w := colWidth d.bg
  if w = 0 then (y, x / 32, x % 32)
  else (0, ((y / 32) * (d.len / w) + x / w) * w + x % w, y % 32)

/-- The logical element that block b of a byte row holds at index i. -/
def Side.elemIn (d : Side) (r b i : Nat) : Nat × Nat :=
  let w := colWidth d.bg
  if w = 0 then (r, 32 * b + i)
  else
    let n := b / w
    let per := max 1 (d.len / w)
    (n / per * 32 + i, n % per * w + b % w)

/-- Bytes of a side: by byte row and place in it. -/
abbrev Reader := Nat → Nat → Byte

def readN (rd : Reader) (r b : Nat) (n : Nat) : Nat := ofBytes ((List.range n).map fun i => rd r (b + i))

/-- The value of an element of a source side. -/
def Side.value (d : Side) (rd : Reader) (y x : Nat) : FVal :=
  let int (n : Nat) : FVal :=
    let v := readN rd y (n * x) n
    intVal (if 2 ^ (8 * n - 1) ≤ v then (v : Int) - 2 ^ (8 * n) else v)
  match d.fmt with
  | .fp32 => fp32.unpack (readN rd y (4 * x) 4)
  | .bf16 => bf16.unpack (readN rd y (2 * x) 2)
  | .int8 | .raw => int 1
  | .int16 => int 2
  | .int32 => int 4
  | .kb8 | .kb4 =>
    let (r, b, i) := d.blockOf y x
    let p := kbAt d.fmt b
    let e8 := (rd r p.2).toNat
    if d.fmt = .kb8 then kbVal false e8 (rd r (p.1 + i)).toNat
    else
      let v := (rd r (p.1 + i / 2)).toNat
      kbVal true e8 (if i % 2 = 0 then v % 16 else v / 16)

/-- One element rounded to a format that is not KB. -/
def cvtTo (f : Fmt) (md : Mode) (v : FVal) : Nat × Flags :=
  let int (n : Nat) : Nat × Flags :=
    let r := toIntRange md (-(2 ^ (8 * n - 1))) (2 ^ (8 * n - 1) - 1) v
    ((r.1 % (2 ^ (8 * n) : Int)).toNat, r.2)
  match f with
  | .fp32 => fp32.ofVal md v
  | .bf16 => bf16.ofVal md v
  | .int16 => int 2
  | .int32 => int 4
  | _ => int 1

/-- A conversion: the sides, rounding mode and generator seed (R84). -/
structure Conv where
  src : Side
  dst : Side
  rm : Rm
  seed : W32
  deriving DecidableEq, Repr

/-- The mode of the element that is processed as the j-th (R84). -/
def Conv.mode (c : Conv) (j : Nat) : Mode :=
  match c.rm with
  | .rne => .rne
  | .rtz => .rtz
  | .sr => .sr (lfsrSteps c.seed (j + 1))

/-- A converted byte: none where the destination keeps its own (R74). DESIGN CHOICE (entry 110): the elements of a COLw
destination are counted for stochastic rounding in the order of its blocks, 32 k + i (R84). -/
def Conv.byteKb (c : Conv) (rd : Reader) (r b : Nat) : Option Byte × Flags :=
  let d := c.dst
  let f := d.fmt
  let kb4 := f == .kb4
  let blocks := if d.bg = 0 then d.len / 32 else d.rows * d.len / 32
  let g := b / 1024
  let o := b % 1024
  let codes := groupSlots f * blockBytes f
  let exps := if kb4 then 960 else 992
  let vals (k : Nat) : List FVal := (List.range 32).map fun i =>
    let e := d.elemIn r k i
    c.src.value rd e.1 e.2
  let e8 (k : Nat) : Nat := kbExp kb4 (vals k) 255 0
  let order (k i : Nat) : Nat := if d.bg = 0 then (d.elemIn r k i).1 * d.len + (d.elemIn r k i).2 else 32 * k + i
  let code (k i : Nat) : Nat × Flags :=
    let e := d.elemIn r k i
    kbCode kb4 (e8 k) (c.mode (order k i)) (c.src.value rd e.1 e.2)
  if o < codes then
    let k := g * groupSlots f + o / blockBytes f
    if blocks ≤ k then (none, 0)
    else
      let i := o % blockBytes f
      if kb4 then
        let lo := code k (2 * i)
        let hi := code k (2 * i + 1)
        (some (BitVec.ofNat 8 (lo.1 + 16 * hi.1)), lo.2 ||| hi.2)
      else
        let v := code k i
        (some (BitVec.ofNat 8 v.1), v.2)
  else if exps ≤ o ∧ o < exps + groupSlots f then
    let k := g * groupSlots f + (o - exps)
    if blocks ≤ k then (none, 0) else (some (BitVec.ofNat 8 (e8 k)), 0)
  else (some 0, 0)

/-- Byte b of byte row r of the destination of a conversion, with the flags of the element that begins there. -/
def Conv.byte (c : Conv) (rd : Reader) (r b : Nat) : Option Byte × Flags :=
  if isKb c.dst.fmt then c.byteKb rd r b
  else
    let n := fmtBytes c.dst.fmt
    let v := cvtTo c.dst.fmt (c.mode (r * c.dst.len + b / n)) (c.src.value rd r (b / n))
    (some (BitVec.ofNat 8 (v.1 / 256 ^ (b % n))), if b % n = 0 then v.2 else 0)

/-- A byte that moves unchanged: a KB destination keeps the slots its range does not reach, and its unused
bytes become zero (R74). DESIGN CHOICE (entry 108): where one side is RAW, the bytes of a group move as they are, its unused
bytes too (R77). -/
def Conv.same (c : Conv) (rd : Reader) (r b : Nat) : Option Byte × Flags :=
  if isKb c.dst.fmt then
    let f := c.dst.fmt
    let blocks := c.dst.len / 32
    let g := b / 1024
    let o := b % 1024
    let exps := if f = .kb4 then 960 else 992
    let k := if o < groupSlots f * blockBytes f then some (g * groupSlots f + o / blockBytes f)
      else if exps ≤ o ∧ o < exps + groupSlots f then some (g * groupSlots f + (o - exps)) else none
    match k with
    | none => (some 0, 0)
    | some k => if blocks ≤ k then (none, 0) else (some (rd r b), 0)
  else (some (rd r b), 0)

/-- Whether elements are converted: both sides typed and different (R77). -/
def converts (fs fm : Fmt) : Bool := fs != .raw && fm != .raw && fs != fm

/-- The format of a page by its code. -/
def pageFmt (code : Nat) : Fmt := fmtOf code

/-- Whether a command is SR-active, by its fields alone (R84). -/
def srActive (rm : Rm) (fs : Fmt) (fpg : Bool) (fm : Fmt) : Bool :=
  rm == .sr && fs != .raw && (fpg || (fm != .raw && fm != fs))

end Sys2Proof.Machine
end

