-- ==== Sys2Proof/Machine/Copy.lean ====
section
/-! DEFINITION. Engine commands at issue (08 R207 to R213) and the translation pass of a copy (R214; 03 R77, R78). -/

namespace Sys2Proof.Machine

/-! ### What a copy moves -/

/-- A copy command with its captured counts. -/
structure Job where
  kind : CpyKind
  e : Nat
  rows : Nat
  /-- Local row stride in bytes. -/
  lstr : Nat
  fs : Fmt
  fm : Fmt
  fpg : Bool
  rm : Rm
  ch : Fin 8
  rst : Bool
  deriving DecidableEq, Repr

def cpyArgs : Instr → Option CpyArgs
  | .cpy _ _ _ _ e | .cpy2d _ _ _ _ _ e => some e
  | _ => none

/-- The job of a copy: element count from the captured SC. -/
def jobOf (e : CpyArgs) (count : W64) : Job :=
  ⟨e.kind, count.toNat, e.rows.toNat + 1, 4 * e.lstr.toNat, e.fs, e.fm, e.fpg, e.rm, e.ch, e.rst⟩

def isHost : CpyKind → Bool
  | .h2l | .l2h => true
  | _ => false

/-- Whether the local side is the destination. -/
def toLocal : CpyKind → Bool
  | .g2l | .h2l => true
  | _ => false

/-- The two sides (R75, R77). The memory side follows the page format `mf` with geometry `bg`. -/
def Job.localSide (j : Job) : Side := ⟨j.fs, 0, j.e, j.rows⟩
def Job.memSide (j : Job) (mf : Fmt) (bg : Nat) : Side :=
  if converts j.fs mf then ⟨mf, bg, j.e, j.rows⟩ else ⟨j.fs, 0, j.e, j.rows⟩

/-- The memory format and geometry that size a range, from a page's: with FPG = 0 the format is FM, whatever the page's
(R77). -/
def Job.sized (j : Job) (code bg : Nat) : Fmt × Nat :=
  if j.fpg || code == Fmt.code j.fm then (fmtOf code, bg) else (j.fm, 0)

/-- Bytes of a local row, and of the whole local extent with its gaps (R211, R213). -/
def Job.lrow (j : Job) : Nat := rowBytes j.fs j.e
def Job.extent (j : Job) : Nat := if j.e = 0 then 0 else (j.rows - 1) * j.lstr + j.lrow

/-- The memory format as far as it is known at issue. -/
def Job.issueFmt (j : Job) : Fmt := if j.fpg then j.fs else j.fm

/-- Bytes that a command writes at its destination (R210). -/
def Job.destBytes (j : Job) (mf : Fmt) (bg : Nat) : Nat :=
  match j.kind with
  | .l2g | .l2h => (j.memSide mf bg).total
  | _ => j.rows * j.lrow

/-- Captured values of an engine command: SA, SB, SC, SD, the seed, the own-quad offset of the local range, that
of the index range, and the flags of the units done. -/
def cap (l : List W64) (i : Nat) : W64 := l.getD i 0
def capN (l : List W64) (i : Nat) : Nat := (cap l i).toNat

/-- Alignment of a local range by its format: one of a block format begins at a group boundary, and raises an exact MISALIGNED
where it does not (R74, R207; DESIGN CHOICE, entry 119). -/
def fmtAlign (f : Fmt) : Nat := if isKb f then 1024 else fmtBytes f

/-! ### Issue -/

/-- Adds bytes to the pending-byte counter of a context's domain (R210). -/
def State.morePend (s : State) (c : CtxId) (level n : Nat) : State :=
  if level = 0 then s
  else
    let g := (s.grainOf c).getD Grain.zero
    s.updDom c.sheaf ((g.dom level).getD 0) fun d => { d with pend := d.pend + n }

/-- Commands that a channel holds or that are on their way into it (R212). -/
def Tile.chanLoad (t : Tile) (ch : Fin 8) : Nat :=
  t.chans[ch].cmds.length + t.pass.countP fun e => e.ch == ch.val

/-- The waits and the PLV checks that come before every check of an engine command (R132, R30, R155, R210). -/
def State.engineGate (s : State) (plv : Nat) (go : State → State) : State :=
  let s := s.unfence
  if plv ≠ 0 ∧ (s.grain.dom plv).isNone then s.exact Cause.barrierLevel 1
  else if s.fenced || s.rcBusy then s.stall
  else if plv ≠ 0 ∧ s.grain.hasArrived plv then s.holdAt plv
  else go s

/-- Checks 2 and 3 of R207 on local ranges named as base, bytes and alignment: the rows of the first range, which must lie
in the own-quad window or in one ring stage over its extent `ext`, then the ranges after it. -/
def State.engineRanges (s : State) (rs more : List (W64 × Nat × Nat)) (ext : W64 × Nat) (go : List Rng → State) : State :=
  match s.rangesOf true rs with
  | .error (b, c, d) => s.exact c d b
  | .ok l =>
    if !s.oneStage ext.1 ext.2 then s.exact Cause.localAddress (if ext.1.toNat < 2 ^ 21 then 5 else 6) ext.1
    else match s.rangesOf true more with
      | .error (b, c, d) => s.exact c d b
      | .ok l2 =>
        if (rs ++ more).any fun r => r.1.toNat % 4 != 0 || r.2.1 % 4 != 0 then s.exact Cause.engineState 2
        else go (l ++ l2)

/-- Check 7 of R207 with the ring arrival rule, and the scoreboard's room (R155, R160, R211). -/
def State.engineReady (s : State) (ls : List Rng) (entries : Nat) (full : Bool) (go : State) : State :=
  s.rangesReady ls <|
    if ls.any s.rngVecHeld || ls.any s.rngMoving || full || decide (128 < s.scoreUsed s.myTile + entries) then s.stall else go

/-- Circuit by handle. -/
def State.circuit (s : State) (handle : Nat) : Option Circuit := s.dev.circuits.find? fun k => k.handle == handle

/-- A circuit of a handle that is active and that the executing sheaf holds. -/
def State.activeCircuit (s : State) (handle : Nat) : Option Circuit :=
  (s.circuit handle).filter fun k => k.active && !k.releasing && k.sheaf == some s.cur.sheaf

/-- Check 4: a handle names an active circuit to a tile that the sheaf holds (R213). -/
def State.tileCircuit (s : State) (handle : Nat) : Option Circuit := (s.activeCircuit handle).filter fun k => k.kind == .tile

/-- A circuit that can lead to the next member of a collective: on a tile of the sheaf, or through a scale-out port on another
package (R218, R346). -/
def State.ringCircuit (s : State) (handle : Nat) : Option Circuit :=
  (s.activeCircuit handle).filter fun k => k.kind == .tile || k.kind == .net

/-- Whether a sheaf holds the circuits of an engine command's handle. -/
def State.updCircuit (s : State) (handle : Nat) (f : Circuit → Circuit) : State :=
  s.updDev fun d => { d with circuits := d.circuits.map fun k => if k.handle = handle then f k else k }

/-- A command's place in the tile's order and its record (R211). -/
def State.newCmd (s : State) (i : Instr) (c : CtxId) (tag ch : Nat) (caps : List W64) (reads writes : List (Nat × Nat))
    (plv bytes : Nat) : State × ECmd :=
  let tile := s.coreOfCtx c / 8
  let e : ECmd := ⟨(s.tileOf tile).seqNext, tag, s.quantumOf c, i, c, ch, caps, [], reads, writes, 0, false, plv, bytes, 0, 0, none⟩
  ((s.updTile tile fun t => { t with seqNext := t.seqNext + 1 }).morePend c plv bytes, e)

def State.toPass (s : State) (tile : Nat) (e : ECmd) : State := s.updTile tile fun t => { t with pass := t.pass ++ [e] }
def State.toChan (s : State) (tile : Nat) (ch : Fin 8) (e : ECmd) : State :=
  s.updTile tile fun t => { t with chans := t.chans.set ch { t.chans[ch] with cmds := t.chans[ch].cmds ++ [e] } }

/-- Check 6 on the global rows: the first row that is not canonical, then the first that is not aligned. The length of a row
is known but with FPG = 1 and a typed FS (R77). -/
def globalRows (j : Job) (sb sd : W64) : Option (Nat × W64) :=
  let len := if j.fpg && j.fs != .raw then 1 else max 1 (rowBytes (if converts j.fs j.fm then j.fm else j.fs) j.e)
  let row (r : Nat) : W64 := sb + BitVec.ofNat 64 r * sd
  let bad (r : Nat) : Option (Nat × W64) :=
    let a := row r
    if !canonical a || !canonical (a + BitVec.ofNat 64 (len - 1)) then some (Cause.addressForm, a)
    else if !j.fpg && a.toNat % fmtAlign j.fm != 0 then some (Cause.misaligned, a)
    else none
  (List.range j.rows).findSome? bad

/-- The remote range of a tile copy in check order: the 4-byte rule is check 3. -/
def remoteBad (s : State) (k : Circuit) (addr n : Nat) : Option Nat :=
  if 0x0040_0000 ≤ addr ∨ addr / 2 ^ 21 ≠ (addr + n - 1) / 2 ^ 21 ∧ 0 < n then some 5
  else if s.inWindow (s.physAddr (k.sheaf.getD 0, bits k.dest 11 0) (addr / 2 ^ 21) (addr % 2 ^ 21) / 2 ^ 21) (addr % 2 ^ 21) n && decide (0 < n) then some 7
  else none

/-- `cpy` and `cpy.2d` (R213, R214). -/
def State.cpyBody (s : State) (i : Instr) (e : CpyArgs) (sa sb sc sd : W64) : State :=
  s.engineGate e.plv.val fun s =>
    let j := jobOf e sc
    let l2c := e.kind == .l2c
    let n := j.lrow
    let sr := srActive e.rm e.fs e.fpg e.fm
    if 2 ^ 21 < j.e ∨ ((isKb e.fs ∨ (!e.fpg && isKb e.fm) = true) ∧ j.e % 32 ≠ 0) ∨ (l2c = true ∧ bits sb 63 48 ≠ 0) then
      s.exact Cause.engineState 2
    else
      let rows := (List.range j.rows).map fun r => (sa + BitVec.ofNat 64 (r * j.lstr), n, fmtAlign e.fs)
      s.engineRanges rows [] (sa, j.extent) fun ls =>
        let off := match ls with
          | r :: _ => r.off
          | [] => 0
        if l2c && (bits sb 31 0 % 4 != 0) then s.exact Cause.engineState 2
        else
          let span := (off, j.extent)
          let caps : List W64 := [sa, sb, sc, sd, (s.me.lfsr[0]).setWidth 64, BitVec.ofNat 64 off]
          let full := decide (16 ≤ (s.tileOf s.myTile).chanLoad e.ch)
          let whole : List Rng := ls
          if l2c then
            match s.tileCircuit (bits sb 47 32) with
            | none => s.exact Cause.engineState 1
            | some k =>
              match remoteBad s k (bits sb 31 0) (j.rows * n) with
              | some d => s.exact Cause.localAddress d (BitVec.ofNat 64 (bits sb 31 0))
              | none => s.engineReady whole 1 full <|
                let (s, x) := s.newCmd i s.cur 0 e.ch.val caps [span] [] e.plv.val (j.rows * n)
                (s.toChan s.myTile e.ch x).doneN 16
          else match globalRows j sb sd with
            | some (c, a) => s.exact c 1 a
            | none => s.engineReady whole 1 full <|
              let s := if sr then s.updMe fun c => { c with lfsr := c.lfsr.set 0 (lfsrSteps c.lfsr[0] (j.e * j.rows)) } else s
              let rd := if toLocal e.kind then [] else [span]
              let wr := if toLocal e.kind then [span] else []
              let (s, x) := s.newCmd i s.cur (s.freeN + 1) e.ch.val caps rd wr e.plv.val (j.destBytes j.issueFmt 0)
              (s.toPass s.myTile x).startN i 16 sb caps

def execCpy (h : Head) (sa sb sc : Src) (e : CpyArgs) (s : State) : Out3 :=
  issue h 16 s (s.cpyBody (.cpy h sa sb sc e) e (s.src 1 sa) (s.src 2 sb) (s.src 3 sc) 0)

def execCpy2d (h : Head) (sa sb sc sd : Src) (e : CpyArgs) (s : State) : Out3 :=
  issue h 16 s (s.cpyBody (.cpy2d h sa sb sc sd e) e (s.src 1 sa) (s.src 2 sb) (s.src 3 sc) (s.src 4 sd))

/-! ### Pages of a global range -/

/-- A VA from its 57 bits. -/
def vaW (n : Nat) : W64 := sx (BitVec.ofNat 57 n)

/-- Inserts a number into a rising list without repeats. -/
def insertUp (x : Nat) : List Nat → List Nat
  | [] => [x]
  | y :: ys => if x < y then x :: y :: ys else if x = y then y :: ys else y :: insertUp x ys

/-- The 4 KiB pages of a byte range. -/
def pagesOf (va : W64) (n : Nat) : List Nat :=
  if n = 0 then []
  else (List.range ((vaNat va % 4096 + n + 4095) / 4096)).map fun k => (vaNat va / 4096 + k) * 4096 % 2 ^ 57

/-- A translation that a command holds (R214): page VA, bytes, place, key slot, stage-1 leaf. -/
abbrev Held := Nat × Nat × Nat × Nat × Nat

def Held.fmtCode (h : Held) : Nat := bits (BitVec.ofNat 64 h.2.2.2.2) 63 60
def Held.bg (h : Held) : Nat := bits (BitVec.ofNat 64 h.2.2.2.2) 59 58

/-- What the translation of a page yields: the translation, a fault, or a wait for the host. -/
inductive PageRes where
  | ok (h : Held)
  | fault (f : Fail)
  | ask
  deriving DecidableEq, Repr

/-- One page of the device (R309). -/
def State.devPage (s : State) (c : CtxId) (k : Acc) (page : Nat) : State × PageRes :=
  match s.translate (some (s.coreOfCtx c)) (s.vdOfCtx c) (vaW page) k with
  | (s, .error f) => (s, .fault f)
  | (s, .ok x) => (s, .ok (page, 4096, x.dpa, x.keyid, x.e.s1.toNat))

/-- One page of the host: stage 1 alone, with OWN set (R317), then the ATC or an ATS request (R320, R322). -/
def State.hostPage (s : State) (c : CtxId) (k : Acc) (page : Nat) : State × PageRes :=
  let vd := s.vdOfCtx c
  let via := some (s.coreOfCtx c)
  let s := s.flushMet vd (s.s1Met via vd page)
  match s.s1Walk via vd page with
  | .error e => (s, .fault e.fail)
  | .ok w =>
    let s := w.used.foldl (fun s at_ => s.setAD at_ false) s
    if !k.allowed w.leaf then (s, .fault ⟨Cause.translation, 2⟩)
    else if !bit w.leaf 57 then (s, .fault ⟨Cause.engineState, 3⟩)
    else match s.dev.atc.find? fun a => a.1 == s.pasid vd && decide (a.2.1 ≤ page) && decide (page < a.2.1 + a.2.2.1) with
      | some a => (s, .ok (page, 4096, a.2.2.2 + (page - a.2.1), 0, w.leaf.toNat))
      | none => (s, .ask)

def State.onePage (s : State) (host : Bool) (c : CtxId) (k : Acc) (page : Nat) : State × PageRes :=
  if host then s.hostPage c k page else s.devPage c k page

/-- What the pass over a list of pages yields. -/
inductive PassRes where
  | ok (hs : List Held)
  | fault (f : Fail) (page : Nat)
  | ask (page : Nat)
  deriving DecidableEq, Repr

def State.allPages (s : State) (host : Bool) (c : CtxId) (k : Acc) : List Nat → State × PassRes
  | [] => (s, .ok [])
  | p :: ps =>
    match s.onePage host c k p with
    | (s, .fault f) => (s, .fault f p)
    | (s, .ask) => (s, .ask p)
    | (s, .ok h) =>
      match s.allPages host c k ps with
      | (s, .ok hs) => (s, .ok (h :: hs))
      | r => r

/-- The start of each row of a memory side. -/
def memRow (sb sd : W64) (r : Nat) : W64 := sb + BitVec.ofNat 64 r * sd

/-- Whether the shape of a KB side breaks R75 (DETAIL 0x05 of R78). DESIGN CHOICE (entry 67): a copy whose local side is RAW
need only move whole blocks by its bytes; the COLw shape is not asked of it. -/
def kbShapeBad (j : Job) (mf : Fmt) (bg : Nat) : Bool :=
  let w := colWidth bg
  if j.fs = .raw then j.e % blockBytes mf != 0
  else if w = 0 then j.e % 32 != 0
  else j.e % w != 0 || j.rows % 32 != 0

/-- The format fault of a range whose pages are held, in the order of R78: DETAIL and address. The address of 0x03 and 0x04 is
the page's base, that of 0x02 and 0x05 the start of the range or row (DESIGN CHOICE, entry 120). -/
def formatFault (j : Job) (sb sd : W64) (hs : List Held) : Option (Nat × W64) :=
  match hs with
  | [] => none
  | h0 :: _ =>
    let kbc (f : Nat) : Bool := f == 3 || f == 4
    let mf := pageFmt h0.fmtCode
    let first := hs.find? fun h => h.1 == vaNat sb / 4096 * 4096
    let ref_ := first.getD h0
    match hs.find? fun h => decide (8 ≤ h.fmtCode) || (!kbc h.fmtCode && h.bg != 0) with
    | some h => some (4, vaW h.1)
    | none => match hs.find? fun h => h.fmtCode != ref_.fmtCode || h.bg != ref_.bg with
      | some h => some (3, vaW h.1)
      | none =>
        if !j.fpg && Fmt.code j.fm != ref_.fmtCode then some (2, sb)
        else if isKb mf && kbShapeBad j mf h0.bg then some (5, sb)
        else
          let rows := (j.memSide mf h0.bg).byteRows
          match (List.range rows).find? fun r => (memRow sb sd r).toNat % fmtAlign mf != 0 with
          | some r => some (5, memRow sb sd r)
          | none => none

/-- The access that a copy makes to its pages. -/
def Job.acc (j : Job) : Acc := if toLocal j.kind then .read else .write

/-- A copy's own pass entry, which it keeps while it is recorded (R211, R214). -/
def State.passEntry (s : State) (c : CtxId) (o : Out) (j : Job) (plv : Nat) : State × ECmd :=
  let tile := s.coreOfCtx c / 8
  match (s.tileOf tile).pass.find? fun e => e.ctx == c && e.tag == o.tag with
  | some e => (s, e)
  | none =>
    let span := (capN o.caps 5, j.extent)
    let rd := if toLocal j.kind then [] else [span]
    let wr := if toLocal j.kind then [span] else []
    -- its bytes are still counted in its domain (R210)
    let (s, e) := s.newCmd o.instr c o.tag j.ch.val o.caps rd wr plv 0
    let e := { e with bytes := j.destBytes j.issueFmt 0 }
    (s.toPass tile e, e)

/-- The host has not answered yet: an ATS Translation Request is sent once (R320). -/
def State.askHost (s : State) (c : CtxId) (o : Out) (page : Nat) : State :=
  if o.aux = page / 4096 + 1 then s
  else
    let pasid := bits (s.hyp (s.vdOfCtx c) rVDCTL) 19 0
    (s.updOut c fun o => { o with aux := page / 4096 + 1 }).tell 3 (BitVec.ofNat 64 (pasid * 2 ^ 44 + page / 4096))

/-- The pass has ended: the counter is corrected and the command enters its channel (R210, R212, R214). -/
def State.enterChannel (s : State) (c : CtxId) (o : Out) (j : Job) (e : ECmd) (hs : List Held) : State :=
  let tile := s.coreOfCtx c / 8
  let (mf, bg) := match hs with
    | [] => (j.issueFmt, 0)
    | h :: _ => (pageFmt h.fmtCode, h.bg)
  let n := j.destBytes mf bg
  let s := if e.bytes ≤ n then s.morePend c e.plv (n - e.bytes) else s.lessPend c e.plv (e.bytes - n)
  let s := s.updTile tile fun t => { t with pass := t.pass.filter fun x => x.seq != e.seq }
  (s.toChan tile j.ch { e with trans := hs, bytes := n }).finish c o.tag 0

/-- The translation pass of a copy (R214): every page of the range, its format, then the channel. -/
def State.copyPass (s : State) (c : CtxId) (o : Out) (a : CpyArgs) : State :=
  let j := jobOf a (cap o.caps 2)
  let sb := cap o.caps 1
  let sd := cap o.caps 3
  let host := isHost j.kind
  let (s, e) := s.passEntry c o j a.plv.val
  if j.e = 0 then s.enterChannel c o j e []
  else
    match s.onePage host c j.acc (vaNat sb / 4096 * 4096) with
    | (s, .fault f) => s.recordFail c f sb j.acc
    | (s, .ask) => s.askHost c o (vaNat sb / 4096 * 4096)
    | (s, .ok h) =>
      let p := j.sized h.fmtCode h.bg
      let side := j.memSide p.1 p.2
      let rows := (List.range side.byteRows).map fun r => memRow sb sd r
      match rows.find? fun r => !canonical r || !canonical (r + BitVec.ofNat 64 (side.rowLen - 1)) with
      | some r => s.recordFail c ⟨Cause.addressForm, 1⟩ r j.acc
      | none =>
        let pages := (rows.flatMap fun r => pagesOf r side.rowLen).foldl (fun l p => insertUp p l) []
        match s.allPages host c j.acc pages with
        | (s, .fault f p) => s.recordFail c f (vaW p) j.acc
        | (s, .ask p) => s.askHost c o p
        | (s, .ok hs) =>
          match formatFault j sb sd hs with
          | some (d, at_) => s.recordFail c ⟨Cause.formatAccess, d⟩ at_ j.acc
          | none => s.enterChannel c o j e hs

end Sys2Proof.Machine
end

