-- ==== Sys2Proof/Machine/Engines.lean ====
section
/-! DEFINITION. The engines at work: gathers, snapshots, collectives, the channels' lines and their ends, and
flits of circuits (08 R208 to R220; 11 R300; 13 R331, R332). -/

namespace Sys2Proof.Machine

/-! ### Bytes of the two sides -/

/-- The place of a VA in held translations: address and key slot. -/
def heldAt (hs : List Held) (va : W64) : Nat × Nat :=
  match hs.find? fun h => h.1 == vaNat va / 4096 * 4096 with
  | some h => (h.2.2.1 + vaNat va % 4096, h.2.2.2.1)
  | none => (0, 0)

/-- A byte of the memory side of a copy. -/
def State.memByte (s : State) (host : Bool) (hs : List Held) (va : W64) : Byte :=
  let p := heldAt hs va
  if host then Mem.get s.host p.1 else s.devByte (s.key p.2) p.1

/-- A byte of the local side, by row and place in it. -/
def State.localByte (s : State) (w : View) (lq off lstr r b : Nat) : Byte :=
  Mem.get s.lmem (s.physAddr w lq (off + r * lstr + b))

/-- Cells for the bytes that a conversion yields for a stretch of a local row. -/
def State.someCells (s : State) (w : View) (lq : Nat) : Nat → List (Option Byte) → List Host.Cell
  | _, [] => []
  | off, none :: bs => s.someCells w lq (off + 1) bs
  | off, some b :: bs => (s.physAddr w lq off, b) :: s.someCells w lq (off + 1) bs

/-- The events that an engine's write of FULL is (R279). -/
def State.engineWake (s : State) (c : CtxId) (q : Nat) (cs : List Host.Cell) : State :=
  if (s.sheafOf c.sheaf).det then cs.foldl (fun s x => s.wakeTag c.sheaf 3 (x.1 / 4) q) s else s

/-- Writes local bytes as an engine: words FULL, with the release and the quantum tag (R208, R279). -/
def State.engineLocal (s : State) (c : CtxId) (q : Nat) (w : View) (lq off : Nat) (bs : List (Option Byte)) : State :=
  let cs := s.someCells w lq off bs
  -- a write that finds the word FULL ends no wait
  (s.putEngine cs).engineWake c q (cs.filter fun x => !s.isFull x.1)

/-- Writes bytes of one 64-byte line of device memory at a VA: logged, and clearing the poison of a line written
whole (R295, R323). -/
def State.enginePiece (s : State) (c : CtxId) (hs : List Held) (va : W64) (bs : List (Option Byte)) : State :=
  let p := heldAt hs va
  let key := s.key p.2
  let vd := s.vdOfCtx c
  let s := s.flushHome p.1 bs.length
  let s := if s.logging vd then s.logLine vd (vaNat va / 64) p.1 (s.sheafOf c.sheaf).sheafid key else s
  let vals := bs.filterMap id
  if vals.length = bs.length then s.devWrite key p.1 vals
  else bs.zipIdx.foldl (fun s b => match b.1 with
    | some v => s.devPut key (p.1 + b.2) v
    | none => s) s

/-- Writes bytes from a VA on, line by line. `fuel` bounds the lines. -/
def State.engineGlobal (s : State) (c : CtxId) (host : Bool) (hs : List Held) :
    (fuel : Nat) → W64 → List (Option Byte) → State
  | 0, _, _ => s
  | _ + 1, _, [] => s
  | k + 1, va, bs =>
    let n := 64 - va.toNat % 64
    let now := bs.take n
    let s := if host then
        let m : Mem := now.zipIdx.foldl (fun m b => match b.1 with
          | some v => Mem.set m (heldAt hs (va + BitVec.ofNat 64 b.2)).1 v
          | none => m) s.host
        ({ s with host := m } : State).cleanHost (heldAt hs va).1 now.length
      else s.enginePiece c hs va now
    s.engineGlobal c host hs k (va + BitVec.ofNat 64 n) (bs.drop n)

/-- Rows and stretches of a stream: bytes lo to hi of rows of a given length, as row, start and length. -/
def stretches (rowLen : Nat) : (fuel lo hi : Nat) → List (Nat × Nat × Nat)
  | 0, _, _ => []
  | k + 1, lo, hi =>
    if hi ≤ lo ∨ rowLen = 0 then []
    else
      let n := min (hi - lo) (rowLen - lo % rowLen)
      (lo / rowLen, lo % rowLen, n) :: stretches rowLen k (lo + n) hi

/-- Bytes b to b + n of destination row r, and their flags. -/
def Conv.stretch (v : Conv) (same : Bool) (rd : Reader) (r b n : Nat) : List (Option Byte) × Flags :=
  let l := (List.range n).map fun i => if same then v.same rd r (b + i) else v.byte rd r (b + i)
  (l.map Prod.fst, l.foldl (fun f x => f ||| x.2) 0)

/-! ### Copies in a channel -/

/-- The job, the memory format and its geometry of a copy in a channel. -/
def ECmd.mem (e : ECmd) (j : Job) : Fmt × Nat :=
  match e.trans with
  | [] => (j.issueFmt, 0)
  | h :: _ => (pageFmt (Held.fmtCode h), Held.bg h)

/-- Local-side bytes of a command in a channel (R212). -/
def ECmd.localBytes (e : ECmd) : Nat :=
  match cpyArgs e.instr with
  | some a => let j := jobOf a (cap e.caps 2); if j.e = 0 then 0 else j.rows * j.lrow
  | none => 0

/-- Lines of a command: 64 local-side bytes each. -/
def ECmd.lines (e : ECmd) : Nat := ceilDiv e.localBytes 64

/-- The logical quad of a command's grain. -/
def ECmd.lq (e : ECmd) : Nat := e.ctx.grain % 8 / 4

/-- The destination bytes of a line: the same share of the destination as the line is of the local side. -/
def lineShare (localN destN line : Nat) : Nat × Nat :=
  if localN = 0 then (0, 0)
  else (destN * min localN (64 * line) / localN, destN * min localN (64 * (line + 1)) / localN)

/-- The source bytes of a line, rounded outward to groups for a KB source. -/
def Side.share (d : Side) (lo hi destN : Nat) : Nat × Nat :=
  let u := if isKb d.fmt then 1024 else 1
  if destN = 0 then (0, 0)
  else (d.total * lo / destN / u * u, min d.total (ceilDiv (ceilDiv (d.total * hi) destN) u * u))

/-- The first byte of a stretch of a quad's memory that holds an uncorrectable error: its place, and the syndrome (R324). -/
def State.badByte (s : State) (w : View) (lq off n : Nat) : Option (Nat × Nat) :=
  if s.dev.poisonLmem = [] then none
  else (List.range n).findSome? fun i =>
    let p := s.physAddr w lq (off + i)
    if s.lPoisoned p 1 then some (i, s.localSyndrome 0 p 1) else none

/-- The error that a line's source meets: syndrome and address (R215, R323). -/
def State.sourceError (s : State) (e : ECmd) (j : Job) (line : Nat) : Option (Nat × W64) :=
  if s.dev.poisonLmem = [] ∧ s.dev.poisonHbm = [] then none
  else
    let (mf, bg) := e.mem j
    let ms := j.memSide mf bg
    let ls := j.localSide
    let into := toLocal j.kind
    let dst := if into then ls.total else ms.total
    let l2c := j.kind == .l2c
    let (lo, hi) := if l2c then (64 * line, min ls.total (64 * line + 128)) else lineShare e.localBytes dst line
    let src := if into then ms else ls
    let (a, b) := if l2c then (lo, hi) else src.share lo hi dst
    (stretches src.rowLen (b - a + 1) a b).findSome? fun p =>
      let (r, x, n) := p
      if into then
        if isHost j.kind then none
        else
          let va := memRow (cap e.caps 1) (cap e.caps 3) r
          (List.range n).findSome? fun i =>
            let at_ := va + BitVec.ofNat 64 (x + i)
            let q := heldAt e.trans at_
            if s.hbmPoisoned q.1 1 then some (s.hbmSyndrome false q.1, at_) else none
      else
        let off := capN e.caps 5 + r * j.lstr + x
        (s.badByte e.view e.lq off n).map fun q => (q.2, cap e.caps 0 + BitVec.ofNat 64 (r * j.lstr + x + q.1))

/-- Slots in a turn of the wheel (R329). -/
def State.wheel (s : State) : Nat := 2 ^ bits (s.mg rFABCFG) 3 0

/-- Slots from the injection of a flit to the one in which its words are visible: h + 4, where LAT = h + 6 (R331). One of a `net`
circuit leaves the package h slots after its injection (R346). -/
def Circuit.flight (k : Circuit) : Nat := if k.kind = .net then k.lat - 6 - k.delay else k.lat - 6 + 4

/-- The slot in which a flit leaves the source. -/
def Circuit.leaves (k : Circuit) (f : Flit) : Nat := f.due - k.flight

/-- Flits that a tile's rate-matching buffer holds toward the fabric (R332). -/
def State.buffered (s : State) (tile : Nat) : Nat :=
  (s.dev.circuits.map fun k => if k.src = tile then k.flits.countP fun f => decide (s.slot < k.leaves f) else 0).sum

/-- The injection slot of a flit that is placed in the buffer now: the first reserved slot, two slots later or more, that
no earlier flit of the circuit takes (R331). A slot that a resize takes away counts until the source is told (R340). -/
def State.nextSlot (s : State) (k : Circuit) : Option Nat :=
  let w := s.wheel
  let from_ := k.flits.foldl (fun m f => max m (k.leaves f + 1)) (s.slot + 2)
  ((List.range w).map fun i => from_ + i).find? fun x =>
    k.slots.contains (x % w) || k.leaving.any fun l => l.1 == x % w && decide (x < l.2)

/-- Flits that have been sent to a tile and that it has not taken, and whether one of them waits there. -/
def State.flitsTo (s : State) (tile : Nat) : List Flit :=
  s.dev.circuits.flatMap fun k => if k.kind = .tile ∧ k.dst = tile then k.flits else []

/-- Whether a circuit takes another flit now: the buffers hold 32 in each direction for each tile. While a flit waits in the buffer
of the target tile, no more are sent there than it holds (R332; DESIGN CHOICE, entry 128). -/
def State.mayInject (s : State) (k : Circuit) : Bool :=
  k.active && decide (s.buffered k.src < 32) && (s.nextSlot k).isSome &&
    (k.kind != .tile || decide ((s.flitsTo k.dst).length < 32) || (s.flitsTo k.dst).all fun f => decide (s.slot ≤ f.due))

/-- Places a flit in the rate-matching buffer. -/
def State.sendFlit (s : State) (k : Circuit) (tile ch seq at_ : Nat) (coll : Bool) (bs : List Byte) : State :=
  let f : Flit := ⟨(s.nextSlot k).getD s.slot + k.flight, at_, bs, tile, ch, seq, coll⟩
  s.updCircuit k.handle fun k => { k with flits := k.flits ++ [f] }

/-- Changes the head command of a channel. -/
def State.updChan (s : State) (tile : Nat) (ch : Fin 8) (f : Chan → Chan) : State :=
  s.updTile tile fun t => { t with chans := t.chans.set ch (f t.chans[ch]) }
def Chan.updHead (k : Chan) (f : ECmd → ECmd) : Chan :=
  match k.cmds with
  | [] => k
  | e :: es => { k with cmds := f e :: es }
def State.updChanHead (s : State) (tile : Nat) (ch : Fin 8) (f : ECmd → ECmd) : State :=
  s.updChan tile ch fun k => k.updHead f

def collArgs : Instr → Option CollArgs
  | .coll _ _ _ _ e => some e
  | _ => none

def collP (a : CollArgs) : Nat := a.p.toNat + 1

/-- Bytes of a segment, and flits that carry it. -/
def segBytes (a : CollArgs) (caps : List W64) : Nat := capN caps 2 * fmtBytes a.fs
def segFlits (a : CollArgs) (caps : List W64) : Nat := ceilDiv (segBytes a caps) 128

/-- Flits that each member sends and receives. -/
def collFlits (a : CollArgs) (caps : List W64) : Nat := ((collP a) - 1) * segFlits a caps

/-- The head of a channel. -/
def State.rawHead (s : State) (tile : Nat) (ch : Fin 8) : Option ECmd := (s.tileOf tile).chans[ch].cmds.head?

/-- Whether a command is the ring's next member after one with `a` and its captures: equal op, p, FS and seg, and the
next rank (R218). -/
def followsIn (a : CollArgs) (caps : List W64) (e : ECmd) : Bool :=
  match collArgs e.instr with
  | some b => b.op == a.op && b.p == a.p && b.fs == a.fs && cap e.caps 2 == cap caps 2 &&
      decide (b.rank.toNat = (a.rank.toNat + 1) % (collP a))
  | none => false

/-- Whether a head of a channel is a started member whose circuit goes to a tile and which another one follows (R218). -/
def State.sendsTo (s : State) (dst : Nat) (e x : ECmd) : Bool :=
  match collArgs x.instr with
  | some a => x.started && x.ctx.sheaf == e.ctx.sheaf && followsIn a x.caps e &&
      ((s.circuit (capN x.caps 1)).map fun k => k.dst) == some dst
  | none => false

/-- The channel of a tile whose head is the member that follows a member's command, which runs in channel `from_`, on a
circuit of their sheaf. Where two equal rings cross the tile, each keeps to its own channel number (DEDUCED, entry 65). -/
def State.nextMember (s : State) (k : Circuit) (from_ : Nat) (a : CollArgs) (caps : List W64) : Option (Fin 8) :=
  let fits (ch : Fin 8) : Bool :=
    match s.rawHead k.dst ch with
    | some e => e.started && followsIn a caps e && k.sheaf == some e.ctx.sheaf &&
        (ch.val == from_ || !(s.tiles.any fun t => (s.rawHead t.1 ch).any fun x => s.sendsTo k.dst e x))
    | none => false
  ((List.finRange 8).find? fun ch => ch.val == from_ && fits ch).or ((List.finRange 8).find? fits)

/-- Whether a member of a collective has its next one: on another package, or on the tile that its circuit leads to. -/
def State.hasNext (s : State) (k : Circuit) (from_ : Nat) (a : CollArgs) (caps : List W64) : Bool :=
  k.kind == .net || (s.nextMember k from_ a caps).isSome

/-- Whether a collective inside a segment can send on: a stop lets it run to the segment's end (R218, R284). -/
def State.midSegment (s : State) (e : ECmd) : Bool :=
  match collArgs e.instr with
  | none => false
  | some a =>
    let n := max 1 (segFlits a e.caps)
    e.started && e.prog % n != 0 && e.fault.isNone && (decide (e.prog < n) || decide (e.prog - n + 1 ≤ e.recv)) &&
      match s.circuit (capN e.caps 1) with
      | some k => s.hasNext k e.ch a e.caps
      | none => false

/-- The head of a channel that moves on: its context's sheaf runs, or is being stopped inside a segment. The channels pause
while the clock of the tile's quad 0 switches (R351). -/
def State.chanHead (s : State) (tile : Nat) (ch : Fin 8) : Option ECmd :=
  (s.rawHead tile ch).filter fun e => let h := s.sheafOf e.ctx.sheaf
    (s.quadOf (2 * tile)).phase != 2 && (h.st == .running || (h.stop != .none && s.midSegment e))

/-- The U lines of the pages that a copy from device memory reads are combined before it reads them (R137, R251). -/
def State.flushPages (s : State) (hs : List Held) : State :=
  if s.quads.all fun q => q.2.ulines.isEmpty then s
  else s.flushU fun _ u => hs.any fun h => u.dpa / 4096 == h.2.2.1 / 4096

/-- The stretches of the destination, and of the source, that the next line of a copy moves: row, start and length. -/
def ECmd.linePlaces (e : ECmd) (j : Job) (toDst : Bool) : List (Nat × Nat × Nat) :=
  let (mf, bg) := e.mem j
  let ms := j.memSide mf bg
  let ls := j.localSide
  let dst := if toLocal j.kind then ls else ms
  let src := if toLocal j.kind then ms else ls
  let (lo, hi) := lineShare e.localBytes dst.total e.prog
  if toDst then stretches dst.rowLen (hi - lo + 1) lo hi
  else let (a, b) := src.share lo hi dst.total
       stretches src.rowLen (b - a + 1) a b

/-- The addresses of the memory side's bytes in stretches of the next line, one for each 64-byte line. -/
def ECmd.memPlaces (e : ECmd) (ps : List (Nat × Nat × Nat)) : List W64 :=
  ps.flatMap fun p =>
    let va := memRow (cap e.caps 1) (cap e.caps 3) p.1 + BitVec.ofNat 64 p.2.1
    (List.range ((va.toNat % 64 + p.2.2 + 63) / 64)).map fun k => va + BitVec.ofNat 64 (64 * k - va.toNat % 64)

/-- The host lines that the memory side of a copy's next line touches. -/
def ECmd.hostLines (e : ECmd) (j : Job) : List Nat :=
  (e.memPlaces (e.linePlaces j (!toLocal j.kind))).map fun va => (heldAt e.trans va).1 / 64

/-- Whether the local bytes that the next line of a copy writes wait for a checkpoint's copy (R297). -/
def State.localHeld (s : State) (e : ECmd) (j : Job) : Bool :=
  (e.linePlaces j true).any fun p =>
    (s.pieces e.view e.lq (capN e.caps 5 + p.1 * j.lstr + p.2.1) p.2.2).any fun q => s.copyMeets q.1 q.2

/-- Whether the next line of a copy waits for a pending copy of a checkpoint, or for log space: for the records of the lines that
it writes, or of the U lines that it combines (R296). -/
def State.copyHeld (s : State) (e : ECmd) (a : CpyArgs) : Bool :=
  let j := jobOf a (cap e.caps 2)
  match j.kind with
  | .l2g => s.logHeld (s.vdOfCtx e.ctx) ((e.memPlaces (e.linePlaces j true)).map fun va => vaNat va / 64)
  | .g2l => s.localHeld e j || s.combineHeld fun _ u => e.trans.any fun h => u.dpa / 4096 == h.2.2.1 / 4096
  | .h2l => s.localHeld e j
  | _ => false

/-- A line that a poisoned TLP delivers poisons the words that it writes, and is counted (R322, R370). -/
def State.poisonLine (s : State) (tile : Nat) (e : ECmd) (j : Job) : State :=
  if j.kind = .h2l ∧ (e.hostLines j).any (s.dev.poisonHost.contains ·) then
    let ps := (e.linePlaces j true).flatMap fun p => s.pieces e.view e.lq (capN e.caps 5 + p.1 * j.lstr + p.2.1) p.2.2
    let ws := (ps.flatMap fun p => (List.range (p.2 + p.1 % 4)).map fun i => (p.1 / 4 * 4 + i) / 4).eraseDups
    (s.countError 5 (errAddr tile (capN e.caps 5))).updDev fun d => { d with
      poisonLmem := ws.filter (fun w => !d.poisonLmem.contains w) ++ d.poisonLmem }
  else s

/-- The device lines that a copy has now written whole, also where it writes them in pieces: their markers are cleared (R323).
`hi` counts the destination bytes done. -/
def State.wholeLines (s : State) (e : ECmd) (dst : Side) (row : Nat → W64) (hi : Nat) : State :=
  if isKb dst.fmt then s
  else s.cleanHbm fun l =>
    (e.trans.find? fun h => h.2.2.1 / 4096 == l / 64).any fun h =>
      (List.range 64).all fun i =>
        let va := vaW (h.1 + l % 64 * 64 + i)
        (List.range dst.byteRows).any fun r =>
          let b := (va - row r).toNat
          decide (b < dst.rowLen) && decide (r * dst.rowLen + b < hi)

/-- One line of a copy: read, converted, written, and counted (R208, R212, R214). -/
def State.copyLine (s : State) (tile : Nat) (ch : Fin 8) (e : ECmd) (a : CpyArgs) : State :=
  let j := jobOf a (cap e.caps 2)
  let s := if j.kind = .g2l then s.flushPages e.trans else s
  let (mf, bg) := e.mem j
  let ms := j.memSide mf bg
  let ls := j.localSide
  let host := isHost j.kind
  let off := capN e.caps 5
  let sb := cap e.caps 1
  let sd := cap e.caps 3
  let into := toLocal j.kind
  let src := if into then ms else ls
  let dst := if into then ls else ms
  let conv : Conv := ⟨src, dst, j.rm, (cap e.caps 4).setWidth 32⟩
  let same := !converts j.fs mf
  let rd : Reader := fun r b =>
    if into then s.memByte host e.trans (memRow sb sd r + BitVec.ofNat 64 b) else s.localByte e.view e.lq off j.lstr r b
  let (lo, hi) := lineShare e.localBytes dst.total e.prog
  let go (p : State × Flags) (x : Nat × Nat × Nat) : State × Flags :=
    let (r, b, n) := x
    let o := conv.stretch same rd r b n
    let s := if into then p.1.engineLocal e.ctx e.q e.view e.lq (off + r * j.lstr + b) o.1
      else p.1.engineGlobal e.ctx host e.trans (n / 64 + 2) (memRow sb sd r + BitVec.ofNat 64 b) o.1
    (s, p.2 ||| o.2)
  let (s, fl) := (stretches dst.rowLen (hi - lo + 1) lo hi).foldl go (s, 0)
  let s := s.poisonLine tile e j
  let s := if j.kind = .l2g then s.wholeLines e dst (memRow sb sd) hi else s
  let moved := min e.localBytes (64 * (e.prog + 1)) - 64 * e.prog
  let s := s.lessPend e.ctx e.plv (min e.bytes (hi - lo))
  let s := s.updCtx e.ctx fun x => { x with trBytes := x.trBytes + moved }
  let s := s.wakeTag e.ctx.sheaf 3 (2 ^ 40 + 8 * tile + ch.val) e.q
  s.updChan tile ch fun k =>
    { (k.updHead fun e => { e with prog := e.prog + 1, bytes := e.bytes - (hi - lo), flags := e.flags ||| fl }) with
      wp := k.wp + BitVec.ofNat 64 moved }

/-- The next flit of a tile copy is placed in the rate-matching buffer of its circuit (R212, R214, R331). -/
def State.copyFlit (s : State) (tile : Nat) (ch : Fin 8) (e : ECmd) (a : CpyArgs) : State :=
  match s.circuit (bits (cap e.caps 1) 47 32) with
  | none => s
  | some k =>
    if !s.mayInject k then s
    else
      let j := jobOf a (cap e.caps 2)
      let lo := 64 * e.prog
      let hi := min e.localBytes (lo + 128)
      let bs := (stretches j.lrow (hi - lo + 1) lo hi).flatMap fun p =>
        (List.range p.2.2).map fun i => s.localByte e.view e.lq (capN e.caps 5) j.lstr p.1 (p.2.1 + i)
      let s := s.sendFlit k tile ch.val e.seq (bits (cap e.caps 1) 31 0 + lo) false bs
      let s := s.updCtx e.ctx fun x => { x with trBytes := x.trBytes + (hi - lo) }
      let s := s.wakeTag e.ctx.sheaf 3 (2 ^ 40 + 8 * tile + ch.val) e.q
      s.updChan tile ch fun k => { (k.updHead fun e => { e with prog := min e.lines (e.prog + 2) }) with
        wp := k.wp + BitVec.ofNat 64 (hi - lo) }

/-! ### Collectives (R218) -/

/-- The segment that a member sends as its step t; it receives the one before it (mod p). -/
def sendSeg (a : CollArgs) (t : Nat) : Nat :=
  let p := (collP a)
  let r := a.rank.toNat
  match a.op with
  | .allGather => (r + p * (t + 1) - t) % p
  | _ => (r + p * (t + 2) - 1 - t) % p

/-- Offset in the local buffer and length of flit k of a member, for sending or receiving. -/
def collPlace (a : CollArgs) (caps : List W64) (k : Nat) (recv : Bool) : Nat × Nat :=
  let n := max 1 (segFlits a caps)
  let sg := sendSeg a (if recv then k / n + 1 else k / n)
  let b := segBytes a caps
  (capN caps 5 + sg * b + 128 * (k % n), min 128 (b - 128 * (k % n)))

/-- One element combined: addition in the format, or the maximum (R80, R82). -/
def collComb (a : CollArgs) (x y : Nat) : Nat × Flags :=
  let mx := a.op == .rsMax
  match a.fs with
  | .int32 =>
    if mx then (if (x + 2 ^ 31) % 2 ^ 32 < (y + 2 ^ 31) % 2 ^ 32 then y else x, 0) else ((x + y) % 2 ^ 32, 0)
  | .bf16 => if mx then bf16.minmax true x y else bf16.add x y
  | _ => if mx then fp32.minmax true x y else fp32.add x y

/-- What a member writes when a flit of partial results or of a segment arrives. -/
def collBytes (a : CollArgs) (got own : List Byte) : List Byte × Flags :=
  match a.op with
  | .allGather => (got, 0)
  | _ =>
    let n := fmtBytes a.fs
    let l := ((elemsOf n (got.length / n) got).zip (elemsOf n (own.length / n) own)).map fun p => collComb a p.1 p.2
    (l.flatMap fun x => toBytes n x.1, l.foldl (fun f x => f ||| x.2) 0)

/-- Whether a context can issue nothing more unless another agent acts: it has parked, or waits behind a `bar.sync`. -/
def Ctx.atRest (x : Ctx) : Bool :=
  (match x.wait with
   | .parked _ | .task => true
   | _ => x.hostStop) || match x.out with
    | some o => o.stage == .waiting
    | none => false

/-- Whether a member of a collective waits for one that never comes: every context of its sheaf is at rest or has ended, no
flit of the sheaf is on its way, and no channel holds the next member that its flits need, or the one before it whose flits
it needs. Its words are then undefined, and it ends (R6, R218; entry 65). -/
def State.collLost (s : State) (tile : Nat) (e : ECmd) (a : CollArgs) : Bool :=
  let n := e.ctx.sheaf
  let held (t : Nat) (p : ECmd → Bool) : Bool := (s.tileOf t).chans.toList.any fun c => c.cmds.any p
  let to_ (x : ECmd) : Option Nat := ((s.circuit (capN x.caps 1)).filter fun k => k.kind == .tile).map fun k => k.dst
  let net (k : Circuit) : Bool := k.kind == .net && k.active
  let next : Bool := ((s.circuit (capN e.caps 1)).any net) || (to_ e).any fun t => held t (followsIn a e.caps)
  let before : Bool := s.tiles.any fun t => held t.1 fun x => match collArgs x.instr with
    | some b => to_ x == some tile && followsIn b x.caps e
    | none => false
  let before := before || s.dev.circuits.any fun k => net k && k.src == tile && k.sheaf == some n
  (s.ctxs.all fun x => x.1.sheaf != n || x.2.atRest) &&
    (s.dev.circuits.all fun k => k.sheaf != some n || k.flits.isEmpty) &&
    ((decide (e.prog < collFlits a e.caps) && !next) || (decide (e.recv < collFlits a e.caps) && !before))

/-- The next flit of a collective goes out, once its bytes are there and the next member runs. -/
def State.collFlit (s : State) (tile : Nat) (ch : Fin 8) (e : ECmd) (a : CollArgs) : State :=
  let n := max 1 (segFlits a e.caps)
  if collFlits a e.caps ≤ e.prog ∨ (n ≤ e.prog ∧ e.recv < e.prog - n + 1) then s
  else match s.circuit (capN e.caps 1) with
    | none => s
    | some k =>
      if !s.mayInject k || !s.hasNext k e.ch a e.caps then s
      else
        let p := collPlace a e.caps e.prog false
        let s := s.sendFlit k tile ch.val e.seq e.prog true (s.qread e.view e.lq p.1 p.2)
        let s := s.updCtx e.ctx fun x => { x with trBytes := x.trBytes + p.2 }
        s.updChan tile ch fun k => { (k.updHead fun e => { e with prog := e.prog + 1 }) with
          wp := k.wp + BitVec.ofNat 64 p.2 }

/-- The member that heads a channel takes the next flit: its bytes are written or combined. -/
def State.collTake (s : State) (tile : Nat) (ch : Fin 8) (bytes : List Byte) : State :=
  match s.rawHead tile ch with
  | none => s
  | some e => match collArgs e.instr with
    | none => s
    | some b =>
      let p := collPlace b e.caps e.recv true
      let o := collBytes b bytes (s.qread e.view e.lq p.1 p.2)
      let s := s.engineLocal e.ctx e.q e.view e.lq p.1 (o.1.map some)
      s.updChan tile ch fun c => { (c.updHead fun e => { e with recv := e.recv + 1, flags := e.flags ||| o.2 }) with
        wp := c.wp + BitVec.ofNat 64 p.2 }

/-- Whether the words that a member writes next wait for a checkpoint's copy (R297), or for a thermal move (R293). -/
def State.takeMeets (s : State) (e : ECmd) : Bool :=
  match collArgs e.instr with
  | some b =>
    let p := collPlace b e.caps e.recv true
    (s.pieces e.view e.lq p.1 p.2).any fun q => s.copyMeets q.1 q.2 || s.coreMoving (q.1 / 2 ^ 19)
  | none => false

/-- A flit of a collective arrives at the member after its sender. -/
def State.collArrive (s : State) (k : Circuit) (f : Flit) (snd : ECmd) (a : CollArgs) : State :=
  match s.nextMember k snd.ch a snd.caps with
  | none => s
  | some ch => s.collTake k.dst ch f.bytes

/-- Whether the member after a sender cannot take a flit yet. -/
def State.collMeets (s : State) (k : Circuit) (snd : ECmd) (a : CollArgs) : Bool :=
  ((s.nextMember k snd.ch a snd.caps).bind fun ch => s.rawHead k.dst ch).any s.takeMeets

/-- The segments that a reduce-scatter leaves undefined become free values; all of them where a member never came (R218,
entries 5 and 65). -/
def State.collLoose (s : State) (e : ECmd) (a : CollArgs) (lost : Bool) : State :=
  if a.op = .allGather ∧ lost = false then s
  else
    let b := segBytes a e.caps
    let segs := (List.range (collP a)).filter fun g => lost || g != a.rank.toNat
    let n := s.freeN
    segs.foldl (fun s g =>
      let bs := (List.range (ceilDiv b 8)).flatMap fun i => toBytes 8 (Config.freeWord n (2 ^ 20 + g * 2 ^ 20 + i)).toNat
      s.putEngine (s.cells e.view e.lq (capN e.caps 5 + g * b) (bs.take b))) s.fresh

/-! ### Rows of a channel -/

/-- Whether a member of a collective ends without its partners (R218). -/
def State.cmdLost (s : State) (tile : Nat) (e : ECmd) : Bool :=
  match collArgs e.instr with
  | some a => s.collLost tile e a
  | none => false

/-- Whether a command has no part left to move, and none of its flits is on its way. -/
def State.cmdMoved (s : State) (tile : Nat) (ch : Fin 8) (e : ECmd) : Bool :=
  (match collArgs e.instr with
   | some a => decide (collFlits a e.caps ≤ e.prog) && decide (collFlits a e.caps ≤ e.recv)
   | none => decide (e.lines ≤ e.prog)) &&
    !(s.dev.circuits.any fun k => k.flits.any fun f => f.tile == tile && f.ch == ch.val && f.seq == e.seq)

/-- The error that the head's next part meets, or that it has met on its circuit. -/
def State.headError (s : State) (e : ECmd) : Option (Nat × Nat × W64) :=
  match e.fault with
  | some f => some f
  | none =>
    match cpyArgs e.instr, collArgs e.instr with
    | some a, _ =>
      if e.lines ≤ e.prog then none
      else (s.sourceError e (jobOf a (cap e.caps 2)) e.prog).map fun p => (Cause.memoryError, p.1, p.2)
    | _, some a =>
      let p := collPlace a e.caps e.prog false
      if collFlits a e.caps ≤ e.prog then none
      else (s.badByte e.view e.lq p.1 p.2).map fun q =>
        (Cause.memoryError, q.2, cap e.caps 0 + BitVec.ofNat 64 (p.1 + q.1 - capN e.caps 5))
    | _, _ => none

/-- The next step of a channel: its head starts, with the reset of WP (R212), or moves its next line or flit. It
does nothing where the head waits (R211), has ended or has met an error. -/
def State.lineWrite (s : State) (tile : Nat) (ch : Fin 8) : State :=
  match s.chanHead tile ch with
  | none => s
  | some e =>
    if !e.started then
      if s.cmdHeld e.view e.lq e.seq e.reads e.writes then s
      else
        let rst := match cpyArgs e.instr with
          | some a => a.rst
          | none => false
        s.updChan tile ch fun k => { (k.updHead fun e => { e with started := true }) with wp := if rst then 0 else k.wp }
    else if (s.headError e).isSome then s
    else match cpyArgs e.instr, collArgs e.instr with
      | some a, _ =>
        if e.lines ≤ e.prog ∨ s.copyHeld e a then s
        else if a.kind = .l2c then s.copyFlit tile ch e a
        else s.copyLine tile ch e a
      | _, some a => s.collFlit tile ch e a
      | _, _ => s

def execChannelLineWrite (tile : Nat) (ch : Fin 8) (s : State) : Out3 := .next (s.lineWrite tile ch)

/-- The head of a channel completes: its flags go to its context, and the bytes it did not count are no longer
pending (R210, R212). Copies to or from the host are unlogged (R299). -/
def State.chanComplete (s : State) (tile : Nat) (ch : Fin 8) : State :=
  match s.chanHead tile ch with
  | none => s
  | some e =>
    let lost := s.cmdLost tile e
    if !e.started || (s.headError e).isSome || !(s.cmdMoved tile ch e || lost) then s
    else
      let s := match collArgs e.instr with
        | some a => s.collLoose e a lost
        | none => s
      let s := s.lessPend e.ctx e.plv e.bytes
      let s := s.updChan tile ch fun k => { k with cmds := k.cmds.drop 1 }
      let s := s.updCtx e.ctx fun x => { x with aflags := x.aflags ||| e.flags }
      match cpyArgs e.instr with
      | some a => if isHost a.kind then s.unlogged e.ctx else s
      | none => s

def execEngineCommandComplete (tile : Nat) (ch : Fin 8) (s : State) : Out3 := .next (s.chanComplete tile ch)

/-- Whether a command is a later one of a context. -/
def laterOf (c : CtxId) (seq : Nat) (e : ECmd) : Bool := e.ctx == c && decide (seq ≤ e.seq)

def isSnap : Instr → Bool
  | .snap .. => true
  | _ => false

/-- A context's commands from one on are discarded in every channel and engine: their scoreboard entries, flits
and pending bytes are released (R215). -/
def State.discard (s : State) (tile : Nat) (c : CtxId) (seq : Nat) : State :=
  let gone := (s.tileOf tile).cmds.filter (laterOf c seq)
  let s := gone.foldl (fun s e => s.lessPend c e.plv e.bytes) s
  let s := s.updTile tile fun t => { t with
    chans := t.chans.map fun k => { k with cmds := k.cmds.filter fun e => !laterOf c seq e }
    pass := t.pass.filter fun e => !laterOf c seq e
    gath := t.gath.filter fun e => !laterOf c seq e }
  let s := s.updDev fun d => { d with circuits := d.circuits.map fun k =>
    { k with flits := k.flits.filter fun f => !(f.tile == tile && gone.any fun e => e.seq == f.seq) } }
  -- a `snap` in progress or recorded is a later command too: it waits for every earlier one's pass
  let later (o : Out) : Bool := isSnap o.instr || gone.any fun e => e.tag == o.tag && e.tag != 0
  s.updCtx c fun x =>
    let x := if x.out.any later then { x with out := none, resuming := false } else x
    if x.saved.any later then { x with saved := none, pv := false } else x

/-- The head of a channel that has met an error ends, with a deferred trap (R215). -/
def State.faultEnd (s : State) (tile : Nat) (ch : Fin 8) : State :=
  match s.chanHead tile ch with
  | none => s
  | some e =>
    if !e.started then s
    else match s.headError e with
      | none => s
      | some (c, d, a) =>
        -- an L2H copy sends the line in a poisoned TLP (R323)
        let s := match cpyArgs e.instr with
          | some x => if x.kind = CpyKind.l2h ∧ e.fault = none then s.poisonHost (e.hostLines (jobOf x (cap e.caps 2))) else s
          | none => s
        (s.discard tile e.ctx e.seq).defer e.ctx ⟨c, d, a, false, false, 0⟩

def execEngineFaultEnd (tile : Nat) (ch : Fin 8) (s : State) : Out3 := .next (s.faultEnd tile ch)

/-! ### Flits (R331, R332) -/

/-- The command of a flit, when it is still in its channel. -/
def State.flitCmd (s : State) (f : Flit) : Option (Fin 8 × ECmd) :=
  match fin? 8 f.ch with
  | none => none
  | some ch => ((s.tileOf f.tile).chans[ch].cmds.find? fun e => e.seq == f.seq).map fun e => (ch, e)

/-- The tile at which the flits of a tile circuit arrive, as the circuit's sheaf names it (R223, R257). -/
def Circuit.target (k : Circuit) : View := (k.sheaf.getD 0, bits k.dest 11 0)

def State.flitGone (s : State) (k : Circuit) (f : Flit) : State :=
  s.updCircuit k.handle fun k => { k with flits := k.flits.erase f }

/-- A fault of a command on its circuit. -/
def State.flitFault (s : State) (f : Flit) (ch : Fin 8) (x : Nat × Nat × W64) : State :=
  s.updChan f.tile ch fun k => { k with cmds := k.cmds.map fun e =>
    if e.seq = f.seq ∧ e.fault.isNone then { e with fault := some x } else e }

/-- The VA that the next line of a copy reads or writes. -/
def ECmd.memVa (e : ECmd) (j : Job) : W64 :=
  let (mf, bg) := e.mem j
  let ms := j.memSide mf bg
  let dst := if toLocal j.kind then j.localSide.total else ms.total
  let (lo, hi) := lineShare e.localBytes dst e.prog
  let a := if toLocal j.kind then (ms.share lo hi dst).1 else lo
  memRow (cap e.caps 1) (cap e.caps 3) (a / max 1 ms.rowLen) + BitVec.ofNat 64 (a % max 1 ms.rowLen)

/-- A flit of the `mem` and `host` circuits fails its check for a tile's channel, or for its gather at 8: the command that it
belongs to ends (R215, R332, R368). -/
def State.tileFlaw (s : State) (tile c : Nat) : State :=
  let err (s : State) (off : Nat) : State := s.countError 6 (errAddr tile off)
  match fin? 8 c with
  | some ch => match (s.rawHead tile ch).filter fun e => e.started && e.fault.isNone with
    | none => s
    | some e => match cpyArgs e.instr with
      | none => s
      | some a =>
        if a.kind = .l2c ∨ e.lines ≤ e.prog then s
        else (err s (capN e.caps 5 + 64 * e.prog)).updChanHead tile ch fun e => { e with
          fault := some (Cause.memoryError, syndrome 6 false false 0, e.memVa (jobOf a (cap e.caps 2))) }
  | none => match (s.tileOf tile).gath with
    | none => s
    | some e => match s.outOf e.ctx with
      | none => s
      | some o =>
        let idx := ofBytes (s.qread e.view e.lq (capN o.caps 6 + 4 * o.prog) 4)
        (err s (capN o.caps 5)).recorded e.ctx Cause.memoryError (syndrome 6 false false 0)
          (cap o.caps 1 + BitVec.ofNat 64 idx * cap o.caps 3) false

/-- The same for an access of a context that is on its way to its home. -/
def State.accessFlaw (s : State) (c : CtxId) : State :=
  match s.outOf c with
  | none => s
  | some o => if o.stage = .sent ∧ (globalNeeds o.instr).isSome then
      (s.countError 6 (s.coreOfCtx c / 8 * 2 ^ 30)).recorded c Cause.memoryError (syndrome 6 false false 0) o.addr false
    else s

/-- A flit of a `net` circuit leaves the package: its port, link tag and channel, and its bytes (R346). -/
def State.netOut (s : State) (k : Circuit) (f : Flit) : State :=
  let head := BitVec.ofNat 64 (bits k.dest 3 0 * 2 ^ 56 + bits k.dest 31 16 * 2 ^ 32 + f.ch * 2 ^ 16 + f.bytes.length)
  (List.range (ceilDiv f.bytes.length 8)).foldl (fun s i => s.tell 13 (word64 ((f.bytes.drop (8 * i)).take 8))) (s.tell 12 head)

/-- The member of a collective that takes the flits of a `net` circuit in a channel (R346; DEDUCED, entry 130). -/
def State.netMember (s : State) (k : Circuit) (f : Flit) : Option (Fin 8 × ECmd) :=
  (fin? 8 f.ch).bind fun ch => ((s.rawHead k.src ch).filter fun e =>
    e.started && k.sheaf == some e.ctx.sheaf && match collArgs e.instr with
      | some a => decide (e.recv < collFlits a e.caps)
      | none => false).map fun e => (ch, e)

/-- A flit that has come in through a port is discarded: MEMORY_ERROR, PLACE 6, for its command (R332, R347). -/
def State.netBad (s : State) (k : Circuit) (f : Flit) : State :=
  match s.netMember k f with
  | none => s
  | some (ch, e) => (s.countError 6 (errAddr k.src f.at_)).flitFault { f with tile := k.src, seq := e.seq } ch
      (Cause.memoryError, syndrome 6 false false 0, match collArgs e.instr with
        | some a => cap e.caps 0 + BitVec.ofNat 64 ((collPlace a e.caps e.recv true).1 - capN e.caps 5)
        | none => 0)

/-- A flit that the port has re-timed enters the circuit of its link tag, and reaches the circuit's tile (R346). Without such a
circuit it is discarded (R331); where its CRC fails or the port is not aligned, its command ends (R332, R347). -/
def State.netFlit (s : State) (port tag ch : Nat) (bytes : List Byte) (crcOk : Bool) : State :=
  match s.dev.circuits.find? fun k => k.kind == .net && k.active && bits k.dest 3 0 == port && bits k.dest 31 16 == tag with
  | none => s
  | some k =>
    let f : Flit := ⟨s.slot + (k.lat - 6 - k.delay) + 4, 0, bytes.take 128, k.src, ch, 0, true⟩
    if !crcOk || !bit (s.dev.ports.toList.getD port ⟨0, 0⟩).cfg 61 then s.netBad k f
    else s.updCircuit k.handle fun k => { k with inbound := k.inbound ++ [f] }

/-- The member of a collective takes the oldest flit that has come in over a `net` circuit. -/
def State.netArrive (s : State) (handle : Nat) : State :=
  match s.circuit handle with
  | none => s
  | some k => match k.inbound with
    | [] => s
    | f :: fs =>
      if s.slot < f.due then s
      else match s.netMember k f with
        | none => s
        | some (ch, e) => if s.takeMeets e then s
          else (s.updCircuit handle fun k => { k with inbound := fs }).collTake k.src ch f.bytes

/-- The first obstacle to a flit at its target: a fault with its place, or a bank that must wake (R128, R129, R215). -/
def State.flitBlock (s : State) (k : Circuit) (f : Flit) : Option (Nat × Nat × W64) × Bool :=
  let ps := s.pieces k.target (f.at_ / 2 ^ 21) (f.at_ % 2 ^ 21) f.bytes.length
  let at_ (i : Nat) : Nat := s.physAddr k.target (f.at_ / 2 ^ 21) (f.at_ % 2 ^ 21 + i)
  let gone (i : Nat) : Option (Nat × Nat × W64) :=
    (s.peerGone k.vd (at_ i / 2 ^ 19)).map fun d => (Cause.peerGone, d, BitVec.ofNat 64 (f.at_ + i))
  let off (i : Nat) : Option (Nat × Nat × W64) :=
    if s.bankSt (at_ i) == .off then some (Cause.bankOff, 2, BitVec.ofNat 64 (f.at_ + i)) else none
  let words := (List.range ((f.bytes.length + 3) / 4)).map fun i => 4 * i
  match (words.findSome? gone).or (words.findSome? off) with
  | some x => (some x, false)
  | none =>
    (none, ps.any fun p => s.rangeBank p.1 p.2 != .on || s.coreMoving (p.1 / 2 ^ 19) || s.copyMeets p.1 p.2)

/-- The earliest flit of a circuit becomes visible at its target, or is discarded after a failed CRC. It does
nothing before its slot. -/
def State.flitArrive (s : State) (handle : Nat) (crcOk : Bool) : State :=
  match s.circuit handle with
  | none => s
  | some k =>
    match k.flits with
    | [] => s
    | f :: _ =>
      if s.slot < f.due then s
      else match s.flitCmd f with
        | none => s.flitGone k f
        | some (ch, e) =>
          if !crcOk then
            ((s.flitGone k f).countError 6 (errAddr k.dst f.at_)).flitFault f ch
              (Cause.memoryError, syndrome 6 false false 0, BitVec.ofNat 64 f.at_)
          else match collArgs e.instr with
            | some a =>
              let less (s : State) : State :=
                (s.lessPend e.ctx e.plv (min e.bytes f.bytes.length)).updChan f.tile ch fun k => { k with
                  cmds := k.cmds.map fun x => if x.seq = e.seq then { x with bytes := x.bytes - f.bytes.length } else x }
              if k.kind = .net then less ((s.flitGone k f).netOut k f)
              -- without its next member the flit is lost: the words are undefined (R218, R6)
              else if s.collMeets k e a then s else less ((s.flitGone k f).collArrive k f e a)
            | none =>
              match s.flitBlock k f with
              | (some x, _) => (s.flitGone k f).flitFault f ch x
              | (none, true) =>
                (s.pieces k.target (f.at_ / 2 ^ 21) (f.at_ % 2 ^ 21) f.bytes.length).foldl (fun s p => s.wakeRet p.1 p.2) s
              | (none, false) =>
                let s := s.flitGone k f
                let s := s.engineLocal e.ctx e.q k.target (f.at_ / 2 ^ 21) (f.at_ % 2 ^ 21) (f.bytes.map some)
                let s := s.lessPend e.ctx e.plv (min e.bytes f.bytes.length)
                s.updChan f.tile ch fun k => { k with
                  cmds := k.cmds.map fun x => if x.seq = e.seq then { x with bytes := x.bytes - f.bytes.length } else x }

def execCircuitFlitArrive (handle : Nat) (crcOk : Bool) (s : State) : Out3 := .next (s.flitArrive handle crcOk)

/-! ### `coll` at issue -/

def State.collBody (s : State) (i : Instr) (a : CollArgs) (sa sb sc : W64) : State :=
  s.engineGate a.plv.val fun s =>
    let p := (collP a)
    let seg := sc.toNat
    let b := seg * fmtBytes a.fs
    if seg < 1 ∨ 2 ^ 16 < seg then s.exact Cause.engineState 2
    else if p ≤ a.rank.toNat then s.exact Cause.engineState 7
    else
      let rows := (List.range p).map fun r => (sa + BitVec.ofNat 64 (r * b), b, fmtBytes a.fs)
      s.engineRanges rows [] (sa, p * b) fun ls =>
        let off := match ls with
          | r :: _ => r.off
          | [] => 0
        if 2 ^ 16 ≤ sb.toNat ∨ (s.ringCircuit sb.toNat).isNone then s.exact Cause.engineState 1
        else s.engineReady ls 1 (decide (16 ≤ (s.tileOf s.myTile).chanLoad a.ch)) <|
          let (s, x) := s.newCmd i s.cur 0 a.ch.val [sa, sb, sc, 0, 0, BitVec.ofNat 64 off] [] [(off, p * b)]
            a.plv.val ((p - 1) * b)
          (s.toChan s.myTile a.ch x).doneN 16

def execColl (h : Head) (sa sb sc : Src) (e : CollArgs) (s : State) : Out3 :=
  issue h 16 s (s.collBody (.coll h sa sb sc e) e (s.src 1 sa) (s.src 2 sb) (s.src 3 sc))

/-! ### `gath` (R217) -/

def gathArgs : Instr → Option GathArgs
  | .gath _ _ _ _ _ e => some e
  | _ => none

def gathN (a : GathArgs) : Nat := a.count.toNat + 1
def gathEl (a : GathArgs) : Nat := a.rowel.toNat + 1
def gathLen (a : GathArgs) : Nat := rowBytes a.fs (gathEl a)

def gathRanges (a : GathArgs) (caps : List W64) : (Nat × Nat) × (Nat × Nat) :=
  ((capN caps 6, 4 * (gathN a)), (capN caps 5, (gathN a) * (gathLen a)))

def State.gatherBody (s : State) (i : Instr) (a : GathArgs) (sa sb sc sd : W64) : State :=
  s.engineGate 0 fun s =>
    let n := (gathLen a)
    let rows := (List.range (gathN a)).map fun r => (sa + BitVec.ofNat 64 (r * n), n, fmtBytes a.fs)
    s.engineRanges rows [(sc, 4 * (gathN a), 4)] (sa, gathN a * n) fun ls =>
      let off := match ls with
        | r :: _ => r.off
        | [] => 0
      let idx := match ls.getLast? with
        | some r => r.off
        | none => 0
      if !canonical sb then s.exact Cause.addressForm 1 sb
      else s.engineReady ls 2 (s.tileOf s.myTile).gath.isSome <|
        let caps : List W64 := [sa, sb, sc, sd, (s.me.lfsr[0]).setWidth 64, BitVec.ofNat 64 off, BitVec.ofNat 64 idx, 0]
        let s := if srActive a.rm a.fs a.fpg a.fm then
            s.updMe fun c => { c with lfsr := c.lfsr.set 0 (lfsrSteps c.lfsr[0] ((gathN a) * (gathEl a))) } else s
        let r := gathRanges a caps
        let (s, x) := s.newCmd i s.cur (s.freeN + 1) 8 caps [r.1] [r.2] 0 0
        (s.updTile s.myTile fun t => { t with gath := some x }).startN i 16 sb caps

def execGath (h : Head) (sa sb sc sd : Src) (e : GathArgs) (s : State) : Out3 :=
  issue h 16 s (s.gatherBody (.gath h sa sb sc sd e) e (s.src 1 sa) (s.src 2 sb) (s.src 3 sc) (s.src 4 sd))

/-- Sets an outstanding instruction's progress and its flags so far. -/
def Out.upTo (o : Out) (p : Nat) (fl : Flags) : Out :=
  { o with prog := p, caps := o.caps.set 7 (cap o.caps 7 ||| zx fl) }

/-- The next row of a gather. -/
def State.gathRow (s : State) (c : CtxId) (o : Out) (a : GathArgs) (e : ECmd) : State :=
  let tile := s.coreOfCtx c / 8
  let i := o.prog
  if (gathN a) ≤ i then
    (s.updTile tile fun t => { t with gath := none }).finish c o.tag 0 ((cap o.caps 7).setWidth 6)
  else if s.cmdHeld e.view e.lq e.seq e.reads e.writes then s
  else
    let io := capN o.caps 6 + 4 * i
    match (s.pieces e.view e.lq io 4).find? fun q => s.lPoisoned q.1 q.2 with
    | some q =>
      s.recorded c Cause.memoryError (s.localSyndrome 0 q.1 q.2) (cap o.caps 2 + BitVec.ofNat 64 (4 * i)) false
    | none =>
      let idx := ofBytes (s.qread e.view e.lq io 4)
      let va := cap o.caps 1 + BitVec.ofNat 64 idx * cap o.caps 3
      let al := fmtBytes a.fm
      if !canonical va then s.recordFail c ⟨Cause.addressForm, 1⟩ va .read
      else if !a.fpg && va.toNat % al != 0 then s.recordFail c ⟨Cause.misaligned, 1⟩ va .read
      else
        match s.devPage c .read (vaNat va / 4096 * 4096) with
        | (s, .fault f) => s.recordFail c f va .read
        | (s, .ask) => s
        | (s, .ok h) =>
          let j : Job := ⟨.g2l, (gathEl a), 1, 0, a.fs, a.fm, a.fpg, a.rm, 0, false⟩
          let z := j.sized h.fmtCode h.bg
          let mf := pageFmt h.fmtCode
          let len := (j.memSide z.1 z.2).rowLen
          if !canonical (va + BitVec.ofNat 64 (len - 1)) then
            s.recordFail c ⟨Cause.addressForm, 1⟩ (va + BitVec.ofNat 64 (len - 1)) .read
          else
            let pages := (pagesOf va len).foldl (fun l p => insertUp p l) []
            match s.allPages false c .read pages with
            | (s, .fault f p) => s.recordFail c f (vaW p) .read
            | (s, .ask _) => s
            | (s, .ok hs) =>
              match formatFault j va 0 hs with
              | some (d, at_) => s.recordFail c ⟨Cause.formatAccess, d⟩ at_ .read
              | none =>
                if isKb mf then s.recordFail c ⟨Cause.formatAccess, 5⟩ va .read
                else
                  let s := (List.range len).foldl (fun s k =>
                    if k % 64 = 0 then s.flushHome (heldAt hs (va + BitVec.ofNat 64 k)).1 64 else s) s
                  match (List.range len).find? fun k =>
                      s.hbmPoisoned (heldAt hs (va + BitVec.ofNat 64 k)).1 1 with
                  | some k =>
                    let at_ := va + BitVec.ofNat 64 k
                    s.recorded c Cause.memoryError (s.hbmSyndrome false (heldAt hs at_).1) at_ false
                  | none =>
                    let ms : Side := { j.memSide mf h.bg with rows := (gathN a) }
                    let conv : Conv := ⟨ms, ⟨a.fs, 0, (gathEl a), (gathN a)⟩, a.rm, (cap o.caps 4).setWidth 32⟩
                    let rd : Reader := fun _ b => s.memByte false hs (va + BitVec.ofNat 64 b)
                    let r := conv.stretch (!converts a.fs mf) rd i 0 (gathLen a)
                    let s := s.engineLocal c e.q e.view e.lq (capN o.caps 5 + i * (gathLen a)) r.1
                    let s := s.updCtx c fun x => { x with trBytes := x.trBytes + (gathLen a) }
                    s.updOut c fun o => o.upTo (i + 1) r.2

/-- The gather of a context in its tile. One that has been recorded takes the engine again when no other gather holds it,
with the entries that it has kept (R211, R217; DEDUCED, entry 132). -/
def State.gathPass (s : State) (c : CtxId) (o : Out) (a : GathArgs) : State :=
  let tile := s.coreOfCtx c / 8
  match (s.tileOf tile).gath with
  | some e => if e.ctx = c then s.gathRow c o a e else s
  | none =>
    let mine (e : ECmd) : Bool := e.ctx == c && e.tag == o.tag
    match (s.tileOf tile).pass.find? mine with
    | some e => (s.updTile tile fun t => { t with gath := some e, pass := t.pass.filter fun e => !mine e }).gathRow c o a e
    | none => s

/-! ### `snap` (R219, R300) -/

def State.snapBody (s : State) (i : Instr) (dst src len ckp : W64) : State :=
  s.engineGate 0 fun s =>
    if len = 0 ∨ len.toNat % 64 ≠ 0 ∨ 2 ^ 40 < len.toNat then s.exact Cause.engineState 2
    else
      let bad (a : W64) : Option (Nat × W64) :=
        if !canonical a || !canonical (a + (len - 1)) then some (Cause.addressForm, a)
        else if a.toNat % 64 ≠ 0 then some (Cause.misaligned, a)
        else none
      match (bad dst).or (bad src) with
      | some (c, a) => s.exact c 1 a
      | none => s.startN i 16 dst [dst, src, len, ckp]

def execSnap (h : Head) (sa sb sc sd : Src) (ch : Fin 8) (s : State) : Out3 :=
  issue h 16 s (s.snapBody (.snap h sa sb sc sd ch) (s.src 1 sa) (s.src 2 sb) (s.src 3 sc) (s.src 4 sd))

/-- The moment of a context's checkpoint, while it is held (R296). -/
def State.moment (s : State) (c : CtxId) (num : Nat) : Option Moment :=
  (s.vdOf (s.vdOfCtx c)).moments.find? fun m => m.ctx == c && m.num == num && m.held && decide (0 < num)

/-- The 64 bytes of a line as they stood at a moment, and whether they were in error: from the earliest later record, or from
memory. -/
def State.imageLine (s : State) (vd : Nat) (m : Moment) (va : W64) (dpa key : Nat) : List Byte × Bool :=
  match (s.vdOf vd).log.find? fun r => r.line == vaNat va / 64 && decide (m.seq < r.seq) with
  | some r => (r.old, r.bad)
  | none => (s.devRead (s.key key) dpa 64, s.hbmPoisoned dpa 64)

/-- How a unit of a snapshot ends: whole, with a fault, without its checkpoint (R296), or waiting for log space. -/
inductive SnapRes where
  | done
  | fail (f : Fail) (a : W64) (k : Acc)
  | gone
  | held
  deriving DecidableEq, Repr

/-- One line of a snapshot. The combination of U lines of the source may discard records, so the checkpoint is looked up after
it; where it would discard records that the log keeps, the line waits (R296). -/
def State.snapLine (s : State) (c : CtxId) (num : Nat) (dst src : W64) : State × SnapRes :=
  match s.devPage c .read (vaNat src / 4096 * 4096) with
  | (s, .fault f) => (s, .fail f src .read)
  | (s, .ask) => (s, .done)
  | (s, .ok h) =>
    match s.devPage c .write (vaNat dst / 4096 * 4096) with
    | (s, .fault f) => (s, .fail f dst .write)
    | (s, .ask) => (s, .done)
    | (s, .ok g) =>
      let p := heldAt [h] src
      if s.homeHeld p.1 64 then (s.waitLog (s.vdOfCtx c), .held)
      else
        let s := s.flushHome p.1 64
        match s.moment c num with
        | none => (s, .gone)
        | some m =>
          let i := s.imageLine (s.vdOfCtx c) m src p.1 p.2
          if i.2 then (s, .fail ⟨Cause.memoryError, s.hbmSyndrome false p.1⟩ src .read)
          else (s.enginePiece c [g] dst (i.1.map some), .done)

/-- Lines of a snapshot, each while the checkpoint is held (R300). -/
def State.snapLines (s : State) (c : CtxId) (num : Nat) : (n : Nat) → W64 → W64 → State × SnapRes
  | 0, _, _ => (s, .done)
  | n + 1, dst, src =>
    if s.logHeld (s.vdOfCtx c) [vaNat dst / 64] then (s.waitLog (s.vdOfCtx c), .held)
    else match s.snapLine c num dst src with
      | (s, .done) => s.snapLines c num n (dst + 64) (src + 64)
      | r => r

/-- The next 4 KiB unit of a snapshot. One that ends early is done again from its start. -/
def State.snapUnit (s : State) (c : CtxId) (o : Out) : State :=
  let at_ := 4096 * o.prog
  let len := capN o.caps 2
  if (s.moment c (capN o.caps 3)).isNone then s.recorded c Cause.engineState 4 0 false
  else if len ≤ at_ then s.finish c o.tag 0
  else
      let n := min 64 ((len - at_) / 64)
      match s.snapLines c (capN o.caps 3) n (cap o.caps 0 + BitVec.ofNat 64 at_) (cap o.caps 1 + BitVec.ofNat 64 at_) with
      | (s, .fail f a k) => s.recordFail c f a k
      | (s, .gone) => s.recorded c Cause.engineState 4 0 false
      | (s, .held) => s
      | (s, .done) =>
        let s := s.updCtx c fun x => { x with trBytes := x.trBytes + 64 * n }
        s.updOut c fun o => { o with prog := o.prog + 1 }

/-- The next step of an engine command that is still a restart-class instruction: the pass of a copy, a row of a
gather, a unit of a snapshot. It does nothing for any other instruction. -/
def State.enginePass (s : State) (c : CtxId) : State :=
  match s.outOf c with
  | none => s
  | some o =>
    match o.instr with
    | .cpy _ _ _ _ a => s.copyPass c o a
    | .cpy2d _ _ _ _ _ a => s.copyPass c o a
    | .gath _ _ _ _ _ a => s.gathPass c o a
    | .snap .. => s.snapUnit c o
    | _ => s

def execEngineTranslationDone (c : CtxId) (s : State) : Out3 := .next (s.enginePass c)

/-! ### `wpwait` and `sig.dec` (R216, R220) -/

def execWpwait (h : Head) (ch : Fin 8) (a : Src) (s : State) : Out3 :=
  let v := s.src 1 a
  issue h 8 s <|
    let s := s.unfence
    if s.fenced then s.stall
    else if (s.tileOf s.myTile).chans[ch].wp.toNat < v.toNat then s.park 9
    else (s.settle 3 (2 ^ 40 + 8 * s.myTile + ch.val)).doneN 8

def execSigDec (h : Head) (p : Fin 8) (b : Src) (s : State) : Out3 :=
  let ea := s.me.a[p]
  let v := s.src 2 b
  let t := s.unfence
  issue h 8 s <|
    if t.fenced || t.rcBusy || t.relBusy t.cur || t.cmdBusy t.cur || t.relLog (some .sys) then t.stallRel (some .sys)
    else t.globalCheck ea 8 ((t.release .sys).startN (.sigDec h p b) 8 ea [v])

end Sys2Proof.Machine
end

