-- ==== Sys2Proof/Machine/Issue.lean ====
section
/-! DEFINITION. From a context to its next instruction: readiness (04 R93, R97), traps that come before it
(R98, 08 R280), fetch and decode (02 R45 to R47, R64), and what follows an issue: Darnel's check (04 R99) and
the trace records (14 R362). Also the rows for an illegal word and for the write of a pending result (R96). -/

namespace Sys2Proof.Machine

/-! ### The decode traps and pending results -/

/-- The decode trap of a word that is no legal instruction: exact, TRAPADDR zero, RESTART 0 (R64). -/
def execIllegalInstruction (cause : DecodeCause) (detail : Byte) (s : State) : Out3 :=
  match s.ctx s.cur with
  | none => .fault .noIssuer
  | some _ =>
    .next (s.exact
      (match cause with
       | .illegalInstruction => Cause.illegalInstruction
       | .illegalLength => Cause.illegalLength) detail.toNat)

/-- The k-th pending result of a context, when its latency has run (R96). -/
def State.dueResult (s : State) (c : CtxId) (k : Nat) : Option Pend :=
  match s.ctx c with
  | none => none
  | some x =>
    match x.pend[k]? with
    | none => none
    | some p =>
      match p.due with
      | some d => if d ≤ s.cycleOfCtx c then some p else none
      | none => none

/-- The result of a class L instruction is written. It does nothing before the end of its latency (R96). -/
def State.resultWrite (s : State) (c : CtxId) (k : Nat) : State :=
  match s.dueResult c k with
  | none => s
  | some p => (s.updCtx c fun x => x.writeResult s.freeN p (p.value s.freeN)).fresh

def execPendingResultWrite (c : CtxId) (k : Nat) (s : State) : Out3 := .next (s.resultWrite c k)

/-! ### Readiness -/

/-- Whether a lookahead wait holds the context's next instruction (R97). -/
def Ctx.windowHeld (x : Ctx) : Bool := x.pend.any fun p => decide (p.la ≤ p.dist)

/-- Whether a context can take part in issue at all: its sheaf runs, and neither the host, a stop, a page
request nor the completion of its recorded instruction holds it (R32, R227, R284, R293, R320). -/
def State.live (s : State) (c : CtxId) (x : Ctx) : Bool :=
  !x.hostStop && !x.resuming && !x.needCkpt && x.wait != .page && x.wait != .stopped &&
    (s.sheafOf c.sheaf).st == .running && !((s.grainOf c).getD Grain.zero).moving

/-- The instructions whose effect no log covers, but for copies (R299). -/
def isUnlogged : Instr → Bool
  | .launch .. | .sigDec .. | .arm .. | .disarm .. | .cktReq .. | .cktRel .. | .svc .. => true
  | _ => false

/-- Whether an instruction of a context that a checkpoint is to follow has not completed: in rollback mode no later one
issues before it (R299). -/
def State.unloggedBusy (s : State) (c : CtxId) (x : Ctx) : Bool :=
  s.rollback (s.vdOfCtx c) && (x.out.any (fun o => isUnlogged o.instr) ||
    (s.tileOf (s.coreOfCtx c / 8)).cmds.any fun e => e.ctx == c && match e.instr with
      | .cpy _ _ _ _ a | .cpy2d _ _ _ _ _ a => a.kind == .h2l || a.kind == .l2h
      | _ => false)

/-- Whether a deterministic sheaf's grains share cores (R276). -/
def Sheaf.folded (h : Sheaf) : Bool := h.det && h.clusters.any fun c => decide (96 ≤ c)

/-- Whether Spelt has switched a context's grain in, and its quantum is one up to which it runs (R276). -/
def State.onShelf (s : State) (c : CtxId) : Bool :=
  let h := s.sheafOf c.sheaf
  !h.folded || (s.coreOfCtx c / 3072 == h.shelf && decide (h.shelfAt ≤ s.slot) && decide (s.quantumOf c ≤ h.shelfQ))

/-- Whether a context may issue in this core cycle (R93, R96, R276, R299, R351). A request that is served with its batch takes
effect whether or not Spelt has switched its grain in and whatever its quad's clock does (R276, R278). -/
def State.mayIssue (s : State) (c : CtxId) (x : Ctx) : Bool :=
  decide (x.readyAt ≤ s.cycleOfCtx c) && !x.windowHeld && x.wait != .task && !s.unloggedBusy c x &&
    (x.wait == .granted || (s.onShelf c && (s.quadOf (((s.grainOf c).getD Grain.zero).core / 4)).phase != 2))

/-- What a context does next: nothing yet, an instruction, or the decode trap of an illegal word. -/
inductive Fetched where
  | wait
  | instr (i : Instr)
  | illegal (cause : DecodeCause) (detail : Nat)
  deriving DecidableEq, Repr

/-- The instruction at a context's PC, or the state after its fetch fault (R64). -/
def State.fetchNext (s : State) (c : CtxId) (x : Ctx) : State × Fetched :=
  match s.fetchBlock c x.pc with
  | (s, .error f) => (s.fetchFault c f x.pc, .wait)
  | (s, .ok bs) =>
    match Sys2Proof.decode bs with
    | .ok (i, _) => (s, .instr i)
    | .error e => (s, .illegal e.cause e.detail)

/-- Whether a context has a recorded instruction to complete before it continues (R32, R292): the record is not
one that a handler is dealing with, or that waits for the host. -/
def Ctx.mustResume (x : Ctx) : Bool := x.pv && !x.handler && x.taking.isNone && x.out.isNone

/-- What the instructions of lower CTXID that the core issued in this cycle do in local memory at a later time, takes its place
before an instruction of a higher CTXID: the vector unit's writes, and the reads of peer loads (R95, R255; DEDUCED, entry 131). -/
def State.lowerFirst (s : State) (c : CtxId) : State :=
  let quad := s.coreOfCtx c / 4
  let lower (e : CtxId × Ctx) : Bool := decide (e.1.ctx < c.ctx) && e.2.lastIssue == s.cycleOf quad
  let ls := ((s.ctxsOf c.sheaf c.grain).filter lower).map Prod.fst
  let mine (v : VOp) : Bool := ls.contains v.ctx && !v.writes.isEmpty
  let ops := (s.quadOf quad).vops.filter mine
  let s := if ops.isEmpty then s else
    let t := s.updQuad quad fun q => { q with vops := q.vops.map fun v => if mine v then { v with writes := [] } else v }
    ops.foldl (fun t v => (t.putCells v.writes).cleanCells v.writes) t
  ls.foldl (fun s k => s.peerRead k) s

/-- What comes before a context's next instruction, and that instruction when the context is ready. -/
def State.prepare (s : State) (c : CtxId) : State × Fetched :=
  match s.ctx c with
  | none => (s, .wait)
  | some x =>
    if !s.live c x then (s, .wait)
    else
      let s' : State := { s with cur := c }
      if x.mustResume then (s'.updCtx c Ctx.resume, .wait)
      else match x.taking with
      | some (t, pc) => if s.trapReady c x then (s'.enterTrap c t pc, .wait) else (s, .wait)
      | none =>
        match x.deferred with
        | t :: ts => ((s'.updCtx c fun x => { x with deferred := ts }).takeTrap c t x.pc, .wait)
        | [] => if s.mayIssue c x then (s'.lowerFirst c).fetchNext c x else (s, .wait)

/-! ### Darnel (R99) -/

/-- Source registers of an operand form. -/
def iopSrc : IOp → List Src
  | .reg r => [r]
  | _ => []
def fopSrc : FOp → List Src
  | .reg r => [r]
  | _ => []
def descSrc : VDesc → List Src
  | .scalar r => [r]
  | _ => []

/-- The registers that an instruction names as sources. -/
def srcsOf : Instr → List Src
  | .add _ a b | .sub _ a b | .mul _ a b | .mulh _ a b | .mulhu _ a b | .div _ a b | .divu _ a b | .rem _ a b
  | .remu _ a b | .minS _ a b | .maxS _ a b | .minu _ a b | .maxu _ a b | .andW _ a b | .orW _ a b
  | .xorW _ a b | .andn _ a b | .orn _ a b | .shl _ a b | .shr _ a b | .sra _ a b | .rot _ a b
  | .bext _ a b | .sext _ a b | .zext _ a b | .ceq _ a b | .cne _ a b | .clt _ a b | .cle _ a b
  | .cltu _ a b | .cleu _ a b => a :: iopSrc b
  | .bins _ a b c | .sel _ a b c => a :: b :: iopSrc c
  | .fadd _ a b | .fsub _ a b | .fmul _ a b | .fmin _ a b | .fmax _ a b | .fceq _ a b | .fclt _ a b
  | .fcle _ a b => a :: fopSrc b
  | .ffma _ a b c => a :: b :: fopSrc c
  | .clz _ a | .ctz _ a | .popc _ a | .fabs _ a | .fneg _ a | .frcp _ a | .frsq _ a | .fclass _ a
  | .movR _ a | .ret _ a | .brx _ a | .vsetvl _ a | .launch _ a | .disarm _ a | .cktRel _ a
  | .cktStat _ a => [a]
  | .fcvt _ a _ _ | .movhi _ a _ | .psetKeep _ _ a | .padd _ _ a | .loopI _ a _ | .barWait _ a _
  | .rdvGet _ a | .rqtake _ _ a | .wpwait _ _ a | .sigDec _ _ a | .locq _ a _ | .swr _ _ a | .srsRd _ a _
  | .rqput _ _ a _ | .tbcfgWrite _ _ a | .rqcfgWrite _ _ _ a | .mqwtWrite _ _ a | .mwldImg _ a _
  | .mwldGl _ a _ => [a]
  | .pset _ _ a b | .rdvPut _ a b | .arm _ a b _ | .srsWr _ a b _ | .cktReq _ a b _ => [a, b]
  | .ringDef _ a b _ _ _ _ => [a, b]
  | .st _ _ _ _ b | .stg _ _ _ _ b | .stfull _ _ b => [b]
  | .amoSwap _ x | .amoAdd _ x | .amoFadd _ x | .amoMin _ x | .amoMax _ x | .amoAnd _ x | .amoOr _ x
  | .amoXor _ x => [x.b]
  | .amoCas _ x c => [x.b, c]
  | .redAdd _ x | .redFadd _ x | .redMin _ x | .redMax _ x | .redAnd _ x | .redOr _ x | .redXor _ x => [x.b]
  | .vadd _ v | .vsub _ v | .vmul _ v | .vfma _ v | .vfms _ v | .vmin _ v | .vmax _ v | .vabs _ v | .vneg _ v
  | .vexp2 _ v | .vlog2 _ v | .vrcp _ v | .vrsq _ v | .vcvt _ v | .vand _ v | .vor _ v | .vxor _ v
  | .vshl _ v | .vshr _ v | .vsra _ v | .vcmp _ v | .vsel _ v | .vbcast _ v | .vmov _ v | .vperm _ v
  | .vredadd _ v | .vredmax _ v | .vredmin _ v | .vscan _ v | .vgath _ v | .vscat _ v =>
    descSrc v.d ++ descSrc v.x ++ descSrc v.y ++ descSrc v.z
  | .cpy _ a b c _ | .coll _ a b c _ => [a, b, c]
  | .cpy2d _ a b c d _ => [a, b, c, d]
  | .gath _ a b c d _ | .snap _ a b c d _ => [a, b, c, d]
  | _ => []

/-- The head of an instruction that a context issues. -/
def headOf : Instr → Option Head
  | .add h _ _ | .sub h _ _ | .mul h _ _ | .mulh h _ _ | .mulhu h _ _ | .div h _ _ | .divu h _ _ | .rem h _ _
  | .remu h _ _ | .minS h _ _ | .maxS h _ _ | .minu h _ _ | .maxu h _ _ | .andW h _ _ | .orW h _ _
  | .xorW h _ _ | .andn h _ _ | .orn h _ _ | .shl h _ _ | .shr h _ _ | .sra h _ _ | .rot h _ _
  | .bext h _ _ | .sext h _ _ | .zext h _ _ | .ceq h _ _ | .cne h _ _ | .clt h _ _ | .cle h _ _
  | .cltu h _ _ | .cleu h _ _ | .bins h _ _ _ | .sel h _ _ _
  | .fadd h _ _ | .fsub h _ _ | .fmul h _ _ | .fmin h _ _ | .fmax h _ _ | .fceq h _ _ | .fclt h _ _
  | .fcle h _ _ | .ffma h _ _ _
  | .clz h _ | .ctz h _ | .popc h _ | .fabs h _ | .fneg h _ | .frcp h _ | .frsq h _ | .fclass h _
  | .movR h _ | .ret h _ | .brx h _ | .vsetvl h _ | .launch h _ | .disarm h _ | .cktRel h _ | .cktStat h _
  | .fcvt h _ _ _ | .movhi h _ _ | .psetKeep h _ _ | .padd h _ _ | .loopI h _ _ | .barWait h _ _
  | .rdvGet h _ | .rqtake h _ _ | .wpwait h _ _ | .sigDec h _ _ | .locq h _ _ | .swr h _ _ | .srsRd h _ _
  | .rqput h _ _ _ | .tbcfgWrite h _ _ | .rqcfgWrite h _ _ _ | .mqwtWrite h _ _ | .mwldImg h _ _ | .mwldGl h _ _
  | .pset h _ _ _ | .rdvPut h _ _ | .arm h _ _ _ | .srsWr h _ _ _ | .cktReq h _ _ _
  | .ringDef h _ _ _ _ _ _ | .st h _ _ _ _ | .stg h _ _ _ _ | .stfull h _ _
  | .amoSwap h _ | .amoAdd h _ | .amoFadd h _ | .amoMin h _ | .amoMax h _ | .amoAnd h _ | .amoOr h _
  | .amoXor h _ | .amoCas h _ _
  | .redAdd h _ | .redFadd h _ | .redMin h _ | .redMax h _ | .redAnd h _ | .redOr h _ | .redXor h _
  | .vadd h _ | .vsub h _ | .vmul h _ | .vfma h _ | .vfms h _ | .vmin h _ | .vmax h _ | .vabs h _ | .vneg h _
  | .vexp2 h _ | .vlog2 h _ | .vrcp h _ | .vrsq h _ | .vcvt h _ | .vand h _ | .vor h _ | .vxor h _
  | .vshl h _ | .vshr h _ | .vsra h _ | .vcmp h _ | .vsel h _ | .vbcast h _ | .vmov h _ | .vperm h _
  | .vredadd h _ | .vredmax h _ | .vredmin h _ | .vscan h _ | .vgath h _ | .vscat h _
  | .cpy h _ _ _ _ | .coll h _ _ _ _ | .cpy2d h _ _ _ _ _ | .gath h _ _ _ _ _ | .snap h _ _ _ _ _
  | .movi h _ | .lit h _ | .paddImm h _ _ | .pget h _ _ | .br h _ | .jmp h _ | .call h _ | .hstart h _ _
  | .hjoin h _ | .hexit h | .nop h | .ld h _ _ _ _ | .ldg h _ _ _ _ | .ldsync h _ | .ldsyncC h _
  | .setempty h _ | .fence h _ | .fenceAcq h _ | .fenceRel h _ | .barArv h _ | .barSync h _ | .evsig h _
  | .evwaitLoad h _ | .mutexTake h _ | .mutexTry h _ | .mutexRelease h _ | .tileBarrierArrive h _
  | .tileBarrierWait h _ | .vsetvlImm h _ | .mwld h _ | .mma h _ | .mmaSp h _ | .mzero h _ | .maccRd h _
  | .maccWr h _ | .macq h _ | .mrel h _ | .mpin h _ | .munpin h _ | .mstat h _ | .deltaUpd h _
  | .deltaChunk h _ | .deltaQry h _ | .tfence h | .trapN h _ | .svc h _ | .eret h | .srd h _ | .prio h _
  | .time h _ | .chkpt h | .pwrReq h _ | .halt h => some h
  | _ => none

/-- Whether a pending result of a context is read through a source code. -/
def Ctx.readsPending (x : Ctx) (r : Src) : Bool :=
  x.pend.any fun p => match r with
    | .g n => p.g == some n
    | .q i => p.age == i.val + 1

/-- The DETAIL of WINDOW_HAZARD for an instruction about to execute, if it has a hazard (R99). -/
def Ctx.hazard (x : Ctx) (i : Instr) : Option Nat :=
  match headOf i with
  | none => none
  | some h =>
    if (srcsOf i).any x.readsPending then some 1
    else if (match h.guard with
        | .always => false
        | .on _ r _ => x.readsPending r) then some 2
    else if (match h.dst with
        | .g n => x.readsPending (.g n)
        | _ => false) then some 3
    else none

/-- Whether a context waited at issue instead of executing (R122). -/
def Ctx.waited (x : Ctx) : Bool :=
  match x.wait with
  | .parked _ | .task => true
  | .stalled => x.taking.isNone
  | _ => false

/-- Darnel's check on an execution: a hazard takes WINDOW_HAZARD from the state before it (R99). -/
def State.darnel (s : State) (c : CtxId) (i : Instr) (after : State) : State :=
  if !(s.sheafOf c.sheaf).debug then after
  else match s.ctx c with
    | none => after
    | some x =>
      match x.hazard i with
      | none => after
      | some d =>
        if ((after.ctx c).map Ctx.waited).getD false then after
        else s.takeTrap c ⟨Cause.windowHazard, d, 0, true, false, 0⟩ x.pc

/-- The record that follows an issue whose count reaches a multiple of PERIOD. -/
def State.tracePeriod (s : State) (c : CtxId) (before : Nat) : State :=
  let period := bits (s.ctl (s.vdOfCtx c) rTRCTL) 23 8
  match s.ctx c with
  | none => s
  | some x => if x.issued ≠ before ∧ x.issued % max 1 period = 0 then s.emitTrace c else s

/-- A context that a phase completion has let out of a hold goes on with that phase's quantum at least (R279): counted
before its instruction. -/
def State.released (s : State) (c : CtxId) (after : State) : State :=
  match (s.ctx c).bind fun x => x.holdLevel with
  | none => after
  | some k =>
    if ((after.ctx c).map Ctx.waited).getD false then after
    else
      let n := (((s.grainOf c).getD Grain.zero).dom k).getD 0
      let was := ((s.ctx c).getD Ctx.zero).lcnt
      let now := (((s.raise c 1 n).ctx c).getD Ctx.zero).lcnt
      after.updCtx c fun x => { x with holdLevel := none, lcnt := x.lcnt + (now - was) }

/-- What follows the execution of an instruction by a context: Darnel's check, the release from a hold and the trace
record. -/
def State.conclude (s : State) (c : CtxId) (i : Instr) (after : State) : State :=
  (s.released c (s.darnel c i after)).tracePeriod c ((s.ctx c).getD Ctx.zero).issued

end Sys2Proof.Machine
end

