-- ==== Sys2Proof/Machine/System.lean ====
section
/-! DEFINITION. `tfence`, `trap`, `svc`, `eret`, context registers, priority, time, checkpoint numbers, power
requests and `halt` (08 R226 to R235). -/

namespace Sys2Proof.Machine

/-! ### Traps (R226 to R228) -/

/-- Whether the executing context still has earlier work: a result to be written, an access or a command (R226). -/
def State.workLeft (s : State) : Bool :=
  !s.me.pend.isEmpty || s.me.out.isSome || s.vecBusy s.cur || s.cmdBusy s.cur

/-- A trap of an instruction that has issued: TRAPPC names the next one in dynamic order (R226, R227). -/
def State.trapAfter (s : State) (cause detail : Nat) : State := (s.doneN 8).exact cause detail 0 true

def execTfence (h : Head) (s : State) : Out3 :=
  issue h 8 s <|
    if s.workLeft then s.stall
    else
      let f := s.me.aflags &&& s.me.amask
      if f ≠ 0 then s.trapAfter Cause.arithmetic f.toNat else s.doneN 8

def execTrapN (h : Head) (n : BitVec 8) (s : State) : Out3 := issue h 8 s (s.trapAfter Cause.trap n.toNat)

/-- `svc` goes to the host; in rollback mode a checkpoint follows it (R227, R299). -/
def execSvc (h : Head) (n : BitVec 8) (s : State) : Out3 := issue h 8 s ((s.unlogged s.cur).trapAfter Cause.svc n.toNat)

/-- An instruction that is abandoned leaves the units that hold a part of it: a matrix queue's global load (R33). -/
def State.abandon (s : State) (c : CtxId) (tag : Nat) : State :=
  let keep (m : MCmd) : Bool := !(m.ctx == c && m.tag == tag && match m.instr with
    | .mwldGl .. => true
    | _ => false)
  s.updGrainOf c fun g => { g with mq := g.mq.filter keep }

/-- The part of dropping a record that lies outside the context (R33): an engine command ends, and the bytes that it will no
longer write are no longer pending (R210, R211). -/
def State.dropSaved (s : State) (c : CtxId) : State :=
  match (s.ctx c).bind fun x => x.saved with
  | some o => (s.leaveEngine c).abandon c o.tag
  | none => s

def execEret (h : Head) (s : State) : Out3 :=
  issue h 8 s <|
    if !s.me.handler then s.exact Cause.privilege 2
    else if s.me.out.isSome then s.stall
    else
      let s := if bit s.me.trapcause 18 || !s.me.pv then s.dropSaved s.cur else s
      (s.updMe fun c => (c.tally s.cycle).leaveHandler).fresh

/-! ### Context registers (R38, R229) -/

/-- PIX as a word (R31). -/
def Ctx.pixWord (c : Ctx) : W64 :=
  BitVec.ofNat 64 ((if c.pv then 2 ^ 63 else 0) + c.pq * 2 ^ 43 + c.pd * 2 ^ 38 + (if c.held then 2 ^ 32 else 0) + c.prog.toNat)

/-- The register of a number from a base on. -/
def regAt (n base count : Nat) : Option (Fin count) := if base ≤ n then fin? count (n - base) else none

/-- The value of a context register, if the number names one. -/
def State.sysreg (s : State) (n : Nat) : Option W64 :=
  let c := s.me
  match regAt n 0x010 8, regAt n 0x020 4, regAt n 0x024 4, regAt n 0x028 4, regAt n 0x100 64 with
  | some i, _, _, _, _ => some c.as_[i]
  | _, some i, _, _, _ => some c.ls[i]
  | _, _, some i, _, _ => some c.le[i]
  | _, _, _, some i, _ => some (zx c.lc[i])
  | _, _, _, _, some i => some (zx c.lfsr[i])
  | _, _, _, _, _ =>
    match n with
    | 0x02C => some (BitVec.ofNat 64 c.depth)
    | 0x030 => some (BitVec.ofNat 64 c.vl)
    | 0x031 => some (zx c.aflags)
    | 0x032 => some (zx c.amask)
    | 0x033 => some c.pixWord
    | 0x034 => some c.pixpc
    | 0x038 => some c.trapcause
    | 0x039 => some c.trappc
    | 0x03A => some c.trapaddr
    | 0x040 => some (BitVec.ofNat 64 s.cur.ctx)
    | 0x041 => some (BitVec.ofNat 64 s.cur.grain)
    | 0x042 => some (BitVec.ofNat 64 s.sheaf.sheafid)
    | 0x043 => some (BitVec.ofNat 64 s.grain.prio)
    | 0x044 => some s.grain.dommask
    | _ => none

def execSrd (h : Head) (n : BitVec 9) (s : State) : Out3 :=
  issue h 8 s <|
    match s.sysreg n.toNat with
    | none => s.exact Cause.sysregNumber 1
    | some v => s.doneS h 8 v

/-- A context register written, or none where the value is refused (R24, R25, R26). Read-only fields ignore it. -/
def Ctx.writeReg (c : Ctx) (n : Nat) (v : W64) : Option Ctx :=
  match regAt n 0x010 8, regAt n 0x020 4, regAt n 0x024 4, regAt n 0x028 4, regAt n 0x100 64 with
  | some i, _, _, _, _ => some { c with as_ := c.as_.set i v }
  | _, some i, _, _, _ => some { c with ls := c.ls.set i (addrField v) }
  | _, _, some i, _, _ => some { c with le := c.le.set i (addrField v) }
  | _, _, _, some i, _ => some { c with lc := c.lc.set i (v.setWidth 32) }
  | _, _, _, _, some i => if v.setWidth 32 = (0 : W32) then none else some { c with lfsr := c.lfsr.set i (v.setWidth 32) }
  | _, _, _, _, _ =>
    match n with
    | 0x02C => if 4 < bits v 2 0 then none else some { c with depth := bits v 2 0 }
    | 0x030 => if bits v 7 0 = 0 ∨ 128 < bits v 7 0 then none else some { c with vl := bits v 7 0 }
    | 0x031 => some { c with aflags := c.aflags &&& ~~~(v.setWidth 6) }
    | 0x032 => some { c with amask := v.setWidth 6 }
    | 0x038 => some { c with trapcause := (c.trapcause &&& ~~~(maskBits 18 18)) ||| (v &&& maskBits 18 18) }
    | 0x039 => some { c with trappc := addrField v }
    | _ => some c

def execSwr (h : Head) (n : BitVec 9) (a : Src) (s : State) : Out3 :=
  let v := s.src 1 a
  issue h 8 s <|
    match s.sysreg n.toNat with
    | none => s.exact Cause.sysregNumber 1
    | some _ =>
      match s.me.writeReg n.toNat v with
      | none => s.exact Cause.sysregValue 1
      | some c => (s.updMe fun _ => c).doneN 8

/-! ### Priority, time and power (R231, R232, R234) -/

def execPrio (h : Head) (n : BitVec 4) (s : State) : Out3 :=
  issue h 8 s ((s.updGrain fun g => { g with prio := min n.toNat s.sheaf.prio }).doneN 8)

def State.timeValue (s : State) (sel : Nat) : W64 :=
  if s.sheaf.det ∨ sel = 2 then BitVec.ofNat 64 s.me.issued
  else if sel = 0 then BitVec.ofNat 64 s.slot
  else BitVec.ofInt 64 (s.cycle - s.grain.cycle0)

def execTime (h : Head) (sel : Fin 3) (s : State) : Out3 := issue h 8 s (s.doneS h 8 (s.timeValue sel.val))

def execPwrReq (h : Head) (k : Fin 8) (s : State) : Out3 :=
  issue h 8 s ((s.updGrain fun g => { g with pwrReq := k.val }).doneN 8)

/-! ### `chkpt` (R233, R294) -/

/-- Counts a checkpoint of the executing context: its number. -/
def State.nextChk (s : State) : State × Nat :=
  let n := s.grain.chk.toList.getD s.cur.ctx 0 + 1
  (s.updGrain fun g => { g with chk := if h : s.cur.ctx < 11 then g.chk.set s.cur.ctx n else g.chk }, n)

def execChkpt (h : Head) (s : State) : Out3 :=
  issue h 8 s <|
    if s.workLeft then s.stall
    else if s.logging s.myVd then
      -- one checkpoint of a sheaf at a time
      if s.sheaf.stop ≠ .none then s.stall
      else
        let (s, n) := s.nextChk
        let s := s.startL (.chkpt h) h 8 0 [BitVec.ofNat 64 n] [] .past
        s.updSheaf s.cur.sheaf fun x => { x with stop := .checkpoint, stopAt := s.slot, ckptBy := some s.cur }
    else
      let (s, n) := s.nextChk
      s.doneL h 8 4 (BitVec.ofNat 64 n)

/-! ### `halt` (R235) -/

/-- A helper is stopped and ends; one whose `rqput` holds a reservation issues nothing more and ends once its message is
delivered (R150). What it had in progress is discarded as a record is (R33), and its flags, with those of
its results and vector instructions that have not completed, go to the control context (R29, R235). -/
def State.killHelper (s : State) (c : CtxId) : State :=
  if ((s.ctx c).bind fun x => x.out).any fun o => isRqput o.instr && o.stage == .sent then
    s.updCtx c fun x => { x with wait := .stopped }
  else (((s.updCtx c Ctx.recordOut).dropSaved c).emitTrace c).endCtx c

/-- The helpers of the executing grain end. -/
def State.killHelpers (s : State) : State :=
  (s.ctxsOf s.cur.sheaf s.cur.grain).foldl (fun s e => if e.1.ctx = 0 then s else s.killHelper e.1) s

/-- Whether the retirement of the executing grain waits for log space (R296). -/
def State.grainLog (s : State) : Bool :=
  s.combineHeld fun _ u => u.by_.any fun c => c.sheaf == s.cur.sheaf && c.grain == s.cur.grain

/-- The grain retires: a release at `.sys` that combines the U lines of all its contexts (R137, R235). The accumulator
tiles that it owns become FREE; a SPILLED one stays so (R186). -/
def State.retireGrain (s : State) : State :=
  let s := s.flushU fun _ u => u.by_.any fun c => c.sheaf == s.cur.sheaf && c.grain == s.cur.grain
  let mine (a : AccState) : Bool := a == .owned s.cur.sheaf s.cur.grain
  let s := s.updTile s.myTile fun t => { t with acc := t.acc.map fun a => if mine a then .free else a }
  let s := s.emitTrace s.cur
  ((s.updGrain fun g => { g with retired := true }).endCtx s.cur).fresh

def execHalt (h : Head) (s : State) : Out3 :=
  issue h 8 s <|
    if s.cur.ctx ≠ 0 then s.exact Cause.helperState 5
    else
      let s := s.killHelpers
      let left := (s.ctxsOf s.cur.sheaf s.cur.grain).any fun e => e.1.ctx != 0
      if s.workLeft || left then s.stall
      else if s.grainLog then (s.waitLog s.myVd).stall
      else s.retireGrain

end Sys2Proof.Machine
end

