-- ==== Sys2Proof/Machine/Fabric.lean ====
section
/-! DEFINITION. The slot fabric: routers and routes (13 R327, R328), slot tables (R330, R337, R341, R400), Brome's
choice of slots and quotas (R335, R336, R342, R343), circuits and their messages (08 R223, R224; 13 R334, R338 to
R340), ports and time transfer (R345 to R348), locality queries (08 R225) and device registers (R230). -/

namespace Sys2Proof.Machine

/-! ### Routers (R257, R327) -/

def tileX (t : Nat) : Nat := 2 * (t / 4 % 16) + t % 2
def tileY (t : Nat) : Nat := 2 * (t % 384 / 64) + t % 4 / 2
def router (x y : Nat) : Nat := 32 * y + x
/-- Socket of the C-die of a tile (R328). -/
def dieOf (t : Nat) : Nat := tileX t / 8 + 4 * (tileY t / 6)

/-- The input of the next router that an output leads to. -/
def oppPort (p : Nat) : Nat :=
  match p with
  | 1 => 3
  | 2 => 4
  | 3 => 1
  | _ => 2

/-- A hop: router, input port, output port. -/
abbrev Hop := Nat × Nat × Nat

/-- The hops from a router along directions, out through a last port. -/
def hopsFrom (x y inp last : Nat) : List Nat → List Hop
  | [] => [(router x y, inp, last)]
  | d :: ds =>
    let x' := match d with
      | 2 => x + 1
      | 4 => x - 1
      | _ => x
    let y' := match d with
      | 3 => y + 1
      | 1 => y - 1
      | _ => y
    (router x y, inp, d) :: hopsFrom x' y' (oppPort d) last ds

def xDirs (x x' : Nat) : List Nat := List.replicate (x' - x) 2 ++ List.replicate (x - x') 4
def yDirs (y y' : Nat) : List Nat := List.replicate (y' - y) 3 ++ List.replicate (y - y') 1

/-- First along x, then along y (R333). -/
def routeOut (x y x' y' last : Nat) : List Hop := hopsFrom x y 0 last (xDirs x x' ++ yDirs y y')
/-- The reverse of such a route, entered through an edge port and left through LOCAL. -/
def routeBack (x y x' y' edge : Nat) : List Hop := hopsFrom x' y' edge 0 (yDirs y' y ++ xDirs x' x)

/-- The router and edge port of a destination outside the mesh. The rows of the host port and of the scale-out
ports on their dies are not given: free values (entry 5). -/
def edgeOf (x : Nat) (k : CktKind) (dest : W64) : Nat × Nat × Nat :=
  match k with
  | .mem =>
    let st := bits dest 2 0
    (8 * (st % 4) + x % 8, if st < 4 then 0 else 11, if st < 4 then 1 else 3)
  | .net =>
    let p := bits dest 3 0
    (if p < 8 then 0 else 31, (Config.freeWord 0 (900 + p)).toNat % 12, if p < 8 then 4 else 2)
  | _ => (0, (Config.freeWord 0 899).toNat % 12, 4)

/-- The source of a gang circuit: the gang agent of X-die 0 (R347). -/
def gangAgent : Nat := 2 ^ 20

/-- Routes of a gang circuit: none outside X-die 0 to one of its own ports; else from a WEST port, whose row is not given (a free
value, entry 5), through the mesh and back. -/
def gangRoutes (dest : W64) : List Hop × List Hop :=
  if bits dest 3 0 < 8 then ([], [])
  else
    let y := (Config.freeWord 0 897).toNat % 12
    let e := edgeOf 0 .net dest
    (hopsFrom 0 y 4 e.2.2 (xDirs 0 e.1 ++ yDirs y e.2.1), hopsFrom e.1 e.2.1 e.2.2 4 (yDirs e.2.1 y ++ xDirs e.1 0))

/-- Routes of a circuit, out and back, for a source tile and the target's physical tile. -/
def routesOf (k : CktKind) (src dst : Nat) (dest : W64) : List Hop × List Hop :=
  let x := tileX src
  let y := tileY src
  if src = gangAgent then gangRoutes dest else
  match k with
  | .tile => (routeOut x y (tileX dst) (tileY dst) 0, [])
  | _ => let e := edgeOf x k dest
         (routeOut x y e.1 e.2.1 e.2.2, routeBack x y e.1 e.2.1 e.2.2)

/-- Router-to-router links of a route. -/
def hopCount (fwd : List Hop) : Nat := fwd.length - 1

/-! ### Slot tables (R330, R337, R341, R400) -/

/-- Routing distance of a router from Brome (R337). -/
def routerDist (r : Nat) : Nat := r % 32 + r / 32

/-- Whether an output leads away from Brome; an edge port is one farther than its router. -/
def leadsAway (r port : Nat) : Bool :=
  match port with
  | 1 => r / 32 == 0
  | 4 => r % 32 == 0
  | _ => true

/-- The configuration circuit's slot on an output (R337). -/
def configSlot (r port w : Nat) : Nat :=
  let d := routerDist r
  if leadsAway r port then d % w else (w - d % w) % w

/-- Whether an output belongs to the links among the four tiles of a cluster, or is a LOCAL output (R341). -/
def inCluster (r port : Nat) : Bool :=
  match port with
  | 0 => true
  | 1 => r / 32 % 2 == 1
  | 2 => r % 2 == 0
  | 3 => r / 32 % 2 == 0
  | _ => r % 2 == 1

/-- The ordered pairs of different tiles of a cluster, by their places 0 to 3 (R341). -/
def tilePairs : List (Nat × Nat) :=
  (List.range 4).flatMap fun a => ((List.range 4).filter fun b => b != a).map fun b => (a, b)

/-- The slots, modulo 8, that the standing circuits of a cluster hold: router, input, output, slot, and the number of the ordered
pair of its tiles. Brome's choice is free within the bounds of R341: for each pair it takes the first injection slot, from a free
value on, whose entries neither another pair nor the configuration circuit holds (entry 5). `seed` tells the occasions of the
choice apart. -/
def standingOf (cluster w seed : Nat) : List (Nat × Nat × Nat × Nat × Nat) :=
  tilePairs.foldl (fun got p =>
    let a := 4 * cluster + p.1
    let b := 4 * cluster + p.2
    let path (r : Nat) := (routeOut (tileX a) (tileY a) (tileX b) (tileY b) 0).zipIdx.map fun h =>
      (h.1.1, h.1.2.1, h.1.2.2, (r + h.2) % 8, 16 * (16 * cluster + p.1) + p.2)
    let ok (r : Nat) : Bool := (path r).all fun e => configSlot e.1 e.2.2.1 w % 8 != e.2.2.2.1 &&
      !(got.any fun g => g.1 == e.1 && g.2.2.1 == e.2.2.1 && g.2.2.2.1 == e.2.2.2.1)
    let first := (Config.freeWord seed (2 ^ 32 + 16 * (16 * cluster + p.1) + p.2)).toNat
    match ((List.range 8).map fun i => (first + i) % 8).find? ok with
    | some r => got ++ path r
    | none => got) []

/-- The tile at a router. -/
def tileAt (r : Nat) : Nat := r / 64 * 64 + r % 32 / 2 * 4 + r / 32 % 2 * 2 + r % 2

/-- The standing circuit whose entry is a slot of an output: its input there, and its pair of tiles. -/
def standingIn (r port slot w seed : Nat) : Option (Nat × Nat) :=
  if inCluster r port then
    ((standingOf (tileAt r / 4) w seed).find? fun e => e.1 == r && e.2.2.1 == port && e.2.2.2.1 == slot % 8).map fun e =>
      (e.2.1, e.2.2.2.2)
  else none

/-- The occasion of Brome's choice of the standing circuits: cold resets and changes of W (R341). -/
def State.standSeed (s : State) : Nat := s.dev.wheelNo + 2 ^ 20 * s.dev.boots

/-- Whether a standing circuit holds a slot. -/
def State.standing (s : State) (r port slot : Nat) : Bool := (standingIn r port slot s.wheel s.standSeed).isSome

/-- Slots of a plane's wheel. -/
def State.planeWheel (s : State) (plane : Nat) : Nat := if plane = 0 then s.wheel else 256

/-- Whether an entry is free. -/
def State.entryFree (s : State) (plane r port slot : Nat) : Bool :=
  (Tab.find s.dev.slotTab (plane, r, port, slot)).isNone &&
    (plane != 0 || (slot != configSlot r port s.wheel && !s.standing r port slot))

/-- The plane of a circuit kind. -/
def planeOf (k : CktKind) : Nat := if k = .mem then 1 else 0

/-- The entries that an injection slot takes: forward, and the return that R342 fixes. -/
def slotEntries (plane w : Nat) (fwd back : List Hop) (delay s : Nat) : List (Nat × Nat × Nat × Nat) :=
  let h := hopCount fwd
  (fwd.zipIdx.map fun p => (plane, p.1.1, p.1.2.2, (s + p.2) % w)) ++
    (back.zipIdx.map fun p => (plane, p.1.1, p.1.2.2, (s + h + delay + p.2) % w))

/-- The offset between a flit's arrival at the edge and its return there: 193 (R342); for a port, its link's delay
and the guard (R346, DEDUCED, entry 13). -/
def State.returnDelay (s : State) (k : CktKind) (dest : W64) : Nat :=
  match k with
  | .net => bits ((s.dev.ports.toList.getD (bits dest 3 0) ⟨0, 0⟩).cfg) 31 16 + 8
  | _ => 193

/-- Whether a port carries a flit in a slot (R346). -/
def portSlot (s : Nat) : Bool := s % 16 == 0 || s % 16 == 3 || s % 16 == 6 || s % 16 == 9 || s % 16 == 12

/-- Largest power of two that is at most n. -/
def pow2Below (n : Nat) : Nat := 2 ^ n.log2

/-- Brome's choice of n injection slots (R336). -/
def State.chooseSlots (s : State) (k : CktKind) (fwd back : List Hop) (dest : W64) (n : Nat) : Option (List Nat) :=
  let plane := planeOf k
  let w := s.planeWheel plane
  let ok (x : Nat) : Bool :=
    (slotEntries plane w fwd back (s.returnDelay k dest) x).all (fun e => s.entryFree e.1 e.2.1 e.2.2.1 e.2.2.2) &&
      (k != .net || portSlot (x + hopCount fwd))
  let q := pow2Below (w / max 1 n)
  let even (s0 : Nat) : List Nat := (List.range n).map fun i => s0 + i * q
  match (List.range q).find? fun s0 => (even s0).all fun x => decide (x < w) && ok x with
  | some s0 => some (even s0)
  | none =>
    let l := ((List.range w).filter ok).take n
    if l.length = n then some l else none

/-! ### Quotas (R335, R343) -/

/-- Entries that a virtual device's circuits hold on an output of the circuit plane. -/
def State.heldOn (s : State) (vd r port : Nat) : Nat :=
  s.dev.slotTab.countP fun e => e.1.1 == 0 && e.1.2.1 == r && e.1.2.2.1 == port &&
    ((s.circuit e.2).map fun k => k.vd == vd).getD false

/-- Flits per turn of a virtual device's circuits of a kind to a destination; of every virtual device for none. -/
def State.heldTo (s : State) (vd : Option Nat) (k : CktKind) (dest : Nat) : Nat :=
  (s.dev.circuits.map fun c => if (vd.isNone || vd == some c.vd) && c.kind == k &&
    (k != .mem || bits c.dest 2 0 == dest) then c.slots.length else 0).sum

def State.quotaLink (s : State) (vd : Nat) : Nat := bits (s.hyp vd rFABQUOTA) 31 24 * s.wheel / 64
def State.quotaMem (s : State) (vd : Nat) : Nat := 28 * bits (s.hyp vd rFABQUOTA) 23 16
def State.quotaHost (s : State) (vd : Nat) : Nat := bits (s.hyp vd rFABQUOTA) 15 8 * (7 * s.wheel) / 1024

/-- Whether n more slots along routes stay within a virtual device's quota, and a stack's guarantee. -/
def State.withinQuota (s : State) (vd : Nat) (k : CktKind) (dest : W64) (fwd back : List Hop) (n : Nat) : Bool :=
  match k with
  | .mem =>
    let st := bits dest 2 0
    decide (s.heldTo (some vd) .mem st + n ≤ s.quotaMem vd) && decide (s.heldTo none .mem st + n ≤ 1792)
  | _ =>
    ((fwd ++ back).all fun h => decide (s.heldOn vd h.1 h.2.2 + n ≤ s.quotaLink vd)) &&
      (k != .host || decide (s.heldTo (some vd) .host 0 + n ≤ s.quotaHost vd))

/-! ### Granting -/

/-- LAT of a circuit (R331, R342, R346). The figure for the host port is not given: a free value (entry 5). -/
def State.latOf (s : State) (k : CktKind) (dest : W64) (fwd : List Hop) : Nat :=
  let h := hopCount fwd
  match k with
  | .tile => h + 6
  | .mem => 2 * h + 199
  | .net => h + 6 + s.returnDelay .net dest
  | .host => (Config.freeWord h 898).toNat % 2 ^ 16

/-- A number for a new circuit: a free choice among those not in use (entry 5). -/
def State.newHandle (s : State) : Nat :=
  let used := s.dev.circuits.map fun k => k.handle
  let at_ (i : Nat) : Nat := ((Config.freeWord s.freeN 70).toNat + i) % 65535 + 1
  ((List.range 65535).find? fun i => !used.contains (at_ i)).elim 1 at_

/-- The entries of a circuit's slots. -/
def State.circuitEntries (s : State) (k : Circuit) : List (Nat × Nat × Nat × Nat) :=
  let (fwd, back) := routesOf k.kind k.src k.dst k.dest
  k.slots.flatMap fun x => slotEntries (planeOf k.kind) (s.planeWheel (planeOf k.kind)) fwd back k.delay x

/-- A word of a slot table (R330). -/
def tableWord (inp std ckt : Nat) : W64 := BitVec.ofNat 64 (inp * 2 ^ 13 + std * 2 ^ 12 + ckt)

/-- The word of an entry that sends nothing. -/
def idleWord : W64 := tableWord 7 0 0

/-- The words of a circuit's entries. Brome's index of a circuit is not given: a free value (entry 5). -/
def State.circuitWords (s : State) (k : Circuit) : List ((Nat × Nat × Nat × Nat) × W64) :=
  let (fwd, back) := routesOf k.kind k.src k.dst k.dest
  (s.circuitEntries k).map fun e =>
    let inp := match (fwd ++ back).find? fun h => h.1 == e.2.1 && h.2.2 == e.2.2.1 with
      | some h => h.2.1
      | none => 7
    (e, tableWord inp 0 ((Config.freeWord 0 (2 ^ 35 + k.handle)).toNat % 2 ^ 12))

/-- A table write as an away flit carries it (R338). -/
def writeWord (e : Nat × Nat × Nat × Nat) (w : W64) : W64 :=
  BitVec.ofNat 64 (e.2.1 % 32 * 2 ^ 59 + e.2.1 / 32 * 2 ^ 55 + e.2.2.1 * 2 ^ 52 + e.2.2.2 * 2 ^ 42 + e.1 * 2 ^ 41) ||| w

/-- The entry that a table write names. -/
def writtenEntry (w : W64) : Nat × Nat × Nat × Nat :=
  (bits w 41 41, router (bits w 63 59) (bits w 58 55), bits w 54 52, bits w 51 42)

/-- A router's entry takes a word: an idle one is not listed. -/
def setEntry (t : Tab (Nat × Nat × Nat × Nat) W64) (e : Nat × Nat × Nat × Nat) (w : W64) : Tab (Nat × Nat × Nat × Nat) W64 :=
  if w = idleWord then Tab.del t e else Tab.put t e w

/-- Routers take entries at once, with the placement of what they carry (R292, R342; DESIGN CHOICE, entry 129): table writes for
them that are still on their way are void. -/
def State.setTables (s : State) (ws : List ((Nat × Nat × Nat × Nat) × W64)) : State :=
  let void (f : AwayFlit) (w : W64) : Bool := bits f.head 11 9 == 0 && ws.any fun e => e.1 == writtenEntry w
  s.updDev fun d => { d with
    tables := ws.foldl (fun t e => setEntry t e.1 e.2) d.tables
    away := if d.away.isEmpty then [] else d.away.map fun f => { f with words := f.words.filter fun w => !void f w } }

/-- Brome's own record of the entries that a circuit holds. -/
def State.writeEntries (s : State) (k : Circuit) : State :=
  (s.circuitEntries k).foldl (fun s e => s.updDev fun d => { d with slotTab := Tab.put d.slotTab e k.handle }) s

/-- What an entry of the slot tables holds for an injection slot that a resize takes away: no handle, so that it counts
for nothing (R340). -/
def leavingMark (handle slot : Nat) : Nat := 2 ^ 20 * (slot + 1) + handle

/-- The handle of the circuit that an entry belongs to. -/
def entryHandle (v : Nat) : Nat := v % 2 ^ 20

/-- The entries that Brome holds for a circuit, those that a resize takes away among them. -/
def State.heldEntries (s : State) (handle : Nat) : List (Nat × Nat × Nat × Nat) :=
  (s.dev.slotTab.filter fun e => entryHandle e.2 == handle).map Prod.fst

/-- Brome holds no entry for a circuit any more. -/
def State.freeEntries (s : State) (handle : Nat) : State :=
  s.updDev fun d => { d with slotTab := d.slotTab.filter fun e => entryHandle e.2 != handle }

/-- The entries of a circuit become idle. -/
def State.idleEntries (s : State) (handle : Nat) : State :=
  (s.setTables ((s.heldEntries handle).map fun e => (e, idleWord))).freeEntries handle

/-- Reserves slots for a circuit along its route when slots and quota allow (R335, R336). -/
def State.reserveCircuit (s : State) (k : Circuit) : Option State :=
  let (fwd, back) := routesOf k.kind k.src k.dst k.dest
  if !s.withinQuota k.vd k.kind k.dest fwd back k.want then none
  else match s.chooseSlots k.kind fwd back k.dest k.want with
    | none => none
    | some l =>
      let k := { k with
        slots := l
        lat := s.latOf k.kind k.dest fwd
        leaving := []
        delay := s.returnDelay k.kind k.dest }
      let s := s.updDev fun d => { d with circuits := (d.circuits.filter fun c => c.handle != k.handle) ++ [k] }
      some (s.writeEntries k)

/-- Places a circuit: its slots are reserved, and its routers have its entries. -/
def State.placeCircuit (s : State) (k : Circuit) : Option State :=
  (s.reserveCircuit k).map fun t => t.setTables (((t.circuit k.handle).map t.circuitWords).getD [])

/-- Removes a circuit (R340). -/
def State.dropCircuit (s : State) (handle : Nat) : State :=
  (s.idleEntries handle).updDev fun d => { d with circuits := d.circuits.filter fun c => c.handle != handle }

/-! ### `ckt.req`, `ckt.rel`, `ckt.stat` (R223, R224, R334) -/

/-- Virtual tiles of a sheaf. -/
def Sheaf.vtiles (h : Sheaf) : Nat := ceilDiv h.grains 8

/-- Whether the operands of `ckt.req` break its limits (R334). -/
def State.cktBad (s : State) (k : CktKind) (dest slots : W64) : Bool :=
  let w := s.planeWheel (planeOf k)
  let field := match k with
    | .tile => decide (s.sheaf.vtiles ≤ dest.toNat)
    | .mem => decide (8 ≤ dest.toNat)
    | .host => dest != 0
    | .net => dest &&& ~~~(maskBits 31 16 ||| maskBits 3 0) != 0
  field || slots == 0 || decide (w / 2 < slots.toNat)

/-- Circuits that the executing sheaf holds through `ckt.req`: pending, active and releasing ones (R223). -/
def State.circuitsHeld (s : State) : Nat :=
  s.sheaf.circuits.length + s.dev.toBrome.countP fun m => !m.release && m.ctx.any fun c => c.sheaf == s.cur.sheaf

def execCktReq (h : Head) (dest slots : Src) (k : CktKind) (s : State) : Out3 :=
  let d := s.src 1 dest
  let n := s.src 2 slots
  issue h 16 s <|
    if s.rcBusy then s.stall
    else if s.cktBad k d n then s.exact Cause.engineState 2
    else
      let m : TrainMsg := ⟨some s.cur, s.freeN + 1, 0, d, n.toNat, k, s.myVd, s.myTile, false, 0, 0, s.slot, s.cur.grain / 8,
        decide (128 ≤ s.circuitsHeld)⟩
      let s := s.updDev fun x => { x with toBrome := x.toBrome ++ [m] }
      s.startL (.cktReq h dest slots k) h 16 d [n] [] .sent

/-- The circuit of a handle value, when the executing context's sheaf holds it. -/
def State.heldCircuit (s : State) (v : W64) : Option Circuit :=
  if 2 ^ 16 ≤ v.toNat then none
  else match s.circuit v.toNat with
    | some k => if k.sheaf = some s.cur.sheaf ∧ s.sheaf.circuits.contains k.handle then some k else none
    | none => none

/-- `ckt.rel`: the circuit is releasing until its last command has completed (R224, R340). -/
def execCktRel (h : Head) (a : Src) (s : State) : Out3 :=
  let v := s.src 1 a
  issue h 8 s <|
    match s.heldCircuit v with
    | none => s.exact Cause.engineState 1
    | some k =>
      if k.releasing then s.doneN 8
      else
        let m : TrainMsg := ⟨some s.cur, 0, k.handle, 0, 0, k.kind, k.vd, k.src, true, 0, 0, s.slot, s.cur.grain / 8, false⟩
        let s := (s.updCircuit k.handle fun k => { k with releasing := true }).updDev fun x => { x with toBrome := x.toBrome ++ [m] }
        (s.unlogged s.cur).doneN 8

/-- The state word of a circuit (R224). -/
def State.cktWord (s : State) (k : Circuit) : W64 :=
  let st := if k.releasing then 2 else if k.active then 1 else 0
  BitVec.ofNat 64 (2 ^ 63 + st * 2 ^ 61 + k.lat % 2 ^ 16 * 2 ^ 32 + k.slots.length % 2 ^ 16 * 2 ^ 16
    + s.planeWheel (planeOf k.kind) % 2 ^ 16)

def execCktStat (h : Head) (a : Src) (s : State) : Out3 :=
  let v := s.src 1 a
  issue h 8 s (s.doneL h 8 6 (match s.heldCircuit v with
    | none => 0
    | some k => s.cktWord k))

/-! ### Messages to and from Brome (R338 to R340) -/

/-- Whether an engine command names a circuit, also one that Spelt has saved (R224). -/
def State.circuitUsed (s : State) (handle : Nat) : Bool :=
  (s.dev.circuits.any fun k => k.handle == handle && !k.flits.isEmpty) ||
  ((s.tiles.flatMap fun t => t.2.cmds) ++ s.savedCmds).any fun e =>
    (match cpyArgs e.instr, collArgs e.instr with
     | some a, _ => a.kind == .l2c && bits (cap e.caps 1) 47 32 == handle
     | _, some _ => capN e.caps 1 == handle
     | _, _ => false)

/-- Whether a message may board a train. -/
def State.boards (s : State) (m : TrainMsg) : Bool := m.due == 0 && (!m.release || !s.circuitUsed m.handle)

/-- The routers that a column's train passes: north along the column, then west along row 0 (R338). -/
def trainPath (col : Nat) : List Nat :=
  ((List.range 12).map fun i => router col (11 - i)) ++ (List.range col).map fun i => router (col - 1 - i) 0

/-- The first seven messages that a train takes which reaches Brome in a slot: at each router those that were issued before
it passed, in issue order. It leaves a router at distance d d slots before it reaches Brome (R337, R338). -/
def State.boarding (s : State) (col at_ : Nat) : List TrainMsg :=
  ((trainPath col).flatMap fun r => s.dev.toBrome.filter fun m =>
    s.boards m && router (tileX m.tile) (tileY m.tile) == r && decide (m.born + routerDist r ≤ at_)).take 7

/-- Two trains reach Brome in a turn: column 0's, and that of the column of the east whose turn it is (R338). Nothing
happens before the turn. -/
def State.startTrains (s : State) : State :=
  if s.slot < s.dev.trainNext then s
  else
    let w := s.wheel
    let at_ := s.slot / w * w
    let took (s : State) (c : Nat) : State :=
      let l := s.boarding c at_
      s.updDev fun d => { d with
        toBrome := l.foldl (fun b m => b.erase m) d.toBrome ++ l.map fun m => { m with due := max 1 at_ } }
    (took (took s 0) (1 + s.slot / w % 31)).updDev fun d => { d with trainNext := (s.slot / w + 1) * w }

def execConfigTrain (s : State) : Out3 := .next s.startTrains

/-- The message that Brome handles next, one at a time: the first that has reached it (R339). -/
def State.nextMsg (s : State) : Option TrainMsg :=
  if s.slot < s.dev.bromeFree then none
  else (s.dev.toBrome.filter fun m => m.due != 0 && decide (m.due ≤ s.slot)).foldl (fun b m => match b with
    | none => some m
    | some x => if m.due < x.due then some m else some x) none

/-- Whether a router is reached through the SOUTH output of router (0, 0), and not through its EAST output. -/
def viaSouth (r : Nat) : Bool := r % 32 == 0 && r / 32 != 0

/-- The away flits that carry table writes on one of Brome's two outputs, each with the entries it names: a flit names
routers of one column, 14 at most. Column 0 below row 0 is reached through SOUTH, every other router through EAST (R338,
R339). -/
def awayFlits (es : List (Nat × Nat × Nat × Nat)) (south : Bool) : List (List (Nat × Nat × Nat × Nat)) :=
  (List.range 32).flatMap fun c =>
    let l := es.filter fun e => e.2.1 % 32 == c && viaSouth e.2.1 == south
    (List.range (ceilDiv l.length 14)).map fun i => (l.drop (14 * i)).take 14

/-- The header word of an away flit: its target router and its answer count (R338). -/
def awayHead (target answers : Nat) : W64 := BitVec.ofNat 64 (answers * 2 ^ 9 + target)

/-- An answer as an away flit carries it: the handle, and the requester's virtual tile, core and CTXID (R338). -/
def answerWord (handle vt core ctx : Nat) : W64 :=
  BitVec.ofNat 64 (handle % 2 ^ 16 * 2 ^ 48 + vt % 2 ^ 12 * 2 ^ 36 + core % 16 * 2 ^ 32 + ctx % 16 * 2 ^ 28)

/-- The first turn, from one on, in which an output of router (0, 0) carries no other configuration flit of Brome (R338). -/
def State.nextTurn (s : State) (south : Bool) (t : Nat) : Nat :=
  let taken (u : Nat) : Bool := s.dev.away.any fun f => f.south == south && f.turn == u
  ((List.range (s.dev.away.length + 1)).find? fun i => !taken (t + i)).elim t (t + ·)

/-- Brome sends an away flit in the first turn that its output has, from one on: the turn. -/
def State.putAway (s : State) (south : Bool) (first : Nat) (head : W64) (words : List W64) : State × Nat :=
  let t := s.nextTurn south first
  (s.updDev fun d => { d with away := d.away ++ [⟨t, south, head, words⟩] }, t)

/-- Brome sends table writes on its two outputs, from a turn on: the slot by which every one has reached its router (R339). -/
def State.sendWrites (s : State) (first : Nat) (ws : List ((Nat × Nat × Nat × Nat) × W64)) : State × Nat :=
  let word (e : Nat × Nat × Nat × Nat) : W64 := writeWord e ((ws.find? fun x => x.1 == e).elim idleWord Prod.snd)
  let one (acc : State × Nat × Nat) (south : Bool) (es : List (Nat × Nat × Nat × Nat)) : State × Nat × Nat :=
    let last := es.foldl (fun m e => if routerDist m < routerDist e.2.1 then e.2.1 else m) 0
    let (s, t) := acc.1.putAway south acc.2.2 (awayHead last 0) (es.map word)
    (s, max acc.2.1 (t * s.wheel + routerDist last), t + 1)
  let r := [true, false].foldl (fun (r : State × Nat) o =>
    let x := (awayFlits (ws.map Prod.fst) o).foldl (fun acc es => one acc o es) (r.1, r.2, first)
    (x.1, x.2.1)) (s, first * s.wheel)
  r

/-- A router applies the table writes for it as their flit passes, and an answer leaves its flit at the target router (R338). -/
def State.awayStep (s : State) : State :=
  let w := s.wheel
  let there (f : AwayFlit) (x : W64) : Bool :=
    decide (f.turn * w + routerDist (if bits f.head 11 9 = 0 then (writtenEntry x).2.1 else bits f.head 8 0) ≤ s.slot)
  if s.dev.away.all fun f => !f.words.any (there f) && !(f.words.isEmpty && decide ((f.turn + 1) * w ≤ s.slot)) then s
  else s.updDev fun d => { d with
    tables := d.away.foldl (fun t f => if bits f.head 11 9 = 0 then
      (f.words.filter (there f)).foldl (fun t x => setEntry t (writtenEntry x) (x &&& maskBits 15 0)) t else t) d.tables
    away := (d.away.map fun f => { f with words := f.words.filter fun x => !there f x }).filter fun f =>
      !(f.words.isEmpty && decide ((f.turn + 1) * w ≤ s.slot)) }

/-- The turn in which Brome injects the first away flit for a message: the next one while others wait for it; else it may take up
to two turns more, a free choice. That is within the 16 turns of R339 from the message's arrival (entry 68). -/
def State.firstTurn (s : State) (m : TrainMsg) : Nat :=
  let now := s.slot / s.wheel + 1
  let busy := s.dev.toBrome.any fun x => x.due != 0 && decide (x.due ≤ s.slot) && x != m
  if busy then now else min (now + (Config.freeWord s.freeN 72).toNat % 3) (max now (m.due / s.wheel + 16))

/-- Brome answers a message, in the first turn that it can from one on: the answer flit reaches the requester's router. A gang
circuit is asked for, and answered, in Brome's own die. -/
def State.bromeAnswers (s : State) (m : TrainMsg) (from_ first : Nat) (a : Nat) : State :=
  let r := router (tileX m.tile) (tileY m.tile)
  let core := ((m.ctx.map fun c => c.grain).getD 0) % 8
  let (s, at_) := if m.ctx.isNone then (s, from_ * s.wheel)
    else
      let (t, turn) := s.putAway (viaSouth r) from_ (awayHead r 1) [answerWord a m.vt core ((m.ctx.map fun c => c.ctx).getD 0)]
      (t, turn * s.wheel + routerDist r)
  (s.updDev fun x => { x with
    bromeFree := first * s.wheel
    fromBrome := x.fromBrome ++ [{ m with due := at_, answer := BitVec.ofNat 64 a }] }).fresh

/-- The sheaf of a request. -/
def TrainMsg.sheaf (m : TrainMsg) : Option Nat := m.ctx.map fun c => c.sheaf

/-- Brome handles a request: it is refused where the sheaf held 128 circuits when it asked (R223), without slots or above the
quota (R335), and while the virtual device is not READY (R363). A sheaf that has been saved since gets an entry of its circuit
table without slots, which its next placement finds (R292; DESIGN CHOICE, entry 127). -/
def State.grant (s : State) : State :=
  match s.nextMsg with
  | none => s
  | some m =>
    if m.release then s
    else
      let s := s.updDev fun d => { d with toBrome := d.toBrome.erase m }
      let n := m.sheaf.getD 0
      let sh := s.sheafOf n
      let hd := s.newHandle
      let first := s.firstTurn m
      let away := m.sheaf.isSome && sh.cores.isEmpty
      let src := if m.sheaf.isNone then m.tile else if away then m.vt else sh.tile m.vt
      let dst := if m.kind = .tile ∧ away = false then sh.tile (bits m.dest 11 0) else 0
      let k : Circuit := ⟨hd, m.vd, m.kind, src, dst, m.dest, [], m.slots, 0, false, false, m.sheaf, [], [], [], 0⟩
      let own (s : State) : State := match m.sheaf with
        | some n => s.updSheaf n fun h => { h with circuits := h.circuits ++ [hd] }
        | none => s
      if m.full ∨ bit (s.hyp m.vd rVDCTL) 61 = false then s.bromeAnswers m first first 0
      else if away then (own (s.updDev fun d => { d with circuits := d.circuits ++ [k] })).bromeAnswers m first first hd
      else match s.reserveCircuit k with
        | none => s.bromeAnswers m first first 0
        | some s =>
          let (s, at_) := s.sendWrites first (((s.circuit hd).map s.circuitWords).getD [])
          (own s).bromeAnswers m (ceilDiv at_ s.wheel) first hd

def execBromeRequest (s : State) : Out3 := .next s.grant

/-- Brome handles a release: it sends idle words for the entries, and the handle is invalid (R338, R340). A circuit that has ended
with its sheaf meanwhile is released already. -/
def State.unGrant (s : State) : State :=
  match s.nextMsg with
  | none => s
  | some m =>
    if !m.release then s
    else
      let s := s.updDev fun d => { d with toBrome := d.toBrome.erase m }
      match (s.circuit m.handle).filter fun k => k.releasing && k.sheaf == m.sheaf with
      | none => s
      | some k =>
        let idle := (s.heldEntries k.handle).map fun e => (e, idleWord)
        let s := (s.sendWrites (s.slot / s.wheel + 1) idle).1.freeEntries k.handle
        let s := s.updDev fun d => { d with circuits := d.circuits.filter fun c => c.handle != k.handle }
        match k.sheaf with
        | some n => s.updSheaf n fun h => { h with circuits := h.circuits.erase k.handle }
        | none => s

def execBromeRelease (s : State) : Out3 := .next s.unGrant

/-- The first answer that has arrived and whose requester can take it; Brome keeps the others (R334). -/
def State.nextAnswer (s : State) : Option TrainMsg :=
  s.dev.fromBrome.find? fun m => decide (m.due ≤ s.slot) && match m.ctx with
    | none => true
    | some c => match s.ctx c with
      | none => !((s.sheafOf c.sheaf).saved.any fun v => v.ctxs.any fun e => e.1 == c)
      | some x => x.out.any fun o => o.tag == m.tag

/-- An answer reaches its requester: the circuit is active from then on, a `net` circuit when its peer has it too
(R339, R346). That of a gang circuit shows in GKSTAT (R347). -/
def State.answer (s : State) : State :=
  match s.nextAnswer with
  | none => s
  | some m =>
    let s := s.updDev fun d => { d with fromBrome := d.fromBrome.erase m }
    let s := s.updCircuit m.answer.toNat fun k => { k with active := m.kind != .net }
    match m.ctx with
    | none => s.setCtl m.vd rGKSTAT (if m.answer = 0 then 0 else 2 ^ 63 ||| m.answer)
    | some c => if (s.ctx c).isSome then (s.finish c m.tag m.answer).unlogged c else s

def execBromeAnswer (s : State) : Out3 := .next s.answer

/-- Whether a circuit counts toward a quota that its virtual device exceeds. -/
def State.overQuota (s : State) (k : Circuit) : Bool :=
  let (fwd, back) := routesOf k.kind k.src k.dst k.dest
  !k.slots.isEmpty && k.sheaf.isSome && match k.kind with
    | .mem => decide (s.quotaMem k.vd < s.heldTo (some k.vd) .mem (bits k.dest 2 0))
    | _ => ((fwd ++ back).any fun h => decide (s.quotaLink k.vd < s.heldOn k.vd h.1 h.2.2)) ||
      (k.kind == .host && decide (s.quotaHost k.vd < s.heldTo (some k.vd) .host 0))

/-- Brome takes an injection slot of a circuit away: an answer word with the handle and a zero core field tells the source, in the
next turn that its output has, and the entries go idle LAT slots after that (R340). The circuit's request stays as it was, for its
next placement. -/
def State.dropSlot (s : State) (k : Circuit) (x : Nat) : State :=
  let r := router (tileX k.src) (tileY k.src)
  let (s, turn) := s.putAway (viaSouth r) (s.slot / s.wheel + 1) (awayHead r 1) [answerWord k.handle 0 0 0]
  let told := turn * s.wheel + routerDist r
  let mine := s.circuitEntries { k with slots := [x] }
  (s.updCircuit k.handle fun k => { k with slots := k.slots.erase x, leaving := k.leaving ++ [(x, told)] }).updDev fun d =>
    { d with slotTab := d.slotTab.map fun e =>
        if e.2 = k.handle ∧ mine.contains e.1 then (e.1, leavingMark k.handle x) else e }

/-- Brome sends idle words for the entries of the slots that were taken away, once LAT slots have passed since the source was
told. -/
def State.idleLeft (s : State) (vd : Nat) : State :=
  let gone (k : Circuit) (l : Nat × Nat) : Bool := decide (l.2 + k.lat ≤ s.slot)
  s.dev.circuits.foldl (fun s k => if k.vd ≠ vd then s else
    (k.leaving.filter (gone k)).foldl (fun s l =>
      let idle := (s.dev.slotTab.filter fun e => e.2 == leavingMark k.handle l.1).map fun e => (e.1, idleWord)
      ((s.sendWrites (s.slot / s.wheel + 1) idle).1.updCircuit k.handle fun k => { k with leaving := k.leaving.erase l }).updDev fun d =>
        { d with slotTab := d.slotTab.filter fun e => e.2 != leavingMark k.handle l.1 }) s) s

/-- Brome removes the highest slot of the circuit with the highest handle, while a quota is exceeded (R340). -/
def State.shrink (s : State) (vd : Nat) : State :=
  let s := s.idleLeft vd
  let cs := s.dev.circuits.filter fun k => k.vd == vd && s.overQuota k
  match cs.foldl (fun b k => match b with
      | none => some k
      | some x => if x.handle < k.handle then some k else some x) (none : Option Circuit) with
  | none => s
  | some k => s.dropSlot k (k.slots.foldl max 0)

def execCircuitResize (vd : Nat) (s : State) : Out3 := .next (s.shrink vd)

/-! ### Registers of the fabric (R329, R335) -/

/-- A write of FABCFG: W changes only while no circuit of the circuit plane exists. -/
def State.writeFabcfg (s : State) (v : W64) : State :=
  let old := s.mg rFABCFG
  let kept := if bit v 63 then old &&& ~~~(maskBits 63 63) else old
  let w := bits v 3 0
  if w = bits old 3 0 ∨ w < 3 ∨ 10 < w then s.setMg rFABCFG kept
  else if s.dev.circuits.any fun k => k.kind != .mem then s.setMg rFABCFG (kept ||| maskBits 63 63)
  else (s.setMg rFABCFG (putBits kept 3 0 w)).updDev fun d => { d with
    trainNext := 0
    wheelNo := d.wheelNo + 1
    tables := d.tables.filter fun e => e.1.1 != 0
    away := [] }

def execFabcfgWrite (v : W64) (s : State) : Out3 := .next (s.writeFabcfg v)

def execFabquotaWrite (vd : Nat) (v : W64) (s : State) : Out3 := .next (s.setHyp vd rFABQUOTA (v &&& maskBits 31 8))

/-! ### Ports and time (R345 to R348) -/

def Port.en (p : Port) : Bool := bit p.cfg 63
def Port.slotMode (p : Port) : Bool := bit p.cfg 62
def Port.aligned (p : Port) : Bool := bit p.cfg 61

def State.updPort (s : State) (p : Fin 16) (f : Port → Port) : State :=
  s.updDev fun d => { d with ports := d.ports.set p (f d.ports[p]) }

/-- Whether a circuit ends at a scale-out port. -/
def Circuit.atPort (k : Circuit) (p : Fin 16) : Bool := k.kind == .net && bits k.dest 3 0 == p.val

/-- A port that carries slots no more: its circuits are pending again, and Brome takes their slots away (R340, R346; DESIGN
CHOICE, entry 102). -/
def State.portGone (s : State) (p : Fin 16) : State :=
  s.dev.circuits.foldl (fun s k => if k.atPort p then
    k.slots.foldl (fun s x => match s.circuit k.handle with
      | some k => s.dropSlot k x
      | none => s) (s.updCircuit k.handle fun k => { k with active := false }) else s) s

/-- The receiver discards every flit of a port's circuits: MEMORY_ERROR, PLACE 6, for their commands (R332, R347). -/
def State.dropPortFlits (s : State) (p : Fin 16) : State :=
  s.dev.circuits.foldl (fun s k => if k.atPort p then
    let s := k.flits.foldl (fun s f => match s.flitCmd f with
      | some (ch, _) => ((s.flitGone k f).countError 6 (errAddr k.dst f.at_)).flitFault f ch
          (Cause.memoryError, syndrome 6 false false 0, BitVec.ofNat 64 f.at_)
      | none => s.flitGone k f) s
    k.inbound.foldl (fun s f => s.netBad k f) (s.updCircuit k.handle fun k => { k with inbound := [] }) else s) s

/-- A write of a port's register. -/
def State.writePort (s : State) (p : Fin 16) (v : W64) : State :=
  let old := s.dev.ports[p]
  if bit v 62 != old.slotMode && (old.en || (bit v 62 && decide (s.wheel < 16))) then s
  else
    let m := maskBits 63 62
    let keep := if bit v 63 && bit v 62 then old.cfg else old.cfg &&& ~~~(maskBits 61 61)
    let s := if old.en && old.slotMode && !(bit v 63 && bit v 62) then s.portGone p else s
    s.updPort p fun x => { x with cfg := (keep &&& ~~~m) ||| (v &&& m) }

def execPortCfgWrite (p : Fin 16) (v : W64) (s : State) : Out3 := .next (s.writePort p v)

/-- The slot counter stepped to agree with the domain's time. -/
def stepSlot (slot : Nat) (offset : Int) : Nat := ((slot : Int) + offset).toNat

/-- The slot counter steps once to agree with the domain's time (R347). No slot has passed with that: the times that the device
counts from earlier slots step with it. -/
def State.stepSlots (s : State) (offset : Int) : State :=
  let to_ (x : Nat) : Nat := stepSlot x offset
  { s with
    slot := to_ s.slot
    quads := s.quads.map fun q => (q.1, { q.2 with phaseEnd := to_ q.2.phaseEnd, guardSince := to_ q.2.guardSince })
    dev := { s.dev with
      ptpAligned := true
      powerSlots := s.dev.powerSlots + s.slot - to_ s.slot
      lastTherm := to_ s.dev.lastTherm
      lastCap := to_ s.dev.lastCap
      lastAvg := to_ s.dev.lastAvg
      lastAge := to_ s.dev.lastAge } }

/-- An event message of a port in slot mode: it aligns the package, or tracks the offset; beyond 8 slots alignment is lost,
and the flits of the port's circuits with it (R347). -/
def State.ptp (s : State) (p : Fin 16) (offset : Int) (delay : W16) : State :=
  let x := s.dev.ports[p]
  if !x.en || !x.slotMode then s
  else
    let s := s.updPort p fun x => { x with cfg := putBits x.cfg 31 16 delay.toNat }
    let setAl (s : State) (b : Bool) : State :=
      s.updPort p fun x => { x with cfg := putBits x.cfg 61 61 (if b then 1 else 0) }
    if !s.dev.ptpAligned then
      setAl (s.stepSlots offset) true
    else if offset.natAbs ≤ 8 then setAl s true
    else (setAl s false).dropPortFlits p

def execPtpMessage (p : Fin 16) (offset : Int) (delay : W16) (s : State) : Out3 := .next (s.ptp p offset delay)

/-- The peer package's end holds the same link tag with the same slot count: an inter-package circuit whose request has been
answered becomes active, if its port is aligned (R346; entry 102). -/
def State.netActive (s : State) (handle : Nat) : State :=
  match s.circuit handle with
  | none => s
  | some k =>
    let p := s.dev.ports.toList.getD (bits k.dest 3 0) ⟨0, 0⟩
    if k.kind = .net ∧ k.releasing = false ∧ p.en = true ∧ p.slotMode = true ∧ p.aligned = true ∧
        k.slots ≠ [] ∧ (s.dev.fromBrome.all fun m => m.answer.toNat != handle) then
      s.updCircuit handle fun k => { k with active := true }
    else s

def execNetCircuitActive (handle : Nat) (s : State) : Out3 := .next (s.netActive handle)

/-- A write of GKREQ asks Brome for the gang circuit of the virtual device, of one slot per turn: GKSTAT shows it once it is
granted (R347). It is refused while the virtual device is not READY (R363). -/
def State.gkreq (s : State) (vd : Nat) (v : W64) : State :=
  if !bit v 63 || !bit (s.hyp vd rVDCTL) 61 then s
  else
    let m : TrainMsg :=
      ⟨none, 0, 0, v &&& (maskBits 31 16 ||| maskBits 3 0), 1, .net, vd, gangAgent, false, max 1 s.slot, 0, s.slot, 0, false⟩
    s.updDev fun d => { d with toBrome := d.toBrome ++ [m] }

def execGkreqWrite (vd : Nat) (v : W64) (s : State) : Out3 := .next (s.gkreq vd v)

/-- EtherType and payload of a frame, from its destination address on: at most 9,216 bytes, with at most one customer VLAN
tag (R348; the layout of the standard, entry 103). -/
def frameBody (f : List Byte) : Option (Nat × List Byte) :=
  let ty (o : Nat) : Nat := (f.getD o 0).toNat * 256 + (f.getD (o + 1) 0).toNat
  let tag (o : Nat) : Bool := ty o == 0x8100 || ty o == 0x88A8
  if f.length < 14 ∨ 9216 < f.length ∨ (tag 12 ∧ tag 16) then none
  else if tag 12 then some (ty 16, f.drop 18)
  else some (ty 12, f.drop 14)

/-- A bulk frame moves to the host, unchanged, over the share of the virtual device that owns the port's queue pair
(R348). -/
def State.bulkFrame (s : State) (p : Fin 16) (vd host : Nat) (payload : List Byte) : State :=
  let x := s.dev.ports[p]
  if !x.en || x.slotMode || (frameBody payload).isNone then s
  else
    let s := { s with host := Mem.write s.host host payload }
    (s.updPort p fun x => { x with frames := x.frames + 1 }).tell 6 (BitVec.ofNat 64 (vd * 2 ^ 32 + payload.length))

/-- A bulk frame leaves through a port: it is counted, and goes out (R348). -/
def State.frameOut (s : State) (port vd host len : Nat) : State :=
  match fin? 16 port with
  | none => s
  | some p =>
    let x := s.dev.ports[p]
    if !x.en || x.slotMode || (frameBody (Mem.read s.host host len)).isNone then s
    else (s.updPort p fun x => { x with frames := x.frames + 1 }).tell 11 (BitVec.ofNat 64 (port * 2 ^ 56 + vd * 2 ^ 32 + len))

def execEthBulkFrame (p : Fin 16) (vd host : Nat) (payload : List Byte) (s : State) : Out3 :=
  .next (s.bulkFrame p vd host payload)

/-! ### `locq` (R225) -/

/-- The dense number of a socket by the fields of a die map from a bit on. -/
def denseOf (map : W64) (base n socket : Nat) : Nat :=
  ((List.range n).find? fun i => bits map (base + 4 * i + 3) (base + 4 * i) == socket).getD 0xF

def State.locqValue (s : State) (a : W64) (sel : Nat) : W64 :=
  let h := s.sheaf
  if h.det then 0
  else match sel with
    | 2 =>
      match s.homeOf (some s.myCore) s.myVd a with
      | some dpa => BitVec.ofNat 64 (denseOf h.dieMap 48 4 (8 + stackOf dpa / 2))
      | none => Config.freeWord s.freeN 71
    | _ =>
      if h.grains ≤ a.toNat then 0xFFFF_FFFF_FFFF_FFFF
      else
        let t := h.tile (a.toNat / 8)
        if sel = 0 then BitVec.ofNat 64 (denseOf h.dieMap 0 8 (dieOf t))
        else
          let d (x y : Nat) : Nat := (x - y) + (y - x)
          BitVec.ofNat 64 (d (tileX t) (tileX s.myTile) + d (tileY t) (tileY s.myTile))

def execLocq (h : Head) (a : Src) (sel : Fin 3) (s : State) : Out3 :=
  let v := s.src 1 a
  issue h 8 s (s.doneL h 8 8 (s.locqValue v sel.val))

/-! ### Device registers (R230) -/

/-- An entry of a slot table (R330): what table writes have put there (R339). Brome's index of a standing circuit, by its pair of
tiles, is not given: a free value (entry 5). -/
def State.slotEntry (s : State) (plane r port slot : Nat) : W64 :=
  if plane = 0 ∧ slot = configSlot r port s.wheel then tableWord 6 1 0
  else match if plane = 0 then standingIn r port slot s.wheel s.standSeed else none with
  | some (inp, pair) => tableWord inp 1 ((Config.freeWord s.standSeed (2 ^ 34 + pair)).toNat % 2 ^ 12)
  | none => (Tab.find s.dev.tables (plane, r, port, slot)).getD idleWord

/-- A device register named by u and n, or the DETAIL of SYSREG_NUMBER. -/
inductive DevReg where
  | bank (core k : Nat)
  | entry (plane router port slot : Nat)
  | bad (detail : Nat)
  deriving DecidableEq, Repr

def State.devReg (s : State) (u : W64) (n : Nat) : DevReg :=
  let v := bits u 11 0
  if bits u 63 15 ≠ 0 ∨ s.sheaf.vtiles ≤ v then .bad 2
  else
    let t := s.sheaf.tile v
    let r := router (tileX t) (tileY t)
    let sel := bits u 14 12
    if 0x0100 ≤ n ∧ n < 0x0108 then .bank (s.physCore (s.cur.sheaf, v) (4 * bits u 12 12 + bits u 14 13)) (n - 0x0100)
    else if 0x4000 ≤ n ∧ n < 0x4000 + 5 * 0x400 ∧ (n - 0x4000) % 0x400 < s.wheel then
      if sel ≠ 0 then .bad 2 else .entry 0 r ((n - 0x4000) / 0x400) ((n - 0x4000) % 0x400)
    else if 0x6000 ≤ n ∧ n < 0x6000 + 5 * 0x100 then
      if sel ≠ 0 then .bad 2 else .entry 1 r ((n - 0x6000) / 0x100) ((n - 0x6000) % 0x100)
    else .bad 1

def execSrsRd (h : Head) (u : Src) (n : BitVec 16) (s : State) : Out3 :=
  let v := s.src 1 u
  issue h 8 s <|
    if !s.sheaf.sys then s.exact Cause.privilege 1
    else
      let go (x : W64) : State :=
        (s.updMe fun c => ((c.tally s.cycle).reserve h (s.freeN + 1) none (some x) 0).next 8).fresh
      match s.devReg v n.toNat with
      | .bad d => s.exact Cause.sysregNumber d
      | .bank core k => go ((s.coreOf core).bankpwr.toList.getD k 0)
      | .entry p r port x => go (s.slotEntry p r port x)

def execSrsWr (h : Head) (u b : Src) (n : BitVec 16) (s : State) : Out3 :=
  let v := s.src 1 u
  let w := s.src 2 b
  issue h 8 s <|
    if !s.sheaf.sys then s.exact Cause.privilege 1
    else match s.devReg v n.toNat with
      | .bad d => s.exact Cause.sysregNumber d
      | .bank core k => (s.bankpwrWrite core k w).doneN 8
      | .entry .. => s.doneN 8

/-- The unit answers an `srs.rd`: the k-th pending result of the context is written. It does nothing where that
result is of another kind. -/
def State.srsAnswer (s : State) (c : CtxId) (k : Nat) : State :=
  match s.ctx c with
  | none => s
  | some x =>
    match x.pend[k]? with
    | none => s
    | some p =>
      if p.tag ≠ 0 ∧ p.due.isNone ∧ p.val.isSome then
        (s.updCtx c fun x => x.writeResult s.freeN p (p.value s.freeN)).fresh
      else s

def execSrsRdAnswer (c : CtxId) (k : Nat) (s : State) : Out3 := .next (s.srsAnswer c k)

end Sys2Proof.Machine
end

