-- ==== Sys2Proof/Machine/Fp.lean ====
section
/-! DEFINITION. Scalar FP32 instructions, OPM 0x10 and 0x11 (04 R105 to R107). -/

namespace Sys2Proof.Machine

/-- A result pattern as a 64-bit value with bits [63:32] zero (R16). -/
def fres (r : Nat × Flags) : W64 × Flags := (BitVec.ofNat 64 r.1, r.2)

/-- A two-source FP32 instruction of class L. -/
def fp2 (lat : Nat) (h : Head) (a : Src) (b : FOp) (s : State) (f : Nat → Nat → W64 × Flags) : Out3 :=
  let r := f (s.fsrc 1 a) (s.fop 2 b)
  issue h (fopLen b) s (s.doneL h (fopLen b) lat r.1 r.2)

/-- A one-source FP32 instruction of class L. -/
def fp1 (lat : Nat) (h : Head) (a : Src) (s : State) (f : Nat → W64 × Flags) : Out3 :=
  let r := f (s.fsrc 1 a)
  issue h 8 s (s.doneL h 8 lat r.1 r.2)

/-- A comparison result (R82, R106). -/
def fcmpV (k : Nat) (x y : Nat) : W64 × Flags :=
  let r := fp32.cmp k x y
  (boolW r.1, r.2)

def execFadd (h : Head) (a : Src) (b : FOp) (s : State) : Out3 := fp2 4 h a b s fun x y => fres (fp32.add x y)
def execFsub (h : Head) (a : Src) (b : FOp) (s : State) : Out3 := fp2 4 h a b s fun x y => fres (fp32.sub x y)
def execFmul (h : Head) (a : Src) (b : FOp) (s : State) : Out3 := fp2 4 h a b s fun x y => fres (fp32.mul x y)
def execFfma (h : Head) (a b : Src) (c : FOp) (s : State) : Out3 :=
  let r := fres (fp32.fma (s.fsrc 1 a) (s.fsrc 2 b) (s.fop 3 c))
  issue h (fopLen c) s (s.doneL h (fopLen c) 4 r.1 r.2)
def execFmin (h : Head) (a : Src) (b : FOp) (s : State) : Out3 := fp2 4 h a b s fun x y => fres (fp32.minmax false x y)
def execFmax (h : Head) (a : Src) (b : FOp) (s : State) : Out3 := fp2 4 h a b s fun x y => fres (fp32.minmax true x y)
def execFabs (h : Head) (a : Src) (s : State) : Out3 := fp1 4 h a s fun x => fres (x % 2 ^ 31, 0)
def execFneg (h : Head) (a : Src) (s : State) : Out3 := fp1 4 h a s fun x => fres ((x + 2 ^ 31) % 2 ^ 32, 0)
def execFrcp (h : Head) (a : Src) (s : State) : Out3 := fp1 12 h a s fun x => fres (fp32.rcp x)
def execFrsq (h : Head) (a : Src) (s : State) : Out3 := fp1 12 h a s fun x => fres (fp32.rsq x)

def execFceq (h : Head) (a : Src) (b : FOp) (s : State) : Out3 := fp2 4 h a b s (fcmpV 0)
def execFclt (h : Head) (a : Src) (b : FOp) (s : State) : Out3 := fp2 4 h a b s (fcmpV 1)
def execFcle (h : Head) (a : Src) (b : FOp) (s : State) : Out3 := fp2 4 h a b s (fcmpV 2)
def execFclass (h : Head) (a : Src) (s : State) : Out3 := fp1 4 h a s fun x => fres (fclass32 x, 0)

/-- LFSR0 steps once under SR on every execution that is guarded on (R83, R107). -/
def execFcvt (h : Head) (a : Src) (k : CvtKind) (rm : Rm) (s : State) : Out3 :=
  let rnd := lfsrStep s.me.lfsr[0]
  let r := fcvtOp k (rmMode rm rnd) (s.src 1 a)
  let s' := if rm = .sr then s.updMe fun c => { c with lfsr := c.lfsr.set 0 rnd } else s
  issue h 8 s (s'.doneL h 8 4 r.1 r.2)

end Sys2Proof.Machine
end

