-- ==== Sys2Proof/Machine/Records.lean ====
section
/-! DEFINITION. Launch records and their checks (10 R259, R262), acceptance (R266, R267, R274), launch queues (R263 to
R265), `launch`, `arm` and `disarm` (08 R221, R222), and launch messages (10 R266, 13 R348). -/

namespace Sys2Proof.Machine

/-! ### The checks of a record (R262) -/

/-- A sheaf that holds nothing but a record. -/
def ofRecord (bs : List Byte) : Sheaf := { Sheaf.zero with record := Mem.write [] 0 bs }

def Sheaf.entry (h : Sheaf) : W64 := h.word 0x00
def Sheaf.constVa (h : Sheaf) : W64 := h.word 0x08
def Sheaf.sigVa (h : Sheaf) : W64 := h.word 0x10
def Sheaf.stamp (h : Sheaf) : W64 := h.word 0x38
def Sheaf.recSys (h : Sheaf) : Bool := bit h.shape 20
def Sheaf.gidx (h : Sheaf) : Nat := bits (h.word 0x28) 3 0
def Sheaf.gang (h : Sheaf) : Bool := bit (h.word 0x28) 4
def Sheaf.lead (h : Sheaf) : Bool := bit (h.word 0x28) 5
def Sheaf.args (h : Sheaf) : List W64 := (List.range 8).map fun i => h.word (0x40 + 8 * i)

/-- An address of a record: canonical and aligned. -/
def addrOk (a : W64) (align : Nat) : Bool := canonical a && a.toNat % align == 0

/-- Whether the domain sizes obey R259. -/
def Sheaf.domsOk (h : Sheaf) : Bool :=
  [1, 2, 3].all fun k => !h.levValid k || (h.levSize k != 0 && h.grains % h.levSize k == 0 &&
    [1, 2, 3].all fun j => !(decide (j < k) && h.levValid j) || h.levSize k % h.levSize j == 0)

/-- Whether every field lies in its range and every reserved bit is zero. -/
def Sheaf.fieldsOk (h : Sheaf) : Bool :=
  addrOk h.entry 4 && addrOk h.constVa 64 && addrOk h.sigVa 8 && addrOk h.waitVa 8 &&
  decide (1 ≤ h.grains) && decide (h.grains ≤ 3072) && decide (h.helpers ≤ 10) && decide (h.recPrio ≤ 11) &&
  decide (h.rwl ≤ 64) && decide (h.spadk ≤ 512) &&
  h.shape &&& (maskBits 47 42 ||| maskBits 31 29) == 0 &&
  h.word 0x20 &&& (maskBits 63 44 ||| maskBits 31 28 ||| maskBits 15 12) == 0 &&
  h.word 0x28 &&& maskBits 63 6 == 0 && h.domsOk

/-- The partition of a virtual device (R359). -/
def State.vdPart (s : State) (vd : Nat) : Part :=
  s.dev.parts.toList.getD (bits (s.hyp vd rVDSCHED) 50 48) Part.zero

/-- Whether a die map names a C-die (R344). -/
def dieNamed (map : W64) (die : Nat) : Bool := (List.range 8).any fun i => bits map (4 * i + 3) (4 * i) == die

/-- The clusters on which a virtual device may place sheaves (R262, R344, R359). -/
def State.usable (s : State) (vd : Nat) : List Nat :=
  let p := s.vdPart vd
  if p.en then (List.range 96).filter fun c => p.has c && dieNamed (s.hyp vd rDIEMAP) (dieOf (4 * c)) else []

/-- Virtual clusters of a sheaf (R257). -/
def Sheaf.vclusters (h : Sheaf) : Nat := ceilDiv h.grains 32

/-- Barrier slots of the device (R260). -/
def barrierSlots : Nat := 16384

/-- Whether a sheaf can never be placed: the DETAIL of RECORD_ERROR. Deterministic sheaves may put several grains on
one core (R276). -/
def State.neverFits (s : State) (vd : Nat) (det : Bool) (h : Sheaf) : Option Nat :=
  let n := (s.usable vd).length
  if n = 0 ∨ (det = false ∧ n < h.vclusters) then some 4
  else if barrierSlots < h.domCount then some 3
  else none

/-- The refusal of a record (R262): field errors before the placement test. `fromLaunch` is a record of `launch`,
`sysOk` whether SYS may be set, `det` the mode that the sheaf would have. -/
def State.recordBad (s : State) (vd : Nat) (h : Sheaf) (fromLaunch sysOk det : Bool) : Option Nat :=
  if !h.fieldsOk || (h.recSys && !sysOk) ||
      (h.gang && (fromLaunch || !bit (s.ctl vd (rGANG h.gidx)) 63)) then some 1
  else s.neverFits vd det h

/-! ### Acceptance (R266, R267, R274) -/

/-- Whether a virtual device runs launch queues (R326, R363). -/
def State.vdUp (s : State) (vd : Nat) : Bool := bit (s.hyp vd rVDCTL) 63 && bit (s.hyp vd rVDCTL) 61

/-- Entries of the pending list of a priority (R265, R267). -/
def State.pendingCount (s : State) (vd p : Nat) : Nat :=
  s.sheaves.countP fun e => e.2.vd == vd && e.2.prio == p && (e.2.st == .waitsig || e.2.st == .pending)

def execWaitvaPoll (sheaf : Nat) (s : State) : Out3 := .next (s.pollWait sheaf)

/-- A sheaf's priority for admission and pre-emption: the highest PRIO among its grains, also of one that is stopped
(R231); before its placement, the priority with which it was accepted. -/
def State.sheafPrio (s : State) (n : Nat) : Nat :=
  let h := s.sheafOf n
  let here : List Nat := (s.grains.filter fun e => e.1.1 == n).map fun e => e.2.prio
  let away : List Nat := match h.st, h.saved with
    | .stopped, some d => d.grains.map fun e => e.2.prio
    | _, _ => []
  match here ++ away with
  | [] => h.prio
  | l => l.foldl max 0

/-- Accepts a checked record: the sheaf gets its SHEAFID and its modes, and waits (R267, R274). -/
def State.accept (s : State) (vd : Nat) (h : Sheaf) (parent : Option CtxId) (callNo : Nat) (errData : W64) : State :=
  let m := s.ctl vd rVDMODE
  let v := s.vdOf vd
  let top := match parent with
    | some c => s.sheafOf c.sheaf
    | none => { Sheaf.zero with debug := bit m 63, det := bit m 62, quantum := bits m 31 0 }
  let n := s.dev.nextSheaf
  let h := { h with
    vd := vd
    sheafid := v.nextSheafid
    st := if h.waitVa = 0 then .pending else .waitsig
    debug := top.debug
    det := top.det
    quantum := top.quantum
    prio := min h.recPrio ((parent.map fun c => s.sheafPrio c.sheaf).getD 11)
    sys := h.recSys
    accepted := s.slot
    parent := parent
    callNo := callNo
    errData := errData }
  let s := { s with sheaves := s.sheaves ++ [(n, h)] }
  let s := s.updDev fun d => { d with nextSheaf := n + 1 }
  (s.updVd vd fun v => { v with nextSheafid := (v.nextSheafid + 1) % 2 ^ 48 }).pollWait n

/-- A waiting sheaf that can never be placed is retired, without a signal decrement (R262, R267). -/
def State.retest (s : State) (n : Nat) : State :=
  let h := s.sheafOf n
  if h.st ≠ .waitsig ∧ h.st ≠ .pending then s
  else match s.neverFits h.vd h.det h with
    | none => s
    | some _ => (s.updSheaf n fun h => { h with st := .retired, clusters := [] }).postSheaf n 5 4 h.errData

/-- The placement test of every waiting sheaf of a virtual device. -/
def State.retestVd (s : State) (vd : Nat) : State :=
  s.sheaves.foldl (fun s e => if e.2.vd = vd then s.retest e.1 else s) s

def execPlacementRetest (vd : Nat) (s : State) : Out3 := .next (s.retestVd vd)

/-! ### Launch queues (R264, R265) -/

/-- A write of LQCTLp. -/
def State.lqEnable (s : State) (vd : Nat) (p : Fin 12) (v : W64) : State :=
  let old := s.ctl vd (rLQCTL p)
  let rw := maskBits 63 63 ||| maskBits 3 0
  let new := (old &&& ~~~rw) ||| (v &&& rw)
  let idle (s : State) : State :=
    s.updVd vd fun d => { d with tries := d.tries.set p 0, reread := d.reread.set p none }
  if bit v 63 && !bit old 63 then
    let s := (s.setCtl vd (rLQCTL p) (new &&& ~~~(maskBits 62 62))).setCtl vd (rLQSTAT p) 1
    (idle s).updVd vd fun d => { d with notify := d.notify.set p 0 }
  else
    let s := s.setCtl vd (rLQCTL p) new
    if bit v 63 then s else idle s

def execLqEnable (vd : Nat) (p : Fin 12) (v : W64) (s : State) : Out3 := .next (s.lqEnable vd p v)

/-- A write of LQNOTIFYp; the signals that sheaves wait on are read (R267). -/
def State.lqNotify (s : State) (vd : Nat) (p : Fin 12) (v : W64) : State :=
  (s.updVd vd fun d => { d with notify := d.notify.set p (max d.notify[p] v.toNat) }).pollVd vd

def execLqNotify (vd : Nat) (p : Fin 12) (v : W64) (s : State) : Out3 := .next (s.lqNotify vd p v)

/-- Whether a queue may read the slot at HEAD. -/
def State.lqReady (s : State) (vd : Nat) (p : Fin 12) : Bool :=
  let ctl := s.ctl vd (rLQCTL p)
  s.vdUp vd && bit ctl 63 && !bit ctl 62 && decide ((s.ctl vd (rLQSTAT p)).toNat ≤ (s.vdOf vd).notify[p]) &&
    decide (s.pendingCount vd p < 64)

/-- One read of the slot at HEAD: acceptance or refusal, a later re-read, or the stop of the queue. A read that
faults counts as a mismatch. A record whose own priority has no free entry stays at HEAD, and is read again 256 slots later;
that read is not counted (DEDUCED, entry 124). -/
def State.lqRead (s : State) (vd : Nat) (p : Fin 12) : State :=
  let ctl := s.ctl vd (rLQCTL p)
  let head := s.ctl vd (rLQSTAT p)
  let va := s.ctl vd (rLQBASE p) + BitVec.ofNat 64 (128 * (head.toNat % 2 ^ (bits ctl 3 0 + 1)))
  let r := s.gread none vd va 128
  let s := r.1
  let h : Option Sheaf := match r.2 with
    | .ok bs => if (ofRecord bs).stamp = head then some (ofRecord bs) else none
    | .error _ => none
  match h with
  | some h =>
    let m := s.ctl vd rVDMODE
    let bad := s.recordBad vd h false (bit m 61) (bit m 62)
    if bad.isNone && decide (64 ≤ s.pendingCount vd h.recPrio) then
      s.updVd vd fun d => { d with reread := d.reread.set p (some (s.slot + 256)) }
    else
      let s := s.updVd vd fun d => { d with tries := d.tries.set p 0, reread := d.reread.set p none }
      let s := s.setCtl vd (rLQSTAT p) (head + 1)
      match bad with
      | some d => s.postEvent vd 5 d 0 0 0 head
      | none => s.accept vd h none 0 head
  | none =>
    let n := (s.vdOf vd).tries[p] + 1
    if 64 ≤ n then
      let s := s.updVd vd fun d => { d with tries := d.tries.set p 0, reread := d.reread.set p none }
      (s.setCtl vd (rLQCTL p) (ctl ||| maskBits 62 62)).postEvent vd 4 p.val 0 0 0 head
    else s.updVd vd fun d => { d with tries := d.tries.set p n, reread := d.reread.set p (some (s.slot + 256)) }

/-- The fetcher of a queue. It does nothing while it waits. -/
def State.lqFetch (s : State) (vd : Nat) (p : Fin 12) : State :=
  if s.lqReady vd p && (s.vdOf vd).reread[p].isNone then s.lqRead vd p else s

def execLqFetch (vd : Nat) (p : Fin 12) (s : State) : Out3 := .next (s.lqFetch vd p)

/-- The fetcher reads again, 256 slots after a mismatch. -/
def State.lqReread (s : State) (vd : Nat) (p : Fin 12) : State :=
  match (s.vdOf vd).reread[p] with
  | none => s
  | some due => if decide (due ≤ s.slot) && s.lqReady vd p then s.lqRead vd p else s

def execLqRereadTimer (vd : Nat) (p : Fin 12) (s : State) : Out3 := .next (s.lqReread vd p)

/-! ### `launch` (R221) -/

def execLaunch (h : Head) (rec : Src) (s : State) : Out3 :=
  let v := s.src 1 rec
  issue h 16 s <|
    let s := s.unfence
    if s.fenced || s.rcBusy || s.relBusy s.cur || s.relLog (some .dev) then s.stallRel (some .dev)
    else if !canonical v then s.exact Cause.addressForm 1 v
    else if v.toNat % 128 ≠ 0 then s.exact Cause.misaligned 1 v
    else s.detGate (.launch h rec) <|
      let c := s.grain.launches
      let s := (s.release .dev).updGrain fun g => { g with launches := (c + 1) % 2 ^ 32 }
      s.startL (.launch h rec) h 16 v [BitVec.ofNat 64 c]

def isLaunch : Instr → Bool
  | .launch .. => true
  | _ => false

/-- The priority that a record of a sheaf's `launch` gets (R262). -/
def State.childPrio (s : State) (parent : Nat) (h : Sheaf) : Nat := min h.recPrio (s.sheafPrio parent)

/-- Whether an earlier child of the same sheaf waits for the same queue (R221). -/
def State.childBefore (s : State) (c : CtxId) (call prio : Nat) : Bool :=
  s.ctxs.any fun e => e.1.sheaf == c.sheaf && match e.2.out with
    | some o => isLaunch o.instr && o.stage == .answered && s.childPrio c.sheaf (ofRecord o.data) == prio &&
        (decide (e.1.grain < c.grain) || (e.1.grain == c.grain && decide ((o.caps.getD 0 0).toNat < call)))
    | none => false

/-- A `launch` moves on: its record is read and checked, then it enters its queue when there is room, and is tested
once more (R221). -/
def State.launchStep (s : State) (c : CtxId) : State :=
  match s.outOf c with
  | none => s
  | some o =>
    if !isLaunch o.instr then s
    else
      let vd := s.vdOfCtx c
      let up := s.sheafOf c.sheaf
      match o.stage with
      | .accepted =>
        match s.gread (some (s.coreOfCtx c)) vd o.addr 128 with
        | (s, .error f) => s.recordFail c f o.addr .read
        | (s, .ok bs) =>
          match s.recordBad vd (ofRecord bs) true (up.sys || bit (s.ctl vd rVDMODE) 61) up.det with
          | some _ => s.recorded c Cause.engineState 6 0 false
          | none => s.updOut c fun o => { o with stage := .answered, data := bs }
      | .answered =>
        let h := ofRecord o.data
        let call := (o.caps.getD 0 0).toNat
        let p := s.childPrio c.sheaf h
        if decide (64 ≤ s.pendingCount vd p) || s.childBefore c call p then s
        else
          let n := s.dev.nextSheaf
          let s := s.accept vd h (some c) call o.addr
          ((s.finish c o.tag (BitVec.ofNat 64 (call + c.grain * 2 ^ 32))).unlogged c).retest n
      | _ => s

def execLaunchAccept (c : CtxId) (s : State) : Out3 := .next (s.launchStep c)

/-! ### `arm`, `disarm` and launch messages (R222, R266, R348) -/

/-- `arm` (R222). The record's address is checked for its form at issue (R43; DEDUCED, entry 111). -/
def execArm (h : Head) (rec tag : Src) (persist : Bool) (s : State) : Out3 :=
  let v := s.src 1 rec
  let t := s.src 2 tag
  issue h 16 s <|
    let tags := (s.vdOf s.myVd).tags
    if 2 ^ 16 ≤ t.toNat then s.exact Cause.engineState 2
    else if !canonical v then s.exact Cause.addressForm 1 v
    else
      let old := tags.any fun e => e.1 == t.toNat
      if !old && decide (256 ≤ tags.length) then s.exact Cause.engineState 5
      else
        let new := (t.toNat, v.toNat, persist)
        let tags' := if old then tags.map fun e => if e.1 = t.toNat then new else e else tags ++ [new]
        ((s.updVd s.myVd fun d => { d with tags := tags' }).unlogged s.cur).doneN 16

def execDisarm (h : Head) (tag : Src) (s : State) : Out3 :=
  let t := s.src 1 tag
  issue h 8 s
    (((s.updVd s.myVd fun d => { d with tags := d.tags.filter fun e => e.1 != t.toNat }).unlogged s.cur).doneN 8)

/-- A discarded message is counted (R266). -/
def State.tagMiss (s : State) (vd : Nat) : State :=
  s.setCtl vd rTAGMISS (BitVec.ofNat 64 (min (2 ^ 32 - 1) ((s.ctl vd rTAGMISS).toNat + 1)))

/-- Whether the payload of a tagged message waits for log space (R296). -/
def State.rxHeld (s : State) (vd : Nat) (payload : List Byte) : Bool :=
  let lo := (s.vdOf vd).rxVa / 64
  s.logging vd && s.logHeld vd ((List.range (((s.vdOf vd).rxVa + payload.length + 63) / 64 - lo)).map fun i => lo + i)

/-- A tagged launch message: its payload is in the receive buffer before the launch is accepted (R222, R266). -/
def State.tagMessage (s : State) (vd tag : Nat) (payload : List Byte) : State :=
  if !s.vdUp vd then s
  else match (s.vdOf vd).tags.find? fun e => e.1 == tag with
    | none => s.tagMiss vd
    | some (_, rec, persist) =>
      let va := BitVec.ofNat 64 rec
      let rx := BitVec.ofNat 64 (s.vdOf vd).rxVa
      let fired (s : State) : State :=
        if persist then s else s.updVd vd fun d => { d with tags := d.tags.filter fun e => e.1 != tag }
      match if addrOk va 128 then s.gread none vd va 128 else (s, .error ⟨Cause.misaligned, 1⟩) with
      | (s, .error _) => (fired s).postEvent vd 5 1 0 0 0 va
      | (s, .ok bs) =>
        let h := ofRecord bs
        let m := s.ctl vd rVDMODE
        match s.recordBad vd h false (bit m 61) (bit m 62) with
        | some d => (fired s).postEvent vd 5 d 0 0 0 va
        | none =>
          if 64 ≤ s.pendingCount vd h.recPrio then s.tagMiss vd
          else if s.rxHeld vd payload then (s.waitLog vd).updVd vd fun v => { v with late := v.late ++ [.message tag payload] }
          else
            let s := (fired s).gwriteAll vd noSheaf 150 rx payload
            s.accept vd { h with record := Mem.write h.record 0x78 (toBytes 8 rx.toNat) } none 0 va

/-- The oldest of what a virtual device has to write is written once the log has room. -/
def State.lateStep (s : State) (vd : Nat) : State :=
  match (s.vdOf vd).late with
  | [] => s
  | .event bs :: l =>
    if s.lineHeld vd (s.eventAt vd) then s else (s.updVd vd fun v => { v with late := l }).eventOut vd bs
  | .message tag payload :: l =>
    if s.rxHeld vd payload then s else (s.updVd vd fun v => { v with late := l }).tagMessage vd tag payload

def execTaggedLaunchMessage (vd : Nat) (tag : W16) (payload : List Byte) (s : State) : Out3 :=
  .next (s.tagMessage vd tag.toNat payload)

/-- The enabled virtual device of a PASID. -/
def State.vdOfPasid (s : State) (pasid : Nat) : Option Nat :=
  (List.range 32).find? fun vd => bit (s.hyp vd rVDCTL) 63 && bits (s.hyp vd rVDCTL) 19 0 == pasid

/-- A launch-message frame, of EtherType 0x88B5 (R348). -/
def State.launchFrame (s : State) (p : Fin 16) (payload : List Byte) : State :=
  let x := s.dev.ports[p]
  match frameBody payload with
  | some (0x88B5, body) =>
    if !x.en || x.slotMode || decide (body.length < 8) then s
    else
      let w := word64 (body.take 8)
      let s := s.updPort p fun x => { x with frames := x.frames + 1 }
      match s.vdOfPasid (bits w 19 0) with
      | none => s
      | some vd => s.tagMessage vd (bits w 47 32) (body.drop 8)
  | _ => s

def execEthLaunchFrame (p : Fin 16) (payload : List Byte) (s : State) : Out3 := .next (s.launchFrame p payload)

end Sys2Proof.Machine
end

