-- ==== Sys2Proof/Machine/Place.lean ====
section
/-! DEFINITION. Placement of sheaves (10 R257, R258, R260, R262, R268; 13 R342), the start of grains (01 R14), gangs
(10 R270, R271) and retirement (10 R272). -/

namespace Sys2Proof.Machine

/-! ### Clusters, tiles and slots (R257, R258, R260) -/

/-- Whether a sheaf holds its clusters: it runs, is reserved, is being saved or is being restored. -/
def State.occupies (s : State) (n : Nat) (h : Sheaf) : Bool :=
  match h.st with
  | .running | .reserved => true
  | .stopped => h.stop != .none || s.grains.any fun e => e.1.1 == n
  | _ => false

/-- The physical cores of a placed sheaf's grains. -/
def Sheaf.grainCores (h : Sheaf) : List Nat := h.cores.take h.grains

/-- The other sheaves that hold units, but for those that are to be away. -/
def State.others (s : State) (n : Nat) (freed : List Nat) : List (Nat × Sheaf) :=
  s.sheaves.filter fun e => e.1 != n && !freed.contains e.1 && s.occupies e.1 e.2

/-- Whether a sheaf has a set of its grains on the hardware of a cluster: cluster c + 96 × k is a further use of cluster c
(R276). -/
def Sheaf.onCluster (h : Sheaf) (c : Nat) : Bool := h.clusters.any fun d => d % 96 == c % 96

/-- Whether a sheaf has a grain on the hardware of a tile. -/
def Sheaf.onTile (h : Sheaf) (tile : Nat) : Bool := h.grainCores.any fun c => c / 8 % 384 == tile % 384

/-- Whether a cluster is kept for another waiting sheaf of at least equal priority whose age has passed its limit
(R269). -/
def State.areaKept (s : State) (n : Nat) (freed : List Nat) (c : Nat) : Bool :=
  s.sheaves.any fun e => e.1 != n && !freed.contains e.1 && !s.occupies e.1 e.2 && e.2.onCluster c &&
    decide (s.sheafPrio n ≤ s.sheafPrio e.1)

/-- Whether the accumulator tile numbers that a stopped sheaf holds in a virtual tile are free on a tile (R203, R258). -/
def State.accsFit (s : State) (h : Sheaf) (vt tile : Nat) : Bool :=
  match h.saved with
  | none => true
  | some v => v.tiles.all fun t => t.vtile != vt || (List.finRange 64).all fun a =>
      !(t.tile.acc[a]).isSpilled || match s.accState tile a with
        | .free => true
        | .spilled sh _ _ => !s.placedOn sh tile
        | _ => false

/-- Whether a sheaf may stand on a tile beside the sheaves that are there: of the same virtual device, and none of them
deterministic (R185, R258). -/
def Sheaf.mayShare (h : Sheaf) (there : List Sheaf) : Bool :=
  there.isEmpty || (!h.det && there.all fun e => e.vd == h.vd && !e.det)

/-- The core table of a virtual tile on a tile: the first `need` logical cores go to free cores, the same index before
the same quad before any, and the rest to what is left (DESIGN CHOICE, entry 18). -/
def assignCores (free : Nat → Bool) (need : Nat) (exactly : Bool) : Option (List Nat) :=
  (List.range 8).foldl (fun (got : Option (List Nat)) i => got.bind fun l =>
    let ok (p : Nat) : Bool := !l.contains p && (decide (need ≤ i) || (free p && (!exactly || p == i)))
    let quad := (List.range 8).filter fun p => p / 4 == i / 4
    (((i :: quad) ++ List.range 8).find? ok).map fun p => l ++ [p]) (some [])

/-- The core table of a virtual tile of a sheaf on a tile, if it fits there. -/
def State.fitTile (s : State) (n : Nat) (freed : List Nat) (exactly : Bool) (vt tile : Nat) : Option (List Nat) :=
  let h := s.sheafOf n
  let there := (s.others n freed).map fun e => e.2
  let with_ := there.filter fun e => e.onTile tile
  let held := with_.flatMap fun e => (e.grainCores.filter fun c => c / 8 % 384 == tile % 384).map (· % 8)
  if !s.accsFit h vt tile || !h.mayShare with_ then none
  else (assignCores (fun i => !held.contains i) (min 8 (h.grains - 8 * vt)) exactly).map fun l =>
    l.map fun i => 8 * tile + i

/-- The tables of virtual tiles on tiles of a cluster, one to one: the same place before another. -/
def pickTiles (ok : Nat → Nat → Option (List Nat)) (base : Nat) (exactly : Bool) : List Nat → List Nat → List Nat → Option (List Nat)
  | [], avail, got => some (got ++ avail.flatMap fun p => (List.range 8).map fun i => 8 * p + i)
  | v :: vs, avail, got =>
    let same := base + v % 4
    let order := if exactly then avail.filter (· == same) else avail.filter (· == same) ++ avail.filter (· != same)
    order.findSome? fun p => (ok v p).bind fun l => pickTiles ok base exactly vs (avail.erase p) (got ++ l)

/-- The core table of a virtual cluster on a cluster. -/
def State.fitCluster (s : State) (n : Nat) (freed : List Nat) (exactly : Bool) (vc c : Nat) : Option (List Nat) :=
  let h := s.sheafOf n
  if s.areaKept n freed c then none
  else
    let vts := ((List.range 4).map fun t => 4 * vc + t).filter fun v => decide (v < h.vtiles)
    pickTiles (s.fitTile n freed exactly) (4 * c) exactly vts ((List.range 4).map fun t => 4 * c + t) []

/-- The first clusters that fit, one for each virtual cluster, with their core tables. -/
def pickClusters (ok : Nat → Nat → Option (List Nat)) (avail : List Nat) :
    List Nat → List Nat → List Nat → Option (List Nat × List Nat)
  | [], picked, cores => some (picked, cores)
  | v :: vs, picked, cores =>
    match (avail.filter fun c => !picked.contains c).findSome? fun c => (ok v c).map fun l => (c, l) with
    | none => none
    | some (c, l) => pickClusters ok avail vs (picked ++ [c]) (cores ++ l)

/-- Barrier slots that placed sheaves hold (R260). -/
def State.slotsUsed (s : State) (n : Nat) (freed : List Nat) : Nat :=
  (s.sheaves.map fun e => if e.1 ≠ n ∧ !freed.contains e.1 ∧ s.occupies e.1 e.2 then e.2.domCount else 0).sum

/-- Whether a virtual device has the turn of its partition (R360). -/
def State.hasTurn (s : State) (vd : Nat) : Bool := (s.vdPart vd).turnVd == some vd && !(s.vdPart vd).ending

/-- The clusters that a sheaf may be given. Where a partition has too few for a deterministic sheaf, several grains go to
one core: cluster c + 96 × k is the k-th further use of cluster c, with its own copy of what Spelt switches (R276;
DESIGN CHOICE, entry 24). -/
def State.shelves (s : State) (h : Sheaf) : List Nat :=
  let us := s.usable h.vd
  if h.det && decide (us.length < h.vclusters) then
    (List.range (ceilDiv h.vclusters (max 1 us.length))).flatMap fun k => us.map fun c => c + 96 * k
  else us

/-- The clusters on which a sheaf fits, were some running sheaves away, and its core table: where every core keeps its
index, and failing that any cores (R257, R258). -/
def State.fit (s : State) (n : Nat) (freed : List Nat := []) : Option (List Nat × List Nat) :=
  let h := s.sheafOf n
  if !s.vdUp h.vd || !s.hasTurn h.vd || decide (barrierSlots < s.slotsUsed n freed + h.domCount) then none
  else
    let pick (exactly : Bool) := pickClusters (s.fitCluster n freed exactly) (s.shelves h) (List.range h.vclusters) [] []
    (pick true).or (pick false)

/-- The sheaves that share a tile with one of some sheaves. -/
def State.tileMates (s : State) (ns : List Nat) : List Nat :=
  (s.sheaves.filter fun e => s.occupies e.1 e.2 && (ns.contains e.1 || ns.any fun n =>
    e.2.grainCores.any fun c => (s.sheafOf n).onTile (c / 8))).map Prod.fst

/-- A sheaf with every sheaf that shares a tile with it, taken transitively (R284). -/
def State.stopGroup (s : State) (n : Nat) : List Nat :=
  (List.range s.sheaves.length).foldl (fun ns _ => let m := s.tileMates ns; if m.length = ns.length then ns else m) [n]

/-! ### The `mem` circuits of placed tiles (R342) -/

def memHandle (tile stack : Nat) : Nat := 2 ^ 16 + 8 * (tile % 384) + stack

/-- The eight circuits of each tile, in tile order, or none when they cannot be had. -/
def State.placeMem (s : State) (vd : Nat) : List Nat → Option State
  | [] => some s
  | t :: ts =>
    if (s.circuit (memHandle t 0)).isSome then s.placeMem vd ts
    else match (List.range 8).foldl (fun (o : Option State) st => o.bind fun s =>
        s.placeCircuit ⟨memHandle t st, vd, .mem, t, 0, BitVec.ofNat 64 st, [], 1, 0, true, false, none, [], [], [], 0⟩) (some s) with
    | none => none
    | some s => s.placeMem vd ts

/-- The circuits of tiles that no sheaf other than one uses are removed. -/
def State.dropMem (s : State) (n : Nat) (tiles : List Nat) : State :=
  let used (t : Nat) : Bool := (s.others n []).any fun e => e.2.onTile t
  (tiles.filter fun t => !used t).foldl (fun s t => (List.range 8).foldl (fun s st => s.dropCircuit (memHandle t st)) s) s

/-- Physical tiles of a placed sheaf. -/
def Sheaf.tiles (h : Sheaf) : List Nat := (List.range h.vtiles).map h.tile

/-! ### Binding (R257) -/

/-- Trace records that a tile still queues for the virtual device it served are dropped: LOST is set (R362). -/
def State.loseTrace (s : State) (tile : Nat) : State :=
  match (s.tileOf tile).vd with
  | some vd => if (s.tileOf tile).traceQ.isEmpty then s else s.setCtl vd rTRCTL (s.ctl vd rTRCTL ||| maskBits 62 62)
  | none => s

/-- A tile that served another virtual device keeps only its accumulator entries (DESIGN CHOICE, entry 14). -/
def State.clearTile (s : State) (tile : Nat) : State :=
  let s := s.loseTrace tile
  let inTile (w k a : Nat) : Bool := a * k / w == tile
  { s with
    lmem := s.lmem.filter fun e => !inTile (2 ^ 22) 1 e.1
    fe := s.fe.filter fun e => !inTile (2 ^ 22) 4 e.1
    wbuf := s.wbuf.filter fun e => !inTile (2 ^ 19) 1 e.1
    tiles := Tab.upd s.tiles tile fun t => { Tile.zero with
      acc := t.acc
      accBad := t.accBad
      l2 := t.l2
      walk := t.walk
      duty := t.duty
      ramp := t.ramp
      run := t.run } }

/-- A tile begins to serve a virtual device. -/
def State.serve (s : State) (vd tile : Nat) : State :=
  let s := if (s.tileOf tile).vd = some vd then s else s.clearTile tile
  let s := s.updTile tile fun t => { t with vd := some vd }
  s.updVd vd fun v => { v with usedTiles := if v.usedTiles.contains tile then v.usedTiles else v.usedTiles ++ [tile] }

/-- Binds a sheaf to clusters and cores: its tiles and their `mem` circuits. -/
def State.bindSheaf (s : State) (n : Nat) (cl : List Nat × List Nat) : Option State :=
  let s := s.updSheaf n fun h => { h with
    clusters := cl.1
    cores := cl.2
    dieMap := s.hyp h.vd rDIEMAP
    placedAt := s.slot
    blockedPosted := false
    gangWaitPosted := false }
  let h := s.sheafOf n
  (s.placeMem h.vd h.tiles).map fun s => h.tiles.foldl (fun s t => s.serve h.vd t) s

/-- The physical core of a grain of a sheaf that is being placed. -/
def Sheaf.coreOf (h : Sheaf) (grain : Nat) : Nat := h.cores.getD grain noCore

/-! ### The constant bank and the grains (R14, R37, R262) -/

/-- Bytes of global memory in pieces of 64, for the device. -/
def State.greadLines (s : State) (vd : Nat) (va : W64) : (n : Nat) → State × Except Fail (List Byte)
  | 0 => (s, .ok [])
  | n + 1 =>
    match s.gread none vd va 64 with
    | (s, .error f) => (s, .error f)
    | (s, .ok bs) =>
      match s.greadLines vd (va + 64) n with
      | (s, .error f) => (s, .error f)
      | (s, .ok rest) => (s, .ok (bs ++ rest))

/-- The constant-bank image of a sheaf. -/
def State.constImage (s : State) (n : Nat) : State × Except Fail Mem :=
  let h := s.sheafOf n
  if h.constVa = 0 then (s, .ok [])
  else match s.greadLines h.vd h.constVa 64 with
    | (s, .error f) => (s, .error f)
    | (s, .ok bs) => (s, .ok (Mem.write [] 0 bs))

/-- Places a grain: its core state is new (R14, R148, R156, R183, R221, R232). -/
def State.placeGrain (s : State) (n : Nat) (const : Mem) (grain : Nat) : State :=
  let h := s.sheafOf n
  let core := h.coreOf grain
  let g : Grain := { Grain.zero with
    core := core
    prio := h.prio
    dommask := h.dommask grain
    const := const
    cycle0 := s.cycleOf (core / 4) }
  ({ s with grains := Tab.put s.grains (n, grain) g }).updCore core fun c => { c with lastSheaf := some n }

/-- Control contexts become live at the entry (R14). -/
def State.startGrains (s : State) (n : Nat) : State :=
  let h := s.sheafOf n
  (List.range h.grains).foldl (fun s g =>
    { s with ctxs := Tab.put s.ctxs ⟨n, g, 0⟩ (Ctx.control h.entry h.args g (s.cycleOf (h.coreOf g / 4))) }) s

/-! ### Retirement (R272) -/

/-- Releases the units of a sheaf: contexts, grains, `mem` circuits and clusters. -/
def State.releaseUnits (s : State) (n : Nat) : State :=
  let s := s.dropMem n (s.sheafOf n).tiles
  { s with
    ctxs := s.ctxs.filter fun e => e.1.sheaf != n
    grains := s.grains.filter fun e => e.1.1 != n
    sheaves := Tab.upd s.sheaves n fun h => { h with
      clusters := []
      cores := []
      tasks := h.tasks.filter fun r => r.ends } }

/-- The accumulator tiles that a sheaf holds OWNED or PINNED become FREE; a SPILLED one stays so (R186). -/
def State.freeAccs (s : State) (n : Nat) : State :=
  let mine (a : AccState) : Bool := a.sheaf == some n && !a.isSpilled
  { s with tiles := s.tiles.map fun t => (t.1, { t.2 with acc := t.2.acc.map fun a => if mine a then .free else a }) }

/-- Decrements a signal of a virtual device by 1, stopping at zero (R220, R272). -/
def State.decSignal (s : State) (vd sid : Nat) (va : W64) : State :=
  match s.gread none vd va 8 with
  | (s, .error _) => s
  | (s, .ok bs) => (s.gwrite none vd sid va (toBytes 8 ((word64 bs).toNat - 1))).1

/-- The last steps of a retirement. The U lines that its contexts have applied a `red` to are combined first (R137). -/
def State.endSheaf (s : State) (n : Nat) : State :=
  let h := s.sheafOf n
  let s := s.flushU fun _ u => u.by_.any fun c => c.sheaf == n
  let s := h.circuits.foldl (fun s k => s.dropCircuit k) s
  let s := (s.releaseUnits n).freeAccs n
  let s : State := { s with tiles := s.tiles.map fun t => (t.1, { t.2 with
    mutex := t.2.mutex.map fun m => if m.any fun c => c.sheaf == n then none else m }) }
  let s := s.updSheaf n fun h => { h with st := .retired, circuits := [], doms := [], tasks := [], area := none, saved := none, ckpt := none, stop := .none }
  let s := if h.sigVa = 0 then s else s.decSignal h.vd h.sheafid h.sigVa
  let s := if h.irq then s.postSheaf n 8 0 h.sigVa else s
  s.pollVd h.vd

/-- Whether every grain of a sheaf has retired and every command has completed. -/
def State.allRetired (s : State) (n : Nat) : Bool :=
  (s.grains.all fun e => e.1.1 != n || (e.2.retired && e.2.mq.isEmpty)) &&
    s.tiles.all fun t => t.2.cmds.all fun c => c.ctx.sheaf != n

/-- Whether the end of a sheaf waits for log space: for its U lines, or for its signal (R296). -/
def State.endHeld (s : State) (n : Nat) : Bool :=
  let h := s.sheafOf n
  (s.combineHeld fun _ u => u.by_.any fun c => c.sheaf == n) || (h.sigVa != 0 && s.lineHeld h.vd h.sigVa)

def State.retireSheaf (s : State) (n : Nat) : State :=
  if (s.sheafOf n).st ≠ .running ∨ !s.allRetired n then s
  else if s.endHeld n then s.waitLog (s.sheafOf n).vd
  else s.endSheaf n

def execSheafRetire (sheaf : Nat) (s : State) : Out3 := .next (s.retireSheaf sheaf)

/-! ### The scheduler's order (R268) -/

/-- Whether a sheaf waits for placement: PENDING, or STOPPED with its save written. -/
def State.waitsPlace (s : State) (n : Nat) (h : Sheaf) : Bool :=
  h.st == .pending || (h.st == .stopped && h.stop == .none && !(s.grains.any fun e => e.1.1 == n) &&
    (match h.speltDone with
     | some d => decide (d ≤ s.slot)
     | none => true))

/-- The order key of a waiting sheaf: children of one parent that are pending together stand by (GRAINID, c) where the
oldest of them stands. -/
def State.placeKey (s : State) (n : Nat) : List Nat :=
  let h := s.sheafOf n
  let sib (e : Nat × Sheaf) : Bool := e.2.st == .pending && h.st == .pending && match e.2.parent, h.parent with
    | some a, some b => a.sheaf == b.sheaf && e.2.prio == h.prio
    | _, _ => false
  let grp := (s.sheaves.filter sib).foldl (fun m e => min m e.1) n
  let by_ := if h.st = .pending then h.parent else none
  [15 - s.sheafPrio n, grp, (by_.map fun c => c.grain).getD 0, if by_.isSome then h.callNo else 0, n]

def lexLt : List Nat → List Nat → Bool
  | a :: as, b :: bs => decide (a < b) || (a == b && lexLt as bs)
  | [], _ :: _ => true
  | _, [] => false

/-- The waiting sheaves of a virtual device that come before one. -/
def State.earlier (s : State) (n : Nat) : List Nat :=
  let h := s.sheafOf n
  (s.sheaves.filter fun e => e.2.vd == h.vd && e.1 != n && s.waitsPlace e.1 e.2 && lexLt (s.placeKey e.1) (s.placeKey n)).map
    Prod.fst

/-- The circuits of a stopped sheaf are set again, each with the slots that it asked for, or the sheaf is not placed (R292).
Released circuits keep the virtual tile of their source. -/
def State.placeOwn (s : State) (n : Nat) : List Nat → Option State
  | [] => some s
  | hd :: hs =>
    match s.circuit hd with
    | none => s.placeOwn n hs
    | some k =>
      let h := s.sheafOf n
      let k : Circuit := { k with
        src := h.tile k.src
        dst := if k.kind = .tile then h.tile (bits k.dest 11 0) else 0 }
      match s.placeCircuit k with
      | none => none
      | some s => s.placeOwn n hs

/-- A sheaf bound to the first clusters that fit, with its circuits, if it can be placed now. -/
def State.bound (s : State) (n : Nat) : Option State :=
  if !s.waitsPlace n (s.sheafOf n) then none
  else (s.fit n).bind fun cl => (s.bindSheaf n cl).bind fun s => s.placeOwn n (s.sheafOf n).circuits

/-- Whether a sheaf is the first in the scheduler's order that fits: its binding. -/
def State.chosen (s : State) (n : Nat) : Option State :=
  match s.bound n with
  | none => none
  | some t => if (s.earlier n).all fun m => (s.bound m).isNone then some t else none

/-! ### Gangs (R270, R271) -/

/-- Member packages − 1 of a gang (R270). -/
def State.gangPkgs (s : State) (h : Sheaf) : Nat := bits (s.ctl h.vd (rGANG h.gidx)) 37 32

/-- Gang messages carry the SHEAFID and a code: 0 RESERVED, 1 arrivals, 2 MISSING, 3 COMMIT, whose slot T follows. -/
def State.gangTell (s : State) (h : Sheaf) (code : Nat) : State := s.tell 5 (BitVec.ofNat 64 (h.sheafid * 4 + code))

/-- The commit: the sheaf is RUNNING, and its grains start in slot T (R267, R270). -/
def State.commit (s : State) (n t : Nat) : State := s.updSheaf n fun h => { h with st := .running, gangT := some t }

/-- The leader sends COMMIT once it is RESERVED and has heard every other member. T is the present slot, the circuit's
latency and the 8-slot guard. -/
def State.gangLead (s : State) (n : Nat) : State :=
  let h := s.sheafOf n
  if h.st = .reserved ∧ h.lead ∧ h.gangRes.length = s.gangPkgs h then
    let lat := ((s.circuit (bits (s.ctl h.vd (rGANG h.gidx)) 15 0)).map fun k => k.lat).getD 0
    let t := s.slot + lat + 8
    ((s.commit n t).gangTell h 3).tell 10 (BitVec.ofNat 64 t)
  else s

def State.gangReservedMsg (s : State) (n pkg : Nat) : State :=
  let h := s.sheafOf n
  if !h.gang || !h.lead || h.gangRes.contains pkg then s
  else (s.updSheaf n fun h => { h with gangRes := h.gangRes ++ [pkg] }).gangLead n

def execGangReserved (sheaf pkg : Nat) (s : State) : Out3 := .next (s.gangReservedMsg sheaf pkg)

/-- COMMIT reaches a member. -/
def State.gangCommitMsg (s : State) (n slot : Nat) : State :=
  if (s.sheafOf n).st = .reserved then s.commit n slot else s

def execGangCommit (sheaf slot : Nat) (s : State) : Out3 := .next (s.gangCommitMsg sheaf slot)

/-- Slot T: the grains start. Nothing happens before it. -/
def State.gangStart (s : State) (n : Nat) : State :=
  let h := s.sheafOf n
  match h.st, h.gangT with
  | .running, some t => if t ≤ s.slot then (s.updSheaf n fun h => { h with gangT := none }).startGrains n else s
  | _, _ => s

/-- A message with another member's level-4 arrivals, or its MISSING answer (R271). Arrivals that come before the present
phase completes count toward the next. -/
def State.gangMsg (s : State) (n pkg : Nat) (missing : Bool) : State :=
  let h := s.sheafOf n
  if !h.gang then s
  else match h.st with
    | .reserved =>
      if missing then s
      else ((((s.gangTell h 2).releaseUnits n).updSheaf n fun h => { h with st := .retired, doms := [] }).postSheaf n 6 h.gidx 0)
    | .running | .stopped =>
      if missing then
        let s := s.updSheaf n fun h => { h with gangMissing := true }
        s.ctxs.foldl (fun s e => if e.1.sheaf = n then s.missArrival e.1 else s) s
      else s.updSheaf n fun h => { h with gangArrived := pkg :: h.gangArrived }
    | _ => s

def execGangArrivalMessage (sheaf pkg : Nat) (missing : Bool) (s : State) : Out3 := .next (s.gangMsg sheaf pkg missing)

/-- A write of GANGn: enabling with PKGS zero is ignored (R270). -/
def State.gangnWrite (s : State) (vd : Nat) (n : Fin 16) (v : W64) : State :=
  if bit v 63 ∧ bits v 37 32 = 0 then s
  else s.setCtl vd (rGANG n.val) (v &&& (maskBits 63 63 ||| maskBits 37 32 ||| maskBits 15 0))

def execGangnWrite (vd : Nat) (n : Fin 16) (v : W64) (s : State) : Out3 := .next (s.gangnWrite vd n v)

/-! ### Placement of a pending sheaf (R262, R267, R268) -/

/-- Places a PENDING sheaf that comes first in the scheduler's order. -/
def State.placeNew (s : State) (n : Nat) : State :=
  if (s.sheafOf n).st ≠ .pending then s
  else match s.chosen n with
    | none => s
    | some s =>
      match s.constImage n with
      | (s, .error _) =>
        let h := s.sheafOf n
        (s.postSheaf n 5 2 h.errData).endSheaf n
      | (s, .ok const) =>
        let h := s.sheafOf n
        let s := (List.range h.grains).foldl (fun s g => s.placeGrain n const g) s
        let s := s.updSheaf n fun h => { h with doms := [] }
        if h.gang then (((s.updSheaf n fun h => { h with st := .reserved }).gangTell h 0).gangLead n)
        else (s.updSheaf n fun h => { h with st := .running }).startGrains n

end Sys2Proof.Machine
end

