-- ==== Sys2Proof/Machine/SaveArea.lean ====
section
/-! DEFINITION. The save area of a sheaf as bytes (11 R287 to R291; 07 R202): its size, its layout, and how Spelt
writes it into the pool. -/

namespace Sys2Proof.Machine

/-! ### Sizes (R287, R291) -/

/-- Bytes of a grain block. -/
def Sheaf.grainBlock (h : Sheaf) : Nat := 0xC000 + h.spadk * 1024
def Sheaf.tileBase (h : Sheaf) : Nat := 0x5_0000 + h.grainBlock * h.grains
def tileBlock : Nat := 0x18_9000
def Sheaf.areaSize (h : Sheaf) : Nat := h.tileBase + tileBlock * h.vtiles

/-- Slots of a save. -/
def Sheaf.saveTime (h : Sheaf) : Nat := ceilDiv h.areaSize 1024 + 4096

/-- Slots of a restore: the accumulator records are left out, since they are restored on demand. -/
def Sheaf.restoreTime (h : Sheaf) : Nat := ceilDiv (h.areaSize - 0x4040 * 64 * h.vtiles) 1024 + 4096

/-! ### Layout -/

/-- Pieces of an area: offset and bytes. -/
abbrev Pieces := List (Nat × List Byte)

def w8 (off : Nat) (v : W64) : Nat × List Byte := (off, toBytes 8 v.toNat)
def n8 (off v : Nat) : Nat × List Byte := (off, toBytes 8 v)

/-- Pieces moved by an offset. -/
def Pieces.shift (p : Pieces) (o : Nat) : Pieces := p.map fun e => (o + e.1, e.2)

/-- Words of a list, 8 bytes each, from an offset on. -/
def words (off : Nat) (l : List W64) : Pieces := l.zipIdx.map fun e => w8 (off + 8 * e.2) e.1

/-- One step of CRC-32 (IEEE 802.3, reflected). -/
def crcBits (c : Nat) : Nat → Nat
  | 0 => c
  | n + 1 => crcBits (if c % 2 = 1 then c / 2 ^^^ 0xEDB8_8320 else c / 2) n

def crc32 (bs : List Byte) : Nat := bs.foldl (fun c b => crcBits (c ^^^ b.toNat) 8) 0xFFFF_FFFF ^^^ 0xFFFF_FFFF

/-- The captured values of the operand fields SA to SD, in order: an access names its address by SA (R289). -/
def Out.operands (o : Out) : List W64 :=
  let c := o.caps.getD 0 0
  match o.instr with
  | .ld .. | .ldg .. => [o.addr]
  | .stg .. | .sigDec .. | .redAdd .. | .redFadd .. | .redMin .. | .redMax .. | .redAnd .. | .redOr .. | .redXor .. =>
    [o.addr, c]
  | .amoSwap .. | .amoCas .. | .amoAdd .. | .amoFadd .. | .amoMin .. | .amoMax .. | .amoAnd .. | .amoOr .. | .amoXor .. =>
    [o.addr, c, o.caps.getD 1 0]
  | .launch .. | .mwldGl .. => [o.addr]
  | .cktReq .. => [o.addr, c]
  | _ => o.caps.take 4

/-- The captures of a gather or scatter that was recorded before its lanes were captured: the base, E, and the bases of its
operands in the places of SA to SC. -/
def uncaptured (o : Out) (base : Nat) : Pieces :=
  [w8 0x340 (o.caps.getD base 0), w8 0x348 (o.caps.getD 3 0)] ++ words 0x5A0 (o.caps.take 3)

/-- The captures of a recorded instruction (R289). -/
def capPieces (o : Out) : Pieces :=
  let code := (0x5C0, encode o.instr)
  match o.instr with
  | .vgath .. | .vscat .. =>
    if o.stage ≠ .sent then
      uncaptured o (match o.instr with
        | .vscat .. => 0
        | _ => 1) ++ [code]
    else
    let e := (o.caps.getD 1 0).toNat
    let xs := o.data.drop (4 * e)
    let b := if e = 0 then 4 else max 1 (xs.length / e)
    let data := (List.range 64).map fun k => (0x450 + 4 * k, (xs.drop (b * k)).take b)
    [w8 0x340 (o.caps.getD 0 0), n8 0x348 e, (0x350, o.data.take (4 * e))] ++ data ++ [code]
  | .rqput .. => [(0x550, o.data), w8 0x590 (o.caps.getD 0 0), n8 0x598 o.data.length, code]
  | _ => words 0x5A0 o.operands ++ [code]

/-- A context block (R289). -/
def ctxPieces (x : Ctx) : Pieces :=
  let live := 1 + (if x.handler then 2 else 0) + (if x.hostStop then 4 else 0)
  [n8 0x000 live, w8 0x008 x.pc] ++ words 0x010 x.g.toList ++ words 0x090 x.q.toList ++ words 0x110 x.a.toList ++
  words 0x150 x.as_.toList ++ words 0x190 x.ls.toList ++ words 0x1B0 x.le.toList ++ words 0x1D0 (x.lc.toList.map zx) ++
  [n8 0x1F0 x.depth, n8 0x1F8 x.vl, w8 0x200 (zx x.aflags), w8 0x208 (zx x.amask), w8 0x210 x.pixWord, w8 0x218 x.pixpc,
   w8 0x220 x.trapcause, w8 0x228 x.trappc, w8 0x230 x.trapaddr, n8 0x238 x.lcnt] ++
  (x.lfsr.toList.zipIdx.map fun e => (0x240 + 4 * e.2, toBytes 4 e.1.toNat)) ++
  match x.saved with
  | some o => capPieces o
  | none => []

/-- A ring's 32 bytes (R288). -/
def ringPieces (off : Nat) : Option Ring → Pieces
  | none => []
  | some r => [n8 off r.base, n8 (off + 8) r.size,
      n8 (off + 16) (r.n - 1 + r.d * 2 ^ 8 + (r.level - 1) * 2 ^ 16 + r.sp * 2 ^ 24 + 2 ^ 31)]

/-- A queued command's 64 bytes: the instruction, the CTXID, and the captures in order (DESIGN CHOICE, entry 20). -/
def cmdPieces (off : Nat) (i : Instr) (ctx : Nat) (caps : List W64) : Pieces :=
  [(off, encode i), n8 (off + 16) ctx] ++ words (off + 24) (caps.take 5)

/-- PROG of a queued command as R200 counts it: tokens for a delta command, whose tile-ops per token are two or three. -/
def MCmd.progWord (c : MCmd) : Nat :=
  match c.instr with
  | .deltaUpd .. => c.prog / 2
  | .deltaChunk .. => c.prog / 3
  | _ => c.prog

/-- A grain block without its contexts and its slice (R288). -/
def grainPieces (id : Nat) (g : Grain) (c : Core) : Pieces :=
  [n8 0x0000 id, n8 0x0008 g.launches, n8 0x0010 g.prio, n8 0x0018 g.mqwt, w8 0x0020 g.skip, n8 0x0028 g.tileOps,
   n8 0x0030 g.pwrReq] ++ words 0x0040 c.bankpwr.toList ++
  (g.rings.toList.zipIdx.flatMap fun e => ringPieces (0x0080 + 32 * e.2) e.1) ++
  (g.mailbox.zipIdx.flatMap fun e => [w8 (0x0180 + 16 * e.2) e.1.1, w8 (0x0188 + 16 * e.2) e.1.2]) ++
  [n8 0x0280 g.mailbox.length] ++ (g.chk.toList.zipIdx.map fun e => n8 (0x0300 + 8 * e.2) e.1) ++
  (g.mq.zipIdx.flatMap fun e => cmdPieces (0x0400 + 64 * e.2) e.1.instr e.1.ctx.ctx e.1.caps) ++
  [n8 0x0800 ((g.mq.head?.map MCmd.progWord).getD 0)]

/-- The place of an accumulator's spill record in its tile block (R290). -/
def recordAt (a : Nat) : Nat := 0x8_8000 + 0x4040 * a

/-- A spill record: its CRC is that of the tile's elements `bs`; its rows may be older while their copies are pending (R202,
R297). -/
def spillPieces (sheafid a : Nat) (x : AccState) (bs rows : List Byte) : Pieces :=
  match x with
  | .spilled _ g pin =>
    [n8 0 ((if pin then 2 else 1) * 2 ^ 62 + g * 2 ^ 48 + a), n8 8 sheafid, (16, toBytes 4 (crc32 bs)), (64, rows)]
  | _ => []

/-- A channel's part of a tile block. -/
def chanPieces (c : Chan) : Pieces :=
  [w8 0 c.wp, n8 8 ((c.cmds.head?.map fun e => e.prog).getD 0), n8 16 c.cmds.length] ++
    (c.cmds.zipIdx.flatMap fun e => cmdPieces (0x40 + 64 * e.2) e.1.instr e.1.ctx.ctx e.1.caps)

/-- A tile block without the weight buffer (R290), with what it shows of every sheaf that is saved together; the accumulator
rows that it holds are given. -/
def State.tilePieces (s : State) (w : View) (v : SavedTile) (rows : Mem) : Pieces :=
  let t := v.full
  let mark (m : CtxId) : Nat := 2 ^ (11 * s.logicalCore w (s.coreOfCtx m) + m.ctx)
  words 0x0100 (t.evflag.toList.map boolW) ++ words 0x0200 (t.evfwd.toList.map zx) ++
  words 0x0300 (t.mutex.toList.map (s.mxownWord w)) ++ words 0x0380 (t.tbar.toList.map TBar.word) ++
  (t.tbar.toList.zipIdx.map fun e => (0x0400 + 32 * e.2, toBytes 32 ((e.1.marks.map mark).sum))) ++
  (t.rq.toList.zipIdx.flatMap fun e =>
    [w8 (0x0500 + 16 * e.2) e.1.cfg, w8 (0x0508 + 16 * e.2) e.1.stat]) ++
  (t.chans.toList.zipIdx.flatMap fun e => (chanPieces e.1).shift (0x1000 + 0x800 * e.2)) ++
  (t.acc.toList.zipIdx.flatMap fun e => if e.1.isSpilled then
    (spillPieces ((e.1.sheaf.map fun n => (s.sheafOf n).sheafid).getD 0) e.2 e.1
      (Mem.read v.fullAcc (e.2 * 2 ^ 14) (2 ^ 14)) (Mem.read rows (e.2 * 2 ^ 14) (2 ^ 14))).shift (recordAt e.2) else [])

/-- The circuit table (R287). -/
def State.circuitTable (s : State) (h : Sheaf) : Pieces :=
  h.circuits.zipIdx.flatMap fun e => match s.circuit e.1 with
    | none => []
    | some k => [(0x200 + 16 * e.2, toBytes 2 k.handle ++ toBytes 2 k.want ++ toBytes 4 k.dest.toNat ++
        toBytes 2 (if k.releasing then 2 else if k.active then 1 else 0))]

/-- The tile block of a virtual tile in a saved state. -/
def Saved.tileOf (v : Saved) (vt : Nat) : Option SavedTile := v.tiles.find? fun t => t.vtile == vt

/-- The whole area of a sheaf's saved state, whose slice bytes, weight units and accumulator rows are those of `w`. -/
def State.areaBytes (s : State) (n : Nat) (v w : Saved) : Mem :=
  let h := s.sheafOf n
  let gb := h.grainBlock
  let head : Pieces := [n8 0 0x4B53_4156, n8 8 h.sheafid,
    n8 0x10 ((if h.debug then 2 ^ 63 else 0) + (if h.det then 2 ^ 62 else 0) + h.quantum), n8 0x18 v.size,
    (0x80, Mem.read h.record 0 128)] ++ s.circuitTable h ++
    (List.range h.domCount).map fun n =>
      let d := Tab.getD v.doms n ⟨0, 0, 0, 0⟩
      (0x1_0000 + 16 * n, toBytes 4 d.phase ++ toBytes 4 d.arrived ++ toBytes 8 d.pend)
  let grains := v.grains.flatMap fun e =>
    (grainPieces e.1 e.2 (Tab.getD v.cores e.1 Core.zero)).shift (0x5_0000 + gb * e.1)
  let ctxs := v.ctxs.flatMap fun e => (ctxPieces e.2).shift (0x5_0000 + gb * e.1.grain + 0x1000 + 0x800 * e.1.ctx)
  let tiles := v.tiles.flatMap fun t => (s.tilePieces (n, t.vtile) t
    (((w.tileOf t.vtile).map fun x => x.fullAcc).getD [])).shift (h.tileBase + tileBlock * t.vtile)
  let weights := w.tiles.flatMap fun t => t.wbuf.map fun c => (h.tileBase + tileBlock * t.vtile + 0x8000 + c.1, [c.2])
  let slices := w.slices.map fun c => (0x5_0000 + gb * (c.1 / 2 ^ 19) + 0xC000 + c.1 % 2 ^ 19, [c.2])
  let m : Mem := (head ++ grains ++ ctxs ++ tiles ++ weights ++ slices).foldl (fun m p => Mem.write m p.1 p.2) []
  -- full/empty bits, one bit per word
  v.fe.foldl (fun m c =>
    let w := c.1 % 2 ^ 17
    let a := 0x5_0000 + gb * (c.1 / 2 ^ 17) + 0x6800 + w / 8
    Mem.set m a (Mem.get m a ||| BitVec.ofNat 8 (2 ^ (w % 8)))) m

/-! ### Writing (R286) -/

/-- Fills a 4 KiB device page with zeros and some bytes at offsets, under a key. -/
def State.putPage (s : State) (key : List W64) (dpa : Nat) (cells : List (Nat × Byte)) : State :=
  let lines := (List.range 64).map fun i => dpa / 64 + i
  let other (l : Nat) : Bool := !(decide (dpa / 64 ≤ l) && decide (l < dpa / 64 + 64))
  let hbm := cells.foldl (fun m c => Mem.set m (dpa + c.1) c.2) (Mem.clear s.hbm dpa 4096)
  let kept := s.dev.lineKey.filter fun e => other e.1
  { s with
    hbm := hbm
    dev := { s.dev with
      lineKey := if key = [] then kept else kept ++ lines.map fun l => (l, key)
      poisonHbm := s.dev.poisonHbm.filter other
      unmarked := s.dev.unmark 2 fun l => !other l } }

/-- Spelt writes an area page by page; a page that does not translate is left out. -/
def State.putArea (s : State) (vd : Nat) (va : Nat) (m : Mem) : (pages : Nat) → State
  | 0 => s
  | k + 1 =>
    let s := s.putArea vd va m k
    match s.translate none vd (vaW (va + 4096 * k)) .write with
    | (s, .error _) => s
    | (s, .ok x) =>
      let s := s.flushHome x.dpa 4096
      s.putPage (s.key x.keyid) (x.dpa / 4096 * 4096)
        ((m.filter fun c => decide (c.1 / 4096 = k)).map fun c => (c.1 % 4096, c.2))

/-- The place in a sheaf's area of something that carries an error marker (R323): a word of a slice, a weight unit, an
accumulator element. -/
def Saved.markVa (v : Saved) (h : Sheaf) (m : Nat × Nat) : Nat :=
  match m.1 with
  | 0 => v.va + 0x5_0000 + h.grainBlock * (m.2 / 2 ^ 17) + 0xC000 + m.2 % 2 ^ 17 * 4
  | 3 => v.va + h.tileBase + tileBlock * (m.2 / 2 ^ 14) + 0x8000 + m.2 % 2 ^ 14 * 32
  | _ => ((v.tileOf (m.2 / 2 ^ 18)).map fun t => t.base).getD 0 + recordAt (m.2 / 2 ^ 12 % 64) + 64 + m.2 % 2 ^ 12 * 4

/-- Puts an error marker on the line of a VA that translates. -/
def State.markLine (s : State) (vd va : Nat) : State :=
  match s.translate none vd (vaW va) .write with
  | (s, .error _) => s
  | (s, .ok x) => s.poisonHbm [x.dpa / 64]

/-- Whether the line of a VA holds an uncorrectable error. -/
def State.lineBad (s : State) (vd va : Nat) : Bool :=
  s.dev.poisonHbm != [] && match (s.translate none vd (vaW va) .read).2 with
    | .error _ => false
    | .ok x => s.dev.poisonHbm.contains (x.dpa / 64)

/-- Writes the area of a sheaf's saved state, with the markers that its contents carry (R323). The slice bytes, weight units and
accumulator rows are those of `w`. -/
def State.writeArea (s : State) (n : Nat) (v w : Saved) : State :=
  let h := s.sheafOf n
  let s := s.putArea h.vd v.va (s.areaBytes n v w) (ceilDiv v.size 4096)
  if v.size = 0 then s else v.marks.foldl (fun s m => s.markLine h.vd (v.markVa h m)) s

/-! ### The items of a checkpoint (R297) -/

/-- The units of w bytes in which two memories differ. -/
def diffUnits (w : Nat) (a b : Mem) : List Nat :=
  (((a ++ b).map fun c => c.1 / w).eraseDups).filter fun u => Mem.read a (w * u) w != Mem.read b (w * u) w

/-- A memory with the units of another. -/
def mixUnits (w : Nat) (us : List Nat) (new old : Mem) : Mem :=
  (new.filter fun c => !us.contains (c.1 / w)) ++ old.filter fun c => us.contains (c.1 / w)

/-- The slice lines, weight units and accumulator rows in which a new image differs from an old one. -/
def Saved.changed (old new : Saved) : List (Nat × Nat × Nat) :=
  ((diffUnits 64 old.slices new.slices).map fun u => (0, 0, u)) ++ new.tiles.flatMap fun t =>
    let o := old.tileOf t.vtile
    ((diffUnits 32 ((o.map fun x => x.wbuf).getD []) t.wbuf).map fun u => (3, t.vtile, u)) ++
    (diffUnits 256 ((o.map fun x => x.fullAcc).getD []) t.fullAcc).map fun u => (4, t.vtile, u)

/-- An image with the old contents of some items. -/
def Saved.mixed (old new : Saved) (items : List (Nat × Nat × Nat)) : Saved :=
  let us (p vt : Nat) : List Nat := (items.filter fun i => i.1 == p && i.2.1 == vt).map fun i => i.2.2
  { new with
    slices := mixUnits 64 (us 0 0) new.slices old.slices
    tiles := new.tiles.map fun t =>
      let o := old.tileOf t.vtile
      { t with
        wbuf := mixUnits 32 (us 3 t.vtile) t.wbuf ((o.map fun x => x.wbuf).getD [])
        fullAcc := mixUnits 256 (us 4 t.vtile) t.fullAcc ((o.map fun x => x.fullAcc).getD []) } }

/-- Bytes of an item of a checkpoint by its PLACE: a slice line, a weight unit, an accumulator row (R297). -/
def itemBytes (place : Nat) : Nat := if place = 0 then 64 else if place = 3 then 32 else 256

/-- Items up to a number of bytes. -/
def takeBytes (n : Nat) : List (Nat × Nat × Nat) → List (Nat × Nat × Nat)
  | [] => []
  | i :: is_ => if n = 0 then [] else i :: takeBytes (n - itemBytes i.1) is_

/-- The place of an item in the area, and its bytes. -/
def Saved.item (v : Saved) (h : Sheaf) (i : Nat × Nat × Nat) : Nat × List Byte :=
  let t := v.tileOf i.2.1
  let u := i.2.2
  let block := h.tileBase + tileBlock * i.2.1
  match i.1 with
  | 0 => (0x5_0000 + h.grainBlock * (u / 2 ^ 13) + 0xC000 + u % 2 ^ 13 * 64, Mem.read v.slices (64 * u) 64)
  | 3 => (block + 0x8000 + 32 * u, Mem.read ((t.map fun x => x.wbuf).getD []) (32 * u) 32)
  | _ => (block + recordAt (u / 64) + 64 + 256 * (u % 64), Mem.read ((t.map fun x => x.fullAcc).getD []) (256 * u) 256)

/-- Writes bytes of an area, in pieces of at most 64. `fuel` bounds the pieces. -/
def State.areaPut (s : State) (vd : Nat) : (fuel : Nat) → Nat → List Byte → State
  | 0, _, _ => s
  | _ + 1, _, [] => s
  | k + 1, va, bs =>
    let n := 64 - va % 64
    (s.logPut vd (vaW va) (bs.take n) false).areaPut vd k (va + n) (bs.drop n)

/-- Copies items of a sheaf's checkpoint into its area. -/
def State.copyItems (s : State) (n : Nat) (items : List (Nat × Nat × Nat)) : State :=
  let h := s.sheafOf n
  match h.ckpt with
  | none => s
  | some v => if v.size = 0 then s else items.foldl (fun s i => let p := v.item h i; s.areaPut h.vd 6 (v.va + p.1) p.2) s

/-! ### The pool (R286) -/

/-- The areas in use: those of stopped sheaves and of saves in progress, and of running sheaves in rollback mode or with
accumulators that are still to be restored from theirs (R188, R286; DEDUCED, entry 35). -/
def State.areas (s : State) (vd : Nat) : List (Nat × Nat) :=
  s.sheaves.flatMap fun e =>
    if e.2.vd ≠ vd ∨ (e.2.st ≠ .stopped ∧ e.2.st ≠ .running) then []
    else e.2.area.toList ++ ((e.2.saved.toList ++ e.2.ckpt.toList).filter fun v => v.size != 0).map fun v => (v.va, v.size)

/-- The first free 64 KiB boundary of the pool with room. A sheaf's own area counts as free for it when named. -/
def State.poolPlace (s : State) (vd size : Nat) (own : Option Nat) : Option Nat :=
  let base := bits (s.hyp vd rSPBASE) 56 16 * 65536
  let blocks := bits (s.hyp vd rSPSIZE) 39 16
  let used := (s.areas vd).filter fun a => own != some a.1
  ((List.range blocks).find? fun i =>
    let va := base + 65536 * i
    decide (65536 * i + size ≤ 65536 * blocks) &&
      used.all fun a => decide (va + size ≤ a.1) || decide (a.1 + a.2 ≤ va)).map fun i => base + 65536 * i

end Sys2Proof.Machine
end

