-- ==== Sys2Proof/Machine/Spelt.lean ====
section
/-! DEFINITION. Stopping a sheaf (11 R284, R285), saving and resuming it (R286 to R292; 07 R201 to R203), checkpoints
and slice ends (R294 to R299), thermal moves (R293), pre-emption by priority and age (10 R268, R269), and the turns of
a partition (14 R359 to R361). -/

namespace Sys2Proof.Machine

/-! ### Stopping (R284) -/

/-- A context stops: an instruction in progress is recorded unless it is in handler mode, and a request that has not
issued leaves the task queue (R278, R282). The results of its issued instructions are written at the end of their
latencies, which the save waits for (R98, R284). The stop is a full fence of scope `.sys` (R256). -/
def State.stopCtx (s : State) (c : CtxId) : State :=
  let s := (s.updCtx c fun x =>
    let x := if x.handler then x else x.recordOut
    { x with
      fence := true
      fenceWide := true
      wait := match x.wait with
        | .page => .page
        | .pageSlot => .pageSlot
        | .parked k => .parked k
        | .stopped => .stopped
        | _ => .none })
  ((s.parkEngine c).emitTrace c).fresh

/-- The quads of a sheaf. -/
def State.quadsOf (s : State) (n : Nat) : List Nat :=
  (s.grains.filter fun e => e.1.1 == n).map fun e => e.2.core / 4

/-- A U line that a context of a sheaf has applied a `red` to. -/
def lineOf (n : Nat) (u : ULine) : Bool := u.by_.any fun c => c.sheaf == n

/-- The stop of a sheaf begins (R284, steps 1 to 4). The U lines of its quads are combined as soon as the log has room for them
(R296). -/
def State.beginStop (s : State) (n : Nat) : State :=
  let s := s.updSheaf n fun h => { h with st := .stopped, stoppedAt := s.slot, tasks := h.tasks.filter fun r => r.ends, speltDone := none }
  let qs := s.quadsOf n
  let s := (s.ctxs.filter fun e => e.1.sheaf == n).foldl (fun s e => s.stopCtx e.1) s
  s.flushWhen (s.sheafOf n).vd fun q _ => qs.contains q

/-- The sheaves of a virtual device whose slice ends by rollback. -/
def State.rollGroup (s : State) (vd : Nat) : List Nat :=
  (s.sheaves.filter fun e => e.2.vd == vd && e.2.stop == .slice true).map Prod.fst

/-- A stopping sheaf's U lines are combined once the log has room. For a slice that ends by rollback it need not have: a line of
sheaves that are rolled back goes, since its effect would be undone (DESIGN CHOICE, entry 36). -/
def State.stopFlush (s : State) (n : Nat) : State :=
  let h := s.sheafOf n
  if h.st ≠ .stopped ∨ !(s.quads.any fun q => q.2.ulines.any (lineOf n)) then s
  else if h.stop = .slice true ∧ s.combineHeld (fun _ u => lineOf n u) then
    let g := s.rollGroup h.vd
    let gone (u : ULine) : Bool := lineOf n u && u.by_.all fun c => g.contains c.sheaf
    ({ s with quads := s.quads.map fun q => (q.1, { q.2 with ulines := q.2.ulines.filter fun u => !gone u }) } : State).flushU
      fun _ u => lineOf n u
  else s.flushWhen h.vd fun _ u => lineOf n u

/-- Whether everything of a stopping sheaf has reached its stop point (R284, R285). -/
def State.quiet (s : State) (n : Nat) : Bool :=
  let h := s.sheafOf n
  (s.ctxs.all fun e => e.1.sheaf != n || (e.2.pend.all (fun p => some p.tag == (e.2.out.map fun o => o.tag)) &&
    (match e.2.out with
     | none => true
     | some o => o.stage == .past))) &&
  (s.quads.all fun q => (q.2.vops.all fun v => v.ctx.sheaf != n) && !q.2.ulines.any (lineOf n)) &&
  (h.tiles.all fun t =>
    let x := s.tileOf t
    x.run.all (fun r => r.sheaf != n) && x.fires.isEmpty) &&
  (s.grains.all fun e => e.1.1 != n || ((e.2.mq.head?.map fun c => !c.runsOn).getD true &&
    e.2.mq.all fun c => !isMstat c.instr)) &&
  (s.tiles.all fun t => t.2.cmds.all fun c => c.ctx.sheaf != n || !s.midSegment c) &&
  (s.dev.circuits.all fun k => k.sheaf != some n || k.flits.isEmpty)

/-! ### What is saved (R287 to R290) -/

/-- A queued command as it is saved: one that has ended its tile-ops completes at once, and no other runs (R196). -/
def MCmd.parked (c : MCmd) : MCmd :=
  { c with due := c.due.map fun _ => 0 }

/-- A context as it is saved: its times begin again where it resumes. -/
def Ctx.parked (x : Ctx) : Ctx :=
  let past (o : Out) : Out := { o with due := o.due.map fun _ => 0 }
  { x with readyAt := 0, lastIssue := 0, saved := x.saved.map past }

/-- A context on other units: a full fence of scope `.sys` has passed, and it may issue from a cycle on (R256). -/
def Ctx.again (x : Ctx) (now : Nat) : Ctx :=
  { x.parked with readyAt := now, lastIssue := now, fence := true, fenceWide := true }

/-- Cells of a memory within a range, moved to another base. -/
def cellsIn (m : Mem) (lo n tgt : Nat) : Mem :=
  (m.filter fun c => decide (lo ≤ c.1) && decide (c.1 < lo + n)).map fun c => (c.1 - lo + tgt, c.2)

/-- An accumulator entry of a sheaf, spilled. -/
def AccState.spill (x : AccState) (n : Nat) : AccState :=
  match x with
  | .owned sh g => if sh = n then .spilled sh g false else x
  | .pinned sh g => if sh = n then .spilled sh g true else x
  | x => x

/-- A tile without the commands of a sheaf, and with those of some sheaves alone. -/
def Tile.without (t : Tile) (n : Nat) : Tile := { t with
  chans := t.chans.map fun c => { c with cmds := c.cmds.filter fun e => e.ctx.sheaf != n }
  pass := t.pass.filter fun e => e.ctx.sheaf != n
  gath := t.gath.filter fun e => e.ctx.sheaf != n }
def Tile.only (t : Tile) (ns : List Nat) : Tile := { t with
  chans := t.chans.map fun c => { c with cmds := c.cmds.filter fun e => ns.contains e.ctx.sheaf }
  pass := t.pass.filter fun e => ns.contains e.ctx.sheaf
  gath := t.gath.filter fun e => ns.contains e.ctx.sheaf }

/-- A tile whose units are at reset; what the device keeps beside them stays. -/
def Tile.unitsReset (t : Tile) : Tile := { Tile.zero with
  vd := t.vd
  chans := t.chans.map fun c => { c with wp := 0 }
  pass := t.pass
  gath := t.gath
  acc := t.acc
  accBad := t.accBad
  accZero := t.accZero
  turn := t.turn
  used := t.used
  last := t.last
  run := t.run
  duty := t.duty
  ramp := t.ramp
  l2 := t.l2
  walk := t.walk
  traceQ := t.traceQ
  seqNext := t.seqNext }

/-- Adds the commands of another tile, after those that are there; their order numbers go up by `off`. -/
def Tile.addCmds (t x : Tile) (off : Nat) : Tile :=
  let up (e : ECmd) : ECmd := { e with seq := e.seq + off }
  { t with
    chans := Vector.ofFn fun i : Fin 8 => { t.chans[i] with cmds := t.chans[i].cmds ++ x.chans[i].cmds.map up }
    pass := t.pass ++ x.pass.map up
    gath := t.gath.or (x.gath.map up)
    seqNext := t.seqNext + x.seqNext }

/-- Whether the units of a sheaf's virtual tile are saved with it: of the sheaves on the tile it holds the lowest bound
core, core 0 where a grain is bound to it (R290). -/
def State.holdsUnits (s : State) (n vt : Nat) : Bool :=
  let tile := (s.sheafOf n).tile vt
  let low (h : Sheaf) : Nat := (h.grainCores.filter fun c => c / 8 == tile).foldl min noCore
  (s.others n []).all fun e => decide (low (s.sheafOf n) ≤ low e.2)

/-- The accumulator contents that a sheaf saves of a tile; a tile that is still SPILLED keeps the copy saved earlier (R203). -/
def State.savedAcc (s : State) (n vt : Nat) : Mem :=
  let h := s.sheafOf n
  let tile := h.tile vt
  let t := s.tileOf tile
  let old : Mem := match h.saved.bind fun v => v.tiles.find? fun x => x.vtile == vt with
    | some x => x.acc
    | none => []
  let part (a : Fin 64) : Mem :=
    match t.acc[a] with
    | .spilled sh _ _ => if sh = n then cellsIn old (a.val * 2 ^ 14) (2 ^ 14) (a.val * 2 ^ 14) else []
    | x => if x.sheaf = some n then cellsIn s.accm (accAddr tile a 0 0) (2 ^ 14) (a.val * 2 ^ 14) else []
  (List.finRange 64).flatMap part

/-- A tile with the commands and accumulators of some sheaves, its accumulators SPILLED, as a block shows it. -/
def Tile.block (t : Tile) (ns : List Nat) : Tile :=
  let keep (x : AccState) : AccState := match x.sheaf with
    | some n => if ns.contains n then x.spill n else .free
    | none => .free
  { t.only ns with acc := t.acc.map keep, accZero := [], run := none, traceQ := [], l2 := [], walk := [], fires := [] }

/-- The sheaf of a group that holds the units of a physical tile, with its virtual tile (R290). -/
def State.unitHolder (s : State) (g : List Nat) (tile : Nat) : Option (Nat × Nat) :=
  g.findSome? fun m => ((List.range (s.sheafOf m).vtiles).find? fun v =>
    (s.sheafOf m).tile v == tile && s.holdsUnits m v).map fun v => (m, v)

/-- The tile block of a virtual tile of a sheaf that is saved in a group, whose areas' VAs are given. The block that holds
the units shows the commands and accumulators of the whole group (R290). -/
def State.savedTile (s : State) (vas : Tab Nat Nat) (n vt : Nat) : SavedTile :=
  let h := s.sheafOf n
  let tile := h.tile vt
  let g := vas.map Prod.fst
  let t := s.tileOf tile
  let units := s.holdsUnits n vt
  let holder := (s.unitHolder g tile).getD (n, vt)
  let own := (if units then t else t.unitsReset).block [n]
  let vtOf (m : Nat) : Option Nat := (List.range (s.sheafOf m).vtiles).find? fun v => (s.sheafOf m).tile v == tile
  let accs : Mem := g.flatMap fun m => match vtOf m with
    | some v => s.savedAcc m v
    | none => []
  let other := holder.1 ≠ n
  ⟨vt, units, own, if units then cellsIn s.wbuf (tile * 2 ^ 19) (2 ^ 19) 0 else [], s.savedAcc n vt,
    if other then Tile.zero else (if units then t else t.unitsReset).block g, if other then [] else accs,
    Tab.getD vas holder.1 0 + (s.sheafOf holder.1).tileBase + tileBlock * holder.2⟩

/-- The error markers of a sheaf's slices, weight units and accumulators, by their saved places (R323). -/
def State.savedMarks (s : State) (n : Nat) : List (Nat × Nat) :=
  let h := s.sheafOf n
  let slice (w : Nat) : Option (Nat × Nat) :=
    ((List.range h.grains).find? fun g => h.coreOf g == w / 2 ^ 17 && decide (w % 2 ^ 17 < 256 * h.spadk)).map fun g =>
      (0, g * 2 ^ 17 + w % 2 ^ 17)
  let vtOf (tile : Nat) : Option Nat := (List.range h.vtiles).find? fun v => h.tile v == tile
  let unit (u : Nat) : Option (Nat × Nat) :=
    ((vtOf (u / 2 ^ 14)).filter fun v => s.holdsUnits n v).map fun v => (3, v * 2 ^ 14 + u % 2 ^ 14)
  let elt (w : Nat) : Option (Nat × Nat) :=
    ((vtOf (w / 2 ^ 18)).filter fun v =>
      ((s.tileOf (h.tile v)).acc.toList.getD (w % 2 ^ 18 / 2 ^ 12) .free).sheaf == some n).map fun v => (4, v * 2 ^ 18 + w % 2 ^ 18)
  s.dev.poisonLmem.filterMap slice ++ s.dev.poisonWbuf.filterMap unit ++ s.dev.poisonAcc.filterMap elt

/-- The state of a sheaf as Spelt saves it, in a group of sheaves with the VAs of their areas. -/
def State.snapshotIn (s : State) (vas : Tab Nat Nat) (n : Nat) : Saved :=
  let h := s.sheafOf n
  let grains := s.grains.filter fun e => e.1.1 == n
  let ctxs := s.ctxs.filter fun e => e.1.sheaf == n
  let slice (e : (Nat × Nat) × Grain) : Mem := cellsIn s.lmem (e.2.core * 2 ^ 19) (1024 * h.spadk) (e.1.2 * 2 ^ 19)
  let fe (e : (Nat × Nat) × Grain) : Mem := cellsIn s.fe (e.2.core * 2 ^ 17) (256 * h.spadk) (e.1.2 * 2 ^ 17)
  { va := Tab.getD vas n 0
    size := if (Tab.find vas n).isSome then h.areaSize else 0
    ctxs := ctxs.map fun e => (e.1, e.2.parked)
    grains := grains.map fun e => (e.1.2, { e.2 with mq := e.2.mq.map MCmd.parked })
    cores := grains.map fun e => (e.1.2, s.coreOf e.2.core)
    slices := grains.flatMap slice
    fe := grains.flatMap fe
    tiles := (List.range h.vtiles).map fun v => s.savedTile (if vas = [] then [(n, 0)] else vas) n v
    doms := h.doms
    slot := s.slot
    marks := s.savedMarks n }

/-- The state of a sheaf alone, in an area at a VA or without one. -/
def State.snapshot (s : State) (n : Nat) (va : Option Nat) : Saved :=
  s.snapshotIn (match va with
    | some a => [(n, a)]
    | none => []) n

/-- A stopped sheaf gives up its units: accumulators become SPILLED, its commands and the units that are saved with it
leave its tiles, its circuits keep their table entries and lose their slots (R186, R284). -/
def State.giveUp (s : State) (n : Nat) : State :=
  let h := s.sheafOf n
  let s := (List.range h.vtiles).foldl (fun s v =>
    let held := s.holdsUnits n v
    s.updTile (h.tile v) fun x =>
      let x := (if held then x.unitsReset else x).without n
      { x with acc := x.acc.map fun a => a.spill n }) s
  let vt (tile : Nat) : Nat := ((List.range h.vtiles).find? fun v => h.tile v == tile).getD 0
  let s := h.circuits.foldl (fun s k => (s.idleEntries k).updCircuit k fun x => { x with src := vt x.src, slots := [] }) s
  (s.releaseUnits n).updSheaf n fun h => { h with doms := [], stop := .none }

/-! ### Slices (R361) -/

def State.part (s : State) (p : Fin 8) : Part := s.dev.parts[p]
def State.updPart (s : State) (p : Fin 8) (f : Part → Part) : State :=
  s.updDev fun d => { d with parts := d.parts.set p (f d.parts[p]) }

def State.weight (s : State) (vd : Nat) : Nat := bits (s.hyp vd rVDSCHED) 39 32
/-- Slots of a slice. -/
def State.sliceLen (s : State) (vd : Nat) : Nat := bits (s.hyp vd rVDSCHED) 31 0 * 1024

/-- Running sheaves of a virtual device. -/
def State.runningOf (s : State) (vd : Nat) : List Nat :=
  (s.sheaves.filter fun e => e.2.vd == vd && e.2.st == .running).map Prod.fst

/-- The worst-case save time of a virtual device's running sheaves. -/
def State.saveSum (s : State) (vd : Nat) : Nat := ((s.runningOf vd).map fun n => (s.sheafOf n).saveTime).sum

/-- At each slice start and each placement: whether the slices of a virtual device are shorter than the save (R361). -/
def State.noteShort (s : State) (vd : Nat) : State :=
  let b := decide (s.sliceLen vd < s.saveSum vd)
  if (s.vdOf vd).short = b then s else s.updVd vd fun v => { v with short := b }

/-! ### Stop requests (R268, R284, R286) -/

/-- Asks for a stop. -/
def State.askStop (s : State) (n : Nat) (why : StopFor) : State :=
  if (s.sheafOf n).st ≠ .running ∨ (s.sheafOf n).stop ≠ .none then s
  else s.updSheaf n fun h => { h with stop := why, stopAt := s.slot, stopPhase := (s.domOf n 0).phase }

/-- Whether a sheaf has completed a level-4 phase since it was asked to stop (R261). -/
def State.atBoundary (s : State) (n : Nat) : Bool := (s.domOf n 0).phase != (s.sheafOf n).stopPhase

/-- The running sheaves that a waiting sheaf would have stopped: lowest priority first, and among those the most
recently placed (R268). -/
def State.victims (s : State) (n : Nat) : List Nat :=
  let h := s.sheafOf n
  let going := (s.sheaves.filter fun e => e.2.vd == h.vd && (e.2.stop == .save)).flatMap fun e => s.stopGroup e.1
  let key (e : Nat × Sheaf) : List Nat := [s.sheafPrio e.1, 2 ^ 64 - e.2.placedAt, 2 ^ 64 - e.1]
  let cands := s.sheaves.filter fun e => e.2.vd == h.vd && e.2.st == .running && e.2.stop == .none && decide (s.sheafPrio e.1 < s.sheafPrio n)
  let rec insert (e : Nat × Sheaf) : List (Nat × Sheaf) → List (Nat × Sheaf)
    | [] => [e]
    | x :: xs => if lexLt (key e) (key x) then e :: x :: xs else x :: insert e xs
  let sorted := cands.foldl (fun l e => insert e l) []
  let rec grow (got : List Nat) : List (Nat × Sheaf) → List Nat
    | [] => []
    | e :: es => let got := got ++ [e.1]
                 if (s.fit n (going ++ got.flatMap s.stopGroup)).isSome then got else grow got es
  if !s.waitsPlace n h || (s.fit n going).isSome then [] else grow [] sorted

/-- Areas of the pool for sheaves, in order: that which a stop has taken for it, or the first free boundary, its own area
counting as free (R286). -/
def State.placeAreas (s : State) : List Nat → Option (Tab Nat Nat)
  | [] => some []
  | m :: ms =>
    let h := s.sheafOf m
    match h.area.map Prod.fst |>.or (s.poolPlace h.vd h.areaSize (h.ckpt.map fun v => v.va)) with
    | none => none
    | some va => ((s.updSheaf m fun h => { h with area := some (va, h.areaSize) }).placeAreas ms).map fun l => (m, va) :: l

/-- The sheaves' areas are taken for the saves that follow (R286). -/
def State.takeAreas (s : State) (ms : List Nat) : State :=
  ((s.placeAreas ms).getD []).foldl (fun s e => s.updSheaf e.1 fun h => { h with area := some (e.2, h.areaSize) }) s

/-- Whether the pool has room for the areas of every sheaf that a stop takes in (R284, R286). -/
def State.roomFor (s : State) (n : Nat) : Bool := (s.placeAreas (s.stopGroup n)).isSome

/-- A stop for a save takes in every sheaf that shares a tile (R284). Its areas are taken from the pool at once (R286). -/
def State.stopAll (s : State) (n : Nat) : State :=
  let saves (m : Nat) : Bool := (s.sheafOf m).stop != .slice true
  (s.stopGroup n).foldl (fun s m =>
    if (s.sheafOf m).st ≠ .running then s
    else
      let s := s.updSheaf m fun h => { h with stop := match h.stop with
        | .slice b => .slice b
        | _ => .save }
      s.beginStop m) (s.takeAreas ((s.stopGroup n).filter saves))

/-- Whether the scheduler chooses a sheaf to stop. A stop that the pool has no room for is not made (R286). -/
def State.isVictim (s : State) (n : Nat) : Bool :=
  let h := s.sheafOf n
  s.roomFor n && s.hasTurn h.vd &&
    s.sheaves.any fun e => e.2.vd == h.vd && (s.victims e.1).contains n

/-- A stop request at work: the scheduler's choice, then the stop itself, which for a save waits for the boundary. -/
def State.stopStep (s : State) (n : Nat) : State :=
  let h := s.sheafOf n
  if h.st ≠ .running then s
  else match h.stop with
    | .none => if s.isVictim n then s.askStop n .save else s
    | .save =>
      if !s.roomFor n then s.updSheaf n fun h => { h with stop := .none }
      else if s.atBoundary n then s.stopAll n else s
    | .migrate => if s.atBoundary n then s.beginStop n else s
    | .checkpoint | .slice _ => s.beginStop n

def execSheafStop (sheaf : Nat) (s : State) : Out3 := .next (s.stopStep sheaf)

/-- No boundary has come within 2^20 slots: the sheaf is stopped part-way (R268). -/
def State.stopLate (s : State) (n : Nat) : State :=
  let h := s.sheafOf n
  if h.st = .running ∧ h.stop = .save ∧ h.stopAt + 2 ^ 20 ≤ s.slot ∧ s.roomFor n then s.stopAll n
  else s

def execStopTimeout (sheaf : Nat) (s : State) : Out3 := .next (s.stopLate sheaf)

/-! ### Saving (R286, R291) and rolling back (R298) -/

/-- When Spelt is free: its saves, restores and checkpoint copies share its rate, one after the other (R188, R291). -/
def State.speltFree (s : State) : Nat :=
  let one (e : Nat × Sheaf) : Nat :=
    let copies := if e.2.ckptItems = [] then 0
      else e.2.ckptAt + ceilDiv (e.2.ckptItems.map fun i => itemBytes i.1).sum 1024
    max (max (e.2.speltDone.getD 0) e.2.shelfAt) copies
  (s.sheaves.map one ++ s.dev.restoreQ.map Prod.snd).foldl max s.slot

/-- Writes the old contents of one log record back to where the line lies now, with the marker that it had (R298, R323). A line
whose page does not translate now keeps its contents (DESIGN CHOICE, entry 36). -/
def State.undo (s : State) (vd : Nat) (r : LogRec) : State :=
  match s.translate none vd (vaW (64 * r.line)) .write with
  | (s, .error _) => s
  | (s, .ok x) =>
    let s := s.devWrite (s.key x.keyid) (x.dpa / 64 * 64) r.old
    if r.bad then s.poisonHbm [x.dpa / 64] else s

/-- Applies, in decreasing slot order, the log records that some sheaves of a virtual device made, each after its latest
checkpoint (R298). -/
def State.rollBack (s : State) (vd : Nat) (ns : List Nat) : State :=
  let ours (r : LogRec) : Bool := ns.any fun n => (s.sheafOf n).sheafid == r.sheafid && decide ((s.sheafOf n).ckptSeq < r.seq)
  ((s.vdOf vd).log.filter ours).reverse.foldl (fun s r => s.undo vd r) s

/-- Whether a sheaf's save may end: it is quiet and Spelt's time for it has run. -/
def State.saveDue (s : State) (n : Nat) : Bool :=
  let h := s.sheafOf n
  h.st == .stopped && s.quiet n && match h.speltDone with
    | some d => decide (d ≤ s.slot)
    | none => false

/-- The sheaves that are saved together with one: those of its group that stop for a save. -/
def State.saveGroup (s : State) (n : Nat) : List Nat :=
  (s.stopGroup n).filter fun m => match (s.sheafOf m).stop with
    | .save | .slice false => true
    | _ => false

/-- Saves a group of sheaves: their areas are placed and written (R286 to R290). -/
def State.saveAll (s : State) (g : List Nat) : State :=
  let vas := g.filterMap fun m => (s.sheafOf m).area.map fun a => (m, a.1)
  let s' := g.foldl (fun t m => t.updSheaf m fun h => { h with
    saved := some (s.snapshotIn vas m)
    ckpt := none
    ckptItems := []
    area := none
    stoppedAt := s.slot }) s
  g.foldl (fun s m => match (s.sheafOf m).saved with
    | some v => s.writeArea m v v
    | none => s) s'

/-- Every engine command of a tile, changed. -/
def Tile.mapCmds (t : Tile) (f : ECmd → ECmd) : Tile := { t with
  chans := t.chans.map fun c => { c with cmds := c.cmds.map f }
  pass := t.pass.map f
  gath := t.gath.map f }

/-- A translation that a command of a checkpoint holds, as its page translates now: an invalidation may have completed since. One
whose page does not translate, and one of host memory, stays (DESIGN CHOICE, entry 36). -/
def State.reheld (s : State) (vd : Nat) (host : Bool) (h : Nat × Nat × Nat × Nat × Nat) : Nat × Nat × Nat × Nat × Nat :=
  if host then h
  else match (s.translate none vd (vaW h.1) .read).2 with
    | .error _ => h
    | .ok x => (h.1, h.2.1, x.dpa, x.keyid, h.2.2.2.2)

/-- A checkpoint with the translations that its engine commands hold renewed. -/
def State.renewed (s : State) (vd : Nat) (v : Saved) : Saved :=
  let cmd (e : ECmd) : ECmd :=
    let host := ((cpyArgs e.instr).map fun a => isHost a.kind).getD false
    { e with trans := e.trans.map (s.reheld vd host) }
  { v with tiles := v.tiles.map fun t => { t with tile := t.tile.mapCmds cmd } }

/-- Whether a sheaf that is to be rolled back stands still. -/
def State.rollReady (s : State) (m : Nat) : Bool := (s.sheafOf m).st == .stopped && s.quiet m

/-- The last step of a rollback: pending copies are completed, and each sheaf is STOPPED with its latest checkpoint
(R298). -/
def State.rollEnd (s : State) (n : Nat) : State :=
  let h := s.sheafOf n
  match h.ckpt with
  | none => s
  | some v =>
    let s := (s.copyItems n h.ckptItems).updSheaf n fun h => { h with
      saved := some (s.renewed h.vd v)
      ckpt := none
      ckptItems := []
      speltDone := some s.slot }
    s.giveUp n

/-- A sheaf that is quiet is saved: Spelt starts, and when its time has run the area is written and the units are
released, together with those of the sheaves that share its tiles. A slice end by rollback waits for every sheaf that it
stops, restores memory and keeps the state of the latest checkpoints. -/
def State.saveStep (s : State) (n : Nat) : State :=
  let h := s.sheafOf n
  if h.st ≠ .stopped ∨ !s.quiet n then s
  else match h.stop with
    | .slice true =>
      let g := s.rollGroup h.vd
      if h.ckpt.isNone ∨ !g.all s.rollReady then s
      else g.foldl (fun s m => s.rollEnd m) (s.rollBack h.vd g)
    | .save | .slice false =>
      match h.speltDone with
      | none => s.updSheaf n fun h => { h with speltDone := some (s.speltFree + h.saveTime) }
      | some _ =>
        let g := s.saveGroup n
        if !g.all s.saveDue then s
        else g.foldl (fun s m => s.giveUp m) (s.saveAll g)
    | _ => s

def execSpeltSaveDone (sheaf : Nat) (s : State) : Out3 := .next (s.saveStep sheaf)

/-! ### Resuming (R292) -/

/-- Puts a saved tile block back. What other sheaves have on the tile stays, but for the units that the block holds. -/
def State.restoreTile (s : State) (n : Nat) (v : SavedTile) : State :=
  let h := s.sheafOf n
  let tile := h.tile v.vtile
  let t := s.tileOf tile
  let mix (a : Fin 64) : AccState :=
    let x := v.tile.acc[a]
    if x.sheaf = some n then x else if (t.acc[a]).sheaf = some n then .free else t.acc[a]
  let units : Tile := if v.units then
      { t with
        evflag := v.tile.evflag
        evfwd := v.tile.evfwd
        mutex := v.tile.mutex
        tbar := v.tile.tbar
        rq := v.tile.rq
        chans := Vector.ofFn fun i : Fin 8 => { t.chans[i] with wp := v.tile.chans[i].wp }
        turn := v.tile.turn
        used := v.tile.used
        last := v.tile.last }
    else t
  let new : Tile := { units.addCmds v.tile t.seqNext with acc := Vector.ofFn mix }
  let wb : Mem := v.wbuf.foldl (fun m c => Mem.set m (tile * 2 ^ 19 + c.1) c.2) (Mem.clear s.wbuf (tile * 2 ^ 19) (2 ^ 19))
  let s := if v.units then ({ s with wbuf := wb } : State).cleanWbuf fun u => u / 2 ^ 14 == tile else s
  s.updTile tile fun _ => new

/-- The markers of a place of a sheaf's saved state: those saved with it, and on the whole of a line of the area that has come to
hold an error since (R323; DESIGN CHOICE, entry 113). `all` lists what lies in the lines that are to be looked at. -/
def State.marksOf (s : State) (h : Sheaf) (v : Saved) (p : Nat) (all : List Nat) : List Nat :=
  let own := (v.marks.filter fun m => m.1 == p && all.contains m.2).map Prod.snd
  let line (x : Nat) : Nat := v.markVa h (p, x) / 64
  let known := own.map line
  if v.size = 0 || s.dev.poisonHbm == [] then own
  else own ++ all.filter fun x => !known.contains (line x) && s.lineBad h.vd (64 * line x)

/-- Puts the error markers of a saved sheaf back on its slices and weight units; those of its accumulators return with their
records (R323). -/
def State.restoreMarks (s : State) (n : Nat) (v : Saved) : State :=
  let h := s.sheafOf n
  let words := v.grains.flatMap fun e => (List.range (256 * h.spadk)).map fun w => e.1 * 2 ^ 17 + w
  let units := (v.tiles.filter fun t => t.units).flatMap fun t => (List.range (2 ^ 14)).map fun u => t.vtile * 2 ^ 14 + u
  let pick (p : Nat) : List Nat := s.marksOf h v p (if p = 0 then words else units)
  let ws := (pick 0).map fun w => h.coreOf (w / 2 ^ 17) * 2 ^ 17 + w % 2 ^ 17
  let us := (pick 3).map fun u => h.tile (u / 2 ^ 14) * 2 ^ 14 + u % 2 ^ 14
  if ws = [] ∧ us = [] then s
  else s.updDev fun d => { d with poisonLmem := ws ++ d.poisonLmem, poisonWbuf := us ++ d.poisonWbuf }

/-- Puts a grain and its slice back on the core that it has now. -/
def State.restoreGrain (s : State) (n : Nat) (v : Saved) (seqs : Nat → Nat) (e : Nat × Grain) : State :=
  let h := s.sheafOf n
  let core := h.coreOf e.1
  let old := Tab.getD v.cores e.1 Core.zero
  let lm := (cellsIn v.slices (e.1 * 2 ^ 19) (2 ^ 19) (core * 2 ^ 19)).foldl (fun m c => Mem.set m c.1 c.2)
    (Mem.clear s.lmem (core * 2 ^ 19) (2 ^ 19))
  let fe := (cellsIn v.fe (e.1 * 2 ^ 17) (2 ^ 17) (core * 2 ^ 17)).foldl (fun m c => Mem.set m c.1 c.2)
    (Mem.clear s.fe (core * 2 ^ 17) (2 ^ 17))
  let mq := e.2.mq.map fun c : MCmd => { c with seq := c.seq + seqs (e.1 / 8) }
  let g := { e.2 with core := core, cycle0 := s.cycleOf (core / 4), moving := false, mq := mq }
  (({ s with lmem := lm, fe := fe, grains := Tab.put s.grains (n, e.1) g } : State).cleanLmem fun w =>
    w / 2 ^ 17 == core).updCore core fun c => { c with bankpwr := old.bankpwr, waking := [], lastSheaf := some n }

/-- Puts a context back: it may issue from its quad's present cycle on. -/
def State.restoreCtx (s : State) (c : CtxId) (x : Ctx) : State :=
  let now := s.cycleOf ((s.sheafOf c.sheaf).coreOf c.grain / 4)
  { s with ctxs := Tab.put s.ctxs c { x with readyAt := now, lastIssue := now } }

/-- A STOPPED sheaf that comes first in the scheduler's order is placed again and Spelt begins to restore it. -/
def State.resumeStep (s : State) (n : Nat) : State :=
  let h := s.sheafOf n
  match h.st, h.saved, s.chosen n with
  | .stopped, some v, some s =>
    let seqs (vt : Nat) : Nat := (s.tileOf ((s.sheafOf n).tile vt)).seqNext
    let s := v.tiles.foldl (fun s t => s.restoreTile n t) s
    let s := v.grains.foldl (fun s e => s.restoreGrain n v seqs e) s
    let s := (v.ctxs.foldl (fun s e => s.restoreCtx e.1 e.2) s).restoreMarks n v
    s.updSheaf n fun h => { h with doms := v.doms, speltDone := some (s.speltFree + h.restoreTime) }
  | _, _, _ => s

def execSheafResume (sheaf : Nat) (s : State) : Out3 := .next (s.resumeStep sheaf)

/-- Whether a sheaf still has SPILLED accumulators on its tiles. -/
def State.spilledLeft (s : State) (n : Nat) : Bool :=
  (s.sheafOf n).tiles.any fun t => (s.tileOf t).acc.toList.any fun a => a.isSpilled && a.sheaf == some n

/-- The state of a running sheaf at its placement is kept until its first checkpoint; in rollback mode it is also written to
its save area, where the pool has room (R286, R297; entry 35). -/
def State.firstImage (s : State) (n : Nat) : State :=
  let h := s.sheafOf n
  if h.ckpt.isSome || h.gangT.isSome || h.st ≠ .running then s
  else
    let s := s.noteShort h.vd
    let v := s.snapshot n (if s.rollback h.vd then s.poolPlace h.vd h.areaSize none else none)
    (s.writeArea n v v).updSheaf n fun h => { h with ckpt := some v, ckptSeq := s.dev.seq }

def execSheafPlace (sheaf : Nat) (s : State) : Out3 := .next ((s.placeNew sheaf).firstImage sheaf)
def execGangStartSlot (sheaf : Nat) (s : State) : Out3 := .next ((s.gangStart sheaf).firstImage sheaf)

/-- Spelt has written the tile and grain blocks back: the sheaf runs (R292, step 5). -/
def State.restoreDone (s : State) (n : Nat) : State :=
  let h := s.sheafOf n
  let due := match h.speltDone with
    | some d => decide (d ≤ s.slot)
    | none => false
  if h.st ≠ .stopped ∨ h.stop ≠ .none ∨ !(s.grains.any fun e => e.1.1 == n) ∨ !due then s
  else
    let keep := s.spilledLeft n
    (s.updSheaf n fun h => { h with st := .running, speltDone := none, saved := if keep then h.saved else none }).firstImage n

def execSpeltRestoreDone (sheaf : Nat) (s : State) : Out3 := .next (s.restoreDone sheaf)

/-- Bytes of a save area, page by page: none where a page does not translate. `fuel` bounds the pages. -/
def State.areaRead (s : State) (vd : Nat) : (fuel va n : Nat) → Option (List Byte)
  | 0, _, n => if n = 0 then some [] else none
  | k + 1, va, n =>
    let m := min n (4096 - va % 4096)
    if n = 0 then some []
    else match (s.translate none vd (vaW va) .read).2 with
      | .error _ => none
      | .ok x => (s.areaRead vd k (va + m) (n - m)).map (s.devRead (s.key x.keyid) x.dpa m ++ ·)

/-- The record that an accumulator's tile block holds, where its CRC matches: the OWNER and whether it is PINNED, and the
elements. Where the sheaf has no area they are the saved contents themselves (R202; entry 35). A record whose first line holds
an uncorrectable error does not match (DESIGN CHOICE, entry 113). -/
def State.spillRecord (s : State) (vd : Nat) (v : Saved) (t : SavedTile) (a : Fin 64) (g : Nat) (pin : Bool) :
    Option (Nat × Bool × List Byte) :=
  if v.size = 0 then some (g, pin, Mem.read t.acc (a.val * 2 ^ 14) (2 ^ 14))
  else if s.lineBad vd (t.base + recordAt a) then none
  else
    (s.areaRead vd 6 (t.base + recordAt a) 16448).bind fun bs =>
      let w := word64 (bs.take 8)
      let es := bs.drop 64
      if ofBytes ((bs.drop 16).take 4) = crc32 es then some (bits w 59 48, bit w 63, es) else none

/-- Whether the head of a queue of a sheaf that runs, or that is being stopped with its queue still at work, needs a SPILLED
tile (R188). -/
def State.needsRestore (s : State) (tile : Nat) (a : Fin 64) : Bool :=
  match s.accState tile a with
  | .spilled sh _ _ => !(s.tileOf tile).accBad.contains a.val &&
      (s.grainsAtTile tile).any fun e => e.1.1 == sh && (s.mqGrain tile (e.2.core % 8)).isSome && (e.2.mq.head?.bind fun c => accName c.instr) == some a
  | _ => false

/-- The record of a SPILLED tile is written back into it, with the error markers saved with it; where the CRC does not match,
nothing is written and the tile stays SPILLED (R186, R202, R323). -/
def State.restoreAcc (s : State) (tile : Nat) (a : Fin 64) : State :=
  match s.accState tile a with
  | .spilled sh g pin =>
    let h := s.sheafOf sh
    match h.saved, h.saved.bind fun v => v.tiles.find? fun t => h.tile t.vtile == tile with
    | some v, some t =>
      match s.spillRecord h.vd v t a g pin with
      | none => (s.countError 7 (errAddr tile (a.val * 2 ^ 14))).updTile tile fun x => { x with accBad := a.val :: x.accBad }
      | some (g, pin, es) =>
        let lo := accAddr tile a 0 0
        let s := ({ s with accm := Mem.write (Mem.clear s.accm lo (2 ^ 14)) lo es } : State).cleanAcc fun w => w / 2 ^ 12 == lo / 2 ^ 14
        let all := (List.range (2 ^ 12)).map fun e => (t.vtile * 64 + a.val) * 2 ^ 12 + e
        let marks := (s.marksOf h v 4 all).map fun m => lo / 4 + m % 2 ^ 12
        let s := if marks = [] then s else s.updDev fun d => { d with poisonAcc := marks ++ d.poisonAcc }
        let s := s.setAcc tile a (if pin then .pinned sh g else .owned sh g)
        if s.spilledLeft sh then s else s.updSheaf sh fun h => { h with saved := none }
    | _, _ => s
  | _ => s

/-- A SPILLED tile that a queue's head needs is restored from the save area: Spelt takes it up in the order in which the
commands reached their heads, at its rate, in 17 slots where it is free (R188). -/
def State.tileRestore (s : State) (tile : Nat) (a : Fin 64) : State :=
  let off : State := s.updDev fun d => { d with restoreQ := Tab.del d.restoreQ (tile, a.val) }
  match Tab.find s.dev.restoreQ (tile, a.val), s.needsRestore tile a with
  | none, false => s
  | some _, false => off
  | none, true => s.updDev fun d => { d with restoreQ := Tab.put d.restoreQ (tile, a.val) (s.speltFree + 17) }
  | some due, true => if s.slot < due then s else off.restoreAcc tile a

def execTileRestore (tile : Nat) (acc : Fin 64) (s : State) : Out3 := .next (s.tileRestore tile acc)

/-! ### Checkpoints (R294 to R299) -/

/-- The image of a checkpoint becomes the sheaf's. In rollback mode its area is written but for the items that have changed
since the previous one, whose copies are pending (R297). -/
def State.keepImage (s : State) (n seq : Nat) : State :=
  let h := s.sheafOf n
  if s.rollback h.vd then
    let v := s.snapshot n (s.poolPlace h.vd h.areaSize ((h.ckpt.filter fun v => v.size != 0).map fun v => v.va))
    let old := h.ckpt.getD { v with slices := [], tiles := [] }
    let items := if v.size = 0 then [] else old.changed v
    (s.writeArea n v (old.mixed v items)).updSheaf n fun h => { h with
      ckpt := some v
      ckptSeq := seq
      ckptItems := items
      ckptAt := s.speltFree }
  else
    let v := s.snapshot n none
    s.updSheaf n fun h => { h with ckpt := some v, ckptSeq := seq }

/-- The checkpoint of a quiet sheaf is recorded: its moment, and in rollback mode its image; the sheaf goes on, and the
`chkpt` that asked for it receives its number. -/
def State.ckptRecorded (s : State) (n : Nat) : State :=
  let h := s.sheafOf n
  if h.st ≠ .stopped ∨ h.stop ≠ .checkpoint ∨ !s.quiet n then s
  else
    let by_ := h.ckptBy.getD ⟨n, 0, 0⟩
    let out := s.outOf by_
    let num := (out.map fun o => (o.caps.getD 0 0).toNat).getD 0
    let seq := s.dev.seq + 1
    let s := s.updDev fun d => { d with seq := seq }
    let s := s.updVd h.vd fun v => { v with moments := v.moments ++ [⟨seq, by_, num, s.slot, true⟩], logged := [] }
    let s := s.keepImage n seq
    let s := s.updSheaf n fun h => { h with st := .running, stop := .none, ckptBy := none }
    let s := s.updCtx by_ fun x => { x with needCkpt := false }
    match out with
    | some o => if o.stage = .past then s.finish by_ o.tag (BitVec.ofNat 64 num) else s
    | none => s

def execCheckpointRecorded (sheaf : Nat) (s : State) : Out3 := .next (s.ckptRecorded sheaf)

/-- The next 1,024 bytes of a checkpoint's marked items are copied into the area (R291, R297). -/
def State.copiesDone (s : State) (n : Nat) : State :=
  let h := s.sheafOf n
  if h.ckptItems = [] ∨ s.slot < h.ckptAt then s
  else
    let now := takeBytes 1024 h.ckptItems
    (s.copyItems n now).updSheaf n fun h => { h with ckptItems := h.ckptItems.drop now.length, ckptAt := s.slot + 1 }

def execCheckpointCopyDone (sheaf : Nat) (s : State) : Out3 := .next (s.copiesDone sheaf)

/-- An instruction that no log covers has completed: a checkpoint without a number follows (R299). -/
def State.plainCkpt (s : State) (c : CtxId) : State :=
  match s.ctx c with
  | none => s
  | some x =>
    let h := s.sheafOf c.sheaf
    if !x.needCkpt || x.out.isSome || !x.pend.isEmpty then s
    else if !s.rollback h.vd then s.updCtx c fun x => { x with needCkpt := false }
    else if h.st ≠ .running ∨ h.stop ≠ .none then s
    else s.updSheaf c.sheaf fun h => { h with stop := .checkpoint, stopAt := s.slot, ckptBy := some c }

def execUnnumberedCheckpoint (c : CtxId) (s : State) : Out3 := .next (s.plainCkpt c)

/-! ### Turns of a partition (R298, R359 to R361) -/

/-- Whether a virtual device of a partition has work (R360). -/
def State.hasWork (s : State) (p : Fin 8) (vd : Nat) : Bool :=
  bits (s.hyp vd rVDSCHED) 50 48 == p.val && s.sheaves.any fun e => e.2.vd == vd &&
    (e.2.st == .pending || e.2.st == .running || e.2.st == .stopped)

/-- Virtual devices in rotating order from one on. -/
def rotation (vd : Option Nat) : List Nat :=
  match vd with
  | none => List.range 32
  | some v => (List.range 32).map fun i => (v + 1 + i) % 32

/-- The virtual device that the next turn goes to; one of WEIGHT 0 only while no other has work (R360, R361). -/
def State.nextTenant (s : State) (p : Fin 8) (after : Option Nat) : Option Nat :=
  let l := (rotation after).filter fun v => s.hasWork p v
  (l.find? fun v => s.weight v != 0).or (l.head?)

/-- Whether another virtual device of the partition has work, and whether one of WEIGHT 1 or more has. -/
def State.competitor (s : State) (p : Fin 8) (vd : Nat) : Bool := (List.range 32).any fun v => v != vd && s.hasWork p v
def State.outweighed (s : State) (p : Fin 8) (vd : Nat) : Bool :=
  (List.range 32).any fun v => v != vd && s.hasWork p v && s.weight v != 0

/-- The end slot of a turn. -/
def Part.endSlot (p : Part) : Nat := p.turnStart + p.turnSlots

/-- Whether the slices of a virtual device are to end by save: its choice, unless they are shorter than the save. Without a
log they end by save in any case, at their end slot (R361). -/
def State.choosesSave (s : State) (vd : Nat) : Bool := bit (s.hyp vd rVDSCHED) 63 && !(s.vdOf vd).short
def State.endsBySave (s : State) (vd : Nat) : Bool := s.choosesSave vd || !s.logging vd

/-- Running sheaves that a slice end may stop: a checkpoint in progress comes first. -/
def State.endable (s : State) (vd : Nat) : List Nat :=
  (s.runningOf vd).filter fun n => match (s.sheafOf n).stop with
    | .none | .save | .migrate => true
    | _ => false

/-- Stops a virtual device's running sheaves for the end of its slice: by a save those that are to be saved and whose areas the
pool can hold, and, where it has come, by rollback the others (R286, R298). -/
def State.endSlice (s : State) (vd : Nat) (save roll : Bool) : State :=
  let fits : List Nat := (s.endable vd).foldl (fun l n => if (s.placeAreas (l ++ [n])).isSome then l ++ [n] else l) []
  (s.endable vd).foldl (fun s n =>
    let h := s.sheafOf n
    if save ∧ fits.contains n then s.updSheaf n fun h => { h with stop := .slice false, stopAt := s.slot }
    else if roll ∧ h.ckpt.isSome then s.updSheaf n fun h => { h with stop := .slice true, stopAt := s.slot }
    else s) (if save then s.takeAreas fits else s)

/-- Whether a write of a virtual device waits for log space: one that said so, one at its home, of a copy in a channel or of a
snapshot (R296). -/
def State.logWaits (s : State) (vd : Nat) : Bool :=
  (s.vdOf vd).logWait || (s.ctxs.any fun e => s.vdOfCtx e.1 == vd && e.2.out.any fun o =>
    (o.stage == .sent && (globalNeeds o.instr).isSome && s.homeWaits e.1 o) ||
    (isSnap o.instr && o.stage == .accepted && (List.range 64).any fun k =>
      s.logHeld vd [vaNat (cap o.caps 0 + BitVec.ofNat 64 (4096 * o.prog + 64 * k)) / 64])) ||
  s.tiles.any fun t => t.2.chans.toList.any fun c => match c.cmds with
    | e :: _ => s.vdOfCtx e.ctx == vd && e.started && match cpyArgs e.instr with
      | some a => a.kind == .l2g && decide (e.prog < e.lines) && s.copyHeld e a
      | none => false
    | [] => false

/-- The end slot of a turn, or of a slice of a virtual device with WEIGHT 0 once one of WEIGHT 1 or more has work; and a
write that would discard what the log keeps, which ends the slice at once by a save (R296, R298, R361). Inside the turn, a
new slice starts. -/
def State.sliceEnd (s : State) (p : Fin 8) : State :=
  let x := s.part p
  match x.turnVd with
  | none => s
  | some vd =>
    let ended := decide (x.endSlot ≤ s.slot)
    let least := s.weight vd == 0 && s.outweighed p vd
    let stop (save roll : Bool) : State := (s.endSlice vd save roll).updPart p fun x => { x with ending := true }
    if s.logWaits vd then stop true true
    else if (ended && s.competitor p vd) || least then stop (s.endsBySave vd) true
    else if x.ending then stop (s.endsBySave vd) ended
    else if x.turnStart + (x.slices + 1) * s.sliceLen vd ≤ s.slot then
      (s.updPart p fun x => { x with slices := x.slices + 1 }).noteShort vd
    else s

def execSliceEnd (part : Fin 8) (s : State) : Out3 := .next (s.sliceEnd part)

/-- At the end slot less the save time, running sheaves stop for a save; one whose area the pool cannot hold runs on to the end
slot (R286, R298). -/
def State.saveStart (s : State) (p : Fin 8) : State :=
  let x := s.part p
  match x.turnVd with
  | none => s
  | some vd =>
    if x.ending || !s.competitor p vd || !s.choosesSave vd || decide (s.slot + s.saveSum vd < x.endSlot) then s
    else (s.endSlice vd true false).updPart p fun x => { x with ending := true }

def execSaveStartTimer (part : Fin 8) (s : State) : Out3 := .next (s.saveStart part)

/-- Gives a partition's turn, less the slots that the virtual device's last save ran past its end (R360, R361). -/
def State.giveTurn (s : State) (p : Fin 8) (vd : Option Nat) : State :=
  let s' := s.updPart p fun x => { x with
    turnVd := vd
    lastVd := vd.or x.lastVd
    turnStart := s.slot
    turnSlots := match vd with
      | some v => max 1 (s.weight v) * s.sliceLen v - (s.vdOf v).owed
      | none => 0
    slices := 0
    ending := false }
  match vd with
  | some v => (s'.updVd v fun d => { d with owed := 0, logWait := false }).noteShort v
  | none => s'

/-- A save that a missing log has put at the end slot: the slots that it has run past the end are owed (R361). -/
def State.owe (s : State) (p : Fin 8) (vd : Nat) : State :=
  if s.choosesSave vd || s.logging vd then s
  else s.updVd vd fun v => { v with owed := s.slot - (s.part p).endSlot }

/-- The turn passes on: when its virtual device has no work, when its end has come and none of its sheaves holds
units, or, without a competitor, by renewal. A RESERVED sheaf is no work, and its grains have not started: it keeps its units and
holds up no turn (DESIGN CHOICE, entry 125). -/
def State.tenantTurn (s : State) (p : Fin 8) : State :=
  let x := s.part p
  if !x.en then s
  else match x.turnVd with
    | none =>
      match s.nextTenant p x.lastVd with
      | none => s
      | some v => s.giveTurn p (some v)
    | some vd =>
      let held := s.sheaves.any fun e => e.2.vd == vd && e.2.st != .reserved && s.occupies e.1 e.2
      if !s.hasWork p vd then s.giveTurn p (s.nextTenant p (some vd))
      else if x.ending then
        if held then s else (s.owe p vd).giveTurn p ((s.nextTenant p (some vd)).or (some vd))
      else if decide (x.endSlot ≤ s.slot) && !s.competitor p vd then s.giveTurn p (some vd)
      else s

def execTenantTurn (part : Fin 8) (s : State) : Out3 := .next (s.tenantTurn part)

/-! ### Age (R269) -/

/-- The age limit of a sheaf in slots. -/
def State.ageLimit (s : State) (h : Sheaf) : Nat :=
  let a := bits h.shape 63 48
  65536 * (if a = 0 then bits (s.ctl h.vd rVDMODE) 47 32 else a)

/-- Since when a sheaf's age counts. -/
def Sheaf.ageFrom (h : Sheaf) : Nat := if h.st = .stopped then h.stoppedAt else h.accepted

/-- Whether a cluster is free to take another's sheaf. -/
def State.clusterFree (s : State) (n c : Nat) : Bool :=
  !(s.sheaves.any fun e => e.1 != n && e.2.onCluster c) && !(s.sheafOf n).onCluster c

/-- Whether a sheaf holds PINNED or SPILLED accumulator tiles on a cluster and cannot move: no cluster is free for it (R269;
DEDUCED, entry 101). -/
def State.heldByAcc (s : State) (n c : Nat) : Bool :=
  ((List.range 4).any fun t => (List.finRange 64).any fun a => match s.accState (4 * c + t) a with
    | .pinned sh _ | .spilled sh _ _ => sh == n
    | _ => false) &&
  !((s.usable (s.sheafOf n).vd).any fun d => s.clusterFree n d)

/-- Whether what is left of a sheaf's target area is held only by accumulator entries of sheaves that cannot move. -/
def State.accBlocked (s : State) (n : Nat) (h : Sheaf) : Bool :=
  let fits (c : Nat × Nat) : Bool := (s.fitCluster n [] false c.2 c.1).isSome
  let remain := h.clusters.zipIdx.filter fun c => !fits c
  !remain.isEmpty && remain.all fun c => (s.others n []).all fun e => !e.2.onCluster c.1 || s.heldByAcc e.1 c.1


/-- The age of a waiting sheaf passes its limit: a target area is kept for it, running sheaves are asked to leave it,
and a block by accumulators is reported once. A waiting gang leader reports once (R270). -/
def State.ageStep (s : State) (n : Nat) : State :=
  let h := s.sheafOf n
  if decide (h.ageFrom + s.ageLimit h < s.slot) = false then s
  else if h.st = .reserved then
    if h.lead ∧ h.gangWaitPosted = false then
      (s.updSheaf n fun h => { h with gangWaitPosted := true }).postSheaf n 7 h.gidx 0
    else s
  else if !s.waitsPlace n h || !s.hasTurn h.vd then s
  else if h.clusters.isEmpty then
    let area := ((s.shelves h).filter fun c => !(s.sheaves.any fun e => e.1 != n && s.waitsPlace e.1 e.2 && e.2.onCluster c)).take
      h.vclusters
    if area.length < h.vclusters then s else s.updSheaf n fun h => { h with clusters := area }
  else
    let movers := s.sheaves.filter fun e => e.1 != n && e.2.st == .running && e.2.stop == .none && e.2.vd == h.vd &&
      e.2.clusters.any fun c => h.onCluster c
    let s := movers.foldl (fun s e => s.askStop e.1 .migrate) s
    if s.accBlocked n h ∧ h.blockedPosted = false then
      (s.updSheaf n fun h => { h with blockedPosted := true }).postSheaf n 3 0 0
    else s

def execAgeLimitExpiry (sheaf : Nat) (s : State) : Out3 := .next (s.ageStep sheaf)

/-- Moves the cells of a range of a memory. -/
def moveCells (m : Mem) (lo n tgt : Nat) : Mem :=
  (cellsIn m lo n tgt).foldl (fun m c => Mem.set m c.1 c.2) (Mem.clear (Mem.clear m lo n) tgt n)

/-- Moves one tile of a sheaf that stands still to another tile: its grains with their slices and commands, and the
units' contents where no other sheaf uses the tile. Its grains' counts of core cycles go on, as after a thermal move (R232, R269;
DEDUCED, entry 126). -/
def State.moveTile (s : State) (n a b : Nat) : State :=
  let ta := s.tileOf a
  let tb := s.tileOf b
  let alone := (s.others n []).all fun e => e.2.grainCores.all fun c => c / 8 != a
  let mine (x : AccState) : Bool := x.sheaf == some n
  let new : Tile := { (if alone then ta else ta.unitsReset).only [n] with
    vd := tb.vd
    acc := Vector.ofFn fun i : Fin 64 => if mine ta.acc[i] then ta.acc[i] else if mine tb.acc[i] then .free else tb.acc[i]
    duty := tb.duty
    ramp := tb.ramp
    l2 := tb.l2
    walk := tb.walk
    traceQ := tb.traceQ }
  let old : Tile := { (if alone then ta.unitsReset else ta).without n with
    acc := ta.acc.map fun x => if mine x then .free else x }
  let accs : Mem := (List.finRange 64).foldl (fun m (i : Fin 64) => if mine ta.acc[i] then moveCells m (accAddr a i 0 0) (2 ^ 14) (accAddr b i 0 0) else m) s.accm
  let goes (g : Grain) : Bool := g.core / 8 == a
  let goesTo (c : Nat) : Nat := 8 * b + c % 8
  let grain (e : (Nat × Nat) × Grain) : (Nat × Nat) × Grain :=
    if e.1.1 = n ∧ goes e.2 then (e.1, { e.2 with
      core := goesTo e.2.core
      cycle0 := e.2.cycle0 + (s.cycleOf (goesTo e.2.core / 4) : Int) - (s.cycleOf (e.2.core / 4) : Int)
      mq := e.2.mq.map MCmd.parked }) else e
  let ctx (e : CtxId × Ctx) : CtxId × Ctx :=
    if e.1.sheaf = n ∧ s.coreOfCtx e.1 / 8 = a then (e.1, e.2.again (s.cycleOf (goesTo (s.coreOfCtx e.1) / 4))) else e
  let is_ := (List.range 8).filter fun i => alone || (s.sheafOf n).grainCores.contains (8 * a + i)
  let slices (m : Mem) (w : Nat) : Mem := is_.foldl (fun m i => moveCells m ((8 * a + i) * w) w ((8 * b + i) * w)) m
  let s := { s with
    lmem := slices s.lmem (2 ^ 19)
    fe := slices s.fe (2 ^ 17)
    wbuf := if alone then moveCells s.wbuf (a * 2 ^ 19) (2 ^ 19) (b * 2 ^ 19) else s.wbuf
    accm := accs
    ctxs := s.ctxs.map ctx
    grains := s.grains.map grain }
  let s := (s.updTile a fun _ => old).updTile b fun _ => new
  is_.foldl (fun s i =>
    let c := s.coreOf (8 * a + i)
    s.updCore (8 * b + i) fun d => { d with bankpwr := c.bankpwr, waking := [], lastSheaf := some n }) s

/-- A sheaf at its boundary moves one virtual cluster to a free cluster; its circuits are placed again (R269, R342). -/
def State.migrate (s : State) (n vc target : Nat) : State :=
  let h := s.sheafOf n
  let from_ := h.clusters.getD vc 0
  if h.st ≠ .stopped ∨ h.stop ≠ .migrate ∨ h.clusters.length ≤ vc ∨ !s.quiet n ∨ !s.clusterFree n target ∨
      !(s.usable h.vd).contains target then s
  else
    let ts := (List.range 4).filter fun t => decide (4 * vc + t < h.vtiles)
    let s0 := s
    let moved (t : Nat) : Nat := if t / 4 = from_ then 4 * target + t % 4 else t
    let tiles := ts.map fun t => h.tile (4 * vc + t)
    let s := s.dropMem n tiles
    let s := tiles.foldl (fun s t => (s.serve h.vd (moved t)).moveTile n t (moved t)) s
    let s := s.updSheaf n fun h => { h with
      clusters := h.clusters.set vc target
      cores := h.cores.map fun c => 8 * moved (c / 8) + c % 8 }
    match s.placeMem h.vd (tiles.map moved) with
    | none => s0
    | some s =>
      h.circuits.foldl (fun s hd => match s.circuit hd with
        | none => s
        | some k =>
          let k' := { k with src := moved k.src, dst := if k.kind = .tile then moved k.dst else k.dst }
          if k' = k then s else ((s.idleEntries hd).placeCircuit k').getD s) s

/-- A sheaf that has nothing more to move goes on. -/
def State.migrated (s : State) (n : Nat) : State :=
  let h := s.sheafOf n
  let wanted (c : Nat) : Bool := s.sheaves.any fun e => e.1 != n && s.waitsPlace e.1 e.2 && e.2.onCluster c
  let room := (s.usable h.vd).any fun c => s.clusterFree n c
  if h.st = .stopped ∧ h.stop = .migrate ∧ s.quiet n ∧ !(h.clusters.any wanted && room) then
    s.updSheaf n fun h => { h with st := .running, stop := .none }
  else s

def execSheafMigrate (sheaf vc target : Nat) (s : State) : Out3 := .next ((s.migrate sheaf vc target).migrated sheaf)

/-! ### Thermal moves (R293) -/

/-- Whether a matrix or engine command has a range in a core's slice. -/
def State.sliceBusy (s : State) (core : Nat) : Bool :=
  (s.scoreboard (core / 8)).any fun e => e.2.2.1 / 2 ^ 19 == core || (e.2.2.1 + max 1 e.2.2.2 - 1) / 2 ^ 19 == core

/-- Bytes that a thermal move copies: the saved part of the slice, one full/empty bit for each of its words, BANKPWR, and the
core state in the sizes of the save area: rings, mailbox, matrix queue, MQWT (R288, R293; DESIGN CHOICE, entry 112). -/
def moveBytes (h : Sheaf) (g : Grain) : Nat := h.spadk * 1024 + h.spadk * 32 + 64 + 256 + 16 * g.mailbox.length + 64 * g.mq.length + 8

/-- A thermal move goes on: once nothing uses the slice the copy starts, at 64 bytes per core cycle, and at its end the
core table names the new core. -/
def State.moveStep (s : State) (core : Nat) : State :=
  match (s.coreOf core).moveTo, s.holder core with
  | some (tgt, 0), some e =>
    let quiet := (s.ctxsOf e.1.1 e.1.2).all (fun x => x.2.out.isNone && x.2.pend.isEmpty) &&
      (s.quadOf (core / 4)).vops.all (fun v => !(v.ctx.sheaf == e.1.1 && v.ctx.grain == e.1.2))
    let line (u : ULine) : Bool := u.by_.any fun c => c.sheaf == e.1.1 && c.grain == e.1.2
    if s.quads.any fun q => q.2.ulines.any line then s.flushWhen (s.sheafOf e.1.1).vd fun _ u => line u
    else if s.sliceBusy core || !quiet then s
    else
      let due := s.cycleOf (core / 4) + ceilDiv (moveBytes (s.sheafOf e.1.1) e.2) 64
      s.updCore core fun c => { c with moveTo := some (tgt, due) }
  | some (tgt, due), some e =>
    if s.cycleOf (core / 4) < due then s
    else
      let h := s.sheafOf e.1.1
      let n := 1024 * h.spadk
      let c := s.coreOf core
      let lm := (cellsIn s.lmem (core * 2 ^ 19) n (tgt * 2 ^ 19)).foldl (fun m x => Mem.set m x.1 x.2)
        (Mem.clear (Mem.clear s.lmem (core * 2 ^ 19) (2 ^ 19)) (tgt * 2 ^ 19) (2 ^ 19))
      let fe := (cellsIn s.fe (core * 2 ^ 17) (256 * h.spadk) (tgt * 2 ^ 17)).foldl (fun m x => Mem.set m x.1 x.2)
        (Mem.clear (Mem.clear s.fe (core * 2 ^ 17) (2 ^ 17)) (tgt * 2 ^ 17) (2 ^ 17))
      let s := { s with lmem := lm, fe := fe }
      let now := s.cycleOf (tgt / 4)
      let again (x : CtxId × Ctx) : CtxId × Ctx := if x.1.sheaf = e.1.1 ∧ x.1.grain = e.1.2 then
          (x.1, x.2.again now) else x
      let s := { s with ctxs := s.ctxs.map again }
      let s := s.updGrainOf ⟨e.1.1, e.1.2, 0⟩ fun g => { g with
        core := tgt
        moving := false
        cycle0 := g.cycle0 + (now : Int) - (s.cycleOf (core / 4) : Int) }
      let s := (s.updCore core fun c => { c with moveTo := none }).updCore tgt fun d =>
        { d with bankpwr := c.bankpwr, waking := c.waking, lastSheaf := c.lastSheaf }
      let swap (x : Nat) : Nat := if x = core then tgt else if x = tgt then core else x
      { s with sheaves := s.sheaves.map fun e => (e.1, { e.2 with cores := e.2.cores.map swap }) }
  | _, _ => s

def execThermalMoveDone (core : Nat) (s : State) : Out3 := .next (s.moveStep core)

end Sys2Proof.Machine
end

