-- ==== Sys2Proof/Machine/Sched.lean ====
section
/-! DEFINITION. What acts on waiting contexts: deadlock detection (10 R275), the batches of a deterministic sheaf (R278)
and the host's resumption of a stopped context (R274; 11 R283). -/

namespace Sys2Proof.Machine

/-! ### Trying a waiting instruction again (R122) -/

/-- The meaning of an instruction that can wait at issue for another party; any other is left alone. -/
def retry (i : Instr) (s : State) : Out3 :=
  match i with
  | .ld h m sz u a => execLd h m sz u a s
  | .st h m sz r b => execSt h m sz r b s
  | .ldsync h m => execLdsync h m s
  | .ldsyncC h m => execLdsyncC h m s
  | .setempty h m => execSetempty h m s
  | .stfull h m b => execStfull h m b s
  | .amoSwap h x => execAmoSwap h x s
  | .amoCas h x c => execAmoCas h x c s
  | .amoAdd h x => execAmoAdd h x s
  | .amoFadd h x => execAmoFadd h x s
  | .amoMin h x => execAmoMin h x s
  | .amoMax h x => execAmoMax h x s
  | .amoAnd h x => execAmoAnd h x s
  | .amoOr h x => execAmoOr h x s
  | .amoXor h x => execAmoXor h x s
  | .barArv h l => execBarArv h l s
  | .barSync h l => execBarSync h l s
  | .barWait h t l => execBarWait h t l s
  | .rdvPut h a b => execRdvPut h a b s
  | .rdvGet h a => execRdvGet h a s
  | .rqput h p d l => execRqput h p d l s
  | .rqtake h p q => execRqtake h p q s
  | .hjoin h n => execHjoin h n s
  | .wpwait h c a => execWpwait h c a s
  | .launch h r => execLaunch h r s
  | .vadd h v => execVadd h v s
  | .vsub h v => execVsub h v s
  | .vmul h v => execVmul h v s
  | .vfma h v => execVfma h v s
  | .vfms h v => execVfms h v s
  | .vmin h v => execVmin h v s
  | .vmax h v => execVmax h v s
  | .vabs h v => execVabs h v s
  | .vneg h v => execVneg h v s
  | .vexp2 h v => execVexp2 h v s
  | .vlog2 h v => execVlog2 h v s
  | .vrcp h v => execVrcp h v s
  | .vrsq h v => execVrsq h v s
  | .vcvt h v => execVcvt h v s
  | .vand h v => execVand h v s
  | .vor h v => execVor h v s
  | .vxor h v => execVxor h v s
  | .vshl h v => execVshl h v s
  | .vshr h v => execVshr h v s
  | .vsra h v => execVsra h v s
  | .vcmp h v => execVcmp h v s
  | .vsel h v => execVsel h v s
  | .vbcast h v => execVbcast h v s
  | .vmov h v => execVmov h v s
  | .vperm h v => execVperm h v s
  | .vredadd h v => execVredadd h v s
  | .vredmax h v => execVredmax h v s
  | .vredmin h v => execVredmin h v s
  | .vscan h v => execVscan h v s
  | .vgath h v => execVgath h v s
  | .vscat h v => execVscat h v s
  | .mwld h m => execMwld h m s
  | .mwldImg h a m => execMwldImg h a m s
  | .mma h m => execMma h m s
  | .mmaSp h m => execMmaSp h m s
  | .maccRd h m => execMaccRd h m s
  | .maccWr h m => execMaccWr h m s
  | .deltaUpd h m => execDeltaUpd h m s
  | .deltaChunk h m => execDeltaChunk h m s
  | .deltaQry h m => execDeltaQry h m s
  | .cpy h a b c e => execCpy h a b c e s
  | .cpy2d h a b c d e => execCpy2d h a b c d e s
  | .coll h a b c e => execColl h a b c e s
  | .gath h a b c d e => execGath h a b c d e s
  | _ => .next s

/-- Whether a context would still wait for another party if it tried its instruction now. -/
def State.stuck (s : State) (c : CtxId) : Bool :=
  let s := s.updCtx c fun x => { x with wait := match x.wait with
    | .task | .parked _ => .granted
    | w => w }
  match s.prepare c with
  | (t, .instr i) =>
    match retry i t with
    | .next t => match (t.ctx c).map (fun x : Ctx => x.wait) with
      | some (.parked k) => k != 0
      | _ => false
    | _ => false
  | _ => false

/-- The DETAIL of DEADLOCK for a context that is parked for good (R275). -/
def State.parkedFor (s : State) (c : CtxId) (x : Ctx) : Option Nat :=
  if x.hostStop then none
  else match x.wait with
    | .parked k => if s.stuck c then some k else none
    | .task => if s.stuck c then some 8 else none
    | _ => if x.behindSync then some 4 else none

/-! ### Deadlock (R275) -/

/-- One round of the closure of a set of running sheaves under sharing a cluster. -/
def State.grow (s : State) (ns : List Nat) : List Nat :=
  (s.sheaves.filter fun e => e.2.st == .running && (ns.contains e.1 ||
    ns.any fun n => e.2.clusters.any fun c => (s.sheafOf n).onCluster c)).map Prod.fst

def State.closure (s : State) (ns : List Nat) : Nat → List Nat
  | 0 => ns
  | k + 1 => s.closure (s.grow ns) k

/-- The group of a running sheaf. -/
def State.groupOf (s : State) (n : Nat) : List Nat := s.closure (s.grow [n]) s.sheaves.length

/-- Whether something of a group is still moving, or a host wake is armed for it. -/
def State.groupBusy (s : State) (g : List Nat) : Bool :=
  let mine (n : Nat) : Bool := g.contains n
  let tiles := g.flatMap fun n => (s.sheafOf n).tiles
  (s.grains.any fun e => mine e.1.1 && !e.2.mq.isEmpty) ||
  (s.tiles.any fun t => t.2.cmds.any fun c => mine c.ctx.sheaf && !s.recordedCmd c) ||
  (s.dev.circuits.any fun k => (match k.sheaf with
    | some n => mine n
    | none => false) && !k.flits.isEmpty) ||
  (s.ctxs.any fun e => mine e.1.sheaf && e.2.out.any fun o => isRqput o.instr || Instr.isEngine o.instr) ||
  (tiles.any fun t => !(s.tileOf t).fires.isEmpty) ||
  g.any fun n => bit (s.ctl (s.sheafOf n).vd rHWAKE) 0

/-- Every parked context of the group takes DEADLOCK at the instruction that it waits on; a `bar.sync` that it waits
behind is recorded. One event is posted for each sheaf. Nothing happens unless the whole group is parked. -/
def State.deadlock (s : State) (n : Nat) : State :=
  if (s.sheafOf n).st ≠ .running then s
  else
    let g := s.groupOf n
    let cs := s.ctxs.filter fun e => g.contains e.1.sheaf
    let ds := cs.map fun e => (e.1, e.2.pc, s.parkedFor e.1 e.2)
    if cs.isEmpty || ds.any (fun d => d.2.2.isNone) || s.groupBusy g then s
    else
      let s := g.foldl (fun s m => s.updSheaf m fun h => { h with tasks := h.tasks.filter fun r => r.ends }) s
      let s := ds.foldl (fun s d => s.takeTrap d.1 ⟨Cause.deadlock, d.2.2.getD 0, 0, true, false, 0⟩ d.2.1) s
      g.foldl (fun s m => s.postSheaf m 2 (min 255 ((ds.filter fun d => d.1.sheaf == m).length)) 0) s

def execDeadlockDetect (sheaf : Nat) (s : State) : Out3 := .next (s.deadlock sheaf)

/-! ### Batches (R278) -/

/-- The order key of a request. -/
def TaskReq.key (r : TaskReq) : List Nat := [r.grain, r.ctx, r.lcnt]

def insertReq (r : TaskReq) : List TaskReq → List TaskReq
  | [] => [r]
  | x :: xs => if lexLt r.key x.key then r :: x :: xs else x :: insertReq r xs

/-- Whether a context of the sheaf lets batch q be served. -/
def State.settled (s : State) (c : CtxId) (x : Ctx) (q : Nat) : Bool :=
  decide (q < s.quantumOf c) || x.wait == .task || x.hostStop || x.behindSync ||
    match x.wait with
    | .parked _ => s.stuck c
    | _ => false

/-- Whether a request of a batch can be served: its context exists and nothing but its batch holds it, or it has ended. -/
def State.canServe (s : State) (n : Nat) (r : TaskReq) : Bool :=
  r.ends || match s.ctx ⟨n, r.grain, r.ctx⟩ with
    | none => true
    | some x => s.live ⟨n, r.grain, r.ctx⟩ x && s.mayIssue ⟨n, r.grain, r.ctx⟩ { x with wait := .granted }

/-- Whether batch q of a sheaf is served now: its contexts are settled, and the commands of quanta up to q complete. Batches
are served in different slots (DESIGN CHOICE, entry 100). -/
def State.batchReady (s : State) (n q : Nat) : Bool :=
  (s.sheafOf n).det && (s.sheafOf n).st == .running && (s.sheafOf n).servedAt != some s.slot &&
  (s.sheafOf n).tasks.any (fun r => r.q == q) && (s.sheafOf n).tasks.all (fun r => decide (q ≤ r.q)) &&
  (s.ctxs.all fun e => e.1.sheaf != n || s.settled e.1 e.2 q) &&
  (s.sheafOf n).tasks.all (fun r => r.q != q || s.canServe n r) &&
  (s.grains.all fun e => e.1.1 != n || e.2.mq.all fun c => decide (q < c.q)) &&
  (s.ctxs.all fun e => e.1.sheaf != n || !(e.2.out.any fun o => Instr.isEngine o.instr && decide (o.quantum ≤ q))) &&
  s.tiles.all fun t => t.2.cmds.all fun c => c.ctx.sheaf != n || decide (q < c.q) || s.recordedCmd c

/-- A `launch` of a batch is entered with its result in its place among the requests: its record is read and checked, and
it enters its queue (R221, R278). -/
def State.enterLaunch (s : State) (c : CtxId) (i : Instr) : State :=
  if isLaunch i then (s.launchStep c).launchStep c else s

/-- Whether a request could not complete: it waits still, or its `launch` finds its queue full. -/
def State.requestLeft (s : State) (c : CtxId) : Bool :=
  match s.ctx c with
  | none => false
  | some x => (match x.wait with
      | .parked _ | .stalled | .granted => true
      | _ => false) || x.out.any fun o => isLaunch o.instr && o.stage == .answered

/-- Serves one request: it takes its effect, or moves to the next batch with the same key, without having issued. The end of
a holder releases its mutexes in its place among the requests (R146). -/
def State.serveReq (s : State) (n : Nat) (r : TaskReq) : State :=
  let c : CtxId := ⟨n, r.grain, r.ctx⟩
  let s := s.updSheaf n fun h => { h with tasks := h.tasks.filter fun x => x != r }
  if r.ends then s.freeMutexes c
  else match s.ctx c with
  | none => s
  | some _ =>
    let g := s.updCtx c fun x => { x with wait := .granted }
    let t := match g.prepare c with
      | (t, .instr i) => match retry i t with
        | .next u => (t.conclude c i u).enterLaunch c i
        | _ => t
      | (t, _) => t
    if t.requestLeft c then s.updSheaf n fun h => { h with tasks := h.tasks ++ [{ r with q := r.q + 1 }] }
    else { t with cur := s.cur }

def State.serveBatch (s : State) (n q : Nat) : State :=
  if !s.batchReady n q then s
  else
    let rs := ((s.sheafOf n).tasks.filter fun r => r.q == q).foldl (fun l r => insertReq r l) []
    rs.foldl (fun s r => s.serveReq n r) (s.updSheaf n fun h => { h with servedAt := some s.slot })

def execBatchServe (sheaf q : Nat) (s : State) : Out3 := .next (s.serveBatch sheaf q)

/-! ### Grains that share a core (R276) -/

/-- Whether a context has done what it can before Spelt switches its grain out: it is past the quantum, or waits. -/
def Ctx.shelved (s : State) (c : CtxId) (x : Ctx) : Bool :=
  decide ((s.sheafOf c.sheaf).shelfQ < s.quantumOf c) || x.hostStop || x.behindSync || match x.wait with
    | .none | .stalled => false
    | _ => true

/-- At the end of a logical quantum Spelt switches the cores of a folded sheaf to their next grains: it saves the slices
and core states of the one set and restores those of the other at its shared rate (R291; DESIGN CHOICE, entry 24). The
next quantum starts when every set has had its turn. -/
def State.shelfStep (s : State) (n : Nat) : State :=
  let h := s.sheafOf n
  if h.st ≠ .running ∨ !h.folded ∨ s.slot < h.shelfAt ∨
      (s.ctxs.any fun e => e.1.sheaf == n && s.coreOfCtx e.1 / 3072 == h.shelf && !Ctx.shelved s e.1 e.2) then s
  else if s.combineHeld (fun _ u => lineOf n u) then s.waitLog h.vd
  else
    let count := ceilDiv h.vclusters (max 1 (s.usable h.vd).length)
    let k := (h.shelf + 1) % count
    -- the switch is a full fence of scope `.sys` for the contexts that it moves (R256)
    let moves (c : CtxId) : Bool := c.sheaf == n && (s.coreOfCtx c / 3072 == h.shelf || s.coreOfCtx c / 3072 == k)
    let s := s.flushU fun _ u => u.by_.any moves
    let s : State := { s with ctxs := s.ctxs.map fun e => if moves e.1 then (e.1, { e.2 with fence := true, fenceWide := true }) else e }
    let bytes := 2 * ((s.grains.filter fun e => e.1.1 == n && e.2.core / 3072 == k).map fun e => moveBytes h e.2).sum
    s.updSheaf n fun h => { h with
      shelf := k
      shelfQ := if k = 0 then h.shelfQ + 1 else h.shelfQ
      shelfAt := s.speltFree + 1 + ceilDiv bytes 1024 }

/-! ### SVCRES (R227, R274, R283) -/

/-- A context that the host resumes: at TRAPPC, and after an unhandled trap out of handler mode. -/
def Ctx.hostResume (x : Ctx) : Ctx :=
  { x with
    hostStop := false
    handler := if bits x.trapcause 7 0 = Cause.svc then x.handler else false
    pc := codeAddr x.trappc }

/-- Whether the host may resume a context. -/
def Ctx.awaitsHost (x : Ctx) : Bool := x.hostStop && !x.dead

/-- A write of SVCRES; a context of a stopped sheaf is resumed in its save area. -/
def State.svcres (s : State) (vd : Nat) (v : W64) : State :=
  match s.sheaves.find? fun e => e.2.vd == vd && e.2.sheafid == bits v 47 0 && e.2.st != .retired with
  | none => s
  | some (n, _) =>
    let c : CtxId := ⟨n, bits v 59 48, bits v 63 60⟩
    let go (x : Ctx) : Ctx := if x.awaitsHost then x.hostResume else x
    let s := s.updCtx c go
    s.updSheaf n fun h => { h with saved := h.saved.map fun d => { d with ctxs := Tab.upd d.ctxs c go } }

def execSvcresWrite (vd : Nat) (v : W64) (s : State) : Out3 := .next (s.svcres vd v)

end Sys2Proof.Machine
end

