-- ==== Sys2Proof/Machine/Power.lean ====
section
/-! DEFINITION. Operating points (14 R349 to R351), the registers of the partitions and of the virtual devices'
slices (R356, R359), the thermal limit with the start of a thermal move (R357, 11 R293), and the power cap (R358). -/

namespace Sys2Proof.Machine

/-! ### Operating points (R349 to R351) -/

/-- The supply of each point in millivolts, and its clock in MHz. -/
def pointMv : List Nat := [400, 430, 460, 480, 500, 540, 580, 620]
def pointMHz : List Nat := [350, 600, 900, 1200, 1500, 1650, 1800, 1900]

/-- The supply that a quad needs at a point, with its guard (R371). -/
def supplyAt (k guard : Nat) : Nat := pointMv.getD k 620 + guard

/-- A core's request: 0 without a placed grain. -/
def State.coreReq (s : State) (core : Nat) : Nat :=
  match s.grainAt core with
  | some e => e.2.pwrReq
  | none => 0

def State.quadReq (s : State) (quad : Nat) : Nat :=
  (List.range 4).foldl (fun m i => max m (s.coreReq (4 * quad + i))) 0

/-- The point that a quad is to run at. -/
def State.wantPoint (s : State) (quad : Nat) : Nat :=
  min (s.quadReq quad) (min (s.quadOf quad).thermCeil (s.quadOf quad).capCeil)

/-- Slots of a supply ramp: 5 mV in 2,000 slots. -/
def rampSlots (a b : Nat) : Nat := (max a b - min a b) * 400

/-- A transition to a point begins: its direction sets the order of the ramp and the switch. A guard that waits
takes effect with it (R371). -/
def Quad.begin_ (q : Quad) (slot target : Nat) : Quad :=
  let goal := supplyAt target q.newGuard
  let raise := decide (q.point < target) || (q.point == target && decide (q.supply < goal))
  { q with
    target := target
    guard := q.newGuard
    phase := if raise then 1 else 2
    phaseEnd := if raise then slot + rampSlots q.supply goal else slot + 256 }

/-- A transition begins when none is in progress and the point to run at differs. -/
def State.beginTransition (s : State) (quad : Nat) : State :=
  let q := s.quadOf quad
  if q.phase ≠ 0 ∨ s.wantPoint quad = q.point then s
  else s.updQuad quad fun q => q.begin_ s.slot (s.wantPoint quad)

def execPointTransition (quad : Nat) (s : State) : Out3 := .next (s.beginTransition quad)

/-- The supply has reached its target: the switch starts when raising, the transition ends when lowering. -/
def State.rampDone (s : State) (quad : Nat) : State :=
  let q := s.quadOf quad
  if s.slot < q.phaseEnd then s
  else if q.phase = 1 then
    s.updQuad quad fun q => { q with supply := supplyAt q.target q.guard, phase := 2, phaseEnd := s.slot + 256 }
  else if q.phase = 3 then
    s.updQuad quad fun q => { q with supply := supplyAt q.target q.guard, phase := 0 }
  else s

def execSupplyRampDone (quad : Nat) (s : State) : Out3 := .next (s.rampDone quad)

/-- The clock has switched: the quad issues again. A supply that is not yet at its target ramps. -/
def State.switchDone (s : State) (quad : Nat) : State :=
  let q := s.quadOf quad
  let goal := supplyAt q.target q.guard
  if q.phase ≠ 2 ∨ s.slot < q.phaseEnd then s
  else s.updQuad quad fun q => { q with
    point := q.target
    phase := if q.supply = goal then 0 else 3
    phaseEnd := s.slot + rampSlots q.supply goal }

def execPointTransitionDone (quad : Nat) (s : State) : Out3 := .next (s.switchDone quad)

/-! ### Partitions and slices (R356, R359) -/

/-- The partition of a virtual device by number. -/
def State.partNo (s : State) (vd : Nat) : Nat := bits (s.hyp vd rVDSCHED) 50 48

/-- The placement test for every virtual device of a partition (R262). -/
def State.retestPart (s : State) (n : Fin 8) : State :=
  (List.range 32).foldl (fun s vd => if s.partNo vd = n.val then s.retestVd vd else s) s

/-- Whether two partitions share a cluster. -/
def Part.overlaps (a b : Part) : Bool :=
  a.clus0 &&& b.clus0 != 0 || a.clus1 &&& b.clus1 != 0

/-- A write of PTCTLn: enabling is ignored while a cluster belongs to another enabled partition; a SLEW of 0 keeps
the field. -/
def State.writePtctl (s : State) (n : Fin 8) (v : W64) : State :=
  let p := s.part n
  let clash := (List.finRange 8).any fun m => m != n && (s.part m).en && (s.part m).overlaps p
  if bit v 63 && clash then s
  else
    let m := maskBits 63 63 ||| maskBits 47 32
    let w := (v &&& m) ||| (if bits v 15 8 = 0 then p.ctl &&& maskBits 15 8 else v &&& maskBits 15 8)
    let s := s.updPart n fun p => { p with ctl := w }
    if bit v 63 = p.en then s else s.retestPart n

def execPtctlWrite (n : Fin 8) (v : W64) (s : State) : Out3 := .next (s.writePtctl n v)

/-- A write of PTCLUS0n or PTCLUS1n: ignored while the partition is enabled. -/
def State.writePtclus (s : State) (n : Fin 8) (second : Bool) (v : W64) : State :=
  if (s.part n).en then s
  else (s.updPart n fun p => if second then { p with clus1 := v &&& maskBits 31 0 } else { p with clus0 := v }).retestPart n

/-- Whether a ramp table is valid: entries of at most 8 that do not decrease, the last not 0. -/
def rampOk (v : W64) : Bool :=
  (List.range 8).all (fun i => decide (rampEntry v i ≤ 8)) &&
    (List.range 7).all (fun i => decide (rampEntry v i ≤ rampEntry v (i + 1))) && rampEntry v 7 != 0

def State.writePtramp (s : State) (n : Fin 8) (v : W64) : State :=
  if rampOk v then s.updPart n fun p => { p with ramp := v &&& maskBits 31 0 } else s

def execPtrampWrite (n : Fin 8) (v : W64) (s : State) : Out3 := .next (s.writePtramp n v)

/-- Whether a virtual device has a sheaf that runs or is stopped. -/
def State.hasPlaced (s : State) (vd : Nat) : Bool :=
  s.sheaves.any fun e => e.2.vd == vd && (e.2.st == .running || e.2.st == .stopped)

/-- A write of VDSCHED, which may be refused as a whole. -/
def State.writeVdsched (s : State) (vd : Nat) (v : W64) : State :=
  let old := s.hyp vd rVDSCHED
  let moves := bits v 50 48 != bits old 50 48
  if bits v 31 0 = 0 ∨ (moves ∧ s.hasPlaced vd) then s.setHyp vd rVDSCHED (old ||| maskBits 62 62)
  else
    let m := maskBits 63 63 ||| maskBits 50 48 ||| maskBits 39 0
    let s := s.setHyp vd rVDSCHED (RegSpec.write ⟨rVDSCHED, 0, m, maskBits 62 62⟩ old v)
    if moves then s.retestVd vd else s

def execVdschedWrite (vd : Nat) (v : W64) (s : State) : Out3 := .next (s.writeVdsched vd v)

/-! ### Thermal limits (R357, R293) -/

/-- Whether a core is idle: no grain is on it and none is being moved to it. -/
def State.coreIdle (s : State) (core : Nat) : Bool :=
  (s.grainAt core).isNone && s.cores.all fun e => e.2.moveTo.all fun m => m.1 != core

/-- The idle core that a hot grain goes to: of its quad, or else of the other quad of its tile. -/
def State.idleFor (s : State) (core : Nat) : Option Nat :=
  let quad (q : Nat) : List Nat := (List.range 4).map fun i => 4 * q + i
  let q := core / 4
  (quad q ++ quad (q / 2 * 2 + (1 - q % 2))).find? s.coreIdle

/-- A thermal move begins: the grain's contexts stop, as a fence of scope `.sys` (R256, R293). -/
def State.startMove (s : State) (core target : Nat) (key : Nat × Nat) : State :=
  let s := (s.ctxsOf key.1 key.2).foldl (fun s e => s.stopCtx e.1) s
  let s := s.flushWhen (s.sheafOf key.1).vd fun q _ => q == core / 4
  let s := s.updGrainOf ⟨key.1, key.2, 0⟩ fun g => { g with moving := true }
  s.updCore core fun c => { c with moveTo := some (target, 0) }

def State.limit (s : State) : Nat := bits (s.mg rTHERMLIM) 7 0

/-- What a core above the limit brings about: a move, or one point less for its quad, once in a sample. -/
def State.hotCore (s : State) (before : State) (core : Nat) : State :=
  match s.grainAt core with
  | none => s
  | some e =>
    if e.2.moving then s
    else match s.idleFor core with
      | some t => s.startMove core t e.1
      | none =>
        let quad := core / 4
        if (s.quadOf quad).thermCeil < (before.quadOf quad).thermCeil then s
        else s.updQuad quad fun q => { q with thermCeil := q.thermCeil - 1 }

/-- A sample of the cores' temperatures, every 10 µs. Above 125 °C every clock stops. -/
def State.thermal (s : State) (temps : List (Nat × Nat)) : State :=
  if s.slot < s.dev.lastTherm + 20000 then s
  else
    let s := s.updDev fun d => { d with lastTherm := s.slot }
    if temps.any fun t => decide (125 < t.2) then s.updDev fun d => { d with halted := true }
    else
      let lim := s.limit
      let cool (quad : Nat) : Bool := (List.range 4).all fun i =>
        match Tab.find temps (4 * quad + i) with
        | some t => decide (t + 5 ≤ lim)
        | none => false
      let s := s.quads.foldl (fun s e =>
        if cool e.1 ∧ e.2.thermCeil < 7 then s.updQuad e.1 fun q => { q with thermCeil := q.thermCeil + 1 } else s) s
      (temps.filter fun t => decide (lim < t.2)).foldl (fun s' t => s'.hotCore s t.1) s

def execThermalSample (temps : List (Nat × Nat)) (s : State) : Out3 := .next (s.thermal temps)

/-- The value that a write of THERMLIM takes. -/
def limitTaken (v : Nat) : Nat := max 70 (min v (if Config.module_ then 100 else 110))

def execThermlimWrite (v : W64) (s : State) : Out3 :=
  .next (s.setMg rTHERMLIM (BitVec.ofNat 64 (limitTaken (bits v 7 0))))

/-! ### The power cap (R358) -/

/-- The value that a write of PWRCAP takes. -/
def capTaken (v : Nat) : Nat := min v (if Config.module_ then 1800 else 2000)

def execPwrcapWrite (v : W64) (s : State) : Out3 :=
  .next (s.setMg rPWRCAP (BitVec.ofNat 64 (capTaken (bits v 15 0))))

/-- A window of 1 ms closes: the averages of the package and of the partitions. -/
def State.closeWindow (s : State) (watts : Nat) (parts : List Nat) : State :=
  if s.slot < s.dev.lastAvg + 2000000 then s
  else (s.updDev fun d => { d with lastAvg := s.slot, partAvg := parts }).setMg rPWRSTAT
    (BitVec.ofNat 64 (watts % 2 ^ 16 * 2 ^ 32))

def execPowerWindow (watts : Nat) (parts : List Nat) (s : State) : Out3 := .next (s.closeWindow watts parts)

/-- Whether a partition's average exceeds its share. -/
def State.overShare (s : State) (n : Fin 8) : Bool :=
  let p := s.part n
  p.en && bits p.ctl 47 32 != 0 && decide (bits p.ctl 47 32 < s.dev.partAvg.getD n.val 0)

/-- The quads of the clusters of enabled partitions that a test picks. -/
def State.quadsIn (s : State) (p : Fin 8 → Bool) : List Nat :=
  (List.range 768 ++ (s.quads.map Prod.fst).filter (768 ≤ ·)).filter fun q => (s.partOf (q / 8)).any fun n => p n

/-- Takes one point from the cap ceiling of the quads at the highest effective point of a list. -/
def State.lowerTop (s : State) (qs : List Nat) : State :=
  let top := qs.foldl (fun m q => max m (s.wantPoint q)) 0
  (qs.filter fun q => s.wantPoint q == top).foldl (fun s q =>
    s.updQuad q fun q => { q with capCeil := q.capCeil - 1 }) s

/-- Adjusts the cap ceilings, every 100 µs. -/
def State.capAdjust (s : State) : State :=
  if s.slot < s.dev.lastCap + 200000 then s
  else
    let s := s.updDev fun d => { d with lastCap := s.slot }
    let avg := bits (s.mg rPWRSTAT) 47 32
    let cap := bits (s.mg rPWRCAP) 15 0
    let excess := (List.finRange 8).filter s.overShare
    let raised := decide (cap = 0) || decide (avg * 100 < cap * 95)
    let s' := excess.foldl (fun t n => t.lowerTop (s.quadsIn fun m => m == n)) s
    let s' := if excess.isEmpty ∧ cap ≠ 0 ∧ cap < avg then s'.lowerTop (s.quadsIn fun _ => true) else s'
    if raised then
      s.quads.foldl (fun t e =>
        if (s.partOf (e.1 / 8)).any (fun n => excess.contains n) then t
        else t.updQuad e.1 fun q => { q with capCeil := min q.top (q.capCeil + 1) }) s'
    else s'

def execPowerCapAdjust (s : State) : Out3 := .next s.capAdjust

end Sys2Proof.Machine
end

