-- ==== Sys2Proof/Machine/Hostlink.lean ====
section
/-! DEFINITION. The host's side of global memory (12 R312 to R326): invalidations, page tables, page moves, page
requests and ATS, keys, the signal window, and the reset of a virtual device with its zeroing pass (R321, 14 R363). -/

namespace Sys2Proof.Machine

/-! ### Invalidation (R312) -/

/-- Bytes of a SIZE code (R326). -/
def invalBytes (code : Nat) : Nat :=
  match code with
  | 0 => 2 ^ 12
  | 1 => 2 ^ 16
  | 2 => 2 ^ 21
  | 3 => 2 ^ 30
  | _ => 2 ^ 34

/-- The range of an invalidation: first address and bytes. -/
def invalRange (w : W64) : Nat × Nat :=
  if bit w 63 then (0, 2 ^ 57) else (bits w 56 12 * 4096, invalBytes (bits w 2 0))

def overlaps (a n b m : Nat) : Bool := decide (a < b + m) && decide (b < a + n)

/-- Whether a write of an invalidation register is ignored: a SIZE code of 5 to 7. -/
def invalIgnored (w : W64) : Bool := !bit w 63 && decide (4 < bits w 2 0)

/-- A write of TLBINV1 or TLBINV2: queued, or lost behind 64. -/
def State.queueInval (s : State) (vd : Nat) (stage2 : Bool) (w : W64) : State :=
  let v := s.vdOf vd
  if invalIgnored w then s
  else if stage2 then
    if 64 ≤ v.inval2.length then s.setHyp vd rTLBSTAT2 (s.hyp vd rTLBSTAT2 ||| maskBits 63 63)
    else s.updVd vd fun v => { v with inval2 := v.inval2 ++ [w &&& ~~~(maskBits 56 48)] }
  else if 64 ≤ v.inval1.length then s.setCtl vd rTLBSTAT1 (s.ctl vd rTLBSTAT1 ||| maskBits 63 63)
  else s.updVd vd fun v => { v with inval1 := v.inval1 ++ [w] }

def execTlbinv1Write (vd : Nat) (v : W64) (s : State) : Out3 := .next (s.queueInval vd false v)
def execTlbinv2Write (vd : Nat) (v : W64) (s : State) : Out3 := .next (s.queueInval vd true v)

/-- Whether an engine command of a virtual device, in a tile or saved by Spelt, holds a translation that a test picks. -/
def State.cmdHolds (s : State) (vd : Nat) (p : ECmd → Held → Bool) : Bool :=
  ((s.tiles.flatMap fun e => e.2.cmds) ++ s.savedCmds).any fun c => s.vdOfCtx c.ctx == vd && c.trans.any (p c)

/-- Whether every access and every holder of a translation in a range has passed. For a range of IPAs every
holder of the virtual device counts. -/
def State.invalPassed (s : State) (vd : Nat) (stage2 : Bool) (a n : Nat) : Bool :=
  !(s.ctxs.any fun e => s.vdOfCtx e.1 == vd && e.2.out.any fun o =>
      o.stage == .sent && (globalNeeds o.instr).isSome && (stage2 || overlaps a n (vaNat o.addr) 8)) &&
  !s.cmdHolds vd (fun _ h => stage2 || overlaps a n h.1 h.2.1) &&
  !((s.vdOf vd).move.any fun m => m.pages.any fun p => stage2 || overlaps a n p.1 4096)

/-- The entries of a virtual device that an invalidation removes. -/
def tlbHit (vd : Nat) (stage2 : Bool) (a n : Nat) (e : TlbEntry) : Bool :=
  e.vd == vd && overlaps a n (if stage2 then e.ipa else e.va) e.bytes

/-- The ATC entries of a virtual device in a range are removed (R322). -/
def State.dropAtc (s : State) (vd a n : Nat) : State :=
  s.updDev fun d => { d with atc := d.atc.filter fun x => !(x.1 == s.pasid vd && overlaps a n x.2.1 x.2.2.1) }

/-- The U lines that an invalidation combines. -/
def invalLine (vd : Nat) (stage2 : Bool) (a n : Nat) (_ : Nat) (u : ULine) : Bool :=
  u.vd == vd && (stage2 || overlaps a n u.va 64)

def State.dropEntries (s : State) (vd : Nat) (stage2 : Bool) (a n : Nat) : State :=
  let keep (e : TlbEntry) : Bool := !tlbHit vd stage2 a n e
  let core (e : Nat × Core) : Nat × Core := (e.1, { e.2 with tlb := e.2.tlb.filter keep })
  let tile (e : Nat × Tile) : Nat × Tile :=
    (e.1, { e.2 with l2 := e.2.l2.filter keep, walk := e.2.walk.filter fun w => w.1 != vd })
  let s := { s with cores := s.cores.map core, tiles := s.tiles.map tile }
  let s := if stage2 then s else s.dropAtc vd a n
  s.flushU (invalLine vd stage2 a n)

/-- DONE counts modulo 2^32. -/
def countDone (w : W64) : W64 := putBits w 31 0 (bits w 31 0 + 1)

/-- The oldest invalidation of a queue completes once everything in its range has passed. -/
def State.invalDone (s : State) (vd : Nat) (stage2 : Bool) : State :=
  let v := s.vdOf vd
  match if stage2 then v.inval2 else v.inval1 with
  | [] => s
  | w :: ws =>
    let (a, n) := invalRange w
    if !s.invalPassed vd stage2 a n then s
    else if s.combineHeld (invalLine vd stage2 a n) then s.waitLog vd
    else
      let s := s.dropEntries vd stage2 a n
      if stage2 then
        (s.updVd vd fun v => { v with inval2 := ws }).setHyp vd rTLBSTAT2 (countDone (s.hyp vd rTLBSTAT2))
      else (s.updVd vd fun v => { v with inval1 := ws }).setCtl vd rTLBSTAT1 (countDone (s.ctl vd rTLBSTAT1))

def execTlbInvalidationDone (vd : Nat) (stage2 : Bool) (s : State) : Out3 := .next (s.invalDone vd stage2)

/-! ### Page tables (R326) -/

/-- The IPA that PTADDR names. -/
def State.ptIpa (s : State) (vd : Nat) : Nat := bits (s.ctl vd rPTADDR) 47 3 * 8

/-- Where PTADDR leads: DPA and key slot, through stage 2 with a permission bit. -/
def State.ptPlace (s : State) (vd perm : Nat) : Option (Nat × Nat × Nat) :=
  match s.s2Walk vd (s.ptIpa vd) with
  | .error _ => none
  | .ok t => if bit t.leaf perm && decide (t.dpa < dpaReserved) then some (t.dpa, bits t.leaf 62 50, t.at_) else none

/-- A write of PTDATA. One that stage 2 does not allow stores nothing (DESIGN CHOICE, entry 21). -/
def State.writePtdata (s : State) (vd : Nat) (v : W64) : State :=
  match s.ptPlace vd 5 with
  | none => s
  | some (dpa, key, at_) =>
    let s := (s.setAD at_ true).flushHome dpa 8
    s.devWrite (s.key key) dpa (toBytes 8 v.toNat)

def execPtdataWrite (vd : Nat) (v : W64) (s : State) : Out3 := .next (s.writePtdata vd v)

/-- The stage-2 entry that S2PTADDR names. -/
def State.s2Place (s : State) (vd : Nat) : Nat := bits (s.hyp vd rS2PTADDR) 38 3 * 8

def State.writeS2ptdata (s : State) (vd : Nat) (v : W64) : State :=
  s.devWrite [] (s.s2Place vd) (toBytes 8 v.toNat)

def execS2ptdataWrite (vd : Nat) (v : W64) (s : State) : Out3 := .next (s.writeS2ptdata vd v)

/-- S2PTCLR clears bits of the entry and latches the old value. -/
def State.clearS2 (s : State) (vd : Nat) (mask : W64) : State :=
  let s := s.flushHome (s.s2Place vd) 8
  let old := word64 (s.devRead [] (s.s2Place vd) 8)
  (s.devWrite [] (s.s2Place vd) (toBytes 8 (old &&& ~~~mask).toNat)).setHyp vd rS2PTOLD old

def execS2ptclr (vd : Nat) (v : W64) (s : State) : Out3 := .next (s.clearS2 vd v)

/-! ### Page moves (R318) -/

/-- Translation of one page of a move: both stages, without permissions and without OWN. -/
def State.movePage (s : State) (vd page : Nat) (write : Bool) : State × Except Fail (Nat × Nat) :=
  let s := s.flushMet vd (s.walkMet none vd page)
  match s.s1Walk none vd page with
  | .error e => (s, .error e.fail)
  | .ok w =>
    let s := w.used.foldl (fun s at_ => s.setAD at_ false) s
    match s.s2Walk vd w.ipa with
    | .error e => (s, .error e.fail)
    | .ok t =>
      if dpaReserved ≤ t.dpa then (s, .error ⟨Cause.translation, 6⟩)
      else (s.setAD t.at_ write, .ok (t.dpa, bits t.leaf 62 50))

/-- The pages of a move, up to the first that faults. -/
def State.movePages (s : State) (vd : Nat) (write : Bool) : List Nat → State × List (Nat × Nat × Nat) × Option Fail
  | [] => (s, [], none)
  | p :: ps =>
    match s.movePage vd p write with
    | (s, .error f) => (s, [], some f)
    | (s, .ok r) =>
      let (s, l, f) := s.movePages vd write ps
      (s, (p, r.1, r.2) :: l, f)

def pgBusy : W64 := maskBits 63 63
def pgErr : W64 := maskBits 62 62

/-- A write of PGCMD. ERR speaks of the last move: a new one clears it (DEDUCED, entry 22). -/
def State.startPageMove (s : State) (vd : Nat) (v : W64) : State :=
  let st := s.ctl vd rPGSTAT
  if !bit v 63 || bit st 63 then s
  else if 2 < bits v 4 2 then s.setCtl vd rPGSTAT (st ||| pgErr)
  else
    let n := invalBytes (bits v 4 2) / 4096
    let va := bits (s.ctl vd rPGVA) 56 12
    let pages := (List.range n).map fun i => (va + i) % 2 ^ 45 * 4096
    let (s, held, f) := s.movePages vd (bit v 0) pages
    let m : PageMove := ⟨bit v 0, bits (s.ctl vd rPGHOST) 63 12 * 4096, held, f.map fun f => (f.cause, f.detail)⟩
    (s.updVd vd fun d => { d with move := some m }).setCtl vd rPGSTAT ((st &&& ~~~pgErr) ||| pgBusy)

def execPageMove (vd : Nat) (v : W64) (s : State) : Out3 := .next (s.startPageMove vd v)

/-- Copies lines of a page: from the device until a poisoned line, which the host receives in a poisoned TLP, or to the
device in whole lines, which data of a poisoned TLP poisons (R322, R323). -/
def State.moveLines (s : State) (toDevice : Bool) (key host dpa : Nat) : (lines : Nat) → State × Option (Nat × Nat)
  | 0 => (s, none)
  | k + 1 =>
    match s.moveLines toDevice key host dpa k with
    | (s, some f) => (s, some f)
    | (s, none) =>
      let a := dpa + 64 * k
      let s := s.flushHome a 64
      let h := host + 64 * k
      if toDevice then
        let s := s.devWrite (s.key key) a (Mem.read s.host h 64)
        (if s.hostPoisoned h 64 then (s.countError 5 0).poisonHbm [a / 64] else s, none)
      else if s.hbmPoisoned a 64 then (s.poisonHost [h / 64], some (Cause.memoryError, s.hbmSyndrome false a))
      else (({ s with host := Mem.write s.host h (s.devRead (s.key key) a 64) }).cleanHost h 64, none)

def State.movePagesNow (s : State) (m : PageMove) : List (Nat × Nat × Nat) → Nat → State × Option (Nat × Nat)
  | [], _ => (s, m.fault)
  | p :: ps, host =>
    match s.moveLines m.toDevice p.2.2 host p.2.1 64 with
    | (s, some f) => (s, some f)
    | (s, none) => s.movePagesNow m ps (host + 4096)

/-- A page move ends: its bytes have been copied, up to a fault. -/
def State.finishPageMove (s : State) (vd : Nat) : State :=
  match (s.vdOf vd).move with
  | none => s
  | some m =>
    let (s, f) := s.movePagesNow m m.pages m.host
    let s := s.updVd vd fun d => { d with move := none }
    let st := s.ctl vd rPGSTAT &&& ~~~pgBusy
    match f with
    | none => s.setCtl vd rPGSTAT st
    | some (c, d) => s.setCtl vd rPGSTAT (putBits (putBits (st ||| pgErr) 15 8 d) 7 0 c)

def execPageMoveDone (vd : Nat) (s : State) : Out3 := .next (s.finishPageMove vd)

/-! ### Page requests (R320, R321) -/

/-- A context whose request has succeeded goes on: it completes its recorded instruction or fetches again. TRAPCAUSE and TRAPADDR
keep their values (DESIGN CHOICE, entry 116). -/
def Ctx.pageOk (x : Ctx) : Ctx := if x.wait = .page then { x with taking := none, wait := .none } else x

/-- Changes a context where it stands: live, or in its sheaf's save area. -/
def State.updAnywhere (s : State) (c : CtxId) (f : Ctx → Ctx) : State :=
  (s.updCtx c f).updSheaf c.sheaf fun h => { h with saved := h.saved.map fun d => { d with ctxs := Tab.upd d.ctxs c f } }

/-- A context, live or saved, with the entry of its grain's handler. -/
def State.ctxAnywhere (s : State) (c : CtxId) : Option (Ctx × W64) :=
  match s.ctx c with
  | some x => some (x, ((s.grainOf c).getD Grain.zero).handler)
  | none =>
    match (s.sheafOf c.sheaf).saved with
    | none => none
    | some d => (Tab.find d.ctxs c).map fun x => (x, (Tab.getD d.grains c.grain Grain.zero).handler)

/-- The page service reports a request as unresolved: the trap goes to the handler, or is unhandled (R281, R283). -/
def State.pageFail (s : State) (c : CtxId) : State :=
  match s.ctxAnywhere c with
  | none => s
  | some (x, entry) =>
    match x.taking with
    | none => s
    | some (t, pc) =>
      if x.wait ≠ .page then s
      else if x.handler || entry == 0 then
        (s.updAnywhere c fun x => (x.trapRegs t pc).toHost).postCtx c 0x09 t.cause t.addr
      else s.updAnywhere c fun x => { x.trapRegs t pc with handler := true, pc := entry }

/-- PRSTALE, saturating. -/
def State.stale (s : State) (vd : Nat) : State :=
  s.setHyp vd rPRSTALE (BitVec.ofNat 64 (min (bits (s.hyp vd rPRSTALE) 31 0 + 1) (2 ^ 32 - 1)))

/-- The virtual device whose PRSTALE counts a response to a PASID that no enabled one has: a disabled one of that PASID, or
virtual device 0 (DESIGN CHOICE, entry 80). -/
def State.staleVd (s : State) (pasid : Nat) : Nat := ((List.range 32).find? fun vd => s.pasid vd == pasid).getD 0

/-- A page response arrives. -/
def State.respondPage (s : State) (pasid : BitVec 20) (prg : BitVec 9) (a : PageAnswer) : State :=
  match s.vdOfPasid pasid.toNat with
  | none => s.stale (s.staleVd pasid.toNat)
  | some vd =>
    let i : Fin 64 := ⟨prg.toNat % 64, Nat.mod_lt _ (by decide)⟩
    let r := (s.vdOf vd).pages[i]
    if prg.toNat / 64 ≠ bits (s.hyp vd rVDCTL) 34 32 ∨ r.used = false ∨ r.abandoned.isSome then s.stale vd
    else
      let s := s.updVd vd fun v => { v with pages := v.pages.set i PageReq.zero }
      match a with
      | .success => r.waiters.foldl (fun s c => s.updAnywhere c Ctx.pageOk) s
      | .invalid | .failure => r.waiters.foldl (fun s c => s.pageFail c) s

def execPageResponse (pasid : BitVec 20) (prg : BitVec 9) (a : PageAnswer) (s : State) : Out3 :=
  .next (s.respondPage pasid prg a)

/-- 2^24 slots after its request was abandoned, a slot is free again. -/
def State.reuseSlot (s : State) (vd : Nat) (slot : Fin 64) : State :=
  match ((s.vdOf vd).pages[slot]).abandoned with
  | none => s
  | some d => if s.slot < d then s else s.updVd vd fun v => { v with pages := v.pages.set slot PageReq.zero }

def execAbandonedSlotReuse (vd : Nat) (slot : Fin 64) (s : State) : Out3 := .next (s.reuseSlot vd slot)

/-! ### ATS (R320, R322) -/

/-- The host refuses a translation to a copy: the copy is recorded and a page request is sent, whose failure is
TRANSLATION 0x07. In handler mode the fault is a trap taken in the handler (R282, R283). -/
def State.refuseCopy (s : State) (c : CtxId) (page : Nat) (k : Acc) : State :=
  (s.updOut c fun o => { o with aux := 0 }).recordFail c ⟨Cause.translation, 7⟩ (vaW page) k

/-- The host's answer to the ATS Translation Request of a copy in its translation pass. -/
def State.atsAnswer (s : State) (c : CtxId) (granted : Bool) (host : W64) : State :=
  match s.ctx c with
  | none => s
  | some x =>
    match x.out with
    | none => s
    | some o =>
      if o.aux = 0 ∨ o.stage ≠ .accepted then s
      else match cpyArgs o.instr with
        | none => s
        | some a =>
          let page := (o.aux - 1) * 4096
          let j := jobOf a (cap o.caps 2)
          if granted then
            (s.updDev fun d => { d with
              atc := ((s.pasid (s.vdOfCtx c), page, 4096, host.toNat / 4096 * 4096) :: d.atc).take 1024 }).updOut c
              fun o => { o with aux := 0 }
          else s.refuseCopy c page j.acc

def execAtsTranslationCompletion (c : CtxId) (granted : Bool) (host : W64) (s : State) : Out3 :=
  .next (s.atsAnswer c granted host)

/-- The host invalidates ATC entries: answered once every copy that holds one has passed the page. -/
def State.atsInvalidate (s : State) (vd : Nat) (va : W64) (n : Nat) : State :=
  let a := vaNat va
  let hostCmd (e : ECmd) : Bool := match cpyArgs e.instr with
    | some x => isHost x.kind
    | none => false
  if s.cmdHolds vd fun e h => hostCmd e && overlaps a n h.1 h.2.1 then s
  else (s.dropAtc vd a n).tell 4
    (BitVec.ofNat 64 (vd * 2 ^ 57 + a))

def execAtsInvalidationRequest (vd : Nat) (va : W64) (bytes : Nat) (s : State) : Out3 :=
  .next (s.atsInvalidate vd va bytes)

/-! ### The reset of a virtual device (R321, R363, R364) -/

/-- Every leaf below a stage-2 table, in walk order: first DPA, bytes, key slot. -/
def State.s2Leaves (s : State) : (level1 table : Nat) → List (Nat × Nat × Nat)
  | 0, _ => []
  | lv + 1, table =>
    (List.range 512).flatMap fun i =>
      let e := word64 (s.devRead [] (table + 8 * i) 8)
      if !bit e 0 || malformed s2Rsvd s2Attr lv e then []
      else if bit e 1 then
        let n := leafBytes lv false
        [(bits e 38 12 * 4096 / n * n, n, bits e 62 50)]
      else s.s2Leaves lv (bits e 38 12 * 4096)

/-- Leaves sorted out: one that an earlier leaf covers is left out, and nothing reserved is touched. -/
def zeroRanges : List (Nat × Nat × Nat) → List (Nat × Nat × Nat) → List (Nat × Nat × Nat)
  | seen, [] => seen
  | seen, x :: xs =>
    let covered := seen.any fun r => decide (r.1 ≤ x.1) && decide (x.1 + x.2.1 ≤ r.1 + r.2.1)
    zeroRanges (if covered || decide (dpaReserved < x.1 + x.2.1) then seen else seen ++ [x]) xs

/-- Distinct bytes of the ranges: those that no larger one covers. -/
def distinctBytes (rs : List (Nat × Nat × Nat)) : Nat :=
  ((rs.filter fun x => !rs.any fun r => decide (x.2.1 < r.2.1) && decide (r.1 ≤ x.1) && decide (x.1 < r.1 + r.2.1)).map
    fun r => r.2.1).sum

/-- Ends everything that a virtual device runs: its sheaves, contexts, commands and circuits. -/
def State.endVd (s : State) (vd : Nat) : State :=
  let mine := (s.sheaves.filter fun e => e.2.vd == vd && e.2.st != .retired).map fun e => e.1
  let s := mine.foldl (fun s n => ((s.releaseUnits n).freeAccs n).updSheaf n fun h => { h with
    st := .retired, circuits := [], doms := [], saved := none, ckpt := none, stop := .none }) s
  let s := (s.dev.circuits.filter fun k => k.vd == vd).foldl (fun s k => s.dropCircuit k.handle) s
  let s := s.updDev fun d => { d with
    toBrome := d.toBrome.filter fun m => m.vd != vd
    fromBrome := d.fromBrome.filter fun m => m.vd != vd }
  let quad (e : Nat × Quad) : Nat × Quad := (e.1, { e.2 with
    vops := e.2.vops.filter fun v => !mine.contains v.ctx.sheaf
    ulines := e.2.ulines.filter fun u => u.vd != vd })
  let idle (k : Chan) : Chan := { k with cmds := [] }
  let tile (e : Nat × Tile) : Nat × Tile :=
    if e.2.vd = some vd then (e.1, { e.2 with
      pass := []
      gath := none
      chans := e.2.chans.map idle
      fires := []
      run := none
      turn := none
      traceQ := [] })
    else e
  let s := { s with quads := s.quads.map quad, tiles := s.tiles.map tile }
  s.updVd vd fun v => { v with
    nextSheafid := 0
    tags := []
    rxVa := 0
    log := []
    logged := []
    moments := []
    tries := Vector.replicate 12 0
    reread := Vector.replicate 12 none }

/-- The zeroing pass of a virtual device begins: what it runs ends, outstanding requests are abandoned, and READY is 0
(R321, R363). -/
def State.startZeroing (s : State) (vd : Nat) : State :=
  let rs := zeroRanges [] (s.s2Leaves 4 (bits (s.hyp vd rS2BASE) 38 12 * 4096))
  let held := rs.map fun r => (r.1, r.2.1, s.key r.2.2)
  let s := s.endVd vd
  let ctl := s.hyp vd rVDCTL
  let give (p : PageReq) : PageReq :=
    if p.used && p.abandoned.isNone then { p with waiters := [], abandoned := some (s.slot + 2 ^ 24) } else p
  let s := s.updVd vd fun v => { v with
    pages := v.pages.map give
    zeroing := some (s.slot + ceilDiv (distinctBytes rs) 10240, held) }
  s.setHyp vd rVDCTL (ctl &&& ~~~(maskBits 61 61))

/-- A virtual device is reset: EPOCH rises, and the zeroing pass begins. -/
def State.resetVd (s : State) (vd : Nat) : State :=
  let s := s.startZeroing vd
  let ctl := s.hyp vd rVDCTL
  s.setHyp vd rVDCTL (putBits ctl 34 32 (bits ctl 34 32 + 1))

/-- A write of VDCTL: EN and PASID, and the reset when RESET is 1. -/
def State.writeVdctl (s : State) (vd : Nat) (v : W64) : State :=
  let m := maskBits 63 63 ||| maskBits 19 0
  let s := s.setHyp vd rVDCTL ((s.hyp vd rVDCTL &&& ~~~m) ||| (v &&& m))
  if bit v 62 then s.resetVd vd else s

def execVdReset (vd : Nat) (v : W64) (s : State) : Out3 := .next (s.writeVdctl vd v)

/-- Zeroes the 4 KiB pages of a range under a key. -/
def State.zeroPages (s : State) (key : List W64) (dpa : Nat) : (pages : Nat) → State
  | 0 => s
  | k + 1 => (s.zeroPages key dpa k).putPage key (dpa + 4096 * k) []

/-- The ranges in order: what an earlier one holds keeps that one's key. -/
def State.zeroAll (s : State) : List (Nat × Nat × List W64) → State
  | [] => s
  | r :: rs => (s.zeroAll rs).zeroPages r.2.2 r.1 (r.2.1 / 4096)

/-- A tile that a virtual device used is cleared; where it serves another one now, whose first sheaf there found it cleared, only
its accumulator tiles are. Accumulator tiles that another one's sheaves hold stay theirs (R5; DEDUCED, entry 79). -/
def State.wipeTile (s : State) (vd tile : Nat) : State :=
  let other (n : Nat) : Bool := (s.sheafOf n).vd != vd
  let serves := s.sheaves.any fun e => other e.1 && s.occupies e.1 e.2 && e.2.tiles.contains tile
  let theirs (a : AccState) : Bool := a.sheaf.any other
  let acc := (s.tileOf tile).acc
  -- the elements of the accumulator tiles that no other virtual device's sheaf holds
  let gone (e : Host.Cell) : Bool := e.1 / 2 ^ 20 == tile && !theirs (acc.toList.getD (e.1 / 2 ^ 14 % 64) .free)
  let s : State := { s with accm := s.accm.filter fun e => !gone e }
  let free (t : Tile) : Tile := { t with acc := t.acc.map fun a => if theirs a then a else .free }
  if (s.tileOf tile).vd ≠ some vd ∧ serves then s.updTile tile free
  else (s.clearTile tile).updTile tile fun t => { free t with vd := none, accBad := [], accZero := [] }

/-- The zeroing pass ends: READY is set. -/
def State.zeroDone (s : State) (vd : Nat) : State :=
  match (s.vdOf vd).zeroing with
  | none => s
  | some (fin, rs) =>
    if s.slot < fin then s
    else
      let s := s.zeroAll rs
      let s := (s.vdOf vd).usedTiles.foldl (fun s t => s.wipeTile vd t) s
      let s := s.updVd vd fun v => { v with zeroing := none, usedTiles := [] }
      s.setHyp vd rVDCTL (s.hyp vd rVDCTL ||| maskBits 61 61)

def execZeroingDone (vd : Nat) (s : State) : Out3 := .next (s.zeroDone vd)

/-! ### Keys (R316) -/

/-- The key that KEYDATA0 to KEYDATA7 hold. -/
def State.keyData (s : State) : List W64 := (List.range 8).map fun n => s.mg (rKEYDATA n)

def State.keyBusy (s : State) : State := s.setMg rKEYSTAT (maskBits 63 63)

def State.loadKey (s : State) (slot : Nat) : State :=
  if slot = 0 then s
  else (s.updDev fun d => { d with keys := Tab.put d.keys slot s.keyData }).keyBusy

def execKeyLoad (slot : BitVec 13) (s : State) : Out3 := .next (s.loadKey slot.toNat)

def State.clearKey (s : State) (slot : Nat) : State :=
  if slot = 0 then s else (s.updDev fun d => { d with keys := Tab.del d.keys slot }).keyBusy

def execKeyClear (slot : BitVec 13) (s : State) : Out3 := .next (s.clearKey slot.toNat)

def execKeyCommandDone (s : State) : Out3 := .next (s.setMg rKEYSTAT 0)

/-! ### Reads of the host (R325) -/

/-- An access that completes as Unsupported Request. -/
def State.unsupported (s : State) (off : Nat) : State :=
  (s.updDev fun d => { d with hostRead := none }).tell 8 (BitVec.ofNat 64 off)

/-- A read of the signal window, an acquire at `.sys`. What a read that does not translate returns is open (entry 5). -/
def State.windowRead (s : State) (vd : Nat) (off : Nat) : State :=
  if off % 8 ≠ 0 then s.unsupported off
  else
    let r := s.gread none vd (sx (BitVec.ofNat 57 (bits (s.ctl vd rSIGWBASE) 56 20 * 2 ^ 20 + off))) 8
    let v := match r.2 with
      | .ok bs => word64 bs
      | .error _ => Config.freeWord s.freeN 62
    (r.1.updDev fun d => { d with hostRead := some v }).fresh

def execSignalWindowRead (vd : Nat) (off : BitVec 20) (s : State) : Out3 := .next (s.windowRead vd off.toNat)

/-- A register access that is not one aligned 8-byte access. -/
def execHostUnsupportedAccess (page : RegPage) (off bytes : Nat) (s : State) : Out3 :=
  let place := match page with
    | .mgmt => off
    | .hyper vd => 0x1_0000 + 0x1000 * vd + off
    | .control vd => vd * 2 ^ 32 + off
  .next (if off % 8 = 0 ∧ bytes = 8 then s else s.unsupported place)

end Sys2Proof.Machine
end

