-- ==== Sys2Proof/Machine/Moves.lean ====
section
/-! DEFINITION. Moves, literals and pointers, OPM 0x18 and 0x19 (04 R108, R109). -/

namespace Sys2Proof.Machine

def execMovi (h : Head) (v : BitVec 16) (s : State) : Out3 := issue h 8 s (s.doneS h 8 (sx v))
def execMovhi (h : Head) (a : Src) (v : W32) (s : State) : Out3 :=
  issue h 12 s (s.doneS h 12 (v ++ (s.src 1 a).setWidth 32))
def execMovR (h : Head) (a : Src) (s : State) : Out3 := issue h 8 s (s.doneS h 8 (s.src 1 a))
def execLit (h : Head) (v : W32) (s : State) : Out3 := issue h 12 s (s.doneS h 12 (sx v))

/-- Sets a pointer (R109). -/
def Ctx.setA (c : Ctx) (p : Fin 8) (v : W64) : Ctx := { c with a := c.a.set p v }
def Ctx.setAS (c : Ctx) (p : Fin 8) (v : W64) : Ctx := { c with as_ := c.as_.set p v }

def execPset (h : Head) (p : Fin 8) (a b : Src) (s : State) : Out3 :=
  let va := s.src 1 a
  let vb := s.src 2 b
  issue h 8 s ((s.updMe fun c => (c.setA p va).setAS p vb).doneN 8)

def execPsetKeep (h : Head) (p : Fin 8) (a : Src) (s : State) : Out3 :=
  let va := s.src 1 a
  issue h 8 s ((s.updMe fun c => c.setA p va).doneN 8)

def execPadd (h : Head) (p : Fin 8) (a : Src) (s : State) : Out3 :=
  let va := s.src 1 a
  issue h 8 s ((s.updMe fun c => c.setA p (c.a[p] + va)).doneN 8)

def execPaddImm (h : Head) (p : Fin 8) (v : W32) (s : State) : Out3 :=
  issue h 12 s ((s.updMe fun c => c.setA p (c.a[p] + sx v)).doneN 12)

def execPget (h : Head) (p : Fin 8) (stride : Bool) (s : State) : Out3 :=
  issue h 8 s (s.doneS h 8 (if stride then s.me.as_[p] else s.me.a[p]))

end Sys2Proof.Machine
end

