-- ==== Sys2Proof/Machine/Sha3.lean ====
section
/-! DEFINITION. SHA3-512 (FIPS 202), which 15 R365 and R367 name. The standard is not part of the specification's text: its
content is PRESUMED (entry 7). -/

namespace Sys2Proof.Machine

/-- The rotation of 64 bits to the left. -/
def keccakRot (x : W64) (n : Nat) : W64 := x.rotateLeft (n % 64)

/-- Lane (x, y) of a state of 25 lanes. -/
def lane (a : List W64) (x y : Nat) : W64 := a.getD (x % 5 + 5 * (y % 5)) 0

/-- The rotation of each lane, by its number x + 5 × y. -/
def keccakOffsets : List Nat :=
  [0, 1, 62, 28, 27, 36, 44, 6, 55, 20, 3, 10, 43, 25, 39, 41, 45, 15, 21, 8, 18, 2, 61, 56, 14]

/-- Bit t of the sequence that the round constants take their bits from. -/
def keccakBit (t : Nat) : Bool :=
  let step (r : Nat) : Nat := if r < 128 then 2 * r else (2 * r) % 256 ^^^ 0x71
  ((List.range (t % 255)).foldl (fun r _ => step r) 1) % 2 == 1

/-- The constant of a round. -/
def keccakConst (round : Nat) : W64 :=
  (List.range 7).foldl (fun c j => if keccakBit (j + 7 * round) then c ||| BitVec.ofNat 64 (2 ^ (2 ^ j - 1)) else c) 0

def keccakRound (a : List W64) (round : Nat) : List W64 :=
  let c := (List.range 5).map fun x => (List.range 5).foldl (fun v y => v ^^^ lane a x y) 0
  let d := (List.range 5).map fun x => c.getD ((x + 4) % 5) 0 ^^^ keccakRot (c.getD ((x + 1) % 5) 0) 1
  let th := (List.range 25).map fun i => keccakRot (a.getD i 0 ^^^ d.getD (i % 5) 0) (keccakOffsets.getD i 0)
  -- lane (y, 2x + 3y) of the next state is lane (x, y) of this one
  let b := (List.range 25).map fun i =>
    let u := i % 5
    let v := i / 5
    lane th ((u + 3 * v) % 5) u
  let ch := (List.range 25).map fun i =>
    let x := i % 5
    let y := i / 5
    lane b x y ^^^ (~~~(lane b (x + 1) y) &&& lane b (x + 2) y)
  match ch with
  | l :: ls => (l ^^^ keccakConst round) :: ls
  | [] => []

def keccak (a : List W64) : List W64 := (List.range 24).foldl keccakRound a

/-- Absorbs blocks of 72 bytes; the first argument bounds them. -/
def absorb : Nat → List W64 → List Byte → List W64
  | 0, a, _ => a
  | k + 1, a, bs =>
    if bs.isEmpty then a
    else
      let block := bs.take 72
      let words := (List.range 25).map fun i => if i < 9 then BitVec.ofNat 64 (ofBytes ((block.drop (8 * i)).take 8)) else 0
      absorb k (keccak ((a.zip words).map fun p => p.1 ^^^ p.2)) (bs.drop 72)

/-- The padding of SHA-3: bits 01, then 1, zeros and 1 up to a whole block. -/
def sha3Pad (n : Nat) : List Byte :=
  let left := 72 - n % 72
  if left = 1 then [0x86] else 0x06 :: List.replicate (left - 2) 0 ++ [0x80]

/-- The digest, its first byte in bits [7:0]. -/
def sha3_512 (bs : List Byte) : BitVec 512 :=
  let m := bs ++ sha3Pad bs.length
  let a := absorb (m.length / 72) (List.replicate 25 0) m
  BitVec.ofNat 512 ((a.take 8).foldr (fun w n => w.toNat + 2 ^ 64 * n) 0)

end Sys2Proof.Machine
end

