-- ==== Sys2Proof/Machine/Security.lean ====
section
/-! DEFINITION. Resets and bring-up (15 R364, R365), attestation (R366, R367), uncorrectable errors in context state and
their count (R369, R370), and ageing (R371). -/

namespace Sys2Proof.Machine

/-! ### Bring-up (R364, R365) -/

def State.bootReady (s : State) : Bool := bit (s.mg rBOOTSTAT) 63
def State.bootRecovery (s : State) : Bool := bit (s.mg rBOOTSTAT) 62
def State.bootStage (s : State) : Nat := bits (s.mg rBOOTSTAT) 58 56

/-- Slots in an hour of power. -/
def hourSlots : Nat := 7200000000000

/-- A cold reset. What lies outside the device, the fused minimums and the power-on time of its fuses are kept; the rest
is the state after reset. -/
def State.cold (s : State) : State :=
  { State.reset with
    sched := s.sched
    cur := s.cur
    freeN := s.freeN
    host := s.host
    dev := { Dev.zero with
      svnMin := s.dev.svnMin
      powerSlots := s.dev.powerSlots + s.slot
      boots := s.dev.boots + 1
      toHost := s.dev.toHost } }

def execColdReset (s : State) : Out3 := .next s.cold

/-- Images that a stage verifies. -/
def stageImages (stage : Nat) : List Nat :=
  match stage with
  | 0 => [0]
  | 1 => [1, 2, 3, 4, 5]
  | _ => []

/-- Whether an image's signature holds: its key is the one whose digest is fused, and it signs the digest of header and
body. -/
def State.imageSigned (s : State) (i : Nat) : Bool :=
  sha3_512 (Config.firmwareKey s.dev.boots i) == Config.fusedKeyDigest &&
    Config.mldsaVerify (Config.firmwareKey s.dev.boots i) (sha3_512 (Config.firmware s.dev.boots i))
      (Config.firmwareSignature s.dev.boots i)

/-- The errors that the work of a stage can meet itself: HBM training, the fabric, the C-die test. -/
def stageErrors (stage : Nat) : List Nat := if 2 ≤ stage ∧ stage ≤ 4 then [0, stage + 1] else [0]

/-- The error with which a stage ends: an image whose signature fails, one whose security version is below the fused
minimum, or the error that the stage's own work met. -/
def State.stageError (s : State) (error : Nat) : Nat :=
  if (stageImages s.bootStage).any fun i => !s.imageSigned i then 1
  else if (stageImages s.bootStage).any fun i =>
    decide ((Config.firmwareSvn s.dev.boots i).toNat < s.dev.svnMin.getD i 0) then 2
  else error

/-- A bring-up stage ends: the next one starts, or the device stays in RECOVERY. A stage meets no error of another one. -/
def State.stageDone (s : State) (error : Nat) : State :=
  let st := s.bootStage
  if s.bootReady || s.bootRecovery || !(stageErrors st).contains error then s
  else if s.stageError error ≠ 0 then
    s.setMg rBOOTSTAT (putBits (s.mg rBOOTSTAT ||| maskBits 62 62) 55 48 (s.stageError error))
  else
    let s := if st = 1 then
        s.updDev fun d => { d with svnMin := d.svnMin.zipIdx.map fun m => max m.1 (Config.firmwareSvn s.dev.boots m.2).toNat }
      else s
    s.setMg rBOOTSTAT ((putBits (s.mg rBOOTSTAT) 58 56 (st + 1)) ||| (if st = 4 then maskBits 63 63 else 0))

def execBringupStageDone (error : BitVec 8) (s : State) : Out3 := .next (s.stageDone error.toNat)

/-! ### Function-level resets (R364) -/

/-- A PF0 function-level reset. -/
def State.flrPf0 (s : State) : State :=
  let s := (List.range 32).foldl (fun s vd => s.resetVd vd) s
  s.updDev fun d => { d with
    keys := []
    parts := d.parts.map fun p => { p with ctl := p.ctl &&& ~~~(maskBits 63 63) }
    ports := d.ports.map fun p => { p with cfg := p.cfg &&& ~~~(maskBits 63 63 ||| maskBits 61 61) } }

def execPf0Flr (s : State) : Out3 := .next s.flrPf0
def execVfFlr (vd : Nat) (s : State) : Out3 := .next (s.resetVd vd)

/-! ### Attestation (R367) -/

def attBusy : W64 := maskBits 63 63
def attErr : W64 := maskBits 62 62

/-- Whether the attestation registers answer: from stage 1 on, and in RECOVERY. -/
def State.attUp (s : State) : Bool := decide (1 ≤ s.bootStage) || s.bootRecovery

/-- A command starts: the nonce is captured. ERR speaks of the last command (DEDUCED, entry 22). -/
def State.attStart (s : State) (op : Nat) : State :=
  let st := s.mg rATTSTAT
  if bit st 63 || !s.attUp then s
  else if 2 ≤ op then s.setMg rATTSTAT (st ||| attErr)
  else (s.updDev fun d => { d with attest := some (op, (List.range 8).map fun n => s.mg (rATTNONCE n)) }).setMg rATTSTAT
    ((st &&& ~~~attErr) ||| attBusy)

def execAttReport (s : State) : Out3 := .next (s.attStart 0)
def execAttCertChain (s : State) : Out3 := .next (s.attStart 1)

def digestBytes (d : BitVec 512) : List Byte := toBytes 64 d.toNat

/-- Whether a firmware image has been loaded (DEDUCED, entry 7): the Xonar image with stage 0, the others with stage 1. -/
def State.imageLoaded (s : State) (i : Nat) : Bool := if i = 0 then decide (1 ≤ s.bootStage) else decide (2 ≤ s.bootStage)

/-- Bytes 0 to 447 of a report. -/
def State.reportHead (s : State) (nonce : List W64) : List Byte :=
  toBytes 8 (0x4B41_5454 + bits (s.mg rBOOTSTAT) 63 32 * 2 ^ 32) ++
  (s.dev.svnMin.take 6).map (fun m => BitVec.ofNat 8 m) ++ List.replicate 50 0 ++
  ((List.range 4).flatMap fun i =>
    if s.imageLoaded i then digestBytes (sha3_512 (Config.firmware s.dev.boots i)) else List.replicate 64 0) ++
  (nonce.flatMap fun w => toBytes 8 w.toNat) ++
  digestBytes (sha3_512 ((List.range 2592).map Config.publicKey))

/-- A report: its signature covers the digest of what precedes it. -/
def State.report (s : State) (nonce : List W64) : List Byte :=
  let head := s.reportHead nonce
  head ++ (List.range 4627).map fun i => Config.identitySign (sha3_512 head) i

def certBytes : List Byte := (List.range Config.certChainLen).map Config.certChain

/-- Xonar writes the buffer and clears BUSY. A chain of more than 8 KiB sets ERR. -/
def State.attFinish (s : State) : State :=
  match s.dev.attest with
  | none => s
  | some (op, nonce) =>
    let bs := if op = 0 then s.report nonce else certBytes
    let st := s.mg rATTSTAT &&& ~~~attBusy
    let s := s.updDev fun d => { d with attest := none }
    if 8192 < bs.length then s.setMg rATTSTAT (putBits (st ||| attErr) 12 0 0)
    else ({ s with host := Mem.write s.host (bits (s.mg rATTADDR) 63 13 * 8192) bs }).setMg rATTSTAT
      (putBits st 12 0 bs.length)

def execAttestDone (s : State) : Out3 := .next s.attFinish

/-! ### Errors (R369, R370) -/

/-- An error in a unit of a place: a corrected one is written back and counted (R303, R369; a write of the same cycle wins,
so the stored value never changes); an uncorrectable one is detected now, and its marker follows (R323, R324; entry 114). A
host line is counted when the link delivers it (R322). A flit of a `mem` or `host` circuit fails for the command that it belongs to:
the number of a tile and of its channel, 8 for its gather, or from 2^20 on that of a context (R332, R368). -/
def State.flaw (s : State) (place unit : Nat) (uncorrectable : Bool) : State :=
  if !uncorrectable then s.countCorrected (place % 8)
  else match place with
    | 0 | 1 =>
      (s.countError place (errAddr (4 * unit / 2 ^ 22) (4 * unit))).updDev fun d => { d with
        poisonLmem := unit :: d.poisonLmem.filter (· != unit), unmarked := (0, unit) :: d.unmarked }
    | 2 =>
      (s.countError 2 (64 * unit)).updDev fun d => { d with
        poisonHbm := unit :: d.poisonHbm.filter (· != unit), unmarked := (2, unit) :: d.unmarked }
    | 3 =>
      (s.countError 3 (errAddr (32 * unit / 2 ^ 19) (32 * unit % 2 ^ 19))).updDev fun d => { d with
        poisonWbuf := unit :: d.poisonWbuf.filter (· != unit), unmarked := (3, unit) :: d.unmarked }
    | 4 =>
      (s.countError 4 (errAddr (4 * unit / 2 ^ 20) (4 * unit % 2 ^ 20))).updDev fun d => { d with
        poisonAcc := unit :: d.poisonAcc.filter (· != unit), unmarked := (4, unit) :: d.unmarked }
    | 5 => s.poisonHost [unit]
    | 6 => if unit < 2 ^ 20 then s.tileFlaw (unit / 16) (unit % 16)
      else let u := unit - 2 ^ 20; s.accessFlaw ⟨u / 2 ^ 16, u / 16 % 2 ^ 12, u % 16⟩
    | _ => s

/-- The markers of the errors detected last are stored (R323). -/
def State.storeMarks (s : State) : State :=
  if s.dev.unmarked = [] then s else s.updDev fun d => { d with unmarked := [] }

/-- An uncorrectable error in a context's registers, queue or restart record: it stops as by an unhandled trap, and
the host cannot resume it. -/
def State.registerError (s : State) (c : CtxId) : State :=
  match s.ctx c with
  | none => s
  | some x =>
    let t : Trap := ⟨Cause.memoryError, syndrome 0 false false 0, 0, false, false, 0⟩
    let s := (s.updCtx c fun x => { x with dead := true }).countError 0 (s.coreOfCtx c / 8 * 2 ^ 30)
    s.takeTrap c t x.pc

def execUncorrectableRegisterError (c : CtxId) (s : State) : Out3 := .next (s.registerError c)

/-! ### Ageing (R371) -/

/-- What a sample finds for a quad: 64 × the points to be removed from the top, plus the guard in millivolts. -/
def Quad.aged (q : Quad) (slot found : Nat) : Quad :=
  let g := min (found % 64) 40
  let top := min q.top (7 - found / 64)
  { q with
    newGuard := g
    guardSince := if g = q.newGuard then q.guardSince else slot
    top := top
    capCeil := min q.capCeil top }

/-- The quads of a C-die. -/
def dieQuads (die : Nat) : List Nat := (List.range 768).filter fun q => dieOf (q / 2) == die

/-- Power-on hours, which AGESTAT.HOURS shows: they count across resets. -/
def State.powerHours (s : State) : Nat := (s.dev.powerSlots + (s.slot : Int)).toNat / hourSlots % 2 ^ 32

/-- AGESTAT of a C-die, but for its hours, which a read takes as they stand. -/
def State.ageWord (s : State) (die : Nat) : W64 :=
  let qs := (dieQuads die).map s.quadOf
  let top := qs.foldl (fun m q => min m q.top) 7
  let guard := qs.foldl (fun m q => max m q.newGuard) 0
  BitVec.ofNat 64 ((if top < 7 then 2 ^ 63 else 0) + top * 2 ^ 56 + guard * 2 ^ 48)

/-- The path monitors are sampled: at stage 4 and then every 2^38 slots. -/
def State.ageing (s : State) (found : List (Nat × Nat)) : State :=
  if s.bootStage ≠ 4 ∧ s.slot < s.dev.lastAge + 2 ^ 38 then s
  else
    let s := s.updDev fun d => { d with lastAge := s.slot }
    let s := found.foldl (fun s f => s.updQuad f.1 fun q => q.aged s.slot f.2) s
    (List.range 8).foldl (fun s n => s.setMg (rAGESTAT n) (s.ageWord n)) s

def execAgeingSample (guards : List (Nat × Nat)) (s : State) : Out3 := .next (s.ageing guards)

/-- A guard that has waited 2^31 slots is applied by a transition to the quad's present point. -/
def State.forceGuard (s : State) (quad : Nat) : State :=
  let q := s.quadOf quad
  if q.newGuard = q.guard ∨ q.phase ≠ 0 ∨ s.slot < q.guardSince + 2 ^ 31 then s
  else s.updQuad quad fun q => q.begin_ s.slot q.point

def execGuardForceTransition (quad : Nat) (s : State) : Out3 := .next (s.forceGuard quad)

end Sys2Proof.Machine
end

