-- ==== Sys2Proof/Machine/Registers.lean ====
section
/-! DEFINITION. Register accesses of the host (00 R9, R10; 12 R325, R326; 15 R364, R372): where each write goes, the
access codes of the registers without a behaviour of their own, what a read returns, and the capability list. -/

namespace Sys2Proof.Machine

/-- The registers that PF0 shows from stage 1 on (R364). -/
def earlyReg (off : Nat) : Bool :=
  off == rCAPPTR || off == rBOOTSTAT || off == rATTADDR || off == rATTCMD || off == rATTSTAT ||
  (decide (rATTNONCE 0 ≤ off) && decide (off ≤ rATTNONCE 7)) ||
  (decide (Config.capOffset ≤ off) && decide (off < Config.capOffset + 128))

/-- A field of which a write of 0 is ignored: it keeps the old bits. -/
def keepZero (hi lo : Nat) (old new : W64) : W64 :=
  if bits new hi lo = 0 then putBits new hi lo (bits old hi lo) else new

/-- A write by the access codes of a control-page register (R9, R10). -/
def State.plainCtl (s : State) (vd off : Nat) (v : W64) : State :=
  match findSpec controlSpecs off with
  | none => s
  | some r =>
    let old := s.ctl vd off
    let new := r.write old v
    s.setCtl vd off
      (if off = rVDMODE then keepZero 47 32 old (keepZero 31 0 old new)
       else if off = rTRCTL then keepZero 23 8 old new
       else new)

/-- A queue number or table entry by its offset. -/
def indexOf {n : Nat} (f : Fin n → Nat) (off : Nat) : Option (Fin n) := (List.finRange n).find? fun i => f i == off

/-- The partition whose registers an offset lies in. -/
def partAt (off : Nat) : Option (Fin 8) :=
  (List.finRange 8).find? fun n => decide (rPART n.val ≤ off) && decide (off < rPART n.val + 0x20)

/-- A write in the control page. -/
def State.writeCtl (s : State) (vd off : Nat) (v : W64) : State :=
  match indexOf (fun p : Fin 12 => rLQCTL p) off, indexOf (fun p : Fin 12 => rLQNOTIFY p) off,
      indexOf (fun n : Fin 16 => rGANG n) off with
  | some p, _, _ => s.lqEnable vd p v
  | _, some p, _ => s.lqNotify vd p v
  | _, _, some n => s.gangnWrite vd n v
  | none, none, none =>
    if off = rTLBINV1 then s.queueInval vd false v
    else if off = rPTDATA then s.writePtdata vd v
    else if off = rPGCMD then s.startPageMove vd v
    else if off = rGKREQ then s.gkreq vd v
    else if off = rSVCRES then s.svcres vd v
    else s.plainCtl vd off v

def State.plainHyp (s : State) (vd off : Nat) (v : W64) : State :=
  match findSpec hyperSpecs off with
  | none => s
  | some r => s.setHyp vd off (r.write (s.hyp vd off) v)

/-- A write in the hypervisor page. VDMODE.SYSOK is set at 0x0200 (DESIGN CHOICE, entry 23). -/
def State.writeHyp (s : State) (vd off : Nat) (v : W64) : State :=
  if off = rVDCTL then s.writeVdctl vd v
  else if off = rTLBINV2 then s.queueInval vd true v
  else if off = rS2PTDATA then s.writeS2ptdata vd v
  else if off = rS2PTCLR then s.clearS2 vd v
  else if off = rVDSCHED then s.writeVdsched vd v
  else if off = rDIEMAP then (s.plainHyp vd off v).retestVd vd
  else if off = 0x0200 then s.setCtl vd rVDMODE (putBits (s.ctl vd rVDMODE) 61 61 (bits v 61 61))
  else s.plainHyp vd off v

/-- A write of KEYCMD. -/
def State.writeKeycmd (s : State) (v : W64) : State :=
  if !bit v 63 then s
  else if bits v 15 14 = 0 then s.loadKey (bits v 12 0)
  else if bits v 15 14 = 1 then s.clearKey (bits v 12 0)
  else s

/-- A write in the management page. -/
def State.writeMgmt (s : State) (off : Nat) (v : W64) : State :=
  match indexOf (fun p : Fin 16 => rPORT p) off, partAt off with
  | some p, _ => s.writePort p v
  | none, some n =>
    match off - rPART n with
    | 0x00 => s.writePtclus n false v
    | 0x08 => s.writePtclus n true v
    | 0x10 => s.writePtctl n v
    | _ => s.writePtramp n v
  | none, none =>
    if off = rKEYCMD then s.writeKeycmd v
    else if off = rFABCFG then s.writeFabcfg v
    else if off = rPWRCAP then s.setMg off (BitVec.ofNat 64 (capTaken (bits v 15 0)))
    else if off = rTHERMLIM then s.setMg off (BitVec.ofNat 64 (limitTaken (bits v 7 0)))
    else if off = rATTCMD then (if bit v 63 then s.attStart (bits v 1 0) else s)
    else if (rKEYDATA 0 ≤ off ∧ off ≤ rKEYDATA 7) ∨ (rATTNONCE 0 ≤ off ∧ off ≤ rATTNONCE 7) then s.setMg off v
    else match findSpec mgmtSpecs off with
      | none => s
      | some r => s.setMg off (r.write (s.mg off) v)

/-- An aligned 8-byte register write. Before READY only the registers of stage 1 take one (R364). -/
def State.writeReg (s : State) (page : RegPage) (off : Nat) (v : W64) : State :=
  if off % 8 ≠ 0 then s
  else match page with
    | .mgmt => if s.bootReady || (s.attUp && earlyReg off) then s.writeMgmt off v else s
    | .hyper vd => if s.bootReady then s.writeHyp vd off v else s
    | .control vd => if s.bootReady then s.writeCtl vd off v else s

def execRegisterWrite (page : RegPage) (off : Nat) (v : W64) (s : State) : Out3 := .next (s.writeReg page off v)

/-! ### Reads -/

/-- The capability list: ID, PARAM and PARAM2 of each entry (R372). -/
def capEntries : List (Nat × Nat × Nat) :=
  [(0x0001, 8, 2 ^ 36), (0x0002, 384, 3072), (0x0003, 0xA3, 16), (0x0004, 4096, 0), (0x0005, 16, 0),
   (0x0006, 8192, 0), (0x0007, 40, 0), (0x0008, 4627, 2592)]

/-- A word of the capability list by its offset in the page. -/
def capWord (off : Nat) : W64 :=
  let i := (off - Config.capOffset) / 16
  match capEntries[i]? with
  | none => 0
  | some (id, p, p2) =>
    if (off - Config.capOffset) % 16 = 8 then BitVec.ofNat 64 p2
    else BitVec.ofNat 64 ((if i = 7 then 0 else Config.capOffset + 16 * (i + 1)) * 2 ^ 48 + id * 2 ^ 32 + p)

def isCap (off : Nat) : Bool := decide (Config.capOffset ≤ off) && decide (off < Config.capOffset + 128)

/-- What a read of the management page returns: write-only registers read as zero (R9). -/
def State.readMgmt (s : State) (off : Nat) : W64 :=
  match indexOf (fun p : Fin 16 => rPORT p) off, partAt off with
  | some p, _ => (s.dev.ports[p]).cfg
  | none, some n =>
    let x := s.dev.parts[n]
    match off - rPART n with
    | 0x00 => x.clus0
    | 0x08 => x.clus1
    | 0x10 => x.ctl
    | _ => x.ramp
  | none, none =>
    if isCap off then capWord off
    else if (rKEYDATA 0 ≤ off ∧ off ≤ rKEYDATA 7) ∨ (rATTNONCE 0 ≤ off ∧ off ≤ rATTNONCE 7) then 0
    else if (List.range 8).any fun n => off == rAGESTAT n then s.mg off ||| BitVec.ofNat 64 s.powerHours
    else s.mg off

/-- What an aligned 8-byte register read returns. -/
def State.readReg (s : State) (page : RegPage) (off : Nat) : W64 :=
  match page with
  | .mgmt => if s.bootReady || (s.attUp && earlyReg off) || off == rBOOTSTAT then s.readMgmt off else 0
  | .hyper vd =>
    if !s.bootReady then 0
    else if off = rS2PTDATA then word64 (s.devRead [] (s.s2Place vd) 8)
    else s.hyp vd off
  | .control vd =>
    if !s.bootReady then 0
    else if isCap off then capWord off
    else if off = rPTDATA then
      match s.ptPlace vd 4 with
      | none => 0
      | some (dpa, key, _) => word64 (s.devRead (s.key key) dpa 8)
    else s.ctl vd off

end Sys2Proof.Machine
end

