-- ==== Sys2Proof/Machine/Dispatch.lean ====
section
/-! DEFINITION. The dispatch: one arm per instruction and per hardware step. -/

namespace Sys2Proof.Machine

/-- The meaning of an instruction or hardware step: one call of its definition. -/
def exec (i : Instr) (s : State) : Host.Outcome State Fault Refusal :=
  match i with
  | .padWord => Sys2Proof.Machine.execPadWord s
  | .add x0 x1 x2 => Sys2Proof.Machine.execAdd x0 x1 x2 s
  | .sub x0 x1 x2 => Sys2Proof.Machine.execSub x0 x1 x2 s
  | .mul x0 x1 x2 => Sys2Proof.Machine.execMul x0 x1 x2 s
  | .mulh x0 x1 x2 => Sys2Proof.Machine.execMulh x0 x1 x2 s
  | .mulhu x0 x1 x2 => Sys2Proof.Machine.execMulhu x0 x1 x2 s
  | .div x0 x1 x2 => Sys2Proof.Machine.execDiv x0 x1 x2 s
  | .divu x0 x1 x2 => Sys2Proof.Machine.execDivu x0 x1 x2 s
  | .rem x0 x1 x2 => Sys2Proof.Machine.execRem x0 x1 x2 s
  | .remu x0 x1 x2 => Sys2Proof.Machine.execRemu x0 x1 x2 s
  | .minS x0 x1 x2 => Sys2Proof.Machine.execMinS x0 x1 x2 s
  | .maxS x0 x1 x2 => Sys2Proof.Machine.execMaxS x0 x1 x2 s
  | .minu x0 x1 x2 => Sys2Proof.Machine.execMinu x0 x1 x2 s
  | .maxu x0 x1 x2 => Sys2Proof.Machine.execMaxu x0 x1 x2 s
  | .andW x0 x1 x2 => Sys2Proof.Machine.execAndW x0 x1 x2 s
  | .orW x0 x1 x2 => Sys2Proof.Machine.execOrW x0 x1 x2 s
  | .xorW x0 x1 x2 => Sys2Proof.Machine.execXorW x0 x1 x2 s
  | .andn x0 x1 x2 => Sys2Proof.Machine.execAndn x0 x1 x2 s
  | .orn x0 x1 x2 => Sys2Proof.Machine.execOrn x0 x1 x2 s
  | .shl x0 x1 x2 => Sys2Proof.Machine.execShl x0 x1 x2 s
  | .shr x0 x1 x2 => Sys2Proof.Machine.execShr x0 x1 x2 s
  | .sra x0 x1 x2 => Sys2Proof.Machine.execSra x0 x1 x2 s
  | .rot x0 x1 x2 => Sys2Proof.Machine.execRot x0 x1 x2 s
  | .clz x0 x1 => Sys2Proof.Machine.execClz x0 x1 s
  | .ctz x0 x1 => Sys2Proof.Machine.execCtz x0 x1 s
  | .popc x0 x1 => Sys2Proof.Machine.execPopc x0 x1 s
  | .bext x0 x1 x2 => Sys2Proof.Machine.execBext x0 x1 x2 s
  | .bins x0 x1 x2 x3 => Sys2Proof.Machine.execBins x0 x1 x2 x3 s
  | .sext x0 x1 x2 => Sys2Proof.Machine.execSext x0 x1 x2 s
  | .zext x0 x1 x2 => Sys2Proof.Machine.execZext x0 x1 x2 s
  | .sel x0 x1 x2 x3 => Sys2Proof.Machine.execSel x0 x1 x2 x3 s
  | .ceq x0 x1 x2 => Sys2Proof.Machine.execCeq x0 x1 x2 s
  | .cne x0 x1 x2 => Sys2Proof.Machine.execCne x0 x1 x2 s
  | .clt x0 x1 x2 => Sys2Proof.Machine.execClt x0 x1 x2 s
  | .cle x0 x1 x2 => Sys2Proof.Machine.execCle x0 x1 x2 s
  | .cltu x0 x1 x2 => Sys2Proof.Machine.execCltu x0 x1 x2 s
  | .cleu x0 x1 x2 => Sys2Proof.Machine.execCleu x0 x1 x2 s
  | .fadd x0 x1 x2 => Sys2Proof.Machine.execFadd x0 x1 x2 s
  | .fsub x0 x1 x2 => Sys2Proof.Machine.execFsub x0 x1 x2 s
  | .fmul x0 x1 x2 => Sys2Proof.Machine.execFmul x0 x1 x2 s
  | .ffma x0 x1 x2 x3 => Sys2Proof.Machine.execFfma x0 x1 x2 x3 s
  | .fmin x0 x1 x2 => Sys2Proof.Machine.execFmin x0 x1 x2 s
  | .fmax x0 x1 x2 => Sys2Proof.Machine.execFmax x0 x1 x2 s
  | .fabs x0 x1 => Sys2Proof.Machine.execFabs x0 x1 s
  | .fneg x0 x1 => Sys2Proof.Machine.execFneg x0 x1 s
  | .frcp x0 x1 => Sys2Proof.Machine.execFrcp x0 x1 s
  | .frsq x0 x1 => Sys2Proof.Machine.execFrsq x0 x1 s
  | .fceq x0 x1 x2 => Sys2Proof.Machine.execFceq x0 x1 x2 s
  | .fclt x0 x1 x2 => Sys2Proof.Machine.execFclt x0 x1 x2 s
  | .fcle x0 x1 x2 => Sys2Proof.Machine.execFcle x0 x1 x2 s
  | .fclass x0 x1 => Sys2Proof.Machine.execFclass x0 x1 s
  | .fcvt x0 x1 x2 x3 => Sys2Proof.Machine.execFcvt x0 x1 x2 x3 s
  | .movi x0 x1 => Sys2Proof.Machine.execMovi x0 x1 s
  | .movhi x0 x1 x2 => Sys2Proof.Machine.execMovhi x0 x1 x2 s
  | .movR x0 x1 => Sys2Proof.Machine.execMovR x0 x1 s
  | .lit x0 x1 => Sys2Proof.Machine.execLit x0 x1 s
  | .pset x0 x1 x2 x3 => Sys2Proof.Machine.execPset x0 x1 x2 x3 s
  | .psetKeep x0 x1 x2 => Sys2Proof.Machine.execPsetKeep x0 x1 x2 s
  | .padd x0 x1 x2 => Sys2Proof.Machine.execPadd x0 x1 x2 s
  | .paddImm x0 x1 x2 => Sys2Proof.Machine.execPaddImm x0 x1 x2 s
  | .pget x0 x1 x2 => Sys2Proof.Machine.execPget x0 x1 x2 s
  | .br x0 x1 => Sys2Proof.Machine.execBr x0 x1 s
  | .jmp x0 x1 => Sys2Proof.Machine.execJmp x0 x1 s
  | .call x0 x1 => Sys2Proof.Machine.execCall x0 x1 s
  | .ret x0 x1 => Sys2Proof.Machine.execRet x0 x1 s
  | .brx x0 x1 => Sys2Proof.Machine.execBrx x0 x1 s
  | .loopI x0 x1 x2 => Sys2Proof.Machine.execLoopI x0 x1 x2 s
  | .hstart x0 x1 x2 => Sys2Proof.Machine.execHstart x0 x1 x2 s
  | .hjoin x0 x1 => Sys2Proof.Machine.execHjoin x0 x1 s
  | .hexit x0 => Sys2Proof.Machine.execHexit x0 s
  | .nop x0 => Sys2Proof.Machine.execNop x0 s
  | .ld x0 x1 x2 x3 x4 => Sys2Proof.Machine.execLd x0 x1 x2 x3 x4 s
  | .st x0 x1 x2 x3 x4 => Sys2Proof.Machine.execSt x0 x1 x2 x3 x4 s
  | .ldg x0 x1 x2 x3 x4 => Sys2Proof.Machine.execLdg x0 x1 x2 x3 x4 s
  | .stg x0 x1 x2 x3 x4 => Sys2Proof.Machine.execStg x0 x1 x2 x3 x4 s
  | .globalLoadReturn x0 => Sys2Proof.Machine.execGlobalLoadReturn x0 s
  | .stgHomePerform x0 => Sys2Proof.Machine.execStgHomePerform x0 s
  | .peerLoadTargetRead x0 => Sys2Proof.Machine.execPeerLoadTargetRead x0 s
  | .ldsync x0 x1 => Sys2Proof.Machine.execLdsync x0 x1 s
  | .ldsyncC x0 x1 => Sys2Proof.Machine.execLdsyncC x0 x1 s
  | .stfull x0 x1 x2 => Sys2Proof.Machine.execStfull x0 x1 x2 s
  | .setempty x0 x1 => Sys2Proof.Machine.execSetempty x0 x1 s
  | .amoSwap x0 x1 => Sys2Proof.Machine.execAmoSwap x0 x1 s
  | .amoCas x0 x1 x2 => Sys2Proof.Machine.execAmoCas x0 x1 x2 s
  | .amoAdd x0 x1 => Sys2Proof.Machine.execAmoAdd x0 x1 s
  | .amoFadd x0 x1 => Sys2Proof.Machine.execAmoFadd x0 x1 s
  | .amoMin x0 x1 => Sys2Proof.Machine.execAmoMin x0 x1 s
  | .amoMax x0 x1 => Sys2Proof.Machine.execAmoMax x0 x1 s
  | .amoAnd x0 x1 => Sys2Proof.Machine.execAmoAnd x0 x1 s
  | .amoOr x0 x1 => Sys2Proof.Machine.execAmoOr x0 x1 s
  | .amoXor x0 x1 => Sys2Proof.Machine.execAmoXor x0 x1 s
  | .amoHomeReply x0 => Sys2Proof.Machine.execAmoHomeReply x0 s
  | .redAdd x0 x1 => Sys2Proof.Machine.execRedAdd x0 x1 s
  | .redFadd x0 x1 => Sys2Proof.Machine.execRedFadd x0 x1 s
  | .redMin x0 x1 => Sys2Proof.Machine.execRedMin x0 x1 s
  | .redMax x0 x1 => Sys2Proof.Machine.execRedMax x0 x1 s
  | .redAnd x0 x1 => Sys2Proof.Machine.execRedAnd x0 x1 s
  | .redOr x0 x1 => Sys2Proof.Machine.execRedOr x0 x1 s
  | .redXor x0 x1 => Sys2Proof.Machine.execRedXor x0 x1 s
  | .fence x0 x1 => Sys2Proof.Machine.execFence x0 x1 s
  | .fenceAcq x0 x1 => Sys2Proof.Machine.execFenceAcq x0 x1 s
  | .fenceRel x0 x1 => Sys2Proof.Machine.execFenceRel x0 x1 s
  | .barArv x0 x1 => Sys2Proof.Machine.execBarArv x0 x1 s
  | .barWait x0 x1 x2 => Sys2Proof.Machine.execBarWait x0 x1 x2 s
  | .barSync x0 x1 => Sys2Proof.Machine.execBarSync x0 x1 s
  | .heldArrivalPerform x0 => Sys2Proof.Machine.execHeldArrivalPerform x0 s
  | .barrierPhaseComplete x0 x1 => Sys2Proof.Machine.execBarrierPhaseComplete x0 x1 s
  | .evsig x0 x1 => Sys2Proof.Machine.execEvsig x0 x1 s
  | .eventFireArrive x0 x1 => Sys2Proof.Machine.execEventFireArrive x0 x1 s
  | .evwaitLoad x0 x1 => Sys2Proof.Machine.execEvwaitLoad x0 x1 s
  | .mutexTake x0 x1 => Sys2Proof.Machine.execMutexTake x0 x1 s
  | .mutexTry x0 x1 => Sys2Proof.Machine.execMutexTry x0 x1 s
  | .mutexRelease x0 x1 => Sys2Proof.Machine.execMutexRelease x0 x1 s
  | .tileBarrierArrive x0 x1 => Sys2Proof.Machine.execTileBarrierArrive x0 x1 s
  | .tileBarrierWait x0 x1 => Sys2Proof.Machine.execTileBarrierWait x0 x1 s
  | .tbcfgWrite x0 x1 x2 => Sys2Proof.Machine.execTbcfgWrite x0 x1 x2 s
  | .rdvPut x0 x1 x2 => Sys2Proof.Machine.execRdvPut x0 x1 x2 s
  | .rdvGet x0 x1 => Sys2Proof.Machine.execRdvGet x0 x1 s
  | .rqcfgWrite x0 x1 x2 x3 => Sys2Proof.Machine.execRqcfgWrite x0 x1 x2 x3 s
  | .rqput x0 x1 x2 x3 => Sys2Proof.Machine.execRqput x0 x1 x2 x3 s
  | .rqputReservationArrive x0 => Sys2Proof.Machine.execRqputReservationArrive x0 s
  | .rqputDeliver x0 => Sys2Proof.Machine.execRqputDeliver x0 s
  | .rqFreeNotice x0 x1 x2 => Sys2Proof.Machine.execRqFreeNotice x0 x1 x2 s
  | .rqtake x0 x1 x2 => Sys2Proof.Machine.execRqtake x0 x1 x2 s
  | .ringDef x0 x1 x2 x3 x4 x5 x6 => Sys2Proof.Machine.execRingDef x0 x1 x2 x3 x4 x5 x6 s
  | .vadd x0 x1 => Sys2Proof.Machine.execVadd x0 x1 s
  | .vsub x0 x1 => Sys2Proof.Machine.execVsub x0 x1 s
  | .vmul x0 x1 => Sys2Proof.Machine.execVmul x0 x1 s
  | .vfma x0 x1 => Sys2Proof.Machine.execVfma x0 x1 s
  | .vfms x0 x1 => Sys2Proof.Machine.execVfms x0 x1 s
  | .vmin x0 x1 => Sys2Proof.Machine.execVmin x0 x1 s
  | .vmax x0 x1 => Sys2Proof.Machine.execVmax x0 x1 s
  | .vabs x0 x1 => Sys2Proof.Machine.execVabs x0 x1 s
  | .vneg x0 x1 => Sys2Proof.Machine.execVneg x0 x1 s
  | .vexp2 x0 x1 => Sys2Proof.Machine.execVexp2 x0 x1 s
  | .vlog2 x0 x1 => Sys2Proof.Machine.execVlog2 x0 x1 s
  | .vrcp x0 x1 => Sys2Proof.Machine.execVrcp x0 x1 s
  | .vrsq x0 x1 => Sys2Proof.Machine.execVrsq x0 x1 s
  | .vcvt x0 x1 => Sys2Proof.Machine.execVcvt x0 x1 s
  | .vand x0 x1 => Sys2Proof.Machine.execVand x0 x1 s
  | .vor x0 x1 => Sys2Proof.Machine.execVor x0 x1 s
  | .vxor x0 x1 => Sys2Proof.Machine.execVxor x0 x1 s
  | .vshl x0 x1 => Sys2Proof.Machine.execVshl x0 x1 s
  | .vshr x0 x1 => Sys2Proof.Machine.execVshr x0 x1 s
  | .vsra x0 x1 => Sys2Proof.Machine.execVsra x0 x1 s
  | .vcmp x0 x1 => Sys2Proof.Machine.execVcmp x0 x1 s
  | .vsel x0 x1 => Sys2Proof.Machine.execVsel x0 x1 s
  | .vbcast x0 x1 => Sys2Proof.Machine.execVbcast x0 x1 s
  | .vmov x0 x1 => Sys2Proof.Machine.execVmov x0 x1 s
  | .vperm x0 x1 => Sys2Proof.Machine.execVperm x0 x1 s
  | .vredadd x0 x1 => Sys2Proof.Machine.execVredadd x0 x1 s
  | .vredmax x0 x1 => Sys2Proof.Machine.execVredmax x0 x1 s
  | .vredmin x0 x1 => Sys2Proof.Machine.execVredmin x0 x1 s
  | .vscan x0 x1 => Sys2Proof.Machine.execVscan x0 x1 s
  | .vgath x0 x1 => Sys2Proof.Machine.execVgath x0 x1 s
  | .vscat x0 x1 => Sys2Proof.Machine.execVscat x0 x1 s
  | .vectorGroup x0 => Sys2Proof.Machine.execVectorGroup x0 s
  | .vectorCompletion x0 x1 => Sys2Proof.Machine.execVectorCompletion x0 x1 s
  | .vsetvl x0 x1 => Sys2Proof.Machine.execVsetvl x0 x1 s
  | .vsetvlImm x0 x1 => Sys2Proof.Machine.execVsetvlImm x0 x1 s
  | .mwld x0 x1 => Sys2Proof.Machine.execMwld x0 x1 s
  | .mwldImg x0 x1 x2 => Sys2Proof.Machine.execMwldImg x0 x1 x2 s
  | .mwldGl x0 x1 x2 => Sys2Proof.Machine.execMwldGl x0 x1 x2 s
  | .mma x0 x1 => Sys2Proof.Machine.execMma x0 x1 s
  | .mmaSp x0 x1 => Sys2Proof.Machine.execMmaSp x0 x1 s
  | .mzero x0 x1 => Sys2Proof.Machine.execMzero x0 x1 s
  | .maccRd x0 x1 => Sys2Proof.Machine.execMaccRd x0 x1 s
  | .maccWr x0 x1 => Sys2Proof.Machine.execMaccWr x0 x1 s
  | .macq x0 x1 => Sys2Proof.Machine.execMacq x0 x1 s
  | .mrel x0 x1 => Sys2Proof.Machine.execMrel x0 x1 s
  | .mpin x0 x1 => Sys2Proof.Machine.execMpin x0 x1 s
  | .munpin x0 x1 => Sys2Proof.Machine.execMunpin x0 x1 s
  | .mstat x0 x1 => Sys2Proof.Machine.execMstat x0 x1 s
  | .deltaUpd x0 x1 => Sys2Proof.Machine.execDeltaUpd x0 x1 s
  | .deltaChunk x0 x1 => Sys2Proof.Machine.execDeltaChunk x0 x1 s
  | .deltaQry x0 x1 => Sys2Proof.Machine.execDeltaQry x0 x1 s
  | .tileOp x0 => Sys2Proof.Machine.execTileOp x0 s
  | .matrixCommandComplete x0 x1 => Sys2Proof.Machine.execMatrixCommandComplete x0 x1 s
  | .matrixErrorEnd x0 x1 => Sys2Proof.Machine.execMatrixErrorEnd x0 x1 s
  | .tileRestore x0 x1 => Sys2Proof.Machine.execTileRestore x0 x1 s
  | .cpy x0 x1 x2 x3 x4 => Sys2Proof.Machine.execCpy x0 x1 x2 x3 x4 s
  | .cpy2d x0 x1 x2 x3 x4 x5 => Sys2Proof.Machine.execCpy2d x0 x1 x2 x3 x4 x5 s
  | .engineTranslationDone x0 => Sys2Proof.Machine.execEngineTranslationDone x0 s
  | .channelLineWrite x0 x1 => Sys2Proof.Machine.execChannelLineWrite x0 x1 s
  | .engineCommandComplete x0 x1 => Sys2Proof.Machine.execEngineCommandComplete x0 x1 s
  | .engineFaultEnd x0 x1 => Sys2Proof.Machine.execEngineFaultEnd x0 x1 s
  | .wpwait x0 x1 x2 => Sys2Proof.Machine.execWpwait x0 x1 x2 s
  | .gath x0 x1 x2 x3 x4 x5 => Sys2Proof.Machine.execGath x0 x1 x2 x3 x4 x5 s
  | .coll x0 x1 x2 x3 x4 => Sys2Proof.Machine.execColl x0 x1 x2 x3 x4 s
  | .snap x0 x1 x2 x3 x4 x5 => Sys2Proof.Machine.execSnap x0 x1 x2 x3 x4 x5 s
  | .sigDec x0 x1 x2 => Sys2Proof.Machine.execSigDec x0 x1 x2 s
  | .launch x0 x1 => Sys2Proof.Machine.execLaunch x0 x1 s
  | .launchAccept x0 => Sys2Proof.Machine.execLaunchAccept x0 s
  | .arm x0 x1 x2 x3 => Sys2Proof.Machine.execArm x0 x1 x2 x3 s
  | .disarm x0 x1 => Sys2Proof.Machine.execDisarm x0 x1 s
  | .cktReq x0 x1 x2 x3 => Sys2Proof.Machine.execCktReq x0 x1 x2 x3 s
  | .cktRel x0 x1 => Sys2Proof.Machine.execCktRel x0 x1 s
  | .cktStat x0 x1 => Sys2Proof.Machine.execCktStat x0 x1 s
  | .locq x0 x1 x2 => Sys2Proof.Machine.execLocq x0 x1 x2 s
  | .tfence x0 => Sys2Proof.Machine.execTfence x0 s
  | .trapN x0 x1 => Sys2Proof.Machine.execTrapN x0 x1 s
  | .svc x0 x1 => Sys2Proof.Machine.execSvc x0 x1 s
  | .eret x0 => Sys2Proof.Machine.execEret x0 s
  | .srd x0 x1 => Sys2Proof.Machine.execSrd x0 x1 s
  | .swr x0 x1 x2 => Sys2Proof.Machine.execSwr x0 x1 x2 s
  | .srsRd x0 x1 x2 => Sys2Proof.Machine.execSrsRd x0 x1 x2 s
  | .srsWr x0 x1 x2 x3 => Sys2Proof.Machine.execSrsWr x0 x1 x2 x3 s
  | .srsRdAnswer x0 x1 => Sys2Proof.Machine.execSrsRdAnswer x0 x1 s
  | .prio x0 x1 => Sys2Proof.Machine.execPrio x0 x1 s
  | .time x0 x1 => Sys2Proof.Machine.execTime x0 x1 s
  | .chkpt x0 => Sys2Proof.Machine.execChkpt x0 s
  | .pwrReq x0 x1 => Sys2Proof.Machine.execPwrReq x0 x1 s
  | .halt x0 => Sys2Proof.Machine.execHalt x0 s
  | .bankpwrWrite x0 x1 x2 => Sys2Proof.Machine.execBankpwrWrite x0 x1 x2 s
  | .bankWakeDone x0 x1 => Sys2Proof.Machine.execBankWakeDone x0 x1 s
  | .retBankWake x0 x1 => Sys2Proof.Machine.execRetBankWake x0 x1 s
  | .mqwtWrite x0 x1 x2 => Sys2Proof.Machine.execMqwtWrite x0 x1 x2 s
  | .lqEnable x0 x1 x2 => Sys2Proof.Machine.execLqEnable x0 x1 x2 s
  | .lqNotify x0 x1 x2 => Sys2Proof.Machine.execLqNotify x0 x1 x2 s
  | .lqFetch x0 x1 => Sys2Proof.Machine.execLqFetch x0 x1 s
  | .lqRereadTimer x0 x1 => Sys2Proof.Machine.execLqRereadTimer x0 x1 s
  | .taggedLaunchMessage x0 x1 x2 => Sys2Proof.Machine.execTaggedLaunchMessage x0 x1 x2 s
  | .waitvaPoll x0 => Sys2Proof.Machine.execWaitvaPoll x0 s
  | .sheafPlace x0 => Sys2Proof.Machine.execSheafPlace x0 s
  | .placementRetest x0 => Sys2Proof.Machine.execPlacementRetest x0 s
  | .sheafStop x0 => Sys2Proof.Machine.execSheafStop x0 s
  | .stopTimeout x0 => Sys2Proof.Machine.execStopTimeout x0 s
  | .speltSaveDone x0 => Sys2Proof.Machine.execSpeltSaveDone x0 s
  | .sheafResume x0 => Sys2Proof.Machine.execSheafResume x0 s
  | .ageLimitExpiry x0 => Sys2Proof.Machine.execAgeLimitExpiry x0 s
  | .sheafMigrate x0 x1 x2 => Sys2Proof.Machine.execSheafMigrate x0 x1 x2 s
  | .sheafRetire x0 => Sys2Proof.Machine.execSheafRetire x0 s
  | .gangReserved x0 x1 => Sys2Proof.Machine.execGangReserved x0 x1 s
  | .gangCommit x0 x1 => Sys2Proof.Machine.execGangCommit x0 x1 s
  | .gangStartSlot x0 => Sys2Proof.Machine.execGangStartSlot x0 s
  | .gangArrivalMessage x0 x1 x2 => Sys2Proof.Machine.execGangArrivalMessage x0 x1 x2 s
  | .gkreqWrite x0 x1 => Sys2Proof.Machine.execGkreqWrite x0 x1 s
  | .gangnWrite x0 x1 x2 => Sys2Proof.Machine.execGangnWrite x0 x1 x2 s
  | .deadlockDetect x0 => Sys2Proof.Machine.execDeadlockDetect x0 s
  | .svcresWrite x0 x1 => Sys2Proof.Machine.execSvcresWrite x0 x1 s
  | .batchServe x0 x1 => Sys2Proof.Machine.execBatchServe x0 x1 s
  | .checkpointCopyDone x0 => Sys2Proof.Machine.execCheckpointCopyDone x0 s
  | .unnumberedCheckpoint x0 => Sys2Proof.Machine.execUnnumberedCheckpoint x0 s
  | .sliceEnd x0 => Sys2Proof.Machine.execSliceEnd x0 s
  | .saveStartTimer x0 => Sys2Proof.Machine.execSaveStartTimer x0 s
  | .tenantTurn x0 => Sys2Proof.Machine.execTenantTurn x0 s
  | .tlbinv1Write x0 x1 => Sys2Proof.Machine.execTlbinv1Write x0 x1 s
  | .tlbinv2Write x0 x1 => Sys2Proof.Machine.execTlbinv2Write x0 x1 s
  | .tlbInvalidationDone x0 x1 => Sys2Proof.Machine.execTlbInvalidationDone x0 x1 s
  | .ptdataWrite x0 x1 => Sys2Proof.Machine.execPtdataWrite x0 x1 s
  | .s2ptdataWrite x0 x1 => Sys2Proof.Machine.execS2ptdataWrite x0 x1 s
  | .s2ptclr x0 x1 => Sys2Proof.Machine.execS2ptclr x0 x1 s
  | .pageMove x0 x1 => Sys2Proof.Machine.execPageMove x0 x1 s
  | .pageMoveDone x0 => Sys2Proof.Machine.execPageMoveDone x0 s
  | .pageResponse x0 x1 x2 => Sys2Proof.Machine.execPageResponse x0 x1 x2 s
  | .atsTranslationCompletion x0 x1 x2 => Sys2Proof.Machine.execAtsTranslationCompletion x0 x1 x2 s
  | .atsInvalidationRequest x0 x1 x2 => Sys2Proof.Machine.execAtsInvalidationRequest x0 x1 x2 s
  | .vdReset x0 x1 => Sys2Proof.Machine.execVdReset x0 x1 s
  | .zeroingDone x0 => Sys2Proof.Machine.execZeroingDone x0 s
  | .keyLoad x0 => Sys2Proof.Machine.execKeyLoad x0 s
  | .keyClear x0 => Sys2Proof.Machine.execKeyClear x0 s
  | .signalWindowRead x0 x1 => Sys2Proof.Machine.execSignalWindowRead x0 x1 s
  | .hostUnsupportedAccess x0 x1 x2 => Sys2Proof.Machine.execHostUnsupportedAccess x0 x1 x2 s
  | .fabcfgWrite x0 => Sys2Proof.Machine.execFabcfgWrite x0 s
  | .fabquotaWrite x0 x1 => Sys2Proof.Machine.execFabquotaWrite x0 x1 s
  | .configTrain => Sys2Proof.Machine.execConfigTrain s
  | .bromeRequest => Sys2Proof.Machine.execBromeRequest s
  | .bromeRelease => Sys2Proof.Machine.execBromeRelease s
  | .bromeAnswer => Sys2Proof.Machine.execBromeAnswer s
  | .circuitResize x0 => Sys2Proof.Machine.execCircuitResize x0 s
  | .circuitFlitArrive x0 x1 => Sys2Proof.Machine.execCircuitFlitArrive x0 x1 s
  | .memRequestInject x0 => Sys2Proof.Machine.execMemRequestInject x0 s
  | .memResponse x0 => Sys2Proof.Machine.execMemResponse x0 s
  | .portCfgWrite x0 x1 => Sys2Proof.Machine.execPortCfgWrite x0 x1 s
  | .ptpMessage x0 x1 x2 => Sys2Proof.Machine.execPtpMessage x0 x1 x2 s
  | .ethLaunchFrame x0 x1 => Sys2Proof.Machine.execEthLaunchFrame x0 x1 s
  | .ethBulkFrame x0 x1 x2 x3 => Sys2Proof.Machine.execEthBulkFrame x0 x1 x2 x3 s
  | .pointTransition x0 => Sys2Proof.Machine.execPointTransition x0 s
  | .pointTransitionDone x0 => Sys2Proof.Machine.execPointTransitionDone x0 s
  | .slewGrantUp x0 => Sys2Proof.Machine.execSlewGrantUp x0 s
  | .slewGrantDown x0 => Sys2Proof.Machine.execSlewGrantDown x0 s
  | .rampStepEnd x0 => Sys2Proof.Machine.execRampStepEnd x0 s
  | .ptctlWrite x0 x1 => Sys2Proof.Machine.execPtctlWrite x0 x1 s
  | .ptrampWrite x0 x1 => Sys2Proof.Machine.execPtrampWrite x0 x1 s
  | .vdschedWrite x0 x1 => Sys2Proof.Machine.execVdschedWrite x0 x1 s
  | .thermalSample x0 => Sys2Proof.Machine.execThermalSample x0 s
  | .thermlimWrite x0 => Sys2Proof.Machine.execThermlimWrite x0 s
  | .pwrcapWrite x0 => Sys2Proof.Machine.execPwrcapWrite x0 s
  | .powerWindow x0 x1 => Sys2Proof.Machine.execPowerWindow x0 x1 s
  | .powerCapAdjust => Sys2Proof.Machine.execPowerCapAdjust s
  | .coldReset => Sys2Proof.Machine.execColdReset s
  | .bringupStageDone x0 => Sys2Proof.Machine.execBringupStageDone x0 s
  | .pf0Flr => Sys2Proof.Machine.execPf0Flr s
  | .vfFlr x0 => Sys2Proof.Machine.execVfFlr x0 s
  | .attReport => Sys2Proof.Machine.execAttReport s
  | .attCertChain => Sys2Proof.Machine.execAttCertChain s
  | .attestDone => Sys2Proof.Machine.execAttestDone s
  | .uncorrectableRegisterError x0 => Sys2Proof.Machine.execUncorrectableRegisterError x0 s
  | .ageingSample x0 => Sys2Proof.Machine.execAgeingSample x0 s
  | .guardForceTransition x0 => Sys2Proof.Machine.execGuardForceTransition x0 s
  | .registerWrite x0 x1 x2 => Sys2Proof.Machine.execRegisterWrite x0 x1 x2 s
  | .illegalInstruction x0 x1 => Sys2Proof.Machine.execIllegalInstruction x0 x1 s
  | .pendingResultWrite x0 x1 => Sys2Proof.Machine.execPendingResultWrite x0 x1 s
  | .supplyRampDone x0 => Sys2Proof.Machine.execSupplyRampDone x0 s
  | .thermalMoveDone x0 => Sys2Proof.Machine.execThermalMoveDone x0 s
  | .speltRestoreDone x0 => Sys2Proof.Machine.execSpeltRestoreDone x0 s
  | .checkpointRecorded x0 => Sys2Proof.Machine.execCheckpointRecorded x0 s
  | .keyCommandDone => Sys2Proof.Machine.execKeyCommandDone s
  | .netCircuitActive x0 => Sys2Proof.Machine.execNetCircuitActive x0 s
  | .abandonedSlotReuse x0 x1 => Sys2Proof.Machine.execAbandonedSlotReuse x0 x1 s

end Sys2Proof.Machine
end

