-- ==== Sys2Proof/Machine/Schedule.lean ====
section
/-! DEFINITION. What moves next (DESIGN CHOICE, entry 1): the hardware steps that can happen, the thread selector of a
core (04 R93 to R95), and the passing of a slot (13 R329, 14 R349, R362). Also the three kinds of move. -/

namespace Sys2Proof.Machine

/-! ### The hardware steps that the state calls for -/

/-- Hardware steps as changes of the state; each leaves the state alone when it is not enabled. -/
abbrev Steps := List (State → State)

/-- The effect of a step if it has one. -/
def State.firstStep (s : State) : Steps → Option State
  | [] => none
  | f :: fs => if f s = s then s.firstStep fs else some (f s)

/-- What a context does before it fetches: it completes a recorded instruction or enters a trap. -/
def State.beforeFetch (s : State) (c : CtxId) : State :=
  match s.ctx c with
  | none => s
  | some x =>
    if x.mustResume || x.taking.isSome || !x.deferred.isEmpty then { (s.prepare c).1 with cur := s.cur } else s

def ctxSteps (c : CtxId) (x : Ctx) : Steps :=
  ((List.range x.pend.length).flatMap fun k => [fun s : State => s.resultWrite c k, fun s : State => s.srsAnswer c k]) ++
  [fun s : State => s.beforeFetch c, fun s : State => s.vecStep c, fun s : State => s.peerRead c, fun s : State => s.inject c, fun s : State => s.respond c,
   fun s : State => s.storeHome c, fun s : State => s.amoReply c, fun s : State => s.loadReturn c, fun s : State => s.rqReserve c,
   fun s : State => s.rqDeliver c, fun s : State => s.performHeld c, fun s : State => s.enginePass c, fun s : State => s.launchStep c,
   fun s : State => s.plainCkpt c]

def chanSteps (tile : Nat) (ch : Fin 8) : Steps :=
  [fun s : State => s.lineWrite tile ch, fun s : State => s.chanComplete tile ch, fun s : State => s.faultEnd tile ch]

/-- The notice of a queue's freed entries has reached the senders (R150). -/
def State.freeNotice (s : State) (tile : Nat) (n : Fin 32) : State :=
  if (s.tileOf tile).rq[n].freed = 0 then s
  else s.updTile tile fun t => { t with rq := t.rq.set n { t.rq[n] with freed := 0 } }

def tileSteps (tile : Nat) (t : Tile) : Steps :=
  ((List.finRange 32).map fun (n : Fin 32) (s : State) =>
    if t.fires.any (fun f => f.line == n.val && decide (f.due ≤ s.slot)) then s.fireArrive tile n else s) ++
  [fun s : State => s.stepEnd tile, fun s : State => s.tileOpStep tile] ++
  ((List.range 8).flatMap fun lc => [fun s : State => s.mqComplete tile lc, fun s : State => s.mqErrorEnd tile lc]) ++
  ((List.finRange 8).flatMap fun ch => chanSteps tile ch) ++
  ((List.finRange 32).map fun (n : Fin 32) (s : State) => s.freeNotice tile n) ++
  ((List.finRange 64).filter fun a => (t.acc[a]).isSpilled).map fun (a : Fin 64) (s : State) => s.tileRestore tile a

/-- The moves of a migration: a cluster that another sheaf waits for goes to a free one; then the sheaf goes on. -/
def State.migrateStep (s : State) (n : Nat) : State :=
  let h := s.sheafOf n
  if h.st ≠ .stopped ∨ h.stop ≠ .migrate then s
  else
    let wanted (c : Nat) : Bool := s.sheaves.any fun e => e.1 != n && s.waitsPlace e.1 e.2 && e.2.onCluster c
    let vc := (List.range h.clusters.length).find? fun i => wanted (h.clusters.getD i 0)
    let target := (s.usable h.vd).find? fun c => s.clusterFree n c
    match vc, target with
    | some v, some t => (s.migrate n v t).migrated n
    | _, _ => s.migrated n

def sheafSteps (n : Nat) (h : Sheaf) : Steps :=
  ((h.doms.map fun d => d.1).map fun d (s : State) => s.phaseComplete n d) ++
  ((h.tasks.map fun r => r.q).eraseDups.map fun q (s : State) => s.serveBatch n q) ++
  [fun s : State => if (s.sheafOf n).waitPolled + 65536 ≤ s.slot then s.pollWait n else s,
   fun s : State => s.gangArrivals n, fun s : State => s.shelfStep n, fun s : State => s.retireSheaf n, fun s : State => s.ckptRecorded n, fun s : State => s.copiesDone n, fun s : State => s.stopLate n,
   fun s : State => s.stopFlush n, fun s : State => s.saveStep n, fun s : State => s.restoreDone n, fun s : State => s.resumeStep n,
   fun s : State => (s.placeNew n).firstImage n, fun s : State => (s.gangStart n).firstImage n,
   fun s : State => s.ageStep n, fun s : State => s.stopStep n, fun s : State => s.migrateStep n]

def vdSteps (vd : Nat) : Steps :=
  ((List.finRange 12).flatMap fun p : Fin _ => [fun s : State => s.lqFetch vd p, fun s : State => s.lqReread vd p]) ++
  [fun s : State => s.invalDone vd false, fun s : State => s.invalDone vd true, fun s : State => s.finishPageMove vd, fun s : State => s.zeroDone vd,
   fun s : State => s.shrink vd, fun s : State => s.lateStep vd] ++
  ((List.finRange 64).map fun (i : Fin 64) (s : State) => s.reuseSlot vd i)

def quadSteps (quad : Nat) (q : Quad) : Steps :=
  (q.vops.map fun v (s : State) => s.vecDone quad v.n) ++
  [fun s : State => s.rampDone quad, fun s : State => s.switchDone quad, fun s : State => s.beginTransition quad, fun s : State => s.forceGuard quad]

def coreSteps (core : Nat) (c : Core) : Steps :=
  (c.goingOff.map fun b (s : State) => s.offStep core b) ++
  (c.waking.flatMap fun w => [fun s : State => s.wakeDone core w.1 false, fun s : State => s.wakeDone core w.1 true]) ++
  (if c.moveTo.isSome then [fun s : State => s.moveStep core] else [])

def circuitSteps (k : Circuit) : Steps :=
  (if k.flits.isEmpty then [] else [fun s : State => s.flitArrive k.handle true]) ++
  (if k.inbound.isEmpty then [] else [fun s : State => s.netArrive k.handle])

def devSteps : Steps :=
  [fun s : State => s.stageDone 0, fun s : State => s.attFinish,
   fun s : State => if bit (s.mg rKEYSTAT) 63 then s.setMg rKEYSTAT 0 else s,
   fun s : State => if s.bootReady then s.startTrains else s, fun s : State => s.grant, fun s : State => s.unGrant, fun s : State => s.answer, fun s : State => s.awayStep,
   fun s : State => if s.bootReady then s.capAdjust else s] ++
  ((List.finRange 8).flatMap fun p : Fin _ => [fun s : State => s.sliceEnd p, fun s : State => s.saveStart p, fun s : State => s.tenantTurn p]) ++
  [fun s : State => s.storeMarks]

/-- The quads whose clocks the model counts: those that hold grains or that the tables list. -/
def State.activeQuads (s : State) : List Nat :=
  ((s.quads.map fun e : Nat × Quad => e.1) ++ (s.grains.map fun e : (Nat × Nat) × Grain => e.2.core / 4) ++
    (s.tiles.map fun e : Nat × Tile => 2 * e.1)).eraseDups

/-- Every hardware step that the state lists something for. -/
def State.steps (s : State) : Steps :=
  (s.ctxs.flatMap fun e => ctxSteps e.1 e.2) ++
  (s.activeQuads.flatMap fun q => quadSteps q (s.quadOf q)) ++
  (s.cores.flatMap fun e => coreSteps e.1 e.2) ++
  (s.tiles.flatMap fun e => tileSteps e.1 e.2) ++
  (s.dev.circuits.flatMap circuitSteps) ++
  devSteps ++
  (s.sheaves.flatMap fun e => if e.2.st = .retired then [] else sheafSteps e.1 e.2) ++
  (s.vds.flatMap fun e => vdSteps e.1)

/-! ### The thread selector (R93 to R95) -/

/-- Whether the guard of a context's instruction is on. -/
def State.guardOnOf (s : State) (c : CtxId) (i : Instr) : Bool :=
  match headOf i with
  | some h => ({ s with cur := c } : State).guardOn h
  | none => true

/-- A context of a core as the selector sees it: its next address, whether a pad word stands there, and whether a wait
of its own holds its instruction. -/
structure Cand where
  c : CtxId
  pc : W64
  since : Nat
  pad : Bool
  held : Bool
  /-- Its instruction goes to the quad's vector unit (R161). -/
  vec : Bool := false
  deriving DecidableEq, Repr

def isPadWord : Instr → Bool
  | .padWord => true
  | _ => false

/-- Whether an instruction uses the vector unit (R161, R163). -/
def usesVector : Instr → Bool
  | .vgath .. | .vscat .. => true
  | i => (vargsOf i).isSome

/-- What the selector sees of a context that may issue. One whose next instruction has not been fetched is not ready: it
takes no issue slot, and its turn takes the fetch fault. -/
def State.peek (s : State) (c : CtxId) (x : Ctx) : Cand :=
  match s.prepare c with
  | (t, .instr i) =>
    let held := match exec i t with
      | .next u => ((u.ctx c).map Ctx.waited).getD false
      | _ => false
    ⟨c, x.pc, x.lastIssue, isPadWord i, held, usesVector i && s.guardOnOf c i⟩
  | (_, .wait) => ⟨c, x.pc, x.lastIssue, false, true, false⟩
  | _ => ⟨c, x.pc, x.lastIssue, false, false, false⟩

/-- The contexts of a core that may issue now; one whose trap waits to be entered may not (R98). -/
def State.candidates (s : State) (core : Nat) : List Cand :=
  match s.grainAt core with
  | none => []
  | some e => ((s.ctxsOf e.1.1 e.1.2).filter fun x =>
      s.live x.1 x.2 && s.mayIssue x.1 x.2 && x.2.taking.isNone).map fun x => s.peek x.1 x.2

/-- The order of R93: longest since its last issue, then the lower CTXID. -/
def Cand.before (a b : Cand) : Bool :=
  decide (a.since < b.since) || (a.since == b.since && decide (a.c.ctx < b.c.ctx))

def insertCand (le : Cand → Cand → Bool) (x : Cand) : List Cand → List Cand
  | [] => [x]
  | y :: ys => if le x y then x :: y :: ys else y :: insertCand le x ys

def sortCands (le : Cand → Cand → Bool) (l : List Cand) : List Cand := l.foldr (insertCand le) []

/-- The first candidate in rank, with the contexts that fuse with it: at most four at one address. The others at that
address remain single candidates (R94). -/
def fused (prev : Option W64) : List Cand → List Cand × List Cand
  | [] => ([], [])
  | x :: xs =>
    let g := if prev = some x.pc then [x] else ((x :: xs).filter fun y => y.pc == x.pc).take 4
    (g, (x :: xs).filter fun y => !g.contains y)

/-- The contexts that a core issues in a cycle, in increasing CTXID order (R93 to R95). -/
def picked (l : List Cand) : List Cand :=
  let (a, rest) := fused none (sortCands Cand.before l)
  let (b, _) := fused (a.head?.map fun x : Cand => x.pc) rest
  sortCands (fun x y => decide (x.c.ctx < y.c.ctx)) (a ++ b)

/-- Cores that have not selected in the present cycle of their quad. -/
def State.waitingCores (s : State) : List Nat :=
  let cores := (s.grains.filter fun e => !e.2.retired).map fun e => e.2.core
  let wants (c : Nat) : Bool :=
    (s.coreOf c).selCycle != some (s.cycleOf (c / 4)) && (s.quadOf (c / 4)).phase != 2
  (cores.filter wants)

/-- The lowest waiting core selects first: where cores compete in one cycle, the lower index takes it (R122). -/
def State.nextCore (s : State) : Option Nat :=
  s.waitingCores.foldl (fun b c => match b with
    | none => some c
    | some d => if c < d then some c else some d) none

/-- The core of a quad whose vector instruction the unit accepts next: of those that have not selected in this cycle and
are ready with one, the first in rotating order after the core accepted last (R161). -/
def State.vecTurn (s : State) (quad : Nat) : Option Nat :=
  let key (c : Nat) : Nat := (c % 4 + 3 - (s.quadOf quad).vlast) % 4
  let ready := s.waitingCores.filter fun c => c / 4 == quad && (s.candidates c).any fun x => x.vec && !x.held
  ready.foldl (fun b c => match b with
    | none => some c
    | some d => if key c < key d then some c else some d) none

/-- A core selects: contexts at pad words pass them first; then those that wait try again, and the picked ones issue. The
vector unit accepts one instruction in a cycle: of the contexts ready with one, that which R93 ranks first in the core
whose turn it is; the others are stalled (R161). -/
def State.select (s : State) (core : Nat) : State :=
  let l := s.candidates core
  let pads := l.filter fun x => x.pad
  if !pads.isEmpty then { s with sched := pads.map fun x => .issue x.c }
  else
    let first := ((sortCands Cand.before (l.filter fun x => !x.held)).find? fun x => x.vec).filter fun _ =>
      s.vecTurn (core / 4) == some core
    let out (x : Cand) : Bool := x.vec && !x.held && (first.map fun y => y.c) != some x.c
    let s := s.updCore core fun c => { c with selCycle := some (s.cycleOf (core / 4)) }
    let s := (l.filter out).foldl (fun s x => s.updCtx x.c fun c => { c with wait := .stalled }) s
    { s with sched :=
        ((l.filter fun x => x.held) ++ picked (l.filter fun x => !x.held && !out x)).map fun x => .issue x.c }

/-! ### A slot passes -/

/-- One slot of a quad's clock: a core cycle passes when 2,000 MHz have gathered, none while the clock switches. -/
def Quad.slot (q : Quad) : Quad :=
  if q.phase = 2 then q
  else
    let f := q.frac + pointMHz.getD q.point 1900
    if 2000 ≤ f then { q with frac := f - 2000, cycle := q.cycle + 1 } else { q with frac := f }

/-- A core cycle in which a context waits (R362). -/
def Ctx.idleCycle (x : Ctx) : Ctx := if x.wait = .none then x else { x with trStall := x.trStall + 1 }

/-- Where the next trace record of a virtual device goes (R362). -/
def State.traceAt (s : State) (vd : Nat) : W64 :=
  codeAddr (s.ctl vd rTRBASE) + BitVec.ofNat 64 (32 * ((s.ctl vd rTRTAIL).toNat % 2 ^ (bits (s.ctl vd rTRCTL) 3 0 + 8)))

/-- Writes a record into a virtual device's trace ring (R362). -/
def State.writeTrace (s : State) (vd : Nat) (r : TraceRec) : State :=
  let ctl := s.ctl vd rTRCTL
  let size := 2 ^ (bits ctl 3 0 + 8)
  let tail := s.ctl vd rTRTAIL
  if size ≤ (tail - s.ctl vd rTRHEAD).toNat then s.setCtl vd rTRCTL (ctl ||| maskBits 62 62)
  else
    let bs := [r.w0, r.w1, r.w2, r.w3].flatMap fun w => toBytes 8 w.toNat
    (s.gwriteAll vd noSheaf 2 (s.traceAt vd) bs).setCtl vd rTRTAIL (tail + 1)

/-- Whether a tile's `mem` circuit to the stack of a virtual device's next trace record has its slot now: one that no read's
return takes, since the model times no returns (R342, R362; entry 104). -/
def State.traceSlot (s : State) (vd tile : Nat) : Bool :=
  match s.homeOf none vd (s.traceAt vd) with
  | none => true
  | some dpa => ((s.circuit (memHandle tile (stackOf dpa))).map fun k => k.slots.contains (s.slot % 256)).getD false

/-- A tile sends the oldest record of its trace queue, in a slot of the virtual device's own, once the log has room for it
(R296). -/
def State.drainTrace (s : State) (tile : Nat) : State :=
  let t := s.tileOf tile
  match t.vd, t.traceQ with
  | some vd, r :: rs =>
    if !s.traceSlot vd tile then s
    else if s.lineHeld vd (s.traceAt vd) then s.waitLog vd
    else (s.updTile tile fun t => { t with traceQ := rs }).writeTrace vd r
  | _, _ => s

/-- The flits whose slot has come become visible: no flit is late (R331, R377). One that its target holds up stays. -/
def State.landFlits (s : State) : State :=
  s.dev.circuits.foldl (fun s k => k.flits.foldl (fun s _ => s.flitArrive k.handle true) s) s

/-- The phases that are complete end, in the slot in which the last of what they wait for has come (R261, R376). -/
def State.endPhases (s : State) : State :=
  s.sheaves.foldl (fun s e => e.2.doms.foldl (fun s d => s.phaseComplete e.1 d.1) s) s

/-- One slot passes. -/
def State.tickSlot (s : State) : State :=
  let s := if s.dev.circuits.all fun k => k.flits.isEmpty then s else s.landFlits.endPhases
  let qs := s.activeQuads
  let before (q : Nat) : Nat := (s.quadOf q).cycle
  let s' := qs.foldl (fun t q => t.updQuad q Quad.slot) { s with slot := s.slot + 1 }
  let idle (e : CtxId × Ctx) : CtxId × Ctx :=
    let q := s.coreOfCtx e.1 / 4
    if before q = (s'.quadOf q).cycle then e else (e.1, e.2.idleCycle)
  let s' := { s' with ctxs := s'.ctxs.map idle }
  (s'.tiles.map fun e => e.1).foldl (fun t x => t.drainTrace x) s'

/-! ### The choice, and the moves -/

/-- The grants of the current-slew limiter: given when nothing else happens in the cycle, so that the tiles that come to wait
in one cycle are granted in their order (R353). -/
def State.grants (s : State) : Steps :=
  s.tiles.flatMap fun e => [fun s : State => s.grantUp e.1, fun s : State => s.grantDown e.1]

/-- What happens when no move is scheduled: a hardware step that the state calls for; a core's selection; a deadlock,
once every wait has been tried again; a grant of the current-slew limiter; or else a slot passes. -/
def State.plan (s : State) : State :=
  match s.firstStep s.steps with
  | some t => t
  | none =>
    match s.nextCore with
    | some c => s.select c
    | none =>
      let dead := (s.sheaves.filter fun e => e.2.st == .running).map fun e => (fun t : State => t.deadlock e.1)
      match s.firstStep (dead ++ s.grants) with
      | some t => t
      | none => s.tickSlot

/-- Hardware steps and host accesses that happen before bring-up has ended (R364). -/
def early : Instr → Bool
  | .coldReset | .bringupStageDone _ | .attReport | .attCertChain | .attestDone | .registerWrite _ _ _
  | .ageingSample _ | .hostUnsupportedAccess _ _ _ => true
  | _ => false

def isPf0Flr : Instr → Bool
  | .pf0Flr => true
  | _ => false

def isCold : Instr → Bool
  | .coldReset => true
  | _ => false

/-- Whether a row can happen: after the thermal stop only a cold reset (R357), before READY only what stage 1 shows: a
function-level reset comes through PF0's configuration space. -/
def State.rowLive (s : State) (i : Instr) : Bool :=
  isCold i || (!s.dev.halted && (s.bootReady || early i || (isPf0Flr i && s.attUp)))

/-- A context's turn to issue: the decoded instruction executes, with Darnel and the trace around it. -/
def State.issueMove (s : State) (c : CtxId) : Host.Outcome State Fault Refusal :=
  match s.prepare c with
  | (t, .wait) => .next t
  | (t, .instr i) =>
    match exec i t with
    | .next u => .next (t.conclude c i u)
    | .fault f => .fault f
    | .refused r => .refused r
  | (t, .illegal cause detail) => execIllegalInstruction cause (BitVec.ofNat 8 detail) t

/-- One move. -/
def State.move (s : State) (m : Move) : Host.Outcome State Fault Refusal :=
  match m with
  | .issue c => if s.dev.halted then .next s else s.issueMove c
  | .row i => if s.rowLive i then exec i s else .next s
  | .flaw place unit uncorrectable => .next (if s.dev.halted then s else s.flaw place unit uncorrectable)
  | .vfDisable vd => .next (if s.dev.halted || !s.bootReady then s else s.startZeroing vd)
  | .frameOut port vd host len => .next (if s.dev.halted then s else s.frameOut port vd host len)
  | .netFlit port tag ch bytes ok => .next (if s.dev.halted then s else s.netFlit port tag ch bytes ok)
  | .tick => .next (if s.dev.halted then s else s.tickSlot)

/-- One step: the next scheduled move, or the choice of one. -/
def State.stepNext (s : State) : Host.Outcome State Fault Refusal :=
  match s.sched with
  | [] => .next (if s.dev.halted then s else s.plan)
  | m :: ms => ({ s with sched := ms } : State).move m

end Sys2Proof.Machine
end

