-- ==== Sys2Proof/Machine/Step.lean ====
section
/-! DEFINITION. The step, and a state whose next step fetches and runs a given instruction. -/

namespace Sys2Proof.Machine

/-- One step of the device: the next scheduled move, or the choice of one when none is scheduled (entry 1). -/
def step (s : State) : Host.Outcome State Fault Refusal := s.stepNext

/-- The context that `withFetchWord` sets to issue. -/
def fetchCtx : CtxId := ⟨0, 0, 0⟩

/-- A translation of the first 4 KiB of VA to the first of the device memory, with every permission and D set. -/
def fetchEntry : TlbEntry where
  vd := 0
  va := 0
  bytes := 4096
  s1 := 0x73
  ipa := 0
  s2 := 0x1F3
  dpa := 0

/-- A launch record of one grain, with a whole slice. -/
def fetchRecord : Mem := Mem.write [] 0x18 (toBytes 8 (1 + 512 * 2 ^ 32))

/-- A state whose next step issues the instruction at address 0, which a loaded program would hold: sheaf 0 of virtual
device 0 runs with one grain on core 0, its control context stands at PC 0, and that page is mapped (entry 1). The bytes
of the instruction are the word's, and zeros above them. -/
def State.withFetchWord (s : State) (nbits w : Nat) : State :=
  let sheaf : Sheaf := { Sheaf.zero with st := .running, record := fetchRecord, clusters := [0], cores := List.range 32 }
  { s with
    sched := [.issue fetchCtx]
    ctxs := Tab.put s.ctxs fetchCtx Ctx.zero
    grains := Tab.put s.grains (0, 0) Grain.zero
    sheaves := Tab.put s.sheaves 0 sheaf
    cores := Tab.put s.cores 0 { s.coreOf 0 with tlb := [fetchEntry] }
    quads := Tab.put s.quads 0 { s.quadOf 0 with phase := 0 }
    hbm := Mem.write s.hbm 0 (toBytes 16 (w % 2 ^ nbits))
    dev := { s.dev with
      halted := false
      lineKey := Tab.del s.dev.lineKey 0
      poisonHbm := s.dev.poisonHbm.filter fun l => l != 0 } }

end Sys2Proof.Machine
end

