-- ==== Sys2Proof/Safety.lean ====
section
/-! DEFINITION. What counts as a safe state and a safe run, and the words that the statements use: an instruction that
runs, what an instruction of a class writes, and what it leaves as it was. -/

namespace Sys2Proof.Machine

/-- Every memory of a state is in canonical form. -/
def State.memOk (s : State) : Bool :=
  Mem.wf s.hbm && Mem.wf s.lmem && Mem.wf s.fe && Mem.wf s.wbuf && Mem.wf s.accm && Mem.wf s.host

/-- No context and no grain stands twice in its table. -/
def State.tabsOk (s : State) : Bool :=
  decide (s.ctxs.map Prod.fst).Nodup && decide (s.grains.map Prod.fst).Nodup

/-- A step that gives a next state, neither a fault nor a refusal. -/
def stepsTo (s t : State) : Prop := step s = .next t

/-- The states that steps lead to from a state. -/
inductive Reach (s : State) : State → Prop where
  | here : Reach s s
  | step {t u : State} : Reach s t → stepsTo t u → Reach s u

/-! ### An instruction of the executing context -/

/-- The executing context is live (R12). -/
def State.lives (s : State) : Bool := (s.ctx s.cur).isSome

/-- The executing context is live and its instruction is guarded on (R12, R18, R50). -/
def State.runs (s : State) (h : Head) : Bool := s.lives && s.guardOn h

/-- The executing context is live and its instruction is guarded off (R18). -/
def State.skips (s : State) (h : Head) : Bool := s.lives && !s.guardOn h

/-- Every byte of every memory reads as before. -/
def sameMem (s t : State) : Prop :=
  ∀ a, Mem.get t.hbm a = Mem.get s.hbm a ∧ Mem.get t.lmem a = Mem.get s.lmem a ∧ Mem.get t.fe a = Mem.get s.fe a ∧
    Mem.get t.wbuf a = Mem.get s.wbuf a ∧ Mem.get t.accm a = Mem.get s.accm a ∧ Mem.get t.host a = Mem.get s.host a

/-- Nothing but contexts and the counter of free values differs, and of the contexts only one. -/
def onlyCtx (c : CtxId) (s t : State) : Prop :=
  t = { s with ctxs := t.ctxs, freeN := t.freeN } ∧ ∀ d, d ≠ c → t.ctx d = s.ctx d

/-- What every issue may change in its context, taken from `y`, and all else from `x`: PC with the registers of the
loop-end test (R114), the counts of issue, the wait, and the pending results with their ages (R18, R31, R97). -/
def issuedAs (x y : Ctx) : Ctx :=
  { x with
    pc := y.pc
    depth := y.depth
    lc := y.lc
    lcnt := y.lcnt
    issued := y.issued
    lastIssue := y.lastIssue
    readyAt := y.readyAt
    wait := y.wait
    parkedOn := y.parkedOn
    pend := y.pend
    pq := y.pq }

/-- The result queue after a push (R18): the value in Q1, and every entry one place older. -/
def pushed (q : Vector W64 16) (v : W64) : Vector W64 16 :=
  Vector.ofFn fun i => if i.val = 0 then v else q[i.val - 1]

/-- G0 to G15 after a result with a DST code (R17). -/
def gWith (x : Ctx) (d : Dst) (v : W64) : Vector W64 16 :=
  match d with
  | .g n => x.g.set n v
  | _ => x.g

/-- The queue after an instruction with a DST code has pushed (R17). -/
def qWith (x : Ctx) (d : Dst) (v : W64) : Vector W64 16 :=
  match d with
  | .none => x.q
  | _ => pushed x.q v

/-- The queue after an instruction guarded off (R17): old gN for a G destination, 0 for `q`. -/
def qOff (x : Ctx) (d : Dst) : Vector W64 16 :=
  match d with
  | .none => x.q
  | .q => pushed x.q 0
  | .g n => pushed x.q x.g[n]

/-- PC has moved past an instruction of `len` bytes, unless a loop level might end there (R114, R282). -/
def movedPast (x y : Ctx) (len : Nat) : Prop :=
  x.handler = true ∨ x.depth = 0 → y.pc = x.pc + BitVec.ofNat 64 len ∧ y.depth = x.depth ∧ y.lc = x.lc

/-- From `s` to `t` an instruction of class N has issued: no register of the context changes but those of every issue,
no other context and no memory does. -/
structure IssuesN (s t : State) (len : Nat) : Prop where
  regs : t.me = issuedAs s.me t.me
  counts : t.me.issued = s.me.issued + 1 ∧ t.me.lcnt = s.me.lcnt + 1 ∧ t.me.wait = .none
  pc : movedPast s.me t.me len
  frame : onlyCtx s.cur s t
  mem : sameMem s t

/-- From `s` to `t` an instruction of class S has issued and written the value `v` and flags (R17, R29, R51). -/
structure WritesS (s t : State) (d : Dst) (v : W64) (fl : Flags) (len : Nat) : Prop where
  regs : t.me = { issuedAs s.me t.me with g := gWith s.me d v, q := qWith s.me d v, aflags := s.me.aflags ||| fl }
  counts : t.me.issued = s.me.issued + 1 ∧ t.me.lcnt = s.me.lcnt + 1 ∧ t.me.wait = .none
  pc : movedPast s.me t.me len
  frame : onlyCtx s.cur s t
  mem : sameMem s t

/-- From `s` to `t` an instruction of class L has issued: its queue entry holds the displaced value, and its result,
flags, window and moment stand in the newest pending result (R18, R96, R97). -/
structure ReservesL (s t : State) (h : Head) (due : Option Nat) (v : Option W64) (fl : Flags) (len : Nat) : Prop where
  regs : t.me = { issuedAs s.me t.me with q := qWith s.me h.dst s.me.q[15] }
  pend : ∃ p, t.me.pend.getLast? = some p ∧ p.g = dstReg h.dst ∧ p.age = (if h.dst = .none then 0 else 1) ∧
    p.la = h.la.val ∧ p.dist = 0 ∧ p.due = due ∧ p.val = v ∧ p.flags = fl
  counts : t.me.issued = s.me.issued + 1 ∧ t.me.lcnt = s.me.lcnt + 1 ∧ t.me.wait = .none
  pc : movedPast s.me t.me len
  frame : onlyCtx s.cur s t
  mem : sameMem s t

/-- From `s` to `t` an instruction guarded off has taken its issue slot: it has pushed, and nothing else (R17, R18). -/
structure SkipsOff (s t : State) (d : Dst) (len : Nat) : Prop where
  regs : t.me = { issuedAs s.me t.me with q := qOff s.me d }
  counts : t.me.issued = s.me.issued + 1 ∧ t.me.lcnt = s.me.lcnt + 1 ∧ t.me.wait = .none
  pc : movedPast s.me t.me len
  frame : onlyCtx s.cur s t
  mem : sameMem s t

/-- The executing context with an instruction in progress (R30). -/
def State.withOut (s : State) (o : Out) : State := s.updMe fun c => { c with out := some o }

/-- Of local memory exactly the bytes from a physical address on are written, and of every other memory but the device's
nothing. -/
def storesLocal (s t : State) (p : Nat) (bs : List Byte) : Prop :=
  ∀ a, Mem.get t.lmem a = (if p ≤ a ∧ a < p + bs.length then bs.getD (a - p) 0 else Mem.get s.lmem a) ∧
    Mem.get t.fe a = Mem.get s.fe a ∧ Mem.get t.wbuf a = Mem.get s.wbuf a ∧ Mem.get t.accm a = Mem.get s.accm a ∧
    Mem.get t.host a = Mem.get s.host a

/-! ### Vector instructions (06) -/

/-- Element j of a source operand of a format V instruction whose ranges are `rs` (R157, R158): from local memory,
little-endian, or the low bits of the scalar captured at issue. -/
def State.velem (s : State) (rs : List (Nat × Rng)) (k : Nat) (d : VDesc) (ty : VTy) (bytes j : Nat) : Nat :=
  match d with
  | .absent => 0
  | .scalar _ => (s.vcap k d).toNat % 2 ^ VTy.bits ty
  | .mem .. =>
    match Tab.find rs k with
    | none => 0
    | some r => ofBytes ((List.range bytes).map fun b => Mem.get s.lmem (s.physAddr s.myView s.myLQuad (r.off + bytes * j + b)))

/-- What lets the vector unit accept an instruction in this cycle (R160, R161). -/
structure VReady (s : State) (i : Instr) (v : VArgs) (rs : List (Nat × Rng)) : Prop where
  free : s.unfence.fenced = false ∧ s.unfence.rcBusy = false ∧ s.vunitBusy = false
  ranges : s.vranges (vopds i v (activeE v.ty (vnarrow i) s.me.vl) [s.vcap 0 v.d, s.vcap 1 v.x, s.vcap 2 v.y, s.vcap 3 v.z]) = .ok rs
  banks : ∀ r ∈ rs, s.rangeHeld r.2 = false ∧ s.rngBank r.2 = .on
  holds : s.vheld (rs.map Prod.snd) = false ∧ s.vstoreHeld rs = false ∧ s.poisonIn (vsrcs rs) = none

/-- The pointers after each of a list has advanced once (R22, R159). -/
def advanced (x : Ctx) (ps : List (Fin 8)) : Vector W64 8 :=
  Vector.ofFn fun p => if p ∈ ps then x.a[p] + x.as_[p] else x.a[p]

/-- The vector unit has accepted an instruction: its result elements and flags are to be written `lat` cycles later, the
unit is taken for `occ` cycles, and its pointers have advanced (R159, R163). -/
structure EntersV (s y : State) (v : VArgs) (rs : List (Nat × Rng)) (outs : List Nat) (fl : Flags) (lf : Vector W32 64)
    (occ lat : Nat) : Prop where
  frame : y = { s with ctxs := y.ctxs, quads := y.quads }
  me : y.me = { s.unfence.me with a := advanced s.me (VArgs.posts v), lfsr := lf }
  others : ∀ c, c ≠ s.cur → y.ctx c = s.ctx c
  unit : ∃ op, y.quadOf s.myQuad = { s.quadOf s.myQuad with
      vbusy := s.cycle + occ
      vlast := s.myCore % 4
      vops := (s.quadOf s.myQuad).vops ++ [op] } ∧
    op.ctx = s.cur ∧ op.flags = fl ∧ op.due = s.cycle + lat ∧ op.past = s.cycle + occ ∧
    op.writes = (vdest rs).flatMap fun r => s.cells s.myView s.myLQuad r.off (outs.flatMap fun x => toBytes (VTy.bytes v.ty) x)
  quads : ∀ n, n ≠ s.myQuad → y.quadOf n = s.quadOf n

/-! ### Queued matrix commands (07 R180 to R182) -/

/-- What lets a queued command issue: no wait, and the checks of R182 on its accumulator tile, its footprint and its local
ranges, which resolve to `l`. -/
structure MReady (s : State) (own : Option (Fin 64)) (foot : Option (Nat × Nat)) (rs : List (W64 × Nat × Nat)) (l : List Rng) :
    Prop where
  free : s.unfence.mqWait = false
  own : ∀ a, own = some a → s.ownCheck a = none
  foot : ∀ p, foot = some p → p.1 + p.2 ≤ 16384
  ranges : s.rangesOf true rs = .ok l
  ready : ∀ r ∈ l, s.rangeHeld r = false ∧ s.rngBank r = .on ∧ s.rngMoving r = false ∧ s.unfence.rngVecHeld r = false
  room : s.scoreUsed s.myTile + l.length ≤ 128

/-- A command has entered its grain's matrix queue with its captured values and its ranges (R180, R182); the context is
`x`, and the skip stream register changes where `skip` gives a value. -/
structure QueuesM (s y : State) (x : Ctx) (i : Instr) (tag : Nat) (caps : List W64) (reads writes : List (Nat × Nat)) (ops : Nat)
    (skip : Option W64 := none) : Prop where
  frame : y = { s with ctxs := y.ctxs, grains := y.grains, tiles := y.tiles }
  me : y.me = x
  others : ∀ c, c ≠ s.cur → y.ctx c = s.ctx c
  grain : ∀ g, s.grainOf s.cur = some g → y.grainOf s.cur = some { g with
    mq := g.mq ++ [⟨(s.tileOf s.myTile).seqNext, s.quantumOf s.cur, i, s.cur, tag, caps, reads, writes, 0, ops, [], false, none, 0⟩]
    skip := skip.getD g.skip }
  grains : ∀ c, (c.sheaf, c.grain) ≠ (s.cur.sheaf, s.cur.grain) → y.grainOf c = s.grainOf c
  tile : y.tileOf s.myTile = { s.tileOf s.myTile with seqNext := (s.tileOf s.myTile).seqNext + 1 }
  tiles : ∀ t, t ≠ s.myTile → y.tileOf t = s.tileOf t

/-- The instruction issues in class N and its command enters the queue. -/
def GivesQ (i : Instr) (s : State) (x : Ctx) (tag : Nat) (caps : List W64) (reads writes : List (Nat × Nat)) (ops : Nat)
    (skip : Option W64 := none) : Prop :=
  ∃ t y, exec i s = .next t ∧ IssuesN y t 16 ∧ QueuesM s y x i tag caps reads writes ops skip

/-! ### Engine commands (08 R207 to R214) -/

/-- What lets an engine command issue: its PLV level, no wait, and the checks of R207 on its local ranges, which resolve to
`ls`, with room on the scoreboard. -/
structure EReady (s : State) (plv : Nat) (rows : List (W64 × Nat × Nat)) (ls : List Rng) (entries : Nat) : Prop where
  level : plv = 0 ∨ ((s.grain.dom plv).isSome = true ∧ s.grain.hasArrived plv = false)
  free : s.unfence.fenced = false ∧ s.unfence.rcBusy = false
  ranges : s.rangesOf true rows = .ok ls
  words : ∀ r ∈ rows, r.1.toNat % 4 = 0 ∧ r.2.1 % 4 = 0
  ready : ∀ r ∈ ls, s.rangeHeld r = false ∧ s.rngBank r = .on ∧ s.rngMoving r = false ∧ s.unfence.rngVecHeld r = false
  room : s.scoreUsed s.myTile + entries ≤ 128

/-- A command has been handed to its engine: `place` says where in the tile it now stands, `x` is the context, and the
bytes that it will write are pending in its domain (R210 to R214). -/
structure SendsE (s y : State) (x : Ctx) (c : ECmd) (place : Tile → Tile) : Prop where
  frame : y = { s with ctxs := y.ctxs, tiles := y.tiles, sheaves := y.sheaves }
  me : y.me = x
  others : ∀ d, d ≠ s.cur → y.ctx d = s.ctx d
  tile : y.tileOf s.myTile = place { s.tileOf s.myTile with seqNext := (s.tileOf s.myTile).seqNext + 1 }
  tiles : ∀ t, t ≠ s.myTile → y.tileOf t = s.tileOf t
  none_ : c.plv = 0 → y.sheaves = s.sheaves
  pend : c.plv ≠ 0 → y.sheaves =
    (s.updDom s.cur.sheaf ((s.grain.dom c.plv).getD 0) fun d => { d with pend := d.pend + c.bytes }).sheaves

/-- Opcode OPM and function FN[5:0] of the instruction's encoding (R48, R53). -/
def opFn (i : Instr) : Option (Nat × Nat) := (Instr.fields i).map fun f => (f.opm, f.fn % 64)

/-- The instruction has the opcode and function given and, from `s`, answers a next state that is `u` but for an issue of
class N: `u` is `s` with what the instruction changes besides. -/
def GivesN (i : Instr) (s u : State) (len : Nat) (code : Nat × Nat) : Prop :=
  opFn i = some code ∧ ∃ t, exec i s = .next t ∧ IssuesN u t len

/-- The same for a result of class S, written at once. -/
def GivesS (i : Instr) (s : State) (h : Head) (v : W64) (len : Nat) (code : Nat × Nat) : Prop :=
  opFn i = some code ∧ ∃ t, exec i s = .next t ∧ WritesS s t h.dst v 0 len

/-- The same for a result of class L of a latency, from the state `u`. -/
def GivesL (i : Instr) (s u : State) (h : Head) (lat : Nat) (v : W64) (fl : Flags) (len : Nat) (code : Nat × Nat) : Prop :=
  opFn i = some code ∧ ∃ t, exec i s = .next t ∧ ReservesL u t h (some (u.cycle + lat)) (some v) fl len

end Sys2Proof.Machine
end

