-- ==== Sys2Proof/Certificates/Slice0/Obligations.lean ====
section
/-! DEFINITION. The statements for the provers: what the encoding says, what each instruction and each hardware step
does, what it leaves as it was, and the invariants of the machine. -/

open Sys2Proof Sys2Proof.Machine

/-! ### Scalar instructions (04 R100 to R120) -/

/-- R101, with the latencies of R96: on every state in which the context runs, with every operand form.
R102: logical operations and shifts, a rotated bit by its place.
R103: counts, bit fields, extensions and the select.
R104: comparisons give 1 or 0. -/
def Obligations.IntegerResults : Prop :=
  (∀ (s : State) (h : Head) (a : Src) (b : IOp), s.runs h = true →
      let x := s.src 1 a
      let y := s.iop 2 b
      let n := iopLen b
      let top : W64 := BitVec.ofNat 64 (2 ^ 63)
      GivesS (.add h a b) s h (x + y) n (0x01, 0x00) ∧
      GivesS (.sub h a b) s h (x - y) n (0x01, 0x01) ∧
      GivesL (.mul h a b) s s h 3 (x * y) 0 n (0x01, 0x02) ∧
      GivesL (.mulh h a b) s s h 3 (BitVec.ofInt 64 (x.toInt * y.toInt / 2 ^ 64)) 0 n (0x01, 0x03) ∧
      GivesL (.mulhu h a b) s s h 3 (BitVec.ofNat 64 (x.toNat * y.toNat / 2 ^ 64)) 0 n (0x01, 0x04) ∧
      GivesL (.div h a b) s s h 18
        (if y = 0 then ~~~0 else if x = top ∧ y = ~~~0 then top else BitVec.ofInt 64 (x.toInt.tdiv y.toInt))
        (if y = 0 then fDZ else 0) n (0x01, 0x05) ∧
      GivesL (.divu h a b) s s h 18 (if y = 0 then ~~~0 else x / y) (if y = 0 then fDZ else 0) n (0x01, 0x06) ∧
      GivesL (.rem h a b) s s h 18
        (if y = 0 then x else if x = top ∧ y = ~~~0 then 0 else x - y * BitVec.ofInt 64 (x.toInt.tdiv y.toInt))
        (if y = 0 then fDZ else 0) n (0x01, 0x07) ∧
      GivesL (.remu h a b) s s h 18 (if y = 0 then x else x % y) (if y = 0 then fDZ else 0) n (0x01, 0x08) ∧
      GivesS (.minS h a b) s h (if x.toInt ≤ y.toInt then x else y) n (0x01, 0x09) ∧
      GivesS (.maxS h a b) s h (if x.toInt ≤ y.toInt then y else x) n (0x01, 0x0A) ∧
      GivesS (.minu h a b) s h (if x ≤ y then x else y) n (0x01, 0x0B) ∧
      GivesS (.maxu h a b) s h (if x ≤ y then y else x) n (0x01, 0x0C)) ∧
  (∀ (s : State) (h : Head) (a : Src) (b : IOp), s.runs h = true →
      let x := s.src 1 a
      let y := s.iop 2 b
      let n := iopLen b
      let c := bits y 5 0
      GivesS (.andW h a b) s h (x &&& y) n (0x02, 0x00) ∧
      GivesS (.orW h a b) s h (x ||| y) n (0x02, 0x01) ∧
      GivesS (.xorW h a b) s h (x ^^^ y) n (0x02, 0x02) ∧
      GivesS (.andn h a b) s h (x &&& ~~~y) n (0x02, 0x03) ∧
      GivesS (.orn h a b) s h (x ||| ~~~y) n (0x02, 0x04) ∧
      GivesS (.shl h a b) s h (x <<< c) n (0x02, 0x05) ∧
      GivesS (.shr h a b) s h (x >>> c) n (0x02, 0x06) ∧
      (∃ v, GivesS (.sra h a b) s h v n (0x02, 0x07) ∧
        ∀ i, i < 64 → bit v i = bit x (min 63 (i + c))) ∧
      (∃ v, GivesS (.rot h a b) s h v n (0x02, 0x08) ∧ ∀ i, i < 64 → bit v i = bit x ((i + 64 - c) % 64))) ∧
  (∀ (s : State) (h : Head) (a b : Src) (c : IOp), s.runs h = true →
      let x := s.src 1 a
      let y := s.iop 2 c
      let n := iopLen c
      (∃ v, GivesS (.clz h a) s h (BitVec.ofNat 64 v) 8 (0x03, 0x00) ∧ v ≤ 64 ∧ (v < 64 → bit x (63 - v) = true) ∧
        ∀ i, i < v → bit x (63 - i) = false) ∧
      (∃ v, GivesS (.ctz h a) s h (BitVec.ofNat 64 v) 8 (0x03, 0x01) ∧ v ≤ 64 ∧ (v < 64 → bit x v = true) ∧
        ∀ i, i < v → bit x i = false) ∧
      GivesS (.popc h a) s h (BitVec.ofNat 64 ((List.range 64).filter fun i => bit x i).length) 8 (0x03, 0x02) ∧
      (let w := min 64 (bits y 14 8)
       GivesS (.bext h a c) s h (BitVec.ofNat 64 (x.toNat / 2 ^ bits y 5 0 % 2 ^ w)) n (0x03, 0x03)) ∧
      (let k := s.iop 3 c
       let m : W64 := BitVec.ofNat 64 ((2 ^ min 64 (bits k 14 8) - 1) * 2 ^ bits k 5 0)
       GivesS (.bins h a b c) s h ((x &&& ~~~m) ||| ((s.src 2 b <<< bits k 5 0) &&& m)) n (0x03, 0x04)) ∧
      GivesS (.sext h a c) s h ((x.setWidth (bits y 6 0)).signExtend 64) n (0x03, 0x05) ∧
      GivesS (.zext h a c) s h ((x.setWidth (bits y 6 0)).setWidth 64) n (0x03, 0x06) ∧
      GivesS (.sel h a b c) s h (if bit x 0 then s.src 2 b else s.iop 3 c) n (0x03, 0x07)) ∧
  (∀ (s : State) (h : Head) (a : Src) (b : IOp), s.runs h = true →
      let x := s.src 1 a
      let y := s.iop 2 b
      let n := iopLen b
      GivesS (.ceq h a b) s h (if x = y then 1 else 0) n (0x04, 0x00) ∧
      GivesS (.cne h a b) s h (if x = y then 0 else 1) n (0x04, 0x01) ∧
      GivesS (.clt h a b) s h (if x.toInt < y.toInt then 1 else 0) n (0x04, 0x02) ∧
      GivesS (.cle h a b) s h (if x.toInt ≤ y.toInt then 1 else 0) n (0x04, 0x03) ∧
      GivesS (.cltu h a b) s h (if x.toNat < y.toNat then 1 else 0) n (0x04, 0x04) ∧
      GivesS (.cleu h a b) s h (if x.toNat ≤ y.toNat then 1 else 0) n (0x04, 0x05))

/-- R105 with the latencies of R96: scalar FP32 results and flags, by the shared operations on binary32 patterns. -/
def Obligations.FloatArithmeticResults : Prop :=
  ∀ (s : State) (h : Head) (a b : Src) (c : FOp), s.runs h = true →
    let x := s.fsrc 1 a
    let y := s.fop 2 c
    let n := fopLen c
    let gives (i : Instr) (lat : Nat) (r : Nat × Flags) (n code : Nat) : Prop :=
      GivesL i s s h lat (BitVec.ofNat 64 r.1) r.2 n (0x10, code)
    gives (.fadd h a c) 4 (fp32.add x y) n 0x00 ∧
    gives (.fsub h a c) 4 (fp32.sub x y) n 0x01 ∧
    gives (.fmul h a c) 4 (fp32.mul x y) n 0x02 ∧
    gives (.ffma h a b c) 4 (fp32.fma x (s.fsrc 2 b) (s.fop 3 c)) n 0x03 ∧
    gives (.fmin h a c) 4 (fp32.minmax false x y) n 0x04 ∧
    gives (.fmax h a c) 4 (fp32.minmax true x y) n 0x05 ∧
    gives (.fabs h a) 4 (x % 2 ^ 31, 0) 8 0x06 ∧
    gives (.fneg h a) 4 (x ^^^ 2 ^ 31, 0) 8 0x07 ∧
    gives (.frcp h a) 12 (fp32.rcp x) 8 0x08 ∧
    gives (.frsq h a) 12 (fp32.rsq x) 8 0x09

/-- R106 and R107: FP32 comparisons, the one-hot class mask, and conversions, which step LFSR0 under SR alone.
R81 and R82 on the operands that they name: reciprocals of zeros and infinities, minima of zeros, comparisons with
NaN operands. -/
def Obligations.FloatCompareConvertAndSpecials : Prop :=
  (∀ (s : State) (h : Head) (a : Src) (b : FOp) (k : CvtKind), s.runs h = true →
      let x := s.fsrc 1 a
      let y := s.fop 2 b
      let n := fopLen b
      let rnd := lfsrStep s.me.lfsr[0]
      let stepped := s.updMe fun c => { c with lfsr := c.lfsr.set 0 rnd }
      GivesL (.fceq h a b) s s h 4 (boolW (fp32.cmp 0 x y).1) (fp32.cmp 0 x y).2 n (0x11, 0x00) ∧
      GivesL (.fclt h a b) s s h 4 (boolW (fp32.cmp 1 x y).1) (fp32.cmp 1 x y).2 n (0x11, 0x01) ∧
      GivesL (.fcle h a b) s s h 4 (boolW (fp32.cmp 2 x y).1) (fp32.cmp 2 x y).2 n (0x11, 0x02) ∧
      (∃ j, j < 10 ∧ GivesL (.fclass h a) s s h 4 (BitVec.ofNat 64 (2 ^ j)) 0 8 (0x11, 0x03)) ∧
      (∀ rm, rm ≠ .sr → GivesL (.fcvt h a k rm) s s h 4 (fcvtOp k (rmMode rm 0) (s.src 1 a)).1
        (fcvtOp k (rmMode rm 0) (s.src 1 a)).2 8 (0x11, 0x04)) ∧
      GivesL (.fcvt h a k .sr) s stepped h 4 (fcvtOp k (rmMode .sr rnd) (s.src 1 a)).1
        (fcvtOp k (rmMode .sr rnd) (s.src 1 a)).2 8 (0x11, 0x04)) ∧
  (fp32.rcp 0xFF80_0000 = (0x8000_0000, 0) ∧ fp32.rcp 0x8000_0000 = (0xFF80_0000, fDZ) ∧
    fp32.rcp 0 = (0x7F80_0000, fDZ) ∧ fp32.rcp 0x7F80_0000 = (0, 0) ∧
    fp32.rsq 0xFF80_0000 = (0x7FC0_0000, fNV) ∧ fp32.rsq 0x8000_0000 = (0xFF80_0000, fDZ) ∧
    fp32.rsq 0 = (0x7F80_0000, fDZ) ∧ fp32.rsq 0x7F80_0000 = (0, 0) ∧ fp32.rsq 0xBF80_0000 = (0x7FC0_0000, fNV) ∧
    fp32.add 0 0x8000_0000 = (0, 0) ∧ fp32.add 0x8000_0000 0x8000_0000 = (0x8000_0000, 0) ∧
    fp32.fma 0x7F80_0000 0 0x7FC0_0000 = (0x7FC0_0000, fNV) ∧
    fp32.minmax false 0 0x8000_0000 = (0x8000_0000, 0) ∧ fp32.minmax true 0x8000_0000 0 = (0, 0) ∧
    fp32.minmax false 0x7FC0_0000 0x3F80_0000 = (0x3F80_0000, 0) ∧
    fp32.minmax true 0x7F80_0001 0x3F80_0000 = (0x3F80_0000, fNV) ∧
    fp32.cmp 0 0 0x8000_0000 = (true, 0) ∧ fp32.cmp 0 0x7FC0_0000 0 = (false, 0) ∧
    fp32.cmp 0 0x7F80_0001 0 = (false, fNV) ∧ fp32.cmp 1 0x7FC0_0000 0 = (false, fNV) ∧ fp32.cmp 2 0 0x7FC0_0000 = (false, fNV))

/-- R108 and R109: moves, literals and the pointer instructions. -/
def Obligations.MoveAndPointerResults : Prop :=
  ∀ (s : State) (h : Head) (a b : Src) (v : BitVec 16) (w : W32) (p : Fin 8), s.runs h = true →
    let x := s.src 1 a
    let y := s.src 2 b
    GivesS (.movi h v) s h (v.signExtend 64) 8 (0x18, 0) ∧
    GivesS (.lit h w) s h (w.signExtend 64) 12 (0x18, 3) ∧
    GivesS (.movhi h a w) s h (BitVec.ofNat 64 (w.toNat * 2 ^ 32 + bits x 31 0)) 12 (0x18, 1) ∧
    GivesS (.movR h a) s h x 8 (0x18, 2) ∧
    GivesN (.pset h p a b) s (s.updMe fun c => { c with a := c.a.set p x, as_ := c.as_.set p y }) 8 (0x19, 0) ∧
    GivesN (.psetKeep h p a) s (s.updMe fun c => { c with a := c.a.set p x }) 8 (0x19, 0) ∧
    GivesN (.padd h p a) s (s.updMe fun c => { c with a := c.a.set p (c.a[p] + x) }) 8 (0x19, 1) ∧
    GivesN (.paddImm h p w) s (s.updMe fun c => { c with a := c.a.set p (c.a[p] + w.signExtend 64) }) 12 (0x19, 1) ∧
    GivesS (.pget h p false) s h s.me.a[p] 8 (0x19, 2) ∧
    GivesS (.pget h p true) s h s.me.as_[p] 8 (0x19, 2)

/-! ### Guards, transfers, loops and helpers -/

/-- R17 and R18: every instruction that a context issues, when it is guarded off, takes one issue slot and pushes the old
value of its destination (0 for `q`); it accesses no memory, moves no pointer and raises nothing. Inside the window of a pending
write of that destination the value not yet overwritten is pushed (entry 92, DESIGN CHOICE).
R18, R19, R50 and R54: what sources and guards read when no result of the context is pending. -/
def Obligations.GuardsAndSourceOperands : Prop :=
  (∀ (i : Instr) (s : State) (h : Head), headOf i = some h → s.skips h = true →
      ∃ t n, exec i s = .next t ∧ SkipsOff s t h.dst n ∧ ∀ f, Instr.fields i = some f → n = lenBytes f.len) ∧
  (∀ (s : State) (k : Nat) (n : Fin 16) (b : Fin 64) (v : BitVec 16) (w : W32) (c : BitVec 10) (f : BitVec 20), s.me.pend = [] →
      s.src k (.g n) = s.me.g[n] ∧ s.src k (.q n) = s.me.q[n] ∧
      s.iop k (.imm v) = v.signExtend 64 ∧ s.iop k (.lit w) = w.signExtend 64 ∧
      s.iop k (.const c) = word64 (Mem.read s.grain.const (4 * c.toNat) 8) ∧
      s.fop k (.imm20 f) = f.toNat * 2 ^ 12 ∧ s.fop k (.lit w) = w.toNat ∧
      s.fop k (.const c) = (s.constW c.toNat).toNat ∧ s.fop k (.reg (.g n)) = s.me.g[n].toNat % 2 ^ 32 ∧
      (∀ h : Head, h.guard = .always → s.guardOn h = true) ∧
      (∀ (h : Head) (neg : Bool), h.guard = .on neg (.g n) b → s.guardOn h = (bit s.me.g[n] b.val != neg)) ∧
      (∀ (h : Head) (neg : Bool), h.guard = .on neg (.q n) b → s.guardOn h = (bit s.me.q[n] b.val != neg)))

/-- R110 and R115, with the timing of R96: a taken transfer with a canonical, aligned target.
R111: a target that is not canonical, or not aligned, raises an exact fault with TRAPADDR at the target; that MISALIGNED has
DETAIL 0x01 there is entry 11 (DEDUCED). -/
def Obligations.TransfersAndTheirTargets : Prop :=
  (∀ (s : State) (h : Head) (a : Src) (o : BitVec 16) (w : W32), s.runs h = true →
      let good (t : W64) : Prop := canonical t = true ∧ bits t 1 0 = 0
      let inLevel (t : W64) (i : Fin 4) : Prop :=
        s.me.ls[i].toNat ≤ (addrField t).toNat ∧ (addrField t).toNat ≤ s.me.le[i].toNat
      let jumps (i : Instr) (to_ : W64) : Prop :=
        ∃ t, exec i s = .next t ∧ t.me = issuedAs s.me t.me ∧ t.me.pc = to_ ∧ t.me.lc = s.me.lc ∧
          t.me.readyAt = s.cycle + 3 ∧ t.me.issued = s.me.issued + 1 ∧ onlyCtx s.cur s t ∧ sameMem s t ∧
          (s.me.handler = true → t.me.depth = s.me.depth) ∧
          (s.me.handler = false → t.me.depth ≤ s.me.depth ∧
            (∀ j : Fin 4, t.me.depth ≤ j.val → j.val < s.me.depth → ¬ inLevel to_ j) ∧
            ∀ j : Fin 4, t.me.depth = j.val + 1 → inLevel to_ j)
      let rel16 := s.me.pc + 4 * o.signExtend 64
      let rel32 := s.me.pc + 4 * w.signExtend 64
      (good rel16 → jumps (.br h o) rel16) ∧
      (good rel32 → jumps (.jmp h w) rel32) ∧
      (good (s.src 1 a) → jumps (.ret h a) (s.src 1 a)) ∧
      (good (s.src 1 a) → jumps (.brx h a) (s.src 1 a)) ∧
      (good rel32 → ∃ t, exec (.call h w) s = .next t ∧
        t.me = { issuedAs s.me t.me with g := gWith s.me h.dst (s.me.pc + 12), q := qWith s.me h.dst (s.me.pc + 12) } ∧
        t.me.pc = rel32 ∧ t.me.lc = s.me.lc ∧ t.me.depth = s.me.depth ∧ t.me.readyAt = s.cycle + 3 ∧
        t.me.issued = s.me.issued + 1 ∧ onlyCtx s.cur s t ∧ sameMem s t)) ∧
  (∀ (s : State) (h : Head) (a : Src) (o : BitVec 16) (w : W32), s.runs h = true →
      let rel16 := s.me.pc + 4 * o.signExtend 64
      let rel32 := s.me.pc + 4 * w.signExtend 64
      let bad (i : Instr) (t : W64) : Prop :=
        (canonical t = false → exec i s = .next (s.exact Cause.addressForm 1 t)) ∧
        (canonical t = true → bits t 1 0 ≠ 0 → exec i s = .next (s.exact Cause.misaligned 1 t))
      bad (.br h o) rel16 ∧ bad (.jmp h w) rel32 ∧ bad (.call h w) rel32 ∧ bad (.ret h a) (s.src 1 a) ∧
        bad (.brx h a) (s.src 1 a))

/-- R21, R34, R281 and R282: an exact fault, when the context's issued results are written. It writes the trap registers
and enters the handler of c[1022] and c[1023]; every other register, context and memory stays. -/
def Obligations.ExactFaultEntersHandler : Prop :=
  ∀ (s : State) (cause detail : Nat) (addr : W64) (restart : Bool), s.lives = true →
    s.me.pend = [] → s.me.out = none → s.vecBusy s.cur = false → s.me.handler = false → s.me.dead = false → s.grain.handler ≠ 0 →
    cause < 256 → detail < 256 → cause ≠ Cause.svc → cause ≠ Cause.translation → cause ≠ Cause.migration →
    let t := s.exact cause detail addr restart
    t.me = { s.me with
      trapcause := BitVec.ofNat 64 (cause + detail * 2 ^ 8 + (if restart then 2 ^ 16 else 0))
      trappc := addrField s.me.pc
      trapaddr := addr
      taking := none
      wait := .none
      parkedOn := 0
      handler := true
      pc := s.grain.handler } ∧
    (∀ c, c ≠ s.cur → t.ctx c = s.ctx c) ∧ sameMem s t

/-- R113: `loop` opens a level, skips a body whose count is 0, and traps on a full depth, an end before the body, and
(R282) in handler mode.
R114: the loop-end test at the last address of the innermost level goes back while its count lasts, and closes the
level with its last pass. Levels that share the address close together. -/
def Obligations.HardwareLoops : Prop :=
  (∀ (s : State) (h : Head) (a : Src) (w : W32), s.runs h = true →
      let x := s.me
      let t := x.pc + 4 * w.signExtend 64
      let n : W32 := (s.src 1 a).setWidth 32
      let before := (t - (x.pc + 12)).toInt < 0
      (x.handler = true → exec (.loopI h a w) s = .next (s.exact Cause.loopState 3)) ∧
      (x.handler = false → before → exec (.loopI h a w) s = .next (s.exact Cause.loopState 2)) ∧
      (x.handler = false → ¬ before → n ≠ 0 → 4 ≤ x.depth → exec (.loopI h a w) s = .next (s.exact Cause.loopState 1)) ∧
      (x.handler = false → ¬ before → n ≠ 0 → ∀ d : Fin 4, x.depth = d.val →
        ∃ u, exec (.loopI h a w) s = .next u ∧
          u.me = { issuedAs x u.me with ls := x.ls.set d (addrField (x.pc + 12)), le := x.le.set d (addrField t) } ∧
          u.me.lc = x.lc.set d n ∧ u.me.depth = d.val + 1 ∧ u.me.pc = x.pc + 12 ∧ u.me.issued = x.issued + 1 ∧
          onlyCtx s.cur s u ∧ sameMem s u) ∧
      (x.handler = false → ¬ before → n = 0 → x.depth = 0 → ∀ bs len, s.fetchBlock s.cur t = (s, .ok bs) →
        lenCheck t (ofBytes (bs.take 4)) = .ok len →
        ∃ u, exec (.loopI h a w) s = .next u ∧ u.me = issuedAs x u.me ∧ u.me.pc = t + BitVec.ofNat 64 len ∧
          u.me.depth = 0 ∧ onlyCtx s.cur s u ∧ sameMem s u)) ∧
  (∀ (x : Ctx) (len : Nat) (d : Fin 4), x.handler = false → x.depth = d.val + 1 →
      let next := x.pc + BitVec.ofNat 64 len
      (addrField x.pc ≠ x.le[d] → x.next len = { x with pc := next }) ∧
      (addrField x.pc = x.le[d] → x.lc[d] ≠ 1 →
        x.next len = { x with pc := codeAddr x.ls[d], lc := x.lc.set d (x.lc[d] - 1) }) ∧
      (addrField x.pc = x.le[d] → x.lc[d] = 1 →
        x.next len = ({ x with depth := d.val, lc := x.lc.set d 0 } : Ctx).next len))

/-- R14, R27, R116, R117 and R118: a helper starts with the values of R14, is joined once it is no longer live, and ends
by merging its flags into the control context. That the traps HELPER_STATE 0x01 and 0x03 of `hstart` come before its hold behind
earlier work is entry 96 (DESIGN CHOICE).
R45 and R120: `nop` takes one issue slot and nothing else; fetch skips a pad word, which takes none. -/
def Obligations.HelpersNopAndPadWord : Prop :=
  (∀ (s : State) (h : Head) (n : BitVec 4) (w : W32), s.runs h = true →
      let id : CtxId := { s.cur with ctx := n.toNat }
      let target := s.me.pc + 4 * w.signExtend 64
      (s.cur.ctx = 0 → n.toNat ≤ s.sheaf.helpers → n ≠ 0 → s.me.pend = [] → s.relBusy s.cur = false → s.fenced = false → s.ctx id = none →
        canonical target = true →
        ∃ t x, exec (.hstart h n w) s = .next t ∧ t.ctx id = some x ∧ x.pc = target ∧ x.g = s.me.g ∧ x.a = s.me.a ∧
          x.as_ = s.me.as_ ∧ x.vl = s.me.vl ∧ x.amask = s.me.amask ∧ x.q = Vector.replicate 16 0 ∧ x.depth = 0 ∧
          x.ls = Vector.replicate 4 0 ∧ x.le = Vector.replicate 4 0 ∧ x.lc = Vector.replicate 4 0 ∧
          x.aflags = 0 ∧ x.pv = false ∧ x.pixpc = 0 ∧ x.trapcause = 0 ∧ x.trappc = 0 ∧ x.trapaddr = 0 ∧ x.handler = false ∧
          (∀ i : Fin 64, x.lfsr[i] = 0x5EED_0000 ^^^ BitVec.ofNat 32 (s.cur.grain * 2 ^ 16) ^^^
            BitVec.ofNat 32 (n.toNat * 2 ^ 8) ^^^ BitVec.ofNat 32 i.val) ∧
          x.readyAt = s.cycle + 4 ∧ (∀ c, c ≠ id → c ≠ s.cur → t.ctx c = s.ctx c) ∧ sameMem s t) ∧
      (s.cur.ctx = 0 → n.toNat ≤ s.sheaf.helpers → n ≠ 0 → s.acqHeld = false → s.fenced = false → s.ctx id = none →
        GivesN (.hjoin h n) s (s.settle 4 (16 * s.cur.grain + n.toNat)) 8 (0x1D, 1)) ∧
      (s.cur.ctx = 0 → n.toNat ≤ s.sheaf.helpers → s.acqHeld = false → s.fenced = false → (s.ctx id).isSome = true →
        exec (.hjoin h n) s = .next (s.park 6)) ∧
      (s.cur.ctx ≠ 0 → s.me.pend = [] → s.me.out = none → s.vecBusy s.cur = false → s.relBusy s.cur = false → s.fenced = false →
        ∃ t, exec (.hexit h) s = .next t ∧ t.ctx s.cur = none ∧ sameMem s t ∧
          (∀ x, s.ctx { s.cur with ctx := 0 } = some x →
            t.ctx { s.cur with ctx := 0 } = some { x with aflags := x.aflags ||| s.me.aflags }) ∧
          ∀ c, c ≠ s.cur → c ≠ { s.cur with ctx := 0 } → t.ctx c = s.ctx c) ∧
      (s.cur.ctx ≠ 0 → exec (.hstart h n w) s = .next (s.exact Cause.helperState 1) ∧
        exec (.hjoin h n) s = .next (s.exact Cause.helperState 1)) ∧
      (s.cur.ctx = 0 → exec (.hexit h) s = .next (s.exact Cause.helperState 4)) ∧
      (s.cur.ctx = 0 → s.sheaf.helpers < n.toNat → exec (.hstart h n w) s = .next (s.exact Cause.helperState 3) ∧
        exec (.hjoin h n) s = .next (s.exact Cause.helperState 3))) ∧
  (∀ (s : State) (h : Head), s.lives = true →
      (s.runs h = true → GivesN (.nop h) s s 8 (0x1D, 3)) ∧
      exec .padWord s = .next (s.updMe fun c => { c with pc := c.pc + 4 }) ∧
      ∀ t, exec .padWord s = .next t → t.me = { s.me with pc := s.me.pc + 4 } ∧ sameMem s t ∧ ∀ c, c ≠ s.cur → t.ctx c = s.ctx c)

/-! ### Memory, atomics and bank power (05 R124 to R138) -/

/-- R22: the address of a memory operand, and the post-increment, which changes that one pointer and nothing else.
R23, R39, R40, R42, R126 and R127 on the regions of the local space, for aligned and misaligned addresses: the own quad, the
ring windows, which resolve under R153, the sibling and cluster windows, whose target is named by its logical place, and the
control page. R155: a ring access of a grain that has arrived at the ring's level is held, which parks its context. -/
def Obligations.PointersAndLocalAddresses : Prop :=
  (∀ (s : State) (p : Fin 8) (v : BitVec 16),
      s.ea (.base p) = s.me.a[p] ∧ s.ea (.post p) = s.me.a[p] ∧ s.ea (.off p v) = s.me.a[p] + v.signExtend 64 ∧
      s.advance (.base p) = s ∧ s.advance (.off p v) = s ∧
      (s.lives = true → (s.advance (.post p)).me = { s.me with a := s.me.a.set p (s.me.a[p] + s.me.as_[p]) } ∧
        s.advance (.post p) = { s with ctxs := (s.advance (.post p)).ctxs } ∧
        ∀ c, c ≠ s.cur → (s.advance (.post p)).ctx c = s.ctx c)) ∧
  (∀ (s : State) (ea : W64) (n : Nat) (use : LUse), n = 1 ∨ n = 2 ∨ n = 4 ∨ n = 8 →
      let a := ea.toNat
      let lq := s.cur.grain % 8 / 4
      let vt := s.cur.grain / 8
      let phys := s.physAddr (s.cur.sheaf, vt) lq a
      let held : Prop := ∀ j, j < n → a + j < 0x0020_0000 →
        s.coreHeldBy s.myVd (s.physAddr (s.cur.sheaf, vt) lq (a + j) / 2 ^ 19) = true
      (2 ^ 32 ≤ a → s.localCheck use ea n = .bad Cause.localAddress 3) ∧
      (0x0040_0000 ≤ a → a < 0x00C0_0000 → s.localCheck use ea n = .bad Cause.localAddress 1) ∧
      (0x0201_0000 ≤ a → a < 2 ^ 32 → s.localCheck use ea n = .bad Cause.localAddress 1) ∧
      (a < 0x0020_0000 → ¬ held → s.localCheck use ea n = .bad Cause.peerGone 3) ∧
      (a < 0x0020_0000 → held → a % n ≠ 0 → s.localCheck use ea n = .bad Cause.misaligned 1) ∧
      (a < 0x0020_0000 → held → a % n = 0 → s.inWindow s.myQuad a n = true → s.localCheck use ea n = .bad Cause.localAddress 7) ∧
      (a < 0x0020_0000 → held → a % n = 0 → s.inWindow s.myQuad a n = false →
        (s.rangeBank phys n = .on → s.localCheck use ea n = .mem phys 4) ∧
        (s.rangeBank phys n = .off → s.localCheck use ea n = .bad Cause.bankOff 1)) ∧
      ((0x0020_0000 ≤ a ∧ a < 0x0040_0000) ∨ (0x0100_0000 ≤ a ∧ a < 0x0200_0000) →
        let sibling := a < 0x0040_0000
        let t := if sibling then vt else vt / 4 * 4 + (a - 0x0100_0000) / 0x0040_0000
        let q := if sibling then 1 - lq else (a - 0x0100_0000) / 0x0020_0000 % 2
        let lat := if sibling then 14 else if t ≠ vt then 40 else if q = lq then 6 else 14
        let off := a % 0x0020_0000
        let target := s.physAddr (s.cur.sheaf, t) q off
        (a % n ≠ 0 → s.localCheck use ea n = .bad Cause.misaligned 1) ∧
        (a % n = 0 → use = .store ∨ use = .syncw ∨ use = .amo → s.localCheck use ea n = .bad Cause.localAddress 2) ∧
        (a % n = 0 → use = .sync → s.localCheck use ea n = .bad Cause.localAddress 5) ∧
        (a % n = 0 → use = .load →
          (s.inWindow (target / 2 ^ 21) off n = true → s.localCheck use ea n = .bad Cause.localAddress 7) ∧
          (s.inWindow (target / 2 ^ 21) off n = false → target / 2 ^ 19 ≠ s.myCore →
            s.localCheck use ea n = .peer (t * 2 ^ 22 + q * 2 ^ 21 + off) lat) ∧
          (s.inWindow (target / 2 ^ 21) off n = false → target / 2 ^ 19 = s.myCore →
            (s.rangeBank target n = .on → s.localCheck use ea n = .mem target lat) ∧
            (s.rangeBank target n = .off → s.localCheck use ea n = .bad Cause.bankOff 1)))) ∧
      (0x00C0_0000 ≤ a → a < 0x0100_0000 →
        let k := (a - 0x00C0_0000) / 0x0008_0000
        let o := (a - 0x00C0_0000) % 0x0008_0000
        ((s.ring k = none ∨ ∃ r, s.ring k = some r ∧ r.d < o / r.size) →
          s.localCheck use ea n = if a % n = 0 then .bad Cause.localAddress 6 else .bad Cause.misaligned 1) ∧
        ∀ r, s.ring k = some r → o / r.size ≤ r.d →
          let off := r.base + (r.sp + o / r.size) % r.n * r.size + o % r.size
          let stage := s.physAddr (s.cur.sheaf, vt) lq off
          let owned : Prop := ∀ j, j < n → off + j < 0x0020_0000 →
            s.coreHeldBy s.myVd (s.physAddr (s.cur.sheaf, vt) lq (off + j) / 2 ^ 19) = true
          (¬ owned → s.localCheck use ea n = .bad Cause.peerGone 3) ∧
          (owned → a % n ≠ 0 → s.localCheck use ea n = .bad Cause.misaligned 1) ∧
          (owned → a % n = 0 → s.inWindow s.myQuad off n = true → s.localCheck use ea n = .bad Cause.localAddress 7) ∧
          (owned → a % n = 0 → s.inWindow s.myQuad off n = false →
            (s.grain.hasArrived r.level = true → s.localCheck use ea n = .hold r.level) ∧
            (s.grain.hasArrived r.level = false →
              (s.rangeBank stage n = .on → s.localCheck use ea n = .mem stage 4) ∧
              (s.rangeBank stage n = .off → s.localCheck use ea n = .bad Cause.bankOff 1)))) ∧
      (0x0200_0000 ≤ a → a < 0x0201_0000 → a % n = 0 → use = .load ∨ use = .store →
        s.localCheck use ea n = if n = 8 then .page (a - 0x0200_0000) else .bad Cause.localAddress 4) ∧
      (0x0200_0000 ≤ a → a < 0x0201_0000 → a % n ≠ 0 → s.localCheck use ea n = .bad Cause.misaligned 1)) ∧
  ∀ (s : State) (k : Nat), s.lives = true → k ≠ 4 ∨ s.sheaf.gangMissing = false →
    (s.holdAt k).me = { s.me with wait := .parked 7, parkedOn := 7, holdLevel := some k } ∧
      (∀ c, c ≠ s.cur → (s.holdAt k).ctx c = s.ctx c) ∧ sameMem s (s.holdAt k)

/-- R125 to R127: a local load or store that meets no fault and no hold. The load's value is extended, the store writes
its bytes alone; both move their pointer, and nothing else of the context changes but what every issue does.
R124, R126 and R155: every form that reaches local memory raises the fault that its checks find, with TRAPADDR at its address
and BANK_OFF alone with RESTART 1, or is held where they hold it. A load, `ldsync`, `ldsync.c` or atomic that reads a poisoned
word raises MEMORY_ERROR, with MARK 0 while an error among its words is detected only now (R324; for a local word DEDUCED, entry
114). -/
def Obligations.LocalLoadsStoresAndTraps : Prop :=
  (∀ (s : State) (h : Head) (m : MemOp) (sz : Size) (uns : Bool) (ord : Option Scope) (b : Src) (p lat : Nat), s.runs h = true →
      let u := s.unfence
      let n := sizeBytes sz
      let v := s.src 2 b
      u.fenced = false → u.vecHeld p n = false →
      (u.localCheck .load (s.ea m) n = .mem p lat → (ord = none ∨ u.acqHeld = false) → u.lPoisoned p n = false →
        ∃ t, exec (.ld h m sz uns ord) s = .next t ∧
          ReservesL (u.advance m) t h (some (s.cycle + lat)) (some (extend sz uns (word64 (Mem.read s.lmem p n)))) 0 8) ∧
      (u.localCheck .store (s.ea m) n = .mem p lat → (ord = none ∨ u.relBusy u.cur = false ∧ u.relLog ord = false) →
        u.srcHeld p n = false → u.storeHeld u.myTile p n = false → Mem.wf s.lmem = true →
        ∃ t, exec (.st h m sz ord b) s = .next t ∧ IssuesN (((u.releaseOpt ord).lwrite p n v).advance m) t 8 ∧
          storesLocal s t p (toBytes n v.toNat) ∧ (ord = none → ∀ a, Mem.get t.hbm a = Mem.get s.hbm a))) ∧
  (∀ (s : State) (h : Head) (m : MemOp) (sz : Size) (uns : Bool) (ord : Option Scope) (b : Src), s.runs h = true →
      let u := s.unfence
      let n := sizeBytes sz
      u.fenced = false →
      ∀ (r : LRes) (t : State), ((∃ c d, r = .bad c d ∧ t = u.exact c d (s.ea m) (c == Cause.bankOff)) ∨
          ∃ k, r = .hold k ∧ t = u.holdAt k) →
        ((ord = none ∨ u.acqHeld = false) → u.localCheck .load (s.ea m) n = r → exec (.ld h m sz uns ord) s = .next t) ∧
        ((ord = none ∨ u.relBusy u.cur = false ∧ u.relLog ord = false) → u.localCheck .store (s.ea m) n = r →
          exec (.st h m sz ord b) s = .next t) ∧
        (u.acqHeld = false → u.localCheck .sync (s.ea m) 4 = r →
          exec (.ldsync h m) s = .next t ∧ exec (.ldsyncC h m) s = .next t) ∧
        (s.relBusy s.cur = false → u.localCheck .syncw (s.ea m) 4 = r → exec (.stfull h m b) s = .next t) ∧
        (u.localCheck .syncw (s.ea m) 4 = r → exec (.setempty h m) s = .next t) ∧
        ∀ (x : AmoArgs) (c : Src), m = .base x.p → x.glob = false →
          (x.scope = none ∨ u.relBusy u.cur = false ∧ u.relLog x.scope = false) →
          u.localCheck .amo (s.ea m) (if x.dw then 8 else 4) = r →
          ∀ i ∈ [.amoSwap h x, .amoCas h x c, .amoAdd h x, .amoFadd h x, .amoMin h x, .amoMax h x, .amoAnd h x, .amoOr h x,
            .amoXor h x], exec i s = .next t) ∧
  (∀ (s : State) (h : Head) (m : MemOp) (sz : Size) (uns : Bool) (ord : Option Scope) (p lat : Nat), s.runs h = true →
      let u := s.unfence
      let error (n : Nat) : State :=
        let now := s.dev.unmarked.any fun w => w.1 == 0 && decide (p / 4 ≤ w.2) && decide (w.2 ≤ (p + n - 1) / 4)
        u.exact Cause.memoryError (if now then 0x00 else 0x10) (s.ea m)
      u.fenced = false →
      (let n := sizeBytes sz
       (ord = none ∨ u.acqHeld = false) → u.localCheck .load (s.ea m) n = .mem p lat → u.vecHeld p n = false →
        u.lPoisoned p n = true → exec (.ld h m sz uns ord) s = .next (error n)) ∧
      (u.acqHeld = false → u.localCheck .sync (s.ea m) 4 = .mem p lat → u.vecHeld p 4 = false → s.isFull p = true →
        u.lPoisoned p 4 = true → exec (.ldsync h m) s = .next (error 4) ∧ exec (.ldsyncC h m) s = .next (error 4)) ∧
      ∀ (x : AmoArgs) (c : Src), m = .base x.p → x.glob = false →
        let n := if x.dw then 8 else 4
        (x.scope = none ∨ u.relBusy u.cur = false ∧ u.relLog x.scope = false) → u.localCheck .amo (s.ea m) n = .mem p lat →
        u.vecHeld p n = false → u.srcHeld p n = false → u.storeHeld u.myTile p n = false → u.lPoisoned p n = true →
        ∀ i ∈ [.amoSwap h x, .amoCas h x c, .amoAdd h x, .amoFadd h x, .amoMin h x, .amoMax h x, .amoAnd h x, .amoOr h x,
          .amoXor h x], exec i s = .next (error n))

/-- R134: `ldsync` and `ldsync.c` read a FULL word and park at an EMPTY one; `stfull` and `setempty` set the bit. No other
bit and no other byte changes. In a deterministic sheaf a read that ends a wait takes the quantum of the event that ended it
(`settle`), and a write of FULL is such an event (`wakeTag`) where the word was EMPTY (R279); in another sheaf both do nothing. -/
def Obligations.FullEmptyWords : Prop :=
  ∀ (s : State) (h : Head) (m : MemOp) (b : Src) (p lat : Nat), s.runs h = true →
    let u := s.unfence
    let v := s.src 2 b
    let word := word64 (Mem.read s.lmem p 4)
    let woken := u.settle 3 (p / 4)
    let full := (u.lwrite p 4 v).setFe p true
    let tagged := if s.isFull p then full else full.wakeTag s.cur.sheaf 3 (p / 4) (s.quantumOf s.cur)
    (s.sheaf.det = false → woken = u ∧ tagged = full) ∧
    (s.sheaf.det = true → s.me.parkedOn = 1 →
      woken.me = { u.me with lcnt := max u.me.lcnt (u.wakeOf s.cur.sheaf 3 (p / 4) * s.sheaf.quantum) }) ∧
    (s.sheaf.det = true → s.isFull p = false → tagged.wakeOf s.cur.sheaf 3 (p / 4) = s.quantumOf s.cur) ∧
    u.fenced = false → u.vecHeld p 4 = false → Mem.wf s.lmem = true → Mem.wf s.fe = true →
    (u.acqHeld = false → u.localCheck .sync (s.ea m) 4 = .mem p lat → u.lPoisoned p 4 = false →
      (s.isFull p = false → exec (.ldsync h m) s = .next (u.park 1) ∧ exec (.ldsyncC h m) s = .next (u.park 1)) ∧
      (s.isFull p = true →
        (∃ t, exec (.ldsync h m) s = .next t ∧ ReservesL (woken.advance m) t h (some (s.cycle + lat)) (some word) 0 8) ∧
        ∃ t, exec (.ldsyncC h m) s = .next t ∧
          ReservesL ((woken.setFe p false).advance m) t h (some (s.cycle + lat)) (some word) 0 8 ∧ t.isFull p = false ∧
          ∀ a, a / 4 ≠ p / 4 → t.isFull a = s.isFull a)) ∧
    (u.localCheck .syncw (s.ea m) 4 = .mem p lat → u.srcHeld p 4 = false → u.storeHeld u.myTile p 4 = false →
      (u.relBusy u.cur = false → s.relBusy s.cur = false →
        ∃ t, exec (.stfull h m b) s = .next t ∧ IssuesN (tagged.advance m) t 8 ∧
          t.isFull p = true ∧ (∀ a, a / 4 ≠ p / 4 → t.isFull a = s.isFull a) ∧
          ∀ a, Mem.get t.lmem a = if p ≤ a ∧ a < p + 4 then (toBytes 4 v.toNat).getD (a - p) 0 else Mem.get s.lmem a) ∧
      ∃ t, exec (.setempty h m) s = .next t ∧ IssuesN ((u.setFe p false).advance m) t 8 ∧ t.isFull p = false ∧
        (∀ a, a / 4 ≠ p / 4 → t.isFull a = s.isFull a) ∧ ∀ a, Mem.get t.lmem a = Mem.get s.lmem a)

/-- R131: a global load or store issues, with its address canonical and aligned; otherwise it raises an exact fault. R137: a
store with `.rel`, once it is not held (R204), combines its context's U lines at the wide scopes. -/
def Obligations.GlobalAccessesIssue : Prop :=
  ∀ (s : State) (h : Head) (m : MemOp) (sz : Size) (uns : Bool) (acq rel : Option Scope) (b : Src), s.runs h = true →
    let u := s.unfence
    let r := u.releaseOpt rel
    let ea := s.ea m
    let n := sizeBytes sz
    let v := s.src 2 b
    let out (i : Instr) (d : Dst) (caps : List W64) (t : State) : Out :=
      ⟨t.freeN + 1, i, s.me.pc, d, 0, false, .accepted, ea, caps, [], 0, none, t.cycle, t.quantumOf t.cur⟩
    u.fenced = false → u.rcBusy = false → acq = none ∨ u.acqHeld = false →
    rel = none ∨ u.relBusy u.cur = false ∧ u.relLog rel = false →
    (rel = none → r = u) ∧
    (∀ sc, rel = some sc → r = if sc = .dom ∨ sc = .dev ∨ sc = .sys then u.flushU fun _ l => l.by_.contains s.cur else u) ∧
    (canonical ea = true → ea.toNat % n = 0 →
      (∃ t, exec (.ldg h m sz uns acq) s = .next t ∧
        ReservesL ((u.advance m).withOut (out (.ldg h m sz uns acq) h.dst [] u)) t h none none 0 8) ∧
      ∃ t, exec (.stg h m sz rel b) s = .next t ∧
        IssuesN ((r.advance m).withOut (out (.stg h m sz rel b) .none [v] r)) t 8) ∧
    (canonical ea = false → exec (.ldg h m sz uns acq) s = .next (u.exact Cause.addressForm 1 ea) ∧
      exec (.stg h m sz rel b) s = .next (u.exact Cause.addressForm 1 ea)) ∧
    (canonical ea = true → ea.toNat % n ≠ 0 → exec (.ldg h m sz uns acq) s = .next (u.exact Cause.misaligned 1 ea) ∧
      exec (.stg h m sz rel b) s = .next (u.exact Cause.misaligned 1 ea))

/-- R131 and R342: a request that is translated is sent to its home; a load's data comes back and is written, extended, by
the return step; a store writes its bytes at its home and completes. R255: an access that its core issued in the same cycle
for a context of lower CTXID, to the same bytes, comes first. -/
def Obligations.GlobalAccessesComplete : Prop :=
  ∀ (s : State) (c : CtxId) (x : Ctx) (o : Out), s.ctx c = some x → x.out = some o →
    s.logging (s.vdOfCtx c) = false → (s.quads.all fun q => q.2.ulines.isEmpty) = true →
    (s.behind c o = true → exec (.memRequestInject c) s = .next s ∧ exec (.memResponse c) s = .next s ∧
      exec (.stgHomePerform c) s = .next s) ∧
    (s.behind c o = false →
    (∀ k n s' y, globalNeeds o.instr = some (k, n) → redArgs o.instr = none → o.stage = .accepted →
      s.translate (some (s.coreOfCtx c)) (s.vdOfCtx c) o.addr k = (s', .ok y) → coreFormat y = none →
      exec (.memRequestInject c) s = .next (s'.updCtx c fun x => { x with out := some { o with
        stage := .sent
        caps := [o.caps.getD 0 0, o.caps.getD 1 0, BitVec.ofNat 64 y.dpa, BitVec.ofNat 64 y.keyid] } })) ∧
    (∀ k n s' f, globalNeeds o.instr = some (k, n) → o.stage = .accepted →
      s.translate (some (s.coreOfCtx c)) (s.vdOfCtx c) o.addr k = (s', .error f) →
      exec (.memRequestInject c) s = .next (s'.recordFail c f o.addr k)) ∧
    (∀ h m sz uns q, o.instr = .ldg h m sz uns q → o.stage = .sent → s.hbmPoisoned o.dpa (sizeBytes sz) = false →
      let v := word64 (s.devRead (s.key o.keyid) o.dpa (sizeBytes sz))
      exec (.memResponse c) s = .next (s.updCtx c fun x => { x with
        out := some { o with
          stage := .answered
          caps := [v] }
        pend := x.pend.map fun p => if p.tag = o.tag then { p with val := some (extend sz uns v) } else p })) ∧
    (∀ h m sz uns q v, o.instr = .ldg h m sz uns q → o.stage = .answered → o.caps = [v] →
      exec (.globalLoadReturn c) s = .next (s.finish c o.tag (extend sz uns v))) ∧
    (∀ h m sz q b v, o.instr = .stg h m sz q b → o.stage = .sent → o.caps.head? = some v →
      o.dpa % sizeBytes sz = 0 → Tab.getD s.dev.lineKey (o.dpa / 64) [] = s.key o.keyid → Mem.wf s.hbm = true →
      ∃ t, exec (.stgHomePerform c) s = .next t ∧ (t.ctx c).map (fun x => x.out) = some none ∧
        (∀ a, Mem.get t.hbm a = if o.dpa ≤ a ∧ a < o.dpa + sizeBytes sz then
          (toBytes (sizeBytes sz) v.toNat).getD (a - o.dpa) 0 else Mem.get s.hbm a) ∧
        (∀ d, d ≠ c → t.ctx d = s.ctx d) ∧ ∀ a, Mem.get t.lmem a = Mem.get s.lmem a))

/-- R128: a peer load, whose target is named by its logical place, that reaches a slice of its virtual device's sheaf reads
it, at the end of the latency that its first performance began; one that finds no such owner records
PEER_GONE, and one that finds a gated bank records BANK_OFF with RESTART 1. -/
def Obligations.PeerLoadAtTarget : Prop :=
  ∀ (s : State) (c : CtxId) (x : Ctx) (o : Out) (h : Head) (m : MemOp) (sz : Size) (uns : Bool) (q : Option Scope) (at_ lat : W64),
    s.ctx c = some x → x.out = some o → o.instr = .ld h m sz uns q → o.caps = [at_, lat] →
    let n := sizeBytes sz
    let p := s.peerPhys c at_.toNat
    let core := p / 2 ^ 19
    s.coreMoving core = false →
    (s.peerGone (s.vdOfCtx c) core = none → s.rangeBank p n = .on → s.lPoisoned p n = false →
      ∃ t, exec (.peerLoadTargetRead c) s = .next t ∧
        t.ctx c = some { x with
          out := none
          resuming := false
          pend := x.pend.map fun r => if r.tag = o.tag then
            { r with
            tag := 0
            val := some (extend sz uns (word64 (Mem.read s.lmem p n)))
            due := some (o.due.getD (s.cycleOfCtx c + lat.toNat)) } else r } ∧
        (∀ d, d ≠ c → t.ctx d = s.ctx d) ∧ sameMem s t) ∧
    (∀ d, s.peerGone (s.vdOfCtx c) core = some d →
      exec (.peerLoadTargetRead c) s = .next (s.recorded c Cause.peerGone d o.addr false)) ∧
    (s.peerGone (s.vdOfCtx c) core = none → s.rangeBank p n = .off →
      exec (.peerLoadTargetRead c) s = .next (s.recorded c Cause.bankOff 2 o.addr true))

/-- R135: a local atomic returns the old value and stores the new one, each op by its own rule, on 32 or 64 bits; no other
byte changes. -/
def Obligations.LocalAtomics : Prop :=
  ∀ (s : State) (h : Head) (x : AmoArgs) (c : Src) (p lat : Nat), s.runs h = true → x.glob = false →
    let u := s.unfence
    let n := if x.dw then 8 else 4
    u.fenced = false → (x.scope = none ∨ u.relBusy u.cur = false ∧ u.relLog x.scope = false) →
    u.localCheck .amo s.me.a[x.p] n = .mem p lat →
    u.vecHeld p n = false → u.srcHeld p n = false → u.storeHeld u.myTile p n = false → u.lPoisoned p n = false →
    Mem.wf s.lmem = true →
    let old := word64 (Mem.read s.lmem p n)
    let b := s.src 2 x.b
    let low (v : W64) : W64 := if x.dw then v else v &&& 0xFFFF_FFFF
    let signed (v : W64) : Int := if x.dw then v.toInt else (v.setWidth 32).toInt
    let gives (i : Instr) (new : W64) (fl : Flags) : Prop :=
      ∃ t, exec i s = .next t ∧ (let r := (u.releaseOpt x.scope).lwrite p n (low new)
        ReservesL r t h (some (r.cycle + 6)) (some old) fl 8) ∧ storesLocal s t p (toBytes n (low new).toNat)
    gives (.amoSwap h x) b 0 ∧
    gives (.amoCas h x c) (if low old = low (s.src 3 c) then b else old) 0 ∧
    gives (.amoAdd h x) (old + b) 0 ∧
    (x.dw = false → gives (.amoFadd h x) (BitVec.ofNat 64 (fp32.add old.toNat (low b).toNat).1) (fp32.add old.toNat (low b).toNat).2) ∧
    gives (.amoMin h x) (if signed b < signed old then b else old) 0 ∧
    gives (.amoMax h x) (if signed old < signed b then b else old) 0 ∧
    gives (.amoAnd h x) (old &&& b) 0 ∧
    gives (.amoOr h x) (old ||| b) 0 ∧
    gives (.amoXor h x) (old ^^^ b) 0

/-- R135 to R137: global atomics and reductions issue with their captured values, an atomic with a scope as a release that
combines its context's U lines at the wide scopes; the home of an atomic replies with the
old value and holds the new one; a reduction without a window is performed at its home. -/
def Obligations.GlobalAtomicsAndReductions : Prop :=
  (∀ (s : State) (h : Head) (x : AmoArgs) (r : RedArgs) (c : Src), s.runs h = true →
    let u := s.unfence
    u.fenced = false → u.rcBusy = false →
    let v := u.releaseOpt x.scope
    let amo (i : Instr) (cv : W64) : Prop := x.glob = true →
      (x.scope = none ∨ u.relBusy u.cur = false ∧ u.relLog x.scope = false) → canonical s.me.a[x.p] = true →
      s.me.a[x.p].toNat % (if x.dw then 8 else 4) = 0 →
      ∃ t, exec i s = .next t ∧ ReservesL (v.withOut
        ⟨v.freeN + 1, i, s.me.pc, h.dst, 0, false, .accepted, s.me.a[x.p], [s.src 2 x.b, cv], [], 0, none, v.cycle,
          v.quantumOf v.cur⟩) t h none none 0 8
    let red (i : Instr) : Prop := canonical s.me.a[r.p] = true → s.me.a[r.p].toNat % (if r.dw then 8 else 4) = 0 →
      ∃ t, exec i s = .next t ∧ IssuesN (u.withOut
        ⟨s.freeN + 1, i, s.me.pc, .none, 0, false, .accepted, s.me.a[r.p], [s.src 2 r.b], [], 0, none, s.cycle, s.quantumOf s.cur⟩) t 8
    amo (.amoSwap h x) 0 ∧ amo (.amoCas h x c) (s.src 3 c) ∧ amo (.amoAdd h x) 0 ∧ amo (.amoFadd h x) 0 ∧ amo (.amoMin h x) 0 ∧
    amo (.amoMax h x) 0 ∧ amo (.amoAnd h x) 0 ∧ amo (.amoOr h x) 0 ∧ amo (.amoXor h x) 0 ∧
    red (.redAdd h r) ∧ red (.redFadd h r) ∧ red (.redMin h r) ∧ red (.redMax h r) ∧ red (.redAnd h r) ∧ red (.redOr h r) ∧
    red (.redXor h r)) ∧
  ∀ (s : State) (c : CtxId) (x : Ctx) (o : Out) (op : Nat), s.ctx c = some x → x.out = some o → o.stage = .sent →
    amoOp o.instr = some op → s.behind c o = false → s.logging (s.vdOfCtx c) = false → (s.quads.all fun q => q.2.ulines.isEmpty) = true →
    Tab.getD s.dev.lineKey (o.dpa / 64) [] = s.key o.keyid → Mem.wf s.hbm = true →
    let home (t : State) (n : Nat) (v : W64) : Prop := ∀ a, Mem.get t.hbm a =
      if o.dpa ≤ a ∧ a < o.dpa + n then (toBytes n v.toNat).getD (a - o.dpa) 0 else Mem.get s.hbm a
    (∀ dw, amoWide o.instr = some dw → let n := if dw then 8 else 4
      o.dpa % n = 0 → s.hbmPoisoned o.dpa n = false →
      let old := word64 (s.devRead (s.key o.keyid) o.dpa n)
      let r := amoValue op dw old (o.caps.getD 0 0) (o.caps.getD 1 0)
      ∃ t, exec (.amoHomeReply c) s = .next t ∧ home t n r.1 ∧
        t.ctx c = some { x.complete s.freeN o.tag old r.2 with out := none, resuming := false } ∧ ∀ d, d ≠ c → t.ctx d = s.ctx d) ∧
    (∀ r, redArgs o.instr = some r → let n := if r.dw then 8 else 4
      o.dpa % n = 0 → s.hbmPoisoned o.dpa n = false →
      let old := word64 (s.devRead (s.key o.keyid) o.dpa n)
      ∃ t, exec (.memResponse c) s = .next t ∧ home t n (amoValue op r.dw old (o.caps.getD 0 0) 0).1 ∧
        (t.ctx c).map (fun x => x.out) = some none ∧ ∀ d, d ≠ c → t.ctx d = s.ctx d)

/-- R132 and R137: a fence issues at once, also behind commands of its context that have not completed (DEDUCED, entry 42), but
for the log space that its U lines may need (R296); a full or `.rel` fence of scope `.dom`, `.dev` or `.sys` combines the
context's U lines first, `.acq` none. It then holds while an earlier access or command of the context, or a fire that it has
forwarded, is not complete: each later local or global access, vector instruction, matrix command and engine command stalls.
R242: of the contexts, a narrower scope's instance lies in a wider one's, from the core to the cluster, and from the sheaf to
its virtual device. -/
def Obligations.FencesHoldLaterAccesses : Prop :=
  (∀ (s : State) (h : Head) (sc : Scope), s.runs h = true → s.relLog (some sc) = false →
    let wide := sc = .dom ∨ sc = .dev ∨ sc = .sys
    let held (r : State) (w : Bool) : State := r.updMe fun c => { c with fence := true, fenceWide := c.fenceWide || w }
    (∃ t, exec (.fence h sc) s = .next t ∧ IssuesN (held (s.release sc) (decide wide)) t 8) ∧
    (∃ t, exec (.fenceAcq h sc) s = .next t ∧ IssuesN (held s false) t 8) ∧
    (∃ t, exec (.fenceRel h sc) s = .next t ∧ IssuesN (held (s.release sc) (decide wide)) t 8) ∧
    (¬ wide → s.release sc = s) ∧
    (wide → s.release sc = s.flushU fun _ u => u.by_.contains s.cur) ∧
    ∀ t, (exec (.fence h sc) s = .next t ∨ exec (.fenceAcq h sc) s = .next t ∨ exec (.fenceRel h sc) s = .next t) →
      s.me.out.isSome = true ∨ s.vecBusy s.cur = true ∨ s.cmdBusy s.cur = true ∨ s.firing s.cur = true → t.fenced = true) ∧
  (∀ (s : State) (h : Head) (i : Instr) (p : Nat × Nat), headOf i = some h → s.runs h = true → s.fenced = true →
    opFn i = some p →
    (p.1 ∈ [0x20, 0x22, 0x24, 0x29, 0x30, 0x31, 0x32, 0x33, 0x34, 0x35, 0x38, 0x3A] ∨
      p ∈ [(0x39, 0), (0x39, 1), (0x39, 6), (0x3C, 2), (0x3C, 3), (0x3C, 5)] → exec i s = .next s.stall) ∧
    (p ∈ [(0x3C, 0), (0x3C, 1), (0x3C, 4)] → Instr.plv i = 0 ∨ (s.grain.dom (Instr.plv i)).isSome = true → exec i s = .next s.stall)) ∧
  (∀ (s : State) (h : Head) (m : MemOp) (sz : Size) (ord : Option Scope) (b c : Src) (x : AmoArgs), s.runs h = true →
    s.fenced = true →
    exec (.st h m sz ord b) s = .next (s.stallRel ord) ∧ exec (.stg h m sz ord b) s = .next (s.stallRel ord) ∧
    (∀ i ∈ [.amoSwap h x, .amoCas h x c, .amoAdd h x, .amoFadd h x, .amoMin h x, .amoMax h x, .amoAnd h x, .amoOr h x,
      .amoXor h x], exec i s = .next (s.stallRel x.scope)) ∧
    (s.relLog ord = false → s.stallRel ord = s.stall) ∧
    s.stall.me = { s.me with wait := .stalled, bankWait := none } ∧ (s.stallRel ord).me = s.stall.me ∧
    onlyCtx s.cur s s.stall ∧ sameMem s (s.stallRel ord)) ∧
  ∀ (s : State) (p c : CtxId) (a : Agent) (sc : Scope) (k : Nat),
    (s.scopeHas p .core (.ctx c) = true → s.scopeHas p .quad (.ctx c) = true) ∧
    (s.scopeHas p .quad (.ctx c) = true → s.scopeHas p .tile (.ctx c) = true) ∧
    (s.scopeHas p .tile (.ctx c) = true → s.scopeHas p .clus (.ctx c) = true) ∧
    (s.scopeHas p .dom (.ctx c) k = true → s.scopeHas p .dev (.ctx c) = true) ∧
    s.scopeHas p sc (.ctx p) = true ∧ s.scopeHas p .sys a = true

/-- R129 and R130: a write of BANKPWR sets the states that differ, clears a bank that goes OFF, which waits while an
access stalled on the bank or in progress there is to complete first (the order of the two is entry 98's), starts a wake of 64
cycles from OFF to ON, none from OFF to retention (DEDUCED, entry 47), and ignores code 3; the wakes end no earlier than their
cycle, from retention with the bank ON. -/
def Obligations.BankPowerStates : Prop :=
  ∀ (s : State) (core : Nat) (k : Fin 8) (v : W64),
    (∃ t, exec (.bankpwrWrite core k v) s = .next t ∧ (∀ c, c ≠ core → t.coreOf c = s.coreOf c) ∧
      t.ctxs = s.ctxs ∧ t.grains = s.grains ∧ t.hbm = s.hbm ∧
      ∀ j, j < 32 → let code := bits v (2 * j + 1) (2 * j)
        let bank := 32 * k.val + j
        let was := (s.coreOf core).bankCode bank
        let waits := code = 2 ∧ was ≠ 2 ∧ s.bankInUse core bank = true
        (t.coreOf core).bankCode bank = (if code = 3 ∨ waits then was else code) ∧
        (waits → bank ∈ (t.coreOf core).goingOff ∧ ∀ a, inBank core bank a = true → Mem.get t.lmem a = Mem.get s.lmem a) ∧
        (code = 2 → was ≠ 2 → ¬ waits → ∀ a, inBank core bank a = true → Mem.get t.lmem a = 0) ∧
        (code = 0 → was = 2 → Tab.find (t.coreOf core).waking bank = some (s.cycleOf (core / 4) + 64)) ∧
        (code = 1 → was = 2 → Tab.find (t.coreOf core).waking bank = none)) ∧
    (∀ bank, bank < 256 → bank ∈ (s.coreOf core).goingOff →
      (s.bankInUse core bank = true → s.offStep core bank = s) ∧
      (s.bankInUse core bank = false → ((s.offStep core bank).coreOf core).bankCode bank = 2 ∧
        ∀ a, inBank core bank a = true → Mem.get (s.offStep core bank).lmem a = 0)) ∧
    ∀ bank due, bank < 256 → Tab.find (s.coreOf core).waking bank = some due →
      (s.cycleOf (core / 4) < due → exec (.bankWakeDone core bank) s = .next s ∧ exec (.retBankWake core bank) s = .next s) ∧
      (due ≤ s.cycleOf (core / 4) → (s.coreOf core).bankCode bank = 0 →
        ∃ t, exec (.bankWakeDone core bank) s = .next t ∧ Tab.find (t.coreOf core).waking bank = none ∧
          (t.coreOf core).bankCode bank = 0 ∧ t.ctxs = s.ctxs ∧ sameMem s t) ∧
      (due ≤ s.cycleOf (core / 4) → (s.coreOf core).bankCode bank = 1 →
        ∃ t, exec (.retBankWake core bank) s = .next t ∧ Tab.find (t.coreOf core).waking bank = none ∧
          (t.coreOf core).bankCode bank = 0 ∧ t.ctxs = s.ctxs ∧ sameMem s t)

/-! ### Barriers, the event unit, mailboxes, rings and queues (05 R139 to R155) -/

/-- R36, R139, R140 and R142: what an arrival does, and when `bar.arv` and `bar.sync` make it, park or trap; a held
arrival is performed once its context's commands have completed and the log has room for its U lines (R296), and a `bar.sync`
whose phase completed while it was recorded gets its result.
R141: `bar.wait` by the distance from its token to PHASE: 0 parks, 1 gives 0, up to 2^31 - 1 gives 1, and beyond
that the token is bad.
R271: at level 4 of a gang that has met a MISSING answer each of the three raises GANG_MISSING, `bar.wait` where its phase would
have to complete first, also without an arrival of its own (DEDUCED, entry 51), and an arrival that stands held or waits is
taken back. -/
def Obligations.BarrierArrivalsAndTokenWaits : Prop :=
  (∀ (s : State) (h : Head) (l : Fin 4) (n : Nat), s.runs h = true → (Tab.find s.sheaves s.cur.sheaf).isSome = true →
      let k := l.val + 1
      let u := s.unfence
      let v := u.settle 1 n
      let p := (s.domOf s.cur.sheaf n).phase
      let a := v.arrive v.cur l
      let out (st : State) (i : Instr) (g : Stage) (b : Bool) : Out :=
        ⟨st.freeN + 1, i, st.me.pc, h.dst, p, b, g, 0, [], [], 0, none, st.cycle, st.quantumOf st.cur⟩
      let gone := k = 4 ∧ s.sheaf.gangMissing = true
      (s.grain.dom k = none → exec (.barArv h l) s = .next (u.exact Cause.barrierLevel 1) ∧
        exec (.barSync h l) s = .next (u.exact Cause.barrierLevel 1)) ∧
      (s.grain.dom k = some n → gone → exec (.barArv h l) s = .next (u.exact Cause.gangMissing 1) ∧
        exec (.barSync h l) s = .next (u.exact Cause.gangMissing 1)) ∧
      (s.grain.dom k = some n → ¬ gone → u.fenced = false → u.rcBusy = false → u.vecBusy u.cur = false →
        u.firing u.cur = false → u.relLog (some .dom) = false →
        (s.grain.arrived[l] = true → exec (.barArv h l) s = .next (u.park 4) ∧ exec (.barSync h l) s = .next (u.park 4)) ∧
        (s.grain.arrived[l] = false → v.cmdPending v.cur = false →
          (∃ t, exec (.barArv h l) s = .next t ∧ ReservesL a t h (some (a.cycle + 4)) (some (BitVec.ofNat 64 p)) 0 8) ∧
          (∃ t, exec (.barSync h l) s = .next t ∧
            ReservesL (a.withOut (out a (.barSync h l) .waiting false)) t h none none 0 8) ∧
          let w := v.flushU fun _ u => u.by_.contains v.cur
          let d := w.domOf s.cur.sheaf n
          a.domOf s.cur.sheaf n = { d with arrived := d.arrived + 1, tag := max d.tag (w.quantumOf v.cur) } ∧
          (∀ m, m ≠ n → a.domOf s.cur.sheaf m = w.domOf s.cur.sheaf m) ∧
          (∀ g, w.grainOf s.cur = some g → a.grainOf s.cur = some { g with arrived := g.arrived.set l true }) ∧
          (∀ c, c.sheaf ≠ s.cur.sheaf ∨ c.grain ≠ s.cur.grain → a.grainOf c = w.grainOf c) ∧ a.me = w.me ∧ sameMem w a) ∧
        (s.grain.arrived[l] = false → v.cmdPending v.cur = true →
          (∃ t, exec (.barArv h l) s = .next t ∧
            ReservesL (v.withOut (out v (.barArv h l) .heldArrival true)) t h none none 0 8) ∧
          ∃ t, exec (.barSync h l) s = .next t ∧
            ReservesL (v.withOut (out v (.barSync h l) .heldArrival true)) t h none none 0 8)) ∧
      ∀ (c : CtxId) (o : Out), s.outOf c = some o → o.stage = .heldArrival → barLevel o.instr = some l →
        let r := s.arrive c l
        let missed := k = 4 ∧ (s.sheafOf c.sheaf).gangMissing = true
        let held := s.combineHeld fun _ u => u.by_.contains c
        (missed → exec (.heldArrivalPerform c) s = .next (s.missArrival c)) ∧
        (¬ missed → s.cmdPending c = true ∨ ((s.grainOf c).getD Grain.zero).arrived[l] = true →
          exec (.heldArrivalPerform c) s = .next s) ∧
        (¬ missed → s.cmdPending c = false → ((s.grainOf c).getD Grain.zero).arrived[l] = false → held = true →
          exec (.heldArrivalPerform c) s = .next (s.waitLog (s.vdOfCtx c))) ∧
        (¬ missed → s.cmdPending c = false → ((s.grainOf c).getD Grain.zero).arrived[l] = false → held = false →
          (∀ b, o.instr = .barArv b l → exec (.heldArrivalPerform c) s =
            .next (r.fixResult c o.tag (BitVec.ofNat 64 (s.phaseOf c k)) (r.cycleOfCtx c + 4))) ∧
          (∀ b, o.instr = .barSync b l → exec (.heldArrivalPerform c) s =
            .next (r.updOut c fun o => { o with stage := .waiting, held := false, prog := s.phaseOf c k })))) ∧
  (∀ (s : State) (c : CtxId) (o : Out) (b : Head) (l : Fin 4), s.outOf c = some o → o.stage = .waiting →
      o.instr = .barSync b l → (s.sheafOf c.sheaf).det = false →
      let p := s.phaseOf c (l.val + 1)
      let missed := l.val + 1 = 4 ∧ (s.sheafOf c.sheaf).gangMissing = true
      (p = o.prog → ¬ missed → exec (.heldArrivalPerform c) s = .next s) ∧
      (p = o.prog → missed → exec (.heldArrivalPerform c) s = .next (s.missArrival c)) ∧
      (p ≠ o.prog → exec (.heldArrivalPerform c) s =
        .next (s.fixResult c o.tag (BitVec.ofNat 64 o.prog) (s.cycleOfCtx c + 2)))) ∧
  (∀ (s : State) (h : Head) (a : Src) (l : Fin 4) (n : Nat), s.runs h = true →
      let k := l.val + 1
      let u := s.unfence
      let d := ((s.domOf s.cur.sheaf n).phase + 2 ^ 32 - bits (s.src 1 a) 31 0) % 2 ^ 32
      (s.grain.dom k = none → exec (.barWait h a l) s = .next (u.exact Cause.barrierLevel 1)) ∧
      (s.grain.dom k = some n → u.fenced = false → u.acqHeld = false →
        (d = 1 → ∃ t, exec (.barWait h a l) s = .next t ∧ ReservesL (u.settle 1 n) t h (some (s.cycle + 2)) (some 0) 0 8) ∧
        (2 ≤ d → d < 2 ^ 31 → ∃ t, exec (.barWait h a l) s = .next t ∧
          ReservesL (u.settle 1 n) t h (some (s.cycle + 2)) (some 1) 0 8) ∧
        (¬ (k = 4 ∧ s.sheaf.gangMissing = true) → d = 0 → exec (.barWait h a l) s = .next (u.park 4)) ∧
        (¬ (k = 4 ∧ s.sheaf.gangMissing = true) → 2 ^ 31 ≤ d →
          exec (.barWait h a l) s = .next (u.exact Cause.barrierToken 1)) ∧
        (k = 4 → s.sheaf.gangMissing = true → d = 0 ∨ 2 ^ 31 ≤ d →
          exec (.barWait h a l) s = .next (u.exact Cause.gangMissing 2))))

/-- R142, R154 and R261: a phase completes when all have arrived and no byte is pending: PHASE advances, the arrivals and
the rings of its level move on, and each `bar.sync` that waits for it gets its result two cycles later. R279: in a
deterministic sheaf a context that waits behind its `bar.sync` goes on with the phase's quantum at least. -/
def Obligations.BarrierPhaseCompletes : Prop :=
  ∀ (s : State) (sheaf n : Nat), s.tabsOk = true →
    let h := s.sheafOf sheaf
    let k := h.domLevel n
    let d := s.domOf sheaf n
    let member (g : Nat) : Prop := h.domNum k g = n
    (s.phaseReady sheaf n = false → exec (.barrierPhaseComplete sheaf n) s = .next s) ∧
    (s.phaseReady sheaf n = true → d.arrived = h.levSize k ∧ d.pend = 0 ∧
      ∃ t, exec (.barrierPhaseComplete sheaf n) s = .next t ∧
        t.domOf sheaf n = ⟨(d.phase + 1) % 2 ^ 32, 0, 0, 0⟩ ∧ (∀ m, m ≠ n → t.domOf sheaf m = s.domOf sheaf m) ∧
        (∀ g x, Tab.find s.grains (sheaf, g) = some x → member g → ∃ y, Tab.find t.grains (sheaf, g) = some y ∧
          y = { x with rings := y.rings, arrived := y.arrived } ∧
          (∀ i : Fin 4, y.arrived[i] = if i.val + 1 = k then false else x.arrived[i]) ∧
          ∀ i : Fin 8, y.rings[i] = x.rings[i].map fun r => if r.level = k then { r with sp := (r.sp + 1) % max 1 r.n } else r) ∧
        (∀ m g, m ≠ sheaf ∨ ¬ member g → Tab.find t.grains (m, g) = Tab.find s.grains (m, g)) ∧
        (∀ c x o b l, s.ctx c = some x → x.out = some o → o.instr = .barSync b l → o.stage = .waiting →
          c.sheaf = sheaf → member c.grain → l.val + 1 = k → o.prog = d.phase →
          t.ctx c = some { x with
            out := none
            resuming := false
            pend := x.pend.map fun p => if p.tag = o.tag then
              { p with tag := 0, val := some (BitVec.ofNat 64 d.phase), due := some (s.cycleOfCtx c + 2) } else p
            lcnt := if h.det = true ∧ x.behindSync = true then max x.lcnt (d.tag * h.quantum) else x.lcnt }) ∧
        (∀ c x, s.ctx c = some x → (∀ o, x.out = some o → o.stage ≠ .waiting) → t.ctx c = some x) ∧ sameMem s t)

/-- R143 and R144: `evsig` fires its own tile's line at once and sends a fire to each tile that EVFWD names; a fire that
lands sets its line; a load of EVWAIT takes a fired line and parks at any other.
R143 and R146: a mutex that is free is taken, one that is not parks `MXT`'s twin and gives 0 to a try, and its holder
alone releases it; a store that is not the holder's raises MUTEX_STATE with TRAPADDR at its address (DEDUCED, entry 41).
R278: in a deterministic sheaf such a request waits in the task queue until its batch grants it.
R164 and R247: a fence, an acquire or a gather of the context holds each of these accesses.
R147: tile barriers: an arrival marks its context, the last one completes the phase, a wait parks its context while it
is marked; COUNT 0 disables a barrier and a COUNT at or below the arrivals completes it. -/
def Obligations.EventLinesMutexesTileBarriers : Prop :=
  ((∀ (s : State) (h : Head) (n : Fin 32), s.runs h = true →
      let u := s.unfence
      let mine := s.myTile
      let mask := (s.tileOf mine).evfwd[n]
      let other (k : Nat) : Nat := s.sheaf.tile (s.cur.grain / 32 * 4 + k)
      let fired (x y : State) (b : Bool) : Prop :=
        (y.tileOf mine).evflag = (x.tileOf mine).evflag.set n b ∧
          ∀ a, a ≠ mine → (y.tileOf a).evflag = (x.tileOf a).evflag
      (u.fenced = false → u.relBusy u.cur = false →
        ∃ t y, exec (.evsig h n) s = .next t ∧ IssuesN y t 8 ∧ y = { u with tiles := y.tiles, sheaves := y.sheaves } ∧
          (s.sheaf.det = false → y.sheaves = s.sheaves) ∧ fired s y true ∧
          (∀ k, k < 4 → bit mask k = true → other k ≠ mine →
            ⟨n.val, s.slot + 24, s.quantumOf s.cur, s.cur⟩ ∈ (y.tileOf (other k)).fires) ∧
          ∀ a, (∀ k, k < 4 → bit mask k = true → other k ≠ mine → other k ≠ a) → (y.tileOf a).fires = (s.tileOf a).fires) ∧
      (u.fenced = false → u.relBusy u.cur = true → exec (.evsig h n) s = .next u.stall) ∧
      (u.fenced = false → u.gathering = false → u.acqHeld = false → (s.tileOf mine).evflag[n] = true →
        ∃ t y, exec (.evwaitLoad h n) s = .next t ∧ ReservesL y t h (some (s.cycle + 6)) (some 1) 0 8 ∧
          y = { (u.settle 2 (32 * mine + n.val)) with tiles := y.tiles } ∧ fired s y false) ∧
      (u.fenced = false → u.gathering = false → u.acqHeld = false → (s.tileOf mine).evflag[n] = false →
        exec (.evwaitLoad h n) s = .next (u.park 3)) ∧
      (u.fenced = true ∨ u.gathering = true → exec (.evwaitLoad h n) s = .next u.stall)) ∧
    ∀ (s : State) (tile : Nat) (n : Fin 32),
      ((∀ f ∈ (s.tileOf tile).fires, f.line ≠ n.val) → exec (.eventFireArrive tile n) s = .next s) ∧
      ∀ f, f ∈ (s.tileOf tile).fires → f.line = n.val → ∃ t, exec (.eventFireArrive tile n) s = .next t ∧
        t = { s with tiles := t.tiles, sheaves := t.sheaves } ∧
        ((∀ g ∈ (s.tileOf tile).fires, (s.sheafOf g.by_.sheaf).det = false) → t.sheaves = s.sheaves) ∧
        (t.tileOf tile).evflag = (s.tileOf tile).evflag.set n true ∧
        (t.tileOf tile).fires.length + 1 = (s.tileOf tile).fires.length ∧ ∀ a, a ≠ tile → t.tileOf a = s.tileOf a) ∧
  (∀ (s : State) (h : Head) (k : Fin 16), s.runs h = true →
      let u := s.unfence
      let m := (s.tileOf s.myTile).mutex[k]
      let holds (v : Option CtxId) : State := u.updTile s.myTile fun t => { t with mutex := t.mutex.set k v }
      let ea : W64 := BitVec.ofNat 64 (0x0200_0400 + 8 * k.val)
      let served := s.sheaf.det = false ∨ s.me.wait = .granted
      let queued (i : Instr) : State := (u.updSheaf s.cur.sheaf fun g => { g with
        tasks := g.tasks ++ [⟨i, s.me.lcnt / max 1 s.sheaf.quantum, s.cur.grain, s.cur.ctx, s.me.lcnt, false⟩] }).updMe fun c =>
          { c with wait := .task }
      (u.fenced = true ∨ u.gathering = true → exec (.mutexTake h k) s = .next u.stall ∧ exec (.mutexTry h k) s = .next u.stall ∧
        exec (.mutexRelease h k) s = .next u.stall) ∧
      (u.fenced = false → u.gathering = false →
        (served → m = none → u.acqHeld = false →
          (∃ t, exec (.mutexTake h k) s = .next t ∧ ReservesL (holds (some s.cur)) t h (some (s.cycle + 6)) (some 1) 0 8) ∧
          ∃ t, exec (.mutexTry h k) s = .next t ∧ ReservesL (holds (some s.cur)) t h (some (s.cycle + 6)) (some 1) 0 8) ∧
        (served → m ≠ none → u.acqHeld = false → exec (.mutexTake h k) s = .next (u.park 3) ∧
          ∃ t, exec (.mutexTry h k) s = .next t ∧ ReservesL u t h (some (s.cycle + 6)) (some 0) 0 8) ∧
        (served → u.relBusy u.cur = false → m = some s.cur →
          ∃ t, exec (.mutexRelease h k) s = .next t ∧ IssuesN (holds none) t 8) ∧
        (served → u.relBusy u.cur = false → m = none → exec (.mutexRelease h k) s = .next (u.exact Cause.mutexState 2 ea)) ∧
        (served → u.relBusy u.cur = false → ∀ c, m = some c → c ≠ s.cur →
          exec (.mutexRelease h k) s = .next (u.exact Cause.mutexState 1 ea)) ∧
        (s.sheaf.det = true → s.me.wait ≠ .granted → s.me.wait ≠ .task →
          (u.acqHeld = false → exec (.mutexTake h k) s = .next (queued (.mutexTake h k)) ∧
            exec (.mutexTry h k) s = .next (queued (.mutexTry h k))) ∧
          (u.relBusy u.cur = false → exec (.mutexRelease h k) s = .next (queued (.mutexRelease h k)))) ∧
        (u.relBusy u.cur = true → exec (.mutexRelease h k) s = .next u.stall))) ∧
  (∀ (s : State) (h : Head) (k : Fin 8) (r : Src), s.runs h = true →
      let u := s.unfence
      let b := (s.tileOf s.myTile).tbar[k]
      let n := bits (s.src 2 r) 6 0
      let settled := u.settle 6 (32 * s.myTile + k.val)
      let now (x y : State) (v : TBar) : Prop :=
        y = { x.updTile s.myTile fun t => { t with tbar := t.tbar.set k v } with sheaves := y.sheaves } ∧
          (s.sheaf.det = false → y.sheaves = s.sheaves)
      let arrives (v : TBar) : Prop := ∃ t y, exec (.tileBarrierArrive h k) s = .next t ∧ IssuesN y t 8 ∧ now settled y v
      let config (v : TBar) : Prop := ∃ t y, exec (.tbcfgWrite h k r) s = .next t ∧ IssuesN y t 8 ∧ now u y v
      let up := (b.phase + 1) % 2 ^ 32
      (u.fenced = true ∨ u.gathering = true → exec (.tileBarrierArrive h k) s = .next u.stall ∧
        exec (.tileBarrierWait h k) s = .next u.stall ∧ exec (.tbcfgWrite h k r) s = .next u.stall) ∧
      (u.fenced = false → u.gathering = false →
        (u.relBusy u.cur = false → b.count ≠ 0 → s.cur ∉ b.marks →
          (b.marks.length + 1 < b.count → arrives ⟨b.phase, b.count, b.marks ++ [s.cur]⟩) ∧
          (b.count ≤ b.marks.length + 1 → arrives ⟨up, b.count, []⟩)) ∧
        (u.relBusy u.cur = false → b.count ≠ 0 → s.cur ∈ b.marks → exec (.tileBarrierArrive h k) s = .next (u.park 3)) ∧
        (u.relBusy u.cur = false → b.count = 0 → exec (.tileBarrierArrive h k) s =
          .next (u.exact Cause.localAddress 5 (BitVec.ofNat 64 (0x0200_0640 + 8 * k.val)))) ∧
        (u.relBusy u.cur = true → exec (.tileBarrierArrive h k) s = .next u.stall) ∧
        (u.acqHeld = false → s.cur ∈ b.marks → exec (.tileBarrierWait h k) s = .next (u.park 3)) ∧
        (u.acqHeld = false → s.cur ∉ b.marks → ∃ t, exec (.tileBarrierWait h k) s = .next t ∧
          ReservesL settled t h (some (s.cycle + 6)) (some (BitVec.ofNat 64 b.phase)) 0 8) ∧
        (min 88 n ≤ b.marks.length → config ⟨up, min 88 n, []⟩) ∧
        (b.marks.length < min 88 n → config ⟨b.phase, min 88 n, b.marks⟩)))

/-- R148 and R152: a mailbox takes 16 entries, first in first out for each key; `ring.def` checks its registers in the
order of its DETAIL, defines a ring with its stage pair at 0, and removes it with a size of 0. R278: in a deterministic sheaf
a request to the mailbox waits in the task queue until its batch grants it. -/
def Obligations.MailboxesAndRings : Prop :=
  ∀ (s : State) (h : Head) (a b : Src) (d n : BitVec 5) (l : Fin 4) (k : Fin 8), s.runs h = true →
    let u := s.unfence
    let box := s.grain.mailbox
    let key := s.src 1 a
    let grainWith (f : Grain → Grain) (x : State) : State := x.updGrain f
    let queued (i : Instr) : State := (u.updSheaf s.cur.sheaf fun g => { g with
      tasks := g.tasks ++ [⟨i, s.me.lcnt / max 1 s.sheaf.quantum, s.cur.grain, s.cur.ctx, s.me.lcnt, false⟩] }).updMe fun c =>
        { c with wait := .task }
    (s.sheaf.det = true → s.me.wait ≠ .granted → s.me.wait ≠ .task → u.fenced = false →
      (u.relBusy u.cur = false → exec (.rdvPut h a b) s = .next (queued (.rdvPut h a b))) ∧
      (u.acqHeld = false → exec (.rdvGet h a) s = .next (queued (.rdvGet h a)))) ∧
    (s.sheaf.det = false ∨ s.me.wait = .granted → u.fenced = false →
      (u.relBusy u.cur = false → box.length < 16 → ∃ t, exec (.rdvPut h a b) s = .next t ∧
        IssuesN (grainWith (fun g => { g with mailbox := g.mailbox ++ [(key, s.src 2 b)] }) u) t 8) ∧
      (u.relBusy u.cur = false → 16 ≤ box.length → exec (.rdvPut h a b) s = .next (u.park 2)) ∧
      (u.acqHeld = false → (∀ e ∈ box, e.1 ≠ key) → exec (.rdvGet h a) s = .next (u.park 2)) ∧
      ∀ pre v post, u.acqHeld = false → box = pre ++ (key, v) :: post → (∀ e ∈ pre, e.1 ≠ key) →
        ∃ t, exec (.rdvGet h a) s = .next t ∧
          ReservesL (grainWith (fun g => { g with mailbox := pre ++ post }) u) t h (some (s.cycle + 2)) (some v) 0 8) ∧
    let base := key.toNat
    let size := (s.src 2 b).toNat
    let nn := n.toNat + 1
    let dd := d.toNat
    let i : Instr := .ringDef h a b d n l k
    let rings (r : Option Ring) : Prop :=
      ∃ t, exec i s = .next t ∧ IssuesN (grainWith (fun g => { g with rings := g.rings.set k r }) s) t 8
    let bad (e : Nat) : Prop := exec i s = .next (s.exact Cause.ringConfig e)
    (s.grain.dom (l.val + 1) = none → exec i s = .next (s.exact Cause.barrierLevel 1)) ∧
    (s.grain.dom (l.val + 1) ≠ none →
      (size = 0 → rings none) ∧
      (size ≠ 0 → 2 ^ 21 ≤ base ∨ base % 64 ≠ 0 → bad 1) ∧
      (size ≠ 0 → base < 2 ^ 21 → base % 64 = 0 → size % 64 ≠ 0 ∨ 2 ^ 19 < (dd + 1) * size → bad 2) ∧
      (size ≠ 0 → base < 2 ^ 21 → base % 64 = 0 → size % 64 = 0 → (dd + 1) * size ≤ 2 ^ 19 → 2 ^ 21 < base + nn * size → bad 3) ∧
      (size ≠ 0 → base < 2 ^ 21 → base % 64 = 0 → size % 64 = 0 → (dd + 1) * size ≤ 2 ^ 19 → base + nn * size ≤ 2 ^ 21 →
        rings (some ⟨base, size, nn, dd, l.val + 1, 0⟩)))

/-- R149 to R151: a write of RQCFG, which drops the entries that messages under way have reserved (the model's own reading, entry
94); `rqput` issues with its message when its queue is disabled or has room and parks otherwise, after its checks in the order of
entry 50 (DEDUCED), as those of `rqtake` are; the reservation takes TAIL, or records the failed check; the delivery stores the
message; `rqtake` takes HEAD. -/
def Obligations.RemoteQueues : Prop :=
  (∀ (s : State) (h : Head) (p : Fin 8) (r : Src) (len : Fin 8) (q : Fin 2) (n : Fin 16), s.runs h = true →
    let u := s.unfence
    let v := s.src 2 r
    let ea := s.me.a[p]
    let qn : Fin 32 := ⟨16 * q.val + n.val, by omega⟩
    let rqmask : W64 := 0x8000_00FF_001F_FFC0
    let old := (s.tileOf s.myTile).rq[qn]
    let new : RQueue := if bit old.cfg 63 = true ∧ bit v 63 = true then old
      else { RQueue.zero with cfg := v &&& rqmask, view := s.myView }
    let ignored := bit old.cfg 63 = true ∧ bit v 63 = true
    let dropped (c : CtxId) (o : Out) : Prop := (∃ h' p' r' l', o.instr = .rqput h' p' r' l') ∧ o.stage = .sent ∧
      s.rqTarget c (o.caps.getD 0 0) = (s.myTile, qn.val)
    (u.fenced = true ∨ u.gathering = true → exec (.rqcfgWrite h q n r) s = .next u.stall) ∧
    (u.fenced = false → u.gathering = false → ∃ t y, exec (.rqcfgWrite h q n r) s = .next t ∧
      IssuesN (y.updTile s.myTile fun t => { t with rq := t.rq.set qn new }) t 8 ∧
      y = { u with ctxs := y.ctxs } ∧ (ignored → y = u) ∧
      ∀ c x, u.ctx c = some x →
        ((∀ o, x.out = some o → ¬ dropped c o) → y.ctx c = some x) ∧
        (∀ o, x.out = some o → dropped c o → ¬ ignored → y.ctx c = some { x with out := none, resuming := false })) ∧
    (∀ b, u.fenced = false → u.rcBusy = false → u.relBusy u.cur = false → s.range ea (8 * (len.val + 1)) 8 false = .ok b →
      (v &&& ~~~(0xEF : W64) ≠ 0 → exec (.rqput h p r len) s = .next (u.exact Cause.queueState 2 ea)) ∧
      (v &&& ~~~(0xEF : W64) = 0 → s.rngBank b = .on → u.rngVecHeld b = false → s.rngPoisoned b = false →
        let target := s.rqTarget s.cur v
        let x := s.rqOf target.1 target.2
        let full := x.en = true ∧ x.entries ≤ x.reserved + x.freed + u.inFlight target.1 target.2
        (full → exec (.rqput h p r len) s = .next (u.park 5)) ∧
        (¬ full → ∃ t, exec (.rqput h p r len) s = .next t ∧
          IssuesN (u.withOut
          ⟨s.freeN + 1, .rqput h p r len, s.me.pc, .none, 0, false, .accepted, ea, [v], s.rread b, 0, none, s.cycle,
            s.quantumOf s.cur⟩) t 8))) ∧
    (∀ c d, u.fenced = false → u.rcBusy = false → u.relBusy u.cur = false → s.range ea (8 * (len.val + 1)) 8 false = .error (c, d) →
      exec (.rqput h p r len) s = .next (u.exact c d ea)) ∧
    let mine := 16 * s.myLQuad + bits v 3 0
    let x := s.rqOf s.myTile mine
    u.fenced = false → u.acqHeld = false →
      (bits v 63 4 ≠ 0 → exec (.rqtake h p r) s = .next (u.exact Cause.queueState 2 ea)) ∧
      (bits v 63 4 = 0 → x.en = false → exec (.rqtake h p r) s = .next (u.exact Cause.queueState 1 ea)) ∧
      ∀ b, bits v 63 4 = 0 → x.en = true → s.range ea 64 8 false = .ok b → s.rngBank b = .on → u.rngVecHeld b = false →
        s.rngStoreHeld b = false →
        (x.count = 0 → exec (.rqtake h p r) s = .next (u.park 5)) ∧
        let from_ := s.entryPhys s.myTile mine x.head
        (x.count ≠ 0 → s.rangeBank from_ 64 = .on → s.lPoisoned from_ 64 = false →
          let m := Tab.getD x.msgs x.head (64, 0)
          ∃ t y, exec (.rqtake h p r) s = .next t ∧
            ReservesL y t h (some (s.cycle + 12)) (some (BitVec.ofNat 64 (m.1 + m.2 * 2 ^ 16))) 0 8 ∧
            y = { (u.settle 5 (256 * (32 * s.myTile + mine) + x.head)) with tiles := y.tiles, quads := y.quads } ∧
            (y.rqOf s.myTile mine).head = (x.head + 1) % x.entries ∧ (y.rqOf s.myTile mine).count = x.count - 1 ∧
            (∀ a, a ≠ s.myTile → y.tileOf a = s.tileOf a) ∧
            ∃ op, (y.quadOf s.myQuad).vops = (s.quadOf s.myQuad).vops ++ [op] ∧ op.ctx = s.cur ∧ op.due = s.cycle + 12 ∧
              op.writes = s.cells s.myView s.myLQuad b.off (Mem.read s.lmem from_ m.1))) ∧
  ∀ (s : State) (c : CtxId) (o : Out) (h : Head) (p : Fin 8) (r : Src) (len : Fin 8), s.outOf c = some o → o.instr = .rqput h p r len →
    let target := s.rqTarget c (o.caps.getD 0 0)
    let x := s.rqOf target.1 target.2
    let core := s.entryPhys target.1 target.2 x.tail / 2 ^ 19
    let at_ := s.entryPhys target.1 target.2 o.aux
    (o.stage = .accepted → s.rqBehind c o = true → exec (.rqputReservationArrive c) s = .next s) ∧
    (o.stage = .accepted → s.coreMoving core = false → s.rqBehind c o = false →
      (∀ d, s.peerGone (s.vdOfCtx c) core = some d →
        exec (.rqputReservationArrive c) s = .next (s.recorded c Cause.peerGone d o.addr false)) ∧
      (s.peerGone (s.vdOfCtx c) core = none → x.en = false →
        exec (.rqputReservationArrive c) s = .next (s.recorded c Cause.queueState 1 o.addr false)) ∧
      (s.peerGone (s.vdOfCtx c) core = none → x.en = true → x.reserved + x.freed < x.entries → target.2 < 32 →
        ∃ t, exec (.rqputReservationArrive c) s = .next t ∧ t.outOf c = some { o with stage := .sent, aux := x.tail } ∧
          t.rqOf target.1 target.2 = { x with tail := (x.tail + 1) % x.entries, reserved := x.reserved + 1 } ∧
          (∀ d, d ≠ c → t.ctx d = s.ctx d) ∧ sameMem s t)) ∧
    (o.stage = .sent → o.aux = (x.head + x.count) % x.entries → s.coreMoving (at_ / 2 ^ 19) = false → s.copyMeets at_ 64 = false →
        s.rangeBank at_ 64 = .on → target.2 < 32 → Mem.wf s.lmem = true → ∃ t, exec (.rqputDeliver c) s = .next t ∧ t.outOf c = none ∧
          t.rqOf target.1 target.2 = { x with
            count := x.count + 1
            msgs := Tab.put x.msgs o.aux (o.data.length, c.grain) } ∧
          storesLocal s t at_ o.data ∧ (∀ a, Mem.get t.hbm a = Mem.get s.hbm a) ∧ ∀ d, d ≠ c → t.ctx d = s.ctx d) ∧
    ∀ (tile : Nat) (q : Fin 2) (n : Fin 16) (k : Nat), k = 16 * q.val + n.val →
      ∃ t, exec (.rqFreeNotice tile q n) s = .next t ∧ t = { s with tiles := t.tiles } ∧
        t.rqOf tile k = { s.rqOf tile k with freed := (s.rqOf tile k).freed - 1 } ∧
        (∀ j, j ≠ k → t.rqOf tile j = s.rqOf tile j) ∧ ∀ a, a ≠ tile → t.tileOf a = s.tileOf a

/-! ### Vector instructions (06) -/

/-- R157 to R159, R163, R167, R168 and R170 to R173: each elementwise instruction that the unit accepts writes, for every
element below E, the result of its operation, one latency later, with the union of the elements' flags. That the sources are
read when it is accepted and the destination is written when it completes is DEDUCED, entry 45. -/
def Obligations.VectorElements : Prop :=
  ∀ (s : State) (h : Head) (v : VArgs) (rs : List (Nat × Rng)), s.runs h = true →
    let t := v.ty
    let b := VTy.bytes t
    let f := VTy.fmt t
    let float := Machine.VTy.isFloat t
    let e := activeE t false s.me.vl
    let sat := bit v.opt 0
    let el (k : Nat) (d : VDesc) (j : Nat) : Nat := s.velem rs k d t b j
    let gives (i : Instr) (occ lat : Nat) (op : Nat → Nat → Nat → Nat × Flags) (one : Bool := false) : Prop :=
      Instr.wellFormed i = true → VReady s i v rs →
        let c := collisions (rs.map Prod.snd)
        let r := (List.range e).map fun j => op (el 1 v.x (if one then 0 else j)) (el 2 v.y j) (el 3 v.z j)
        ∃ u y, exec i s = .next u ∧ IssuesN y u 16 ∧
          EntersV s y v rs (r.map Prod.fst) (r.foldl (fun g x => g ||| x.2) 0) s.me.lfsr (occ + c) (lat + c)
    let bin (i : Instr) (ff : Nat → Nat → Nat × Flags) (fi : Int → Int → Int) : Prop := gives i 1 6 fun x y _ =>
      if float then ff x y else VTy.fit t sat (fi (VTy.int t x) (VTy.int t y))
    let un (i : Instr) (g : Nat → Nat × Flags) : Prop := gives i 2 12 fun x _ _ => g x
    let w := VTy.bits t
    bin (.vadd h v) f.add (· + ·) ∧ bin (.vsub h v) f.sub (· - ·) ∧ bin (.vmul h v) f.mul (· * ·) ∧
    bin (.vmin h v) (f.minmax false) min ∧ bin (.vmax h v) (f.minmax true) max ∧
    gives (.vfma h v) 1 6 (fun x y z => if float then f.fma x y z
      else VTy.fit t sat (VTy.int t x * VTy.int t y + VTy.int t z)) ∧
    gives (.vfms h v) 1 6 (fun x y z => if float then f.fma x y ((z + 2 ^ (f.w - 1)) % 2 ^ f.w)
      else VTy.fit t sat (VTy.int t x * VTy.int t y - VTy.int t z)) ∧
    gives (.vabs h v) 1 6 (fun x _ _ => if float then (x % 2 ^ (w - 1), 0) else VTy.fit t sat (VTy.int t x).natAbs) ∧
    gives (.vneg h v) 1 6 (fun x _ _ => if float then ((x + 2 ^ (w - 1)) % 2 ^ w, 0) else VTy.fit t sat (-VTy.int t x)) ∧
    un (.vexp2 h v) f.exp2 ∧ un (.vlog2 h v) f.log2 ∧ un (.vrcp h v) f.rcp ∧ un (.vrsq h v) f.rsq ∧
    gives (.vand h v) 1 6 (fun x y _ => (x &&& y, 0)) ∧ gives (.vor h v) 1 6 (fun x y _ => (x ||| y, 0)) ∧
    gives (.vxor h v) 1 6 (fun x y _ => (x ^^^ y, 0)) ∧
    gives (.vshl h v) 1 6 (fun x y _ => (x * 2 ^ (y % w) % 2 ^ w, 0)) ∧
    gives (.vshr h v) 1 6 (fun x y _ => (x / 2 ^ (y % w), 0)) ∧
    gives (.vsra h v) 1 6 (fun x y _ => (sraV t x y, 0)) ∧
    gives (.vcmp h v) 1 6 (fun x y _ => cmp1 t (v.opt.toNat % 4) x y) ∧
    gives (.vsel h v) 1 6 (fun x y z => (if x % 2 = 1 then y else z, 0)) ∧
    gives (.vmov h v) 1 6 (fun x _ _ => (x, 0)) ∧
    gives (.vbcast h v) 1 6 (fun x _ _ => (x, 0)) true

/-- R169 and R174 to R176: conversions, permutations, scans and reductions that the unit accepts. That the sources are read
when it is accepted and the destination is written when it completes is DEDUCED, entry 45. -/
def Obligations.VectorConversionsAndReductions : Prop :=
  ∀ (s : State) (h : Head) (v : VArgs) (rs : List (Nat × Rng)), s.runs h = true →
    let t := v.ty
    let b := VTy.bytes t
    let e := activeE t false s.me.vl
    let c := collisions (rs.map Prod.snd)
    let x (j : Nat) : Nat := s.velem rs 1 v.x t b j
    let xs := (List.range e).map x
    let ready (i : Instr) : Prop := Instr.wellFormed i = true ∧ VReady s i v rs
    let gives (i : Instr) (outs : List Nat) (fl : Flags) (lf : Vector W32 64) (occ lat : Nat) : Prop :=
      ∃ u y, exec i s = .next u ∧ IssuesN y u 16 ∧ EntersV s y v rs outs fl lf (occ + c) (lat + c)
    let red (i : Instr) (k : Nat) : Prop := ready i → ∃ u y, exec i s = .next u ∧ EntersV s y v rs [] 0 s.me.lfsr (1 + c) (10 + c) ∧
      ReservesL y u h (some (s.cycle + (10 + c))) (some (reduceV t k xs).1) (reduceV t k xs).2 16
    (ready (.vcvt h v) →
      let st := vtyOf (v.opt.toNat % 8)
      let r := cvtL st t v.rm 0 s.me.lfsr ((List.range (min s.me.vl 64)).map fun j => s.velem rs 1 v.x st (VTy.bytes st) j)
      gives (.vcvt h v) (r.1.map Prod.fst) (r.1.foldl (fun g p => g ||| p.2) 0) r.2 1 6) ∧
    (ready (.vperm h v) →
      let p (j : Nat) : Nat := match v.y with
        | .mem .. => s.velem rs 2 v.y .u32 4 j % e
        | _ => (((if bit v.imm 15 then e - 1 - j else j) ^^^ bits v.imm 14 8) + bits v.imm 6 0) % e
      gives (.vperm h v) ((List.range e).map fun j => x (p j)) 0 s.me.lfsr 1 6) ∧
    (ready (.vscan h v) →
      gives (.vscan h v) (scanL t (v.opt.toNat % 4) xs).1 (scanL t (v.opt.toNat % 4) xs).2 s.me.lfsr 2 10) ∧
    red (.vredadd h v) 0 ∧ red (.vredmax h v) 1 ∧ red (.vredmin h v) 2

/-- R160, R161, R165 and R179: what holds or stops a vector instruction before it is accepted, in that order, and the setting
of VL. One that meets an uncorrectable error has taken the unit (R161). -/
def Obligations.VectorLengthAndHolds : Prop :=
  (∀ (s : State) (i : Instr) (h : Head) (v : VArgs), vargsOf i = some v → headOf i = some h → s.runs h = true →
    let u := s.unfence
    let e := activeE v.ty (vnarrow i) s.me.vl
    let caps := [s.vcap 0 v.d, s.vcap 1 v.x, s.vcap 2 v.y, s.vcap 3 v.z, BitVec.ofNat 64 e]
    let ranges := s.vranges (vopds i v e caps)
    (u.fenced = true ∨ u.rcBusy = true ∨ s.vunitBusy = true → exec i s = .next u.stall) ∧
    (u.fenced = false → u.rcBusy = false → s.vunitBusy = false →
      (∀ b c d, ranges = .error (b, c, d) → exec i s = .next (u.exact c d b)) ∧
      ∀ rs, ranges = .ok rs →
        let l := rs.map Prod.snd
        (∀ r, l.find? s.rangeHeld = some r → ∀ k, r.level = some k → ¬ (k = 4 ∧ s.sheaf.gangMissing = true) →
          exec i s = .next ((u.park 7).updMe fun c => { c with holdLevel := some k })) ∧
        ((∀ r ∈ l, s.rangeHeld r = false) → ∀ r, l.find? (fun r => s.rngBank r != .on) = some r → s.rngBank r = .off →
          exec i s = .next (u.exact Cause.bankOff 1 (s.gatedAddr r) true)) ∧
        ((∀ r ∈ l, s.rangeHeld r = false ∧ s.rngBank r = .on) →
          (s.vheld l = true ∨ s.vstoreHeld rs = true → exec i s = .next u.stall) ∧
          (s.vheld l = false → s.vstoreHeld rs = false → ∀ a, s.poisonIn (vsrcs rs) = some a →
            exec i s = .next ((((u.vtake ((vlat i).1 + collisions l)).vbump v).startL i h 16 a caps).recorded s.cur Cause.memoryError
              (u.vecSyndrome (vsrcs rs)) a false))))) ∧
  ∀ (s : State) (h : Head) (r : Src) (n : BitVec 8), s.runs h = true →
    let sets (i : Instr) (x : W64) : Prop :=
      (x ≠ 0 → x.toNat ≤ 128 → ∃ t, exec i s = .next t ∧ WritesS (s.updMe fun c => { c with vl := x.toNat }) t h.dst x 0 8) ∧
      (x = 0 ∨ 128 < x.toNat → exec i s = .next (s.exact Cause.sysregValue 1))
    sets (.vsetvl h r) (s.src 1 r) ∧ sets (.vsetvlImm h n) (n.setWidth 64)

/-- R163, R177 and R178: a gather or scatter captures its base, E, indices and data when it is accepted; each group of 16
lanes is checked in order, read, and then moved; an instruction's elements and flags are written at completion, not before
(DEDUCED, entry 45). R161, R160 and R211: one whose elements an earlier accepted instruction of the quad is still to write, or
that would write what a pending engine command names, stalls (entries 57 and 123 say what the model chose). R351: no group moves
during a clock switch of the quad. -/
def Obligations.GatherScatterAndCompletion : Prop :=
  (∀ (s : State) (h : Head) (v : VArgs) (rs : List (Nat × Rng)), s.runs h = true →
    let b := VTy.bytes v.ty
    let e := min s.me.vl 64
    let idx (r : Rng) : List Byte := s.rread r
    let held (scatter : Bool) : Bool :=
      s.unfence.gathHeld scatter rs (s.unfence.gathCap v scatter e [s.vcap 0 v.d, s.vcap 1 v.x, s.vcap 2 v.y] rs)
    let gives (i : Instr) (scatter : Bool) (base : W64) (data : List Byte → List Byte) : Prop :=
      Instr.wellFormed i = true → VReady s i v rs → ∀ ri, Tab.find rs 2 = some ri →
        (held scatter = true → exec i s = .next s.unfence.stall) ∧
        (held scatter = false → ∃ u y o, exec i s = .next u ∧ IssuesN y u 16 ∧ y = { s with ctxs := y.ctxs, quads := y.quads } ∧
          y.me = { s.unfence.me with a := advanced s.me (VArgs.posts v), out := some o } ∧ o.instr = i ∧ o.stage = .sent ∧
          o.prog = 0 ∧ o.addr = base ∧ o.caps.getD 0 0 = base ∧ o.caps.getD 1 0 = BitVec.ofNat 64 e ∧
          o.data = data (idx ri) ∧
          o.due = some (s.cycle + (6 + collisions (rs.map Prod.snd) +
            sumB ((List.range e).map fun k => (gathAddr base (idx ri) b k).toNat) ((e + 15) / 16))) ∧
          ∀ c, c ≠ s.cur → y.ctx c = s.ctx c)
    gives (.vgath h v) false (s.vcap 1 v.x) id ∧
    gives (.vscat h v) true (s.vcap 0 v.d) fun l => l ++ (List.range e).flatMap fun j => toBytes b (s.velem rs 1 v.x v.ty b j)) ∧
  (∀ (s : State) (c : CtxId) (o : Out) (h : Head) (v : VArgs) (sc : Bool), s.outOf c = some o → o.stage = .sent →
    o.instr = (if sc then .vscat h v else .vgath h v) →
    let x : State := { s with cur := c }
    let b := VTy.bytes v.ty
    let e := (o.caps.getD 1 0).toNat
    let at_ (i : Nat) : W64 := gathAddr (o.caps.getD 0 0) o.data b i
    let lanes := (List.range e).filter fun i => decide (o.prog ≤ i) && decide (i < o.prog + 16)
    let last := e ≤ o.prog + 16
    let due := ∀ d, o.due = some d → d ≤ s.cycleOfCtx c
    let runs := (s.quadOf (s.coreOfCtx c / 4)).phase ≠ 2
    let moves := runs ∧ (¬ last ∨ due)
    let cells := lanes.flatMap fun i =>
      if sc then x.cells x.myView x.myLQuad (at_ i).toNat ((o.data.drop (4 * e + b * i)).take b)
      else x.cells x.myView x.myLQuad ((o.caps.getD 2 0).toNat + b * i) (x.qread x.myView x.myLQuad (at_ i).toNat b)
    (moves → (∀ i ∈ lanes, x.laneCheck (at_ i) b = .ok) → (sc = false → x.lanePoison o b lanes = none) →
      ((cells.any fun p => x.copyMeets p.1 1) = true → exec (.vectorGroup c) s = .next s) ∧
      ((cells.any fun p => x.copyMeets p.1 1) = false → ∃ t, exec (.vectorGroup c) s = .next t ∧ t.lmem = (s.putCells cells).lmem ∧ t.cur = s.cur ∧ t.hbm = s.hbm ∧
        t.outOf c = (if last then none else some { o with prog := o.prog + 16 }) ∧ ∀ d, d ≠ c → t.ctx d = s.ctx d)) ∧
    (∀ i cause d r, moves → lanes.find? (fun i => x.laneCheck (at_ i) b != .ok) = some i →
      x.laneCheck (at_ i) b = .bad cause d r →
      exec (.vectorGroup c) s = .next { x.recorded c cause d (at_ i) r with cur := s.cur }) ∧
    (∀ i, moves → sc = false → (∀ i ∈ lanes, x.laneCheck (at_ i) b = .ok) → x.lanePoison o b lanes = some i →
      exec (.vectorGroup c) s = .next { x.recorded c Cause.memoryError
        (x.localSyndrome 0 (x.physAddr x.myView x.myLQuad (at_ i).toNat) b) (at_ i) false with cur := s.cur }) ∧
    (¬ moves → exec (.vectorGroup c) s = .next s)) ∧
  ∀ (s : State) (quad n : Nat) (op : VOp), (s.quadOf quad).vops.find? (fun o => o.n == n) = some op →
    (s.cycleOf quad < op.due → exec (.vectorCompletion quad n) s = .next s) ∧
    (op.due ≤ s.cycleOf quad → ∃ t, exec (.vectorCompletion quad n) s = .next t ∧ t.lmem = (s.putCells op.writes).lmem ∧
      (t.quadOf quad).vops = (s.quadOf quad).vops.erase op ∧
      (∀ x, s.ctx op.ctx = some x → t.ctx op.ctx = some { x with aflags := x.aflags ||| op.flags }) ∧
      (∀ c, c ≠ op.ctx → t.ctx c = s.ctx c) ∧ t.hbm = s.hbm ∧ t.fe = s.fe)

/-! ### Matrix and delta instructions (07) -/

/-- R180 to R182 and R190 to R199: each queued command whose checks pass enters its core's queue with the values and ranges that
it captures at issue; nothing else changes but the pointers of a delta instruction with PI.
R182 and R191 to R193: the checks of `mma` at issue, the first that fails deciding: ownership, footprint, ranges, the ring hold,
gated banks, register values; the length of an image involves no address. A full queue stalls. R202: the first context that meets
a failed restore takes its error, and no later one. -/
def Obligations.MatrixCommandsIssue : Prop :=
  (∀ (s : State) (h : Head) (m : MArgs) (r : Src) (l : List Rng), s.runs h = true →
      let x := s.unfence.me
      let a := s.me.a[m.pa]
      let st := s.me.as_[m.pa]
      let b := s.me.a[m.pb]
      let mm := m.mm.toNat + 1
      let nn := m.nn.toNat + 1
      let nk := m.kb.toNat + 1
      let kb := isKb m.fb
      let foot := some (m.woff.toNat, footprint m.fb (nn * nk))
      let spans := l.map fun r => (r.off, r.len)
      let offsets := l.map fun r => BitVec.ofNat 64 r.off
      let aOk := if isKb m.fa then a.toNat % 1024 = 0 else a.toNat % 64 = 0 ∧ st.toNat % 64 = 0 ∧ st.toNat ≤ 2 ^ 20
      let rowsOk := a.toNat % 64 = 0 ∧ st.toNat % 64 = 0 ∧ st.toNat ≤ 2 ^ 20
      let bytes := (mm - 1) * st.toNat + nn * (if m.fa = .bf16 then 2 else 4)
      let align := if m.fa = .bf16 then 2 else 4
      let moved (two : Bool) : Ctx :=
        { x with a := if bit m.opt 0 then advanced s.me (if two then [m.pa, m.pb] else [m.pa]) else x.a }
      let tokens := bits m.opt 4 1 + 1
      (MReady s none foot [(a, denseBytes m.fb (nn * nk), if kb then 1 else 2)] l → a.toNat % (if kb then 1024 else 64) = 0 →
        GivesQ (.mwld h m) s x 0 (a :: offsets) spans [] 0) ∧
      (let n := s.src 2 r
       let good := n.toNat % 32 = 0 ∧ 32 ≤ n.toNat ∧ n.toNat ≤ 32 * footprint m.fb (nn * nk)
       MReady s none foot [(a, n.toNat, 1)] l →
        (good → GivesQ (.mwldImg h r m) s x 0 (a :: offsets ++ [n]) spans [] 0) ∧
        (¬ good → exec (.mwldImg h r m) s = .next (s.unfence.exact Cause.matrixOperand 3 0))) ∧
      (let v := s.src 1 r
       MReady s none foot [] l → canonical v = true → v.toNat % 64 = 0 →
        let o : Out :=
          ⟨s.freeN + 1, .mwldGl h r m, s.me.pc, .none, 0, false, .accepted, v, [], [], 0, none, s.cycle, s.quantumOf s.cur⟩
        GivesQ (.mwldGl h r m) s { x with out := some o } (s.freeN + 1) [v] [] [] 0) ∧
      (MReady s (some m.acc) foot [(a, aRange m st)] l → aOk →
        GivesQ (.mma h m) s x 0 ([a] ++ offsets ++ [st]) spans [] (ceilDiv nk (sigma m))) ∧
      (∀ ra rb, l = [ra, rb] → MReady s (some m.acc) foot [(a, aRange m st), (b, 4 * nk, 4)] l → aOk →
        GivesQ (.mmaSp h m) s x 0 [a, BitVec.ofNat 64 ra.off, st, b, BitVec.ofNat 64 rb.off] spans [] 0 (some b)) ∧
      (MReady s (some m.acc) none [] l → GivesQ (.mzero h m) s x 0 [] [] [] 0) ∧
      (MReady s (some m.acc) none [(a, bytes, align)] l → rowsOk →
        GivesQ (.maccRd h m) s x 0 ([a] ++ offsets ++ [st]) [] spans 0 ∧
        GivesQ (.maccWr h m) s x 0 ([a] ++ offsets ++ [st]) spans [] 0) ∧
      (s.unfence.mqWait = false → ∃ t y, exec (.mstat h m) s = .next t ∧ ReservesL y t h none none 0 16 ∧
        QueuesM s y x (.mstat h m) (s.freeN + 1) [] [] [] 0) ∧
      (∀ ra, l = [ra] → MReady s (some m.acc) none [(a, 1024, 256)] l →
        GivesQ (.deltaUpd h m) s (moved false) 0 [a, BitVec.ofNat 64 ra.off] [(ra.off, ra.len)] [] 2) ∧
      (∀ ra rb, l = [ra, rb] → MReady s (some m.acc) none [(a, 1024 * tokens, 256), (b, 256 * tokens, 256)] l →
        GivesQ (.deltaChunk h m) s (moved true) 0 [a, BitVec.ofNat 64 ra.off, 0, b, BitVec.ofNat 64 rb.off]
          [(ra.off, ra.len)] [(rb.off, rb.len)] (3 * tokens)) ∧
      (∀ ra rb, l = [ra, rb] → MReady s (some m.acc) none [(a, 256, 256), (b, 256, 256)] l →
        GivesQ (.deltaQry h m) s (moved true) 0 [a, BitVec.ofNat 64 ra.off, 0, b, BitVec.ofNat 64 rb.off]
          [(ra.off, ra.len)] [(rb.off, rb.len)] 1)) ∧
  (∀ (s : State) (h : Head) (m : MArgs), s.runs h = true →
      let u := s.unfence
      let a := s.me.a[m.pa]
      let st := s.me.as_[m.pa]
      let foot := m.woff.toNat + footprint m.fb ((m.nn.toNat + 1) * (m.kb.toNat + 1))
      let trap (c d : Nat) (v : W64) (re : Bool) : Prop := exec (.mma h m) s = .next (u.exact c d v re)
      (u.mqWait = true → exec (.mma h m) s = .next u.stall) ∧
      (u.mqWait = false →
        (∀ c d, s.ownCheck m.acc = some (c, d) → c ≠ Cause.memoryError → trap c d 0 false) ∧
        (∀ d, s.ownCheck m.acc = some (Cause.memoryError, d) → exec (.mma h m) s = .next ((u.updTile s.myTile fun t => { t with
          accBad := t.accBad.filter (· != m.acc.val) }).exact Cause.memoryError d 0 false)) ∧
        (s.ownCheck m.acc = none →
          (16384 < foot → trap Cause.matrixOperand 1 0 false) ∧
          (foot ≤ 16384 →
            (∀ b c d, s.rangesOf true [(a, aRange m st)] = .error (b, c, d) → trap c d b false) ∧
            ∀ r, s.rangesOf true [(a, aRange m st)] = .ok [r] → s.rangeHeld r = false →
              (s.rngBank r = .off → trap Cause.bankOff 1 a true) ∧
              (s.rngBank r = .on → isKb m.fa = true → a.toNat % 1024 ≠ 0 → trap Cause.matrixOperand 2 a false) ∧
              (s.rngBank r = .on → isKb m.fa = false →
                a.toNat % 64 ≠ 0 ∨ st.toNat % 64 ≠ 0 ∨ 2 ^ 20 < st.toNat → trap Cause.matrixOperand 2 a false)))))

/-- R185 to R187: the ownership instructions by the state of the tile: what each changes, its result, its waits and
its faults. `macq` zeroes the tile that it takes.
R183: the weight of a core's own register takes a nonzero value, keeps its own at 0, and another core's register
faults. -/
def Obligations.MatrixOwnershipAndWeights : Prop :=
  (∀ (s : State) (h : Head) (a : Fin 64), s.runs h = true → Mem.wf s.accm = true →
      let tile := s.myTile
      let st := s.accState tile a
      let mine : AccState := .owned s.cur.sheaf s.cur.grain
      let now (v : AccState) : State := s.updTile tile fun t => { t with acc := t.acc.set a v }
      let named := s.accNamed tile a
      let abandoned := ∃ sh g p, st = .spilled sh g p ∧ s.placedOn sh tile = false
      (st = .free ∨ abandoned → ∃ t y, exec (.macq h a) s = .next t ∧ ReservesL y t h (some (s.cycle + 4)) (some 1) 0 16 ∧
        y.accState tile a = mine ∧ (∀ i j, i < 64 → j < 64 → y.accGet tile a i j = 0) ∧
        (∀ p, p < accAddr tile a 0 0 ∨ accAddr tile a 0 0 + 2 ^ 14 ≤ p → Mem.get y.accm p = Mem.get s.accm p) ∧
        Tab.find (y.tileOf tile).accZero a.val = some (s.tileCycle tile + 16) ∧
        (∀ b, b ≠ a → y.accState tile b = s.accState tile b) ∧ y.ctxs = s.ctxs ∧ y.lmem = s.lmem ∧ y.hbm = s.hbm) ∧
      (st = mine → ∃ t, exec (.macq h a) s = .next t ∧ ReservesL s t h (some (s.cycle + 4)) (some 2) 0 16) ∧
      (st ≠ .free → st ≠ mine → ¬ abandoned →
        ∃ t, exec (.macq h a) s = .next t ∧ ReservesL s t h (some (s.cycle + 4)) (some 0) 0 16) ∧
      (named = true → exec (.mrel h a) s = .next (s.park 0) ∧ exec (.munpin h a) s = .next (s.park 0)) ∧
      (named = false → st = mine → ∃ t, exec (.mrel h a) s = .next t ∧ IssuesN (now .free) t 16) ∧
      (named = false → st ≠ mine → exec (.mrel h a) s = .next (s.exact Cause.matrixOwner 2)) ∧
      (st = mine → ∃ t, exec (.mpin h a) s = .next t ∧ IssuesN (now (.pinned s.cur.sheaf s.cur.grain)) t 16) ∧
      (st ≠ mine → exec (.mpin h a) s = .next (s.exact Cause.matrixOwner 2)) ∧
      (named = false → (∃ g, st = .pinned s.cur.sheaf g) → ∃ t, exec (.munpin h a) s = .next t ∧ IssuesN (now mine) t 16) ∧
      (named = false → (¬ ∃ g, st = .pinned s.cur.sheaf g) → exec (.munpin h a) s = .next (s.exact Cause.matrixOwner 3))) ∧
  (∀ (s : State) (h : Head) (c : Fin 8) (r : Src), s.runs h = true →
      let w := bits (s.src 2 r) 3 0
      (c.val = s.cur.grain % 8 → w ≠ 0 → ∃ t, exec (.mqwtWrite h c r) s = .next t ∧
        IssuesN (s.updGrain fun g => { g with mqwt := w }) t 8) ∧
      (c.val = s.cur.grain % 8 → w = 0 → ∃ t, exec (.mqwtWrite h c r) s = .next t ∧ IssuesN s t 8) ∧
      (c.val ≠ s.cur.grain % 8 →
        exec (.mqwtWrite h c r) s = .next (s.exact Cause.localAddress 4 (BitVec.ofNat 64 (0x0200_4000 + 8 * c.val)))))

/-- R90, R189, R193 and R194: a tile-op of a multiply adds, for each row below M and column below N, its K-blocks in order
to the accumulator element, and changes no other element and no other memory. -/
def Obligations.MatrixMultiplyElements : Prop :=
  ∀ (s : State) (tile lq : Nat) (c : MCmd) (m : MArgs) (kbs : List Nat), Mem.wf s.accm = true →
    let mm := m.mm.toNat + 1
    let nn := m.nn.toNat + 1
    let nk := m.kb.toNat + 1
    let t := (s.mmaOp tile lq c m kbs).1
    let pairs (i j : Nat) : List (MBlock × MBlock) := kbs.map fun k =>
      (s.ablock lq c m i k, s.wblock tile m.fb m.woff.toNat (nn * nk) (j * nk + k))
    let element (i j : Nat) : Nat × Flags := accBlocks (s.accGet tile m.acc i j) 0 (pairs i j)
    (∀ i j, i < mm → j < nn → t.accGet tile m.acc i j = (element i j).1 % 2 ^ 32) ∧
    (∀ i j, i < 64 → j < 64 → mm ≤ i ∨ nn ≤ j → t.accGet tile m.acc i j = s.accGet tile m.acc i j) ∧
    (∀ p, p < accAddr tile m.acc 0 0 ∨ accAddr tile m.acc 0 0 + 2 ^ 14 ≤ p → Mem.get t.accm p = Mem.get s.accm p) ∧
    (∀ k : Fin 6, bit (s.mmaOp tile lq c m kbs).2 k.val = true ↔ ∃ i j, i < mm ∧ j < nn ∧ bit (element i j).2 k.val = true) ∧
    t.lmem = s.lmem ∧ t.wbuf = s.wbuf ∧ t.hbm = s.hbm ∧ t.fe = s.fe ∧ t.ctxs = s.ctxs ∧ t.grains = s.grains ∧ t.tiles = s.tiles

/-- R184, R186, R188, R194, R202, R205 and R354: a ready command's tile-op starts and takes its effect at its end; on an array
at rest it keeps the turn, and on one that ramps down it starts in the next core cycle; a plain command starts and completes; one
that meets an uncorrectable error ends with a deferred MEMORY_ERROR and its context's later commands are discarded. A head whose
tile is SPILLED waits, also one that had started; the tile enters the restore queue, and is restored from its record, or stays
SPILLED where the record is bad. -/
def Obligations.MatrixQueueSteps : Prop :=
  (∀ (s : State) (tile : Nat), (s.tileOf tile).run = none → (s.tileOf tile).duty ≠ .rest →
    (s.arbiter tile = none → exec (.tileOp tile) s = .next s) ∧
    ∀ lc key c, s.arbiter tile = some lc → s.arrayReady tile lc = some (key, c) → s.mError tile (key.2 % 8 / 4) c = none →
      c.started = true → ∃ t, exec (.tileOp tile) s = .next t ∧ t = { s with tiles := t.tiles } ∧
        (let d := (s.tileOf tile).duty
         ((∀ i fin, d ≠ .down i fin) → (t.tileOf tile).duty = d ∧
            (t.tileOf tile).run = some ⟨key.1, key.2, 8 * opCycles c.instr, s.tileCycle tile⟩) ∧
          ∀ i fin, d = .down i fin → (t.tileOf tile).duty = .land i fin ∧
            (t.tileOf tile).run = some ⟨key.1, key.2, 8 * opCycles c.instr, s.tileCycle tile + 1⟩) ∧
        (t.tileOf tile).turn = some lc ∧ (t.tileOf tile).last = lc ∧ ∀ n, n ≠ tile → t.tileOf n = s.tileOf n) ∧
  (∀ (s : State) (tile lc : Nat) (key : Nat × Nat) (c : MCmd) (a : Fin 64), s.mqHead tile lc = some (key, c) →
    accName c.instr = some a → (∃ sh g pin, s.accState tile a = .spilled sh g pin) →
    s.arrayReady tile lc = none ∧ exec (.matrixErrorEnd tile lc) s = .next s ∧
      (c.due = none → exec (.matrixCommandComplete tile lc) s = .next s)) ∧
  (∀ (s : State) (tile : Nat), (s.tileOf tile).run = none → (s.tileOf tile).duty = .rest →
    (s.arbiter tile = none → exec (.tileOp tile) s = .next s) ∧
    ∀ lc, s.arbiter tile = some lc → ∃ t, exec (.tileOp tile) s = .next t ∧ t = { s with tiles := t.tiles } ∧
      (t.tileOf tile).turn = some lc ∧ (t.tileOf tile).run = none ∧ ∀ n, n ≠ tile → t.tileOf n = s.tileOf n) ∧
  (∀ (s : State) (tile : Nat) (r : RunOp) (g : Grain) (c : MCmd) (cs : List MCmd), (s.tileOf tile).run = some r →
    Tab.find s.grains (r.sheaf, r.grain) = some g → g.mq = c :: cs →
    let lq := r.grain % 8 / 4
    let left := r.left - s.dutyOf tile * (s.tileCycle tile - r.since)
    (left ≠ 0 → exec (.tileOp tile) s = .next s) ∧
    (left = 0 → s.mError tile lq c = none →
      let u := s.updTile tile fun t => { t with run := none }
      let e := u.opEffect tile lq c
      ∃ t, exec (.tileOp tile) s = .next t ∧ (t.tileOf tile).run = none ∧ t.accm = e.1.accm ∧ t.lmem = e.1.lmem ∧
        ∃ g', Tab.find t.grains (r.sheaf, r.grain) = some g' ∧ g'.tileOps = (g.tileOps + 1) % 2 ^ 64 ∧
          g'.mq = { c with
            prog := c.prog + 1
            flags := c.flags ||| e.2
            due := if c.ops ≤ c.prog + 1 then some (s.tileCycle tile + if isDelta c.instr then 8 else 12) else none } :: cs)) ∧
  (∀ (s : State) (tile lc : Nat) (key : Nat × Nat) (c : MCmd), s.mqHead tile lc = some (key, c) →
    let now := s.tileCycle tile
    let g := (Tab.find s.grains key).getD Grain.zero
    let popped (x : State) (fl : Flags) : State := (x.updGrainAt key fun g => { g with mq := g.mq.drop 1 }).updCtx c.ctx
      fun x => { x with aflags := x.aflags ||| c.flags ||| fl }
    (isArray c.instr = true → ∀ d, c.due = some d → s.mError tile (key.2 % 8 / 4) c = none →
      (now < d → exec (.matrixCommandComplete tile lc) s = .next s) ∧
      (d ≤ now → exec (.matrixCommandComplete tile lc) s = .next (popped s 0))) ∧
    (isArray c.instr = false → (∀ h r m, c.instr ≠ .mwldGl h r m) → s.mError tile (key.2 % 8 / 4) c = none →
      (c.due = none → s.mqStartable tile key c = true → exec (.matrixCommandComplete tile lc) s = .next
        (s.updHead key fun c => { c with started := true, due := some (now + plainCycles c) })) ∧
      ∀ d, c.due = some d → d ≤ now →
        let e := s.plainEffect tile (key.2 % 8 / 4) g c
        exec (.matrixCommandComplete tile lc) s = .next (popped e.1 e.2)) ∧
    (∀ a syn, s.mError tile (key.2 % 8 / 4) c = some (a, syn) → (s.tileOf tile).run = none → c.due = none →
      s.mqGoing tile key c = true →
      let u := (popped s 0).discardMq key c.ctx
      exec (.matrixErrorEnd tile lc) s = .next ((u.defer c.ctx ⟨Cause.memoryError, syn, a, false, false, 0⟩).fresh) ∧
        ∀ g, Tab.find s.grains key = some g → (Tab.find u.grains key).map (fun g => g.mq) =
          some ((g.mq.drop 1).filter fun m => m.ctx != c.ctx)) ∧
    (s.mError tile (key.2 % 8 / 4) c = none → exec (.matrixErrorEnd tile lc) s = .next s)) ∧
  ∀ (s : State) (tile : Nat) (a : Fin 64),
    let entry := Tab.find s.dev.restoreQ (tile, a.val)
    let u := s.updDev fun d => { d with restoreQ := Tab.del d.restoreQ (tile, a.val) }
    ((∀ sh g p, s.accState tile a ≠ .spilled sh g p) → entry = none → exec (.tileRestore tile a) s = .next s) ∧
    ∀ sh g pin, s.accState tile a = .spilled sh g pin → (s.tileOf tile).accBad.contains a.val = false →
      ((s.grainsAtTile tile).any fun e => e.1.1 == sh && (s.mqGrain tile (e.2.core % 8)).isSome &&
        (e.2.mq.head?.bind fun c => accName c.instr) == some a) = true →
      (entry = none → exec (.tileRestore tile a) s = .next (s.updDev fun d => { d with
        restoreQ := Tab.put d.restoreQ (tile, a.val) (s.speltFree + 17) })) ∧
      ∀ due, entry = some due →
        (s.slot < due → exec (.tileRestore tile a) s = .next s) ∧
        ∀ v b, due ≤ s.slot → (s.sheafOf sh).saved = some v →
          v.tiles.find? (fun t => (s.sheafOf sh).tile t.vtile == tile) = some b →
          (∀ k p es, u.spillRecord (s.sheafOf sh).vd v b a g pin = some (k, p, es) → Mem.wf s.accm = true →
            ∃ t, exec (.tileRestore tile a) s = .next t ∧ t.accState tile a = (if p then .pinned sh k else .owned sh k) ∧
              (∀ q, q < 2 ^ 14 → Mem.get t.accm (accAddr tile a 0 0 + q) = es.getD q 0) ∧
              (∀ k : Fin 64, k ≠ a → t.accState tile k = s.accState tile k) ∧ t.ctxs = s.ctxs ∧ t.lmem = s.lmem ∧ t.hbm = s.hbm) ∧
          (u.spillRecord (s.sheafOf sh).vd v b a g pin = none →
            ∃ t, exec (.tileRestore tile a) s = .next t ∧ t.accState tile a = s.accState tile a ∧ t.accm = s.accm ∧
              (t.tileOf tile).accBad.contains a.val = true ∧ t.ctxs = s.ctxs ∧ t.lmem = s.lmem ∧ t.hbm = s.hbm)

/-! ### Engine commands, launches and waits (08 R206 to R222) -/

/-- R206 to R214, R217 to R219 and R221: each engine command whose checks pass issues with its captured values: a copy
enters its pass, a tile copy or collective its channel, a gather its engine, and `snap` and `launch` are in progress.
R218 and R346: the circuit of a collective leads to a tile or through a port.
R36, R207, R210, R213, R218 and R219: the first failing check of an engine command is an exact fault, also where the rows of
a copy or the destination of a gather do not all lie in one ring stage, which comes before the index range of a gather. That
BARRIER_LEVEL comes before every other check and hold is DEDUCED, entry 61. R296: a `launch` whose U lines find no log space
waits. -/
def Obligations.EngineCommandsIssueOrTrap : Prop :=
  ((∀ (s : State) (i : Instr) (h : Head) (ra rb rc rd : Src) (e : CpyArgs) (sd : W64) (ls : List Rng) (off : Nat), s.runs h = true →
      (i = .cpy h ra rb rc e ∧ sd = 0) ∨ (i = .cpy2d h ra rb rc rd e ∧ sd = s.src 4 rd) →
      let sa := s.src 1 ra
      let sb := s.src 2 rb
      let sc := s.src 3 rc
      let j := jobOf e sc
      let plv := e.plv.val
      let tile := s.tileOf s.myTile
      let span := (off, j.extent)
      let caps : List W64 := [sa, sb, sc, sd, (s.me.lfsr[0]).setWidth 64, BitVec.ofNat 64 off]
      let rows := (List.range j.rows).map fun r => (sa + BitVec.ofNat 64 (r * j.lstr), j.lrow, fmtAlign e.fs)
      let x := s.unfence.me
      j.e ≤ 2 ^ 21 → (isKb e.fs = true ∨ (e.fpg = false ∧ isKb e.fm = true) → j.e % 32 = 0) →
      EReady s plv rows ls 1 → (ls.head?.map fun r => r.off) = some off → s.oneStage sa j.extent = true →
      tile.chanLoad e.ch < 16 →
      (e.kind ≠ .l2c → globalRows j sb sd = none →
        let o : Out := ⟨s.freeN + 1, i, s.me.pc, .none, 0, false, .accepted, sb, caps, [], 0, none, s.cycle,
          s.quantumOf s.cur⟩
        let lf := if srActive e.rm e.fs e.fpg e.fm then s.me.lfsr.set 0 (lfsrSteps s.me.lfsr[0] (j.e * j.rows)) else s.me.lfsr
        let c : ECmd := ⟨tile.seqNext, s.freeN + 1, s.quantumOf s.cur, i, s.cur, e.ch.val, caps, [],
          if toLocal e.kind then [] else [span], if toLocal e.kind then [span] else [], 0, false, plv,
          j.destBytes j.issueFmt 0, 0, 0, none⟩
        ∃ t y, exec i s = .next t ∧ IssuesN y t 16 ∧
          SendsE s y { x with out := some o, lfsr := lf } c fun t => { t with pass := t.pass ++ [c] }) ∧
      (∀ k, e.kind = .l2c → bits sb 63 48 = 0 → bits sb 31 0 % 4 = 0 → s.tileCircuit (bits sb 47 32) = some k →
        remoteBad s k (bits sb 31 0) (j.rows * j.lrow) = none →
        let c : ECmd := ⟨tile.seqNext, 0, s.quantumOf s.cur, i, s.cur, e.ch.val, caps, [], [span], [], 0, false, plv,
          j.rows * j.lrow, 0, 0, none⟩
        ∃ t y, exec i s = .next t ∧ IssuesN y t 16 ∧ SendsE s y x c fun t =>
          { t with chans := t.chans.set e.ch { t.chans[e.ch] with cmds := t.chans[e.ch].cmds ++ [c] } })) ∧
    (∀ (s : State) (h : Head) (ra rb rc : Src) (e : CollArgs) (ls : List Rng) (off : Nat), s.runs h = true →
      let i : Instr := .coll h ra rb rc e
      let sa := s.src 1 ra
      let sb := s.src 2 rb
      let sc := s.src 3 rc
      let p := e.p.toNat + 1
      let b := sc.toNat * fmtBytes e.fs
      let c : ECmd := ⟨(s.tileOf s.myTile).seqNext, 0, s.quantumOf s.cur, i, s.cur, e.ch.val,
        [sa, sb, sc, 0, 0, BitVec.ofNat 64 off], [], [], [(off, p * b)], 0, false, e.plv.val, (p - 1) * b, 0, 0, none⟩
      1 ≤ sc.toNat → sc.toNat ≤ 2 ^ 16 → e.rank.toNat < p →
      EReady s e.plv.val ((List.range p).map fun r => (sa + BitVec.ofNat 64 (r * b), b, fmtBytes e.fs)) ls 1 →
      (ls.head?.map fun r => r.off) = some off → s.oneStage sa (p * b) = true → sb.toNat < 2 ^ 16 →
      (s.ringCircuit sb.toNat).isSome = true → (s.tileOf s.myTile).chanLoad e.ch < 16 →
      ∃ t y, exec i s = .next t ∧ IssuesN y t 16 ∧ SendsE s y s.unfence.me c fun t =>
        { t with chans := t.chans.set e.ch { t.chans[e.ch] with cmds := t.chans[e.ch].cmds ++ [c] } }) ∧
    (∀ (s : State) (h : Head) (ra rb rc rd : Src) (e : GathArgs) (ls : List Rng) (ri : Rng) (off : Nat), s.runs h = true →
      let i : Instr := .gath h ra rb rc rd e
      let sa := s.src 1 ra
      let sb := s.src 2 rb
      let sc := s.src 3 rc
      let sd := s.src 4 rd
      let n := e.count.toNat + 1
      let el := e.rowel.toNat + 1
      let len := rowBytes e.fs el
      let caps : List W64 := [sa, sb, sc, sd, (s.me.lfsr[0]).setWidth 64, BitVec.ofNat 64 off, BitVec.ofNat 64 ri.off, 0]
      let o : Out := ⟨s.freeN + 1, i, s.me.pc, .none, 0, false, .accepted, sb, caps, [], 0, none, s.cycle,
          s.quantumOf s.cur⟩
      let lf := if srActive e.rm e.fs e.fpg e.fm then s.me.lfsr.set 0 (lfsrSteps s.me.lfsr[0] (n * el)) else s.me.lfsr
      let c : ECmd := ⟨(s.tileOf s.myTile).seqNext, s.freeN + 1, s.quantumOf s.cur, i, s.cur, 8, caps, [], [(ri.off, 4 * n)],
        [(off, n * len)], 0, false, 0, 0, 0, 0, none⟩
      EReady s 0 (((List.range n).map fun r => (sa + BitVec.ofNat 64 (r * len), len, fmtBytes e.fs)) ++ [(sc, 4 * n, 4)]) (ls ++ [ri]) 2 →
      (ls.head?.map fun r => r.off) = some off → s.oneStage sa (n * len) = true → canonical sb = true →
      (s.tileOf s.myTile).gath = none →
      ∃ t y, exec i s = .next t ∧ IssuesN y t 16 ∧
        SendsE s y { s.unfence.me with out := some o, lfsr := lf } c fun t => { t with gath := some c }) ∧
    ∀ (s : State) (h : Head) (ra rb rc rd : Src) (ch : Fin 8), s.runs h = true →
      let u := s.unfence
      let v1 := s.src 1 ra
      let v2 := s.src 2 rb
      let v3 := s.src 3 rc
      let good (a : W64) : Prop := canonical a = true ∧ canonical (a + (v3 - 1)) = true ∧ a.toNat % 64 = 0
      let out (i : Instr) (d : Dst) (caps : List W64) : Out :=
        ⟨s.freeN + 1, i, s.me.pc, d, 0, false, .accepted, v1, caps, [], 0, none, s.cycle, s.quantumOf s.cur⟩
      u.fenced = false → u.rcBusy = false →
      (v3 ≠ 0 → v3.toNat % 64 = 0 → v3.toNat ≤ 2 ^ 40 → good v1 → good v2 →
        ∃ t, exec (.snap h ra rb rc rd ch) s = .next t ∧
          IssuesN (u.withOut (out (.snap h ra rb rc rd ch) .none [v1, v2, v3, s.src 4 rd])) t 16) ∧
      (u.relBusy u.cur = true ∨ u.relLog (some .dev) = true → exec (.launch h ra) s = .next (u.stallRel (some .dev))) ∧
      (s.sheaf.det = false → u.relBusy u.cur = false → u.relLog (some .dev) = false → canonical v1 = true → v1.toNat % 128 = 0 →
        let n := s.grain.launches
        ∃ t, exec (.launch h ra) s = .next t ∧ ReservesL (((u.release .dev).updGrain fun g => { g with
          launches := (n + 1) % 2 ^ 32 }).withOut ⟨(u.release .dev).freeN + 1, .launch h ra, s.me.pc, h.dst, 0, false, .accepted, v1,
            [BitVec.ofNat 64 n], [], 0, none, s.cycle, s.quantumOf s.cur⟩) t h none none 0 16)) ∧
  (∀ (s : State) (h : Head) (ra rb rc rd : Src) (e : CpyArgs) (f : CollArgs) (g : GathArgs) (ch : Fin 8), s.runs h = true →
      let u := s.unfence
      let trap (i : Instr) (c d : Nat) (v : W64) : Prop := exec i s = .next (u.exact c d v)
      let cpy : Instr := .cpy h ra rb rc e
      let coll : Instr := .coll h ra rb rc f
      let v3 := s.src 3 rc
      (e.plv ≠ 0 → s.grain.dom e.plv.val = none → trap cpy Cause.barrierLevel 1 0) ∧
      (f.plv ≠ 0 → s.grain.dom f.plv.val = none → trap coll Cause.barrierLevel 1 0) ∧
      (u.fenced = false → u.rcBusy = false →
        (e.plv = 0 →
          (2 ^ 21 < v3.toNat → trap cpy Cause.engineState 2 0) ∧
          (v3.toNat ≤ 2 ^ 21 → isKb e.fs = true → v3.toNat % 32 ≠ 0 → trap cpy Cause.engineState 2 0) ∧
          let j := jobOf e v3
          let sa := s.src 1 ra
          let rows := (List.range j.rows).map fun r => (sa + BitVec.ofNat 64 (r * j.lstr), j.lrow, fmtAlign e.fs)
          (e.kind ≠ .l2c → v3.toNat ≤ 2 ^ 21 → isKb e.fs = false → e.fpg = true ∨ isKb e.fm = false →
            (∃ ls, s.rangesOf true rows = .ok ls) → s.oneStage sa j.extent = false →
            trap (.cpy2d h ra rb rc rd e) Cause.localAddress (if sa.toNat < 2 ^ 21 then 5 else 6) sa)) ∧
        (f.plv = 0 →
          (v3.toNat < 1 ∨ 2 ^ 16 < v3.toNat → trap coll Cause.engineState 2 0) ∧
          (1 ≤ v3.toNat → v3.toNat ≤ 2 ^ 16 → f.p.toNat + 1 ≤ f.rank.toNat → trap coll Cause.engineState 7 0)) ∧
        (let sa := s.src 1 ra
         let gath : Instr := .gath h ra rb rc rd g
         let n := g.count.toNat + 1
         let len := rowBytes g.fs (g.rowel.toNat + 1)
         let rows := (List.range n).map fun r => (sa + BitVec.ofNat 64 (r * len), len, fmtBytes g.fs)
         (∀ b c d, s.rangesOf true rows = .error (b, c, d) → trap gath c d b) ∧
         ((∃ ls, s.rangesOf true rows = .ok ls) →
           (s.oneStage sa (n * len) = false → trap gath Cause.localAddress (if sa.toNat < 2 ^ 21 then 5 else 6) sa) ∧
           (s.oneStage sa (n * len) = true → ∀ b c d, s.rangesOf true [(v3, 4 * n, 4)] = .error (b, c, d) → trap gath c d b))) ∧
        (v3 = 0 ∨ v3.toNat % 64 ≠ 0 ∨ 2 ^ 40 < v3.toNat → trap (.snap h ra rb rc rd ch) Cause.engineState 2 0) ∧
        (u.relBusy u.cur = false → u.relLog (some .dev) = false →
          (canonical (s.src 1 ra) = false → trap (.launch h ra) Cause.addressForm 1 (s.src 1 ra)) ∧
          (canonical (s.src 1 ra) = true → (s.src 1 ra).toNat % 128 ≠ 0 → trap (.launch h ra) Cause.misaligned 1 (s.src 1 ra)))))

/-- R212, R216, R220 and R222: `wpwait` goes on once WP has reached its value, `sig.dec` issues as a release at `.sys`,
and `arm` and `disarm` change the tag table of the virtual device. `arm` refuses a record address without a canonical form
(R43; where it does so is entry 111's). R296: a `sig.dec` whose U lines find no log space waits. -/
def Obligations.EngineWaitsAndTags : Prop :=
  ∀ (s : State) (h : Head) (ch : Fin 8) (p : Fin 8) (ra rb : Src) (persist : Bool), s.runs h = true →
    let u := s.unfence
    let wp := (s.tileOf s.myTile).chans[ch].wp
    let ea := s.me.a[p]
    let v := s.src 2 rb
    let busy := u.fenced || u.rcBusy || u.relBusy u.cur || u.cmdBusy u.cur || u.relLog (some .sys)
    (u.fenced = false →
      ((s.src 1 ra).toNat ≤ wp.toNat → ∃ t, exec (.wpwait h ch ra) s = .next t ∧
        IssuesN (u.settle 3 (2 ^ 40 + 8 * s.myTile + ch.val)) t 8) ∧
      (wp.toNat < (s.src 1 ra).toNat → exec (.wpwait h ch ra) s = .next (u.park 9))) ∧
    (busy = true → exec (.sigDec h p rb) s = .next (u.stallRel (some .sys))) ∧
    (busy = false → canonical ea = true → ea.toNat % 8 = 0 → ∃ t, exec (.sigDec h p rb) s = .next t ∧
      IssuesN ((u.release .sys).withOut ⟨(u.release .sys).freeN + 1, .sigDec h p rb, s.me.pc, .none, 0, false, .accepted, ea, [v], [], 0, none,
        s.cycle, s.quantumOf s.cur⟩) t 8) ∧
    (busy = false → canonical ea = false → exec (.sigDec h p rb) s = .next (u.exact Cause.addressForm 1 ea)) ∧
    let vd := s.vdOf s.myVd
    let table (l : List (Nat × Nat × Bool)) : State := (s.updVd s.myVd fun d => { d with tags := l }).unlogged s.cur
    let rec_ := s.src 1 ra
    (2 ^ 16 ≤ v.toNat → exec (.arm h ra rb persist) s = .next (s.exact Cause.engineState 2)) ∧
    (v.toNat < 2 ^ 16 → canonical rec_ = false → exec (.arm h ra rb persist) s = .next (s.exact Cause.addressForm 1 rec_)) ∧
    (v.toNat < 2 ^ 16 → canonical rec_ = true → (∀ e ∈ vd.tags, e.1 ≠ v.toNat) →
      (vd.tags.length < 256 → ∃ t, exec (.arm h ra rb persist) s = .next t ∧
        IssuesN (table (vd.tags ++ [(v.toNat, rec_.toNat, persist)])) t 16) ∧
      (256 ≤ vd.tags.length → exec (.arm h ra rb persist) s = .next (s.exact Cause.engineState 5))) ∧
    (v.toNat < 2 ^ 16 → canonical rec_ = true → (∃ e ∈ vd.tags, e.1 = v.toNat) → ∃ t, exec (.arm h ra rb persist) s = .next t ∧
      IssuesN (table (vd.tags.map fun e => if e.1 = v.toNat then (v.toNat, rec_.toNat, persist) else e)) t 16) ∧
    ∃ t, exec (.disarm h ra) s = .next t ∧ IssuesN (table (vd.tags.filter fun e => e.1 != (s.src 1 ra).toNat)) t 8

/-- R211, R212, R214, R215, R219 and R221: the pass of a copy, over the memory side that its own format gives; the lines
of a channel, one held while a checkpoint's copy or the log holds it (R296, R297); the end of a command with and without an
error, which for a copy to the host poisons the host lines it had to write (R322, R323); and the two steps of a `launch`.
Bytes without a conversion move unchanged (R74, R77). -/
def Obligations.EngineStepsAndLaunches : Prop :=
  (∀ (s : State) (c : CtxId) (o : Out) (i : Instr) (a : CpyArgs) (e : ECmd), s.outOf c = some o → o.instr = i → cpyArgs i = some a →
    let tile := s.coreOfCtx c / 8
    let j := jobOf a (cap o.caps 2)
    let sb := cap o.caps 1
    let sd := cap o.caps 3
    let host := isHost j.kind
    let first := vaNat sb / 4096 * 4096
    (s.tileOf tile).pass.find? (fun e => e.ctx == c && e.tag == o.tag) = some e → j.e ≠ 0 →
    (∀ s1 f, s.onePage host c j.acc first = (s1, .fault f) → exec (.engineTranslationDone c) s = .next (s1.recordFail c f sb j.acc)) ∧
    ∀ s1 s2 g hs, s.onePage host c j.acc first = (s1, .ok g) →
      let z := j.sized g.fmtCode g.bg
      let side := j.memSide z.1 z.2
      let rows := (List.range side.byteRows).map fun r => memRow sb sd r
      (∀ r ∈ rows, canonical r = true ∧ canonical (r + BitVec.ofNat 64 (side.rowLen - 1)) = true) →
      s1.allPages host c j.acc ((rows.flatMap fun r => pagesOf r side.rowLen).foldl (fun l p => insertUp p l) []) = (s2, .ok hs) →
      (∀ d at_, formatFault j sb sd hs = some (d, at_) →
        exec (.engineTranslationDone c) s = .next (s2.recordFail c ⟨Cause.formatAccess, d⟩ at_ j.acc)) ∧
      (formatFault j sb sd hs = none → exec (.engineTranslationDone c) s = .next (s2.enterChannel c o j e hs))) ∧
  (∀ (s : State) (tile : Nat) (ch : Fin 8) (e : ECmd), s.chanHead tile ch = some e →
    let k := (s.tileOf tile).chans[ch]
    let held := s.cmdHeld e.view e.lq e.seq e.reads e.writes
    (e.started = false → held = true → exec (.channelLineWrite tile ch) s = .next s) ∧
    (e.started = false → held = false → ∃ t, exec (.channelLineWrite tile ch) s = .next t ∧ t = { s with tiles := t.tiles } ∧
      (t.tileOf tile).chans[ch].cmds = { e with started := true } :: k.cmds.drop 1 ∧
      (t.tileOf tile).chans[ch].wp = (if (cpyArgs e.instr).any (fun a => a.rst) then 0 else k.wp)) ∧
    (∀ a, e.started = true → s.headError e = none → cpyArgs e.instr = some a → a.kind ≠ .l2c → e.prog < e.lines →
      (s.copyHeld e a = true → exec (.channelLineWrite tile ch) s = .next s) ∧
      (s.copyHeld e a = false →
      let n := min e.localBytes (64 * (e.prog + 1)) - 64 * e.prog
      ∃ t, exec (.channelLineWrite tile ch) s = .next t ∧ (t.tileOf tile).chans[ch].wp = k.wp + BitVec.ofNat 64 n ∧
        ∃ e', (t.tileOf tile).chans[ch].cmds = e' :: k.cmds.drop 1 ∧ e'.prog = e.prog + 1 ∧ e'.instr = e.instr ∧ e'.ctx = e.ctx)) ∧
    (∀ a, e.started = true → s.headError e = none → cpyArgs e.instr = some a → s.cmdMoved tile ch e = true →
      ∃ t, exec (.engineCommandComplete tile ch) s = .next t ∧ (t.tileOf tile).chans[ch].cmds = k.cmds.drop 1 ∧
        (∀ x, s.ctx e.ctx = some x → (t.ctx e.ctx).map (fun y => y.aflags) = some (x.aflags ||| e.flags)) ∧
        t.lmem = s.lmem ∧ t.hbm = s.hbm) ∧
    (∀ c d a, e.started = true → s.headError e = some (c, d, a) →
      let ends (y : State) : Prop := exec (.engineFaultEnd tile ch) s =
        .next ((y.discard tile e.ctx e.seq).defer e.ctx ⟨c, d, a, false, false, 0⟩)
      (e.fault ≠ none ∨ (∀ x, cpyArgs e.instr = some x → x.kind ≠ .l2h) → ends s) ∧
      ∀ x, cpyArgs e.instr = some x → x.kind = .l2h → e.fault = none →
        ends (s.poisonHost (e.hostLines (jobOf x (cap e.caps 2))))) ∧
    (s.headError e = none → exec (.engineFaultEnd tile ch) s = .next s)) ∧
  (∀ (v : Conv) (rd : Reader) (r b n : Nat), isKb v.dst.fmt = false →
    v.stretch true rd r b n = ((List.range n).map fun i => some (rd r (b + i)), 0)) ∧
  ∀ (s : State) (c : CtxId) (o : Out) (h : Head) (ra : Src), s.outOf c = some o → o.instr = .launch h ra →
    let vd := s.vdOfCtx c
    let up := s.sheafOf c.sheaf
    (o.stage = .accepted → ∀ s1 bs, s.gread (some (s.coreOfCtx c)) vd o.addr 128 = (s1, .ok bs) →
      let bad := s1.recordBad vd (ofRecord bs) true (up.sys || bit (s1.ctl vd rVDMODE) 61) up.det
      (bad = none → exec (.launchAccept c) s = .next (s1.updOut c fun o => { o with stage := .answered, data := bs })) ∧
      (bad ≠ none → exec (.launchAccept c) s = .next (s1.recorded c Cause.engineState 6 0 false))) ∧
    (o.stage = .answered →
      let call := (o.caps.getD 0 0).toNat
      let p := s.childPrio c.sheaf (ofRecord o.data)
      (64 ≤ s.pendingCount vd p → exec (.launchAccept c) s = .next s) ∧
      (s.pendingCount vd p < 64 → s.childBefore c call p = false → (ofRecord o.data).waitVa = 0 →
        s.neverFits vd up.det (ofRecord o.data) = none → Tab.find s.sheaves s.dev.nextSheaf = none →
        ∃ t n, exec (.launchAccept c) s = .next t ∧ t.sheaves = s.sheaves ++ [(s.dev.nextSheaf, n)] ∧
          n.record = (ofRecord o.data).record ∧ n.st = .pending ∧ n.vd = vd ∧ n.sheafid = (s.vdOf vd).nextSheafid ∧
          n.parent = some c ∧ n.callNo = call ∧ n.det = up.det ∧ n.debug = up.debug ∧ n.prio = p ∧
          (t.vdOf vd).nextSheafid = ((s.vdOf vd).nextSheafid + 1) % 2 ^ 48 ∧ t.dev.nextSheaf = s.dev.nextSheaf + 1 ∧
          (∀ x, s.ctx c = some x → s.rollback vd = false → t.ctx c =
            some { x.complete s.freeN o.tag (BitVec.ofNat 64 (call + c.grain * 2 ^ 32)) 0 with out := none, resuming := false }) ∧
          ∀ d, d ≠ c → t.ctx d = s.ctx d))

/-! ### Circuits, the fabric and the ports (08 R223 to R225, 13) -/

/-- R223 to R225 and R334: requesting a circuit sends a message to Brome and leaves the result pending; a release marks the
circuit and sends one; the state word and the locality query; and the faults of bad operands. The message of a request says
whether the sheaf holds 128 circuits when it asks, pending and releasing ones among them. -/
def Obligations.CircuitInstructions : Prop :=
  ∀ (s : State) (h : Head) (ra rb : Src) (k : CktKind) (sel : Fin 3), s.runs h = true →
    let d := s.src 1 ra
    let n := s.src 2 rb
    let i : Instr := .cktReq h ra rb k
    let w := if k = .mem then 256 else s.wheel
    let fields := match k with
      | .tile => d.toNat < ceilDiv s.sheaf.grains 8
      | .mem => d.toNat < 8
      | .host => d = 0
      | .net => d &&& ~~~(0xFFFF_000F : W64) = 0
    let ok := fields ∧ 1 ≤ n.toNat ∧ n.toNat ≤ w / 2
    let circuits := s.sheaf.circuits.length +
      (s.dev.toBrome.filter fun m => !m.release && m.ctx.any fun c => c.sheaf == s.cur.sheaf).length
    let m : TrainMsg := ⟨some s.cur, s.freeN + 1, 0, d, n.toNat, k, s.myVd, s.myTile, false, 0, 0, s.slot, s.cur.grain / 8,
      decide (128 ≤ circuits)⟩
    let sent (m : TrainMsg) (x : State) : State := x.updDev fun x => { x with toBrome := x.toBrome ++ [m] }
    (s.rcBusy = false → ok → ∃ t, exec i s = .next t ∧
      ReservesL ((sent m s).withOut ⟨s.freeN + 1, i, s.me.pc, h.dst, 0, false, .sent, d, [n], [], 0, none, s.cycle,
        s.quantumOf s.cur⟩) t h none none 0 16) ∧
    (s.rcBusy = false → ¬ ok → exec i s = .next (s.exact Cause.engineState 2)) ∧
    (s.rcBusy = true → exec i s = .next s.stall) ∧
    (s.heldCircuit d = none → exec (.cktRel h ra) s = .next (s.exact Cause.engineState 1) ∧
      ∃ t, exec (.cktStat h ra) s = .next t ∧ ReservesL s t h (some (s.cycle + 6)) (some 0) 0 8) ∧
    (∀ c, s.heldCircuit d = some c →
      (c.releasing = true → ∃ t, exec (.cktRel h ra) s = .next t ∧ IssuesN s t 8) ∧
      (c.releasing = false → ∃ t, exec (.cktRel h ra) s = .next t ∧
        IssuesN ((sent ⟨some s.cur, 0, c.handle, 0, 0, c.kind, c.vd, c.src, true, 0, 0, s.slot, s.cur.grain / 8, false⟩ (s.updCircuit c.handle fun k =>
          { k with releasing := true })).unlogged s.cur) t 8) ∧
      let st := if c.releasing then 2 else if c.active then 1 else 0
      let wheel := if c.kind = .mem then 256 else s.wheel
      ∃ t, exec (.cktStat h ra) s = .next t ∧ ReservesL s t h (some (s.cycle + 6)) (some (BitVec.ofNat 64
        (2 ^ 63 + st * 2 ^ 61 + c.lat % 2 ^ 16 * 2 ^ 32 + c.slots.length % 2 ^ 16 * 2 ^ 16 + wheel % 2 ^ 16))) 0 8) ∧
    ∃ t v, exec (.locq h ra sel) s = .next t ∧ ReservesL s t h (some (s.cycle + 8)) (some v) 0 8 ∧
      (s.sheaf.det = true → v = 0) ∧
      (s.sheaf.det = false → sel.val ≠ 2 → s.sheaf.grains ≤ d.toNat → v = 0xFFFF_FFFF_FFFF_FFFF) ∧
      (s.sheaf.det = false → sel.val = 0 → d.toNat < s.sheaf.grains →
        v = BitVec.ofNat 64 (denseOf s.sheaf.dieMap 0 8 (dieOf (s.sheaf.tile (d.toNat / 8))))) ∧
      (s.sheaf.det = false → sel.val = 1 → d.toNat < s.sheaf.grains →
        let a := s.sheaf.tile (d.toNat / 8)
        let b := s.myTile
        v = BitVec.ofNat 64 ((tileX a - tileX b) + (tileX b - tileX a) + ((tileY a - tileY b) + (tileY b - tileY a)))) ∧
      (∀ dpa, s.sheaf.det = false → sel.val = 2 → s.homeOf (some s.myCore) s.myVd d = some dpa →
        v = BitVec.ofNat 64 (denseOf s.sheaf.dieMap 48 4 (8 + stackOf dpa / 2)))

/-- R223, R330, R334 to R340: trains take the messages that stand at their routers to Brome, which grants free slots or answers
0. It sends the table writes and its answers as away flits, one in each turn of an output, within the 16 turns of R339, and answers
in the first turn in which every table write has reached its router; the circuit is active with its answer, a `net` circuit later.
A release sends idle words for the entries of its circuit; above a quota a circuit loses its highest slot, whose entries go idle
LAT slots after the source was told (the turn, which circuit, and what a saved sheaf gets: entries 68, 69 and 127). -/
def Obligations.BromeHandlesCircuits : Prop :=
  ∀ (s : State),
    let w := s.wheel
    (s.slot < s.dev.trainNext → exec .configTrain s = .next s) ∧
    (s.dev.trainNext ≤ s.slot → ∃ t, exec .configTrain s = .next t ∧ t = { s with dev := t.dev } ∧
      t.dev.trainNext = (s.slot / w + 1) * w ∧
      ∀ m ∈ s.boarding 0 (s.slot / w * w), { m with due := max 1 (s.slot / w * w) } ∈ t.dev.toBrome) ∧
    (∀ m, s.nextMsg = some m → m.release = false →
      let r := s.updDev fun d => { d with toBrome := d.toBrome.erase m }
      let n := m.sheaf.getD 0
      let sh := s.sheafOf n
      let hd := r.newHandle
      let first := r.firstTurn m
      let saved := m.ctx ≠ none ∧ sh.cores = []
      let c (src dst : Nat) : Circuit :=
        ⟨hd, m.vd, m.kind, src, dst, m.dest, [], m.slots, 0, false, false, m.sheaf, [], [], [], 0⟩
      let own (x : State) : State :=
        if m.ctx = none then x else x.updSheaf n fun h => { h with circuits := h.circuits ++ [hd] }
      let refused := m.full = true ∨ bit (s.hyp m.vd rVDCTL) 61 = false
      (refused → exec .bromeRequest s = .next (r.bromeAnswers m first first 0)) ∧
      (¬ refused → saved → exec .bromeRequest s = .next ((own (r.updDev fun d => { d with
        circuits := d.circuits ++ [c m.vt 0] })).bromeAnswers m first first hd)) ∧
      (¬ refused → ¬ saved →
        let k := c (if m.ctx = none then m.tile else sh.tile m.vt) (if m.kind = .tile then sh.tile (bits m.dest 11 0) else 0)
        (r.reserveCircuit k = none → exec .bromeRequest s = .next (r.bromeAnswers m first first 0)) ∧
        ∀ p q, r.reserveCircuit k = some p → p.circuit hd = some q →
          let sent := p.sendWrites first (p.circuitWords q)
          exec .bromeRequest s = .next ((own sent.1).bromeAnswers m (ceilDiv sent.2 w) first hd))) ∧
    (∀ m, s.slot / w < s.firstTurn m ∧ s.firstTurn m ≤ s.slot / w + 3 ∧ s.firstTurn m ≤ max (s.slot / w + 1) (m.due / w + 16)) ∧
    (∀ (m : TrainMsg) (turn first a : Nat),
      let t := s.bromeAnswers m turn first a
      let r := router (tileX m.tile) (tileY m.tile)
      let back (due : Nat) : Prop := t.dev.bromeFree = first * w ∧ t.ctxs = s.ctxs ∧
        t.dev.fromBrome = s.dev.fromBrome ++ [{ m with due := due, answer := BitVec.ofNat 64 a }]
      (m.ctx = none → back (turn * w) ∧ t.dev.away = s.dev.away) ∧
      ∀ c, m.ctx = some c → ∃ u, turn ≤ u ∧ back (u * w + routerDist r) ∧ t.dev.away = s.dev.away ++
        [⟨u, viaSouth r, BitVec.ofNat 64 (2 ^ 9 + r), [BitVec.ofNat 64 (a % 2 ^ 16 * 2 ^ 48 + m.vt % 2 ^ 12 * 2 ^ 36 +
          c.grain % 8 * 2 ^ 32 + c.ctx % 16 * 2 ^ 28)]⟩]) ∧
    (∀ first ws, let r := s.sendWrites first ws
      first * w ≤ r.2 ∧ r.1 = { s with dev := { s.dev with away := r.1.dev.away } } ∧ (∀ f ∈ s.dev.away, f ∈ r.1.dev.away) ∧
      ∀ e ∈ ws, (∀ x ∈ ws, x.1 = e.1 → x = e) → ∃ f ∈ r.1.dev.away, first ≤ f.turn ∧ f.turn * w + routerDist e.1.2.1 ≤ r.2 ∧
        f.south = viaSouth e.1.2.1 ∧ f.words.length ≤ 14 ∧ writeWord e.1 e.2 ∈ f.words) ∧
    (∀ south first head words,
      let apart (l : List AwayFlit) : Prop := l.Pairwise fun f g => f.south = g.south → f.turn ≠ g.turn
      apart s.dev.away → apart (s.putAway south first head words).1.dev.away) ∧
    (∀ f x, s.dev.away = [f] → f.words = [x] → bits f.head 11 9 = 0 →
      f.turn * w + routerDist (writtenEntry x).2.1 ≤ s.slot →
      s.awayStep.dev.tables = setEntry s.dev.tables (writtenEntry x) (x &&& 0xFFFF)) ∧
    (∀ e : Nat × Nat × Nat × Nat, ∀ v : W64, e.1 < 2 → e.2.1 < 384 → e.2.2.1 < 8 → e.2.2.2 < 1024 → v.toNat < 2 ^ 16 →
      writtenEntry (writeWord e v) = e ∧ writeWord e v &&& 0xFFFF = v) ∧
    (∀ c p, s.reserveCircuit c = some p →
      let routes := routesOf c.kind c.src c.dst c.dest
      ∃ l, l.length = c.want ∧ (p.circuit c.handle).map (fun k => k.slots) = some l ∧
        s.withinQuota c.vd c.kind c.dest routes.1 routes.2 c.want = true ∧
        ∀ x ∈ l, ∀ e ∈ slotEntries (planeOf c.kind) (s.planeWheel (planeOf c.kind)) routes.1 routes.2 (s.returnDelay c.kind c.dest) x,
          s.entryFree e.1 e.2.1 e.2.2.1 e.2.2.2 = true ∧ Tab.find p.dev.slotTab e = some c.handle) ∧
    (∀ m, s.nextMsg = some m → m.release = true →
      ((∀ k, s.circuit m.handle = some k → k.releasing = false ∨ k.sheaf ≠ m.sheaf) →
        exec .bromeRelease s = .next (s.updDev fun d => { d with toBrome := d.toBrome.erase m })) ∧
      ∀ k, s.circuit m.handle = some k → k.releasing = true → k.sheaf = m.sheaf →
        ∃ t, exec .bromeRelease s = .next t ∧ t.circuit m.handle = none ∧
          (∀ e ∈ t.dev.slotTab, entryHandle e.2 ≠ m.handle) ∧
          (∀ e, e ∈ s.dev.slotTab → entryHandle e.2 ≠ m.handle → e ∈ t.dev.slotTab) ∧
          (∀ e, e ∈ s.dev.slotTab → entryHandle e.2 = m.handle → ∃ f ∈ t.dev.away, writeWord e.1 0xE000 ∈ f.words) ∧
          t.dev.toBrome = s.dev.toBrome.erase m ∧ t.ctxs = s.ctxs ∧ sameMem s t) ∧
    (∀ m, s.nextAnswer = some m → m.ctx = none → ∃ t, exec .bromeAnswer s = .next t ∧ t.ctxs = s.ctxs ∧ sameMem s t ∧
      t.ctl m.vd rGKSTAT = (if m.answer = 0 then 0 else 2 ^ 63 ||| m.answer)) ∧
    (∀ m c x, s.nextAnswer = some m → m.ctx = some c → s.ctx c = some x → s.rollback (s.vdOfCtx c) = false →
      ∃ t, exec .bromeAnswer s = .next t ∧
        t.ctx c = some { x.complete s.freeN m.tag m.answer 0 with out := none, resuming := false } ∧
        (∀ k, s.circuit m.answer.toNat = some k →
          t.circuit m.answer.toNat = some { k with active := decide (m.kind ≠ .net) }) ∧
        t.dev.fromBrome = s.dev.fromBrome.erase m ∧ (∀ d, d ≠ c → t.ctx d = s.ctx d) ∧ sameMem s t) ∧
    (∀ vd, (∀ k ∈ s.dev.circuits, k.vd = vd → ∀ l ∈ k.leaving, s.slot < l.2 + k.lat) → s.idleLeft vd = s) ∧
    (∀ vd k l, k ∈ s.dev.circuits → k.vd = vd → l ∈ k.leaving → l.2 + k.lat ≤ s.slot →
      ∀ e ∈ (s.idleLeft vd).dev.slotTab, e.2 ≠ leavingMark k.handle l.1) ∧
    ∀ vd, let u := s.idleLeft vd
      ((∀ k ∈ u.dev.circuits, k.vd = vd → u.overQuota k = false) → exec (.circuitResize vd) s = .next u) ∧
      ∀ k, u.circuit k.handle = some k → k.vd = vd → u.overQuota k = true →
        (∀ x ∈ u.dev.circuits, x.vd = vd → u.overQuota x = true → x = k ∨ x.handle < k.handle) →
        let x := k.slots.foldl max 0
        let r := router (tileX k.src) (tileY k.src)
        let tells := u.putAway (viaSouth r) (u.slot / u.wheel + 1) (BitVec.ofNat 64 (2 ^ 9 + r))
          [BitVec.ofNat 64 (k.handle % 2 ^ 16 * 2 ^ 48)]
        ∃ t, exec (.circuitResize vd) s = .next t ∧ t.circuit k.handle = some { k with
          slots := k.slots.erase x
          leaving := k.leaving ++ [(x, tells.2 * u.wheel + routerDist r)] } ∧
          (∀ n, n ≠ k.handle → t.circuit n = u.circuit n) ∧ t.dev.away = tells.1.dev.away ∧
          (∀ e ∈ t.dev.slotTab, e.2 = k.handle → e.1 ∉ u.circuitEntries { k with slots := [x] }) ∧
          t.ctxs = s.ctxs ∧ sameMem s t

/-- R215, R331, R332 and R345 to R348: a copy's line goes into the rate-matching buffer while it has room, for the next
reserved slot of its circuit that is two slots away or more, unless the target tile's buffer is full and a flit waits in it (entry
128); a flit becomes visible at its target in its slot, or is counted and its command meets a fault; ports change mode, align, lose
alignment with their flits, carry frames of up to 9,216 bytes (their layout: entry 103), take in flits for the circuit of their link
tag, and make circuits of other packages active; a port that leaves slot mode loses its circuits (entry 102); and GKREQ sends a
request to Brome (the layout of its destination word is entry 70, DEDUCED; that it needs no train is entry 68, DEDUCED). -/
def Obligations.FlitsPortsAndFrames : Prop :=
  ∀ (s : State) (n : Nat) (p : Fin 16) (vd host : Nat) (payload : List Byte) (v : W64) (off : Int) (delay : W16),
    (∀ k f fs b, s.circuit n = some k → k.flits = f :: fs → s.slot < f.due → exec (.circuitFlitArrive n b) s = .next s) ∧
    (∀ k f fs ch e, s.circuit n = some k → k.flits = f :: fs → f.due ≤ s.slot → s.flitCmd f = some (ch, e) →
      exec (.circuitFlitArrive n false) s =
        .next (((s.flitGone k f).countError 6 (errAddr k.dst f.at_)).flitFault f ch
          (Cause.memoryError, 0xC0, BitVec.ofNat 64 f.at_)) ∧
      (collArgs e.instr = none →
        let lq := f.at_ / 2 ^ 21
        let o := f.at_ % 2 ^ 21
        (∀ x b, s.flitBlock k f = (some x, b) → exec (.circuitFlitArrive n true) s = .next ((s.flitGone k f).flitFault f ch x)) ∧
        (s.flitBlock k f = (none, false) → ∃ t, exec (.circuitFlitArrive n true) s = .next t ∧
          t.lmem = (s.putEngine (s.someCells k.target lq o (f.bytes.map some))).lmem ∧
          t.fe = (s.putEngine (s.someCells k.target lq o (f.bytes.map some))).fe ∧ t.ctxs = s.ctxs ∧ t.hbm = s.hbm))) ∧
    (∀ tile ch e a k, s.chanHead tile ch = some e → e.started = true → s.headError e = none → cpyArgs e.instr = some a →
      a.kind = .l2c → e.prog < e.lines → bits (cap e.caps 1) 47 32 = n → s.circuit n = some k →
      let full := k.kind = .tile ∧ 32 ≤ (s.flitsTo k.dst).length ∧ ∃ f ∈ s.flitsTo k.dst, f.due < s.slot
      (k.active = false ∨ 32 ≤ s.buffered k.src ∨ s.nextSlot k = none ∨ full → exec (.channelLineWrite tile ch) s = .next s) ∧
      ∀ x, k.active = true → s.buffered k.src < 32 → s.nextSlot k = some x → ¬ full → s.slot + 2 ≤ x ∧
        (∀ f ∈ k.flits, k.leaves f < x) ∧ (x % s.wheel ∈ k.slots ∨ ∃ l ∈ k.leaving, l.1 = x % s.wheel ∧ x < l.2) ∧
        ∃ t f, exec (.channelLineWrite tile ch) s = .next t ∧ t.circuit n = some { k with flits := k.flits ++ [f] } ∧
          f.due = x + k.flight ∧ f.seq = e.seq ∧ f.tile = tile ∧ f.at_ = bits (cap e.caps 1) 31 0 + 64 * e.prog ∧
          f.bytes.length ≤ 128 ∧ t.lmem = s.lmem ∧ t.hbm = s.hbm) ∧
    (∀ k, s.circuit n = some k →
      let x := s.dev.ports.toList.getD (bits k.dest 3 0) ⟨0, 0⟩
      let up := k.kind = .net ∧ k.releasing = false ∧ x.en = true ∧ x.slotMode = true ∧ x.aligned = true ∧ k.slots ≠ [] ∧
        ∀ m ∈ s.dev.fromBrome, m.answer.toNat ≠ n
      (up → ∃ t, exec (.netCircuitActive n) s = .next t ∧ t.circuit n = some { k with active := true } ∧
        ∀ m, m ≠ n → t.circuit m = s.circuit m) ∧
      (¬ up → exec (.netCircuitActive n) s = .next s)) ∧
    (let x := s.dev.ports[p]
     let change := bit v 62 ≠ x.slotMode
     (change → x.en = true ∨ (bit v 62 = true ∧ s.wheel < 16) → exec (.portCfgWrite p v) s = .next s) ∧
     (¬ change ∨ (x.en = false ∧ (bit v 62 = true → 16 ≤ s.wheel)) →
       ∃ t, exec (.portCfgWrite p v) s = .next t ∧ t = { s with dev := t.dev } ∧ t.dev.ports[p].en = bit v 63 ∧
         t.dev.ports[p].slotMode = bit v 62 ∧ bits t.dev.ports[p].cfg 31 16 = bits x.cfg 31 16 ∧
         (∀ q : Fin 16, q ≠ p → t.dev.ports[q] = s.dev.ports[q]) ∧
         (x.en = true → x.slotMode = true → bit v 63 = false ∨ bit v 62 = false →
           ∀ k ∈ t.dev.circuits, k.atPort p = true → k.active = false)) ∧
     (x.en = false ∨ x.slotMode = false → exec (.ptpMessage p off delay) s = .next s) ∧
     (x.en = true → x.slotMode = true → ∃ t, exec (.ptpMessage p off delay) s = .next t ∧
       bits t.dev.ports[p].cfg 31 16 = delay.toNat ∧ t.dev.ptpAligned = true ∧
       (s.dev.ptpAligned = false → t.slot = ((s.slot : Int) + off).toNat ∧ t.dev.ports[p].aligned = true ∧
         t.dev.powerSlots + t.slot = s.dev.powerSlots + s.slot) ∧
       (s.dev.ptpAligned = true → t.slot = s.slot ∧ t.dev.ports[p].aligned = decide (off.natAbs ≤ 8) ∧
         (8 < off.natAbs → ∀ k ∈ t.dev.circuits, k.atPort p = true → k.flits = [] ∧ k.inbound = []))) ∧
     (∀ tag ch bytes k, s.dev.circuits.find? (fun k => k.kind == .net && k.active && bits k.dest 3 0 == p.val &&
         bits k.dest 31 16 == tag) = some k → s.circuit k.handle = some k → x.aligned = true →
       (s.netFlit p.val tag ch bytes true).circuit k.handle = some { k with inbound := k.inbound ++
         [⟨s.slot + (k.lat - 6 - k.delay) + 4, 0, bytes.take 128, k.src, ch, 0, true⟩] }) ∧
     (∀ tag ch bytes ok, s.dev.circuits.find? (fun k => k.kind == .net && k.active && bits k.dest 3 0 == p.val &&
         bits k.dest 31 16 == tag) = none → s.netFlit p.val tag ch bytes ok = s) ∧
     (payload.length < 14 ∨ 9216 < payload.length → frameBody payload = none) ∧
     (x.en = false ∨ x.slotMode = true ∨ frameBody payload = none → exec (.ethBulkFrame p vd host payload) s = .next s ∧
       exec (.ethLaunchFrame p payload) s = .next s) ∧
     (∀ ty body, x.en = true → x.slotMode = false → frameBody payload = some (ty, body) →
       (Mem.wf s.host = true → ∃ t, exec (.ethBulkFrame p vd host payload) s = .next t ∧
         (∀ a, Mem.get t.host a = if host ≤ a ∧ a < host + payload.length then payload.getD (a - host) 0 else Mem.get s.host a) ∧
         t.ctxs = s.ctxs ∧ t.lmem = s.lmem ∧ t.hbm = s.hbm) ∧
       (ty ≠ 0x88B5 ∨ body.length < 8 → exec (.ethLaunchFrame p payload) s = .next s) ∧
       (ty = 0x88B5 → 8 ≤ body.length →
         let w := word64 (body.take 8)
         let counted := s.updPort p fun x => { x with frames := x.frames + 1 }
         (∀ m, counted.vdOfPasid (bits w 19 0) = some m → exec (.ethLaunchFrame p payload) s =
           exec (.taggedLaunchMessage m (BitVec.ofNat 16 (bits w 47 32)) (body.drop 8)) counted) ∧
         (counted.vdOfPasid (bits w 19 0) = none → exec (.ethLaunchFrame p payload) s = .next counted)))) ∧
    (let old := s.mg rFABCFG
     let new := bits v 3 0
     let busy := ∃ k ∈ s.dev.circuits, k.kind ≠ .mem
     let gives (good : W64 → Prop) : Prop := ∃ t, exec (.fabcfgWrite v) s = .next t ∧ good (t.mg rFABCFG) ∧
       t.dev.circuits = s.dev.circuits ∧ t.ctxs = s.ctxs
     (3 ≤ new → new ≤ 10 → new ≠ bits old 3 0 → ¬ busy → gives fun r => bits r 3 0 = new) ∧
     (3 ≤ new → new ≤ 10 → new ≠ bits old 3 0 → busy → gives fun r => bits r 3 0 = bits old 3 0 ∧ bit r 63 = true) ∧
     (new < 3 ∨ 10 < new → gives fun r => bits r 3 0 = bits old 3 0)) ∧
    (∃ t, exec (.fabquotaWrite vd v) s = .next t ∧ t.hyp vd rFABQUOTA = v &&& 0xFFFF_FF00 ∧
      t.dev = s.dev ∧ t.ctxs = s.ctxs ∧ ∀ m, m ≠ vd → t.vdOf m = s.vdOf m) ∧
    (bit v 63 = false ∨ bit (s.hyp vd rVDCTL) 61 = false → exec (.gkreqWrite vd v) s = .next s) ∧
    (bit v 63 = true → bit (s.hyp vd rVDCTL) 61 = true → exec (.gkreqWrite vd v) s = .next (s.updDev fun d => { d with
      toBrome := d.toBrome ++ [⟨none, 0, 0, v &&& 0xFFFF_000F, 1, .net, vd, gangAgent, false, max 1 s.slot, 0, s.slot, 0, false⟩] }))

/-! ### Traps, time, priority, checkpoints and the end of a grain (08 R226 to R235) -/

/-- R226 to R228, R231, R232, R234 and R64: `tfence`, `trap`, `svc`, `eret`, `prio`, `time`, `pwr.req` and the decode
trap. -/
def Obligations.SystemInstructions : Prop :=
  ∀ (s : State) (h : Head) (n : BitVec 8) (m : BitVec 4) (sel : Fin 3) (k : Fin 8), s.runs h = true →
    let x := (s.me.tally s.cycle).next 8
    let idle := s.workLeft = false
    let bothOk (t : State) : Prop := (∀ c, c ≠ s.cur → t.ctx c = s.ctx c) ∧ sameMem s t
    let inHandler (t : State) (cause detail : Nat) : Prop := t.me = { x with
      trapcause := BitVec.ofNat 64 (cause + detail * 2 ^ 8 + 2 ^ 16)
      trappc := addrField x.pc
      trapaddr := 0
      taking := none
      handler := true
      pc := s.grain.handler } ∧ bothOk t
    let flags := s.me.aflags &&& s.me.amask
    (s.workLeft = true → exec (.tfence h) s = .next s.stall) ∧
    (idle → flags = 0 → GivesN (.tfence h) s s 8 (0x3E, 0)) ∧
    (idle → s.me.handler = false → s.me.dead = false → s.grain.handler ≠ 0 →
      (flags ≠ 0 → ∃ t, exec (.tfence h) s = .next t ∧ inHandler t 0x30 flags.toNat) ∧
      ∃ t, exec (.trapN h n) s = .next t ∧ inHandler t 0x31 n.toNat) ∧
    (idle → s.rollback s.myVd = false → ∃ y, exec (.svc h n) s = .next (y.postCtx s.cur 1 n.toNat (codeAddr (addrField x.pc))) ∧
      y.me = { x with
        trapcause := BitVec.ofNat 64 (0x32 + n.toNat * 2 ^ 8 + 2 ^ 16)
        trappc := addrField x.pc
        trapaddr := 0
        taking := none
        hostStop := true } ∧ bothOk y) ∧
    (s.me.handler = false → exec (.eret h) s = .next (s.exact Cause.privilege 2)) ∧
    (s.me.handler = true → s.me.out = none →
      let z := s.me.tally s.cycle
      let back : Ctx := { z with
        trapcause := z.trapcause &&& ~~~(maskBits 18 18)
        handler := false
        pc := codeAddr z.trappc }
      (bit s.me.trapcause 18 = true → ∃ t, exec (.eret h) s = .next t ∧ t.me = { back with pv := false, saved := none } ∧ bothOk t) ∧
      (bit s.me.trapcause 18 = false → s.me.pv = false → ∃ t, exec (.eret h) s = .next t ∧ t.me = back ∧ bothOk t) ∧
      (bit s.me.trapcause 18 = false → s.me.pv = true → ∀ o, s.me.saved = some o → ∃ t, exec (.eret h) s = .next t ∧
        t.me = { back with
          pv := false
          saved := none
          resuming := true
          out := some { o with
            stage := o.again
            prog := s.me.prog.toNat
            held := s.me.held
            due := if isAccess o.instr then none else o.due
            cycle := 0 }
          pend := t.me.pend } ∧
        (∀ p ∈ z.pend, p ∈ t.me.pend) ∧ bothOk t)) ∧
    GivesN (.prio h m) s (s.updGrain fun g => { g with prio := min m.toNat s.sheaf.prio }) 8 (0x3E, 8) ∧
    GivesN (.pwrReq h k) s (s.updGrain fun g => { g with pwrReq := k.val }) 8 (0x3E, 0xB) ∧
    (s.sheaf.det = true ∨ sel.val = 2 → GivesS (.time h sel) s h (BitVec.ofNat 64 s.me.issued) 8 (0x3E, 9)) ∧
    (s.sheaf.det = false → sel.val = 0 → GivesS (.time h sel) s h (BitVec.ofNat 64 s.slot) 8 (0x3E, 9)) ∧
    (s.sheaf.det = false → sel.val = 1 →
      GivesS (.time h sel) s h (BitVec.ofInt 64 (s.cycle - s.grain.cycle0)) 8 (0x3E, 9)) ∧
    exec (.illegalInstruction .illegalInstruction n) s = .next (s.exact 0x01 n.toNat) ∧
    exec (.illegalInstruction .illegalLength n) s = .next (s.exact 0x02 n.toNat)

/-- R38, R229 and R230, with the access codes of R9: reads and writes of context registers and of the device registers of a
system sheaf, what they refuse, and the answer to a read. That the value of `srs.rd` is fixed at its issue is DEDUCED, entry 72. -/
def Obligations.SpecialRegisters : Prop :=
  (∀ (s : State) (h : Head) (a : Src) (n : BitVec 9) (i : Fin 8) (j : Fin 4) (l : Fin 64), s.runs h = true →
    let x := s.me
    let v := s.src 1 a
    let at_ (k : Nat) : Prop := n.toNat = k
    let reads (w : W64) : Prop := GivesS (.srd h n) s h w 8 (0x3E, 4)
    let writes (y : Ctx) : Prop := GivesN (.swr h n a) s (s.updMe fun _ => y) 8 (0x3E, 5)
    let refuses : Prop := exec (.swr h n a) s = .next (s.exact Cause.sysregValue 1)
    (at_ (0x010 + i.val) → reads x.as_[i] ∧ writes { x with as_ := x.as_.set i v }) ∧
    (at_ (0x020 + j.val) → reads x.ls[j] ∧ writes { x with ls := x.ls.set j (addrField v) }) ∧
    (at_ (0x024 + j.val) → reads x.le[j] ∧ writes { x with le := x.le.set j (addrField v) }) ∧
    (at_ (0x028 + j.val) → reads (x.lc[j].setWidth 64) ∧ writes { x with lc := x.lc.set j (v.setWidth 32) }) ∧
    (at_ (0x100 + l.val) → reads (x.lfsr[l].setWidth 64) ∧
      (v.setWidth 32 = (0 : W32) → refuses) ∧
      (v.setWidth 32 ≠ (0 : W32) → writes { x with lfsr := x.lfsr.set l (v.setWidth 32) })) ∧
    (at_ 0x02C → reads (BitVec.ofNat 64 x.depth) ∧ (4 < bits v 2 0 → refuses) ∧
      (bits v 2 0 ≤ 4 → writes { x with depth := bits v 2 0 })) ∧
    (at_ 0x030 → reads (BitVec.ofNat 64 x.vl) ∧ (bits v 7 0 = 0 ∨ 128 < bits v 7 0 → refuses) ∧
      (bits v 7 0 ≠ 0 → bits v 7 0 ≤ 128 → writes { x with vl := bits v 7 0 })) ∧
    (at_ 0x031 → reads (x.aflags.setWidth 64) ∧ writes { x with aflags := x.aflags &&& ~~~(v.setWidth 6) }) ∧
    (at_ 0x032 → reads (x.amask.setWidth 64) ∧ writes { x with amask := v.setWidth 6 }) ∧
    (at_ 0x033 → reads x.pixWord ∧ writes x) ∧
    (at_ 0x034 → reads x.pixpc ∧ writes x) ∧
    (at_ 0x038 → reads x.trapcause ∧
      writes { x with trapcause := (x.trapcause &&& ~~~(maskBits 18 18)) ||| (v &&& maskBits 18 18) }) ∧
    (at_ 0x039 → reads x.trappc ∧ writes { x with trappc := addrField v }) ∧
    (at_ 0x03A → reads x.trapaddr ∧ writes x) ∧
    (at_ 0x040 → reads (BitVec.ofNat 64 s.cur.ctx) ∧ writes x) ∧
    (at_ 0x041 → reads (BitVec.ofNat 64 s.cur.grain) ∧ writes x) ∧
    (at_ 0x042 → reads (BitVec.ofNat 64 s.sheaf.sheafid) ∧ writes x) ∧
    (at_ 0x043 → reads (BitVec.ofNat 64 s.grain.prio) ∧ writes x) ∧
    (at_ 0x044 → reads s.grain.dommask ∧ writes x) ∧
    (s.sysreg n.toNat = none → exec (.srd h n) s = .next (s.exact Cause.sysregNumber 1) ∧
      exec (.swr h n a) s = .next (s.exact Cause.sysregNumber 1))) ∧
  (∀ (s : State) (h : Head) (ra rb : Src) (n : BitVec 16), s.runs h = true →
    let u := s.src 1 ra
    let w := s.src 2 rb
    let tile := s.sheaf.tile (bits u 11 0)
    let selOk := bits u 63 15 = 0 ∧ bits u 11 0 < s.sheaf.vtiles
    let core := s.physCore (s.cur.sheaf, bits u 11 0) (4 * bits u 12 12 + bits u 14 13)
    let answers (v : W64) : Prop := ∃ t, exec (.srsRd h ra n) s = .next t ∧
      t.me = { issuedAs s.me t.me with q := qWith s.me h.dst s.me.q[15] } ∧ onlyCtx s.cur s t ∧ sameMem s t ∧
      ∃ p, t.me.pend.getLast? = some p ∧ p.tag = s.freeN + 1 ∧ p.due = none ∧ p.val = some v ∧ p.g = dstReg h.dst
    (s.sheaf.sys = false → exec (.srsRd h ra n) s = .next (s.exact Cause.privilege 1) ∧
      exec (.srsWr h ra rb n) s = .next (s.exact Cause.privilege 1)) ∧
    (s.sheaf.sys = true →
      (¬ selOk → exec (.srsRd h ra n) s = .next (s.exact Cause.sysregNumber 2) ∧
        exec (.srsWr h ra rb n) s = .next (s.exact Cause.sysregNumber 2)) ∧
      (selOk → ∀ k : Fin 8, n.toNat = 0x0100 + k.val → answers (s.coreOf core).bankpwr[k] ∧
        GivesN (.srsWr h ra rb n) s (s.bankpwrWrite core k.val w) 8 (0x3E, 7)) ∧
      (selOk → bits u 14 12 = 0 → ∀ port slot, port < 5 →
        let r := router (tileX tile) (tileY tile)
        (slot < s.wheel → n.toNat = 0x4000 + 0x400 * port + slot → s.wheel ≤ 0x400 → answers (s.slotEntry 0 r port slot) ∧
          GivesN (.srsWr h ra rb n) s s 8 (0x3E, 7)) ∧
        (slot < 0x100 → n.toNat = 0x6000 + 0x100 * port + slot → answers (s.slotEntry 1 r port slot) ∧
          GivesN (.srsWr h ra rb n) s s 8 (0x3E, 7))) ∧
      (selOk → (n.toNat < 0x0100 ∨ (0x0108 ≤ n.toNat ∧ n.toNat < 0x4000) ∨ 0x6500 ≤ n.toNat) →
        exec (.srsRd h ra n) s = .next (s.exact Cause.sysregNumber 1) ∧
        exec (.srsWr h ra rb n) s = .next (s.exact Cause.sysregNumber 1)))) ∧
  ∀ (s : State) (c : CtxId) (k : Nat) (x : Ctx) (p : Pend), s.ctx c = some x → x.pend[k]? = some p →
    let writes (i : Instr) : Prop := ∃ t v, exec i s = .next t ∧ (∀ w, p.val = some w → v = w) ∧
      (∃ y, t.ctx c = some y ∧ y = { x with g := y.g, q := y.q, pend := x.pend.erase p, aflags := x.aflags ||| p.flags } ∧
        (p.clobber = false → ∀ n : Fin 16, y.g[n] = if p.g = some n then v else x.g[n]) ∧
        ∀ n : Fin 16, y.q[n] = if p.age = n.val + 1 then v else x.q[n]) ∧
      (∀ d, d ≠ c → t.ctx d = s.ctx d) ∧ sameMem s t
    (p.tag ≠ 0 → p.due = none → p.val.isSome = true → writes (.srsRdAnswer c k)) ∧
    (∀ d, p.due = some d → d ≤ s.cycleOfCtx c → writes (.pendingResultWrite c k)) ∧
    (∀ d, p.due = some d → s.cycleOfCtx c < d → exec (.pendingResultWrite c k) s = .next s) ∧
    (p.tag = 0 → exec (.srsRdAnswer c k) s = .next s)

/-- R233, R235 and R118: `chkpt` outside logging gives the next number after four cycles, and under logging stops the
sheaf for its checkpoint; `halt` ends every helper, whose flags the control context keeps, and retires the grain with a
release. R150: a helper whose `rqput` holds a reservation issues nothing more, and ends when its message is delivered. R296: the
release of a `halt` waits for log space. -/
def Obligations.CheckpointAndHalt : Prop :=
  ∀ (s : State) (h : Head), s.runs h = true →
    (s.workLeft = true → exec (.chkpt h) s = .next s.stall) ∧
    (∀ c : Fin 11, s.workLeft = false → s.cur.ctx = c.val →
      let n := s.grain.chk[c] + 1
      let u := s.updGrain fun g => { g with chk := g.chk.set c n }
      (s.logging s.myVd = false → GivesL (.chkpt h) s u h 4 (BitVec.ofNat 64 n) 0 8 (0x3E, 0xA)) ∧
      (s.logging s.myVd = true → s.sheaf.stop ≠ .none → exec (.chkpt h) s = .next s.stall) ∧
      (s.logging s.myVd = true → s.sheaf.stop = .none → (Tab.find s.sheaves s.cur.sheaf).isSome = true → ∃ t y,
        exec (.chkpt h) s = .next t ∧
        ReservesL (u.withOut ⟨s.freeN + 1, .chkpt h, s.me.pc, h.dst, 0, false, .past, 0, [BitVec.ofNat 64 n], [], 0, none,
          s.cycle, s.quantumOf s.cur⟩)
          y h none none 0 8 ∧
        t = { y with sheaves := t.sheaves } ∧
        t.sheaf = { s.sheaf with stop := .checkpoint, stopAt := s.slot, ckptBy := some s.cur })) ∧
    (s.cur.ctx ≠ 0 → exec (.halt h) s = .next (s.exact Cause.helperState 5)) ∧
    (s.cur.ctx = 0 →
      let u := s.killHelpers
      let mine (c : CtxId) : Prop := c.sheaf = s.cur.sheaf ∧ c.grain = s.cur.grain
      let puts (x : Ctx) : Prop := ∃ o, x.out = some o ∧ isRqput o.instr = true ∧ o.stage = .sent
      let left := ∃ c x, mine c ∧ c.ctx ≠ 0 ∧ s.ctx c = some x ∧ puts x
      (∀ c x, mine c → c.ctx ≠ 0 → s.ctx c = some x → ¬ puts x → u.ctx c = none ∧ u.me.aflags ||| x.aflags = u.me.aflags) ∧
      (∀ c x, mine c → c.ctx ≠ 0 → s.ctx c = some x → puts x → u.ctx c = some { x with wait := .stopped }) ∧
      (∀ c, ¬ mine c → u.ctx c = s.ctx c) ∧
      (u.workLeft = true ∨ left → exec (.halt h) s = .next u.stall) ∧
      (u.workLeft = false → ¬ left → u.grainLog = true → exec (.halt h) s = .next (u.waitLog u.myVd).stall) ∧
      (u.workLeft = false → ¬ left → u.grainLog = false → ∃ t, exec (.halt h) s = .next t ∧
        (∀ c, mine c → t.ctx c = none) ∧ (∀ c, ¬ mine c → t.ctx c = s.ctx c) ∧
        (∀ g, s.grainOf s.cur = some g → ∃ k, t.grainOf s.cur = some k ∧ k.retired = true ∧ k.core = g.core) ∧
        (∀ a : Fin 64, (s.tileOf s.myTile).acc[a] = .owned s.cur.sheaf s.cur.grain → (t.tileOf s.myTile).acc[a] = .free) ∧
        t.lmem = s.lmem ∧ t.fe = s.fe ∧ t.wbuf = s.wbuf ∧ t.accm = s.accm))

/-! ### Launch queues and records (10 R262 to R267, 08 R222) -/

/-- R262 to R267: enabling and notifying a launch queue; what one read of the slot at its head does, by its stamp and its
record; a tagged message, sent by the host or in a frame of EtherType 0x88B5 (08 R222, 13 R348); the poll of a signal that a
sheaf waits on; and the test of waiting sheaves again. A record whose own priority has no free entry stays at HEAD (DEDUCED, entry
124). R296: a message whose payload finds no log space waits. -/
def Obligations.LaunchQueuesAndRecords : Prop :=
  (∀ (s : State) (vd : Nat) (p : Fin 12) (v : W64),
    let old := s.ctl vd (rLQCTL p)
    let starts := bit v 63 = true ∧ bit old 63 = false
    let waiting (n : Nat) (h : Sheaf) : Prop := Tab.find s.sheaves n = some h ∧ (h.st = .waitsig ∨ h.st = .pending)
    let adds (y t : State) (f : Sheaf → Prop) : Prop := ∃ h, t.sheaves = y.sheaves ++ [(y.dev.nextSheaf, h)] ∧
      t.dev.nextSheaf = y.dev.nextSheaf + 1 ∧ (t.vdOf vd).nextSheafid = ((y.vdOf vd).nextSheafid + 1) % 2 ^ 48 ∧
      h.vd = vd ∧ h.sheafid = (y.vdOf vd).nextSheafid ∧ h.st = .pending ∧ h.prio = min h.recPrio 11 ∧
      h.det = bit (s.ctl vd rVDMODE) 62 ∧ h.debug = bit (s.ctl vd rVDMODE) 63 ∧ h.accepted = s.slot ∧ f h
    (∃ t, exec (.lqEnable vd p v) s = .next t ∧ bit (t.ctl vd (rLQCTL p)) 63 = bit v 63 ∧
      bits (t.ctl vd (rLQCTL p)) 3 0 = bits v 3 0 ∧ t = { s with vds := t.vds } ∧ (∀ m, m ≠ vd → t.vdOf m = s.vdOf m) ∧
      (starts → bit (t.ctl vd (rLQCTL p)) 62 = false ∧ t.ctl vd (rLQSTAT p) = 1 ∧ (t.vdOf vd).notify[p] = 0) ∧
      (¬ starts → bit (t.ctl vd (rLQCTL p)) 62 = bit old 62 ∧ t.ctl vd (rLQSTAT p) = s.ctl vd (rLQSTAT p) ∧
        (t.vdOf vd).notify = (s.vdOf vd).notify)) ∧
    (∃ t, exec (.lqNotify vd p v) s = .next t ∧ (t.vdOf vd).notify[p] = max (s.vdOf vd).notify[p] v.toNat ∧ t.ctxs = s.ctxs) ∧
    ((∀ n h, Tab.find s.sheaves n = some h → h.st ≠ .waitsig) → ∃ t, exec (.lqNotify vd p v) s = .next t ∧
      (t.vdOf vd).notify[p] = max (s.vdOf vd).notify[p] v.toNat ∧ t = { s with vds := t.vds } ∧
      (∀ q : Fin 12, q ≠ p → (t.vdOf vd).notify[q] = (s.vdOf vd).notify[q]) ∧ ∀ m, m ≠ vd → t.vdOf m = s.vdOf m) ∧
    (s.lqReady vd p = false ∨ (s.vdOf vd).reread[p].isSome = true → exec (.lqFetch vd p) s = .next s) ∧
    (s.lqReady vd p = false ∨ (s.vdOf vd).reread[p] = none → exec (.lqRereadTimer vd p) s = .next s) ∧
    (∀ due, (s.vdOf vd).reread[p] = some due → s.slot < due → exec (.lqRereadTimer vd p) s = .next s) ∧
    (∀ (i : Instr) (y : State) (bs : List Byte), s.lqReady vd p = true →
      (i = .lqFetch vd p ∧ (s.vdOf vd).reread[p] = none) ∨
        (i = .lqRereadTimer vd p ∧ ∃ due, (s.vdOf vd).reread[p] = some due ∧ due ≤ s.slot) →
      let head := s.ctl vd (rLQSTAT p)
      s.gread none vd (s.ctl vd (rLQBASE p) + BitVec.ofNat 64 (128 * (head.toNat % 2 ^ (bits old 3 0 + 1)))) 128 = (y, .ok bs) →
      y.vds = s.vds → y.slot = s.slot →
      let h := ofRecord bs
      let m := s.ctl vd rVDMODE
      let tries := (s.vdOf vd).tries[p] + 1
      (h.stamp ≠ head → tries < 64 → ∃ t, exec i s = .next t ∧ t = { y with vds := t.vds } ∧ (t.vdOf vd).tries[p] = tries ∧
        (t.vdOf vd).reread[p] = some (s.slot + 256) ∧ (t.vdOf vd).control = (s.vdOf vd).control) ∧
      (h.stamp ≠ head → 64 ≤ tries → ∃ z : State, exec i s = .next (z.postEvent vd 4 p.val 0 0 0 head) ∧ z = { y with vds := z.vds } ∧
        bit (z.ctl vd (rLQCTL p)) 62 = true ∧ z.ctl vd (rLQSTAT p) = head) ∧
      (∀ d, h.stamp = head → y.recordBad vd h false (bit m 61) (bit m 62) = some d →
        ∃ z : State, exec i s = .next (z.postEvent vd 5 d 0 0 0 head) ∧ z = { y with vds := z.vds } ∧
          z.ctl vd (rLQSTAT p) = head + 1) ∧
      (h.stamp = head → y.recordBad vd h false (bit m 61) (bit m 62) = none → 64 ≤ y.pendingCount vd h.recPrio →
        ∃ t, exec i s = .next t ∧ t = { y with vds := t.vds } ∧ (t.vdOf vd).reread[p] = some (s.slot + 256) ∧
          (t.vdOf vd).tries = (s.vdOf vd).tries ∧ (t.vdOf vd).control = (s.vdOf vd).control) ∧
      (h.stamp = head → y.recordBad vd h false (bit m 61) (bit m 62) = none → y.pendingCount vd h.recPrio < 64 → h.waitVa = 0 →
        Tab.find y.sheaves y.dev.nextSheaf = none → ∃ t, exec i s = .next t ∧ t.ctl vd (rLQSTAT p) = head + 1 ∧ t.ctxs = y.ctxs ∧ sameMem y t ∧
          adds y t fun k => k.record = h.record ∧ k.errData = head)) ∧
    (∀ (i : Instr) (c : State) (tag : W16) (payload : List Byte),
      (i = .taggedLaunchMessage vd tag payload ∧ c = s) ∨
        (∃ (q : Fin 16) (f body : List Byte), i = .ethLaunchFrame q f ∧ s.dev.ports[q].en = true ∧ s.dev.ports[q].slotMode = false ∧
          frameBody f = some (0x88B5, body) ∧ 8 ≤ body.length ∧ c = s.updPort q (fun x => { x with frames := x.frames + 1 }) ∧
          s.vdOfPasid (bits (word64 (body.take 8)) 19 0) = some vd ∧
          tag = BitVec.ofNat 16 (bits (word64 (body.take 8)) 47 32) ∧ payload = body.drop 8) →
      let hit (e : Nat × Nat × Bool) : Bool := e.1 == tag.toNat
      (s.vdUp vd = false → exec i s = .next c) ∧
      (s.vdUp vd = true → (s.vdOf vd).tags.find? hit = none → ∃ t, exec i s = .next t ∧ t = { c with vds := t.vds } ∧
        t.ctl vd rTAGMISS = BitVec.ofNat 64 (min (2 ^ 32 - 1) ((s.ctl vd rTAGMISS).toNat + 1))) ∧
      ∀ rec persist y bs, s.vdUp vd = true → (s.vdOf vd).tags.find? hit = some (tag.toNat, rec, persist) →
        addrOk (BitVec.ofNat 64 rec) 128 = true → c.gread none vd (BitVec.ofNat 64 rec) 128 = (y, .ok bs) →
        y.vds = s.vds → y.slot = s.slot →
        let h := ofRecord bs
        let m := s.ctl vd rVDMODE
        let rx := BitVec.ofNat 64 (s.vdOf vd).rxVa
        let fired := if persist then y else y.updVd vd fun d => { d with tags := d.tags.filter fun e => e.1 != tag.toNat }
        (∀ d, y.recordBad vd h false (bit m 61) (bit m 62) = some d → ∃ z : State, exec i s = .next
          (z.postEvent vd 5 d 0 0 0 (BitVec.ofNat 64 rec)) ∧ z = { y with vds := z.vds } ∧
            (persist = true → (z.vdOf vd).tags = (s.vdOf vd).tags) ∧ (persist = false → (z.vdOf vd).tags.find? hit = none)) ∧
        (y.recordBad vd h false (bit m 61) (bit m 62) = none → 64 ≤ y.pendingCount vd h.recPrio →
          ∃ t, exec i s = .next t ∧ t = { y with vds := t.vds } ∧ (t.vdOf vd).tags = (s.vdOf vd).tags ∧
            t.ctl vd rTAGMISS = BitVec.ofNat 64 (min (2 ^ 32 - 1) ((s.ctl vd rTAGMISS).toNat + 1))) ∧
        (y.recordBad vd h false (bit m 61) (bit m 62) = none → y.pendingCount vd h.recPrio < 64 → y.rxHeld vd payload = true →
          ∃ t, exec i s = .next t ∧ t = { y with vds := t.vds } ∧ (t.vdOf vd).tags = (s.vdOf vd).tags ∧
            (t.vdOf vd).late = (s.vdOf vd).late ++ [.message tag.toNat payload]) ∧
        (y.recordBad vd h false (bit m 61) (bit m 62) = none → y.pendingCount vd h.recPrio < 64 → y.rxHeld vd payload = false →
          h.waitVa = 0 →
          let z := fired.gwriteAll vd noSheaf 150 rx payload
          Tab.find z.sheaves z.dev.nextSheaf = none →
          ∃ t k, exec i s = .next t ∧ t.sheaves = z.sheaves ++ [(z.dev.nextSheaf, k)] ∧ t.dev.nextSheaf = z.dev.nextSheaf + 1 ∧
            t.dev.ports = z.dev.ports ∧ k.vd = vd ∧ k.st = .pending ∧ k.sheafid = (z.vdOf vd).nextSheafid ∧
            k.record = Mem.write h.record 0x78 (toBytes 8 rx.toNat) ∧ t.ctxs = z.ctxs ∧ sameMem z t) ∧
        (y.recordBad vd h false (bit m 61) (bit m 62) = none → y.pendingCount vd h.recPrio < 64 → h.waitVa = 0 → payload = [] →
          y.rxHeld vd payload = false → Tab.find y.sheaves y.dev.nextSheaf = none →
          ∃ t, exec i s = .next t ∧ (persist = true → (t.vdOf vd).tags = (s.vdOf vd).tags) ∧
            (persist = false → (t.vdOf vd).tags.find? hit = none) ∧ t.ctxs = y.ctxs ∧ sameMem y t ∧
            adds y t fun k => k.record = Mem.write h.record 0x78 (toBytes 8 rx.toNat))) ∧
    ((s.sheaves.map Prod.fst).Nodup → ∃ t, exec (.placementRetest vd) s = .next t ∧ t.ctxs = s.ctxs ∧
      ∀ n h, Tab.find s.sheaves n = some h →
        (waiting n h → h.vd = vd → (s.neverFits vd h.det h).isSome = true → t.sheafOf n = { h with st := .retired, clusters := [] }) ∧
        (¬ (waiting n h ∧ h.vd = vd ∧ (s.neverFits vd h.det h).isSome = true) → t.sheafOf n = h))) ∧
  ∀ (s : State) (n : Nat),
    let h := s.sheafOf n
    (h.st ≠ .waitsig → exec (.waitvaPoll n) s = .next s) ∧
    ∀ y bs, h.st = .waitsig → s.gread none h.vd h.waitVa 8 = (y, .ok bs) → y.sheaves = s.sheaves →
      ∃ t, exec (.waitvaPoll n) s = .next t ∧ t = { y with sheaves := t.sheaves } ∧
        t.sheafOf n = { h with waitPolled := s.slot, st := if word64 bs = 0 then .pending else .waitsig } ∧
        ∀ m, m ≠ n → t.sheafOf m = s.sheafOf m

/-! ### Placement, gangs and retirement (10 R257, R258, R262, R267 to R272; 01 R14) -/

/-- R14, R258, R262, R267, R268 and R272: where a sheaf fits; the placement of the sheaf that comes first, which makes its
control contexts live with the values of R14; the age of a waiting sheaf; retirement, which leaves SPILLED tiles as they are
(R186) and waits for log space (R296); and a migration: when it does nothing, when the sheaf goes on where it stands, and when it
moves one virtual cluster to a free one, with a full fence for the contexts that move (R256). The choices of a place are entry
18's, the skip stream register at placement entry 3's (DESIGN CHOICE), the count of core cycles after a migration entry 126's
(DEDUCED). -/
def Obligations.PlacementAndRetirement : Prop :=
  ∀ (s : State) (n : Nat),
    let h := s.sheafOf n
    let started (y t : State) : Prop := let k := y.sheafOf n
      (t.sheafOf n).st = .running ∧
      (∀ g, g < k.grains → ∃ x, t.ctx ⟨n, g, 0⟩ = some x ∧ x.pc = k.word 0 ∧ x.vl = 64 ∧ x.depth = 0 ∧ x.pv = false ∧
        x.handler = false ∧ x.aflags = 0 ∧ x.amask = 0 ∧ x.lcnt = 0 ∧ x.trapcause = 0 ∧ x.q = Vector.replicate 16 0 ∧
        x.a = Vector.replicate 8 0 ∧ x.as_ = Vector.replicate 8 0 ∧ x.pend = [] ∧ x.out = none ∧
        (∀ i : Fin 16, x.g[i] = if i.val < 8 then 0 else k.word (0x40 + 8 * (i.val - 8))) ∧
        ∀ i : Fin 64, x.lfsr[i] = 0x5EED_0000 ^^^ BitVec.ofNat 32 (g * 2 ^ 16) ^^^ BitVec.ofNat 32 i.val) ∧
      ∀ c, (c.sheaf ≠ n ∨ c.ctx ≠ 0 ∨ k.grains ≤ c.grain) → t.ctx c = y.ctx c
    (∀ l, s.fit n = some l → s.vdUp h.vd = true ∧ s.hasTurn h.vd = true ∧ l.1.length = h.vclusters ∧ l.1.Nodup ∧
      (∀ c ∈ l.1, c ∈ s.shelves h) ∧ s.slotsUsed n [] + h.domCount ≤ 16384) ∧
    (∀ t, s.chosen n = some t → s.waitsPlace n h = true ∧ ∀ m ∈ s.earlier n, s.bound m = none) ∧
    (h.st ≠ .pending ∨ s.chosen n = none → (h.st = .running → h.ckpt.isSome = true ∨ h.gangT ≠ none) →
      exec (.sheafPlace n) s = .next s) ∧
    (∀ b y const, h.st = .pending → s.chosen n = some b → b.constImage n = (y, .ok const) → y.rollback (y.sheafOf n).vd = false →
      (Tab.find y.sheaves n).isSome = true →
      let k := y.sheafOf n
      (k.gang = false → ∃ t, exec (.sheafPlace n) s = .next t ∧ started y t ∧
        ∀ g, g < k.grains → ∃ x, Tab.find t.grains (n, g) = some x ∧ x.core = k.coreOf g ∧ x.const = const ∧ x.prio = k.prio ∧
          x.mq = [] ∧ x.mailbox = [] ∧ x.launches = 0 ∧ x.mqwt = 1 ∧ x.skip = 0 ∧ x.retired = false ∧
          x.cycle0 = (y.cycleOf (x.core / 4) : Int) ∧ x.rings = Vector.replicate 8 none ∧ x.chk = Vector.replicate 11 0) ∧
      (k.gang = true → ∃ t, exec (.sheafPlace n) s = .next t ∧ t.ctxs = y.ctxs ∧
        (t.sheafOf n).st = (if k.lead = true ∧ k.gangRes.length = y.gangPkgs k then .running else .reserved) ∧
        (5, BitVec.ofNat 64 (k.sheafid * 4)) ∈ t.dev.toHost)) ∧
    (h.st ≠ .running ∨ s.allRetired n = false → exec (.sheafRetire n) s = .next s) ∧
    (h.st = .running → s.allRetired n = true → s.endHeld n = true → exec (.sheafRetire n) s = .next (s.waitLog h.vd)) ∧
    (h.st = .running → s.allRetired n = true → s.endHeld n = false → ∃ t, exec (.sheafRetire n) s = .next t ∧ (t.sheafOf n).st = .retired ∧
      (t.sheafOf n).clusters = [] ∧ (t.sheafOf n).circuits = [] ∧ (∀ c, c.sheaf = n → t.ctx c = none) ∧
      (∀ c, c.sheaf ≠ n → t.ctx c = s.ctx c) ∧ (∀ g, Tab.find t.grains (n, g) = none) ∧
      (∀ m g, m ≠ n → Tab.find t.grains (m, g) = Tab.find s.grains (m, g)) ∧ t.lmem = s.lmem ∧ t.wbuf = s.wbuf ∧
      ∀ tile, ∀ a : Fin 64, ((t.tileOf tile).acc[a]).sheaf = some n → ((t.tileOf tile).acc[a]).isSpilled = true) ∧
    (s.slot ≤ h.ageFrom + s.ageLimit h → exec (.ageLimitExpiry n) s = .next s) ∧
    (h.ageFrom + s.ageLimit h < s.slot →
      (h.st = .reserved → h.lead = true → h.gangWaitPosted = false → ∃ y : State, exec (.ageLimitExpiry n) s =
        .next (y.postSheaf n 7 h.gidx 0) ∧ y = { s with sheaves := y.sheaves } ∧
          y.sheafOf n = { h with gangWaitPosted := true } ∧ ∀ m, m ≠ n → y.sheafOf m = s.sheafOf m) ∧
      (s.waitsPlace n h = true → s.hasTurn h.vd = true → h.st ≠ .reserved → h.clusters ≠ [] → (s.sheaves.map Prod.fst).Nodup →
        ∃ t, exec (.ageLimitExpiry n) s = .next t ∧ t.ctxs = s.ctxs ∧ t.grains = s.grains ∧
          ∀ m k, Tab.find s.sheaves m = some k → m ≠ n →
            let moves := k.st = .running ∧ k.stop = .none ∧ k.vd = h.vd ∧ ∃ c ∈ k.clusters, ∃ d ∈ h.clusters, d % 96 = c % 96
            (moves → t.sheafOf m = { k with stop := .migrate, stopAt := s.slot, stopPhase := (s.domOf m 0).phase }) ∧
            (¬ moves → t.sheafOf m = k))) ∧
    (∀ vc target, h.st ≠ .stopped ∨ h.stop ≠ .migrate ∨ s.quiet n = false → exec (.sheafMigrate n vc target) s = .next s) ∧
    (∀ vc target, h.st = .stopped → h.stop = .migrate → s.quiet n = true →
      h.clusters.length ≤ vc ∨ s.clusterFree n target = false ∨ target ∉ s.usable h.vd →
      let wanted (c : Nat) : Prop := ∃ e ∈ s.sheaves, e.1 ≠ n ∧ s.waitsPlace e.1 e.2 = true ∧
        ∃ d ∈ e.2.clusters, d % 96 = c % 96
      let stays := (∃ c ∈ h.clusters, wanted c) ∧ ∃ c ∈ s.usable h.vd, s.clusterFree n c = true
      (stays → exec (.sheafMigrate n vc target) s = .next s) ∧
      (¬ stays → ∃ t, exec (.sheafMigrate n vc target) s = .next t ∧ t = { s with sheaves := t.sheaves } ∧
        t.sheafOf n = { h with st := .running, stop := .none } ∧ ∀ m, m ≠ n → t.sheafOf m = s.sheafOf m)) ∧
    (∀ vc target, h.st = .stopped → h.stop = .migrate → s.quiet n = true → vc < h.clusters.length → s.clusterFree n target = true →
      target ∈ s.usable h.vd →
      let from_ := h.clusters.getD vc 0
      let moved (t : Nat) : Nat := if t / 4 = from_ then 4 * target + t % 4 else t
      let tiles := ((List.range 4).filter fun t => decide (4 * vc + t < h.vtiles)).map fun t => h.tile (4 * vc + t)
      let y := (tiles.foldl (fun s t => (s.serve h.vd (moved t)).moveTile n t (moved t)) (s.dropMem n tiles)).updSheaf n fun h =>
        { h with clusters := h.clusters.set vc target, cores := h.cores.map fun c => 8 * moved (c / 8) + c % 8 }
      (y.placeMem h.vd (tiles.map moved)).isSome = true → (∀ t ∈ tiles, t / 4 = from_) →
      ∃ t, exec (.sheafMigrate n vc target) s = .next t ∧ (t.sheafOf n).clusters = h.clusters.set vc target ∧
        (∀ c, c.sheaf ≠ n → t.ctx c = s.ctx c) ∧
        (∀ c x, c.sheaf = n → s.ctx c = some x → (s.coreOfCtx c / 8 ∈ tiles → ∃ k, t.ctx c = some (x.again k)) ∧
          (s.coreOfCtx c / 8 ∉ tiles → t.ctx c = some x)) ∧
        ∀ g x, Tab.find s.grains (n, g) = some x → ∃ z, Tab.find t.grains (n, g) = some z ∧
          z = { x with core := z.core, cycle0 := z.cycle0, mq := z.mq } ∧
          (s.cycleOf (z.core / 4) : Int) - z.cycle0 = (s.cycleOf (x.core / 4) : Int) - x.cycle0 ∧
          (x.core / 8 ∈ tiles → z.core / 32 = target ∧ z.core % 32 = x.core % 32 ∧ z.mq = x.mq.map MCmd.parked) ∧
          (x.core / 8 ∉ tiles → z = x)) ∧
    (∀ (x : Ctx) (k : Nat), (x.again k).fence = true ∧ (x.again k).fenceWide = true ∧ (x.again k).readyAt = k ∧
      (x.again k).g = x.g ∧ (x.again k).q = x.q ∧ (x.again k).pc = x.pc ∧ (x.again k).pend = x.pend) ∧
    ∀ vc target, (Tab.find s.sheaves n).isSome = true → ∃ t, exec (.sheafMigrate n vc target) s = .next t ∧
      (∀ c, c.sheaf ≠ n → t.ctx c = s.ctx c) ∧
      ((t.sheafOf n).clusters = h.clusters ∧ t.grains = s.grains ∧ t.ctxs = s.ctxs ∨
       target ∈ s.usable h.vd ∧ s.clusterFree n target = true ∧ (t.sheafOf n).clusters = h.clusters.set vc target ∧
         ∀ g x, Tab.find s.grains (n, g) = some x → ∃ y, Tab.find t.grains (n, g) = some y ∧
           y = { x with core := y.core, cycle0 := y.cycle0, mq := y.mq } ∧
           (y.core = x.core ∨ (y.core / 32 = target ∧ y.core % 8 = x.core % 8)))

/-- R267, R270 and R271: the messages of a gang, of which the last RESERVED sends COMMIT with its start slot; the sheaf is RUNNING
from its commit; the start in its slot, with a first image; an arrival that is kept, also for the next phase; and the register
that enables a gang. -/
def Obligations.GangMessages : Prop :=
  (∀ (s : State) (n pkg slot : Nat),
    let h := s.sheafOf n
    let now (t : State) (k : Sheaf) : Prop := t = { s with sheaves := t.sheaves, dev := t.dev } ∧ t.sheafOf n = k ∧
      ∀ m, m ≠ n → t.sheafOf m = s.sheafOf m
    (h.gang = false ∨ h.lead = false ∨ pkg ∈ h.gangRes → exec (.gangReserved n pkg) s = .next s) ∧
    (h.gang = true → h.lead = true → pkg ∉ h.gangRes →
      let full := h.st = .reserved ∧ h.gangRes.length + 1 = s.gangPkgs h
      let lat := ((s.circuit (bits (s.ctl h.vd (rGANG h.gidx)) 15 0)).map fun k => k.lat).getD 0
      (¬ full → ∃ t, exec (.gangReserved n pkg) s = .next t ∧ now t { h with gangRes := h.gangRes ++ [pkg] } ∧ t.dev = s.dev) ∧
      (full → ∃ t, exec (.gangReserved n pkg) s = .next t ∧
        now t { h with gangRes := h.gangRes ++ [pkg], st := .running, gangT := some (s.slot + lat + 8) } ∧
        t.dev.toHost = s.dev.toHost ++ [(5, BitVec.ofNat 64 (h.sheafid * 4 + 3)), (10, BitVec.ofNat 64 (s.slot + lat + 8))])) ∧
    (h.st ≠ .reserved → exec (.gangCommit n slot) s = .next s) ∧
    (h.st = .reserved → ∃ t, exec (.gangCommit n slot) s = .next t ∧ now t { h with st := .running, gangT := some slot } ∧ t.dev = s.dev) ∧
    (s.rollback h.vd = false →
      ((h.st = .running → h.ckpt.isSome = true ∨ h.gangT ≠ none) →
        ∀ t, h.st ≠ .running ∨ h.gangT = none ∨ (h.gangT = some t ∧ s.slot < t) → exec (.gangStartSlot n) s = .next s) ∧
      ∀ t, h.st = .running → h.gangT = some t → t ≤ s.slot → ∃ u, exec (.gangStartSlot n) s = .next u ∧
        u.sheafOf n = { h with gangT := none, ckpt := (u.sheafOf n).ckpt, ckptSeq := (u.sheafOf n).ckptSeq } ∧
        (u.sheafOf n).ckpt.isSome = true ∧
        (∀ g, g < h.grains → ∃ x, u.ctx ⟨n, g, 0⟩ = some x ∧ x.pc = h.word 0 ∧ x.pend = [] ∧ x.out = none) ∧
        ∀ c, (c.sheaf ≠ n ∨ c.ctx ≠ 0 ∨ h.grains ≤ c.grain) → u.ctx c = s.ctx c) ∧
    (∀ b, h.gang = false ∨ h.st = .waitsig ∨ h.st = .pending ∨ h.st = .retired →
      exec (.gangArrivalMessage n pkg b) s = .next s) ∧
    (h.gang = true → h.st = .running ∨ h.st = .stopped →
      (∃ t, exec (.gangArrivalMessage n pkg false) s = .next t ∧ now t { h with gangArrived := pkg :: h.gangArrived } ∧
        t.dev = s.dev) ∧
      ((∀ c x, s.ctx c = some x → c.sheaf = n → x.out = none) → ∃ t, exec (.gangArrivalMessage n pkg true) s = .next t ∧
        now t { h with gangMissing := true } ∧ t.dev = s.dev)) ∧
    (h.gang = true → h.st = .reserved → exec (.gangArrivalMessage n pkg true) s = .next s ∧
      ∃ y : State, exec (.gangArrivalMessage n pkg false) s = .next (y.postSheaf n 6 h.gidx 0) ∧ (y.sheafOf n).st = .retired ∧
        (5, BitVec.ofNat 64 (h.sheafid * 4 + 2)) ∈ y.dev.toHost ∧ (∀ c, c.sheaf = n → y.ctx c = none) ∧
        ∀ c, c.sheaf ≠ n → y.ctx c = s.ctx c)) ∧
  ∀ (s : State) (vd : Nat) (n : Fin 16) (v : W64),
    (bit v 63 = true → bits v 37 32 = 0 → exec (.gangnWrite vd n v) s = .next s) ∧
    (bit v 63 = false ∨ bits v 37 32 ≠ 0 → ∃ t, exec (.gangnWrite vd n v) s = .next t ∧ t = { s with vds := t.vds } ∧
      bit (t.ctl vd (rGANG n.val)) 63 = bit v 63 ∧ bits (t.ctl vd (rGANG n.val)) 37 32 = bits v 37 32 ∧
      bits (t.ctl vd (rGANG n.val)) 15 0 = bits v 15 0 ∧ (∀ r, r ≠ rGANG n.val → t.ctl vd r = s.ctl vd r) ∧
      ∀ m, m ≠ vd → t.vdOf m = s.vdOf m)

/-! ### Stopping, saving, resuming and checkpoints (11 R284 to R299) -/

/-- R268, R284 to R286, R291, R292 and R298: how a sheaf is asked to stop and stops, how Spelt saves it with the sheaves
of its tiles and gives its units up, how a slice that ends by rollback takes all the sheaves of its virtual device back to
their checkpoints, whose engine commands hold their translations anew (entry 36), and how a sheaf is placed again and restored.
That an image of its own is kept at its start slot where the log does not run is entry 35's (DESIGN CHOICE). -/
def Obligations.StopSaveAndResume : Prop :=
  ∀ (s : State) (n : Nat),
    let h := s.sheafOf n
    let only (t : State) (k : Sheaf) : Prop := t = { s with sheaves := t.sheaves } ∧ t.sheafOf n = k ∧
      ∀ m, m ≠ n → t.sheafOf m = s.sheafOf m
    let halted (t : State) (c : CtxId) : Prop := ∀ x, s.ctx c = some x → ∃ y, t.ctx c = some y ∧ y.pc = x.pc ∧
      y.handler = x.handler ∧ y.fence = true ∧ (∀ p ∈ y.pend, p ∈ x.pend) ∧
      (∀ p ∈ x.pend, (∀ o, x.out = some o → p.tag ≠ o.tag) → p ∈ y.pend) ∧ (x.handler = false → ∀ o, y.out = some o → o.runsOn = true)
    let allStop (t : State) : Prop := ∀ m ∈ s.stopGroup n, (s.sheafOf m).st = .running → (t.sheafOf m).st = .stopped
    (h.st ≠ .running → exec (.sheafStop n) s = .next s) ∧
    (h.st = .running →
      (h.stop = .none → s.isVictim n = false → exec (.sheafStop n) s = .next s) ∧
      (h.stop = .none → s.isVictim n = true → ∃ t, exec (.sheafStop n) s = .next t ∧
        only t { h with stop := .save, stopAt := s.slot, stopPhase := (s.domOf n 0).phase }) ∧
      (h.stop = .save → s.roomFor n = false → ∃ t, exec (.sheafStop n) s = .next t ∧ only t { h with stop := .none }) ∧
      (h.stop = .save → s.roomFor n = true → s.atBoundary n = false → exec (.sheafStop n) s = .next s) ∧
      (h.stop = .save → s.roomFor n = true → s.atBoundary n = true → ∃ t, exec (.sheafStop n) s = .next t ∧ allStop t) ∧
      (h.stop = .checkpoint ∨ (∃ b, h.stop = .slice b) ∨ (h.stop = .migrate ∧ s.atBoundary n = true) →
        ∃ t, exec (.sheafStop n) s = .next t ∧
          t.sheafOf n = { h with
            st := .stopped
            stoppedAt := s.slot
            tasks := h.tasks.filter fun r => r.ends
            speltDone := none
            doms := (t.sheafOf n).doms } ∧
          (∀ c, c.sheaf = n → halted t c) ∧ ∀ c, c.sheaf ≠ n → t.ctx c = s.ctx c)) ∧
    (¬ (h.st = .running ∧ h.stop = .save ∧ h.stopAt + 2 ^ 20 ≤ s.slot ∧ s.roomFor n = true) →
      exec (.stopTimeout n) s = .next s) ∧
    (h.st = .running → h.stop = .save → h.stopAt + 2 ^ 20 ≤ s.slot → s.roomFor n = true →
      ∃ t, exec (.stopTimeout n) s = .next t ∧ allStop t) ∧
    (h.st ≠ .stopped ∨ s.quiet n = false → exec (.speltSaveDone n) s = .next s) ∧
    (h.st = .stopped → s.quiet n = true →
      let saves := h.stop = .save ∨ h.stop = .slice false
      (saves → h.speltDone = none → ∃ t, exec (.speltSaveDone n) s = .next t ∧
        only t { h with speltDone := some (s.speltFree + h.saveTime) }) ∧
      (saves → h.speltDone.isSome = true → (s.saveGroup n).all s.saveDue = false → exec (.speltSaveDone n) s = .next s) ∧
      (saves → h.speltDone.isSome = true → (s.saveGroup n).all s.saveDue = true → ∃ t, exec (.speltSaveDone n) s = .next t ∧
        (∀ m ∈ s.saveGroup n, (t.sheafOf m).stop = .none ∧ (∀ c, c.sheaf = m → t.ctx c = none) ∧
          (∀ g, Tab.find t.grains (m, g) = none) ∧ ∃ v, (t.sheafOf m).saved = some v ∧
            v.ctxs = (s.ctxs.filter fun e => e.1.sheaf == m).map fun e => (e.1, e.2.parked)) ∧
        ∀ c, c.sheaf ∉ s.saveGroup n → t.ctx c = s.ctx c) ∧
      let g := s.rollGroup h.vd
      (h.stop = .slice true → h.ckpt = none ∨ (∃ m ∈ g, s.rollReady m = false) → exec (.speltSaveDone n) s = .next s) ∧
      (h.stop = .slice true → h.ckpt ≠ none → (∀ m ∈ g, s.rollReady m = true) → ∃ t, exec (.speltSaveDone n) s = .next t ∧
        (∀ m ∈ g, ∀ v, (s.sheafOf m).ckpt = some v → (t.sheafOf m).stop = .none ∧ (t.sheafOf m).ckpt = none ∧
          (∀ c, c.sheaf = m → t.ctx c = none) ∧ ∃ k, (t.sheafOf m).saved = some k ∧ k = { v with tiles := k.tiles } ∧
            k.tiles.map (fun b => (b.vtile, b.acc)) = v.tiles.map fun b => (b.vtile, b.acc)) ∧
        ∀ c, c.sheaf ∉ g → t.ctx c = s.ctx c)) ∧
    (h.st ≠ .stopped ∨ h.saved = none ∨ s.chosen n = none → exec (.sheafResume n) s = .next s) ∧
    (∀ v b, h.st = .stopped → h.saved = some v → s.chosen n = some b → (v.ctxs.map Prod.fst).Nodup →
      (v.grains.map Prod.fst).Nodup → ∃ t, exec (.sheafResume n) s = .next t ∧
        (∀ e ∈ v.ctxs, ∃ k, t.ctx e.1 = some { e.2 with readyAt := k, lastIssue := k }) ∧
        (∀ e ∈ v.grains, ∃ g, Tab.find t.grains (n, e.1) = some g ∧ g.core = (b.sheafOf n).coreOf e.1 ∧
          g = { e.2 with core := g.core, cycle0 := g.cycle0, moving := false, mq := g.mq } ∧ g.mq.length = e.2.mq.length) ∧
        (t.sheafOf n).doms = v.doms ∧ (t.sheafOf n).st = .stopped ∧ (t.sheafOf n).speltDone.isSome = true) ∧
    (let due := ∃ d, h.speltDone = some d ∧ d ≤ s.slot
     let ready := h.st = .stopped ∧ h.stop = .none ∧ (∃ g x, Tab.find s.grains (n, g) = some x) ∧ due
     (¬ ready → exec (.speltRestoreDone n) s = .next s) ∧
     let runs : Sheaf := { h with st := .running, speltDone := none, saved := if s.spilledLeft n then h.saved else none }
     (ready → h.ckpt ≠ none ∨ h.gangT ≠ none → ∃ t, exec (.speltRestoreDone n) s = .next t ∧ only t runs) ∧
     (ready → h.ckpt = none → h.gangT = none → s.rollback h.vd = false → ∃ t, exec (.speltRestoreDone n) s = .next t ∧
       t = { s with sheaves := t.sheaves, vds := t.vds } ∧ (∀ m, m ≠ n → t.sheafOf m = s.sheafOf m) ∧
       t.sheafOf n = { runs with ckpt := (t.sheafOf n).ckpt, ckptSeq := s.dev.seq } ∧
       ∃ v, (t.sheafOf n).ckpt = some v ∧ v.ctxs = (s.ctxs.filter fun e => e.1.sheaf == n).map fun e => (e.1, e.2.parked)))

/-- R233, R293, R294, R297 and R299: a checkpoint is recorded with its moment, its number and its image, and its marked
items are copied while the sheaf goes on; an instruction that the log does not cover is followed by one; and a thermal move
copies a slice to its new core. -/
def Obligations.CheckpointsAndThermalMoves : Prop :=
  (∀ (s : State) (n : Nat),
    let h := s.sheafOf n
    (h.st ≠ .stopped ∨ h.stop ≠ .checkpoint ∨ s.quiet n = false → exec (.checkpointRecorded n) s = .next s) ∧
    (∀ c x o num, h.st = .stopped → h.stop = .checkpoint → s.quiet n = true → s.rollback h.vd = false → h.ckptBy = some c →
      s.ctx c = some x → x.out = some o → o.stage = .past → o.caps = [num] → ∃ t, exec (.checkpointRecorded n) s = .next t ∧
        t.sheafOf n = { h with
          st := .running
          stop := .none
          ckptBy := none
          ckpt := (t.sheafOf n).ckpt
          ckptSeq := s.dev.seq + 1 } ∧
        (∃ v, (t.sheafOf n).ckpt = some v ∧ v.ctxs = (s.ctxs.filter fun e => e.1.sheaf == n).map fun e => (e.1, e.2.parked)) ∧
        (t.vdOf h.vd).logged = [] ∧
        (t.vdOf h.vd).moments = (s.vdOf h.vd).moments ++ [⟨s.dev.seq + 1, c, num.toNat, s.slot, true⟩] ∧
        (∃ y, t.ctx c = some y ∧ y.out = none ∧ y.needCkpt = false ∧ y.pc = x.pc ∧
          (∀ p i, x.pend.find? (fun p => p.tag == o.tag) = some p → p.g = some i → p.clobber = false → y.g[i] = num) ∧
          (∀ p, ∀ i : Fin 16, x.pend.find? (fun p => p.tag == o.tag) = some p → p.age = i.val + 1 → y.q[i] = num)) ∧
        (∀ d, d ≠ c → t.ctx d = s.ctx d) ∧ sameMem s t) ∧
    (h.ckptItems = [] ∨ s.slot < h.ckptAt → exec (.checkpointCopyDone n) s = .next s) ∧
    (h.ckptItems ≠ [] → h.ckptAt ≤ s.slot → ∃ t k, exec (.checkpointCopyDone n) s = .next t ∧ 0 < k ∧
      t.sheafOf n = { h with ckptItems := h.ckptItems.drop k, ckptAt := s.slot + 1 } ∧
      (∀ m, m ≠ n → t.sheafOf m = s.sheafOf m) ∧ t.ctxs = s.ctxs ∧ t.lmem = s.lmem)) ∧
  (∀ (s : State) (c : CtxId) (x : Ctx), s.ctx c = some x →
    let h := s.sheafOf c.sheaf
    let ready := x.needCkpt = true ∧ x.out = none ∧ x.pend = []
    (¬ ready → exec (.unnumberedCheckpoint c) s = .next s) ∧
    (ready → s.rollback h.vd = false → ∃ t, exec (.unnumberedCheckpoint c) s = .next t ∧ t = { s with ctxs := t.ctxs } ∧
      t.ctx c = some { x with needCkpt := false } ∧ ∀ d, d ≠ c → t.ctx d = s.ctx d) ∧
    (ready → s.rollback h.vd = true → h.st = .running → h.stop = .none → ∃ t, exec (.unnumberedCheckpoint c) s = .next t ∧
      t = { s with sheaves := t.sheaves } ∧
      t.sheafOf c.sheaf = { h with stop := .checkpoint, stopAt := s.slot, ckptBy := some c } ∧
      ∀ m, m ≠ c.sheaf → t.sheafOf m = s.sheafOf m)) ∧
  ∀ (s : State) (core tgt : Nat) (due : Nat) (k : Nat × Nat) (g : Grain), s.tabsOk = true → s.holder core = some (k, g) →
    (s.coreOf core).moveTo = some (tgt, due) → core ≠ tgt →
    (due ≠ 0 → s.cycleOf (core / 4) < due → exec (.thermalMoveDone core) s = .next s) ∧
    (due ≠ 0 → due ≤ s.cycleOf (core / 4) → Mem.wf s.lmem = true → (s.sheafOf k.1).spadk ≤ 512 →
      ∃ t, exec (.thermalMoveDone core) s = .next t ∧
        (∃ y, Tab.find t.grains k = some y ∧ y = { g with core := tgt, moving := false, cycle0 := y.cycle0 }) ∧
        (∀ j, j ≠ k → Tab.find t.grains j = Tab.find s.grains j) ∧ (t.coreOf core).moveTo = none ∧
        (∀ c x, s.ctx c = some x → t.ctx c = some (if (c.sheaf, c.grain) = k then x.again (s.cycleOf (tgt / 4)) else x)) ∧
        (t.coreOf tgt).bankpwr = (s.coreOf core).bankpwr ∧
        (∀ o, o < 1024 * (s.sheafOf k.1).spadk → Mem.get t.lmem (tgt * 2 ^ 19 + o) = Mem.get s.lmem (core * 2 ^ 19 + o)) ∧
        ∀ a, a / 2 ^ 19 ≠ core → a / 2 ^ 19 ≠ tgt → Mem.get t.lmem a = Mem.get s.lmem a)

/-! ### Turns of a partition, deadlocks, batches and the host (14 R359 to R361; 10 R274, R275, R278) -/

/-- R296, R298 and R359 to R361: when the slice of a partition's virtual device ends and how its sheaves stop, to whom the
turn passes, and the slots that a late save takes from its next turn. What a slice does without room in the pool is entry
35's; that a RESERVED sheaf holds up no turn is entry 125's (DESIGN CHOICE). R286: a save takes its areas when it begins. -/
def Obligations.PartitionTurns : Prop :=
  ∀ (s : State) (p : Fin 8),
    let x := s.part p
    let ended (t : State) (vd : Nat) (save roll : Bool) : Prop := (t.part p) = { x with ending := true } ∧
      (∀ q : Fin 8, q ≠ p → t.part q = s.part q) ∧ t.ctxs = s.ctxs ∧ t.grains = s.grains ∧
      (∀ n, n ∉ s.endable vd → t.sheafOf n = s.sheafOf n) ∧
      let room := (s.endable vd).foldl (fun l n => if (s.placeAreas (l ++ [n])).isSome then l ++ [n] else l) []
      ∀ n ∈ s.endable vd,
        let h := s.sheafOf n
        (save = true → n ∈ room → ∃ a, t.sheafOf n = { h with stop := .slice false, stopAt := s.slot, area := some (a, h.areaSize) }) ∧
        (save = false ∨ n ∉ room → roll = true → h.ckpt.isSome = true →
          t.sheafOf n = { h with stop := .slice true, stopAt := s.slot }) ∧
        (save = false ∨ n ∉ room → roll = false ∨ h.ckpt = none → t.sheafOf n = h)
    let isShort (w : Nat) : Bool := decide (s.sliceLen w < s.saveSum w)
    let given (t : State) (v : Option Nat) (owed : Nat → Nat) : Prop := t = { s with dev := t.dev, vds := t.vds } ∧
      (∀ q : Fin 8, q ≠ p → t.part q = s.part q) ∧
      t.part p = { x with
        turnVd := v
        lastVd := v.or x.lastVd
        turnStart := s.slot
        turnSlots := (v.map fun w => max 1 (s.weight w) * s.sliceLen w - owed w).getD 0
        slices := 0
        ending := false } ∧
      ∀ w, if v = some w then (t.vdOf w).owed = 0 ∧ (t.vdOf w).logWait = false ∧ (t.vdOf w).short = isShort w
        else (t.vdOf w).owed = owed w
    let gives (v : Option Nat) : Prop := ∃ t, exec (.tenantTurn p) s = .next t ∧ given t v fun w => (s.vdOf w).owed
    (x.turnVd = none → exec (.sliceEnd p) s = .next s ∧ exec (.saveStartTimer p) s = .next s) ∧
    (∀ vd, x.turnVd = some vd →
      let atEnd := (x.endSlot ≤ s.slot ∧ s.competitor p vd = true) ∨ (s.weight vd = 0 ∧ s.outweighed p vd = true)
      let newSlice := x.turnStart + (x.slices + 1) * s.sliceLen vd ≤ s.slot
      let early := x.ending = false ∧ s.competitor p vd = true ∧ bit (s.hyp vd rVDSCHED) 63 = true ∧ (s.vdOf vd).short = false ∧
        x.endSlot ≤ s.slot + s.saveSum vd
      (s.logWaits vd = true → ∃ t, exec (.sliceEnd p) s = .next t ∧ ended t vd true true) ∧
      (s.logWaits vd = false → atEnd → ∃ t, exec (.sliceEnd p) s = .next t ∧ ended t vd (s.endsBySave vd) true) ∧
      (s.logWaits vd = false → ¬ atEnd → x.ending = true → ∃ t, exec (.sliceEnd p) s = .next t ∧
        ended t vd (s.endsBySave vd) (decide (x.endSlot ≤ s.slot))) ∧
      (s.logWaits vd = false → ¬ atEnd → x.ending = false → newSlice → ∃ t, exec (.sliceEnd p) s = .next t ∧
        t.part p = { x with slices := x.slices + 1 } ∧ (∀ q : Fin 8, q ≠ p → t.part q = s.part q) ∧
        (t.vdOf vd).short = isShort vd ∧ t.sheaves = s.sheaves ∧ t.ctxs = s.ctxs) ∧
      (s.logWaits vd = false → ¬ atEnd → x.ending = false → ¬ newSlice → exec (.sliceEnd p) s = .next s) ∧
      (early → ∃ t, exec (.saveStartTimer p) s = .next t ∧ ended t vd true false) ∧
      (¬ early → exec (.saveStartTimer p) s = .next s)) ∧
    (x.en = false → exec (.tenantTurn p) s = .next s) ∧
    (x.en = true → x.turnVd = none →
      (s.nextTenant p x.lastVd = none → exec (.tenantTurn p) s = .next s) ∧
      ∀ v, s.nextTenant p x.lastVd = some v → gives (some v)) ∧
    ∀ vd, x.en = true → x.turnVd = some vd →
      let held := s.sheaves.any fun e => e.2.vd == vd && e.2.st != .reserved && s.occupies e.1 e.2
      let work := s.hasWork p vd
      let late := s.choosesSave vd = false ∧ s.logging vd = false
      (work = false → gives (s.nextTenant p (some vd))) ∧
      (work = true → x.ending = true → held = true → exec (.tenantTurn p) s = .next s) ∧
      (work = true → x.ending = true → held = false → ∃ t owed, exec (.tenantTurn p) s = .next t ∧
        given t ((s.nextTenant p (some vd)).or (some vd)) owed ∧ (∀ w, w ≠ vd ∨ ¬ late → owed w = (s.vdOf w).owed) ∧
        (late → owed vd = s.slot - x.endSlot)) ∧
      (work = true → x.ending = false → x.endSlot ≤ s.slot → s.competitor p vd = false → gives (some vd)) ∧
      (work = true → x.ending = false → s.slot < x.endSlot ∨ s.competitor p vd = true → exec (.tenantTurn p) s = .next s)

/-- R227, R274, R275 and R278: every parked context of a deadlocked group takes DEADLOCK; a batch of a deterministic sheaf is
served in the order of its requests, a request that cannot complete moves to the next batch, and a `launch` enters its queue there
(one batch a slot: entry 100); the end of a context that holds mutexes is such a request (R146); and the host resumes a context
that waits for it. -/
def Obligations.DeadlockBatchesAndResume : Prop :=
  (∀ (s : State) (n : Nat),
    let g := s.groupOf n
    let inGroup (c : CtxId) (x : Ctx) : Prop := (c, x) ∈ s.ctxs ∧ c.sheaf ∈ g
    let dead := (∃ c x, inGroup c x) ∧ (∀ c x, inGroup c x → (s.parkedFor c x).isSome = true) ∧ s.groupBusy g = false
    ((s.sheafOf n).st ≠ .running ∨ ¬ dead → exec (.deadlockDetect n) s = .next s) ∧
    ((s.sheafOf n).st = .running → dead → s.tabsOk = true → ∃ t, exec (.deadlockDetect n) s = .next t ∧
      ∀ c x d, s.ctx c = some x →
        let entry := ((s.grainOf c).getD Grain.zero).handler
        (c.sheaf ∉ g → t.ctx c = some x) ∧
        (c.sheaf ∈ g → s.parkedFor c x = some d → x.pend = [] → x.out = none → s.vecBusy c = false → x.handler = false →
          x.dead = false → entry ≠ 0 → t.ctx c = some { x with
            trapcause := BitVec.ofNat 64 (0x39 + d % 256 * 2 ^ 8 + 2 ^ 16)
            trappc := addrField x.pc
            trapaddr := 0
            taking := none
            wait := .none
            parkedOn := 0
            handler := true
            pc := entry }))) ∧
  (∀ (s : State) (n q : Nat),
    let now := s.updSheaf n fun h => { h with servedAt := some s.slot }
    (s.batchReady n q = false → exec (.batchServe n q) s = .next s) ∧
    (∀ r, s.batchReady n q = true → ((s.sheafOf n).tasks.filter fun r => r.q == q) = [r] →
      exec (.batchServe n q) s = .next (now.serveReq n r)) ∧
    (∀ a b, s.batchReady n q = true → a.q = q → b.q = q →
      ((s.sheafOf n).tasks.filter fun r => r.q == q) = [a, b] ∨ ((s.sheafOf n).tasks.filter fun r => r.q == q) = [b, a] →
      a.grain < b.grain ∨ (a.grain = b.grain ∧ a.ctx < b.ctx) →
      exec (.batchServe n q) s = .next ((now.serveReq n a).serveReq n b)) ∧
    ∀ r x z i u,
      let c : CtxId := ⟨n, r.grain, r.ctx⟩
      let left := s.updSheaf n fun h => { h with tasks := h.tasks.filter fun x => x != r }
      let y := left.updCtx c fun x => { x with wait := .granted }
      let done := (z.conclude c i u).enterLaunch c i
      r.ends = false → s.ctx c = some x → y.prepare c = (z, .instr i) → retry i z = .next u →
        (done.requestLeft c = false → s.serveReq n r = { done with cur := s.cur }) ∧
        (done.requestLeft c = true → s.serveReq n r = left.updSheaf n fun h => { h with
          tasks := h.tasks ++ [{ r with q := r.q + 1 }] }) ∧
        (isLaunch i = false → done = z.conclude c i u)) ∧
  (∀ (s : State) (n : Nat) (r : TaskReq),
    let left := s.updSheaf n fun h => { h with tasks := h.tasks.filter fun x => x != r }
    (r.ends = true → s.serveReq n r = left.freeMutexes ⟨n, r.grain, r.ctx⟩) ∧
    (r.ends = false → s.ctx ⟨n, r.grain, r.ctx⟩ = none → s.serveReq n r = left)) ∧
  ∀ (s : State) (vd : Nat) (v : W64),
    let here (e : Nat × Sheaf) : Bool := e.2.vd == vd && e.2.sheafid == bits v 47 0 && e.2.st != .retired
    (s.sheaves.find? here = none → exec (.svcresWrite vd v) s = .next s) ∧
    ∀ e, s.sheaves.find? here = some e →
      let c : CtxId := ⟨e.1, bits v 59 48, bits v 63 60⟩
      ∃ t, exec (.svcresWrite vd v) s = .next t ∧ t = { s with ctxs := t.ctxs, sheaves := t.sheaves } ∧
        (∀ d, d ≠ c → t.ctx d = s.ctx d) ∧
        ∀ x, s.ctx c = some x →
          (x.hostStop = true → x.dead = false → t.ctx c = some { x with
            hostStop := false
            handler := if bits x.trapcause 7 0 = 0x32 then x.handler else false
            pc := codeAddr x.trappc }) ∧
          (x.hostStop = false ∨ x.dead = true → t.ctx c = some x)

/-! ### The host's side of global memory (12 R312 to R326) -/

/-- Of R312, R318, R320 to R322 and R326: writes of TLBINV1 and TLBINV2 queue an invalidation, or are dropped and noted
at 64; TLB_INVALIDATION_DONE removes what the oldest one covers once it has passed, with every walk-cache entry of the virtual
device and, at stage 2, all its U lines (entry 76, DEDUCED), as soon as the log has room for them (R296); PTDATA, S2PTDATA
and S2PTCLR write page-table entries, and a PTDATA without a place stores nothing (entry 21, DESIGN CHOICE); PAGE_MOVE is
checked and held, translated as it starts (entry 77, DEDUCED) and with ERR cleared (entry 22, DEDUCED), and PAGE_MOVE_DONE ends it;
PAGE_RESPONSE resumes the waiters of its slot or is stale (of an unknown PASID: entry 80), and ABANDONED_SLOT_REUSE frees one;
and ATS_TRANSLATION_COMPLETION and ATS_INVALIDATION_REQUEST fill and empty the ATC, the latter once no command, running or
saved, holds a translation of it. -/
def Obligations.InvalidationsAndPages : Prop :=
  (∀ (s : State) (vd : Nat) (stage2 : Bool) (v : W64),
    let q (t : State) : List W64 := if stage2 then (t.vdOf vd).inval2 else (t.vdOf vd).inval1
    let stat (t : State) : W64 := if stage2 then t.hyp vd rTLBSTAT2 else t.ctl vd rTLBSTAT1
    let bad := bit v 63 = false ∧ 4 < bits v 2 0
    let only (t : State) : Prop := t = { s with vds := t.vds } ∧ ∀ m, m ≠ vd → t.vdOf m = s.vdOf m
    let queues (l : List W64) : Prop := ∃ w, l = [w] ∧ bit w 63 = bit v 63 ∧ bits w 2 0 = bits v 2 0 ∧
      bits w 47 12 = bits v 47 12
    (bad → exec (.tlbinv1Write vd v) s = .next s ∧ exec (.tlbinv2Write vd v) s = .next s) ∧
    (¬ bad → 64 ≤ (s.vdOf vd).inval1.length → ∃ t, exec (.tlbinv1Write vd v) s = .next t ∧ only t ∧
      (t.vdOf vd).inval1 = (s.vdOf vd).inval1 ∧ t.ctl vd rTLBSTAT1 = s.ctl vd rTLBSTAT1 ||| 0x8000_0000_0000_0000) ∧
    (¬ bad → 64 ≤ (s.vdOf vd).inval2.length → ∃ t, exec (.tlbinv2Write vd v) s = .next t ∧ only t ∧
      (t.vdOf vd).inval2 = (s.vdOf vd).inval2 ∧ t.hyp vd rTLBSTAT2 = s.hyp vd rTLBSTAT2 ||| 0x8000_0000_0000_0000) ∧
    (¬ bad → (s.vdOf vd).inval1.length < 64 → ∃ t l, exec (.tlbinv1Write vd v) s = .next t ∧ only t ∧ queues l ∧
      (t.vdOf vd).inval1 = (s.vdOf vd).inval1 ++ l ∧ t.ctl vd rTLBSTAT1 = s.ctl vd rTLBSTAT1) ∧
    (¬ bad → (s.vdOf vd).inval2.length < 64 → ∃ t l, exec (.tlbinv2Write vd v) s = .next t ∧ only t ∧ queues l ∧
      (t.vdOf vd).inval2 = (s.vdOf vd).inval2 ++ l ∧ t.hyp vd rTLBSTAT2 = s.hyp vd rTLBSTAT2) ∧
    (q s = [] → exec (.tlbInvalidationDone vd stage2) s = .next s) ∧
    ∀ w ws, q s = w :: ws →
      let a := (invalRange w).1
      let n := (invalRange w).2
      (s.invalPassed vd stage2 a n = false → exec (.tlbInvalidationDone vd stage2) s = .next s) ∧
      (s.invalPassed vd stage2 a n = true → s.combineHeld (invalLine vd stage2 a n) = true →
        exec (.tlbInvalidationDone vd stage2) s = .next (s.waitLog vd)) ∧
      (s.invalPassed vd stage2 a n = true → s.combineHeld (invalLine vd stage2 a n) = false →
        ∃ t, exec (.tlbInvalidationDone vd stage2) s = .next t ∧ q t = ws ∧
        bits (stat t) 31 0 = (bits (stat s) 31 0 + 1) % 2 ^ 32 ∧ bit (stat t) 63 = bit (stat s) 63 ∧ t.ctxs = s.ctxs ∧
        (∀ core, ∀ e ∈ (t.coreOf core).tlb, tlbHit vd stage2 a n e = false) ∧
        (∀ tile, ∀ e ∈ (t.tileOf tile).l2, tlbHit vd stage2 a n e = false) ∧
        (∀ tile, ∀ x ∈ (t.tileOf tile).walk, x.1 ≠ vd) ∧
        (∀ core, ∀ e ∈ (s.coreOf core).tlb, tlbHit vd stage2 a n e = false → e ∈ (t.coreOf core).tlb) ∧
        (stage2 = false → t.dev.atc = s.dev.atc.filter fun x => !(x.1 == s.pasid vd && overlaps a n x.2.1 x.2.2.1)) ∧
        ∀ quad, ∀ u ∈ (t.quadOf quad).ulines, ¬ (u.vd = vd ∧ (stage2 = true ∨ overlaps a n u.va 64 = true)))) ∧
  (∀ (s : State) (vd : Nat) (v : W64), Mem.wf s.hbm = true →
    let place := bits (s.hyp vd rS2PTADDR) 38 3 * 8
    let u := s.flushHome place 8
    let old := word64 (u.devRead [] place 8)
    let other (t y : State) : Prop := t.ctxs = s.ctxs ∧ ∀ a, a < place ∨ place + 8 ≤ a → t.devByte [] a = y.devByte [] a
    (∃ t, exec (.s2ptdataWrite vd v) s = .next t ∧ word64 (t.devRead [] place 8) = v ∧ other t s ∧
      t.hyp vd rS2PTOLD = s.hyp vd rS2PTOLD) ∧
    (∃ t, exec (.s2ptclr vd v) s = .next t ∧ word64 (t.devRead [] place 8) = old &&& ~~~v ∧ other t u ∧
      t.hyp vd rS2PTOLD = old) ∧
    (s.ptPlace vd 5 = none → exec (.ptdataWrite vd v) s = .next s) ∧
    (∀ dpa key at_, s.ptPlace vd 5 = some (dpa, key, at_) → ∃ t, exec (.ptdataWrite vd v) s = .next t ∧ t.ctxs = s.ctxs ∧
      word64 (t.devRead (s.key key) dpa 8) = v)) ∧
  (∀ (s : State) (vd : Nat) (v : W64),
    let st := s.ctl vd rPGSTAT
    let starts := bit v 63 = true ∧ bit st 63 = false
    (¬ starts → exec (.pageMove vd v) s = .next s) ∧
    (starts → 2 < bits v 4 2 → ∃ t, exec (.pageMove vd v) s = .next t ∧ t = { s with vds := t.vds } ∧
      t.ctl vd rPGSTAT = st ||| 0x4000_0000_0000_0000 ∧ (t.vdOf vd).move = (s.vdOf vd).move) ∧
    (starts → bits v 4 2 ≤ 2 → ∃ t m, exec (.pageMove vd v) s = .next t ∧ (t.vdOf vd).move = some m ∧ m.toDevice = bit v 0 ∧
      m.host = bits (s.ctl vd rPGHOST) 63 12 * 4096 ∧ bit (t.ctl vd rPGSTAT) 63 = true ∧ bit (t.ctl vd rPGSTAT) 62 = false ∧
      (m.fault = none → m.pages.map Prod.fst = (List.range (invalBytes (bits v 4 2) / 4096)).map fun i =>
        (bits (s.ctl vd rPGVA) 56 12 + i) % 2 ^ 45 * 4096) ∧ t.ctxs = s.ctxs ∧ t.host = s.host) ∧
    ((s.vdOf vd).move = none → exec (.pageMoveDone vd) s = .next s) ∧
    (∀ m, (s.vdOf vd).move = some m → ∃ t, exec (.pageMoveDone vd) s = .next t ∧ (t.vdOf vd).move = none ∧
      bit (t.ctl vd rPGSTAT) 63 = false ∧ t.ctxs = s.ctxs ∧
      (∀ c d, m.fault = some (c, d) → m.pages = [] → bit (t.ctl vd rPGSTAT) 62 = true ∧ bits (t.ctl vd rPGSTAT) 7 0 = c % 256 ∧
        bits (t.ctl vd rPGSTAT) 15 8 = d % 256) ∧
      (m.fault = none → m.toDevice = true → t.ctl vd rPGSTAT = st &&& 0x7FFF_FFFF_FFFF_FFFF) ∧
      ∀ va dpa key, Mem.wf s.host = true → m.fault = none → m.toDevice = false → m.pages = [(va, dpa, key)] →
        (s.quads.all fun q => q.2.ulines.isEmpty) = true → s.hbmPoisoned dpa 4096 = false → dpa % 64 = 0 →
        t.ctl vd rPGSTAT = st &&& 0x7FFF_FFFF_FFFF_FFFF ∧
        ∀ o, o < 4096 → Mem.get t.host (m.host + o) = s.devByte (s.key key) (dpa + o))) ∧
  (∀ (s : State) (pasid : BitVec 20) (prg : BitVec 9) (ans : PageAnswer) (vd : Nat) (i : Fin 64),
    let r := (s.vdOf vd).pages[i]
    let fits := prg.toNat / 64 = bits (s.hyp vd rVDCTL) 34 32 ∧ r.used = true ∧ r.abandoned = none
    (s.vdOfPasid pasid.toNat = none → ∃ t, exec (.pageResponse pasid prg ans) s = .next t ∧ t = { s with vds := t.vds } ∧
      let m := s.staleVd pasid.toNat
      bits (t.hyp m rPRSTALE) 31 0 = min (bits (s.hyp m rPRSTALE) 31 0 + 1) (2 ^ 32 - 1)) ∧
    (s.vdOfPasid pasid.toNat = some vd → prg.toNat % 64 = i.val →
      (¬ fits → ∃ t, exec (.pageResponse pasid prg ans) s = .next t ∧ t = { s with vds := t.vds } ∧
        bits (t.hyp vd rPRSTALE) 31 0 = min (bits (s.hyp vd rPRSTALE) 31 0 + 1) (2 ^ 32 - 1)) ∧
      (fits → ∃ t, exec (.pageResponse pasid prg ans) s = .next t ∧
        (t.vdOf vd).pages[i] = PageReq.zero ∧ (∀ c, c ∉ r.waiters → t.ctx c = s.ctx c) ∧
        (ans = .success → ∀ c ∈ r.waiters, ∀ x, s.ctx c = some x → x.wait = .page →
          t.ctx c = some { x with taking := none, wait := .none }) ∧
        (ans ≠ .success → ∀ c ∈ r.waiters, ∀ x tr pc, s.ctx c = some x → x.wait = .page → x.taking = some (tr, pc) →
          x.handler = false → ((s.grainOf c).getD Grain.zero).handler ≠ 0 → ∃ y, t.ctx c = some y ∧ y.handler = true ∧
            y.pc = ((s.grainOf c).getD Grain.zero).handler ∧ bits y.trapcause 7 0 = tr.cause % 256 ∧ y.trapaddr = tr.addr ∧
            y.trappc = addrField pc ∧ y.wait = .none ∧ y.taking = none ∧ y.g = x.g ∧ y.q = x.q))) ∧
    ((∀ d, r.abandoned = some d → s.slot < d) → exec (.abandonedSlotReuse vd i) s = .next s) ∧
    (∀ d, r.abandoned = some d → d ≤ s.slot → ∃ t, exec (.abandonedSlotReuse vd i) s = .next t ∧ t = { s with vds := t.vds } ∧
      (t.vdOf vd).pages[i] = PageReq.zero ∧ ∀ j : Fin 64, j ≠ i → (t.vdOf vd).pages[j] = (s.vdOf vd).pages[j])) ∧
  ∀ (s : State) (c : CtxId) (x : Ctx) (o : Out) (a : CpyArgs) (vd n : Nat) (va host : W64), s.ctx c = some x → x.out = some o →
    cpyArgs o.instr = some a →
    let asks := o.aux ≠ 0 ∧ o.stage = .accepted
    let page := (o.aux - 1) * 4096
    let held := ((s.tiles.flatMap fun t => t.2.cmds) ++ s.savedCmds).any fun e => s.vdOfCtx e.ctx == vd &&
      e.trans.any fun h => (match cpyArgs e.instr with
       | some x => isHost x.kind
       | none => false) && overlaps (vaNat va) n h.1 h.2.1
    (¬ asks → ∀ b, exec (.atsTranslationCompletion c b host) s = .next s) ∧
    (asks → ∃ t, exec (.atsTranslationCompletion c true host) s = .next t ∧ t.ctx c = some { x with out := some { o with aux := 0 } } ∧
      (s.pasid (s.vdOfCtx c), page, 4096, host.toNat / 4096 * 4096) ∈ t.dev.atc ∧ t.dev.atc.length ≤ 1024 ∧ (∀ d, d ≠ c → t.ctx d = s.ctx d) ∧ sameMem s t) ∧
    (asks → x.handler = false → (∀ p ∈ x.pend, p.tag = o.tag) → s.vecBusy c = false → ∃ t, exec (.atsTranslationCompletion c false host) s = .next t ∧
      ∃ y, t.ctx c = some y ∧ y.out = none ∧ y.pv = true ∧ y.saved.isSome = true ∧
        (∃ k : Nat, y.taking = some (⟨0x10, 7, vaW page, true, true, k⟩, x.pc)) ∧ (y.wait = .page ∨ y.wait = .pageSlot)) ∧
    (held = true → exec (.atsInvalidationRequest vd va n) s = .next s) ∧
    (held = false → ∃ t, exec (.atsInvalidationRequest vd va n) s = .next t ∧
      t.dev.atc = (s.dev.atc.filter fun x => !(x.1 == s.pasid vd && overlaps (vaNat va) n x.2.1 x.2.2.1)) ∧
      t.dev.toHost = s.dev.toHost ++ [(4, BitVec.ofNat 64 (vd * 2 ^ 57 + vaNat va))] ∧ t.ctxs = s.ctxs ∧ sameMem s t)

/-- R9, R321, R325, R326 and R363: what a host access that is not one aligned 8-byte access does; a register write before and
after bring-up, by the access codes; a read of the signal window; and the reset and the zeroing pass of a virtual device. That a
reset ends its sheaves and drops its circuits is entry 78 (DEDUCED), and which tiles the pass clears is entry 79 (DEDUCED). -/
def Obligations.HostAccessesAndReset : Prop :=
  (∀ (s : State) (page : RegPage) (off n : Nat) (v : W64) (vd : Nat) (o : BitVec 20),
    (off % 8 = 0 → n = 8 → exec (.hostUnsupportedAccess page off n) s = .next s) ∧
    (off % 8 ≠ 0 ∨ n ≠ 8 → ∃ t w, exec (.hostUnsupportedAccess page off n) s = .next t ∧ t.dev.hostRead = none ∧
      t.dev.toHost = s.dev.toHost ++ [(8, w)] ∧ t.ctxs = s.ctxs ∧ sameMem s t) ∧
    (off % 8 ≠ 0 → exec (.registerWrite page off v) s = .next s) ∧
    (s.bootReady = false → exec (.registerWrite (.control vd) off v) s = .next s ∧
      exec (.registerWrite (.hyper vd) off v) s = .next s) ∧
    (s.bootReady = true →
      (∃ t, exec (.registerWrite (.control vd) rEVQCTL v) s = .next t ∧ bit (t.ctl vd rEVQCTL) 63 = bit v 63 ∧
        bits (t.ctl vd rEVQCTL) 26 16 = bits v 26 16 ∧ bits (t.ctl vd rEVQCTL) 3 0 = bits v 3 0 ∧
        bit (t.ctl vd rEVQCTL) 62 = (bit (s.ctl vd rEVQCTL) 62 && !bit v 62)) ∧
      (∃ t, exec (.registerWrite (.control vd) rEVQTAIL v) s = .next t ∧ t.ctl vd rEVQTAIL = s.ctl vd rEVQTAIL) ∧
      (∃ t, exec (.registerWrite (.control vd) rEVQHEAD v) s = .next t ∧ t.ctl vd rEVQHEAD = v) ∧
      (∃ t, exec (.registerWrite (.hyper vd) rS2BASE v) s = .next t ∧ bits (t.hyp vd rS2BASE) 38 12 = bits v 38 12 ∧
        bits (t.hyp vd rS2BASE) 11 0 = bits (s.hyp vd rS2BASE) 11 0) ∧
      ∃ t, exec (.registerWrite (.control vd) (rLQBASE 0) v) s = .next t ∧ bits (t.ctl vd (rLQBASE 0)) 63 7 = bits v 63 7) ∧
    (o.toNat % 8 ≠ 0 → ∃ t w, exec (.signalWindowRead vd o) s = .next t ∧ t.dev.hostRead = none ∧
      t.dev.toHost = s.dev.toHost ++ [(8, w)] ∧ t.ctxs = s.ctxs ∧ sameMem s t) ∧
    ∀ y bs, o.toNat % 8 = 0 →
      s.gread none vd (sx (BitVec.ofNat 57 (bits (s.ctl vd rSIGWBASE) 56 20 * 2 ^ 20 + o.toNat))) 8 = (y, .ok bs) →
      ∃ t, exec (.signalWindowRead vd o) s = .next t ∧ t.dev.hostRead = some (word64 bs) ∧ t.ctxs = y.ctxs ∧ sameMem y t) ∧
  ∀ (s : State) (vd : Nat) (v : W64),
    let old := s.hyp vd rVDCTL
    (bit v 62 = false → ∃ t, exec (.vdReset vd v) s = .next t ∧ t = { s with vds := t.vds } ∧
      bit (t.hyp vd rVDCTL) 63 = bit v 63 ∧ bits (t.hyp vd rVDCTL) 19 0 = bits v 19 0 ∧
      bits (t.hyp vd rVDCTL) 34 32 = bits old 34 32 ∧ bit (t.hyp vd rVDCTL) 61 = bit old 61) ∧
    (bit v 62 = true → ∃ t, exec (.vdReset vd v) s = .next t ∧ bit (t.hyp vd rVDCTL) 63 = bit v 63 ∧
      bits (t.hyp vd rVDCTL) 34 32 = (bits old 34 32 + 1) % 8 ∧ bit (t.hyp vd rVDCTL) 61 = false ∧
      (t.vdOf vd).zeroing.isSome = true ∧
      (∀ n, (s.sheafOf n).vd = vd → (s.sheafOf n).st ≠ .retired → (t.sheafOf n).st = .retired ∧
        ∀ c, c.sheaf = n → t.ctx c = none) ∧
      (∀ k ∈ t.dev.circuits, k.vd = vd → False) ∧
      (∀ i : Fin 64, (t.vdOf vd).pages[i] =
        let p := (s.vdOf vd).pages[i]
        if p.used = true ∧ p.abandoned = none then { p with waiters := [], abandoned := some (s.slot + 2 ^ 24) } else p) ∧
      t.hbm = s.hbm) ∧
    ((s.vdOf vd).zeroing = none → exec (.zeroingDone vd) s = .next s) ∧
    ∀ d rs, (s.vdOf vd).zeroing = some (d, rs) →
      (s.slot < d → exec (.zeroingDone vd) s = .next s) ∧
      (d ≤ s.slot → ∃ t, exec (.zeroingDone vd) s = .next t ∧ bit (t.hyp vd rVDCTL) 61 = true ∧ (t.vdOf vd).zeroing = none ∧
        t.ctxs = s.ctxs ∧ (∀ r ∈ rs, r.2.1 % 4096 = 0 → ∀ a, r.1 ≤ a → a < r.1 + r.2.1 → Mem.get t.hbm a = 0) ∧
        (Mem.wf s.hbm = true → ∀ a, (∀ r ∈ rs, a < r.1 ∨ r.1 + r.2.1 ≤ a) → Mem.get t.hbm a = Mem.get s.hbm a) ∧
        ∀ tile, tile ∈ (s.vdOf vd).usedTiles → (s.tileOf tile).vd = some vd ∨ (∀ e ∈ s.sheaves,
            (s.sheafOf e.1).vd ≠ vd → s.occupies e.1 e.2 = true → tile ∉ e.2.tiles) → (t.tileOf tile).vd = none ∧
          ∀ a, a / 2 ^ 22 = tile → Mem.get t.lmem a = 0) ∧
      (d ≤ s.slot → ∀ t, exec (.zeroingDone vd) s = .next t → ∀ tile, tile ∈ (s.vdOf vd).usedTiles → ∀ a : Fin 64,
        (∀ n, (s.tileOf tile).acc[a].sheaf = some n → (s.sheafOf n).vd = vd) → (t.tileOf tile).acc[a] = .free)

/-! ### Keys, resets, bring-up, attestation and errors (12 R316; 15 R364 to R370) -/

/-- R316, R321 and R364 to R370: keys are loaded and cleared; a cold reset; the stages of bring-up, of which the first two
verify the signatures and the security versions of their images (opaque constants: entry 7), and each of the others may meet
the one error of its own; the function-level resets; attestation captures its nonce and writes its report; and an error in a
context's registers stops it for good. A key command is performed at its write (entry 81, DEDUCED), ATTADDR is read at the end of
its command (entry 82, DEDUCED), a new command clears ERR (entry 22, DEDUCED), and a cold reset leaves host memory as it is
(entry 87, DEDUCED). -/
def Obligations.KeysResetsAndAttestation : Prop :=
  (∀ (s : State) (k : BitVec 13),
    let data := (List.range 8).map fun n => s.mg (rKEYDATA n)
    let keyed (t : State) (v : Option (List W64)) : Prop := t = { s with dev := t.dev } ∧ Tab.find t.dev.keys k.toNat = v ∧
      (∀ j, j ≠ k.toNat → Tab.find t.dev.keys j = Tab.find s.dev.keys j) ∧ bit (t.mg rKEYSTAT) 63 = true
    (k = 0 → exec (.keyLoad k) s = .next s ∧ exec (.keyClear k) s = .next s) ∧
    (k ≠ 0 → (∃ t, exec (.keyLoad k) s = .next t ∧ keyed t (some data)) ∧ ∃ t, exec (.keyClear k) s = .next t ∧ keyed t none) ∧
    ∃ t, exec .keyCommandDone s = .next t ∧ t = { s with dev := t.dev } ∧ t.mg rKEYSTAT = 0 ∧ t.dev.keys = s.dev.keys) ∧
  (∀ (s : State) (error : BitVec 8),
    let stat := s.mg rBOOTSTAT
    let stage := bits stat 58 56
    let err := s.stageError error.toNat
    let ended := bit stat 63 = true ∨ bit stat 62 = true
    (∃ t, exec .coldReset s = .next t ∧ t.ctxs = [] ∧ t.grains = [] ∧ t.sheaves = [] ∧ t.vds = [] ∧ t.tiles = [] ∧
      t.cores = [] ∧ t.quads = [] ∧ t.slot = 0 ∧ t.mg rBOOTSTAT = 0 ∧ t.dev.keys = [] ∧ t.dev.circuits = [] ∧
      t.host = s.host ∧ t.dev.svnMin = s.dev.svnMin ∧ t.dev.halted = false ∧
      t.dev.powerSlots = s.dev.powerSlots + s.slot) ∧
    ((∃ i ∈ stageImages stage, s.imageSigned i = false) → err = 1) ∧
    ((∀ i ∈ stageImages stage, s.imageSigned i = true) →
      ((∃ i ∈ stageImages stage, (Config.firmwareSvn s.dev.boots i).toNat < s.dev.svnMin.getD i 0) → err = 2) ∧
      ((∀ i ∈ stageImages stage, s.dev.svnMin.getD i 0 ≤ (Config.firmwareSvn s.dev.boots i).toNat) → err = error.toNat)) ∧
    (ended ∨ error.toNat ∉ stageErrors stage → exec (.bringupStageDone error) s = .next s) ∧
    (¬ ended → error.toNat ∈ stageErrors stage → err ≠ 0 → ∃ t, exec (.bringupStageDone error) s = .next t ∧ bit (t.mg rBOOTSTAT) 62 = true ∧
      bit (t.mg rBOOTSTAT) 63 = false ∧ bits (t.mg rBOOTSTAT) 55 48 = err ∧ bits (t.mg rBOOTSTAT) 58 56 = stage) ∧
    (¬ ended → error.toNat ∈ stageErrors stage → err = 0 → stage ≤ 4 → ∃ t, exec (.bringupStageDone error) s = .next t ∧ t = { s with dev := t.dev } ∧
      bits (t.mg rBOOTSTAT) 58 56 = stage + 1 ∧ bit (t.mg rBOOTSTAT) 63 = (stage == 4) ∧ bit (t.mg rBOOTSTAT) 62 = false ∧
      t.dev.svnMin.length = s.dev.svnMin.length ∧
      ∀ i, i < s.dev.svnMin.length → t.dev.svnMin.getD i 0 =
        if stage = 1 then max (s.dev.svnMin.getD i 0) (Config.firmwareSvn s.dev.boots i).toNat else s.dev.svnMin.getD i 0)) ∧
  (∀ (s : State),
    let ends (t : State) (vd : Nat) : Prop := bits (t.hyp vd rVDCTL) 34 32 = (bits (s.hyp vd rVDCTL) 34 32 + 1) % 8 ∧
      bit (t.hyp vd rVDCTL) 61 = false ∧ (t.vdOf vd).zeroing.isSome = true ∧
      ∀ n, (s.sheafOf n).vd = vd → (s.sheafOf n).st ≠ .retired → (t.sheafOf n).st = .retired ∧ ∀ c, c.sheaf = n → t.ctx c = none
    (∀ vd, ∃ t, exec (.vfFlr vd) s = .next t ∧ ends t vd ∧ t.dev.keys = s.dev.keys) ∧
    ∃ t, exec .pf0Flr s = .next t ∧ (∀ vd, vd < 32 → ends t vd) ∧ t.dev.keys = [] ∧
      (∀ n : Fin 8, (t.part n).en = false ∧ (t.part n).clus0 = (s.part n).clus0 ∧ (t.part n).ramp = (s.part n).ramp) ∧
      (∀ p : Fin 16, t.dev.ports[p].en = false) ∧ t.mg rBOOTSTAT = s.mg rBOOTSTAT) ∧
  (∀ (s : State) (op : Fin 2),
    let i : Instr := if op = 0 then .attReport else .attCertChain
    let stat := s.mg rATTSTAT
    let nonce := (List.range 8).map fun n => s.mg (rATTNONCE n)
    (bit stat 63 = true ∨ s.attUp = false → exec i s = .next s) ∧
    (bit stat 63 = false → s.attUp = true → ∃ t, exec i s = .next t ∧ t = { s with dev := t.dev } ∧
      t.dev.attest = some (op.val, nonce) ∧ bit (t.mg rATTSTAT) 63 = true ∧ bit (t.mg rATTSTAT) 62 = false) ∧
    (s.dev.attest = none → exec .attestDone s = .next s) ∧
    ∀ words, s.dev.attest = some (0, words) → words.length = 8 → s.dev.svnMin.length = 6 → Mem.wf s.host = true →
      ∃ t, exec .attestDone s = .next t ∧ bit (t.mg rATTSTAT) 63 = false ∧ bits (t.mg rATTSTAT) 12 0 = 5075 ∧
        t.dev.attest = none ∧ (s.report words).length = 5075 ∧
        (∀ o, o < 5075 → Mem.get t.host (bits (s.mg rATTADDR) 63 13 * 8192 + o) = (s.report words).getD o 0) ∧
        (∀ o : Fin 64, (s.report words).getD (320 + o.val) 0 = (words.flatMap fun w => toBytes 8 w.toNat).getD o.val 0) ∧
        (s.report words).take 4 = [0x54, 0x54, 0x41, 0x4B] ∧
        ∀ a, a < bits (s.mg rATTADDR) 63 13 * 8192 → Mem.get t.host a = Mem.get s.host a) ∧
  ∀ (s : State) (c : CtxId),
    (s.ctx c = none → exec (.uncorrectableRegisterError c) s = .next s) ∧
    ∀ x, s.ctx c = some x → x.pend = [] → x.out = none → s.vecBusy c = false → s.coreOfCtx c < 2 ^ 29 →
      ∃ y z, exec (.uncorrectableRegisterError c) s = .next (y.postCtx c 0x09 0x0E 0) ∧ y.ctx c = some z ∧
        z = { x with
          trapcause := z.trapcause
          trappc := addrField x.pc
          trapaddr := 0
          taking := none
          wait := .none
          parkedOn := 0
          hostStop := true
          dead := true } ∧
        bits z.trapcause 7 0 = 0x0E ∧ bits (y.mg (rERRCNT 0)) 63 32 = min (bits (s.mg (rERRCNT 0)) 63 32 + 1) (2 ^ 32 - 1) ∧
        bit (y.mg rERRLOG) 63 = true ∧ (∀ d, d ≠ c → y.ctx d = s.ctx d) ∧ sameMem s y

/-! ### Power, current, partitions' registers and ageing (14; 15 R371) -/

/-- R349 to R351 and R371: a quad's transition between operating points, in the order of its direction, with the guard that
ageing has found.
R352 to R354: a tile's array ramps its duty up and down in steps of four cycles, each ramp granted only while the sum of
the ramps that move its way stays within SLEW, and after a tile-op that ends in the cycle has ended. The supply changes at the
end of its ramp, and equal points keep their order (entry 86, DESIGN CHOICE); the coding of an ageing sample is entry 84 (DESIGN
CHOICE). -/
def Obligations.OperatingPointsAndSlewLimit : Prop :=
  (∀ (s : State) (n : Nat),
      let q := s.quadOf n
      let want := min (s.quadReq n) (min q.thermCeil q.capCeil)
      let goal (k g : Nat) : Nat := pointMv.getD k 620 + g
      let ramp (a b : Nat) : Nat := (max a b - min a b) * 400
      let sets (i : Instr) (v : Quad) : Prop := ∃ t, exec i s = .next t ∧ t = { s with quads := t.quads } ∧ t.quadOf n = v ∧
        ∀ m, m ≠ n → t.quadOf m = s.quadOf m
      (q.phase ≠ 0 ∨ want = q.point → exec (.pointTransition n) s = .next s) ∧
      (q.phase = 0 → q.point < want → sets (.pointTransition n) { q with
        target := want, guard := q.newGuard, phase := 1, phaseEnd := s.slot + ramp q.supply (goal want q.newGuard) }) ∧
      (q.phase = 0 → want < q.point → sets (.pointTransition n) { q with
        target := want, guard := q.newGuard, phase := 2, phaseEnd := s.slot + 256 }) ∧
      (s.slot < q.phaseEnd ∨ q.phase = 0 ∨ q.phase = 2 → exec (.supplyRampDone n) s = .next s) ∧
      (q.phaseEnd ≤ s.slot → q.phase = 1 → sets (.supplyRampDone n) { q with
        supply := goal q.target q.guard, phase := 2, phaseEnd := s.slot + 256 }) ∧
      (q.phaseEnd ≤ s.slot → q.phase = 3 → sets (.supplyRampDone n) { q with supply := goal q.target q.guard, phase := 0 }) ∧
      (s.slot < q.phaseEnd ∨ q.phase ≠ 2 → exec (.pointTransitionDone n) s = .next s) ∧
      (q.phaseEnd ≤ s.slot → q.phase = 2 → sets (.pointTransitionDone n) { q with
        point := q.target
        phase := if q.supply = goal q.target q.guard then 0 else 3
        phaseEnd := s.slot + ramp q.supply (goal q.target q.guard) }) ∧
      (q.newGuard = q.guard ∨ q.phase ≠ 0 ∨ s.slot < q.guardSince + 2 ^ 31 → exec (.guardForceTransition n) s = .next s) ∧
      (q.newGuard ≠ q.guard → q.phase = 0 → q.guardSince + 2 ^ 31 ≤ s.slot →
        let raise := q.supply < goal q.point q.newGuard
        (raise → sets (.guardForceTransition n) { q with
          target := q.point, guard := q.newGuard, phase := 1, phaseEnd := s.slot + ramp q.supply (goal q.point q.newGuard) }) ∧
        (¬ raise → sets (.guardForceTransition n) { q with
          target := q.point, guard := q.newGuard, phase := 2, phaseEnd := s.slot + 256 })) ∧
      (∀ found, s.bootStage ≠ 4 → s.slot < s.dev.lastAge + 2 ^ 38 → exec (.ageingSample found) s = .next s) ∧
      ∀ f, s.bootStage = 4 ∨ s.dev.lastAge + 2 ^ 38 ≤ s.slot → ∃ t, exec (.ageingSample [(n, f)]) s = .next t ∧
        t.dev.lastAge = s.slot ∧ (t.quadOf n).newGuard = min (f % 64) 40 ∧ (t.quadOf n).top = min q.top (7 - f / 64) ∧
        (t.quadOf n).guard = q.guard ∧ (t.quadOf n).capCeil = min q.capCeil (t.quadOf n).top ∧
        (∀ d, d < 8 → bits (t.readMgmt (rAGESTAT d)) 31 0 = s.powerHours) ∧
        (∀ m, m ≠ n → t.quadOf m = s.quadOf m) ∧ t.ctxs = s.ctxs ∧ sameMem s t) ∧
  (∀ (s : State) (tile : Nat),
      let p := s.tilePart tile
      let now := s.tileCycle tile
      let duty (i : Instr) (d : Duty) : Prop := ∃ t, exec i s = .next t ∧ (t.tileOf tile).duty = d ∧ t.ctxs = s.ctxs ∧
        sameMem s t ∧ (t.tileOf tile).acc = (s.tileOf tile).acc ∧ ∀ m, m ≠ tile → t.tileOf m = s.tileOf m
      let mayUp := s.opOver tile = false ∧ firstWaiting p.lastUp ((s.partTiles tile).filter s.wantsUp) = some tile ∧
        s.slewSum tile Duty.rising + rampWeight (s.rampOf tile) ≤ p.slew
      let mayDown := s.opOver tile = false ∧ firstWaiting p.lastDown ((s.partTiles tile).filter s.wantsDown) = some tile ∧
        s.slewSum tile Duty.falling + rampWeight (s.rampOf tile) ≤ p.slew
      (¬ mayUp → exec (.slewGrantUp tile) s = .next s) ∧
      (mayUp → (s.tileOf tile).duty = .rest → duty (.slewGrantUp tile) (.up 0 (now + 4))) ∧
      (∀ i, mayUp → (s.tileOf tile).duty = .hold i →
        duty (.slewGrantUp tile) (if 7 ≤ i then .full else .up (i + 1) (now + 4))) ∧
      (¬ mayDown → exec (.slewGrantDown tile) s = .next s) ∧
      (mayDown → (s.tileOf tile).duty = .full → duty (.slewGrantDown tile) (.down 7 (now + 4))) ∧
      (mayDown → (s.tileOf tile).duty = .hold 0 → duty (.slewGrantDown tile) .rest) ∧
      (∀ i, mayDown → (s.tileOf tile).duty = .hold (i + 1) → duty (.slewGrantDown tile) (.down i (now + 4))) ∧
      (∀ i fin, (s.tileOf tile).duty = .up i fin ∨ (s.tileOf tile).duty = .down i fin ∨ (s.tileOf tile).duty = .land i fin →
        now < fin → exec (.rampStepEnd tile) s = .next s) ∧
      (∀ i fin, (s.tileOf tile).duty = .up i fin → s.opOver tile = true → exec (.rampStepEnd tile) s = .next s) ∧
      (∀ i fin, (s.tileOf tile).duty = .up i fin → fin ≤ now → s.opOver tile = false →
        (s.arrayWork tile = false → duty (.rampStepEnd tile) (.hold i)) ∧
        (s.arrayWork tile = true → duty (.rampStepEnd tile) (if 7 ≤ i then .full else .up (i + 1) (fin + 4)))) ∧
      (∀ i fin, (s.tileOf tile).duty = .down i fin → fin ≤ now →
        duty (.rampStepEnd tile) (if i = 0 then .rest else .down (i - 1) (fin + 4))) ∧
      (∀ i fin, (s.tileOf tile).duty = .land i fin → fin ≤ now → duty (.rampStepEnd tile) (.hold i)) ∧
      ((s.tileOf tile).duty = .rest ∨ (s.tileOf tile).duty = .full ∨ (∃ i, (s.tileOf tile).duty = .hold i) →
        exec (.rampStepEnd tile) s = .next s))

/-- R293, R356 to R359: the registers of partitions, slices and limits; the thermal samples; and the power cap. That ceilings
rise where there is no cap is entry 83 (DEDUCED), and the coding of a thermal sample is entry 84 (DESIGN CHOICE). -/
def Obligations.PowerRegistersAndLimits : Prop :=
  (∀ (s : State) (n : Fin 8) (v : W64) (vd : Nat),
    let p := s.part n
    let clash := ∃ m : Fin 8, m ≠ n ∧ (s.part m).en = true ∧
      (((s.part m).clus0 &&& p.clus0) ≠ 0 ∨ ((s.part m).clus1 &&& p.clus1) ≠ 0)
    (bit v 63 = true → clash → exec (.ptctlWrite n v) s = .next s) ∧
    (bit v 63 = false ∨ ¬ clash → ∃ t, exec (.ptctlWrite n v) s = .next t ∧ t.part n = { p with ctl := (t.part n).ctl } ∧
      bit (t.part n).ctl 63 = bit v 63 ∧ bits (t.part n).ctl 47 32 = bits v 47 32 ∧
      bits (t.part n).ctl 15 8 = (if bits v 15 8 = 0 then bits p.ctl 15 8 else bits v 15 8) ∧
      (∀ m : Fin 8, m ≠ n → t.part m = s.part m) ∧ t.ctxs = s.ctxs) ∧
    (rampOk v = false → exec (.ptrampWrite n v) s = .next s) ∧
    (rampOk v = true → ∃ t, exec (.ptrampWrite n v) s = .next t ∧ t = { s with dev := t.dev } ∧
      t.part n = { p with ramp := v &&& 0xFFFF_FFFF } ∧ ∀ m : Fin 8, m ≠ n → t.part m = s.part m) ∧
    (rampOk v = true ↔ (∀ i, i < 8 → bits v (4 * i + 3) (4 * i) ≤ 8) ∧
      (∀ i, i < 7 → bits v (4 * i + 3) (4 * i) ≤ bits v (4 * i + 7) (4 * i + 4)) ∧ bits v 31 28 ≠ 0) ∧
    (let old := s.hyp vd rVDSCHED
     let refused := bits v 31 0 = 0 ∨ (bits v 50 48 ≠ bits old 50 48 ∧ s.hasPlaced vd = true)
     (refused → ∃ t, exec (.vdschedWrite vd v) s = .next t ∧ t = { s with vds := t.vds } ∧
       t.hyp vd rVDSCHED = old ||| 0x4000_0000_0000_0000) ∧
     (¬ refused → ∃ t, exec (.vdschedWrite vd v) s = .next t ∧ bit (t.hyp vd rVDSCHED) 63 = bit v 63 ∧
       bits (t.hyp vd rVDSCHED) 50 48 = bits v 50 48 ∧ bits (t.hyp vd rVDSCHED) 39 0 = bits v 39 0 ∧
       bit (t.hyp vd rVDSCHED) 62 = (bit old 62 && !bit v 62) ∧ t.ctxs = s.ctxs)) ∧
    (∃ t, exec (.thermlimWrite v) s = .next t ∧ t = { s with dev := t.dev } ∧
      t.mg rTHERMLIM = BitVec.ofNat 64 (max 70 (min (bits v 7 0) (if Config.module_ then 100 else 110)))) ∧
    ∃ t, exec (.pwrcapWrite v) s = .next t ∧ t = { s with dev := t.dev } ∧
      t.mg rPWRCAP = BitVec.ofNat 64 (min (bits v 15 0) (if Config.module_ then 1800 else 2000))) ∧
  (∀ (s : State) (temps : List (Nat × Nat)) (core deg : Nat),
    let limit := bits (s.mg rTHERMLIM) 7 0
    let sampled := s.dev.lastTherm + 20000 ≤ s.slot
    let one : Instr := .thermalSample [(core, deg)]
    (¬ sampled → exec (.thermalSample temps) s = .next s) ∧
    (sampled → (∃ x ∈ temps, 125 < x.2) → ∃ t, exec (.thermalSample temps) s = .next t ∧ t = { s with dev := t.dev } ∧
      t.dev.halted = true) ∧
    (sampled → (∀ x ∈ temps, x.2 ≤ 125 ∧ x.2 ≤ limit) → (s.quads.map Prod.fst).Nodup →
      ∃ t, exec (.thermalSample temps) s = .next t ∧ t.ctxs = s.ctxs ∧ t.grains = s.grains ∧ sameMem s t ∧
        ∀ q x, Tab.find s.quads q = some x →
          let cool := ∀ i, i < 4 → ∃ d, Tab.find temps (4 * q + i) = some d ∧ d + 5 ≤ limit
          (cool → x.thermCeil < 7 → t.quadOf q = { x with thermCeil := x.thermCeil + 1 }) ∧
          (¬ cool ∨ 7 ≤ x.thermCeil → t.quadOf q = x)) ∧
    (∀ e, sampled → limit < deg → deg ≤ 125 → s.grainAt core = some e → e.2.moving = false →
      (s.idleFor core = none → ∃ t, exec one s = .next t ∧ t.ctxs = s.ctxs ∧
        t.quadOf (core / 4) = { s.quadOf (core / 4) with thermCeil := (s.quadOf (core / 4)).thermCeil - 1 } ∧
        ∀ q, q ≠ core / 4 → t.quadOf q = s.quadOf q) ∧
      ∀ target, s.idleFor core = some target → s.tabsOk = true → ∃ t, exec one s = .next t ∧
        (t.coreOf core).moveTo = some (target, 0) ∧ Tab.find t.grains e.1 = some { e.2 with moving := true } ∧
        ∀ c, (c.sheaf, c.grain) ≠ e.1 → t.ctx c = s.ctx c)) ∧
  ∀ (s : State) (watts : Nat) (parts : List Nat),
    let avg := bits (s.mg rPWRSTAT) 47 32
    let cap := bits (s.mg rPWRCAP) 15 0
    let due := s.dev.lastCap + 200000 ≤ s.slot
    let fair := ∀ n : Fin 8, s.overShare n = false
    let adjusts (f : Nat → Quad) : Prop := ∃ t, exec .powerCapAdjust s = .next t ∧ t.dev.lastCap = s.slot ∧ t.ctxs = s.ctxs ∧
      sameMem s t ∧ ∀ q x, Tab.find s.quads q = some x → t.quadOf q = f q
    (s.slot < s.dev.lastAvg + 2000000 → exec (.powerWindow watts parts) s = .next s) ∧
    (s.dev.lastAvg + 2000000 ≤ s.slot → ∃ t, exec (.powerWindow watts parts) s = .next t ∧ t = { s with dev := t.dev } ∧
      bits (t.mg rPWRSTAT) 47 32 = watts % 2 ^ 16 ∧ t.dev.partAvg = parts ∧ t.dev.lastAvg = s.slot) ∧
    (¬ due → exec .powerCapAdjust s = .next s) ∧
    (due → fair → (s.quads.map Prod.fst).Nodup →
      (cap = 0 ∨ avg * 100 < cap * 95 → adjusts fun q =>
        { s.quadOf q with capCeil := min (s.quadOf q).top ((s.quadOf q).capCeil + 1) }) ∧
      (cap ≠ 0 → avg ≤ cap → cap * 95 ≤ avg * 100 → adjusts s.quadOf) ∧
      (cap ≠ 0 → cap < avg →
        let all := s.quadsIn fun _ => true
        adjusts fun q => if q ∈ all ∧ ∀ r ∈ all, s.wantPoint r ≤ s.wantPoint q then
          { s.quadOf q with capCeil := (s.quadOf q).capCeil - 1 } else s.quadOf q))

/-! ### Encodings, the step and the invariants -/

/-- R8, R45, R48 to R63: words that the spec writes out, and what they stand for; and one word for each check of R64 that a
decoder makes, refused with its cause and DETAIL. -/
def Obligations.KnownWordsDecode : Prop :=
  let al (d : Dst) : Head := ⟨.always, d, 0⟩
  let no : Head := al .none
  let refused (n w : Nat) (c : DecodeCause) (d : Nat) : Prop := decode (toBytes n w) = .error ⟨c, d⟩
  decodeTableWord 64 0x00008C0C01100004 = some (.add ⟨.on false (.g 4) 0, .g 6, 0⟩ (.q 0) (.reg (.q 1))) ∧
  decodeTableWord 96 0x3EC0000000004C200000C341 = some (.ffma (al .q) (.q 0) (.g 9) (.lit 0x3EC00000)) ∧
  decodeTableWord 64 0x0001008400004508 = some (.shl (al (.g 2)) (.g 2) (.imm 1)) ∧
  decodeTableWord 64 0xFFFC002200D00070 = some (.br ⟨.on false (.g 3) 0, .none, 0⟩ 0xFFFC) ∧
  decodeTableWord 96 0x00000005000000E200000571 = some (.loopI no (.g 3) 5) ∧
  decodeTableWord 64 0x0000002200000374 = some (.nop no) ∧
  decodeTableWord 32 3 = some .padWord ∧
  decodeTableWord 64 0x002628880000D1A0 = some (.amoCas (al (.g 4)) ⟨2, true, some .dev, true, .g 5⟩ (.g 6)) ∧
  decodeTableWord 64 0x08621062000000B8 = some (.ringDef no (.g 1) (.g 2) 2 3 0 2) ∧
  decodeTableWord 128 0x00000000000C4A3300040022000003C2 =
    some (.vfma no ⟨.mem 3 true, .mem 1 true, .mem 2 true, .scalar (.g 4), .f32, .rne, 0, 0⟩) ∧
  decodeTableWord 64 0x00100002000001D8 = some (.vsetvlImm (al (.g 1)) 16) ∧
  decodeTableWord 128 0x00010003FFE4408500000022000001E2 =
    some (.mma no ⟨0, 128, 1, 63, 63, .bf16, .bf16, false, 0, 2, 5⟩) ∧
  decodeTableWord 128 0x000000000080809200031062000000F2 =
    some (.cpy no (.g 1) (.g 2) (.g 3) ⟨.g2l, 0, true, 0, 0, .quad, .rne, false, .fp32, .bf16, 2⟩) ∧
  decodeTableWord 64 0x00020162000002F0 = some (.wpwait no 2 (.g 5)) ∧
  decodeTableWord 128 0x00001046000000F6 = some (.cktReq (al (.g 3)) (.g 1) (.g 2) .tile) ∧
  decodeTableWord 64 0x0005002200000BF8 = some (.pwrReq no 5) ∧
  refused 16 0x3E2AAAAB .illegalLength 1 ∧ refused 8 0x00004C200000C341 .illegalLength 2 ∧
  refused 16 0x3EC00000 .illegalInstruction 1 ∧ refused 16 0x00004C20 .illegalInstruction 1 ∧
  refused 16 0x0000000C00000D04 .illegalInstruction 2 ∧ refused 16 0x0000000C00000005 .illegalInstruction 3 ∧
  refused 16 0x0000000C01000004 .illegalInstruction 4 ∧ refused 16 0x0000002400000004 .illegalInstruction 5 ∧
  refused 16 0x0000000C00010004 .illegalInstruction 6 ∧ refused 16 0x0000000C00001880 .illegalInstruction 7 ∧
  refused 16 0x0001000C00000004 .illegalInstruction 8 ∧ refused 16 0x0001000C00008004 .illegalInstruction 9

/-- R45 to R63: the words of a well-formed instruction, with whatever bytes follow them in their fetch block, decode to that
instruction and its length. -/
def Obligations.DecodeOfEncode : Prop :=
  ∀ (i : Instr) (rest : List Byte), i.wellFormed = true → decode (encode i ++ rest) = .ok (i, (encode i).length)

/-- R45 to R64: what the decoder accepts is well-formed, lies within its fetch block, and is encoded by exactly the bytes
that it was read from. -/
def Obligations.DecodedIsWellFormed : Prop :=
  ∀ (bs : List Byte) (i : Instr) (n : Nat), decode bs = .ok (i, n) →
    i.wellFormed = true ∧ n ≤ bs.length ∧ encode i = bs.take n

/-- R46, R64: a step at a context's turn fetches at its PC and runs the decoded instruction, and afterwards Darnel (R99) and
the trace (R362) take their part, which is none with DEBUG and the trace off; a word that does not decode takes its trap, and
a failing fetch its fault. What contexts of lower CTXID issued in this cycle comes first (`State.lowerFirst`, entry 131, DEDUCED),
which is nothing where none of them issued. Which context has its turn is the model's schedule (entry 1). -/
def Obligations.StepRunsDecodedInstruction : Prop :=
  ∀ (s : State) (c : CtxId) (ms : List Move) (x : Ctx),
    let now : State := { s with sched := ms, cur := c }
    let t := now.lowerFirst c
    ((∀ e ∈ s.ctxsOf c.sheaf c.grain, e.1.ctx < c.ctx → e.2.lastIssue ≠ s.cycleOf (s.coreOfCtx c / 4)) → t = now) ∧
    (s.sched = .issue c :: ms → s.dev.halted = false → s.ctx c = some x → s.live c x = true → x.mustResume = false →
    x.taking = none → x.deferred = [] → s.mayIssue c x = true →
    (∀ y bs i n, t.fetchBlock c x.pc = (y, .ok bs) → decode bs = .ok (i, n) →
      (∀ u, exec i y = .next u → step s = .next (y.conclude c i u)) ∧
      (∀ f, exec i y = .fault f → step s = .fault f) ∧
      (∀ r, exec i y = .refused r → step s = .refused r) ∧
      (∀ u, exec i y = .next u → x.holdLevel = none → (y.sheafOf c.sheaf).debug = false → bit (u.ctl (u.vdOfCtx c) rTRCTL) 63 = false →
        step s = .next u)) ∧
    (∀ y bs e, t.fetchBlock c x.pc = (y, .ok bs) → decode bs = .error e →
      step s = exec (.illegalInstruction e.cause (BitVec.ofNat 8 e.detail)) y) ∧
    ∀ y f, t.fetchBlock c x.pc = (y, .error f) → step s = .next (y.fetchFault c f x.pc))

/-- R12, R42, R124, R316, R326, R337, R345, R350, R356 and R364: what a cold reset leaves where the spec gives a value. The
operating point 0 and its 400 mV supply are the model's choice (entry 4). -/
def Obligations.ResetState : Prop :=
  let s := State.reset
  s.ctxs = [] ∧ s.grains = [] ∧ s.sheaves = [] ∧ s.memOk = true ∧ s.tabsOk = true ∧
  s.bootReady = false ∧ s.readReg .mgmt rBOOTSTAT = 0 ∧ s.mg rFABCFG = 8 ∧
  (∀ off, off ≠ rBOOTSTAT → s.readReg .mgmt off = 0) ∧ (∀ vd off, s.readReg (.control vd) off = 0 ∧ s.readReg (.hyper vd) off = 0) ∧
  (∀ vd, bits (s.ctl vd rVDMODE) 47 32 = 16 ∧ bits (s.ctl vd rVDMODE) 31 0 = 4096 ∧ bits (s.ctl vd rVDMODE) 63 48 = 0 ∧
    bits (s.ctl vd rTRCTL) 23 8 = 4096 ∧ bit (s.ctl vd rTRCTL) 63 = false ∧ s.hyp vd rVDCTL = 0 ∧
    bits (s.hyp vd rDIEMAP) 63 48 = 0xFFFF ∧ bits (s.hyp vd rDIEMAP) 31 0 = 0xFFFF_FFFF ∧
    bits (s.hyp vd rVDSCHED) 39 32 = 1 ∧ bits (s.hyp vd rVDSCHED) 31 0 = 4096 ∧ bit (s.hyp vd rVDSCHED) 63 = false) ∧
  (∀ (n : Nat) (i : Fin 8), (s.coreOf n).bankpwr[i] = 0xAAAA_AAAA_AAAA_AAAA) ∧
  (∀ n, (s.quadOf n).thermCeil = 7 ∧ (s.quadOf n).capCeil = 7 ∧ (s.quadOf n).point = 0 ∧ (s.quadOf n).supply = 400) ∧
  (∀ n : Fin 8, (s.part n).en = false ∧ (s.part n).slew = 16 ∧ (s.part n).ramp = 0x8765_4321 ∧ (s.part n).clus0 = 0 ∧ (s.part n).clus1 = 0) ∧
  (∀ p : Fin 16, (s.dev.ports[p]).cfg = 0) ∧ s.dev.keys = [] ∧ s.dev.circuits = [] ∧ s.dev.halted = false ∧
  ∀ (n : Nat) (a : Fin 64), (s.tileOf n).acc[a] = .free

/-- Entry 2: every step keeps every memory in its canonical form, so that equal memories are equal data. -/
def Obligations.StepKeepsMemoryCanonical : Prop :=
  ∀ s t : State, s.memOk = true → step s = .next t → t.memOk = true

/-- R12 and R13: every step keeps each context and each grain in one entry of its table. -/
def Obligations.StepKeepsTablesDistinct : Prop :=
  ∀ s t : State, s.tabsOk = true → step s = .next t → t.tabsOk = true
end

