-- ==== Sys2Proof/Laws/Codec.lean ====
section
/-! SUPPORT. The codes of the operand fields: their bounds, that reading a code gives back the operand, and that the
fields of an instruction's number are the fields that made it. -/

namespace Sys2Proof.Laws

/-! ### Bounds of codes -/

theorem src_code_lt (a : Src) : a.code < 32 := by
  cases a with
  | g n => have := n.isLt; simp only [Src.code]; omega
  | q n => have := n.isLt; simp only [Src.code]; omega
theorem dst_code_le (d : Dst) : d.code ≤ 17 := by
  cases d with
  | g n => have := n.isLt; simp only [Dst.code]; omega
  | q => simp [Dst.code]
  | none => simp [Dst.code]
theorem guard_ge_lt (g : Guard) : g.ge < 2 := by cases g <;> simp [Guard.ge]
theorem guard_gn_lt (g : Guard) : g.gn < 2 := by cases g with
  | always => simp [Guard.gn]
  | on n r b => cases n <;> simp [Guard.gn]
theorem guard_greg_lt (g : Guard) : g.greg < 32 := by cases g with
  | always => simp [Guard.greg]
  | on n r b => exact src_code_lt r
theorem guard_gbit_lt (g : Guard) : g.gbit < 64 := by cases g with
  | always => simp [Guard.gbit]
  | on n r b => exact b.isLt
theorem size_code_lt (x : Size) : x.code < 4 := by cases x <;> simp [Size.code]
theorem scope_code_lt (x : Scope) : 0 < x.code ∧ x.code < 8 := by cases x <;> simp [Scope.code]
theorem ordCode_lt (o : Option Scope) : ordCode o < 8 := by
  cases o with
  | none => simp [ordCode]
  | some x => exact (scope_code_lt x).2
theorem rm_code_lt (x : Rm) : x.code < 3 := by cases x <;> simp [Rm.code]
theorem fmt_code_lt (x : Fmt) : x.code < 8 := by cases x <;> simp [Fmt.code]
theorem cvt_code_lt (x : CvtKind) : x.code < 8 := by cases x <;> simp [CvtKind.code]
theorem cpyKind_code_lt (x : CpyKind) : x.code < 5 := by cases x <;> simp [CpyKind.code]
theorem collOp_code_lt (x : CollOp) : x.code < 3 := by cases x <;> simp [CollOp.code]
theorem cktKind_code_lt (x : CktKind) : x.code < 4 := by cases x <;> simp [CktKind.code]
theorem vty_code_lt (x : VTy) : x.code.toNat < 8 := by cases x <;> decide
theorem bitOf_lt (b : Bool) : bitOf b < 2 := by cases b <;> simp [bitOf]
theorem mem_am_lt (m : MemOp) : m.am < 3 := by cases m <;> simp [MemOp.am]
theorem mem_ptr_lt (m : MemOp) : m.ptr < 8 := by cases m <;> simp [MemOp.ptr]
theorem mem_imm_lt (m : MemOp) : m.immF < 65536 := by
  cases m with
  | off p v => exact v.isLt
  | _ => simp [MemOp.immF]
theorem desc_code_lt (d : VDesc) : d.code < 32 := by
  cases d with
  | mem p post => have := p.isLt; cases post <;> simp [VDesc.code] <;> omega
  | _ => simp [VDesc.code]
theorem desc_reg_lt (d : VDesc) : d.reg < 32 := by
  cases d with
  | scalar r => exact src_code_lt r
  | _ => simp [VDesc.reg]

/-! ### Reading a code gives the operand -/

theorem finOf_val {n : Nat} (h : 0 < n) (x : Fin n) : finOf n h x.val = x := by
  ext; simp [finOf, Nat.mod_eq_of_lt x.isLt]
theorem ptrOf_val (p : Fin 8) : ptrOf p.val = p := finOf_val _ p
theorem srcOf_code (a : Src) : srcOf a.code = a := by
  cases a with
  | g n =>
    have e : n.val / 16 % 2 = 0 := by have := n.isLt; omega
    simp only [srcOf, Src.code, e, if_true, finOf_val]
  | q n =>
    have e : (16 + n.val) / 16 % 2 ≠ 0 := by have := n.isLt; omega
    have f : (16 + n.val) % 16 = n.val := by have := n.isLt; omega
    simp only [srcOf, Src.code, e, if_false, finOf, f]
theorem dstOf_code (d : Dst) : dstOf d.code = d := by
  cases d with
  | g n => have := n.isLt; simp [dstOf, Dst.code, finOf, this, Nat.mod_eq_of_lt this]
  | q => simp [dstOf, Dst.code]
  | none => simp [dstOf, Dst.code]
theorem guardOf_codes (g : Guard) : guardOf g.ge g.gn g.greg g.gbit = g := by
  cases g with
  | always => rfl
  | on n r b => cases n <;> simp [guardOf, Guard.ge, Guard.gn, Guard.greg, Guard.gbit, srcOf_code, finOf_val]
theorem sizeOf_code (x : Size) : sizeOf_ x.code = x := by cases x <;> rfl
theorem scopeOf_code (x : Scope) : scopeOf x.code = x := by cases x <;> rfl
theorem ordOf_code (o : Option Scope) : ordOf (ordCode o) = o := by
  cases o with
  | none => rfl
  | some x => cases x <;> rfl
theorem rmOf_code (x : Rm) : rmOf x.code = x := by cases x <;> rfl
theorem fmtOf_code (x : Fmt) : fmtOf x.code = x := by cases x <;> rfl
theorem vtyOf_code (x : VTy) : vtyOf x.code.toNat = x := by cases x <;> rfl
theorem cvtOf_code (x : CvtKind) : cvtOf x.code = x := by cases x <;> rfl
theorem cpyKindOf_code (x : CpyKind) : cpyKindOf x.code = x := by cases x <;> rfl
theorem collOpOf_code (x : CollOp) : collOpOf x.code = x := by cases x <;> rfl
theorem cktKindOf_code (x : CktKind) : cktKindOf x.code = x := by cases x <;> rfl
theorem bitOf_eq_one (b : Bool) : (bitOf b == 1) = b := by cases b <;> rfl
theorem memOf_codes (m : MemOp) : memOf m.am m.ptr m.immF = m := by
  cases m <;> simp [memOf, MemOp.am, MemOp.ptr, MemOp.immF, ptrOf_val]
theorem descOf_codes (d : VDesc) : descOf d.code d.reg = d := by
  cases d with
  | absent => rfl
  | mem p post =>
    have := p.isLt
    cases post
    · have e : (8 + p.val) / 8 = 1 := by omega
      have f : (8 + p.val) % 8 = p.val := by omega
      simp [descOf, VDesc.code, e, ptrOf, finOf, f]
    · have e : (16 + p.val) / 8 = 2 := by omega
      have f : (16 + p.val) % 8 = p.val := by omega
      simp [descOf, VDesc.code, e, ptrOf, finOf, f]
  | scalar r => simp [descOf, VDesc.code, VDesc.reg, srcOf_code]
theorem descZero_codes (d : VDesc) : descZero d.code d.reg = true := by
  cases d with
  | absent => rfl
  | mem p post =>
    have := p.isLt
    cases post
    · have e : (8 + p.val) / 8 = 1 := by omega
      simp [descZero, VDesc.code, VDesc.reg, e]
    · have e : (16 + p.val) / 8 = 2 := by omega
      simp [descZero, VDesc.code, VDesc.reg, e]
  | scalar r => simp [descZero, VDesc.code]

/-! ### Digits -/

theorem digit_lt {a b m n : Nat} (h : a < m) (k : b < n) : a + m * b < m * n :=
  lt_of_lt_of_le (by rw [Nat.mul_succ]; omega : a + m * b < m * (b + 1)) (Nat.mul_le_mul_left m k)
theorem digit_mod {a b m : Nat} (h : a < m) : (a + m * b) % m = a := by
  rw [Nat.add_mul_mod_self_left, Nat.mod_eq_of_lt h]
theorem digit_div {a b m : Nat} (h : a < m) : (a + m * b) / m = b := by
  rw [Nat.add_mul_div_left _ _ (by omega : 0 < m), Nat.div_eq_of_lt h, Nat.zero_add]

/-! ### Second words -/

theorem vargs_word_lt (v : VArgs) : v.word < 2 ^ 64 :=
  digit_lt (n := 2 ^ 59) (desc_code_lt v.d) <| digit_lt (n := 2 ^ 54) (desc_code_lt v.x) <|
  digit_lt (n := 2 ^ 49) (desc_code_lt v.y) <| digit_lt (n := 2 ^ 44) (desc_code_lt v.z) <|
  digit_lt (n := 2 ^ 40) (lt_trans (vty_code_lt v.ty) (by decide)) <|
  digit_lt (n := 2 ^ 38) (lt_trans (rm_code_lt v.rm) (by decide)) <| digit_lt (n := 2 ^ 32) v.opt.isLt v.imm.isLt
theorem margs_word_lt (m : MArgs) : m.word < 2 ^ 64 :=
  digit_lt (n := 2 ^ 58) m.acc.isLt <| digit_lt (n := 2 ^ 55) m.pa.isLt <| digit_lt (n := 2 ^ 52) m.pb.isLt <|
  digit_lt (n := 2 ^ 51) (bitOf_lt m.ta) <| digit_lt (n := 2 ^ 47) (lt_trans (fmt_code_lt m.fa) (by decide)) <|
  digit_lt (n := 2 ^ 43) (lt_trans (fmt_code_lt m.fb) (by decide)) <| digit_lt (n := 2 ^ 37) m.mm.isLt <|
  digit_lt (n := 2 ^ 31) m.nn.isLt <| digit_lt (n := 2 ^ 23) m.kb.isLt <| digit_lt (n := 2 ^ 9) m.woff.isLt m.opt.isLt
theorem cpyArgs_word_lt (e : CpyArgs) : e.word < 2 ^ 59 :=
  digit_lt (n := 2 ^ 56) e.ch.isLt <| digit_lt (n := 2 ^ 52) (lt_trans (fmt_code_lt e.fs) (by decide)) <|
  digit_lt (n := 2 ^ 48) (lt_trans (fmt_code_lt e.fm) (by decide)) <| digit_lt (n := 2 ^ 47) (bitOf_lt e.fpg) <|
  digit_lt (n := 2 ^ 45) (lt_trans (rm_code_lt e.rm) (by decide)) <| digit_lt (n := 2 ^ 42) (scope_code_lt e.scope).2 <|
  digit_lt (n := 2 ^ 39) (lt_trans (cpyKind_code_lt e.kind) (by decide)) <|
  digit_lt (n := 2 ^ 36) (lt_trans e.plv.isLt (by decide)) <| digit_lt (n := 2 ^ 35) (bitOf_lt e.rst) <|
  digit_lt (n := 2 ^ 19) e.rows.isLt e.lstr.isLt
theorem gathArgs_word_lt (e : GathArgs) : e.word < 2 ^ 49 := by
  have h := digit_lt (n := 2 ^ 46) (show 0 < 8 by decide) <| digit_lt (n := 2 ^ 42) (lt_trans (fmt_code_lt e.fs) (show 8 < 16 by decide)) <|
    digit_lt (n := 2 ^ 38) (lt_trans (fmt_code_lt e.fm) (show 8 < 16 by decide)) <| digit_lt (n := 2 ^ 37) (bitOf_lt e.fpg) <|
    digit_lt (n := 2 ^ 35) (lt_trans (rm_code_lt e.rm) (show 3 < 4 by decide)) <| digit_lt (n := 2 ^ 32) (scope_code_lt e.scope).2 <|
    digit_lt (n := 2 ^ 16) e.count.isLt e.rowel.isLt
  rw [Nat.zero_add] at h
  exact h
theorem collArgs_word_lt (e : CollArgs) : e.word < 2 ^ 35 :=
  digit_lt (n := 2 ^ 32) e.ch.isLt <| digit_lt (n := 2 ^ 21) (lt_trans (fmt_code_lt e.fs) (by decide)) <|
  digit_lt (n := 2 ^ 18) (scope_code_lt e.scope).2 <| digit_lt (n := 2 ^ 15) (lt_trans (collOp_code_lt e.op) (by decide)) <|
  digit_lt (n := 2 ^ 12) (lt_trans e.plv.isLt (by decide)) <| digit_lt (n := 2 ^ 6) e.p.isLt e.rank.isLt

/-! ### Fields within their widths -/

/-- Every field lies within its width, and what follows the first 64 bits within the length (R48). -/
structure InWidth (f : Fields) : Prop where
  len : f.len < 3
  opm : f.opm < 64
  fn : f.fn < 256
  la : f.la < 16
  ge : f.ge < 2
  gn : f.gn < 2
  greg : f.greg < 32
  gbit : f.gbit < 64
  dst : f.dst < 32
  sa : f.sa < 32
  sb : f.sb < 32
  imm : f.imm < 65536
  hi : f.hi < 2 ^ (8 * lenBytes f.len - 64)

theorem inWidth_of (h : Head) {len opm fn sa sb imm hi : Nat} (h1 : len < 3) (h2 : opm < 64) (h3 : fn < 256) (h4 : sa < 32)
    (h5 : sb < 32) (h6 : imm < 65536) (h7 : hi < 2 ^ (8 * lenBytes len - 64)) :
    InWidth { h.fields len opm fn with sa := sa, sb := sb, imm := imm, hi := hi } where
  len := h1
  opm := h2
  fn := h3
  la := h.la.isLt
  ge := guard_ge_lt _
  gn := guard_gn_lt _
  greg := guard_greg_lt _
  gbit := guard_gbit_lt _
  dst := lt_of_le_of_lt (dst_code_le _) (by decide)
  sa := h4
  sb := h5
  imm := h6
  hi := h7

/-- The digits of an instruction's number, taken off one after the other. -/
theorem fieldsOf_digits {f : Fields} (w : InWidth f) {r0 r1 r2 r3 r4 r5 r6 r7 r8 r9 r10 r11 : Nat}
    (e11 : f.imm + 65536 * f.hi = r11) (e10 : f.sb + 32 * r11 = r10) (e9 : f.sa + 32 * r10 = r9) (e8 : f.dst + 32 * r9 = r8)
    (e7 : f.gbit + 64 * r8 = r7) (e6 : f.greg + 32 * r7 = r6) (e5 : f.gn + 2 * r6 = r5) (e4 : f.ge + 2 * r5 = r4)
    (e3 : f.la + 16 * r4 = r3) (e2 : f.fn + 256 * r3 = r2) (e1 : f.opm + 64 * r2 = r1) (e0 : f.len + 4 * r1 = r0) : fieldsOf r0 = f := by
  have h0 : f.len < 4 := lt_trans w.len (by decide)
  have q1 : r0 / 4 = r1 := by rw [← e0, digit_div h0]
  have q2 : r0 / 256 = r2 := by rw [show (256 : Nat) = 4 * 64 from rfl, ← Nat.div_div_eq_div_mul, q1, ← e1, digit_div w.opm]
  have q3 : r0 / 65536 = r3 := by rw [show (65536 : Nat) = 256 * 256 from rfl, ← Nat.div_div_eq_div_mul, q2, ← e2, digit_div w.fn]
  have q4 : r0 / 1048576 = r4 := by rw [show (1048576 : Nat) = 65536 * 16 from rfl, ← Nat.div_div_eq_div_mul, q3, ← e3, digit_div w.la]
  have q5 : r0 / 2097152 = r5 := by rw [show (2097152 : Nat) = 1048576 * 2 from rfl, ← Nat.div_div_eq_div_mul, q4, ← e4, digit_div w.ge]
  have q6 : r0 / 4194304 = r6 := by rw [show (4194304 : Nat) = 2097152 * 2 from rfl, ← Nat.div_div_eq_div_mul, q5, ← e5, digit_div w.gn]
  have q7 : r0 / 134217728 = r7 := by rw [show (134217728 : Nat) = 4194304 * 32 from rfl, ← Nat.div_div_eq_div_mul, q6, ← e6, digit_div w.greg]
  have q8 : r0 / 8589934592 = r8 := by rw [show (8589934592 : Nat) = 134217728 * 64 from rfl, ← Nat.div_div_eq_div_mul, q7, ← e7, digit_div w.gbit]
  have q9 : r0 / 274877906944 = r9 := by rw [show (274877906944 : Nat) = 8589934592 * 32 from rfl, ← Nat.div_div_eq_div_mul, q8, ← e8, digit_div w.dst]
  have q10 : r0 / 8796093022208 = r10 := by rw [show (8796093022208 : Nat) = 274877906944 * 32 from rfl, ← Nat.div_div_eq_div_mul, q9, ← e9, digit_div w.sa]
  have q11 : r0 / 281474976710656 = r11 := by rw [show (281474976710656 : Nat) = 8796093022208 * 32 from rfl, ← Nat.div_div_eq_div_mul, q10, ← e10, digit_div w.sb]
  have q12 : r0 / 18446744073709551616 = f.hi := by rw [show (18446744073709551616 : Nat) = 281474976710656 * 65536 from rfl, ← Nat.div_div_eq_div_mul, q11, ← e11, digit_div w.imm]
  have m0 : r0 % 4 = f.len := by rw [← e0, digit_mod h0]
  have m1 : r1 % 64 = f.opm := by rw [← e1, digit_mod w.opm]
  have m2 : r2 % 256 = f.fn := by rw [← e2, digit_mod w.fn]
  have m3 : r3 % 16 = f.la := by rw [← e3, digit_mod w.la]
  have m4 : r4 % 2 = f.ge := by rw [← e4, digit_mod w.ge]
  have m5 : r5 % 2 = f.gn := by rw [← e5, digit_mod w.gn]
  have m6 : r6 % 32 = f.greg := by rw [← e6, digit_mod w.greg]
  have m7 : r7 % 64 = f.gbit := by rw [← e7, digit_mod w.gbit]
  have m8 : r8 % 32 = f.dst := by rw [← e8, digit_mod w.dst]
  have m9 : r9 % 32 = f.sa := by rw [← e9, digit_mod w.sa]
  have m10 : r10 % 32 = f.sb := by rw [← e10, digit_mod w.sb]
  have m11 : r11 % 65536 = f.imm := by rw [← e11, digit_mod w.imm]
  simp only [fieldsOf, Nat.reducePow, q1, q2, q3, q4, q5, q6, q7, q8, q9, q10, q11, q12, m0, m1, m2, m3, m4, m5, m6, m7, m8, m9, m10, m11]

/-- The fields of the number that fields within their widths make are those fields. -/
theorem fieldsOf_word {f : Fields} (w : InWidth f) : fieldsOf f.word = f :=
  fieldsOf_digits w rfl rfl rfl rfl rfl rfl rfl rfl rfl rfl rfl rfl

/-- The number of fields within their widths has no bit above the instruction's length. -/
theorem word_lt {f : Fields} (w : InWidth f) : f.word < 2 ^ (8 * lenBytes f.len) := by
  have h1 : f.len < 4 := lt_trans w.len (by decide)
  have e : 8 * lenBytes f.len = 64 + (8 * lenBytes f.len - 64) := by
    have := w.len
    obtain h | h | h : f.len = 0 ∨ f.len = 1 ∨ f.len = 2 := by omega
    all_goals rw [h]; rfl
  have hi := w.hi
  rw [e, Nat.pow_add]
  generalize 2 ^ (8 * lenBytes f.len - 64) = k at hi
  have h := digit_lt h1 <| digit_lt w.opm <| digit_lt w.fn <| digit_lt w.la <| digit_lt w.ge <| digit_lt w.gn <|
    digit_lt w.greg <| digit_lt w.gbit <| digit_lt w.dst <| digit_lt w.sa <| digit_lt w.sb <| digit_lt w.imm hi
  have p : (2 : Nat) ^ 64 = 4 * 64 * 256 * 16 * 2 * 2 * 32 * 64 * 32 * 32 * 32 * 65536 := by norm_num
  unfold Fields.word
  rw [p]
  simpa only [Nat.mul_assoc] using h

/-! ### Bytes -/

theorem toBytes_length (n w : Nat) : (toBytes n w).length = n := by
  induction n generalizing w with
  | zero => rfl
  | succ n ih => simp [toBytes, ih]

theorem ofBytes_toBytes (n w : Nat) : ofBytes (toBytes n w) = w % 2 ^ (8 * n) := by
  induction n generalizing w with
  | zero => simp [toBytes, ofBytes, Nat.mod_one]
  | succ n ih =>
    simp only [toBytes, ofBytes, ih, BitVec.toNat_ofNat]
    have e : 2 ^ (8 * (n + 1)) = 256 * 2 ^ (8 * n) := by rw [Nat.mul_succ, Nat.pow_add]; omega
    rw [e, Nat.mod_mul]

end Sys2Proof.Laws
end

