-- ==== Sys2Proof/Laws/Exec.lean ====
section
/-! SUPPORT. The dispatch, one equation for each instruction and hardware step: its meaning. -/

namespace Sys2Proof.Laws

open Sys2Proof.Machine

variable (s : State)

@[simp] theorem exec_padWord : exec (.padWord) s = execPadWord s := rfl
@[simp] theorem exec_add (x0 : Head) (x1 : Src) (x2 : IOp) : exec (.add x0 x1 x2) s = execAdd x0 x1 x2 s := rfl
@[simp] theorem exec_sub (x0 : Head) (x1 : Src) (x2 : IOp) : exec (.sub x0 x1 x2) s = execSub x0 x1 x2 s := rfl
@[simp] theorem exec_mul (x0 : Head) (x1 : Src) (x2 : IOp) : exec (.mul x0 x1 x2) s = execMul x0 x1 x2 s := rfl
@[simp] theorem exec_mulh (x0 : Head) (x1 : Src) (x2 : IOp) : exec (.mulh x0 x1 x2) s = execMulh x0 x1 x2 s := rfl
@[simp] theorem exec_mulhu (x0 : Head) (x1 : Src) (x2 : IOp) : exec (.mulhu x0 x1 x2) s = execMulhu x0 x1 x2 s := rfl
@[simp] theorem exec_div (x0 : Head) (x1 : Src) (x2 : IOp) : exec (.div x0 x1 x2) s = execDiv x0 x1 x2 s := rfl
@[simp] theorem exec_divu (x0 : Head) (x1 : Src) (x2 : IOp) : exec (.divu x0 x1 x2) s = execDivu x0 x1 x2 s := rfl
@[simp] theorem exec_rem (x0 : Head) (x1 : Src) (x2 : IOp) : exec (.rem x0 x1 x2) s = execRem x0 x1 x2 s := rfl
@[simp] theorem exec_remu (x0 : Head) (x1 : Src) (x2 : IOp) : exec (.remu x0 x1 x2) s = execRemu x0 x1 x2 s := rfl
@[simp] theorem exec_minS (x0 : Head) (x1 : Src) (x2 : IOp) : exec (.minS x0 x1 x2) s = execMinS x0 x1 x2 s := rfl
@[simp] theorem exec_maxS (x0 : Head) (x1 : Src) (x2 : IOp) : exec (.maxS x0 x1 x2) s = execMaxS x0 x1 x2 s := rfl
@[simp] theorem exec_minu (x0 : Head) (x1 : Src) (x2 : IOp) : exec (.minu x0 x1 x2) s = execMinu x0 x1 x2 s := rfl
@[simp] theorem exec_maxu (x0 : Head) (x1 : Src) (x2 : IOp) : exec (.maxu x0 x1 x2) s = execMaxu x0 x1 x2 s := rfl
@[simp] theorem exec_andW (x0 : Head) (x1 : Src) (x2 : IOp) : exec (.andW x0 x1 x2) s = execAndW x0 x1 x2 s := rfl
@[simp] theorem exec_orW (x0 : Head) (x1 : Src) (x2 : IOp) : exec (.orW x0 x1 x2) s = execOrW x0 x1 x2 s := rfl
@[simp] theorem exec_xorW (x0 : Head) (x1 : Src) (x2 : IOp) : exec (.xorW x0 x1 x2) s = execXorW x0 x1 x2 s := rfl
@[simp] theorem exec_andn (x0 : Head) (x1 : Src) (x2 : IOp) : exec (.andn x0 x1 x2) s = execAndn x0 x1 x2 s := rfl
@[simp] theorem exec_orn (x0 : Head) (x1 : Src) (x2 : IOp) : exec (.orn x0 x1 x2) s = execOrn x0 x1 x2 s := rfl
@[simp] theorem exec_shl (x0 : Head) (x1 : Src) (x2 : IOp) : exec (.shl x0 x1 x2) s = execShl x0 x1 x2 s := rfl
@[simp] theorem exec_shr (x0 : Head) (x1 : Src) (x2 : IOp) : exec (.shr x0 x1 x2) s = execShr x0 x1 x2 s := rfl
@[simp] theorem exec_sra (x0 : Head) (x1 : Src) (x2 : IOp) : exec (.sra x0 x1 x2) s = execSra x0 x1 x2 s := rfl
@[simp] theorem exec_rot (x0 : Head) (x1 : Src) (x2 : IOp) : exec (.rot x0 x1 x2) s = execRot x0 x1 x2 s := rfl
@[simp] theorem exec_clz (x0 : Head) (x1 : Src) : exec (.clz x0 x1) s = execClz x0 x1 s := rfl
@[simp] theorem exec_ctz (x0 : Head) (x1 : Src) : exec (.ctz x0 x1) s = execCtz x0 x1 s := rfl
@[simp] theorem exec_popc (x0 : Head) (x1 : Src) : exec (.popc x0 x1) s = execPopc x0 x1 s := rfl
@[simp] theorem exec_bext (x0 : Head) (x1 : Src) (x2 : IOp) : exec (.bext x0 x1 x2) s = execBext x0 x1 x2 s := rfl
@[simp] theorem exec_bins (x0 : Head) (x1 : Src) (x2 : Src) (x3 : IOp) : exec (.bins x0 x1 x2 x3) s = execBins x0 x1 x2 x3 s := rfl
@[simp] theorem exec_sext (x0 : Head) (x1 : Src) (x2 : IOp) : exec (.sext x0 x1 x2) s = execSext x0 x1 x2 s := rfl
@[simp] theorem exec_zext (x0 : Head) (x1 : Src) (x2 : IOp) : exec (.zext x0 x1 x2) s = execZext x0 x1 x2 s := rfl
@[simp] theorem exec_sel (x0 : Head) (x1 : Src) (x2 : Src) (x3 : IOp) : exec (.sel x0 x1 x2 x3) s = execSel x0 x1 x2 x3 s := rfl
@[simp] theorem exec_ceq (x0 : Head) (x1 : Src) (x2 : IOp) : exec (.ceq x0 x1 x2) s = execCeq x0 x1 x2 s := rfl
@[simp] theorem exec_cne (x0 : Head) (x1 : Src) (x2 : IOp) : exec (.cne x0 x1 x2) s = execCne x0 x1 x2 s := rfl
@[simp] theorem exec_clt (x0 : Head) (x1 : Src) (x2 : IOp) : exec (.clt x0 x1 x2) s = execClt x0 x1 x2 s := rfl
@[simp] theorem exec_cle (x0 : Head) (x1 : Src) (x2 : IOp) : exec (.cle x0 x1 x2) s = execCle x0 x1 x2 s := rfl
@[simp] theorem exec_cltu (x0 : Head) (x1 : Src) (x2 : IOp) : exec (.cltu x0 x1 x2) s = execCltu x0 x1 x2 s := rfl
@[simp] theorem exec_cleu (x0 : Head) (x1 : Src) (x2 : IOp) : exec (.cleu x0 x1 x2) s = execCleu x0 x1 x2 s := rfl
@[simp] theorem exec_fadd (x0 : Head) (x1 : Src) (x2 : FOp) : exec (.fadd x0 x1 x2) s = execFadd x0 x1 x2 s := rfl
@[simp] theorem exec_fsub (x0 : Head) (x1 : Src) (x2 : FOp) : exec (.fsub x0 x1 x2) s = execFsub x0 x1 x2 s := rfl
@[simp] theorem exec_fmul (x0 : Head) (x1 : Src) (x2 : FOp) : exec (.fmul x0 x1 x2) s = execFmul x0 x1 x2 s := rfl
@[simp] theorem exec_ffma (x0 : Head) (x1 : Src) (x2 : Src) (x3 : FOp) : exec (.ffma x0 x1 x2 x3) s = execFfma x0 x1 x2 x3 s := rfl
@[simp] theorem exec_fmin (x0 : Head) (x1 : Src) (x2 : FOp) : exec (.fmin x0 x1 x2) s = execFmin x0 x1 x2 s := rfl
@[simp] theorem exec_fmax (x0 : Head) (x1 : Src) (x2 : FOp) : exec (.fmax x0 x1 x2) s = execFmax x0 x1 x2 s := rfl
@[simp] theorem exec_fabs (x0 : Head) (x1 : Src) : exec (.fabs x0 x1) s = execFabs x0 x1 s := rfl
@[simp] theorem exec_fneg (x0 : Head) (x1 : Src) : exec (.fneg x0 x1) s = execFneg x0 x1 s := rfl
@[simp] theorem exec_frcp (x0 : Head) (x1 : Src) : exec (.frcp x0 x1) s = execFrcp x0 x1 s := rfl
@[simp] theorem exec_frsq (x0 : Head) (x1 : Src) : exec (.frsq x0 x1) s = execFrsq x0 x1 s := rfl
@[simp] theorem exec_fceq (x0 : Head) (x1 : Src) (x2 : FOp) : exec (.fceq x0 x1 x2) s = execFceq x0 x1 x2 s := rfl
@[simp] theorem exec_fclt (x0 : Head) (x1 : Src) (x2 : FOp) : exec (.fclt x0 x1 x2) s = execFclt x0 x1 x2 s := rfl
@[simp] theorem exec_fcle (x0 : Head) (x1 : Src) (x2 : FOp) : exec (.fcle x0 x1 x2) s = execFcle x0 x1 x2 s := rfl
@[simp] theorem exec_fclass (x0 : Head) (x1 : Src) : exec (.fclass x0 x1) s = execFclass x0 x1 s := rfl
@[simp] theorem exec_fcvt (x0 : Head) (x1 : Src) (x2 : CvtKind) (x3 : Rm) : exec (.fcvt x0 x1 x2 x3) s = execFcvt x0 x1 x2 x3 s := rfl
@[simp] theorem exec_movi (x0 : Head) (x1 : BitVec 16) : exec (.movi x0 x1) s = execMovi x0 x1 s := rfl
@[simp] theorem exec_movhi (x0 : Head) (x1 : Src) (x2 : W32) : exec (.movhi x0 x1 x2) s = execMovhi x0 x1 x2 s := rfl
@[simp] theorem exec_movR (x0 : Head) (x1 : Src) : exec (.movR x0 x1) s = execMovR x0 x1 s := rfl
@[simp] theorem exec_lit (x0 : Head) (x1 : W32) : exec (.lit x0 x1) s = execLit x0 x1 s := rfl
@[simp] theorem exec_pset (x0 : Head) (x1 : Fin 8) (x2 : Src) (x3 : Src) : exec (.pset x0 x1 x2 x3) s = execPset x0 x1 x2 x3 s := rfl
@[simp] theorem exec_psetKeep (x0 : Head) (x1 : Fin 8) (x2 : Src) : exec (.psetKeep x0 x1 x2) s = execPsetKeep x0 x1 x2 s := rfl
@[simp] theorem exec_padd (x0 : Head) (x1 : Fin 8) (x2 : Src) : exec (.padd x0 x1 x2) s = execPadd x0 x1 x2 s := rfl
@[simp] theorem exec_paddImm (x0 : Head) (x1 : Fin 8) (x2 : W32) : exec (.paddImm x0 x1 x2) s = execPaddImm x0 x1 x2 s := rfl
@[simp] theorem exec_pget (x0 : Head) (x1 : Fin 8) (x2 : Bool) : exec (.pget x0 x1 x2) s = execPget x0 x1 x2 s := rfl
@[simp] theorem exec_br (x0 : Head) (x1 : BitVec 16) : exec (.br x0 x1) s = execBr x0 x1 s := rfl
@[simp] theorem exec_jmp (x0 : Head) (x1 : W32) : exec (.jmp x0 x1) s = execJmp x0 x1 s := rfl
@[simp] theorem exec_call (x0 : Head) (x1 : W32) : exec (.call x0 x1) s = execCall x0 x1 s := rfl
@[simp] theorem exec_ret (x0 : Head) (x1 : Src) : exec (.ret x0 x1) s = execRet x0 x1 s := rfl
@[simp] theorem exec_brx (x0 : Head) (x1 : Src) : exec (.brx x0 x1) s = execBrx x0 x1 s := rfl
@[simp] theorem exec_loopI (x0 : Head) (x1 : Src) (x2 : W32) : exec (.loopI x0 x1 x2) s = execLoopI x0 x1 x2 s := rfl
@[simp] theorem exec_hstart (x0 : Head) (x1 : BitVec 4) (x2 : W32) : exec (.hstart x0 x1 x2) s = execHstart x0 x1 x2 s := rfl
@[simp] theorem exec_hjoin (x0 : Head) (x1 : BitVec 4) : exec (.hjoin x0 x1) s = execHjoin x0 x1 s := rfl
@[simp] theorem exec_hexit (x0 : Head) : exec (.hexit x0) s = execHexit x0 s := rfl
@[simp] theorem exec_nop (x0 : Head) : exec (.nop x0) s = execNop x0 s := rfl
@[simp] theorem exec_ld (x0 : Head) (x1 : MemOp) (x2 : Size) (x3 : Bool) (x4 : Option Scope) : exec (.ld x0 x1 x2 x3 x4) s = execLd x0 x1 x2 x3 x4 s := rfl
@[simp] theorem exec_st (x0 : Head) (x1 : MemOp) (x2 : Size) (x3 : Option Scope) (x4 : Src) : exec (.st x0 x1 x2 x3 x4) s = execSt x0 x1 x2 x3 x4 s := rfl
@[simp] theorem exec_ldg (x0 : Head) (x1 : MemOp) (x2 : Size) (x3 : Bool) (x4 : Option Scope) : exec (.ldg x0 x1 x2 x3 x4) s = execLdg x0 x1 x2 x3 x4 s := rfl
@[simp] theorem exec_stg (x0 : Head) (x1 : MemOp) (x2 : Size) (x3 : Option Scope) (x4 : Src) : exec (.stg x0 x1 x2 x3 x4) s = execStg x0 x1 x2 x3 x4 s := rfl
@[simp] theorem exec_globalLoadReturn (x0 : CtxId) : exec (.globalLoadReturn x0) s = execGlobalLoadReturn x0 s := rfl
@[simp] theorem exec_stgHomePerform (x0 : CtxId) : exec (.stgHomePerform x0) s = execStgHomePerform x0 s := rfl
@[simp] theorem exec_peerLoadTargetRead (x0 : CtxId) : exec (.peerLoadTargetRead x0) s = execPeerLoadTargetRead x0 s := rfl
@[simp] theorem exec_ldsync (x0 : Head) (x1 : MemOp) : exec (.ldsync x0 x1) s = execLdsync x0 x1 s := rfl
@[simp] theorem exec_ldsyncC (x0 : Head) (x1 : MemOp) : exec (.ldsyncC x0 x1) s = execLdsyncC x0 x1 s := rfl
@[simp] theorem exec_stfull (x0 : Head) (x1 : MemOp) (x2 : Src) : exec (.stfull x0 x1 x2) s = execStfull x0 x1 x2 s := rfl
@[simp] theorem exec_setempty (x0 : Head) (x1 : MemOp) : exec (.setempty x0 x1) s = execSetempty x0 x1 s := rfl
@[simp] theorem exec_amoSwap (x0 : Head) (x1 : AmoArgs) : exec (.amoSwap x0 x1) s = execAmoSwap x0 x1 s := rfl
@[simp] theorem exec_amoCas (x0 : Head) (x1 : AmoArgs) (x2 : Src) : exec (.amoCas x0 x1 x2) s = execAmoCas x0 x1 x2 s := rfl
@[simp] theorem exec_amoAdd (x0 : Head) (x1 : AmoArgs) : exec (.amoAdd x0 x1) s = execAmoAdd x0 x1 s := rfl
@[simp] theorem exec_amoFadd (x0 : Head) (x1 : AmoArgs) : exec (.amoFadd x0 x1) s = execAmoFadd x0 x1 s := rfl
@[simp] theorem exec_amoMin (x0 : Head) (x1 : AmoArgs) : exec (.amoMin x0 x1) s = execAmoMin x0 x1 s := rfl
@[simp] theorem exec_amoMax (x0 : Head) (x1 : AmoArgs) : exec (.amoMax x0 x1) s = execAmoMax x0 x1 s := rfl
@[simp] theorem exec_amoAnd (x0 : Head) (x1 : AmoArgs) : exec (.amoAnd x0 x1) s = execAmoAnd x0 x1 s := rfl
@[simp] theorem exec_amoOr (x0 : Head) (x1 : AmoArgs) : exec (.amoOr x0 x1) s = execAmoOr x0 x1 s := rfl
@[simp] theorem exec_amoXor (x0 : Head) (x1 : AmoArgs) : exec (.amoXor x0 x1) s = execAmoXor x0 x1 s := rfl
@[simp] theorem exec_amoHomeReply (x0 : CtxId) : exec (.amoHomeReply x0) s = execAmoHomeReply x0 s := rfl
@[simp] theorem exec_redAdd (x0 : Head) (x1 : RedArgs) : exec (.redAdd x0 x1) s = execRedAdd x0 x1 s := rfl
@[simp] theorem exec_redFadd (x0 : Head) (x1 : RedArgs) : exec (.redFadd x0 x1) s = execRedFadd x0 x1 s := rfl
@[simp] theorem exec_redMin (x0 : Head) (x1 : RedArgs) : exec (.redMin x0 x1) s = execRedMin x0 x1 s := rfl
@[simp] theorem exec_redMax (x0 : Head) (x1 : RedArgs) : exec (.redMax x0 x1) s = execRedMax x0 x1 s := rfl
@[simp] theorem exec_redAnd (x0 : Head) (x1 : RedArgs) : exec (.redAnd x0 x1) s = execRedAnd x0 x1 s := rfl
@[simp] theorem exec_redOr (x0 : Head) (x1 : RedArgs) : exec (.redOr x0 x1) s = execRedOr x0 x1 s := rfl
@[simp] theorem exec_redXor (x0 : Head) (x1 : RedArgs) : exec (.redXor x0 x1) s = execRedXor x0 x1 s := rfl
@[simp] theorem exec_fence (x0 : Head) (x1 : Scope) : exec (.fence x0 x1) s = execFence x0 x1 s := rfl
@[simp] theorem exec_fenceAcq (x0 : Head) (x1 : Scope) : exec (.fenceAcq x0 x1) s = execFenceAcq x0 x1 s := rfl
@[simp] theorem exec_fenceRel (x0 : Head) (x1 : Scope) : exec (.fenceRel x0 x1) s = execFenceRel x0 x1 s := rfl
@[simp] theorem exec_barArv (x0 : Head) (x1 : Fin 4) : exec (.barArv x0 x1) s = execBarArv x0 x1 s := rfl
@[simp] theorem exec_barWait (x0 : Head) (x1 : Src) (x2 : Fin 4) : exec (.barWait x0 x1 x2) s = execBarWait x0 x1 x2 s := rfl
@[simp] theorem exec_barSync (x0 : Head) (x1 : Fin 4) : exec (.barSync x0 x1) s = execBarSync x0 x1 s := rfl
@[simp] theorem exec_heldArrivalPerform (x0 : CtxId) : exec (.heldArrivalPerform x0) s = execHeldArrivalPerform x0 s := rfl
@[simp] theorem exec_barrierPhaseComplete (x0 : Nat) (x1 : Nat) : exec (.barrierPhaseComplete x0 x1) s = execBarrierPhaseComplete x0 x1 s := rfl
@[simp] theorem exec_evsig (x0 : Head) (x1 : Fin 32) : exec (.evsig x0 x1) s = execEvsig x0 x1 s := rfl
@[simp] theorem exec_eventFireArrive (x0 : Nat) (x1 : Fin 32) : exec (.eventFireArrive x0 x1) s = execEventFireArrive x0 x1 s := rfl
@[simp] theorem exec_evwaitLoad (x0 : Head) (x1 : Fin 32) : exec (.evwaitLoad x0 x1) s = execEvwaitLoad x0 x1 s := rfl
@[simp] theorem exec_mutexTake (x0 : Head) (x1 : Fin 16) : exec (.mutexTake x0 x1) s = execMutexTake x0 x1 s := rfl
@[simp] theorem exec_mutexTry (x0 : Head) (x1 : Fin 16) : exec (.mutexTry x0 x1) s = execMutexTry x0 x1 s := rfl
@[simp] theorem exec_mutexRelease (x0 : Head) (x1 : Fin 16) : exec (.mutexRelease x0 x1) s = execMutexRelease x0 x1 s := rfl
@[simp] theorem exec_tileBarrierArrive (x0 : Head) (x1 : Fin 8) : exec (.tileBarrierArrive x0 x1) s = execTileBarrierArrive x0 x1 s := rfl
@[simp] theorem exec_tileBarrierWait (x0 : Head) (x1 : Fin 8) : exec (.tileBarrierWait x0 x1) s = execTileBarrierWait x0 x1 s := rfl
@[simp] theorem exec_tbcfgWrite (x0 : Head) (x1 : Fin 8) (x2 : Src) : exec (.tbcfgWrite x0 x1 x2) s = execTbcfgWrite x0 x1 x2 s := rfl
@[simp] theorem exec_rdvPut (x0 : Head) (x1 : Src) (x2 : Src) : exec (.rdvPut x0 x1 x2) s = execRdvPut x0 x1 x2 s := rfl
@[simp] theorem exec_rdvGet (x0 : Head) (x1 : Src) : exec (.rdvGet x0 x1) s = execRdvGet x0 x1 s := rfl
@[simp] theorem exec_rqcfgWrite (x0 : Head) (x1 : Fin 2) (x2 : Fin 16) (x3 : Src) : exec (.rqcfgWrite x0 x1 x2 x3) s = execRqcfgWrite x0 x1 x2 x3 s := rfl
@[simp] theorem exec_rqput (x0 : Head) (x1 : Fin 8) (x2 : Src) (x3 : Fin 8) : exec (.rqput x0 x1 x2 x3) s = execRqput x0 x1 x2 x3 s := rfl
@[simp] theorem exec_rqputReservationArrive (x0 : CtxId) : exec (.rqputReservationArrive x0) s = execRqputReservationArrive x0 s := rfl
@[simp] theorem exec_rqputDeliver (x0 : CtxId) : exec (.rqputDeliver x0) s = execRqputDeliver x0 s := rfl
@[simp] theorem exec_rqFreeNotice (x0 : Nat) (x1 : Fin 2) (x2 : Fin 16) : exec (.rqFreeNotice x0 x1 x2) s = execRqFreeNotice x0 x1 x2 s := rfl
@[simp] theorem exec_rqtake (x0 : Head) (x1 : Fin 8) (x2 : Src) : exec (.rqtake x0 x1 x2) s = execRqtake x0 x1 x2 s := rfl
@[simp] theorem exec_ringDef (x0 : Head) (x1 : Src) (x2 : Src) (x3 : BitVec 5) (x4 : BitVec 5) (x5 : Fin 4) (x6 : Fin 8) : exec (.ringDef x0 x1 x2 x3 x4 x5 x6) s = execRingDef x0 x1 x2 x3 x4 x5 x6 s := rfl
@[simp] theorem exec_vadd (x0 : Head) (x1 : VArgs) : exec (.vadd x0 x1) s = execVadd x0 x1 s := rfl
@[simp] theorem exec_vsub (x0 : Head) (x1 : VArgs) : exec (.vsub x0 x1) s = execVsub x0 x1 s := rfl
@[simp] theorem exec_vmul (x0 : Head) (x1 : VArgs) : exec (.vmul x0 x1) s = execVmul x0 x1 s := rfl
@[simp] theorem exec_vfma (x0 : Head) (x1 : VArgs) : exec (.vfma x0 x1) s = execVfma x0 x1 s := rfl
@[simp] theorem exec_vfms (x0 : Head) (x1 : VArgs) : exec (.vfms x0 x1) s = execVfms x0 x1 s := rfl
@[simp] theorem exec_vmin (x0 : Head) (x1 : VArgs) : exec (.vmin x0 x1) s = execVmin x0 x1 s := rfl
@[simp] theorem exec_vmax (x0 : Head) (x1 : VArgs) : exec (.vmax x0 x1) s = execVmax x0 x1 s := rfl
@[simp] theorem exec_vabs (x0 : Head) (x1 : VArgs) : exec (.vabs x0 x1) s = execVabs x0 x1 s := rfl
@[simp] theorem exec_vneg (x0 : Head) (x1 : VArgs) : exec (.vneg x0 x1) s = execVneg x0 x1 s := rfl
@[simp] theorem exec_vexp2 (x0 : Head) (x1 : VArgs) : exec (.vexp2 x0 x1) s = execVexp2 x0 x1 s := rfl
@[simp] theorem exec_vlog2 (x0 : Head) (x1 : VArgs) : exec (.vlog2 x0 x1) s = execVlog2 x0 x1 s := rfl
@[simp] theorem exec_vrcp (x0 : Head) (x1 : VArgs) : exec (.vrcp x0 x1) s = execVrcp x0 x1 s := rfl
@[simp] theorem exec_vrsq (x0 : Head) (x1 : VArgs) : exec (.vrsq x0 x1) s = execVrsq x0 x1 s := rfl
@[simp] theorem exec_vcvt (x0 : Head) (x1 : VArgs) : exec (.vcvt x0 x1) s = execVcvt x0 x1 s := rfl
@[simp] theorem exec_vand (x0 : Head) (x1 : VArgs) : exec (.vand x0 x1) s = execVand x0 x1 s := rfl
@[simp] theorem exec_vor (x0 : Head) (x1 : VArgs) : exec (.vor x0 x1) s = execVor x0 x1 s := rfl
@[simp] theorem exec_vxor (x0 : Head) (x1 : VArgs) : exec (.vxor x0 x1) s = execVxor x0 x1 s := rfl
@[simp] theorem exec_vshl (x0 : Head) (x1 : VArgs) : exec (.vshl x0 x1) s = execVshl x0 x1 s := rfl
@[simp] theorem exec_vshr (x0 : Head) (x1 : VArgs) : exec (.vshr x0 x1) s = execVshr x0 x1 s := rfl
@[simp] theorem exec_vsra (x0 : Head) (x1 : VArgs) : exec (.vsra x0 x1) s = execVsra x0 x1 s := rfl
@[simp] theorem exec_vcmp (x0 : Head) (x1 : VArgs) : exec (.vcmp x0 x1) s = execVcmp x0 x1 s := rfl
@[simp] theorem exec_vsel (x0 : Head) (x1 : VArgs) : exec (.vsel x0 x1) s = execVsel x0 x1 s := rfl
@[simp] theorem exec_vbcast (x0 : Head) (x1 : VArgs) : exec (.vbcast x0 x1) s = execVbcast x0 x1 s := rfl
@[simp] theorem exec_vmov (x0 : Head) (x1 : VArgs) : exec (.vmov x0 x1) s = execVmov x0 x1 s := rfl
@[simp] theorem exec_vperm (x0 : Head) (x1 : VArgs) : exec (.vperm x0 x1) s = execVperm x0 x1 s := rfl
@[simp] theorem exec_vredadd (x0 : Head) (x1 : VArgs) : exec (.vredadd x0 x1) s = execVredadd x0 x1 s := rfl
@[simp] theorem exec_vredmax (x0 : Head) (x1 : VArgs) : exec (.vredmax x0 x1) s = execVredmax x0 x1 s := rfl
@[simp] theorem exec_vredmin (x0 : Head) (x1 : VArgs) : exec (.vredmin x0 x1) s = execVredmin x0 x1 s := rfl
@[simp] theorem exec_vscan (x0 : Head) (x1 : VArgs) : exec (.vscan x0 x1) s = execVscan x0 x1 s := rfl
@[simp] theorem exec_vgath (x0 : Head) (x1 : VArgs) : exec (.vgath x0 x1) s = execVgath x0 x1 s := rfl
@[simp] theorem exec_vscat (x0 : Head) (x1 : VArgs) : exec (.vscat x0 x1) s = execVscat x0 x1 s := rfl
@[simp] theorem exec_vectorGroup (x0 : CtxId) : exec (.vectorGroup x0) s = execVectorGroup x0 s := rfl
@[simp] theorem exec_vectorCompletion (x0 : Nat) (x1 : Nat) : exec (.vectorCompletion x0 x1) s = execVectorCompletion x0 x1 s := rfl
@[simp] theorem exec_vsetvl (x0 : Head) (x1 : Src) : exec (.vsetvl x0 x1) s = execVsetvl x0 x1 s := rfl
@[simp] theorem exec_vsetvlImm (x0 : Head) (x1 : BitVec 8) : exec (.vsetvlImm x0 x1) s = execVsetvlImm x0 x1 s := rfl
@[simp] theorem exec_mwld (x0 : Head) (x1 : MArgs) : exec (.mwld x0 x1) s = execMwld x0 x1 s := rfl
@[simp] theorem exec_mwldImg (x0 : Head) (x1 : Src) (x2 : MArgs) : exec (.mwldImg x0 x1 x2) s = execMwldImg x0 x1 x2 s := rfl
@[simp] theorem exec_mwldGl (x0 : Head) (x1 : Src) (x2 : MArgs) : exec (.mwldGl x0 x1 x2) s = execMwldGl x0 x1 x2 s := rfl
@[simp] theorem exec_mma (x0 : Head) (x1 : MArgs) : exec (.mma x0 x1) s = execMma x0 x1 s := rfl
@[simp] theorem exec_mmaSp (x0 : Head) (x1 : MArgs) : exec (.mmaSp x0 x1) s = execMmaSp x0 x1 s := rfl
@[simp] theorem exec_mzero (x0 : Head) (x1 : MArgs) : exec (.mzero x0 x1) s = execMzero x0 x1 s := rfl
@[simp] theorem exec_maccRd (x0 : Head) (x1 : MArgs) : exec (.maccRd x0 x1) s = execMaccRd x0 x1 s := rfl
@[simp] theorem exec_maccWr (x0 : Head) (x1 : MArgs) : exec (.maccWr x0 x1) s = execMaccWr x0 x1 s := rfl
@[simp] theorem exec_macq (x0 : Head) (x1 : Fin 64) : exec (.macq x0 x1) s = execMacq x0 x1 s := rfl
@[simp] theorem exec_mrel (x0 : Head) (x1 : Fin 64) : exec (.mrel x0 x1) s = execMrel x0 x1 s := rfl
@[simp] theorem exec_mpin (x0 : Head) (x1 : Fin 64) : exec (.mpin x0 x1) s = execMpin x0 x1 s := rfl
@[simp] theorem exec_munpin (x0 : Head) (x1 : Fin 64) : exec (.munpin x0 x1) s = execMunpin x0 x1 s := rfl
@[simp] theorem exec_mstat (x0 : Head) (x1 : MArgs) : exec (.mstat x0 x1) s = execMstat x0 x1 s := rfl
@[simp] theorem exec_deltaUpd (x0 : Head) (x1 : MArgs) : exec (.deltaUpd x0 x1) s = execDeltaUpd x0 x1 s := rfl
@[simp] theorem exec_deltaChunk (x0 : Head) (x1 : MArgs) : exec (.deltaChunk x0 x1) s = execDeltaChunk x0 x1 s := rfl
@[simp] theorem exec_deltaQry (x0 : Head) (x1 : MArgs) : exec (.deltaQry x0 x1) s = execDeltaQry x0 x1 s := rfl
@[simp] theorem exec_tileOp (x0 : Nat) : exec (.tileOp x0) s = execTileOp x0 s := rfl
@[simp] theorem exec_matrixCommandComplete (x0 : Nat) (x1 : Nat) : exec (.matrixCommandComplete x0 x1) s = execMatrixCommandComplete x0 x1 s := rfl
@[simp] theorem exec_matrixErrorEnd (x0 : Nat) (x1 : Nat) : exec (.matrixErrorEnd x0 x1) s = execMatrixErrorEnd x0 x1 s := rfl
@[simp] theorem exec_tileRestore (x0 : Nat) (x1 : Fin 64) : exec (.tileRestore x0 x1) s = execTileRestore x0 x1 s := rfl
@[simp] theorem exec_cpy (x0 : Head) (x1 : Src) (x2 : Src) (x3 : Src) (x4 : CpyArgs) : exec (.cpy x0 x1 x2 x3 x4) s = execCpy x0 x1 x2 x3 x4 s := rfl
@[simp] theorem exec_cpy2d (x0 : Head) (x1 : Src) (x2 : Src) (x3 : Src) (x4 : Src) (x5 : CpyArgs) : exec (.cpy2d x0 x1 x2 x3 x4 x5) s = execCpy2d x0 x1 x2 x3 x4 x5 s := rfl
@[simp] theorem exec_engineTranslationDone (x0 : CtxId) : exec (.engineTranslationDone x0) s = execEngineTranslationDone x0 s := rfl
@[simp] theorem exec_channelLineWrite (x0 : Nat) (x1 : Fin 8) : exec (.channelLineWrite x0 x1) s = execChannelLineWrite x0 x1 s := rfl
@[simp] theorem exec_engineCommandComplete (x0 : Nat) (x1 : Fin 8) : exec (.engineCommandComplete x0 x1) s = execEngineCommandComplete x0 x1 s := rfl
@[simp] theorem exec_engineFaultEnd (x0 : Nat) (x1 : Fin 8) : exec (.engineFaultEnd x0 x1) s = execEngineFaultEnd x0 x1 s := rfl
@[simp] theorem exec_wpwait (x0 : Head) (x1 : Fin 8) (x2 : Src) : exec (.wpwait x0 x1 x2) s = execWpwait x0 x1 x2 s := rfl
@[simp] theorem exec_gath (x0 : Head) (x1 : Src) (x2 : Src) (x3 : Src) (x4 : Src) (x5 : GathArgs) : exec (.gath x0 x1 x2 x3 x4 x5) s = execGath x0 x1 x2 x3 x4 x5 s := rfl
@[simp] theorem exec_coll (x0 : Head) (x1 : Src) (x2 : Src) (x3 : Src) (x4 : CollArgs) : exec (.coll x0 x1 x2 x3 x4) s = execColl x0 x1 x2 x3 x4 s := rfl
@[simp] theorem exec_snap (x0 : Head) (x1 : Src) (x2 : Src) (x3 : Src) (x4 : Src) (x5 : Fin 8) : exec (.snap x0 x1 x2 x3 x4 x5) s = execSnap x0 x1 x2 x3 x4 x5 s := rfl
@[simp] theorem exec_sigDec (x0 : Head) (x1 : Fin 8) (x2 : Src) : exec (.sigDec x0 x1 x2) s = execSigDec x0 x1 x2 s := rfl
@[simp] theorem exec_launch (x0 : Head) (x1 : Src) : exec (.launch x0 x1) s = execLaunch x0 x1 s := rfl
@[simp] theorem exec_launchAccept (x0 : CtxId) : exec (.launchAccept x0) s = execLaunchAccept x0 s := rfl
@[simp] theorem exec_arm (x0 : Head) (x1 : Src) (x2 : Src) (x3 : Bool) : exec (.arm x0 x1 x2 x3) s = execArm x0 x1 x2 x3 s := rfl
@[simp] theorem exec_disarm (x0 : Head) (x1 : Src) : exec (.disarm x0 x1) s = execDisarm x0 x1 s := rfl
@[simp] theorem exec_cktReq (x0 : Head) (x1 : Src) (x2 : Src) (x3 : CktKind) : exec (.cktReq x0 x1 x2 x3) s = execCktReq x0 x1 x2 x3 s := rfl
@[simp] theorem exec_cktRel (x0 : Head) (x1 : Src) : exec (.cktRel x0 x1) s = execCktRel x0 x1 s := rfl
@[simp] theorem exec_cktStat (x0 : Head) (x1 : Src) : exec (.cktStat x0 x1) s = execCktStat x0 x1 s := rfl
@[simp] theorem exec_locq (x0 : Head) (x1 : Src) (x2 : Fin 3) : exec (.locq x0 x1 x2) s = execLocq x0 x1 x2 s := rfl
@[simp] theorem exec_tfence (x0 : Head) : exec (.tfence x0) s = execTfence x0 s := rfl
@[simp] theorem exec_trapN (x0 : Head) (x1 : BitVec 8) : exec (.trapN x0 x1) s = execTrapN x0 x1 s := rfl
@[simp] theorem exec_svc (x0 : Head) (x1 : BitVec 8) : exec (.svc x0 x1) s = execSvc x0 x1 s := rfl
@[simp] theorem exec_eret (x0 : Head) : exec (.eret x0) s = execEret x0 s := rfl
@[simp] theorem exec_srd (x0 : Head) (x1 : BitVec 9) : exec (.srd x0 x1) s = execSrd x0 x1 s := rfl
@[simp] theorem exec_swr (x0 : Head) (x1 : BitVec 9) (x2 : Src) : exec (.swr x0 x1 x2) s = execSwr x0 x1 x2 s := rfl
@[simp] theorem exec_srsRd (x0 : Head) (x1 : Src) (x2 : BitVec 16) : exec (.srsRd x0 x1 x2) s = execSrsRd x0 x1 x2 s := rfl
@[simp] theorem exec_srsWr (x0 : Head) (x1 : Src) (x2 : Src) (x3 : BitVec 16) : exec (.srsWr x0 x1 x2 x3) s = execSrsWr x0 x1 x2 x3 s := rfl
@[simp] theorem exec_srsRdAnswer (x0 : CtxId) (x1 : Nat) : exec (.srsRdAnswer x0 x1) s = execSrsRdAnswer x0 x1 s := rfl
@[simp] theorem exec_prio (x0 : Head) (x1 : BitVec 4) : exec (.prio x0 x1) s = execPrio x0 x1 s := rfl
@[simp] theorem exec_time (x0 : Head) (x1 : Fin 3) : exec (.time x0 x1) s = execTime x0 x1 s := rfl
@[simp] theorem exec_chkpt (x0 : Head) : exec (.chkpt x0) s = execChkpt x0 s := rfl
@[simp] theorem exec_pwrReq (x0 : Head) (x1 : Fin 8) : exec (.pwrReq x0 x1) s = execPwrReq x0 x1 s := rfl
@[simp] theorem exec_halt (x0 : Head) : exec (.halt x0) s = execHalt x0 s := rfl
@[simp] theorem exec_bankpwrWrite (x0 : Nat) (x1 : Fin 8) (x2 : W64) : exec (.bankpwrWrite x0 x1 x2) s = execBankpwrWrite x0 x1 x2 s := rfl
@[simp] theorem exec_bankWakeDone (x0 : Nat) (x1 : Nat) : exec (.bankWakeDone x0 x1) s = execBankWakeDone x0 x1 s := rfl
@[simp] theorem exec_retBankWake (x0 : Nat) (x1 : Nat) : exec (.retBankWake x0 x1) s = execRetBankWake x0 x1 s := rfl
@[simp] theorem exec_mqwtWrite (x0 : Head) (x1 : Fin 8) (x2 : Src) : exec (.mqwtWrite x0 x1 x2) s = execMqwtWrite x0 x1 x2 s := rfl
@[simp] theorem exec_lqEnable (x0 : Nat) (x1 : Fin 12) (x2 : W64) : exec (.lqEnable x0 x1 x2) s = execLqEnable x0 x1 x2 s := rfl
@[simp] theorem exec_lqNotify (x0 : Nat) (x1 : Fin 12) (x2 : W64) : exec (.lqNotify x0 x1 x2) s = execLqNotify x0 x1 x2 s := rfl
@[simp] theorem exec_lqFetch (x0 : Nat) (x1 : Fin 12) : exec (.lqFetch x0 x1) s = execLqFetch x0 x1 s := rfl
@[simp] theorem exec_lqRereadTimer (x0 : Nat) (x1 : Fin 12) : exec (.lqRereadTimer x0 x1) s = execLqRereadTimer x0 x1 s := rfl
@[simp] theorem exec_taggedLaunchMessage (x0 : Nat) (x1 : W16) (x2 : List Byte) : exec (.taggedLaunchMessage x0 x1 x2) s = execTaggedLaunchMessage x0 x1 x2 s := rfl
@[simp] theorem exec_waitvaPoll (x0 : Nat) : exec (.waitvaPoll x0) s = execWaitvaPoll x0 s := rfl
@[simp] theorem exec_sheafPlace (x0 : Nat) : exec (.sheafPlace x0) s = execSheafPlace x0 s := rfl
@[simp] theorem exec_placementRetest (x0 : Nat) : exec (.placementRetest x0) s = execPlacementRetest x0 s := rfl
@[simp] theorem exec_sheafStop (x0 : Nat) : exec (.sheafStop x0) s = execSheafStop x0 s := rfl
@[simp] theorem exec_stopTimeout (x0 : Nat) : exec (.stopTimeout x0) s = execStopTimeout x0 s := rfl
@[simp] theorem exec_speltSaveDone (x0 : Nat) : exec (.speltSaveDone x0) s = execSpeltSaveDone x0 s := rfl
@[simp] theorem exec_sheafResume (x0 : Nat) : exec (.sheafResume x0) s = execSheafResume x0 s := rfl
@[simp] theorem exec_ageLimitExpiry (x0 : Nat) : exec (.ageLimitExpiry x0) s = execAgeLimitExpiry x0 s := rfl
@[simp] theorem exec_sheafMigrate (x0 : Nat) (x1 : Nat) (x2 : Nat) : exec (.sheafMigrate x0 x1 x2) s = execSheafMigrate x0 x1 x2 s := rfl
@[simp] theorem exec_sheafRetire (x0 : Nat) : exec (.sheafRetire x0) s = execSheafRetire x0 s := rfl
@[simp] theorem exec_gangReserved (x0 : Nat) (x1 : Nat) : exec (.gangReserved x0 x1) s = execGangReserved x0 x1 s := rfl
@[simp] theorem exec_gangCommit (x0 : Nat) (x1 : Nat) : exec (.gangCommit x0 x1) s = execGangCommit x0 x1 s := rfl
@[simp] theorem exec_gangStartSlot (x0 : Nat) : exec (.gangStartSlot x0) s = execGangStartSlot x0 s := rfl
@[simp] theorem exec_gangArrivalMessage (x0 : Nat) (x1 : Nat) (x2 : Bool) : exec (.gangArrivalMessage x0 x1 x2) s = execGangArrivalMessage x0 x1 x2 s := rfl
@[simp] theorem exec_gkreqWrite (x0 : Nat) (x1 : W64) : exec (.gkreqWrite x0 x1) s = execGkreqWrite x0 x1 s := rfl
@[simp] theorem exec_gangnWrite (x0 : Nat) (x1 : Fin 16) (x2 : W64) : exec (.gangnWrite x0 x1 x2) s = execGangnWrite x0 x1 x2 s := rfl
@[simp] theorem exec_deadlockDetect (x0 : Nat) : exec (.deadlockDetect x0) s = execDeadlockDetect x0 s := rfl
@[simp] theorem exec_svcresWrite (x0 : Nat) (x1 : W64) : exec (.svcresWrite x0 x1) s = execSvcresWrite x0 x1 s := rfl
@[simp] theorem exec_batchServe (x0 : Nat) (x1 : Nat) : exec (.batchServe x0 x1) s = execBatchServe x0 x1 s := rfl
@[simp] theorem exec_checkpointCopyDone (x0 : Nat) : exec (.checkpointCopyDone x0) s = execCheckpointCopyDone x0 s := rfl
@[simp] theorem exec_unnumberedCheckpoint (x0 : CtxId) : exec (.unnumberedCheckpoint x0) s = execUnnumberedCheckpoint x0 s := rfl
@[simp] theorem exec_sliceEnd (x0 : Fin 8) : exec (.sliceEnd x0) s = execSliceEnd x0 s := rfl
@[simp] theorem exec_saveStartTimer (x0 : Fin 8) : exec (.saveStartTimer x0) s = execSaveStartTimer x0 s := rfl
@[simp] theorem exec_tenantTurn (x0 : Fin 8) : exec (.tenantTurn x0) s = execTenantTurn x0 s := rfl
@[simp] theorem exec_tlbinv1Write (x0 : Nat) (x1 : W64) : exec (.tlbinv1Write x0 x1) s = execTlbinv1Write x0 x1 s := rfl
@[simp] theorem exec_tlbinv2Write (x0 : Nat) (x1 : W64) : exec (.tlbinv2Write x0 x1) s = execTlbinv2Write x0 x1 s := rfl
@[simp] theorem exec_tlbInvalidationDone (x0 : Nat) (x1 : Bool) : exec (.tlbInvalidationDone x0 x1) s = execTlbInvalidationDone x0 x1 s := rfl
@[simp] theorem exec_ptdataWrite (x0 : Nat) (x1 : W64) : exec (.ptdataWrite x0 x1) s = execPtdataWrite x0 x1 s := rfl
@[simp] theorem exec_s2ptdataWrite (x0 : Nat) (x1 : W64) : exec (.s2ptdataWrite x0 x1) s = execS2ptdataWrite x0 x1 s := rfl
@[simp] theorem exec_s2ptclr (x0 : Nat) (x1 : W64) : exec (.s2ptclr x0 x1) s = execS2ptclr x0 x1 s := rfl
@[simp] theorem exec_pageMove (x0 : Nat) (x1 : W64) : exec (.pageMove x0 x1) s = execPageMove x0 x1 s := rfl
@[simp] theorem exec_pageMoveDone (x0 : Nat) : exec (.pageMoveDone x0) s = execPageMoveDone x0 s := rfl
@[simp] theorem exec_pageResponse (x0 : BitVec 20) (x1 : BitVec 9) (x2 : PageAnswer) : exec (.pageResponse x0 x1 x2) s = execPageResponse x0 x1 x2 s := rfl
@[simp] theorem exec_atsTranslationCompletion (x0 : CtxId) (x1 : Bool) (x2 : W64) : exec (.atsTranslationCompletion x0 x1 x2) s = execAtsTranslationCompletion x0 x1 x2 s := rfl
@[simp] theorem exec_atsInvalidationRequest (x0 : Nat) (x1 : W64) (x2 : Nat) : exec (.atsInvalidationRequest x0 x1 x2) s = execAtsInvalidationRequest x0 x1 x2 s := rfl
@[simp] theorem exec_vdReset (x0 : Nat) (x1 : W64) : exec (.vdReset x0 x1) s = execVdReset x0 x1 s := rfl
@[simp] theorem exec_zeroingDone (x0 : Nat) : exec (.zeroingDone x0) s = execZeroingDone x0 s := rfl
@[simp] theorem exec_keyLoad (x0 : BitVec 13) : exec (.keyLoad x0) s = execKeyLoad x0 s := rfl
@[simp] theorem exec_keyClear (x0 : BitVec 13) : exec (.keyClear x0) s = execKeyClear x0 s := rfl
@[simp] theorem exec_signalWindowRead (x0 : Nat) (x1 : BitVec 20) : exec (.signalWindowRead x0 x1) s = execSignalWindowRead x0 x1 s := rfl
@[simp] theorem exec_hostUnsupportedAccess (x0 : RegPage) (x1 : Nat) (x2 : Nat) : exec (.hostUnsupportedAccess x0 x1 x2) s = execHostUnsupportedAccess x0 x1 x2 s := rfl
@[simp] theorem exec_fabcfgWrite (x0 : W64) : exec (.fabcfgWrite x0) s = execFabcfgWrite x0 s := rfl
@[simp] theorem exec_fabquotaWrite (x0 : Nat) (x1 : W64) : exec (.fabquotaWrite x0 x1) s = execFabquotaWrite x0 x1 s := rfl
@[simp] theorem exec_configTrain : exec (.configTrain) s = execConfigTrain s := rfl
@[simp] theorem exec_bromeRequest : exec (.bromeRequest) s = execBromeRequest s := rfl
@[simp] theorem exec_bromeRelease : exec (.bromeRelease) s = execBromeRelease s := rfl
@[simp] theorem exec_bromeAnswer : exec (.bromeAnswer) s = execBromeAnswer s := rfl
@[simp] theorem exec_circuitResize (x0 : Nat) : exec (.circuitResize x0) s = execCircuitResize x0 s := rfl
@[simp] theorem exec_circuitFlitArrive (x0 : Nat) (x1 : Bool) : exec (.circuitFlitArrive x0 x1) s = execCircuitFlitArrive x0 x1 s := rfl
@[simp] theorem exec_memRequestInject (x0 : CtxId) : exec (.memRequestInject x0) s = execMemRequestInject x0 s := rfl
@[simp] theorem exec_memResponse (x0 : CtxId) : exec (.memResponse x0) s = execMemResponse x0 s := rfl
@[simp] theorem exec_portCfgWrite (x0 : Fin 16) (x1 : W64) : exec (.portCfgWrite x0 x1) s = execPortCfgWrite x0 x1 s := rfl
@[simp] theorem exec_ptpMessage (x0 : Fin 16) (x1 : Int) (x2 : W16) : exec (.ptpMessage x0 x1 x2) s = execPtpMessage x0 x1 x2 s := rfl
@[simp] theorem exec_ethLaunchFrame (x0 : Fin 16) (x1 : List Byte) : exec (.ethLaunchFrame x0 x1) s = execEthLaunchFrame x0 x1 s := rfl
@[simp] theorem exec_ethBulkFrame (x0 : Fin 16) (x1 : Nat) (x2 : Nat) (x3 : List Byte) : exec (.ethBulkFrame x0 x1 x2 x3) s = execEthBulkFrame x0 x1 x2 x3 s := rfl
@[simp] theorem exec_pointTransition (x0 : Nat) : exec (.pointTransition x0) s = execPointTransition x0 s := rfl
@[simp] theorem exec_pointTransitionDone (x0 : Nat) : exec (.pointTransitionDone x0) s = execPointTransitionDone x0 s := rfl
@[simp] theorem exec_slewGrantUp (x0 : Nat) : exec (.slewGrantUp x0) s = execSlewGrantUp x0 s := rfl
@[simp] theorem exec_slewGrantDown (x0 : Nat) : exec (.slewGrantDown x0) s = execSlewGrantDown x0 s := rfl
@[simp] theorem exec_rampStepEnd (x0 : Nat) : exec (.rampStepEnd x0) s = execRampStepEnd x0 s := rfl
@[simp] theorem exec_ptctlWrite (x0 : Fin 8) (x1 : W64) : exec (.ptctlWrite x0 x1) s = execPtctlWrite x0 x1 s := rfl
@[simp] theorem exec_ptrampWrite (x0 : Fin 8) (x1 : W64) : exec (.ptrampWrite x0 x1) s = execPtrampWrite x0 x1 s := rfl
@[simp] theorem exec_vdschedWrite (x0 : Nat) (x1 : W64) : exec (.vdschedWrite x0 x1) s = execVdschedWrite x0 x1 s := rfl
@[simp] theorem exec_thermalSample (x0 : List (Nat × Nat)) : exec (.thermalSample x0) s = execThermalSample x0 s := rfl
@[simp] theorem exec_thermlimWrite (x0 : W64) : exec (.thermlimWrite x0) s = execThermlimWrite x0 s := rfl
@[simp] theorem exec_pwrcapWrite (x0 : W64) : exec (.pwrcapWrite x0) s = execPwrcapWrite x0 s := rfl
@[simp] theorem exec_powerWindow (x0 : Nat) (x1 : List Nat) : exec (.powerWindow x0 x1) s = execPowerWindow x0 x1 s := rfl
@[simp] theorem exec_powerCapAdjust : exec (.powerCapAdjust) s = execPowerCapAdjust s := rfl
@[simp] theorem exec_coldReset : exec (.coldReset) s = execColdReset s := rfl
@[simp] theorem exec_bringupStageDone (x0 : BitVec 8) : exec (.bringupStageDone x0) s = execBringupStageDone x0 s := rfl
@[simp] theorem exec_pf0Flr : exec (.pf0Flr) s = execPf0Flr s := rfl
@[simp] theorem exec_vfFlr (x0 : Nat) : exec (.vfFlr x0) s = execVfFlr x0 s := rfl
@[simp] theorem exec_attReport : exec (.attReport) s = execAttReport s := rfl
@[simp] theorem exec_attCertChain : exec (.attCertChain) s = execAttCertChain s := rfl
@[simp] theorem exec_attestDone : exec (.attestDone) s = execAttestDone s := rfl
@[simp] theorem exec_uncorrectableRegisterError (x0 : CtxId) : exec (.uncorrectableRegisterError x0) s = execUncorrectableRegisterError x0 s := rfl
@[simp] theorem exec_ageingSample (x0 : List (Nat × Nat)) : exec (.ageingSample x0) s = execAgeingSample x0 s := rfl
@[simp] theorem exec_guardForceTransition (x0 : Nat) : exec (.guardForceTransition x0) s = execGuardForceTransition x0 s := rfl
@[simp] theorem exec_registerWrite (x0 : RegPage) (x1 : Nat) (x2 : W64) : exec (.registerWrite x0 x1 x2) s = execRegisterWrite x0 x1 x2 s := rfl
@[simp] theorem exec_illegalInstruction (x0 : DecodeCause) (x1 : Byte) : exec (.illegalInstruction x0 x1) s = execIllegalInstruction x0 x1 s := rfl
@[simp] theorem exec_pendingResultWrite (x0 : CtxId) (x1 : Nat) : exec (.pendingResultWrite x0 x1) s = execPendingResultWrite x0 x1 s := rfl
@[simp] theorem exec_supplyRampDone (x0 : Nat) : exec (.supplyRampDone x0) s = execSupplyRampDone x0 s := rfl
@[simp] theorem exec_thermalMoveDone (x0 : Nat) : exec (.thermalMoveDone x0) s = execThermalMoveDone x0 s := rfl
@[simp] theorem exec_speltRestoreDone (x0 : Nat) : exec (.speltRestoreDone x0) s = execSpeltRestoreDone x0 s := rfl
@[simp] theorem exec_checkpointRecorded (x0 : Nat) : exec (.checkpointRecorded x0) s = execCheckpointRecorded x0 s := rfl
@[simp] theorem exec_keyCommandDone : exec (.keyCommandDone) s = execKeyCommandDone s := rfl
@[simp] theorem exec_netCircuitActive (x0 : Nat) : exec (.netCircuitActive x0) s = execNetCircuitActive x0 s := rfl
@[simp] theorem exec_abandonedSlotReuse (x0 : Nat) (x1 : Fin 64) : exec (.abandonedSlotReuse x0 x1) s = execAbandonedSlotReuse x0 x1 s := rfl

end Sys2Proof.Laws
end

