-- ==== Sys2Proof/Laws/Tab.lean ====
section
/-! SUPPORT. Laws of tables by key and of sparse byte memories: what a lookup gives after a change, and that every
operation on a memory keeps the canonical form. -/

set_option linter.unusedSimpArgs false

namespace Sys2Proof.Laws

variable {κ α : Type} [DecidableEq κ]

/-! ### Tables -/

@[simp] theorem tab_find_nil (k : κ) : Tab.find ([] : Tab κ α) k = none := rfl

theorem tab_find_put (t : Tab κ α) (k j : κ) (v : α) :
    Tab.find (Tab.put t k v) j = if k = j then some v else Tab.find t j := by
  induction t with
  | nil => simp [Tab.put, Tab.find]
  | cons e t ih =>
    obtain ⟨k', v'⟩ := e
    by_cases h : k' = k
    · subst h
      by_cases hj : k' = j <;> simp [Tab.put, Tab.find, hj]
    · by_cases hj : k' = j
      · subst hj
        simp [Tab.put, Tab.find, h, Ne.symm h]
      · simp [Tab.put, Tab.find, h, hj, ih]

theorem tab_find_upd (t : Tab κ α) (k j : κ) (f : α → α) :
    Tab.find (Tab.upd t k f) j = if k = j then (Tab.find t j).map f else Tab.find t j := by
  induction t with
  | nil => simp [Tab.upd, Tab.find]
  | cons e t ih =>
    obtain ⟨k', v'⟩ := e
    by_cases h : k' = k
    · subst h
      by_cases hj : k' = j <;> simp [Tab.upd, Tab.find, hj]
    · by_cases hj : k' = j
      · subst hj
        simp [Tab.upd, Tab.find, h, Ne.symm h]
      · simp [Tab.upd, Tab.find, h, hj, ih]

@[simp] theorem tab_find_put_self (t : Tab κ α) (k : κ) (v : α) : Tab.find (Tab.put t k v) k = some v := by
  simp [tab_find_put]

@[simp] theorem tab_find_upd_self (t : Tab κ α) (k : κ) (f : α → α) :
    Tab.find (Tab.upd t k f) k = (Tab.find t k).map f := by simp [tab_find_upd]

theorem tab_find_put_ne (t : Tab κ α) {k j : κ} (v : α) (h : k ≠ j) : Tab.find (Tab.put t k v) j = Tab.find t j := by
  simp [tab_find_put, h]

theorem tab_find_upd_ne (t : Tab κ α) {k j : κ} (f : α → α) (h : k ≠ j) : Tab.find (Tab.upd t k f) j = Tab.find t j := by
  simp [tab_find_upd, h]

theorem tab_getD_put (t : Tab κ α) (k j : κ) (v d : α) :
    Tab.getD (Tab.put t k v) j d = if k = j then v else Tab.getD t j d := by
  by_cases h : k = j <;> simp [Tab.getD, tab_find_put, h]

theorem tab_getD_updD (t : Tab κ α) (k j : κ) (d e : α) (f : α → α) :
    Tab.getD (Tab.updD t k d f) j e = if k = j then f (Tab.getD t k d) else Tab.getD t j e := by
  simp [Tab.updD, tab_getD_put]

@[simp] theorem tab_getD_updD_self (t : Tab κ α) (k : κ) (d : α) (f : α → α) :
    Tab.getD (Tab.updD t k d f) k d = f (Tab.getD t k d) := by simp [tab_getD_updD]

theorem tab_getD_updD_ne (t : Tab κ α) {k j : κ} (d e : α) (f : α → α) (h : k ≠ j) :
    Tab.getD (Tab.updD t k d f) j e = Tab.getD t j e := by simp [tab_getD_updD, h]

theorem tab_find_del (t : Tab κ α) (k j : κ) : Tab.find (Tab.del t k) j = if k = j then none else Tab.find t j := by
  induction t with
  | nil => simp [Tab.del, Tab.find]
  | cons e t ih =>
    obtain ⟨k', v'⟩ := e
    simp only [Tab.del] at ih ⊢
    by_cases h : k' = k
    · subst h
      by_cases hj : k' = j
      · subst hj; simpa [Tab.find] using ih
      · simpa [Tab.find, hj] using ih
    · by_cases hj : k' = j
      · subst hj
        simp [Tab.find, h, Ne.symm h]
      · simpa [Tab.find, h, hj] using ih

/-! ### Memories: reading after a change -/

theorem mem_get_of_wfFrom {m : Mem} {n a : Nat} (h : Mem.wfFrom n m = true) (ha : a < n) : Mem.get m a = 0 := by
  cases m with
  | nil => rfl
  | cons e m =>
    obtain ⟨b, v⟩ := e
    simp only [Mem.wfFrom, Bool.and_eq_true, decide_eq_true_eq] at h
    have : ¬ b = a := by omega
    have : a < b := by omega
    simp [Mem.get, *]

theorem mem_wfFrom_mono {m : Mem} {n k : Nat} (h : Mem.wfFrom n m = true) (hk : k ≤ n) : Mem.wfFrom k m = true := by
  cases m with
  | nil => rfl
  | cons e m =>
    obtain ⟨b, v⟩ := e
    simp only [Mem.wfFrom, Bool.and_eq_true, decide_eq_true_eq] at h ⊢
    exact ⟨⟨by omega, h.1.2⟩, h.2⟩

theorem mem_get_set {m : Mem} {n : Nat} (h : Mem.wfFrom n m = true) (a b : Nat) (v : BitVec 8) :
    Mem.get (Mem.set m a v) b = if a = b then v else Mem.get m b := by
  induction m generalizing n with
  | nil =>
    by_cases hv : v = 0#8 <;> by_cases hb : a = b <;> simp [Mem.set, Mem.get, hv, hb]
  | cons e m ih =>
    obtain ⟨c, w⟩ := e
    simp only [Mem.wfFrom, Bool.and_eq_true, decide_eq_true_eq] at h
    have ih := ih h.2
    by_cases h1 : a < c
    · by_cases hv : v = 0#8
      · by_cases hb : a = b
        · subst hb
          have : ¬ c = a := by omega
          simp [Mem.set, Mem.get, h1, hv, this]
        · simp [Mem.set, h1, hv, hb]
      · by_cases hb : a = b
        · subst hb; simp [Mem.set, Mem.get, h1, hv]
        · by_cases h2 : a < b
          · simp [Mem.set, Mem.get, h1, hv, hb, Nat.not_lt.mpr (Nat.le_of_lt h2)]
          · have : ¬ c = b := by omega
            have : b < c := by omega
            have : b < a := by omega
            simp [Mem.set, Mem.get, h1, hv, hb, *]
    · by_cases h2 : a = c
      · subst h2
        by_cases hv : v = 0#8
        · by_cases hb : a = b
          · subst hb
            simp [Mem.set, hv, mem_get_of_wfFrom h.2 (Nat.lt_succ_self a)]
          · by_cases h3 : b < a
            · simp [Mem.set, Mem.get, hv, hb, h3, mem_get_of_wfFrom h.2 (Nat.lt_succ_of_lt h3)]
            · simp [Mem.set, Mem.get, hv, hb, h3]
        · by_cases hb : a = b <;> simp [Mem.set, Mem.get, hv, hb]
      · by_cases hb : c = b
        · subst hb; simp [Mem.set, Mem.get, h1, h2]
        · by_cases h3 : b < c
          · have : ¬ a = b := by omega
            simp [Mem.set, Mem.get, h1, h2, hb, h3, this]
          · simp [Mem.set, Mem.get, h1, h2, hb, h3, ih]

/-! ### Every operation keeps the canonical form -/

theorem mem_wfFrom_set {m : Mem} {n : Nat} (h : Mem.wfFrom n m = true) (a : Nat) (v : BitVec 8) :
    Mem.wfFrom (min n a) (Mem.set m a v) = true := by
  induction m generalizing n with
  | nil =>
    by_cases hv : v = 0
    · subst hv; rfl
    · have hv' : ¬ v = 0#8 := hv
      simp [Mem.set, Mem.wfFrom, hv']
  | cons e m ih =>
    obtain ⟨c, w⟩ := e
    have h0 := h
    simp only [Mem.wfFrom, Bool.and_eq_true, decide_eq_true_eq] at h
    by_cases h1 : a < c
    · by_cases hv : v = 0
      · simp only [Mem.set, h1, hv, if_true]
        exact mem_wfFrom_mono h0 (Nat.min_le_left _ _)
      · simp only [Mem.set, h1, hv, if_true, if_false, Mem.wfFrom, Bool.and_eq_true, decide_eq_true_eq]
        exact ⟨⟨Nat.min_le_right _ _, hv⟩, ⟨by omega, h.1.2⟩, h.2⟩
    · by_cases h2 : a = c
      · subst h2
        by_cases hv : v = 0
        · simp only [Mem.set, hv, if_true, Nat.lt_irrefl, if_false]
          exact mem_wfFrom_mono h.2 (by omega)
        · simp only [Mem.set, hv, if_false, if_true, Nat.lt_irrefl, Mem.wfFrom, Bool.and_eq_true, decide_eq_true_eq]
          exact ⟨⟨Nat.min_le_right _ _, hv⟩, h.2⟩
      · simp only [Mem.set, h1, h2, if_false, Mem.wfFrom, Bool.and_eq_true, decide_eq_true_eq]
        refine ⟨⟨by omega, h.1.2⟩, ?_⟩
        have := ih h.2
        have hle : min (c + 1) a = c + 1 := by omega
        rwa [hle] at this

/-- Writing a byte keeps the canonical form. -/
theorem mem_wf_set {m : Mem} (h : Mem.wf m = true) (a : Nat) (v : BitVec 8) : Mem.wf (Mem.set m a v) = true := by
  have := mem_wfFrom_set h a v
  simpa [Mem.wf] using this

/-- Writing bytes keeps the canonical form. -/
theorem mem_wf_write {m : Mem} (h : Mem.wf m = true) (a : Nat) (bs : List (BitVec 8)) : Mem.wf (Mem.write m a bs) = true := by
  induction bs generalizing m a with
  | nil => exact h
  | cons b bs ih => exact ih (mem_wf_set h a b) (a + 1)

theorem mem_wfFrom_filter {m : Mem} {n : Nat} (h : Mem.wfFrom n m = true) (p : Host.Cell → Bool) :
    Mem.wfFrom n (m.filter p) = true := by
  induction m generalizing n with
  | nil => rfl
  | cons e m ih =>
    obtain ⟨c, w⟩ := e
    simp only [Mem.wfFrom, Bool.and_eq_true, decide_eq_true_eq] at h
    by_cases hp : p (c, w) = true
    · simp only [List.filter_cons, hp, if_true, Mem.wfFrom, Bool.and_eq_true, decide_eq_true_eq]
      exact ⟨h.1, ih h.2⟩
    · simp only [List.filter_cons, hp]
      exact mem_wfFrom_mono (ih h.2) (by omega)

/-- Clearing or dropping cells keeps the canonical form. -/
theorem mem_wf_filter {m : Mem} (h : Mem.wf m = true) (p : Host.Cell → Bool) : Mem.wf (m.filter p) = true :=
  mem_wfFrom_filter h p

theorem mem_wf_clear {m : Mem} (h : Mem.wf m = true) (a n : Nat) : Mem.wf (Mem.clear m a n) = true :=
  mem_wfFrom_filter h _

/-- A byte read after one byte was written. -/
theorem mem_get_set_wf {m : Mem} (h : Mem.wf m = true) (a b : Nat) (v : BitVec 8) :
    Mem.get (Mem.set m a v) b = if a = b then v else Mem.get m b := mem_get_set h a b v

/-- A byte read after bytes were written: the written one inside their range, the old one elsewhere. -/
theorem mem_get_write {m : Mem} (h : Mem.wf m = true) (a b : Nat) (bs : List (BitVec 8)) :
    Mem.get (Mem.write m a bs) b = if a ≤ b ∧ b < a + bs.length then bs.getD (b - a) 0 else Mem.get m b := by
  induction bs generalizing m a with
  | nil =>
    have : ¬ (a ≤ b ∧ b < a + 0) := by omega
    simp [Mem.write, this]
  | cons v bs ih =>
    simp only [Mem.write, ih (mem_wf_set h a v), mem_get_set_wf h]
    by_cases h0 : a = b
    · subst h0
      have h1 : ¬ (a + 1 ≤ a ∧ a < a + 1 + bs.length) := by omega
      have h2 : a ≤ a ∧ a < a + (bs.length + 1) := by omega
      simp [h1]
    · by_cases h1 : a + 1 ≤ b ∧ b < a + 1 + bs.length
      · have h2 : a ≤ b ∧ b < a + (bs.length + 1) := by omega
        obtain ⟨d, rfl⟩ : ∃ d, b = a + 1 + d := ⟨b - (a + 1), by omega⟩
        have e1 : a + 1 + d - (a + 1) = d := by omega
        have e2 : a + 1 + d - a = d + 1 := by omega
        simp only [h1, h2, e1, e2, List.length_cons, if_true, List.getD_cons_succ]
        simp
      · have h2 : ¬ (a ≤ b ∧ b < a + (bs.length + 1)) := by omega
        simp only [h1, h2, h0, List.length_cons, if_false]

/-- Bytes read where no written byte lies are the old ones. -/
theorem mem_get_write_out {m : Mem} (h : Mem.wf m = true) {a b : Nat} {bs : List (BitVec 8)}
    (ho : b < a ∨ a + bs.length ≤ b) : Mem.get (Mem.write m a bs) b = Mem.get m b := by
  rw [mem_get_write h, if_neg (by omega)]

/-- A read of the bytes just written gives them back. -/
theorem mem_read_write {m : Mem} (h : Mem.wf m = true) (a : Nat) (bs : List (BitVec 8)) :
    Mem.read (Mem.write m a bs) a bs.length = bs := by
  have key : ∀ (n k : Nat), k + n = bs.length → Mem.read (Mem.write m a bs) (a + k) n = bs.drop k := by
    intro n
    induction n with
    | zero => intro k hk; simp [Mem.read, List.drop_eq_nil_of_le (by omega : bs.length ≤ k)]
    | succ n ih =>
      intro k hk
      have hlt : k < bs.length := by omega
      rw [List.drop_eq_getElem_cons hlt]
      simp only [Mem.read]
      have : a + k + 1 = a + (k + 1) := by omega
      rw [this, ih (k + 1) (by omega), mem_get_write h, if_pos (by omega)]
      simp [List.getD_eq_getElem?_getD, hlt]
  have := key bs.length 0 (by omega)
  simpa using this

end Sys2Proof.Laws
end

