-- ==== Sys2Proof/Laws/State.lean ====
section
/-! SUPPORT. What each update of the state leaves in each field: one lemma per field per update, so that a proof need
not unfold a record update. Then what the accessors of the executing context give after them. -/

namespace Sys2Proof.Laws

open Sys2Proof.Machine

variable (s : State)

/-! ### updCtx -/

@[simp] theorem updCtx_sched (c : CtxId) (f : Ctx → Ctx) : (s.updCtx c f).sched = s.sched := rfl
@[simp] theorem updCtx_cur (c : CtxId) (f : Ctx → Ctx) : (s.updCtx c f).cur = s.cur := rfl
@[simp] theorem updCtx_freeN (c : CtxId) (f : Ctx → Ctx) : (s.updCtx c f).freeN = s.freeN := rfl
@[simp] theorem updCtx_slot (c : CtxId) (f : Ctx → Ctx) : (s.updCtx c f).slot = s.slot := rfl
@[simp] theorem updCtx_ctxs (c : CtxId) (f : Ctx → Ctx) : (s.updCtx c f).ctxs = Tab.upd s.ctxs c f := rfl
@[simp] theorem updCtx_grains (c : CtxId) (f : Ctx → Ctx) : (s.updCtx c f).grains = s.grains := rfl
@[simp] theorem updCtx_sheaves (c : CtxId) (f : Ctx → Ctx) : (s.updCtx c f).sheaves = s.sheaves := rfl
@[simp] theorem updCtx_cores (c : CtxId) (f : Ctx → Ctx) : (s.updCtx c f).cores = s.cores := rfl
@[simp] theorem updCtx_quads (c : CtxId) (f : Ctx → Ctx) : (s.updCtx c f).quads = s.quads := rfl
@[simp] theorem updCtx_tiles (c : CtxId) (f : Ctx → Ctx) : (s.updCtx c f).tiles = s.tiles := rfl
@[simp] theorem updCtx_vds (c : CtxId) (f : Ctx → Ctx) : (s.updCtx c f).vds = s.vds := rfl
@[simp] theorem updCtx_dev (c : CtxId) (f : Ctx → Ctx) : (s.updCtx c f).dev = s.dev := rfl
@[simp] theorem updCtx_hbm (c : CtxId) (f : Ctx → Ctx) : (s.updCtx c f).hbm = s.hbm := rfl
@[simp] theorem updCtx_lmem (c : CtxId) (f : Ctx → Ctx) : (s.updCtx c f).lmem = s.lmem := rfl
@[simp] theorem updCtx_fe (c : CtxId) (f : Ctx → Ctx) : (s.updCtx c f).fe = s.fe := rfl
@[simp] theorem updCtx_wbuf (c : CtxId) (f : Ctx → Ctx) : (s.updCtx c f).wbuf = s.wbuf := rfl
@[simp] theorem updCtx_accm (c : CtxId) (f : Ctx → Ctx) : (s.updCtx c f).accm = s.accm := rfl
@[simp] theorem updCtx_host (c : CtxId) (f : Ctx → Ctx) : (s.updCtx c f).host = s.host := rfl

/-! ### updMe -/

@[simp] theorem updMe_sched (f : Ctx → Ctx) : (s.updMe f).sched = s.sched := rfl
@[simp] theorem updMe_cur (f : Ctx → Ctx) : (s.updMe f).cur = s.cur := rfl
@[simp] theorem updMe_freeN (f : Ctx → Ctx) : (s.updMe f).freeN = s.freeN := rfl
@[simp] theorem updMe_slot (f : Ctx → Ctx) : (s.updMe f).slot = s.slot := rfl
@[simp] theorem updMe_ctxs (f : Ctx → Ctx) : (s.updMe f).ctxs = Tab.upd s.ctxs s.cur f := rfl
@[simp] theorem updMe_grains (f : Ctx → Ctx) : (s.updMe f).grains = s.grains := rfl
@[simp] theorem updMe_sheaves (f : Ctx → Ctx) : (s.updMe f).sheaves = s.sheaves := rfl
@[simp] theorem updMe_cores (f : Ctx → Ctx) : (s.updMe f).cores = s.cores := rfl
@[simp] theorem updMe_quads (f : Ctx → Ctx) : (s.updMe f).quads = s.quads := rfl
@[simp] theorem updMe_tiles (f : Ctx → Ctx) : (s.updMe f).tiles = s.tiles := rfl
@[simp] theorem updMe_vds (f : Ctx → Ctx) : (s.updMe f).vds = s.vds := rfl
@[simp] theorem updMe_dev (f : Ctx → Ctx) : (s.updMe f).dev = s.dev := rfl
@[simp] theorem updMe_hbm (f : Ctx → Ctx) : (s.updMe f).hbm = s.hbm := rfl
@[simp] theorem updMe_lmem (f : Ctx → Ctx) : (s.updMe f).lmem = s.lmem := rfl
@[simp] theorem updMe_fe (f : Ctx → Ctx) : (s.updMe f).fe = s.fe := rfl
@[simp] theorem updMe_wbuf (f : Ctx → Ctx) : (s.updMe f).wbuf = s.wbuf := rfl
@[simp] theorem updMe_accm (f : Ctx → Ctx) : (s.updMe f).accm = s.accm := rfl
@[simp] theorem updMe_host (f : Ctx → Ctx) : (s.updMe f).host = s.host := rfl

/-! ### updGrainOf -/

@[simp] theorem updGrainOf_sched (c : CtxId) (f : Grain → Grain) : (s.updGrainOf c f).sched = s.sched := rfl
@[simp] theorem updGrainOf_cur (c : CtxId) (f : Grain → Grain) : (s.updGrainOf c f).cur = s.cur := rfl
@[simp] theorem updGrainOf_freeN (c : CtxId) (f : Grain → Grain) : (s.updGrainOf c f).freeN = s.freeN := rfl
@[simp] theorem updGrainOf_slot (c : CtxId) (f : Grain → Grain) : (s.updGrainOf c f).slot = s.slot := rfl
@[simp] theorem updGrainOf_ctxs (c : CtxId) (f : Grain → Grain) : (s.updGrainOf c f).ctxs = s.ctxs := rfl
@[simp] theorem updGrainOf_grains (c : CtxId) (f : Grain → Grain) : (s.updGrainOf c f).grains = Tab.upd s.grains (c.sheaf, c.grain) f := rfl
@[simp] theorem updGrainOf_sheaves (c : CtxId) (f : Grain → Grain) : (s.updGrainOf c f).sheaves = s.sheaves := rfl
@[simp] theorem updGrainOf_cores (c : CtxId) (f : Grain → Grain) : (s.updGrainOf c f).cores = s.cores := rfl
@[simp] theorem updGrainOf_quads (c : CtxId) (f : Grain → Grain) : (s.updGrainOf c f).quads = s.quads := rfl
@[simp] theorem updGrainOf_tiles (c : CtxId) (f : Grain → Grain) : (s.updGrainOf c f).tiles = s.tiles := rfl
@[simp] theorem updGrainOf_vds (c : CtxId) (f : Grain → Grain) : (s.updGrainOf c f).vds = s.vds := rfl
@[simp] theorem updGrainOf_dev (c : CtxId) (f : Grain → Grain) : (s.updGrainOf c f).dev = s.dev := rfl
@[simp] theorem updGrainOf_hbm (c : CtxId) (f : Grain → Grain) : (s.updGrainOf c f).hbm = s.hbm := rfl
@[simp] theorem updGrainOf_lmem (c : CtxId) (f : Grain → Grain) : (s.updGrainOf c f).lmem = s.lmem := rfl
@[simp] theorem updGrainOf_fe (c : CtxId) (f : Grain → Grain) : (s.updGrainOf c f).fe = s.fe := rfl
@[simp] theorem updGrainOf_wbuf (c : CtxId) (f : Grain → Grain) : (s.updGrainOf c f).wbuf = s.wbuf := rfl
@[simp] theorem updGrainOf_accm (c : CtxId) (f : Grain → Grain) : (s.updGrainOf c f).accm = s.accm := rfl
@[simp] theorem updGrainOf_host (c : CtxId) (f : Grain → Grain) : (s.updGrainOf c f).host = s.host := rfl

/-! ### updGrain -/

@[simp] theorem updGrain_sched (f : Grain → Grain) : (s.updGrain f).sched = s.sched := rfl
@[simp] theorem updGrain_cur (f : Grain → Grain) : (s.updGrain f).cur = s.cur := rfl
@[simp] theorem updGrain_freeN (f : Grain → Grain) : (s.updGrain f).freeN = s.freeN := rfl
@[simp] theorem updGrain_slot (f : Grain → Grain) : (s.updGrain f).slot = s.slot := rfl
@[simp] theorem updGrain_ctxs (f : Grain → Grain) : (s.updGrain f).ctxs = s.ctxs := rfl
@[simp] theorem updGrain_grains (f : Grain → Grain) : (s.updGrain f).grains = Tab.upd s.grains (s.cur.sheaf, s.cur.grain) f := rfl
@[simp] theorem updGrain_sheaves (f : Grain → Grain) : (s.updGrain f).sheaves = s.sheaves := rfl
@[simp] theorem updGrain_cores (f : Grain → Grain) : (s.updGrain f).cores = s.cores := rfl
@[simp] theorem updGrain_quads (f : Grain → Grain) : (s.updGrain f).quads = s.quads := rfl
@[simp] theorem updGrain_tiles (f : Grain → Grain) : (s.updGrain f).tiles = s.tiles := rfl
@[simp] theorem updGrain_vds (f : Grain → Grain) : (s.updGrain f).vds = s.vds := rfl
@[simp] theorem updGrain_dev (f : Grain → Grain) : (s.updGrain f).dev = s.dev := rfl
@[simp] theorem updGrain_hbm (f : Grain → Grain) : (s.updGrain f).hbm = s.hbm := rfl
@[simp] theorem updGrain_lmem (f : Grain → Grain) : (s.updGrain f).lmem = s.lmem := rfl
@[simp] theorem updGrain_fe (f : Grain → Grain) : (s.updGrain f).fe = s.fe := rfl
@[simp] theorem updGrain_wbuf (f : Grain → Grain) : (s.updGrain f).wbuf = s.wbuf := rfl
@[simp] theorem updGrain_accm (f : Grain → Grain) : (s.updGrain f).accm = s.accm := rfl
@[simp] theorem updGrain_host (f : Grain → Grain) : (s.updGrain f).host = s.host := rfl

/-! ### updSheaf -/

@[simp] theorem updSheaf_sched (n : Nat) (f : Sheaf → Sheaf) : (s.updSheaf n f).sched = s.sched := rfl
@[simp] theorem updSheaf_cur (n : Nat) (f : Sheaf → Sheaf) : (s.updSheaf n f).cur = s.cur := rfl
@[simp] theorem updSheaf_freeN (n : Nat) (f : Sheaf → Sheaf) : (s.updSheaf n f).freeN = s.freeN := rfl
@[simp] theorem updSheaf_slot (n : Nat) (f : Sheaf → Sheaf) : (s.updSheaf n f).slot = s.slot := rfl
@[simp] theorem updSheaf_ctxs (n : Nat) (f : Sheaf → Sheaf) : (s.updSheaf n f).ctxs = s.ctxs := rfl
@[simp] theorem updSheaf_grains (n : Nat) (f : Sheaf → Sheaf) : (s.updSheaf n f).grains = s.grains := rfl
@[simp] theorem updSheaf_sheaves (n : Nat) (f : Sheaf → Sheaf) : (s.updSheaf n f).sheaves = Tab.upd s.sheaves n f := rfl
@[simp] theorem updSheaf_cores (n : Nat) (f : Sheaf → Sheaf) : (s.updSheaf n f).cores = s.cores := rfl
@[simp] theorem updSheaf_quads (n : Nat) (f : Sheaf → Sheaf) : (s.updSheaf n f).quads = s.quads := rfl
@[simp] theorem updSheaf_tiles (n : Nat) (f : Sheaf → Sheaf) : (s.updSheaf n f).tiles = s.tiles := rfl
@[simp] theorem updSheaf_vds (n : Nat) (f : Sheaf → Sheaf) : (s.updSheaf n f).vds = s.vds := rfl
@[simp] theorem updSheaf_dev (n : Nat) (f : Sheaf → Sheaf) : (s.updSheaf n f).dev = s.dev := rfl
@[simp] theorem updSheaf_hbm (n : Nat) (f : Sheaf → Sheaf) : (s.updSheaf n f).hbm = s.hbm := rfl
@[simp] theorem updSheaf_lmem (n : Nat) (f : Sheaf → Sheaf) : (s.updSheaf n f).lmem = s.lmem := rfl
@[simp] theorem updSheaf_fe (n : Nat) (f : Sheaf → Sheaf) : (s.updSheaf n f).fe = s.fe := rfl
@[simp] theorem updSheaf_wbuf (n : Nat) (f : Sheaf → Sheaf) : (s.updSheaf n f).wbuf = s.wbuf := rfl
@[simp] theorem updSheaf_accm (n : Nat) (f : Sheaf → Sheaf) : (s.updSheaf n f).accm = s.accm := rfl
@[simp] theorem updSheaf_host (n : Nat) (f : Sheaf → Sheaf) : (s.updSheaf n f).host = s.host := rfl

/-! ### updCore -/

@[simp] theorem updCore_sched (n : Nat) (f : Core → Core) : (s.updCore n f).sched = s.sched := rfl
@[simp] theorem updCore_cur (n : Nat) (f : Core → Core) : (s.updCore n f).cur = s.cur := rfl
@[simp] theorem updCore_freeN (n : Nat) (f : Core → Core) : (s.updCore n f).freeN = s.freeN := rfl
@[simp] theorem updCore_slot (n : Nat) (f : Core → Core) : (s.updCore n f).slot = s.slot := rfl
@[simp] theorem updCore_ctxs (n : Nat) (f : Core → Core) : (s.updCore n f).ctxs = s.ctxs := rfl
@[simp] theorem updCore_grains (n : Nat) (f : Core → Core) : (s.updCore n f).grains = s.grains := rfl
@[simp] theorem updCore_sheaves (n : Nat) (f : Core → Core) : (s.updCore n f).sheaves = s.sheaves := rfl
@[simp] theorem updCore_cores (n : Nat) (f : Core → Core) : (s.updCore n f).cores = Tab.updD s.cores n Core.zero f := rfl
@[simp] theorem updCore_quads (n : Nat) (f : Core → Core) : (s.updCore n f).quads = s.quads := rfl
@[simp] theorem updCore_tiles (n : Nat) (f : Core → Core) : (s.updCore n f).tiles = s.tiles := rfl
@[simp] theorem updCore_vds (n : Nat) (f : Core → Core) : (s.updCore n f).vds = s.vds := rfl
@[simp] theorem updCore_dev (n : Nat) (f : Core → Core) : (s.updCore n f).dev = s.dev := rfl
@[simp] theorem updCore_hbm (n : Nat) (f : Core → Core) : (s.updCore n f).hbm = s.hbm := rfl
@[simp] theorem updCore_lmem (n : Nat) (f : Core → Core) : (s.updCore n f).lmem = s.lmem := rfl
@[simp] theorem updCore_fe (n : Nat) (f : Core → Core) : (s.updCore n f).fe = s.fe := rfl
@[simp] theorem updCore_wbuf (n : Nat) (f : Core → Core) : (s.updCore n f).wbuf = s.wbuf := rfl
@[simp] theorem updCore_accm (n : Nat) (f : Core → Core) : (s.updCore n f).accm = s.accm := rfl
@[simp] theorem updCore_host (n : Nat) (f : Core → Core) : (s.updCore n f).host = s.host := rfl

/-! ### updQuad -/

@[simp] theorem updQuad_sched (n : Nat) (f : Quad → Quad) : (s.updQuad n f).sched = s.sched := rfl
@[simp] theorem updQuad_cur (n : Nat) (f : Quad → Quad) : (s.updQuad n f).cur = s.cur := rfl
@[simp] theorem updQuad_freeN (n : Nat) (f : Quad → Quad) : (s.updQuad n f).freeN = s.freeN := rfl
@[simp] theorem updQuad_slot (n : Nat) (f : Quad → Quad) : (s.updQuad n f).slot = s.slot := rfl
@[simp] theorem updQuad_ctxs (n : Nat) (f : Quad → Quad) : (s.updQuad n f).ctxs = s.ctxs := rfl
@[simp] theorem updQuad_grains (n : Nat) (f : Quad → Quad) : (s.updQuad n f).grains = s.grains := rfl
@[simp] theorem updQuad_sheaves (n : Nat) (f : Quad → Quad) : (s.updQuad n f).sheaves = s.sheaves := rfl
@[simp] theorem updQuad_cores (n : Nat) (f : Quad → Quad) : (s.updQuad n f).cores = s.cores := rfl
@[simp] theorem updQuad_quads (n : Nat) (f : Quad → Quad) : (s.updQuad n f).quads = Tab.updD s.quads n Quad.zero f := rfl
@[simp] theorem updQuad_tiles (n : Nat) (f : Quad → Quad) : (s.updQuad n f).tiles = s.tiles := rfl
@[simp] theorem updQuad_vds (n : Nat) (f : Quad → Quad) : (s.updQuad n f).vds = s.vds := rfl
@[simp] theorem updQuad_dev (n : Nat) (f : Quad → Quad) : (s.updQuad n f).dev = s.dev := rfl
@[simp] theorem updQuad_hbm (n : Nat) (f : Quad → Quad) : (s.updQuad n f).hbm = s.hbm := rfl
@[simp] theorem updQuad_lmem (n : Nat) (f : Quad → Quad) : (s.updQuad n f).lmem = s.lmem := rfl
@[simp] theorem updQuad_fe (n : Nat) (f : Quad → Quad) : (s.updQuad n f).fe = s.fe := rfl
@[simp] theorem updQuad_wbuf (n : Nat) (f : Quad → Quad) : (s.updQuad n f).wbuf = s.wbuf := rfl
@[simp] theorem updQuad_accm (n : Nat) (f : Quad → Quad) : (s.updQuad n f).accm = s.accm := rfl
@[simp] theorem updQuad_host (n : Nat) (f : Quad → Quad) : (s.updQuad n f).host = s.host := rfl

/-! ### updTile -/

@[simp] theorem updTile_sched (n : Nat) (f : Tile → Tile) : (s.updTile n f).sched = s.sched := rfl
@[simp] theorem updTile_cur (n : Nat) (f : Tile → Tile) : (s.updTile n f).cur = s.cur := rfl
@[simp] theorem updTile_freeN (n : Nat) (f : Tile → Tile) : (s.updTile n f).freeN = s.freeN := rfl
@[simp] theorem updTile_slot (n : Nat) (f : Tile → Tile) : (s.updTile n f).slot = s.slot := rfl
@[simp] theorem updTile_ctxs (n : Nat) (f : Tile → Tile) : (s.updTile n f).ctxs = s.ctxs := rfl
@[simp] theorem updTile_grains (n : Nat) (f : Tile → Tile) : (s.updTile n f).grains = s.grains := rfl
@[simp] theorem updTile_sheaves (n : Nat) (f : Tile → Tile) : (s.updTile n f).sheaves = s.sheaves := rfl
@[simp] theorem updTile_cores (n : Nat) (f : Tile → Tile) : (s.updTile n f).cores = s.cores := rfl
@[simp] theorem updTile_quads (n : Nat) (f : Tile → Tile) : (s.updTile n f).quads = s.quads := rfl
@[simp] theorem updTile_tiles (n : Nat) (f : Tile → Tile) : (s.updTile n f).tiles = Tab.updD s.tiles n Tile.zero f := rfl
@[simp] theorem updTile_vds (n : Nat) (f : Tile → Tile) : (s.updTile n f).vds = s.vds := rfl
@[simp] theorem updTile_dev (n : Nat) (f : Tile → Tile) : (s.updTile n f).dev = s.dev := rfl
@[simp] theorem updTile_hbm (n : Nat) (f : Tile → Tile) : (s.updTile n f).hbm = s.hbm := rfl
@[simp] theorem updTile_lmem (n : Nat) (f : Tile → Tile) : (s.updTile n f).lmem = s.lmem := rfl
@[simp] theorem updTile_fe (n : Nat) (f : Tile → Tile) : (s.updTile n f).fe = s.fe := rfl
@[simp] theorem updTile_wbuf (n : Nat) (f : Tile → Tile) : (s.updTile n f).wbuf = s.wbuf := rfl
@[simp] theorem updTile_accm (n : Nat) (f : Tile → Tile) : (s.updTile n f).accm = s.accm := rfl
@[simp] theorem updTile_host (n : Nat) (f : Tile → Tile) : (s.updTile n f).host = s.host := rfl

/-! ### updVd -/

@[simp] theorem updVd_sched (n : Nat) (f : Vd → Vd) : (s.updVd n f).sched = s.sched := rfl
@[simp] theorem updVd_cur (n : Nat) (f : Vd → Vd) : (s.updVd n f).cur = s.cur := rfl
@[simp] theorem updVd_freeN (n : Nat) (f : Vd → Vd) : (s.updVd n f).freeN = s.freeN := rfl
@[simp] theorem updVd_slot (n : Nat) (f : Vd → Vd) : (s.updVd n f).slot = s.slot := rfl
@[simp] theorem updVd_ctxs (n : Nat) (f : Vd → Vd) : (s.updVd n f).ctxs = s.ctxs := rfl
@[simp] theorem updVd_grains (n : Nat) (f : Vd → Vd) : (s.updVd n f).grains = s.grains := rfl
@[simp] theorem updVd_sheaves (n : Nat) (f : Vd → Vd) : (s.updVd n f).sheaves = s.sheaves := rfl
@[simp] theorem updVd_cores (n : Nat) (f : Vd → Vd) : (s.updVd n f).cores = s.cores := rfl
@[simp] theorem updVd_quads (n : Nat) (f : Vd → Vd) : (s.updVd n f).quads = s.quads := rfl
@[simp] theorem updVd_tiles (n : Nat) (f : Vd → Vd) : (s.updVd n f).tiles = s.tiles := rfl
@[simp] theorem updVd_vds (n : Nat) (f : Vd → Vd) : (s.updVd n f).vds = Tab.updD s.vds n Vd.zero f := rfl
@[simp] theorem updVd_dev (n : Nat) (f : Vd → Vd) : (s.updVd n f).dev = s.dev := rfl
@[simp] theorem updVd_hbm (n : Nat) (f : Vd → Vd) : (s.updVd n f).hbm = s.hbm := rfl
@[simp] theorem updVd_lmem (n : Nat) (f : Vd → Vd) : (s.updVd n f).lmem = s.lmem := rfl
@[simp] theorem updVd_fe (n : Nat) (f : Vd → Vd) : (s.updVd n f).fe = s.fe := rfl
@[simp] theorem updVd_wbuf (n : Nat) (f : Vd → Vd) : (s.updVd n f).wbuf = s.wbuf := rfl
@[simp] theorem updVd_accm (n : Nat) (f : Vd → Vd) : (s.updVd n f).accm = s.accm := rfl
@[simp] theorem updVd_host (n : Nat) (f : Vd → Vd) : (s.updVd n f).host = s.host := rfl

/-! ### updDev -/

@[simp] theorem updDev_sched (f : Dev → Dev) : (s.updDev f).sched = s.sched := rfl
@[simp] theorem updDev_cur (f : Dev → Dev) : (s.updDev f).cur = s.cur := rfl
@[simp] theorem updDev_freeN (f : Dev → Dev) : (s.updDev f).freeN = s.freeN := rfl
@[simp] theorem updDev_slot (f : Dev → Dev) : (s.updDev f).slot = s.slot := rfl
@[simp] theorem updDev_ctxs (f : Dev → Dev) : (s.updDev f).ctxs = s.ctxs := rfl
@[simp] theorem updDev_grains (f : Dev → Dev) : (s.updDev f).grains = s.grains := rfl
@[simp] theorem updDev_sheaves (f : Dev → Dev) : (s.updDev f).sheaves = s.sheaves := rfl
@[simp] theorem updDev_cores (f : Dev → Dev) : (s.updDev f).cores = s.cores := rfl
@[simp] theorem updDev_quads (f : Dev → Dev) : (s.updDev f).quads = s.quads := rfl
@[simp] theorem updDev_tiles (f : Dev → Dev) : (s.updDev f).tiles = s.tiles := rfl
@[simp] theorem updDev_vds (f : Dev → Dev) : (s.updDev f).vds = s.vds := rfl
@[simp] theorem updDev_dev (f : Dev → Dev) : (s.updDev f).dev = f s.dev := rfl
@[simp] theorem updDev_hbm (f : Dev → Dev) : (s.updDev f).hbm = s.hbm := rfl
@[simp] theorem updDev_lmem (f : Dev → Dev) : (s.updDev f).lmem = s.lmem := rfl
@[simp] theorem updDev_fe (f : Dev → Dev) : (s.updDev f).fe = s.fe := rfl
@[simp] theorem updDev_wbuf (f : Dev → Dev) : (s.updDev f).wbuf = s.wbuf := rfl
@[simp] theorem updDev_accm (f : Dev → Dev) : (s.updDev f).accm = s.accm := rfl
@[simp] theorem updDev_host (f : Dev → Dev) : (s.updDev f).host = s.host := rfl

/-! ### setCtl -/

@[simp] theorem setCtl_sched (vd off : Nat) (w : W64) : (s.setCtl vd off w).sched = s.sched := rfl
@[simp] theorem setCtl_cur (vd off : Nat) (w : W64) : (s.setCtl vd off w).cur = s.cur := rfl
@[simp] theorem setCtl_freeN (vd off : Nat) (w : W64) : (s.setCtl vd off w).freeN = s.freeN := rfl
@[simp] theorem setCtl_slot (vd off : Nat) (w : W64) : (s.setCtl vd off w).slot = s.slot := rfl
@[simp] theorem setCtl_ctxs (vd off : Nat) (w : W64) : (s.setCtl vd off w).ctxs = s.ctxs := rfl
@[simp] theorem setCtl_grains (vd off : Nat) (w : W64) : (s.setCtl vd off w).grains = s.grains := rfl
@[simp] theorem setCtl_sheaves (vd off : Nat) (w : W64) : (s.setCtl vd off w).sheaves = s.sheaves := rfl
@[simp] theorem setCtl_cores (vd off : Nat) (w : W64) : (s.setCtl vd off w).cores = s.cores := rfl
@[simp] theorem setCtl_quads (vd off : Nat) (w : W64) : (s.setCtl vd off w).quads = s.quads := rfl
@[simp] theorem setCtl_tiles (vd off : Nat) (w : W64) : (s.setCtl vd off w).tiles = s.tiles := rfl
@[simp] theorem setCtl_vds (vd off : Nat) (w : W64) : (s.setCtl vd off w).vds = Tab.updD s.vds vd Vd.zero fun v => v.setCtl off w := rfl
@[simp] theorem setCtl_dev (vd off : Nat) (w : W64) : (s.setCtl vd off w).dev = s.dev := rfl
@[simp] theorem setCtl_hbm (vd off : Nat) (w : W64) : (s.setCtl vd off w).hbm = s.hbm := rfl
@[simp] theorem setCtl_lmem (vd off : Nat) (w : W64) : (s.setCtl vd off w).lmem = s.lmem := rfl
@[simp] theorem setCtl_fe (vd off : Nat) (w : W64) : (s.setCtl vd off w).fe = s.fe := rfl
@[simp] theorem setCtl_wbuf (vd off : Nat) (w : W64) : (s.setCtl vd off w).wbuf = s.wbuf := rfl
@[simp] theorem setCtl_accm (vd off : Nat) (w : W64) : (s.setCtl vd off w).accm = s.accm := rfl
@[simp] theorem setCtl_host (vd off : Nat) (w : W64) : (s.setCtl vd off w).host = s.host := rfl

/-! ### setHyp -/

@[simp] theorem setHyp_sched (vd off : Nat) (w : W64) : (s.setHyp vd off w).sched = s.sched := rfl
@[simp] theorem setHyp_cur (vd off : Nat) (w : W64) : (s.setHyp vd off w).cur = s.cur := rfl
@[simp] theorem setHyp_freeN (vd off : Nat) (w : W64) : (s.setHyp vd off w).freeN = s.freeN := rfl
@[simp] theorem setHyp_slot (vd off : Nat) (w : W64) : (s.setHyp vd off w).slot = s.slot := rfl
@[simp] theorem setHyp_ctxs (vd off : Nat) (w : W64) : (s.setHyp vd off w).ctxs = s.ctxs := rfl
@[simp] theorem setHyp_grains (vd off : Nat) (w : W64) : (s.setHyp vd off w).grains = s.grains := rfl
@[simp] theorem setHyp_sheaves (vd off : Nat) (w : W64) : (s.setHyp vd off w).sheaves = s.sheaves := rfl
@[simp] theorem setHyp_cores (vd off : Nat) (w : W64) : (s.setHyp vd off w).cores = s.cores := rfl
@[simp] theorem setHyp_quads (vd off : Nat) (w : W64) : (s.setHyp vd off w).quads = s.quads := rfl
@[simp] theorem setHyp_tiles (vd off : Nat) (w : W64) : (s.setHyp vd off w).tiles = s.tiles := rfl
@[simp] theorem setHyp_vds (vd off : Nat) (w : W64) : (s.setHyp vd off w).vds = Tab.updD s.vds vd Vd.zero fun v => v.setHyp off w := rfl
@[simp] theorem setHyp_dev (vd off : Nat) (w : W64) : (s.setHyp vd off w).dev = s.dev := rfl
@[simp] theorem setHyp_hbm (vd off : Nat) (w : W64) : (s.setHyp vd off w).hbm = s.hbm := rfl
@[simp] theorem setHyp_lmem (vd off : Nat) (w : W64) : (s.setHyp vd off w).lmem = s.lmem := rfl
@[simp] theorem setHyp_fe (vd off : Nat) (w : W64) : (s.setHyp vd off w).fe = s.fe := rfl
@[simp] theorem setHyp_wbuf (vd off : Nat) (w : W64) : (s.setHyp vd off w).wbuf = s.wbuf := rfl
@[simp] theorem setHyp_accm (vd off : Nat) (w : W64) : (s.setHyp vd off w).accm = s.accm := rfl
@[simp] theorem setHyp_host (vd off : Nat) (w : W64) : (s.setHyp vd off w).host = s.host := rfl

/-! ### setMg -/

@[simp] theorem setMg_sched (off : Nat) (w : W64) : (s.setMg off w).sched = s.sched := rfl
@[simp] theorem setMg_cur (off : Nat) (w : W64) : (s.setMg off w).cur = s.cur := rfl
@[simp] theorem setMg_freeN (off : Nat) (w : W64) : (s.setMg off w).freeN = s.freeN := rfl
@[simp] theorem setMg_slot (off : Nat) (w : W64) : (s.setMg off w).slot = s.slot := rfl
@[simp] theorem setMg_ctxs (off : Nat) (w : W64) : (s.setMg off w).ctxs = s.ctxs := rfl
@[simp] theorem setMg_grains (off : Nat) (w : W64) : (s.setMg off w).grains = s.grains := rfl
@[simp] theorem setMg_sheaves (off : Nat) (w : W64) : (s.setMg off w).sheaves = s.sheaves := rfl
@[simp] theorem setMg_cores (off : Nat) (w : W64) : (s.setMg off w).cores = s.cores := rfl
@[simp] theorem setMg_quads (off : Nat) (w : W64) : (s.setMg off w).quads = s.quads := rfl
@[simp] theorem setMg_tiles (off : Nat) (w : W64) : (s.setMg off w).tiles = s.tiles := rfl
@[simp] theorem setMg_vds (off : Nat) (w : W64) : (s.setMg off w).vds = s.vds := rfl
@[simp] theorem setMg_dev (off : Nat) (w : W64) : (s.setMg off w).dev = s.dev.setMg off w := rfl
@[simp] theorem setMg_hbm (off : Nat) (w : W64) : (s.setMg off w).hbm = s.hbm := rfl
@[simp] theorem setMg_lmem (off : Nat) (w : W64) : (s.setMg off w).lmem = s.lmem := rfl
@[simp] theorem setMg_fe (off : Nat) (w : W64) : (s.setMg off w).fe = s.fe := rfl
@[simp] theorem setMg_wbuf (off : Nat) (w : W64) : (s.setMg off w).wbuf = s.wbuf := rfl
@[simp] theorem setMg_accm (off : Nat) (w : W64) : (s.setMg off w).accm = s.accm := rfl
@[simp] theorem setMg_host (off : Nat) (w : W64) : (s.setMg off w).host = s.host := rfl

/-! ### fresh -/

@[simp] theorem fresh_sched : (s.fresh).sched = s.sched := rfl
@[simp] theorem fresh_cur : (s.fresh).cur = s.cur := rfl
@[simp] theorem fresh_freeN : (s.fresh).freeN = s.freeN + 1 := rfl
@[simp] theorem fresh_slot : (s.fresh).slot = s.slot := rfl
@[simp] theorem fresh_ctxs : (s.fresh).ctxs = s.ctxs := rfl
@[simp] theorem fresh_grains : (s.fresh).grains = s.grains := rfl
@[simp] theorem fresh_sheaves : (s.fresh).sheaves = s.sheaves := rfl
@[simp] theorem fresh_cores : (s.fresh).cores = s.cores := rfl
@[simp] theorem fresh_quads : (s.fresh).quads = s.quads := rfl
@[simp] theorem fresh_tiles : (s.fresh).tiles = s.tiles := rfl
@[simp] theorem fresh_vds : (s.fresh).vds = s.vds := rfl
@[simp] theorem fresh_dev : (s.fresh).dev = s.dev := rfl
@[simp] theorem fresh_hbm : (s.fresh).hbm = s.hbm := rfl
@[simp] theorem fresh_lmem : (s.fresh).lmem = s.lmem := rfl
@[simp] theorem fresh_fe : (s.fresh).fe = s.fe := rfl
@[simp] theorem fresh_wbuf : (s.fresh).wbuf = s.wbuf := rfl
@[simp] theorem fresh_accm : (s.fresh).accm = s.accm := rfl
@[simp] theorem fresh_host : (s.fresh).host = s.host := rfl

/-! ### tell -/

@[simp] theorem tell_sched (k : Nat) (w : W64) : (s.tell k w).sched = s.sched := rfl
@[simp] theorem tell_cur (k : Nat) (w : W64) : (s.tell k w).cur = s.cur := rfl
@[simp] theorem tell_freeN (k : Nat) (w : W64) : (s.tell k w).freeN = s.freeN := rfl
@[simp] theorem tell_slot (k : Nat) (w : W64) : (s.tell k w).slot = s.slot := rfl
@[simp] theorem tell_ctxs (k : Nat) (w : W64) : (s.tell k w).ctxs = s.ctxs := rfl
@[simp] theorem tell_grains (k : Nat) (w : W64) : (s.tell k w).grains = s.grains := rfl
@[simp] theorem tell_sheaves (k : Nat) (w : W64) : (s.tell k w).sheaves = s.sheaves := rfl
@[simp] theorem tell_cores (k : Nat) (w : W64) : (s.tell k w).cores = s.cores := rfl
@[simp] theorem tell_quads (k : Nat) (w : W64) : (s.tell k w).quads = s.quads := rfl
@[simp] theorem tell_tiles (k : Nat) (w : W64) : (s.tell k w).tiles = s.tiles := rfl
@[simp] theorem tell_vds (k : Nat) (w : W64) : (s.tell k w).vds = s.vds := rfl
@[simp] theorem tell_dev (k : Nat) (w : W64) : (s.tell k w).dev = { s.dev with toHost := s.dev.toHost ++ [(k, w)] } := rfl
@[simp] theorem tell_hbm (k : Nat) (w : W64) : (s.tell k w).hbm = s.hbm := rfl
@[simp] theorem tell_lmem (k : Nat) (w : W64) : (s.tell k w).lmem = s.lmem := rfl
@[simp] theorem tell_fe (k : Nat) (w : W64) : (s.tell k w).fe = s.fe := rfl
@[simp] theorem tell_wbuf (k : Nat) (w : W64) : (s.tell k w).wbuf = s.wbuf := rfl
@[simp] theorem tell_accm (k : Nat) (w : W64) : (s.tell k w).accm = s.accm := rfl
@[simp] theorem tell_host (k : Nat) (w : W64) : (s.tell k w).host = s.host := rfl

/-! ### Contexts after an update -/

@[simp] theorem updCtx_ctx_self (c : CtxId) (f : Ctx → Ctx) : (s.updCtx c f).ctx c = (s.ctx c).map f :=
  tab_find_upd_self _ _ _

theorem updCtx_ctx_ne {c d : CtxId} (f : Ctx → Ctx) (h : d ≠ c) : (s.updCtx c f).ctx d = s.ctx d :=
  tab_find_upd_ne _ _ (Ne.symm h)

@[simp] theorem updMe_ctx_cur (f : Ctx → Ctx) : (s.updMe f).ctx s.cur = (s.ctx s.cur).map f :=
  tab_find_upd_self _ _ _

theorem updMe_ctx_ne {d : CtxId} (f : Ctx → Ctx) (h : d ≠ s.cur) : (s.updMe f).ctx d = s.ctx d :=
  tab_find_upd_ne _ _ (Ne.symm h)

@[simp] theorem fresh_ctx (c : CtxId) : s.fresh.ctx c = s.ctx c := rfl
@[simp] theorem fresh_me : s.fresh.me = s.me := rfl

/-- The executing context after its update, when it is live. -/
theorem updMe_me (f : Ctx → Ctx) (h : (s.ctx s.cur).isSome = true) : (s.updMe f).me = f s.me := by
  obtain ⟨x, hx⟩ := Option.isSome_iff_exists.mp h
  simp only [State.ctx] at hx
  simp [State.me, hx]

@[simp] theorem updMe_isSome (f : Ctx → Ctx) : ((s.updMe f).ctx s.cur).isSome = (s.ctx s.cur).isSome := by
  simp

/-! ### The other parts read only their own table -/

@[simp] theorem updCtx_grainOf (c : CtxId) (f : Ctx → Ctx) (d : CtxId) : (s.updCtx c f).grainOf d = s.grainOf d := rfl
@[simp] theorem updCtx_sheafOf (c : CtxId) (f : Ctx → Ctx) (m : Nat) : (s.updCtx c f).sheafOf m = s.sheafOf m := rfl
@[simp] theorem updCtx_coreOf (c : CtxId) (f : Ctx → Ctx) (m : Nat) : (s.updCtx c f).coreOf m = s.coreOf m := rfl
@[simp] theorem updCtx_quadOf (c : CtxId) (f : Ctx → Ctx) (m : Nat) : (s.updCtx c f).quadOf m = s.quadOf m := rfl
@[simp] theorem updCtx_tileOf (c : CtxId) (f : Ctx → Ctx) (m : Nat) : (s.updCtx c f).tileOf m = s.tileOf m := rfl
@[simp] theorem updCtx_vdOf (c : CtxId) (f : Ctx → Ctx) (m : Nat) : (s.updCtx c f).vdOf m = s.vdOf m := rfl
@[simp] theorem updCtx_grain (c : CtxId) (f : Ctx → Ctx) : (s.updCtx c f).grain = s.grain := rfl
@[simp] theorem updMe_grainOf (f : Ctx → Ctx) (d : CtxId) : (s.updMe f).grainOf d = s.grainOf d := rfl
@[simp] theorem updMe_sheafOf (f : Ctx → Ctx) (m : Nat) : (s.updMe f).sheafOf m = s.sheafOf m := rfl
@[simp] theorem updMe_coreOf (f : Ctx → Ctx) (m : Nat) : (s.updMe f).coreOf m = s.coreOf m := rfl
@[simp] theorem updMe_quadOf (f : Ctx → Ctx) (m : Nat) : (s.updMe f).quadOf m = s.quadOf m := rfl
@[simp] theorem updMe_tileOf (f : Ctx → Ctx) (m : Nat) : (s.updMe f).tileOf m = s.tileOf m := rfl
@[simp] theorem updMe_vdOf (f : Ctx → Ctx) (m : Nat) : (s.updMe f).vdOf m = s.vdOf m := rfl
@[simp] theorem updMe_grain (f : Ctx → Ctx) : (s.updMe f).grain = s.grain := rfl
@[simp] theorem updGrainOf_ctx (c : CtxId) (f : Grain → Grain) (d : CtxId) : (s.updGrainOf c f).ctx d = s.ctx d := rfl
@[simp] theorem updGrainOf_sheafOf (c : CtxId) (f : Grain → Grain) (m : Nat) : (s.updGrainOf c f).sheafOf m = s.sheafOf m := rfl
@[simp] theorem updGrainOf_coreOf (c : CtxId) (f : Grain → Grain) (m : Nat) : (s.updGrainOf c f).coreOf m = s.coreOf m := rfl
@[simp] theorem updGrainOf_quadOf (c : CtxId) (f : Grain → Grain) (m : Nat) : (s.updGrainOf c f).quadOf m = s.quadOf m := rfl
@[simp] theorem updGrainOf_tileOf (c : CtxId) (f : Grain → Grain) (m : Nat) : (s.updGrainOf c f).tileOf m = s.tileOf m := rfl
@[simp] theorem updGrainOf_vdOf (c : CtxId) (f : Grain → Grain) (m : Nat) : (s.updGrainOf c f).vdOf m = s.vdOf m := rfl
@[simp] theorem updGrainOf_me (c : CtxId) (f : Grain → Grain) : (s.updGrainOf c f).me = s.me := rfl
@[simp] theorem updGrain_ctx (f : Grain → Grain) (d : CtxId) : (s.updGrain f).ctx d = s.ctx d := rfl
@[simp] theorem updGrain_sheafOf (f : Grain → Grain) (m : Nat) : (s.updGrain f).sheafOf m = s.sheafOf m := rfl
@[simp] theorem updGrain_coreOf (f : Grain → Grain) (m : Nat) : (s.updGrain f).coreOf m = s.coreOf m := rfl
@[simp] theorem updGrain_quadOf (f : Grain → Grain) (m : Nat) : (s.updGrain f).quadOf m = s.quadOf m := rfl
@[simp] theorem updGrain_tileOf (f : Grain → Grain) (m : Nat) : (s.updGrain f).tileOf m = s.tileOf m := rfl
@[simp] theorem updGrain_vdOf (f : Grain → Grain) (m : Nat) : (s.updGrain f).vdOf m = s.vdOf m := rfl
@[simp] theorem updGrain_me (f : Grain → Grain) : (s.updGrain f).me = s.me := rfl
@[simp] theorem updSheaf_ctx (n : Nat) (f : Sheaf → Sheaf) (d : CtxId) : (s.updSheaf n f).ctx d = s.ctx d := rfl
@[simp] theorem updSheaf_grainOf (n : Nat) (f : Sheaf → Sheaf) (d : CtxId) : (s.updSheaf n f).grainOf d = s.grainOf d := rfl
@[simp] theorem updSheaf_coreOf (n : Nat) (f : Sheaf → Sheaf) (m : Nat) : (s.updSheaf n f).coreOf m = s.coreOf m := rfl
@[simp] theorem updSheaf_quadOf (n : Nat) (f : Sheaf → Sheaf) (m : Nat) : (s.updSheaf n f).quadOf m = s.quadOf m := rfl
@[simp] theorem updSheaf_tileOf (n : Nat) (f : Sheaf → Sheaf) (m : Nat) : (s.updSheaf n f).tileOf m = s.tileOf m := rfl
@[simp] theorem updSheaf_vdOf (n : Nat) (f : Sheaf → Sheaf) (m : Nat) : (s.updSheaf n f).vdOf m = s.vdOf m := rfl
@[simp] theorem updSheaf_me (n : Nat) (f : Sheaf → Sheaf) : (s.updSheaf n f).me = s.me := rfl
@[simp] theorem updSheaf_grain (n : Nat) (f : Sheaf → Sheaf) : (s.updSheaf n f).grain = s.grain := rfl
@[simp] theorem updCore_ctx (n : Nat) (f : Core → Core) (d : CtxId) : (s.updCore n f).ctx d = s.ctx d := rfl
@[simp] theorem updCore_grainOf (n : Nat) (f : Core → Core) (d : CtxId) : (s.updCore n f).grainOf d = s.grainOf d := rfl
@[simp] theorem updCore_sheafOf (n : Nat) (f : Core → Core) (m : Nat) : (s.updCore n f).sheafOf m = s.sheafOf m := rfl
@[simp] theorem updCore_quadOf (n : Nat) (f : Core → Core) (m : Nat) : (s.updCore n f).quadOf m = s.quadOf m := rfl
@[simp] theorem updCore_tileOf (n : Nat) (f : Core → Core) (m : Nat) : (s.updCore n f).tileOf m = s.tileOf m := rfl
@[simp] theorem updCore_vdOf (n : Nat) (f : Core → Core) (m : Nat) : (s.updCore n f).vdOf m = s.vdOf m := rfl
@[simp] theorem updCore_me (n : Nat) (f : Core → Core) : (s.updCore n f).me = s.me := rfl
@[simp] theorem updCore_grain (n : Nat) (f : Core → Core) : (s.updCore n f).grain = s.grain := rfl
@[simp] theorem updQuad_ctx (n : Nat) (f : Quad → Quad) (d : CtxId) : (s.updQuad n f).ctx d = s.ctx d := rfl
@[simp] theorem updQuad_grainOf (n : Nat) (f : Quad → Quad) (d : CtxId) : (s.updQuad n f).grainOf d = s.grainOf d := rfl
@[simp] theorem updQuad_sheafOf (n : Nat) (f : Quad → Quad) (m : Nat) : (s.updQuad n f).sheafOf m = s.sheafOf m := rfl
@[simp] theorem updQuad_coreOf (n : Nat) (f : Quad → Quad) (m : Nat) : (s.updQuad n f).coreOf m = s.coreOf m := rfl
@[simp] theorem updQuad_tileOf (n : Nat) (f : Quad → Quad) (m : Nat) : (s.updQuad n f).tileOf m = s.tileOf m := rfl
@[simp] theorem updQuad_vdOf (n : Nat) (f : Quad → Quad) (m : Nat) : (s.updQuad n f).vdOf m = s.vdOf m := rfl
@[simp] theorem updQuad_me (n : Nat) (f : Quad → Quad) : (s.updQuad n f).me = s.me := rfl
@[simp] theorem updQuad_grain (n : Nat) (f : Quad → Quad) : (s.updQuad n f).grain = s.grain := rfl
@[simp] theorem updTile_ctx (n : Nat) (f : Tile → Tile) (d : CtxId) : (s.updTile n f).ctx d = s.ctx d := rfl
@[simp] theorem updTile_grainOf (n : Nat) (f : Tile → Tile) (d : CtxId) : (s.updTile n f).grainOf d = s.grainOf d := rfl
@[simp] theorem updTile_sheafOf (n : Nat) (f : Tile → Tile) (m : Nat) : (s.updTile n f).sheafOf m = s.sheafOf m := rfl
@[simp] theorem updTile_coreOf (n : Nat) (f : Tile → Tile) (m : Nat) : (s.updTile n f).coreOf m = s.coreOf m := rfl
@[simp] theorem updTile_quadOf (n : Nat) (f : Tile → Tile) (m : Nat) : (s.updTile n f).quadOf m = s.quadOf m := rfl
@[simp] theorem updTile_vdOf (n : Nat) (f : Tile → Tile) (m : Nat) : (s.updTile n f).vdOf m = s.vdOf m := rfl
@[simp] theorem updTile_me (n : Nat) (f : Tile → Tile) : (s.updTile n f).me = s.me := rfl
@[simp] theorem updTile_grain (n : Nat) (f : Tile → Tile) : (s.updTile n f).grain = s.grain := rfl
@[simp] theorem updVd_ctx (n : Nat) (f : Vd → Vd) (d : CtxId) : (s.updVd n f).ctx d = s.ctx d := rfl
@[simp] theorem updVd_grainOf (n : Nat) (f : Vd → Vd) (d : CtxId) : (s.updVd n f).grainOf d = s.grainOf d := rfl
@[simp] theorem updVd_sheafOf (n : Nat) (f : Vd → Vd) (m : Nat) : (s.updVd n f).sheafOf m = s.sheafOf m := rfl
@[simp] theorem updVd_coreOf (n : Nat) (f : Vd → Vd) (m : Nat) : (s.updVd n f).coreOf m = s.coreOf m := rfl
@[simp] theorem updVd_quadOf (n : Nat) (f : Vd → Vd) (m : Nat) : (s.updVd n f).quadOf m = s.quadOf m := rfl
@[simp] theorem updVd_tileOf (n : Nat) (f : Vd → Vd) (m : Nat) : (s.updVd n f).tileOf m = s.tileOf m := rfl
@[simp] theorem updVd_me (n : Nat) (f : Vd → Vd) : (s.updVd n f).me = s.me := rfl
@[simp] theorem updVd_grain (n : Nat) (f : Vd → Vd) : (s.updVd n f).grain = s.grain := rfl
@[simp] theorem updDev_ctx (f : Dev → Dev) (d : CtxId) : (s.updDev f).ctx d = s.ctx d := rfl
@[simp] theorem updDev_grainOf (f : Dev → Dev) (d : CtxId) : (s.updDev f).grainOf d = s.grainOf d := rfl
@[simp] theorem updDev_sheafOf (f : Dev → Dev) (m : Nat) : (s.updDev f).sheafOf m = s.sheafOf m := rfl
@[simp] theorem updDev_coreOf (f : Dev → Dev) (m : Nat) : (s.updDev f).coreOf m = s.coreOf m := rfl
@[simp] theorem updDev_quadOf (f : Dev → Dev) (m : Nat) : (s.updDev f).quadOf m = s.quadOf m := rfl
@[simp] theorem updDev_tileOf (f : Dev → Dev) (m : Nat) : (s.updDev f).tileOf m = s.tileOf m := rfl
@[simp] theorem updDev_vdOf (f : Dev → Dev) (m : Nat) : (s.updDev f).vdOf m = s.vdOf m := rfl
@[simp] theorem updDev_me (f : Dev → Dev) : (s.updDev f).me = s.me := rfl
@[simp] theorem updDev_grain (f : Dev → Dev) : (s.updDev f).grain = s.grain := rfl
@[simp] theorem setCtl_ctx (vd off : Nat) (w : W64) (d : CtxId) : (s.setCtl vd off w).ctx d = s.ctx d := rfl
@[simp] theorem setCtl_grainOf (vd off : Nat) (w : W64) (d : CtxId) : (s.setCtl vd off w).grainOf d = s.grainOf d := rfl
@[simp] theorem setCtl_sheafOf (vd off : Nat) (w : W64) (m : Nat) : (s.setCtl vd off w).sheafOf m = s.sheafOf m := rfl
@[simp] theorem setCtl_coreOf (vd off : Nat) (w : W64) (m : Nat) : (s.setCtl vd off w).coreOf m = s.coreOf m := rfl
@[simp] theorem setCtl_quadOf (vd off : Nat) (w : W64) (m : Nat) : (s.setCtl vd off w).quadOf m = s.quadOf m := rfl
@[simp] theorem setCtl_tileOf (vd off : Nat) (w : W64) (m : Nat) : (s.setCtl vd off w).tileOf m = s.tileOf m := rfl
@[simp] theorem setCtl_me (vd off : Nat) (w : W64) : (s.setCtl vd off w).me = s.me := rfl
@[simp] theorem setCtl_grain (vd off : Nat) (w : W64) : (s.setCtl vd off w).grain = s.grain := rfl
@[simp] theorem setHyp_ctx (vd off : Nat) (w : W64) (d : CtxId) : (s.setHyp vd off w).ctx d = s.ctx d := rfl
@[simp] theorem setHyp_grainOf (vd off : Nat) (w : W64) (d : CtxId) : (s.setHyp vd off w).grainOf d = s.grainOf d := rfl
@[simp] theorem setHyp_sheafOf (vd off : Nat) (w : W64) (m : Nat) : (s.setHyp vd off w).sheafOf m = s.sheafOf m := rfl
@[simp] theorem setHyp_coreOf (vd off : Nat) (w : W64) (m : Nat) : (s.setHyp vd off w).coreOf m = s.coreOf m := rfl
@[simp] theorem setHyp_quadOf (vd off : Nat) (w : W64) (m : Nat) : (s.setHyp vd off w).quadOf m = s.quadOf m := rfl
@[simp] theorem setHyp_tileOf (vd off : Nat) (w : W64) (m : Nat) : (s.setHyp vd off w).tileOf m = s.tileOf m := rfl
@[simp] theorem setHyp_me (vd off : Nat) (w : W64) : (s.setHyp vd off w).me = s.me := rfl
@[simp] theorem setHyp_grain (vd off : Nat) (w : W64) : (s.setHyp vd off w).grain = s.grain := rfl
@[simp] theorem setMg_ctx (off : Nat) (w : W64) (d : CtxId) : (s.setMg off w).ctx d = s.ctx d := rfl
@[simp] theorem setMg_grainOf (off : Nat) (w : W64) (d : CtxId) : (s.setMg off w).grainOf d = s.grainOf d := rfl
@[simp] theorem setMg_sheafOf (off : Nat) (w : W64) (m : Nat) : (s.setMg off w).sheafOf m = s.sheafOf m := rfl
@[simp] theorem setMg_coreOf (off : Nat) (w : W64) (m : Nat) : (s.setMg off w).coreOf m = s.coreOf m := rfl
@[simp] theorem setMg_quadOf (off : Nat) (w : W64) (m : Nat) : (s.setMg off w).quadOf m = s.quadOf m := rfl
@[simp] theorem setMg_tileOf (off : Nat) (w : W64) (m : Nat) : (s.setMg off w).tileOf m = s.tileOf m := rfl
@[simp] theorem setMg_vdOf (off : Nat) (w : W64) (m : Nat) : (s.setMg off w).vdOf m = s.vdOf m := rfl
@[simp] theorem setMg_me (off : Nat) (w : W64) : (s.setMg off w).me = s.me := rfl
@[simp] theorem setMg_grain (off : Nat) (w : W64) : (s.setMg off w).grain = s.grain := rfl
@[simp] theorem fresh_grainOf (d : CtxId) : (s.fresh).grainOf d = s.grainOf d := rfl
@[simp] theorem fresh_sheafOf (m : Nat) : (s.fresh).sheafOf m = s.sheafOf m := rfl
@[simp] theorem fresh_coreOf (m : Nat) : (s.fresh).coreOf m = s.coreOf m := rfl
@[simp] theorem fresh_quadOf (m : Nat) : (s.fresh).quadOf m = s.quadOf m := rfl
@[simp] theorem fresh_tileOf (m : Nat) : (s.fresh).tileOf m = s.tileOf m := rfl
@[simp] theorem fresh_vdOf (m : Nat) : (s.fresh).vdOf m = s.vdOf m := rfl
@[simp] theorem fresh_grain : (s.fresh).grain = s.grain := rfl
@[simp] theorem tell_ctx (k : Nat) (w : W64) (d : CtxId) : (s.tell k w).ctx d = s.ctx d := rfl
@[simp] theorem tell_grainOf (k : Nat) (w : W64) (d : CtxId) : (s.tell k w).grainOf d = s.grainOf d := rfl
@[simp] theorem tell_sheafOf (k : Nat) (w : W64) (m : Nat) : (s.tell k w).sheafOf m = s.sheafOf m := rfl
@[simp] theorem tell_coreOf (k : Nat) (w : W64) (m : Nat) : (s.tell k w).coreOf m = s.coreOf m := rfl
@[simp] theorem tell_quadOf (k : Nat) (w : W64) (m : Nat) : (s.tell k w).quadOf m = s.quadOf m := rfl
@[simp] theorem tell_tileOf (k : Nat) (w : W64) (m : Nat) : (s.tell k w).tileOf m = s.tileOf m := rfl
@[simp] theorem tell_vdOf (k : Nat) (w : W64) (m : Nat) : (s.tell k w).vdOf m = s.vdOf m := rfl
@[simp] theorem tell_me (k : Nat) (w : W64) : (s.tell k w).me = s.me := rfl
@[simp] theorem tell_grain (k : Nat) (w : W64) : (s.tell k w).grain = s.grain := rfl

/-! ### The changed part -/

@[simp] theorem updQuad_quadOf_self (n : Nat) (f : Quad → Quad) : (s.updQuad n f).quadOf n = f (s.quadOf n) :=
  tab_getD_updD_self _ _ _ _
@[simp] theorem updTile_tileOf_self (n : Nat) (f : Tile → Tile) : (s.updTile n f).tileOf n = f (s.tileOf n) :=
  tab_getD_updD_self _ _ _ _
@[simp] theorem updCore_coreOf_self (n : Nat) (f : Core → Core) : (s.updCore n f).coreOf n = f (s.coreOf n) :=
  tab_getD_updD_self _ _ _ _
@[simp] theorem updVd_vdOf_self (n : Nat) (f : Vd → Vd) : (s.updVd n f).vdOf n = f (s.vdOf n) :=
  tab_getD_updD_self _ _ _ _

theorem updQuad_quadOf_ne {n m : Nat} (f : Quad → Quad) (h : m ≠ n) : (s.updQuad n f).quadOf m = s.quadOf m :=
  tab_getD_updD_ne _ _ _ _ (Ne.symm h)
theorem updTile_tileOf_ne {n m : Nat} (f : Tile → Tile) (h : m ≠ n) : (s.updTile n f).tileOf m = s.tileOf m :=
  tab_getD_updD_ne _ _ _ _ (Ne.symm h)
theorem updCore_coreOf_ne {n m : Nat} (f : Core → Core) (h : m ≠ n) : (s.updCore n f).coreOf m = s.coreOf m :=
  tab_getD_updD_ne _ _ _ _ (Ne.symm h)
theorem updVd_vdOf_ne {n m : Nat} (f : Vd → Vd) (h : m ≠ n) : (s.updVd n f).vdOf m = s.vdOf m :=
  tab_getD_updD_ne _ _ _ _ (Ne.symm h)

@[simp] theorem setCtl_ctl_self (vd off : Nat) (w : W64) : (s.setCtl vd off w).ctl vd off = w := by
  simp [State.ctl, State.setCtl, Vd.ctl, Vd.setCtl, tab_getD_put]
theorem setCtl_ctl_ne (vd : Nat) {off off' : Nat} (w : W64) (h : off' ≠ off) : (s.setCtl vd off w).ctl vd off' = s.ctl vd off' := by
  simp [State.ctl, State.setCtl, Vd.ctl, Vd.setCtl, tab_getD_put, Ne.symm h]
@[simp] theorem setHyp_hyp_self (vd off : Nat) (w : W64) : (s.setHyp vd off w).hyp vd off = w := by
  simp [State.hyp, State.setHyp, Vd.hyp, Vd.setHyp, tab_getD_put]
@[simp] theorem setMg_mg_self (off : Nat) (w : W64) : (s.setMg off w).mg off = w := by
  simp [State.mg, State.setMg, State.updDev, Dev.mg, Dev.setMg, tab_getD_put]
theorem setMg_mg_ne {off off' : Nat} (w : W64) (h : off' ≠ off) : (s.setMg off w).mg off' = s.mg off' := by
  simp [State.mg, State.setMg, State.updDev, Dev.mg, Dev.setMg, tab_getD_put, Ne.symm h]

end Sys2Proof.Laws
end

