-- ==== Sys2Proof/Laws/Ops.lean ====
section
/-! SUPPORT. What the shared operations of an issue can do, said once: the frame of every instruction, the results of
classes N, S and L, and the step of an instruction guarded off. -/

namespace Sys2Proof.Laws

open Sys2Proof.Machine

/-! ### Contexts -/

/-- The loop-end test changes DEPTH and the loop counts alone. -/
theorem loopTest_only (x : Ctx) (p n : W64) (k : Nat) :
    (x.loopTest p n k).1 = { x with depth := (x.loopTest p n k).1.depth, lc := (x.loopTest p n k).1.lc } := by
  induction k generalizing x with
  | zero => rfl
  | succ i ih =>
    simp only [Ctx.loopTest]
    split
    · split
      · split
        · rfl
        · have := ih { x with lc := x.lc.set i (x.lc[i] - 1) }
          rw [this]
      · rfl
    · rfl

/-- Moving past an instruction changes PC, DEPTH and the loop counts alone. -/
theorem next_only (x : Ctx) (len : Nat) :
    x.next len = { x with pc := (x.next len).pc, depth := (x.next len).depth, lc := (x.next len).lc } := by
  unfold Ctx.next
  split
  · rfl
  · dsimp only
    rw [loopTest_only]

theorem next_movedPast (x y : Ctx) (len : Nat) (hp : y.pc = x.pc) (hh : y.handler = x.handler) (hd : y.depth = x.depth)
    (hl : y.lc = x.lc) : movedPast x (y.next len) len := by
  intro h
  unfold Ctx.next
  split
  · exact ⟨by simp [hp], hd, hl⟩
  · rcases h with h | h
    · simp_all
    · rw [← hd] at h
      simp [h, Ctx.loopTest, hp, hl, ← hd]

theorem sameMem_of_eq {s t : State} (h1 : t.hbm = s.hbm) (h2 : t.lmem = s.lmem) (h3 : t.fe = s.fe) (h4 : t.wbuf = s.wbuf)
    (h5 : t.accm = s.accm) (h6 : t.host = s.host) : sameMem s t := by
  intro a
  simp [h1, h2, h3, h4, h5, h6]

/-- Changing the executing context alone is the frame of every instruction with a register result. -/
theorem onlyCtx_updMe (s : State) (f : Ctx → Ctx) : onlyCtx s.cur s (s.updMe f).fresh :=
  ⟨rfl, fun d hd => by simp [updMe_ctx_ne s f hd]⟩

theorem sameMem_updMe (s : State) (f : Ctx → Ctx) : sameMem s (s.updMe f).fresh := fun _ => ⟨rfl, rfl, rfl, rfl, rfl, rfl⟩

/-! ### The frame of every instruction -/

/-- An instruction that a context issues ends in its body when it runs. -/
theorem issue_runs {s : State} {h : Head} (hr : s.runs h = true) (len : Nat) (body : State) :
    issue h len s body = .next body := by
  simp only [State.runs, State.lives, Bool.and_eq_true] at hr
  obtain ⟨x, hx⟩ := Option.isSome_iff_exists.mp hr.1
  simp [issue, hx, hr.2]

/-- An instruction guarded off ends in the push of R17. -/
theorem issue_skips {s : State} {h : Head} (hr : s.skips h = true) (len : Nat) (body : State) :
    issue h len s body = .next (s.skip h len) := by
  simp only [State.skips, State.lives, Bool.and_eq_true, Bool.not_eq_true'] at hr
  obtain ⟨x, hx⟩ := Option.isSome_iff_exists.mp hr.1
  simp [issue, hx, hr.2]

/-- Everything that an instruction issued by a context can answer. -/
theorem issue_cases (s : State) (h : Head) (len : Nat) (body : State) :
    (s.lives = false ∧ issue h len s body = .fault .noIssuer) ∨
    (s.runs h = true ∧ issue h len s body = .next body) ∨
    (s.skips h = true ∧ issue h len s body = .next (s.skip h len)) := by
  cases hc : s.ctx s.cur with
  | none => exact .inl ⟨by simp [State.lives, hc], by simp [issue, hc]⟩
  | some x =>
    cases hg : s.guardOn h
    · exact .inr (.inr ⟨by simp [State.skips, State.lives, hc, hg], by simp [issue, hc, hg]⟩)
    · exact .inr (.inl ⟨by simp [State.runs, State.lives, hc, hg], by simp [issue, hc, hg]⟩)

theorem runs_lives {s : State} {h : Head} (hr : s.runs h = true) : s.lives = true := by
  simp only [State.runs, Bool.and_eq_true] at hr
  exact hr.1

theorem skips_lives {s : State} {h : Head} (hr : s.skips h = true) : s.lives = true := by
  simp only [State.skips, Bool.and_eq_true] at hr
  exact hr.1

/-! ### Results -/

theorem result_g (x : Ctx) (d : Dst) (v : W64) : (x.result d v).g = gWith x d v := by
  cases d <;> rfl

theorem result_q (x : Ctx) (d : Dst) (v : W64) : (x.result d v).q = qWith x d v := by
  cases d <;> rfl

/-- A class S result changes the destination, the queue and the pending results' marks and ages alone. -/
theorem result_only (x : Ctx) (d : Dst) (v : W64) :
    x.result d v = { x with g := gWith x d v, q := qWith x d v, pend := (x.result d v).pend, pq := (x.result d v).pq } := by
  cases d <;> simp only [Ctx.result, Ctx.push, Ctx.clobber, gWith, qWith, pushed]

/-- A class L reservation changes the queue and the pending results alone. -/
theorem reserve_only (x : Ctx) (h : Head) (tag : Nat) (due : Option Nat) (v : Option W64) (fl : Flags) :
    x.reserve h tag due v fl =
      { x with q := qWith x h.dst x.q[15], pend := (x.reserve h tag due v fl).pend, pq := (x.reserve h tag due v fl).pq } := by
  cases hd : h.dst <;> simp only [Ctx.reserve, Ctx.push, Ctx.clobber, qWith, pushed, hd]

theorem reserve_last (x : Ctx) (h : Head) (tag : Nat) (due : Option Nat) (v : Option W64) (fl : Flags) :
    ∃ p, (x.reserve h tag due v fl).pend.getLast? = some p ∧ p.tag = tag ∧ p.g = dstReg h.dst ∧
      p.age = (if h.dst = .none then 0 else 1) ∧ p.la = h.la.val ∧ p.dist = 0 ∧ p.due = due ∧ p.val = v ∧ p.flags = fl := by
  unfold Ctx.reserve
  cases h.dst <;> exact ⟨_, List.getLast?_concat, rfl, rfl, rfl, rfl, rfl, rfl, rfl, rfl⟩

/-- An instruction of class N. -/
theorem doneN_issues {s : State} (hl : s.lives = true) (len : Nat) : IssuesN s (s.doneN len) len := by
  have hm : (s.doneN len).me = (s.me.tally s.cycle).next len := updMe_me s _ hl
  refine ⟨?_, ?_, ?_, onlyCtx_updMe s _, sameMem_updMe s _⟩
  · rw [hm, next_only]; rfl
  · rw [hm, next_only]; exact ⟨rfl, rfl, rfl⟩
  · rw [hm]; exact next_movedPast _ _ _ rfl rfl rfl rfl

/-- An instruction of class S. -/
theorem doneS_writes {s : State} (hl : s.lives = true) (h : Head) (len : Nat) (v : W64) (fl : Flags) :
    WritesS s (s.doneS h len v fl) h.dst v fl len := by
  let x : Ctx := (s.me.tally s.cycle).result h.dst v
  have hm : (s.doneS h len v fl).me = ({ x with aflags := x.aflags ||| fl } : Ctx).next len := updMe_me s _ hl
  have hx : x = { s.me.tally s.cycle with g := gWith s.me h.dst v, q := qWith s.me h.dst v, pend := x.pend, pq := x.pq } :=
    result_only _ _ _
  refine ⟨?_, ?_, ?_, onlyCtx_updMe s _, sameMem_updMe s _⟩
  · rw [hm, next_only, hx]; rfl
  · rw [hm, next_only, hx]; exact ⟨rfl, rfl, rfl⟩
  · rw [hm]
    exact next_movedPast _ _ _ (by rw [hx]; rfl) (by rw [hx]; rfl) (by rw [hx]; rfl) (by rw [hx]; rfl)

theorem reserved_writes {s : State} (hl : s.lives = true) (h : Head) (len tag : Nat) (due : Option Nat) (v : Option W64) (fl : Flags) :
    ReservesL s (s.updMe fun c => ((c.tally s.cycle).reserve h tag due v fl).next len).fresh h due v fl len := by
  let x : Ctx := (s.me.tally s.cycle).reserve h tag due v fl
  have hm : (s.updMe fun c => ((c.tally s.cycle).reserve h tag due v fl).next len).fresh.me = x.next len := updMe_me s _ hl
  have hx : x = { s.me.tally s.cycle with q := qWith s.me h.dst s.me.q[15], pend := x.pend, pq := x.pq } := reserve_only _ _ _ _ _ _
  refine ⟨?_, ?_, ?_, ?_, onlyCtx_updMe s _, sameMem_updMe s _⟩
  · rw [hm, next_only, hx]; rfl
  · rw [hm, next_only]
    obtain ⟨p, h1, -, h2⟩ := reserve_last (s.me.tally s.cycle) h tag due v fl
    exact ⟨p, h1, h2⟩
  · rw [hm, next_only, hx]; exact ⟨rfl, rfl, rfl⟩
  · rw [hm]
    exact next_movedPast _ _ _ (by rw [hx]; rfl) (by rw [hx]; rfl) (by rw [hx]; rfl) (by rw [hx]; rfl)

/-- An instruction of class L with a fixed latency. -/
theorem doneL_reserves {s : State} (hl : s.lives = true) (h : Head) (len lat : Nat) (v : W64) (fl : Flags) :
    ReservesL s (s.doneL h len lat v fl) h (some (s.cycle + lat)) (some v) fl len := reserved_writes hl h len 0 _ _ fl

/-- An instruction of class L whose result another step writes. -/
theorem doneTag_reserves {s : State} (hl : s.lives = true) (h : Head) (len tag : Nat) :
    ReservesL s (s.doneTag h len tag) h none none 0 len := reserved_writes hl h len tag _ _ 0

/-- The queue after an instruction guarded off (R17). -/
theorem skipResult_only (x : Ctx) (d : Dst) :
    x.skipResult d = { x with q := qOff x d, pend := (x.skipResult d).pend, pq := (x.skipResult d).pq } := by
  cases d <;> simp only [Ctx.skipResult, Ctx.push, qOff, pushed]

/-- An instruction guarded off: the push of R17 and nothing else. -/
theorem skip_writes {s : State} (hl : s.lives = true) (h : Head) (len : Nat) : SkipsOff s (s.skip h len) h.dst len := by
  let x : Ctx := (s.me.tally s.cycle).skipResult h.dst
  have hm : (s.skip h len).me = x.next len := updMe_me s _ hl
  have hx : x = { s.me.tally s.cycle with q := qOff s.me h.dst, pend := x.pend, pq := x.pq } := skipResult_only _ _
  refine ⟨?_, ?_, ?_, onlyCtx_updMe s _, sameMem_updMe s _⟩
  · rw [hm, next_only, hx]; rfl
  · rw [hm, next_only, hx]; exact ⟨rfl, rfl, rfl⟩
  · rw [hm]
    exact next_movedPast _ _ _ (by rw [hx]; rfl) (by rw [hx]; rfl) (by rw [hx]; rfl) (by rw [hx]; rfl)

end Sys2Proof.Laws
end

