-- ==== Sys2Proof/Laws/PerInstr.lean ====
section
/-! SUPPORT. The family `Widths`: the fields of every instruction's encoding lie within their widths, one lemma for each
constructor of `Instr`. A hardware step has no fields. -/

set_option Elab.async false

namespace Sys2Proof.Laws

theorem zero32 : 0 < 32 := by decide
theorem zero16 : 0 < 65536 := by decide
theorem zeroHi (n : Nat) : 0 < 2 ^ n := Nat.two_pow_pos n

theorem encInt2_inWidth {h : Head} {opm op : Nat} {a : Src} {b : IOp} (k : opm < 64) (l : op < 64) :
    InWidth (encInt2 h opm op a b) := by
  cases b with
  | reg r => exact inWidth_of h (by decide) k (by omega) (src_code_lt _) (src_code_lt _) zero16 (zeroHi _)
  | imm v => exact inWidth_of h (by decide) k (by omega) (src_code_lt _) zero32 v.isLt (zeroHi _)
  | const n => exact inWidth_of h (by decide) k (by omega) (src_code_lt _) zero32 (lt_trans n.isLt (by decide)) (zeroHi _)
  | lit v => exact inWidth_of h (by decide) k (by omega) (src_code_lt _) zero32 zero16 v.isLt

theorem encInt3_inWidth {h : Head} {opm op : Nat} {a b : Src} {c : IOp} (k : opm < 64) (l : op < 64) :
    InWidth (encInt3 h opm op a b c) := by
  cases c with
  | reg r => exact inWidth_of h (by decide) k (by omega) (src_code_lt _) (src_code_lt _) (lt_trans (src_code_lt r) (by decide)) (zeroHi _)
  | imm v => exact inWidth_of h (by decide) k (by omega) (src_code_lt _) (src_code_lt _) v.isLt (zeroHi _)
  | const n => exact inWidth_of h (by decide) k (by omega) (src_code_lt _) (src_code_lt _) (lt_trans n.isLt (by decide)) (zeroHi _)
  | lit v => exact inWidth_of h (by decide) k (by omega) (src_code_lt _) (src_code_lt _) zero16 v.isLt

theorem encOne_inWidth {h : Head} {opm op : Nat} {a : Src} (k : opm < 64) (l : op < 64) : InWidth (encOne h opm op a) :=
  inWidth_of h (by decide) k (by omega) (src_code_lt _) zero32 zero16 (zeroHi _)

theorem encFlt2_inWidth {h : Head} {opm op : Nat} {a : Src} {b : FOp} (k : opm < 64) (l : op < 64) :
    InWidth (encFlt2 h opm op a b) := by
  cases b with
  | reg r => exact inWidth_of h (by decide) k (by omega) (src_code_lt _) (src_code_lt _) zero16 (zeroHi _)
  | imm20 v =>
    have := v.isLt
    exact inWidth_of h (by decide) k (by omega) (src_code_lt _) (by omega) (by omega) (zeroHi _)
  | const n => exact inWidth_of h (by decide) k (by omega) (src_code_lt _) zero32 (lt_trans n.isLt (by decide)) (zeroHi _)
  | lit v => exact inWidth_of h (by decide) k (by omega) (src_code_lt _) zero32 zero16 v.isLt

theorem encFfma_inWidth {h : Head} {a b : Src} {c : FOp} : InWidth (encFfma h a b c) := by
  cases c with
  | reg r => exact inWidth_of h (by decide) (by decide) (by decide) (src_code_lt _) (src_code_lt _) (lt_trans (src_code_lt r) (by decide)) (zeroHi _)
  | imm20 v => exact inWidth_of h (by decide) (by decide) (by decide) (src_code_lt _) (src_code_lt _) zero16 (zeroHi _)
  | const n => exact inWidth_of h (by decide) (by decide) (by decide) (src_code_lt _) (src_code_lt _) (lt_trans n.isLt (by decide)) (zeroHi _)
  | lit v => exact inWidth_of h (by decide) (by decide) (by decide) (src_code_lt _) (src_code_lt _) zero16 v.isLt

theorem encLoad_inWidth {h : Head} {opm : Nat} {m : MemOp} {sz : Size} {u : Bool} {o : Option Scope} (k : opm < 64) :
    InWidth (encLoad h opm m sz u o) := by
  have h1 := size_code_lt sz
  have h2 := bitOf_lt u
  have h3 := mem_am_lt m
  have h4 := ordCode_lt o
  exact inWidth_of h (by decide) k (by omega) (lt_trans (mem_ptr_lt m) (by decide)) zero32 (mem_imm_lt m) (zeroHi _)

theorem encStore_inWidth {h : Head} {opm : Nat} {m : MemOp} {sz : Size} {o : Option Scope} {b : Src} (k : opm < 64) :
    InWidth (encStore h opm m sz o b) := by
  have h1 := size_code_lt sz
  have h3 := mem_am_lt m
  have h4 := ordCode_lt o
  exact inWidth_of h (by decide) k (by omega) (lt_trans (mem_ptr_lt m) (by decide)) (src_code_lt b) (mem_imm_lt m) (zeroHi _)

theorem encSync_inWidth {h : Head} {op : Nat} {m : MemOp} {b : Nat} (k : op < 8) (l : b < 32) : InWidth (encSync h op m b) := by
  have h3 := mem_am_lt m
  exact inWidth_of h (by decide) (by decide) (by omega) (lt_trans (mem_ptr_lt m) (by decide)) l (mem_imm_lt m) (zeroHi _)

theorem encAmo_inWidth {h : Head} {op : Nat} {x : AmoArgs} {c : Nat} (k : op < 16) (l : c < 32) : InWidth (encAmo h op x c) := by
  have h2 := bitOf_lt x.dw
  have h3 := bitOf_lt x.glob
  have h4 := ordCode_lt x.scope
  exact inWidth_of h (by decide) (by decide) (by omega) (lt_trans x.p.isLt (by decide)) (src_code_lt _) (by omega) (zeroHi _)

theorem encRed_inWidth {h : Head} {op : Nat} {x : RedArgs} (k : op < 16) : InWidth (encRed h op x) := by
  have h2 := bitOf_lt x.dw
  have h4 := ordCode_lt x.scope
  exact inWidth_of h (by decide) (by decide) (by omega) (lt_trans x.p.isLt (by decide)) (src_code_lt _) zero16 (zeroHi _)

theorem encV_inWidth {h : Head} {opm fn : Nat} {v : VArgs} (k : opm < 64) (l : fn < 256) : InWidth (encV h opm fn v) :=
  inWidth_of h (by decide) k l (desc_reg_lt _) (desc_reg_lt _) (lt_trans (desc_reg_lt v.z) (by decide)) (vargs_word_lt v)

theorem encM_inWidth {h : Head} {opm fn : Nat} {m : MArgs} (k : opm < 64) (l : fn < 256) : InWidth (encM h opm fn m) :=
  inWidth_of h (by decide) k l zero32 zero32 zero16 (margs_word_lt m)

theorem withSa {f : Fields} {x : Nat} (w : InWidth f) (h : x < 32) : InWidth { f with sa := x } :=
  ⟨w.len, w.opm, w.fn, w.la, w.ge, w.gn, w.greg, w.gbit, w.dst, h, w.sb, w.imm, w.hi⟩

theorem withSb {f : Fields} {x : Nat} (w : InWidth f) (h : x < 32) : InWidth { f with sb := x } :=
  ⟨w.len, w.opm, w.fn, w.la, w.ge, w.gn, w.greg, w.gbit, w.dst, w.sa, h, w.imm, w.hi⟩

theorem encOwn_inWidth {h : Head} {fn : Nat} {a : Fin 64} (l : fn < 256) : InWidth (encOwn h fn a) :=
  inWidth_of h (by decide) (by decide) l zero32 zero32 zero16 (lt_trans a.isLt (by decide))

end Sys2Proof.Laws

namespace Sys2Proof.Laws.Widths

/-- The fields of the instruction's encoding lie within their widths. -/
def Statement (i : Instr) : Prop := ∀ f, i.fields = some f → InWidth f

theorem of_eq {i : Instr} {f : Fields} (e : i.fields = some f) (w : InWidth f) : Statement i := by
  intro g h
  rw [e] at h
  exact Option.some.inj h ▸ w

theorem padWord : Statement .padWord := fun _ h => nomatch h
theorem add (x0 : Head) (x1 : Src) (x2 : IOp) : Statement (.add x0 x1 x2) := of_eq rfl (encInt2_inWidth (by decide) (by decide))
theorem sub (x0 : Head) (x1 : Src) (x2 : IOp) : Statement (.sub x0 x1 x2) := of_eq rfl (encInt2_inWidth (by decide) (by decide))
theorem mul (x0 : Head) (x1 : Src) (x2 : IOp) : Statement (.mul x0 x1 x2) := of_eq rfl (encInt2_inWidth (by decide) (by decide))
theorem mulh (x0 : Head) (x1 : Src) (x2 : IOp) : Statement (.mulh x0 x1 x2) := of_eq rfl (encInt2_inWidth (by decide) (by decide))
theorem mulhu (x0 : Head) (x1 : Src) (x2 : IOp) : Statement (.mulhu x0 x1 x2) := of_eq rfl (encInt2_inWidth (by decide) (by decide))
theorem div (x0 : Head) (x1 : Src) (x2 : IOp) : Statement (.div x0 x1 x2) := of_eq rfl (encInt2_inWidth (by decide) (by decide))
theorem divu (x0 : Head) (x1 : Src) (x2 : IOp) : Statement (.divu x0 x1 x2) := of_eq rfl (encInt2_inWidth (by decide) (by decide))
theorem rem (x0 : Head) (x1 : Src) (x2 : IOp) : Statement (.rem x0 x1 x2) := of_eq rfl (encInt2_inWidth (by decide) (by decide))
theorem remu (x0 : Head) (x1 : Src) (x2 : IOp) : Statement (.remu x0 x1 x2) := of_eq rfl (encInt2_inWidth (by decide) (by decide))
theorem minS (x0 : Head) (x1 : Src) (x2 : IOp) : Statement (.minS x0 x1 x2) := of_eq rfl (encInt2_inWidth (by decide) (by decide))
theorem maxS (x0 : Head) (x1 : Src) (x2 : IOp) : Statement (.maxS x0 x1 x2) := of_eq rfl (encInt2_inWidth (by decide) (by decide))
theorem minu (x0 : Head) (x1 : Src) (x2 : IOp) : Statement (.minu x0 x1 x2) := of_eq rfl (encInt2_inWidth (by decide) (by decide))
theorem maxu (x0 : Head) (x1 : Src) (x2 : IOp) : Statement (.maxu x0 x1 x2) := of_eq rfl (encInt2_inWidth (by decide) (by decide))
theorem andW (x0 : Head) (x1 : Src) (x2 : IOp) : Statement (.andW x0 x1 x2) := of_eq rfl (encInt2_inWidth (by decide) (by decide))
theorem orW (x0 : Head) (x1 : Src) (x2 : IOp) : Statement (.orW x0 x1 x2) := of_eq rfl (encInt2_inWidth (by decide) (by decide))
theorem xorW (x0 : Head) (x1 : Src) (x2 : IOp) : Statement (.xorW x0 x1 x2) := of_eq rfl (encInt2_inWidth (by decide) (by decide))
theorem andn (x0 : Head) (x1 : Src) (x2 : IOp) : Statement (.andn x0 x1 x2) := of_eq rfl (encInt2_inWidth (by decide) (by decide))
theorem orn (x0 : Head) (x1 : Src) (x2 : IOp) : Statement (.orn x0 x1 x2) := of_eq rfl (encInt2_inWidth (by decide) (by decide))
theorem shl (x0 : Head) (x1 : Src) (x2 : IOp) : Statement (.shl x0 x1 x2) := of_eq rfl (encInt2_inWidth (by decide) (by decide))
theorem shr (x0 : Head) (x1 : Src) (x2 : IOp) : Statement (.shr x0 x1 x2) := of_eq rfl (encInt2_inWidth (by decide) (by decide))
theorem sra (x0 : Head) (x1 : Src) (x2 : IOp) : Statement (.sra x0 x1 x2) := of_eq rfl (encInt2_inWidth (by decide) (by decide))
theorem rot (x0 : Head) (x1 : Src) (x2 : IOp) : Statement (.rot x0 x1 x2) := of_eq rfl (encInt2_inWidth (by decide) (by decide))
theorem clz (x0 : Head) (x1 : Src) : Statement (.clz x0 x1) := of_eq rfl (encOne_inWidth (by decide) (by decide))
theorem ctz (x0 : Head) (x1 : Src) : Statement (.ctz x0 x1) := of_eq rfl (encOne_inWidth (by decide) (by decide))
theorem popc (x0 : Head) (x1 : Src) : Statement (.popc x0 x1) := of_eq rfl (encOne_inWidth (by decide) (by decide))
theorem bext (x0 : Head) (x1 : Src) (x2 : IOp) : Statement (.bext x0 x1 x2) := of_eq rfl (encInt2_inWidth (by decide) (by decide))
theorem bins (x0 : Head) (x1 : Src) (x2 : Src) (x3 : IOp) : Statement (.bins x0 x1 x2 x3) := of_eq rfl (encInt3_inWidth (by decide) (by decide))
theorem sext (x0 : Head) (x1 : Src) (x2 : IOp) : Statement (.sext x0 x1 x2) := of_eq rfl (encInt2_inWidth (by decide) (by decide))
theorem zext (x0 : Head) (x1 : Src) (x2 : IOp) : Statement (.zext x0 x1 x2) := of_eq rfl (encInt2_inWidth (by decide) (by decide))
theorem sel (x0 : Head) (x1 : Src) (x2 : Src) (x3 : IOp) : Statement (.sel x0 x1 x2 x3) := of_eq rfl (encInt3_inWidth (by decide) (by decide))
theorem ceq (x0 : Head) (x1 : Src) (x2 : IOp) : Statement (.ceq x0 x1 x2) := of_eq rfl (encInt2_inWidth (by decide) (by decide))
theorem cne (x0 : Head) (x1 : Src) (x2 : IOp) : Statement (.cne x0 x1 x2) := of_eq rfl (encInt2_inWidth (by decide) (by decide))
theorem clt (x0 : Head) (x1 : Src) (x2 : IOp) : Statement (.clt x0 x1 x2) := of_eq rfl (encInt2_inWidth (by decide) (by decide))
theorem cle (x0 : Head) (x1 : Src) (x2 : IOp) : Statement (.cle x0 x1 x2) := of_eq rfl (encInt2_inWidth (by decide) (by decide))
theorem cltu (x0 : Head) (x1 : Src) (x2 : IOp) : Statement (.cltu x0 x1 x2) := of_eq rfl (encInt2_inWidth (by decide) (by decide))
theorem cleu (x0 : Head) (x1 : Src) (x2 : IOp) : Statement (.cleu x0 x1 x2) := of_eq rfl (encInt2_inWidth (by decide) (by decide))
theorem fadd (x0 : Head) (x1 : Src) (x2 : FOp) : Statement (.fadd x0 x1 x2) := of_eq rfl (encFlt2_inWidth (by decide) (by decide))
theorem fsub (x0 : Head) (x1 : Src) (x2 : FOp) : Statement (.fsub x0 x1 x2) := of_eq rfl (encFlt2_inWidth (by decide) (by decide))
theorem fmul (x0 : Head) (x1 : Src) (x2 : FOp) : Statement (.fmul x0 x1 x2) := of_eq rfl (encFlt2_inWidth (by decide) (by decide))
theorem ffma (x0 : Head) (x1 : Src) (x2 : Src) (x3 : FOp) : Statement (.ffma x0 x1 x2 x3) := of_eq rfl encFfma_inWidth
theorem fmin (x0 : Head) (x1 : Src) (x2 : FOp) : Statement (.fmin x0 x1 x2) := of_eq rfl (encFlt2_inWidth (by decide) (by decide))
theorem fmax (x0 : Head) (x1 : Src) (x2 : FOp) : Statement (.fmax x0 x1 x2) := of_eq rfl (encFlt2_inWidth (by decide) (by decide))
theorem fabs (x0 : Head) (x1 : Src) : Statement (.fabs x0 x1) := of_eq rfl (encOne_inWidth (by decide) (by decide))
theorem fneg (x0 : Head) (x1 : Src) : Statement (.fneg x0 x1) := of_eq rfl (encOne_inWidth (by decide) (by decide))
theorem frcp (x0 : Head) (x1 : Src) : Statement (.frcp x0 x1) := of_eq rfl (encOne_inWidth (by decide) (by decide))
theorem frsq (x0 : Head) (x1 : Src) : Statement (.frsq x0 x1) := of_eq rfl (encOne_inWidth (by decide) (by decide))
theorem fceq (x0 : Head) (x1 : Src) (x2 : FOp) : Statement (.fceq x0 x1 x2) := of_eq rfl (encFlt2_inWidth (by decide) (by decide))
theorem fclt (x0 : Head) (x1 : Src) (x2 : FOp) : Statement (.fclt x0 x1 x2) := of_eq rfl (encFlt2_inWidth (by decide) (by decide))
theorem fcle (x0 : Head) (x1 : Src) (x2 : FOp) : Statement (.fcle x0 x1 x2) := of_eq rfl (encFlt2_inWidth (by decide) (by decide))
theorem fclass (x0 : Head) (x1 : Src) : Statement (.fclass x0 x1) := of_eq rfl (encOne_inWidth (by decide) (by decide))
theorem fcvt (x0 : Head) (x1 : Src) (x2 : CvtKind) (x3 : Rm) : Statement (.fcvt x0 x1 x2 x3) := by
  have := src_code_lt x1
  have := cvt_code_lt x2
  have := rm_code_lt x3
  exact of_eq rfl (inWidth_of x0 (by decide) (by decide) (by decide) (src_code_lt _) zero32 (by omega) (zeroHi _))
theorem movi (x0 : Head) (x1 : BitVec 16) : Statement (.movi x0 x1) := by
  have := x1.isLt
  exact of_eq rfl (inWidth_of x0 (by decide) (by decide) (by decide) zero32 zero32 (by omega) (zeroHi _))
theorem movhi (x0 : Head) (x1 : Src) (x2 : W32) : Statement (.movhi x0 x1 x2) := by
  have := src_code_lt x1
  have := x2.isLt
  exact of_eq rfl (inWidth_of x0 (by decide) (by decide) (by decide) (src_code_lt _) zero32 zero16 (by simp only [lenBytes]; omega))
theorem movR (x0 : Head) (x1 : Src) : Statement (.movR x0 x1) :=
  of_eq rfl (inWidth_of x0 (by decide) (by decide) (by decide) (src_code_lt _) zero32 zero16 (zeroHi _))
theorem lit (x0 : Head) (x1 : W32) : Statement (.lit x0 x1) := by
  have := x1.isLt
  exact of_eq rfl (inWidth_of x0 (by decide) (by decide) (by decide) zero32 zero32 zero16 (by simp only [lenBytes]; omega))
theorem pset (x0 : Head) (x1 : Fin 8) (x2 : Src) (x3 : Src) : Statement (.pset x0 x1 x2 x3) := by
  have := x1.isLt
  have := src_code_lt x2
  have := src_code_lt x3
  exact of_eq rfl (inWidth_of x0 (by decide) (by decide) (by decide) (src_code_lt _) (src_code_lt _) (by omega) (zeroHi _))
theorem psetKeep (x0 : Head) (x1 : Fin 8) (x2 : Src) : Statement (.psetKeep x0 x1 x2) := by
  have := x1.isLt
  have := src_code_lt x2
  exact of_eq rfl (inWidth_of x0 (by decide) (by decide) (by decide) (src_code_lt _) zero32 (by omega) (zeroHi _))
theorem padd (x0 : Head) (x1 : Fin 8) (x2 : Src) : Statement (.padd x0 x1 x2) := by
  have := x1.isLt
  have := src_code_lt x2
  exact of_eq rfl (inWidth_of x0 (by decide) (by decide) (by decide) (src_code_lt _) zero32 (by omega) (zeroHi _))
theorem paddImm (x0 : Head) (x1 : Fin 8) (x2 : W32) : Statement (.paddImm x0 x1 x2) := by
  have := x1.isLt
  have := x2.isLt
  exact of_eq rfl (inWidth_of x0 (by decide) (by decide) (by decide) zero32 zero32 (by omega) (by simp only [lenBytes]; omega))
theorem pget (x0 : Head) (x1 : Fin 8) (x2 : Bool) : Statement (.pget x0 x1 x2) := by
  have := x1.isLt
  have := bitOf_lt x2
  exact of_eq rfl (inWidth_of x0 (by decide) (by decide) (by decide) zero32 zero32 (by omega) (zeroHi _))
theorem br (x0 : Head) (x1 : BitVec 16) : Statement (.br x0 x1) := by
  have := x1.isLt
  exact of_eq rfl (inWidth_of x0 (by decide) (by decide) (by decide) zero32 zero32 (by omega) (zeroHi _))
theorem jmp (x0 : Head) (x1 : W32) : Statement (.jmp x0 x1) := by
  have := x1.isLt
  exact of_eq rfl (inWidth_of x0 (by decide) (by decide) (by decide) zero32 zero32 zero16 (by simp only [lenBytes]; omega))
theorem call (x0 : Head) (x1 : W32) : Statement (.call x0 x1) := by
  have := x1.isLt
  exact of_eq rfl (inWidth_of x0 (by decide) (by decide) (by decide) zero32 zero32 zero16 (by simp only [lenBytes]; omega))
theorem ret (x0 : Head) (x1 : Src) : Statement (.ret x0 x1) :=
  of_eq rfl (inWidth_of x0 (by decide) (by decide) (by decide) (src_code_lt _) zero32 zero16 (zeroHi _))
theorem brx (x0 : Head) (x1 : Src) : Statement (.brx x0 x1) :=
  of_eq rfl (inWidth_of x0 (by decide) (by decide) (by decide) (src_code_lt _) zero32 zero16 (zeroHi _))
theorem loopI (x0 : Head) (x1 : Src) (x2 : W32) : Statement (.loopI x0 x1 x2) := by
  have := src_code_lt x1
  have := x2.isLt
  exact of_eq rfl (inWidth_of x0 (by decide) (by decide) (by decide) (src_code_lt _) zero32 zero16 (by simp only [lenBytes]; omega))
theorem hstart (x0 : Head) (x1 : BitVec 4) (x2 : W32) : Statement (.hstart x0 x1 x2) := by
  have := x1.isLt
  have := x2.isLt
  exact of_eq rfl (inWidth_of x0 (by decide) (by decide) (by decide) zero32 zero32 (by omega) (by simp only [lenBytes]; omega))
theorem hjoin (x0 : Head) (x1 : BitVec 4) : Statement (.hjoin x0 x1) := by
  have := x1.isLt
  exact of_eq rfl (inWidth_of x0 (by decide) (by decide) (by decide) zero32 zero32 (by omega) (zeroHi _))
theorem hexit (x0 : Head) : Statement (.hexit x0) :=
  of_eq rfl (inWidth_of x0 (by decide) (by decide) (by decide) zero32 zero32 zero16 (zeroHi _))
theorem nop (x0 : Head) : Statement (.nop x0) :=
  of_eq rfl (inWidth_of x0 (by decide) (by decide) (by decide) zero32 zero32 zero16 (zeroHi _))
theorem ld (x0 : Head) (x1 : MemOp) (x2 : Size) (x3 : Bool) (x4 : Option Scope) : Statement (.ld x0 x1 x2 x3 x4) := of_eq rfl (encLoad_inWidth (by decide))
theorem st (x0 : Head) (x1 : MemOp) (x2 : Size) (x3 : Option Scope) (x4 : Src) : Statement (.st x0 x1 x2 x3 x4) := of_eq rfl (encStore_inWidth (by decide))
theorem ldg (x0 : Head) (x1 : MemOp) (x2 : Size) (x3 : Bool) (x4 : Option Scope) : Statement (.ldg x0 x1 x2 x3 x4) := of_eq rfl (encLoad_inWidth (by decide))
theorem stg (x0 : Head) (x1 : MemOp) (x2 : Size) (x3 : Option Scope) (x4 : Src) : Statement (.stg x0 x1 x2 x3 x4) := of_eq rfl (encStore_inWidth (by decide))
theorem globalLoadReturn (x0 : CtxId) : Statement (.globalLoadReturn x0) := fun _ h => nomatch h
theorem stgHomePerform (x0 : CtxId) : Statement (.stgHomePerform x0) := fun _ h => nomatch h
theorem peerLoadTargetRead (x0 : CtxId) : Statement (.peerLoadTargetRead x0) := fun _ h => nomatch h
theorem ldsync (x0 : Head) (x1 : MemOp) : Statement (.ldsync x0 x1) := of_eq rfl (encSync_inWidth (by decide) (by decide))
theorem ldsyncC (x0 : Head) (x1 : MemOp) : Statement (.ldsyncC x0 x1) := of_eq rfl (encSync_inWidth (by decide) (by decide))
theorem stfull (x0 : Head) (x1 : MemOp) (x2 : Src) : Statement (.stfull x0 x1 x2) := of_eq rfl (encSync_inWidth (by decide) (src_code_lt _))
theorem setempty (x0 : Head) (x1 : MemOp) : Statement (.setempty x0 x1) := of_eq rfl (encSync_inWidth (by decide) (by decide))
theorem amoSwap (x0 : Head) (x1 : AmoArgs) : Statement (.amoSwap x0 x1) := of_eq rfl (encAmo_inWidth (by decide) (by decide))
theorem amoCas (x0 : Head) (x1 : AmoArgs) (x2 : Src) : Statement (.amoCas x0 x1 x2) := of_eq rfl (encAmo_inWidth (by decide) (src_code_lt _))
theorem amoAdd (x0 : Head) (x1 : AmoArgs) : Statement (.amoAdd x0 x1) := of_eq rfl (encAmo_inWidth (by decide) (by decide))
theorem amoFadd (x0 : Head) (x1 : AmoArgs) : Statement (.amoFadd x0 x1) := of_eq rfl (encAmo_inWidth (by decide) (by decide))
theorem amoMin (x0 : Head) (x1 : AmoArgs) : Statement (.amoMin x0 x1) := of_eq rfl (encAmo_inWidth (by decide) (by decide))
theorem amoMax (x0 : Head) (x1 : AmoArgs) : Statement (.amoMax x0 x1) := of_eq rfl (encAmo_inWidth (by decide) (by decide))
theorem amoAnd (x0 : Head) (x1 : AmoArgs) : Statement (.amoAnd x0 x1) := of_eq rfl (encAmo_inWidth (by decide) (by decide))
theorem amoOr (x0 : Head) (x1 : AmoArgs) : Statement (.amoOr x0 x1) := of_eq rfl (encAmo_inWidth (by decide) (by decide))
theorem amoXor (x0 : Head) (x1 : AmoArgs) : Statement (.amoXor x0 x1) := of_eq rfl (encAmo_inWidth (by decide) (by decide))
theorem amoHomeReply (x0 : CtxId) : Statement (.amoHomeReply x0) := fun _ h => nomatch h
theorem redAdd (x0 : Head) (x1 : RedArgs) : Statement (.redAdd x0 x1) := of_eq rfl (encRed_inWidth (by decide))
theorem redFadd (x0 : Head) (x1 : RedArgs) : Statement (.redFadd x0 x1) := of_eq rfl (encRed_inWidth (by decide))
theorem redMin (x0 : Head) (x1 : RedArgs) : Statement (.redMin x0 x1) := of_eq rfl (encRed_inWidth (by decide))
theorem redMax (x0 : Head) (x1 : RedArgs) : Statement (.redMax x0 x1) := of_eq rfl (encRed_inWidth (by decide))
theorem redAnd (x0 : Head) (x1 : RedArgs) : Statement (.redAnd x0 x1) := of_eq rfl (encRed_inWidth (by decide))
theorem redOr (x0 : Head) (x1 : RedArgs) : Statement (.redOr x0 x1) := of_eq rfl (encRed_inWidth (by decide))
theorem redXor (x0 : Head) (x1 : RedArgs) : Statement (.redXor x0 x1) := of_eq rfl (encRed_inWidth (by decide))
theorem fence (x0 : Head) (x1 : Scope) : Statement (.fence x0 x1) :=
  of_eq rfl (inWidth_of x0 (by decide) (by decide) (lt_trans (scope_code_lt _).2 (by decide)) zero32 zero32 zero16 (zeroHi _))
theorem fenceAcq (x0 : Head) (x1 : Scope) : Statement (.fenceAcq x0 x1) := by
  have := (scope_code_lt x1).2
  exact of_eq rfl (inWidth_of x0 (by decide) (by decide) (by omega) zero32 zero32 zero16 (zeroHi _))
theorem fenceRel (x0 : Head) (x1 : Scope) : Statement (.fenceRel x0 x1) := by
  have := (scope_code_lt x1).2
  exact of_eq rfl (inWidth_of x0 (by decide) (by decide) (by omega) zero32 zero32 zero16 (zeroHi _))
theorem barArv (x0 : Head) (x1 : Fin 4) : Statement (.barArv x0 x1) := by
  have := x1.isLt
  exact of_eq rfl (inWidth_of x0 (by decide) (by decide) (by decide) zero32 zero32 (by omega) (zeroHi _))
theorem barWait (x0 : Head) (x1 : Src) (x2 : Fin 4) : Statement (.barWait x0 x1 x2) := by
  have := src_code_lt x1
  have := x2.isLt
  exact of_eq rfl (inWidth_of x0 (by decide) (by decide) (by decide) (src_code_lt _) zero32 (by omega) (zeroHi _))
theorem barSync (x0 : Head) (x1 : Fin 4) : Statement (.barSync x0 x1) := by
  have := x1.isLt
  exact of_eq rfl (inWidth_of x0 (by decide) (by decide) (by decide) zero32 zero32 (by omega) (zeroHi _))
theorem heldArrivalPerform (x0 : CtxId) : Statement (.heldArrivalPerform x0) := fun _ h => nomatch h
theorem barrierPhaseComplete (x0 : Nat) (x1 : Nat) : Statement (.barrierPhaseComplete x0 x1) := fun _ h => nomatch h
theorem evsig (x0 : Head) (x1 : Fin 32) : Statement (.evsig x0 x1) := by
  have := x1.isLt
  exact of_eq rfl (inWidth_of x0 (by decide) (by decide) (by decide) zero32 zero32 (by omega) (zeroHi _))
theorem eventFireArrive (x0 : Nat) (x1 : Fin 32) : Statement (.eventFireArrive x0 x1) := fun _ h => nomatch h
theorem evwaitLoad (x0 : Head) (x1 : Fin 32) : Statement (.evwaitLoad x0 x1) := fun _ h => nomatch h
theorem mutexTake (x0 : Head) (x1 : Fin 16) : Statement (.mutexTake x0 x1) := fun _ h => nomatch h
theorem mutexTry (x0 : Head) (x1 : Fin 16) : Statement (.mutexTry x0 x1) := fun _ h => nomatch h
theorem mutexRelease (x0 : Head) (x1 : Fin 16) : Statement (.mutexRelease x0 x1) := fun _ h => nomatch h
theorem tileBarrierArrive (x0 : Head) (x1 : Fin 8) : Statement (.tileBarrierArrive x0 x1) := fun _ h => nomatch h
theorem tileBarrierWait (x0 : Head) (x1 : Fin 8) : Statement (.tileBarrierWait x0 x1) := fun _ h => nomatch h
theorem tbcfgWrite (x0 : Head) (x1 : Fin 8) (x2 : Src) : Statement (.tbcfgWrite x0 x1 x2) := fun _ h => nomatch h
theorem rdvPut (x0 : Head) (x1 : Src) (x2 : Src) : Statement (.rdvPut x0 x1 x2) :=
  of_eq rfl (inWidth_of x0 (by decide) (by decide) (by decide) (src_code_lt _) (src_code_lt _) zero16 (zeroHi _))
theorem rdvGet (x0 : Head) (x1 : Src) : Statement (.rdvGet x0 x1) :=
  of_eq rfl (inWidth_of x0 (by decide) (by decide) (by decide) (src_code_lt _) zero32 zero16 (zeroHi _))
theorem rqcfgWrite (x0 : Head) (x1 : Fin 2) (x2 : Fin 16) (x3 : Src) : Statement (.rqcfgWrite x0 x1 x2 x3) := fun _ h => nomatch h
theorem rqput (x0 : Head) (x1 : Fin 8) (x2 : Src) (x3 : Fin 8) : Statement (.rqput x0 x1 x2 x3) := by
  have := x1.isLt
  have := src_code_lt x2
  have := x3.isLt
  exact of_eq rfl (inWidth_of x0 (by decide) (by decide) (by decide) (by omega) (src_code_lt _) (by omega) (zeroHi _))
theorem rqputReservationArrive (x0 : CtxId) : Statement (.rqputReservationArrive x0) := fun _ h => nomatch h
theorem rqputDeliver (x0 : CtxId) : Statement (.rqputDeliver x0) := fun _ h => nomatch h
theorem rqFreeNotice (x0 : Nat) (x1 : Fin 2) (x2 : Fin 16) : Statement (.rqFreeNotice x0 x1 x2) := fun _ h => nomatch h
theorem rqtake (x0 : Head) (x1 : Fin 8) (x2 : Src) : Statement (.rqtake x0 x1 x2) := by
  have := x1.isLt
  have := src_code_lt x2
  exact of_eq rfl (inWidth_of x0 (by decide) (by decide) (by decide) (by omega) (src_code_lt _) zero16 (zeroHi _))
theorem ringDef (x0 : Head) (x1 : Src) (x2 : Src) (x3 : BitVec 5) (x4 : BitVec 5) (x5 : Fin 4) (x6 : Fin 8) : Statement (.ringDef x0 x1 x2 x3 x4 x5 x6) := by
  have := src_code_lt x1
  have := src_code_lt x2
  have := x3.isLt
  have := x4.isLt
  have := x5.isLt
  have := x6.isLt
  exact of_eq rfl (inWidth_of x0 (by decide) (by decide) (by decide) (src_code_lt _) (src_code_lt _) (by omega) (zeroHi _))
theorem vadd (x0 : Head) (x1 : VArgs) : Statement (.vadd x0 x1) := of_eq rfl (encV_inWidth (by decide) (by decide))
theorem vsub (x0 : Head) (x1 : VArgs) : Statement (.vsub x0 x1) := of_eq rfl (encV_inWidth (by decide) (by decide))
theorem vmul (x0 : Head) (x1 : VArgs) : Statement (.vmul x0 x1) := of_eq rfl (encV_inWidth (by decide) (by decide))
theorem vfma (x0 : Head) (x1 : VArgs) : Statement (.vfma x0 x1) := of_eq rfl (encV_inWidth (by decide) (by decide))
theorem vfms (x0 : Head) (x1 : VArgs) : Statement (.vfms x0 x1) := of_eq rfl (encV_inWidth (by decide) (by decide))
theorem vmin (x0 : Head) (x1 : VArgs) : Statement (.vmin x0 x1) := of_eq rfl (encV_inWidth (by decide) (by decide))
theorem vmax (x0 : Head) (x1 : VArgs) : Statement (.vmax x0 x1) := of_eq rfl (encV_inWidth (by decide) (by decide))
theorem vabs (x0 : Head) (x1 : VArgs) : Statement (.vabs x0 x1) := of_eq rfl (encV_inWidth (by decide) (by decide))
theorem vneg (x0 : Head) (x1 : VArgs) : Statement (.vneg x0 x1) := of_eq rfl (encV_inWidth (by decide) (by decide))
theorem vexp2 (x0 : Head) (x1 : VArgs) : Statement (.vexp2 x0 x1) := of_eq rfl (encV_inWidth (by decide) (by decide))
theorem vlog2 (x0 : Head) (x1 : VArgs) : Statement (.vlog2 x0 x1) := of_eq rfl (encV_inWidth (by decide) (by decide))
theorem vrcp (x0 : Head) (x1 : VArgs) : Statement (.vrcp x0 x1) := of_eq rfl (encV_inWidth (by decide) (by decide))
theorem vrsq (x0 : Head) (x1 : VArgs) : Statement (.vrsq x0 x1) := of_eq rfl (encV_inWidth (by decide) (by decide))
theorem vcvt (x0 : Head) (x1 : VArgs) : Statement (.vcvt x0 x1) := of_eq rfl (encV_inWidth (by decide) (by decide))
theorem vand (x0 : Head) (x1 : VArgs) : Statement (.vand x0 x1) := of_eq rfl (encV_inWidth (by decide) (by decide))
theorem vor (x0 : Head) (x1 : VArgs) : Statement (.vor x0 x1) := of_eq rfl (encV_inWidth (by decide) (by decide))
theorem vxor (x0 : Head) (x1 : VArgs) : Statement (.vxor x0 x1) := of_eq rfl (encV_inWidth (by decide) (by decide))
theorem vshl (x0 : Head) (x1 : VArgs) : Statement (.vshl x0 x1) := of_eq rfl (encV_inWidth (by decide) (by decide))
theorem vshr (x0 : Head) (x1 : VArgs) : Statement (.vshr x0 x1) := of_eq rfl (encV_inWidth (by decide) (by decide))
theorem vsra (x0 : Head) (x1 : VArgs) : Statement (.vsra x0 x1) := of_eq rfl (encV_inWidth (by decide) (by decide))
theorem vcmp (x0 : Head) (x1 : VArgs) : Statement (.vcmp x0 x1) := of_eq rfl (encV_inWidth (by decide) (by decide))
theorem vsel (x0 : Head) (x1 : VArgs) : Statement (.vsel x0 x1) := of_eq rfl (encV_inWidth (by decide) (by decide))
theorem vbcast (x0 : Head) (x1 : VArgs) : Statement (.vbcast x0 x1) := of_eq rfl (encV_inWidth (by decide) (by decide))
theorem vmov (x0 : Head) (x1 : VArgs) : Statement (.vmov x0 x1) := of_eq rfl (encV_inWidth (by decide) (by decide))
theorem vperm (x0 : Head) (x1 : VArgs) : Statement (.vperm x0 x1) := of_eq rfl (encV_inWidth (by decide) (by decide))
theorem vredadd (x0 : Head) (x1 : VArgs) : Statement (.vredadd x0 x1) := of_eq rfl (encV_inWidth (by decide) (by decide))
theorem vredmax (x0 : Head) (x1 : VArgs) : Statement (.vredmax x0 x1) := of_eq rfl (encV_inWidth (by decide) (by decide))
theorem vredmin (x0 : Head) (x1 : VArgs) : Statement (.vredmin x0 x1) := of_eq rfl (encV_inWidth (by decide) (by decide))
theorem vscan (x0 : Head) (x1 : VArgs) : Statement (.vscan x0 x1) := of_eq rfl (encV_inWidth (by decide) (by decide))
theorem vgath (x0 : Head) (x1 : VArgs) : Statement (.vgath x0 x1) := of_eq rfl (encV_inWidth (by decide) (by decide))
theorem vscat (x0 : Head) (x1 : VArgs) : Statement (.vscat x0 x1) := of_eq rfl (encV_inWidth (by decide) (by decide))
theorem vectorGroup (x0 : CtxId) : Statement (.vectorGroup x0) := fun _ h => nomatch h
theorem vectorCompletion (x0 : Nat) (x1 : Nat) : Statement (.vectorCompletion x0 x1) := fun _ h => nomatch h
theorem vsetvl (x0 : Head) (x1 : Src) : Statement (.vsetvl x0 x1) :=
  of_eq rfl (inWidth_of x0 (by decide) (by decide) (by decide) (src_code_lt _) zero32 zero16 (zeroHi _))
theorem vsetvlImm (x0 : Head) (x1 : BitVec 8) : Statement (.vsetvlImm x0 x1) := by
  have := x1.isLt
  exact of_eq rfl (inWidth_of x0 (by decide) (by decide) (by decide) zero32 zero32 (by omega) (zeroHi _))
theorem mwld (x0 : Head) (x1 : MArgs) : Statement (.mwld x0 x1) := of_eq rfl (encM_inWidth (by decide) (by decide))
theorem mwldImg (x0 : Head) (x1 : Src) (x2 : MArgs) : Statement (.mwldImg x0 x1 x2) := of_eq rfl (withSb (f := encM x0 0x38 0 x2) (encM_inWidth (by decide) (by decide)) (src_code_lt x1))
theorem mwldGl (x0 : Head) (x1 : Src) (x2 : MArgs) : Statement (.mwldGl x0 x1 x2) := of_eq rfl (withSa (f := encM x0 0x38 0 x2) (encM_inWidth (by decide) (by decide)) (src_code_lt x1))
theorem mma (x0 : Head) (x1 : MArgs) : Statement (.mma x0 x1) := of_eq rfl (encM_inWidth (by decide) (by decide))
theorem mmaSp (x0 : Head) (x1 : MArgs) : Statement (.mmaSp x0 x1) := of_eq rfl (encM_inWidth (by decide) (by decide))
theorem mzero (x0 : Head) (x1 : MArgs) : Statement (.mzero x0 x1) := of_eq rfl (encM_inWidth (by decide) (by decide))
theorem maccRd (x0 : Head) (x1 : MArgs) : Statement (.maccRd x0 x1) := of_eq rfl (encM_inWidth (by decide) (by decide))
theorem maccWr (x0 : Head) (x1 : MArgs) : Statement (.maccWr x0 x1) := of_eq rfl (encM_inWidth (by decide) (by decide))
theorem macq (x0 : Head) (x1 : Fin 64) : Statement (.macq x0 x1) := of_eq rfl (encOwn_inWidth (by decide))
theorem mrel (x0 : Head) (x1 : Fin 64) : Statement (.mrel x0 x1) := of_eq rfl (encOwn_inWidth (by decide))
theorem mpin (x0 : Head) (x1 : Fin 64) : Statement (.mpin x0 x1) := of_eq rfl (encOwn_inWidth (by decide))
theorem munpin (x0 : Head) (x1 : Fin 64) : Statement (.munpin x0 x1) := of_eq rfl (encOwn_inWidth (by decide))
theorem mstat (x0 : Head) (x1 : MArgs) : Statement (.mstat x0 x1) := of_eq rfl (encM_inWidth (by decide) (by decide))
theorem deltaUpd (x0 : Head) (x1 : MArgs) : Statement (.deltaUpd x0 x1) := of_eq rfl (encM_inWidth (by decide) (by decide))
theorem deltaChunk (x0 : Head) (x1 : MArgs) : Statement (.deltaChunk x0 x1) := of_eq rfl (encM_inWidth (by decide) (by decide))
theorem deltaQry (x0 : Head) (x1 : MArgs) : Statement (.deltaQry x0 x1) := of_eq rfl (encM_inWidth (by decide) (by decide))
theorem tileOp (x0 : Nat) : Statement (.tileOp x0) := fun _ h => nomatch h
theorem matrixCommandComplete (x0 : Nat) (x1 : Nat) : Statement (.matrixCommandComplete x0 x1) := fun _ h => nomatch h
theorem matrixErrorEnd (x0 : Nat) (x1 : Nat) : Statement (.matrixErrorEnd x0 x1) := fun _ h => nomatch h
theorem tileRestore (x0 : Nat) (x1 : Fin 64) : Statement (.tileRestore x0 x1) := fun _ h => nomatch h
theorem cpy (x0 : Head) (x1 : Src) (x2 : Src) (x3 : Src) (x4 : CpyArgs) : Statement (.cpy x0 x1 x2 x3 x4) := by
  have := src_code_lt x1
  have := src_code_lt x2
  have := src_code_lt x3
  exact of_eq rfl (inWidth_of x0 (by decide) (by decide) (by decide) (src_code_lt _) (src_code_lt _) (lt_trans (src_code_lt _) (by decide)) (lt_trans (cpyArgs_word_lt _) (by decide)))
theorem cpy2d (x0 : Head) (x1 : Src) (x2 : Src) (x3 : Src) (x4 : Src) (x5 : CpyArgs) : Statement (.cpy2d x0 x1 x2 x3 x4 x5) := by
  have := src_code_lt x1
  have := src_code_lt x2
  have := src_code_lt x3
  have := src_code_lt x4
  exact of_eq rfl (inWidth_of x0 (by decide) (by decide) (by decide) (src_code_lt _) (src_code_lt _) (by omega) (lt_trans (cpyArgs_word_lt _) (by decide)))
theorem engineTranslationDone (x0 : CtxId) : Statement (.engineTranslationDone x0) := fun _ h => nomatch h
theorem channelLineWrite (x0 : Nat) (x1 : Fin 8) : Statement (.channelLineWrite x0 x1) := fun _ h => nomatch h
theorem engineCommandComplete (x0 : Nat) (x1 : Fin 8) : Statement (.engineCommandComplete x0 x1) := fun _ h => nomatch h
theorem engineFaultEnd (x0 : Nat) (x1 : Fin 8) : Statement (.engineFaultEnd x0 x1) := fun _ h => nomatch h
theorem wpwait (x0 : Head) (x1 : Fin 8) (x2 : Src) : Statement (.wpwait x0 x1 x2) := by
  have := x1.isLt
  have := src_code_lt x2
  exact of_eq rfl (inWidth_of x0 (by decide) (by decide) (by decide) (src_code_lt _) zero32 (by omega) (zeroHi _))
theorem gath (x0 : Head) (x1 : Src) (x2 : Src) (x3 : Src) (x4 : Src) (x5 : GathArgs) : Statement (.gath x0 x1 x2 x3 x4 x5) := by
  have := src_code_lt x1
  have := src_code_lt x2
  have := src_code_lt x3
  have := src_code_lt x4
  exact of_eq rfl (inWidth_of x0 (by decide) (by decide) (by decide) (src_code_lt _) (src_code_lt _) (by omega) (lt_trans (gathArgs_word_lt _) (by decide)))
theorem coll (x0 : Head) (x1 : Src) (x2 : Src) (x3 : Src) (x4 : CollArgs) : Statement (.coll x0 x1 x2 x3 x4) := by
  have := src_code_lt x1
  have := src_code_lt x2
  have := src_code_lt x3
  exact of_eq rfl (inWidth_of x0 (by decide) (by decide) (by decide) (src_code_lt _) (src_code_lt _) (lt_trans (src_code_lt _) (by decide)) (lt_trans (collArgs_word_lt _) (by decide)))
theorem snap (x0 : Head) (x1 : Src) (x2 : Src) (x3 : Src) (x4 : Src) (x5 : Fin 8) : Statement (.snap x0 x1 x2 x3 x4 x5) := by
  have := src_code_lt x1
  have := src_code_lt x2
  have := src_code_lt x3
  have := src_code_lt x4
  have := x5.isLt
  exact of_eq rfl (inWidth_of x0 (by decide) (by decide) (by decide) (src_code_lt _) (src_code_lt _) (by omega) (by simp only [lenBytes]; omega))
theorem sigDec (x0 : Head) (x1 : Fin 8) (x2 : Src) : Statement (.sigDec x0 x1 x2) := by
  have := x1.isLt
  have := src_code_lt x2
  exact of_eq rfl (inWidth_of x0 (by decide) (by decide) (by decide) (by omega) (src_code_lt _) zero16 (zeroHi _))
theorem launch (x0 : Head) (x1 : Src) : Statement (.launch x0 x1) :=
  of_eq rfl (inWidth_of x0 (by decide) (by decide) (by decide) (src_code_lt _) zero32 zero16 (zeroHi _))
theorem launchAccept (x0 : CtxId) : Statement (.launchAccept x0) := fun _ h => nomatch h
theorem arm (x0 : Head) (x1 : Src) (x2 : Src) (x3 : Bool) : Statement (.arm x0 x1 x2 x3) := by
  have := src_code_lt x1
  have := src_code_lt x2
  have := bitOf_lt x3
  exact of_eq rfl (inWidth_of x0 (by decide) (by decide) (by decide) (src_code_lt _) (src_code_lt _) zero16 (by simp only [lenBytes]; omega))
theorem disarm (x0 : Head) (x1 : Src) : Statement (.disarm x0 x1) :=
  of_eq rfl (inWidth_of x0 (by decide) (by decide) (by decide) (src_code_lt _) zero32 zero16 (zeroHi _))
theorem cktReq (x0 : Head) (x1 : Src) (x2 : Src) (x3 : CktKind) : Statement (.cktReq x0 x1 x2 x3) := by
  have := src_code_lt x1
  have := src_code_lt x2
  have := cktKind_code_lt x3
  exact of_eq rfl (inWidth_of x0 (by decide) (by decide) (by decide) (src_code_lt _) (src_code_lt _) zero16 (by simp only [lenBytes]; omega))
theorem cktRel (x0 : Head) (x1 : Src) : Statement (.cktRel x0 x1) :=
  of_eq rfl (inWidth_of x0 (by decide) (by decide) (by decide) (src_code_lt _) zero32 zero16 (zeroHi _))
theorem cktStat (x0 : Head) (x1 : Src) : Statement (.cktStat x0 x1) :=
  of_eq rfl (inWidth_of x0 (by decide) (by decide) (by decide) (src_code_lt _) zero32 zero16 (zeroHi _))
theorem locq (x0 : Head) (x1 : Src) (x2 : Fin 3) : Statement (.locq x0 x1 x2) := by
  have := src_code_lt x1
  have := x2.isLt
  exact of_eq rfl (inWidth_of x0 (by decide) (by decide) (by decide) (src_code_lt _) zero32 (by omega) (zeroHi _))
theorem tfence (x0 : Head) : Statement (.tfence x0) :=
  of_eq rfl (inWidth_of x0 (by decide) (by decide) (by decide) zero32 zero32 zero16 (zeroHi _))
theorem trapN (x0 : Head) (x1 : BitVec 8) : Statement (.trapN x0 x1) := by
  have := x1.isLt
  exact of_eq rfl (inWidth_of x0 (by decide) (by decide) (by decide) zero32 zero32 (by omega) (zeroHi _))
theorem svc (x0 : Head) (x1 : BitVec 8) : Statement (.svc x0 x1) := by
  have := x1.isLt
  exact of_eq rfl (inWidth_of x0 (by decide) (by decide) (by decide) zero32 zero32 (by omega) (zeroHi _))
theorem eret (x0 : Head) : Statement (.eret x0) :=
  of_eq rfl (inWidth_of x0 (by decide) (by decide) (by decide) zero32 zero32 zero16 (zeroHi _))
theorem srd (x0 : Head) (x1 : BitVec 9) : Statement (.srd x0 x1) := by
  have := x1.isLt
  exact of_eq rfl (inWidth_of x0 (by decide) (by decide) (by decide) zero32 zero32 (by omega) (zeroHi _))
theorem swr (x0 : Head) (x1 : BitVec 9) (x2 : Src) : Statement (.swr x0 x1 x2) := by
  have := x1.isLt
  have := src_code_lt x2
  exact of_eq rfl (inWidth_of x0 (by decide) (by decide) (by decide) (src_code_lt _) zero32 (by omega) (zeroHi _))
theorem srsRd (x0 : Head) (x1 : Src) (x2 : BitVec 16) : Statement (.srsRd x0 x1 x2) := by
  have := src_code_lt x1
  have := x2.isLt
  exact of_eq rfl (inWidth_of x0 (by decide) (by decide) (by decide) (src_code_lt _) zero32 (by omega) (zeroHi _))
theorem srsWr (x0 : Head) (x1 : Src) (x2 : Src) (x3 : BitVec 16) : Statement (.srsWr x0 x1 x2 x3) := by
  have := src_code_lt x1
  have := src_code_lt x2
  have := x3.isLt
  exact of_eq rfl (inWidth_of x0 (by decide) (by decide) (by decide) (src_code_lt _) (src_code_lt _) (by omega) (zeroHi _))
theorem srsRdAnswer (x0 : CtxId) (x1 : Nat) : Statement (.srsRdAnswer x0 x1) := fun _ h => nomatch h
theorem prio (x0 : Head) (x1 : BitVec 4) : Statement (.prio x0 x1) := by
  have := x1.isLt
  exact of_eq rfl (inWidth_of x0 (by decide) (by decide) (by decide) zero32 zero32 (by omega) (zeroHi _))
theorem time (x0 : Head) (x1 : Fin 3) : Statement (.time x0 x1) := by
  have := x1.isLt
  exact of_eq rfl (inWidth_of x0 (by decide) (by decide) (by decide) zero32 zero32 (by omega) (zeroHi _))
theorem chkpt (x0 : Head) : Statement (.chkpt x0) :=
  of_eq rfl (inWidth_of x0 (by decide) (by decide) (by decide) zero32 zero32 zero16 (zeroHi _))
theorem pwrReq (x0 : Head) (x1 : Fin 8) : Statement (.pwrReq x0 x1) := by
  have := x1.isLt
  exact of_eq rfl (inWidth_of x0 (by decide) (by decide) (by decide) zero32 zero32 (by omega) (zeroHi _))
theorem halt (x0 : Head) : Statement (.halt x0) :=
  of_eq rfl (inWidth_of x0 (by decide) (by decide) (by decide) zero32 zero32 zero16 (zeroHi _))
theorem bankpwrWrite (x0 : Nat) (x1 : Fin 8) (x2 : W64) : Statement (.bankpwrWrite x0 x1 x2) := fun _ h => nomatch h
theorem bankWakeDone (x0 : Nat) (x1 : Nat) : Statement (.bankWakeDone x0 x1) := fun _ h => nomatch h
theorem retBankWake (x0 : Nat) (x1 : Nat) : Statement (.retBankWake x0 x1) := fun _ h => nomatch h
theorem mqwtWrite (x0 : Head) (x1 : Fin 8) (x2 : Src) : Statement (.mqwtWrite x0 x1 x2) := fun _ h => nomatch h
theorem lqEnable (x0 : Nat) (x1 : Fin 12) (x2 : W64) : Statement (.lqEnable x0 x1 x2) := fun _ h => nomatch h
theorem lqNotify (x0 : Nat) (x1 : Fin 12) (x2 : W64) : Statement (.lqNotify x0 x1 x2) := fun _ h => nomatch h
theorem lqFetch (x0 : Nat) (x1 : Fin 12) : Statement (.lqFetch x0 x1) := fun _ h => nomatch h
theorem lqRereadTimer (x0 : Nat) (x1 : Fin 12) : Statement (.lqRereadTimer x0 x1) := fun _ h => nomatch h
theorem taggedLaunchMessage (x0 : Nat) (x1 : W16) (x2 : List Byte) : Statement (.taggedLaunchMessage x0 x1 x2) := fun _ h => nomatch h
theorem waitvaPoll (x0 : Nat) : Statement (.waitvaPoll x0) := fun _ h => nomatch h
theorem sheafPlace (x0 : Nat) : Statement (.sheafPlace x0) := fun _ h => nomatch h
theorem placementRetest (x0 : Nat) : Statement (.placementRetest x0) := fun _ h => nomatch h
theorem sheafStop (x0 : Nat) : Statement (.sheafStop x0) := fun _ h => nomatch h
theorem stopTimeout (x0 : Nat) : Statement (.stopTimeout x0) := fun _ h => nomatch h
theorem speltSaveDone (x0 : Nat) : Statement (.speltSaveDone x0) := fun _ h => nomatch h
theorem sheafResume (x0 : Nat) : Statement (.sheafResume x0) := fun _ h => nomatch h
theorem ageLimitExpiry (x0 : Nat) : Statement (.ageLimitExpiry x0) := fun _ h => nomatch h
theorem sheafMigrate (x0 : Nat) (x1 : Nat) (x2 : Nat) : Statement (.sheafMigrate x0 x1 x2) := fun _ h => nomatch h
theorem sheafRetire (x0 : Nat) : Statement (.sheafRetire x0) := fun _ h => nomatch h
theorem gangReserved (x0 : Nat) (x1 : Nat) : Statement (.gangReserved x0 x1) := fun _ h => nomatch h
theorem gangCommit (x0 : Nat) (x1 : Nat) : Statement (.gangCommit x0 x1) := fun _ h => nomatch h
theorem gangStartSlot (x0 : Nat) : Statement (.gangStartSlot x0) := fun _ h => nomatch h
theorem gangArrivalMessage (x0 : Nat) (x1 : Nat) (x2 : Bool) : Statement (.gangArrivalMessage x0 x1 x2) := fun _ h => nomatch h
theorem gkreqWrite (x0 : Nat) (x1 : W64) : Statement (.gkreqWrite x0 x1) := fun _ h => nomatch h
theorem gangnWrite (x0 : Nat) (x1 : Fin 16) (x2 : W64) : Statement (.gangnWrite x0 x1 x2) := fun _ h => nomatch h
theorem deadlockDetect (x0 : Nat) : Statement (.deadlockDetect x0) := fun _ h => nomatch h
theorem svcresWrite (x0 : Nat) (x1 : W64) : Statement (.svcresWrite x0 x1) := fun _ h => nomatch h
theorem batchServe (x0 : Nat) (x1 : Nat) : Statement (.batchServe x0 x1) := fun _ h => nomatch h
theorem checkpointCopyDone (x0 : Nat) : Statement (.checkpointCopyDone x0) := fun _ h => nomatch h
theorem unnumberedCheckpoint (x0 : CtxId) : Statement (.unnumberedCheckpoint x0) := fun _ h => nomatch h
theorem sliceEnd (x0 : Fin 8) : Statement (.sliceEnd x0) := fun _ h => nomatch h
theorem saveStartTimer (x0 : Fin 8) : Statement (.saveStartTimer x0) := fun _ h => nomatch h
theorem tenantTurn (x0 : Fin 8) : Statement (.tenantTurn x0) := fun _ h => nomatch h
theorem tlbinv1Write (x0 : Nat) (x1 : W64) : Statement (.tlbinv1Write x0 x1) := fun _ h => nomatch h
theorem tlbinv2Write (x0 : Nat) (x1 : W64) : Statement (.tlbinv2Write x0 x1) := fun _ h => nomatch h
theorem tlbInvalidationDone (x0 : Nat) (x1 : Bool) : Statement (.tlbInvalidationDone x0 x1) := fun _ h => nomatch h
theorem ptdataWrite (x0 : Nat) (x1 : W64) : Statement (.ptdataWrite x0 x1) := fun _ h => nomatch h
theorem s2ptdataWrite (x0 : Nat) (x1 : W64) : Statement (.s2ptdataWrite x0 x1) := fun _ h => nomatch h
theorem s2ptclr (x0 : Nat) (x1 : W64) : Statement (.s2ptclr x0 x1) := fun _ h => nomatch h
theorem pageMove (x0 : Nat) (x1 : W64) : Statement (.pageMove x0 x1) := fun _ h => nomatch h
theorem pageMoveDone (x0 : Nat) : Statement (.pageMoveDone x0) := fun _ h => nomatch h
theorem pageResponse (x0 : BitVec 20) (x1 : BitVec 9) (x2 : PageAnswer) : Statement (.pageResponse x0 x1 x2) := fun _ h => nomatch h
theorem atsTranslationCompletion (x0 : CtxId) (x1 : Bool) (x2 : W64) : Statement (.atsTranslationCompletion x0 x1 x2) := fun _ h => nomatch h
theorem atsInvalidationRequest (x0 : Nat) (x1 : W64) (x2 : Nat) : Statement (.atsInvalidationRequest x0 x1 x2) := fun _ h => nomatch h
theorem vdReset (x0 : Nat) (x1 : W64) : Statement (.vdReset x0 x1) := fun _ h => nomatch h
theorem zeroingDone (x0 : Nat) : Statement (.zeroingDone x0) := fun _ h => nomatch h
theorem keyLoad (x0 : BitVec 13) : Statement (.keyLoad x0) := fun _ h => nomatch h
theorem keyClear (x0 : BitVec 13) : Statement (.keyClear x0) := fun _ h => nomatch h
theorem signalWindowRead (x0 : Nat) (x1 : BitVec 20) : Statement (.signalWindowRead x0 x1) := fun _ h => nomatch h
theorem hostUnsupportedAccess (x0 : RegPage) (x1 : Nat) (x2 : Nat) : Statement (.hostUnsupportedAccess x0 x1 x2) := fun _ h => nomatch h
theorem fabcfgWrite (x0 : W64) : Statement (.fabcfgWrite x0) := fun _ h => nomatch h
theorem fabquotaWrite (x0 : Nat) (x1 : W64) : Statement (.fabquotaWrite x0 x1) := fun _ h => nomatch h
theorem configTrain : Statement .configTrain := fun _ h => nomatch h
theorem bromeRequest : Statement .bromeRequest := fun _ h => nomatch h
theorem bromeRelease : Statement .bromeRelease := fun _ h => nomatch h
theorem bromeAnswer : Statement .bromeAnswer := fun _ h => nomatch h
theorem circuitResize (x0 : Nat) : Statement (.circuitResize x0) := fun _ h => nomatch h
theorem circuitFlitArrive (x0 : Nat) (x1 : Bool) : Statement (.circuitFlitArrive x0 x1) := fun _ h => nomatch h
theorem memRequestInject (x0 : CtxId) : Statement (.memRequestInject x0) := fun _ h => nomatch h
theorem memResponse (x0 : CtxId) : Statement (.memResponse x0) := fun _ h => nomatch h
theorem portCfgWrite (x0 : Fin 16) (x1 : W64) : Statement (.portCfgWrite x0 x1) := fun _ h => nomatch h
theorem ptpMessage (x0 : Fin 16) (x1 : Int) (x2 : W16) : Statement (.ptpMessage x0 x1 x2) := fun _ h => nomatch h
theorem ethLaunchFrame (x0 : Fin 16) (x1 : List Byte) : Statement (.ethLaunchFrame x0 x1) := fun _ h => nomatch h
theorem ethBulkFrame (x0 : Fin 16) (x1 : Nat) (x2 : Nat) (x3 : List Byte) : Statement (.ethBulkFrame x0 x1 x2 x3) := fun _ h => nomatch h
theorem pointTransition (x0 : Nat) : Statement (.pointTransition x0) := fun _ h => nomatch h
theorem pointTransitionDone (x0 : Nat) : Statement (.pointTransitionDone x0) := fun _ h => nomatch h
theorem slewGrantUp (x0 : Nat) : Statement (.slewGrantUp x0) := fun _ h => nomatch h
theorem slewGrantDown (x0 : Nat) : Statement (.slewGrantDown x0) := fun _ h => nomatch h
theorem rampStepEnd (x0 : Nat) : Statement (.rampStepEnd x0) := fun _ h => nomatch h
theorem ptctlWrite (x0 : Fin 8) (x1 : W64) : Statement (.ptctlWrite x0 x1) := fun _ h => nomatch h
theorem ptrampWrite (x0 : Fin 8) (x1 : W64) : Statement (.ptrampWrite x0 x1) := fun _ h => nomatch h
theorem vdschedWrite (x0 : Nat) (x1 : W64) : Statement (.vdschedWrite x0 x1) := fun _ h => nomatch h
theorem thermalSample (x0 : List (Nat × Nat)) : Statement (.thermalSample x0) := fun _ h => nomatch h
theorem thermlimWrite (x0 : W64) : Statement (.thermlimWrite x0) := fun _ h => nomatch h
theorem pwrcapWrite (x0 : W64) : Statement (.pwrcapWrite x0) := fun _ h => nomatch h
theorem powerWindow (x0 : Nat) (x1 : List Nat) : Statement (.powerWindow x0 x1) := fun _ h => nomatch h
theorem powerCapAdjust : Statement .powerCapAdjust := fun _ h => nomatch h
theorem coldReset : Statement .coldReset := fun _ h => nomatch h
theorem bringupStageDone (x0 : BitVec 8) : Statement (.bringupStageDone x0) := fun _ h => nomatch h
theorem pf0Flr : Statement .pf0Flr := fun _ h => nomatch h
theorem vfFlr (x0 : Nat) : Statement (.vfFlr x0) := fun _ h => nomatch h
theorem attReport : Statement .attReport := fun _ h => nomatch h
theorem attCertChain : Statement .attCertChain := fun _ h => nomatch h
theorem attestDone : Statement .attestDone := fun _ h => nomatch h
theorem uncorrectableRegisterError (x0 : CtxId) : Statement (.uncorrectableRegisterError x0) := fun _ h => nomatch h
theorem ageingSample (x0 : List (Nat × Nat)) : Statement (.ageingSample x0) := fun _ h => nomatch h
theorem guardForceTransition (x0 : Nat) : Statement (.guardForceTransition x0) := fun _ h => nomatch h
theorem registerWrite (x0 : RegPage) (x1 : Nat) (x2 : W64) : Statement (.registerWrite x0 x1 x2) := fun _ h => nomatch h
theorem illegalInstruction (x0 : DecodeCause) (x1 : Byte) : Statement (.illegalInstruction x0 x1) := fun _ h => nomatch h
theorem pendingResultWrite (x0 : CtxId) (x1 : Nat) : Statement (.pendingResultWrite x0 x1) := fun _ h => nomatch h
theorem supplyRampDone (x0 : Nat) : Statement (.supplyRampDone x0) := fun _ h => nomatch h
theorem thermalMoveDone (x0 : Nat) : Statement (.thermalMoveDone x0) := fun _ h => nomatch h
theorem speltRestoreDone (x0 : Nat) : Statement (.speltRestoreDone x0) := fun _ h => nomatch h
theorem checkpointRecorded (x0 : Nat) : Statement (.checkpointRecorded x0) := fun _ h => nomatch h
theorem keyCommandDone : Statement .keyCommandDone := fun _ h => nomatch h
theorem netCircuitActive (x0 : Nat) : Statement (.netCircuitActive x0) := fun _ h => nomatch h
theorem abandonedSlotReuse (x0 : Nat) (x1 : Fin 64) : Statement (.abandonedSlotReuse x0 x1) := fun _ h => nomatch h

end Sys2Proof.Laws.Widths
end

