-- ==== Sys2Proof/Tests/Slice0.lean ====
section
/-! SUPPORT. Tests: the words of the spec's encodings, what the decoder and the checks refuse, states that meet the
hypotheses of each statement, and single steps on the spec's own examples. -/

set_option Elab.async false

namespace Sys2Proof.Tests
open Sys2Proof Sys2Proof.Machine

/-! ### Small states -/

/-- A head guarded on, with a destination and no window. -/
def hd (d : Dst) : Head := ⟨.always, d, 0⟩

/-- The state that `withFetchWord` sets up for a `nop`, with the banks of core 0 ON and barrier level 4 VALID. -/
def base : State :=
  let s := State.reset.withFetchWord 64 0x0000002200000374
  { s with
    sched := []
    grains := Tab.put s.grains (0, 0) { Grain.zero with dommask := 0x8000_0000_0000_0000 }
    cores := Tab.put s.cores 0 { s.coreOf 0 with bankpwr := Vector.replicate 8 0 } }

def withCtx (f : Ctx → Ctx) : State := base.updMe f
def withG (n : Fin 16) (v : W64) : State := withCtx fun c => { c with g := c.g.set n v }
def withA (n : Fin 8) (v : W64) : State := withCtx fun c => { c with a := c.a.set n v }
def withGrain (f : Grain → Grain) : State := base.updGrain f
def withSheaf (f : Sheaf → Sheaf) : State := base.updSheaf 0 f
def withTile (f : Tile → Tile) : State := base.updTile 0 f
def withVd (f : Vd → Vd) : State := base.updVd 0 f
def withDev (f : Dev → Dev) : State := base.updDev f

/-- The same state with an empty log of no room that runs for virtual device 0 in rollback mode. -/
def tight (s : State) : State := (s.setHyp 0 rLOGCTL 0x8000_0000_0000_0000).updVd 0 fun v => { v with
  moments := [⟨1, base.cur, 0, 0, true⟩] }

/-- The same state with a U line of a context in quad 0. -/
def lined (by_ : CtxId) (s : State) : State := s.updQuad 0 fun q => { q with ulines := [⟨0, 0x40, 0x40, 0, 0, false, [(0, 1)], [by_]⟩] }

/-- The state after an instruction. -/
def after (i : Instr) (s : State) : State :=
  match exec i s with
  | .next t => t
  | _ => s

/-- The state after a step. -/
def afterStep (s : State) : State :=
  match step s with
  | .next t => t
  | _ => s

/-! ### Words of the spec's encodings -/

theorem test_decode_opm_01 :
  decodeTableWord 64 0x88CA00000004 = some (.add (hd (.g 5)) (.g 3) (.reg (.q 1))) ∧
  decodeTableWord 64 0x800107E10CB04104 = some (.sub ⟨.on true (.q 2) 33, .q, 0⟩ (.q 15) (.imm 0x8001)) ∧
  decodeTableWord 64 0x3FE005E00008204 = some (.mul (hd (.g 15)) (.g 1) (.const 0x3FE)) ∧
  decodeTableWord 96 0xDEADBEEF000000400000C305 = some (.mulh (hd (.g 0)) (.g 1) (.lit 0xDEADBEEF)) ∧
  decodeTableWord 64 0x88CA00000404 = some (.mulhu (hd (.g 5)) (.g 3) (.reg (.q 1))) ∧
  decodeTableWord 64 0x800107E10CB04504 = some (.div ⟨.on true (.q 2) 33, .q, 0⟩ (.q 15) (.imm 0x8001)) ∧
  decodeTableWord 64 0x3FE005E00008604 = some (.divu (hd (.g 15)) (.g 1) (.const 0x3FE)) ∧
  decodeTableWord 96 0xDEADBEEF000000400000C705 = some (.rem (hd (.g 0)) (.g 1) (.lit 0xDEADBEEF)) ∧
  decodeTableWord 64 0x88CA00000804 = some (.remu (hd (.g 5)) (.g 3) (.reg (.q 1))) ∧
  decodeTableWord 64 0x800107E10CB04904 = some (.minS ⟨.on true (.q 2) 33, .q, 0⟩ (.q 15) (.imm 0x8001)) ∧
  decodeTableWord 64 0x3FE005E00008A04 = some (.maxS (hd (.g 15)) (.g 1) (.const 0x3FE)) ∧
  decodeTableWord 96 0xDEADBEEF000000400000CB05 = some (.minu (hd (.g 0)) (.g 1) (.lit 0xDEADBEEF)) ∧
  decodeTableWord 64 0x88CA00000C04 = some (.maxu (hd (.g 5)) (.g 3) (.reg (.q 1))) := by
  decide

theorem test_decode_opm_02 :
  decodeTableWord 64 0x20CA00000008 = some (.andW (hd (.g 5)) (.g 3) (.reg (.g 4))) ∧
  decodeTableWord 64 0x20CA00000108 = some (.orW (hd (.g 5)) (.g 3) (.reg (.g 4))) ∧
  decodeTableWord 64 0x20CA00000208 = some (.xorW (hd (.g 5)) (.g 3) (.reg (.g 4))) ∧
  decodeTableWord 64 0x20CA00000308 = some (.andn (hd (.g 5)) (.g 3) (.reg (.g 4))) ∧
  decodeTableWord 64 0x20CA00000408 = some (.orn (hd (.g 5)) (.g 3) (.reg (.g 4))) ∧
  decodeTableWord 64 0x20CA00000508 = some (.shl (hd (.g 5)) (.g 3) (.reg (.g 4))) ∧
  decodeTableWord 64 0x20CA00000608 = some (.shr (hd (.g 5)) (.g 3) (.reg (.g 4))) ∧
  decodeTableWord 64 0x20CA00000708 = some (.sra (hd (.g 5)) (.g 3) (.reg (.g 4))) ∧
  decodeTableWord 64 0x20CA00000808 = some (.rot (hd (.g 5)) (.g 3) (.reg (.g 4))) := by
  decide

theorem test_decode_opm_03 :
  decodeTableWord 64 0x40E0000000C = some (.clz (hd (.g 7)) (.q 0)) ∧
  decodeTableWord 64 0x40E0000010C = some (.ctz (hd (.g 7)) (.q 0)) ∧
  decodeTableWord 64 0x40E0000020C = some (.popc (hd (.g 7)) (.q 0)) ∧
  decodeTableWord 64 0x20008E0000430C = some (.bext (hd (.g 7)) (.g 2) (.imm 32)) ∧
  decodeTableWord 64 0x20008E0000450C = some (.sext (hd (.g 7)) (.g 2) (.imm 32)) ∧
  decodeTableWord 64 0x20008E0000460C = some (.zext (hd (.g 7)) (.g 2) (.imm 32)) ∧
  decodeTableWord 64 0x16488E0000040C = some (.bins (hd (.g 7)) (.g 2) (.g 9) (.reg (.q 6))) ∧
  decodeTableWord 64 0xFFFF488E0000470C = some (.sel (hd (.g 7)) (.g 2) (.g 9) (.imm 0xFFFF)) := by
  decide

theorem test_decode_opm_04 :
  decodeTableWord 64 0x400CA00004010 = some (.ceq (hd (.g 5)) (.g 3) (.imm 4)) ∧
  decodeTableWord 64 0x400CA00004110 = some (.cne (hd (.g 5)) (.g 3) (.imm 4)) ∧
  decodeTableWord 64 0x400CA00004210 = some (.clt (hd (.g 5)) (.g 3) (.imm 4)) ∧
  decodeTableWord 64 0x400CA00004310 = some (.cle (hd (.g 5)) (.g 3) (.imm 4)) ∧
  decodeTableWord 64 0x400CA00004410 = some (.cltu (hd (.g 5)) (.g 3) (.imm 4)) ∧
  decodeTableWord 64 0x400CA00004510 = some (.cleu (hd (.g 5)) (.g 3) (.imm 4)) := by
  decide

theorem test_decode_opm_10 :
  decodeTableWord 64 0x3EC000E000094040 = some (.fadd ⟨.always, .q, 9⟩ (.g 3) (.imm20 0x3EC00)) ∧
  decodeTableWord 64 0x3EC000E000094140 = some (.fsub ⟨.always, .q, 9⟩ (.g 3) (.imm20 0x3EC00)) ∧
  decodeTableWord 64 0x3EC000E000094240 = some (.fmul ⟨.always, .q, 9⟩ (.g 3) (.imm20 0x3EC00)) ∧
  decodeTableWord 64 0x3EC000E000094440 = some (.fmin ⟨.always, .q, 9⟩ (.g 3) (.imm20 0x3EC00)) ∧
  decodeTableWord 64 0x3EC000E000094540 = some (.fmax ⟨.always, .q, 9⟩ (.g 3) (.imm20 0x3EC00)) ∧
  decodeTableWord 64 0x3FF4C2000008340 = some (.ffma ⟨.always, .q, 0⟩ (.q 0) (.g 9) (.const 1023)) ∧
  decodeTableWord 64 0xC400000640 = some (.fabs (hd (.g 2)) (.g 3)) ∧
  decodeTableWord 64 0xC400000740 = some (.fneg (hd (.g 2)) (.g 3)) ∧
  decodeTableWord 64 0xC400000840 = some (.frcp (hd (.g 2)) (.g 3)) ∧
  decodeTableWord 64 0xC400000940 = some (.frsq (hd (.g 2)) (.g 3)) := by
  decide

theorem test_decode_opm_11 :
  decodeTableWord 96 0x40490FDB000000C20000C045 = some (.fceq (hd (.g 1)) (.g 3) (.lit 0x40490FDB)) ∧
  decodeTableWord 96 0x40490FDB000000C20000C145 = some (.fclt (hd (.g 1)) (.g 3) (.lit 0x40490FDB)) ∧
  decodeTableWord 96 0x40490FDB000000C20000C245 = some (.fcle (hd (.g 1)) (.g 3) (.lit 0x40490FDB)) ∧
  decodeTableWord 64 0xC200000344 = some (.fclass (hd (.g 1)) (.g 3)) ∧
  decodeTableWord 64 0x2700C200000444 = some (.fcvt (hd (.g 1)) (.g 3) .bf16f32 .sr) := by
  decide

theorem test_decode_opm_18 :
  decodeTableWord 64 0x8000000C00000060 = some (.movi (hd (.g 6)) 0x8000) ∧
  decodeTableWord 96 0x123456780000008C00000161 = some (.movhi (hd (.g 6)) (.g 2) 0x12345678) ∧
  decodeTableWord 64 0x50C00000260 = some (.movR (hd (.g 6)) (.q 4)) ∧
  decodeTableWord 96 0xFFFFFFFF0000000C00000361 = some (.lit (hd (.g 6)) 0xFFFFFFFF) := by
  decide

theorem test_decode_opm_19 :
  decodeTableWord 64 0x5106200000064 = some (.pset (hd .none) 5 (.g 1) (.g 2)) ∧
  decodeTableWord 64 0xD006200000064 = some (.psetKeep (hd .none) 5 (.g 1)) ∧
  decodeTableWord 64 0x7006200000164 = some (.padd (hd .none) 7 (.g 1)) ∧
  decodeTableWord 96 0xFFFFFFF00007002200000165 = some (.paddImm (hd .none) 7 0xFFFFFFF0) ∧
  decodeTableWord 64 0xB000800000264 = some (.pget (hd (.g 4)) 3 true) := by
  decide

theorem test_decode_opm_1c :
  decodeTableWord 64 0xFFFC002200000070 = some (.br (hd .none) 0xFFFC) ∧
  decodeTableWord 96 0x100000000002200000171 = some (.jmp (hd .none) 0x10000) ∧
  decodeTableWord 96 0x80000001C00000271 = some (.call (hd (.g 14)) 8) ∧
  decodeTableWord 64 0x3A200000370 = some (.ret (hd .none) (.g 14)) ∧
  decodeTableWord 64 0x42200000470 = some (.brx (hd .none) (.q 0)) ∧
  decodeTableWord 96 0x5000000E200000571 = some (.loopI (hd .none) (.g 3) 5) := by
  decide

theorem test_decode_opm_1d :
  decodeTableWord 96 0x10000A002200000075 = some (.hstart (hd .none) 10 16) ∧
  decodeTableWord 64 0x1002200000174 = some (.hjoin (hd .none) 1) ∧
  decodeTableWord 64 0x2200000274 = some (.hexit (hd .none)) ∧
  decodeTableWord 64 0x2200000374 = some (.nop (hd .none)) := by
  decide

theorem test_decode_opm_20 :
  decodeTableWord 64 0xFFF800C4000F3680 = some (.ld ⟨.always, .g 2, 15⟩ (.off 3 0xFFF8) .w true (some .core)) := by
  decide

theorem test_decode_opm_21 :
  decodeTableWord 64 0x89E200000B84 = some (.st (hd .none) (.post 7) .d none (.q 1)) := by
  decide

theorem test_decode_opm_22 :
  decodeTableWord 64 0x40000E088 = some (.ldg (hd (.g 2)) (.base 0) .b false (some .sys)) := by
  decide

theorem test_decode_opm_23 :
  decodeTableWord 64 0x848620000D18C = some (.stg (hd .none) (.off 1 8) .h (some .dev) (.g 9)) := by
  decide

theorem test_decode_opm_24 :
  decodeTableWord 64 0x8200000090 = some (.ldsync (hd (.g 1)) (.base 2)) ∧
  decodeTableWord 64 0x8200000990 = some (.ldsyncC (hd (.g 1)) (.post 2)) ∧
  decodeTableWord 64 0x418A200001290 = some (.stfull (hd .none) (.off 2 4) (.g 3)) ∧
  decodeTableWord 64 0xA200000390 = some (.setempty (hd .none) (.base 2)) := by
  decide

theorem test_decode_opm_28 :
  decodeTableWord 64 0x4102000070A0 = some (.amoSwap (hd (.g 1)) ⟨4, true, some .tile, false, .g 8⟩) ∧
  decodeTableWord 64 0x4102000072A0 = some (.amoAdd (hd (.g 1)) ⟨4, true, some .tile, false, .g 8⟩) ∧
  decodeTableWord 64 0x4102000074A0 = some (.amoMin (hd (.g 1)) ⟨4, true, some .tile, false, .g 8⟩) ∧
  decodeTableWord 64 0x4102000075A0 = some (.amoMax (hd (.g 1)) ⟨4, true, some .tile, false, .g 8⟩) ∧
  decodeTableWord 64 0x4102000076A0 = some (.amoAnd (hd (.g 1)) ⟨4, true, some .tile, false, .g 8⟩) ∧
  decodeTableWord 64 0x4102000077A0 = some (.amoOr (hd (.g 1)) ⟨4, true, some .tile, false, .g 8⟩) ∧
  decodeTableWord 64 0x4102000078A0 = some (.amoXor (hd (.g 1)) ⟨4, true, some .tile, false, .g 8⟩) ∧
  decodeTableWord 64 0x204102000003A0 = some (.amoFadd (hd (.g 1)) ⟨4, false, none, true, .g 8⟩) ∧
  decodeTableWord 64 0x2628880000D1A0 = some (.amoCas (hd (.g 4)) ⟨2, true, some .dev, true, .g 5⟩ (.g 6)) := by
  decide

theorem test_decode_opm_29 :
  decodeTableWord 64 0x4122000090A4 = some (.redAdd (hd .none) ⟨4, true, some .clus, .g 8⟩) ∧
  decodeTableWord 64 0x4122000092A4 = some (.redMin (hd .none) ⟨4, true, some .clus, .g 8⟩) ∧
  decodeTableWord 64 0x4122000093A4 = some (.redMax (hd .none) ⟨4, true, some .clus, .g 8⟩) ∧
  decodeTableWord 64 0x4122000094A4 = some (.redAnd (hd .none) ⟨4, true, some .clus, .g 8⟩) ∧
  decodeTableWord 64 0x4122000095A4 = some (.redOr (hd .none) ⟨4, true, some .clus, .g 8⟩) ∧
  decodeTableWord 64 0x4122000096A4 = some (.redXor (hd .none) ⟨4, true, some .clus, .g 8⟩) ∧
  decodeTableWord 64 0x4122000041A4 = some (.redFadd (hd .none) ⟨4, false, some .quad, .g 8⟩) := by
  decide

theorem test_decode_opm_2a :
  decodeTableWord 64 0x22000007A8 = some (.fence (hd .none) .sys) ∧
  decodeTableWord 64 0x22000009A8 = some (.fenceAcq (hd .none) .core) ∧
  decodeTableWord 64 0x22000015A8 = some (.fenceRel (hd .none) .dom) := by
  decide

theorem test_decode_opm_2c :
  decodeTableWord 64 0x30002000000B0 = some (.barArv (hd (.g 1)) 3) ∧
  decodeTableWord 64 0x10182000001B0 = some (.barWait (hd (.g 1)) (.g 6) 1) ∧
  decodeTableWord 64 0x2000002B0 = some (.barSync (hd (.g 1)) 0) ∧
  decodeTableWord 64 0x1F0022000003B0 = some (.evsig (hd .none) 31) := by
  decide

theorem test_decode_opm_2d :
  decodeTableWord 64 0x1062000000B4 = some (.rdvPut (hd .none) (.g 1) (.g 2)) ∧
  decodeTableWord 64 0x46000001B4 = some (.rdvGet (hd (.g 3)) (.g 1)) ∧
  decodeTableWord 64 0x711A2000002B4 = some (.rqput (hd .none) 6 (.g 2) 7) ∧
  decodeTableWord 64 0x1186000003B4 = some (.rqtake (hd (.g 3)) 6 (.g 2)) := by
  decide

theorem test_decode_opm_2e :
  decodeTableWord 64 0x8621062000000B8 = some (.ringDef (hd .none) (.g 1) (.g 2) 2 3 0 2) := by
  decide

theorem test_decode_opm_30 :
  decodeTableWord 128 0x430613700009822000000C2 = some (.vadd (hd .none) ⟨.mem 7 true, .mem 1 false, .scalar (.q 3), .absent, .s16, .rne, 1, 0⟩) ∧
  decodeTableWord 128 0x430613700009822000001C2 = some (.vsub (hd .none) ⟨.mem 7 true, .mem 1 false, .scalar (.q 3), .absent, .s16, .rne, 1, 0⟩) ∧
  decodeTableWord 128 0x430613700009822000002C2 = some (.vmul (hd .none) ⟨.mem 7 true, .mem 1 false, .scalar (.q 3), .absent, .s16, .rne, 1, 0⟩) ∧
  decodeTableWord 128 0xC4A3300040022000003C2 = some (.vfma (hd .none) ⟨.mem 3 true, .mem 1 true, .mem 2 true, .scalar (.g 4), .f32, .rne, 0, 0⟩) ∧
  decodeTableWord 128 0xC4A3300040022000004C2 = some (.vfms (hd .none) ⟨.mem 3 true, .mem 1 true, .mem 2 true, .scalar (.g 4), .f32, .rne, 0, 0⟩) ∧
  decodeTableWord 128 0x702B0800000062000005C2 = some (.vmin (hd .none) ⟨.mem 0 false, .scalar (.g 1), .mem 2 false, .absent, .u8, .rne, 0, 0⟩) ∧
  decodeTableWord 128 0x702B0800000062000006C2 = some (.vmax (hd .none) ⟨.mem 0 false, .scalar (.g 1), .mem 2 false, .absent, .u8, .rne, 0, 0⟩) ∧
  decodeTableWord 128 0x10018800000022000007C2 = some (.vabs (hd .none) ⟨.mem 0 false, .mem 4 false, .absent, .absent, .bf16, .rne, 0, 0⟩) ∧
  decodeTableWord 128 0x10018800000022000008C2 = some (.vneg (hd .none) ⟨.mem 0 false, .mem 4 false, .absent, .absent, .bf16, .rne, 0, 0⟩) := by
  decide

theorem test_decode_opm_31 :
  decodeTableWord 128 0x18800000022000000C6 = some (.vexp2 (hd .none) ⟨.mem 0 false, .mem 4 false, .absent, .absent, .f32, .rne, 0, 0⟩) ∧
  decodeTableWord 128 0x18800000022000001C6 = some (.vlog2 (hd .none) ⟨.mem 0 false, .mem 4 false, .absent, .absent, .f32, .rne, 0, 0⟩) ∧
  decodeTableWord 128 0x18800000022000002C6 = some (.vrcp (hd .none) ⟨.mem 0 false, .mem 4 false, .absent, .absent, .f32, .rne, 0, 0⟩) ∧
  decodeTableWord 128 0x18800000022000003C6 = some (.vrsq (hd .none) ⟨.mem 0 false, .mem 4 false, .absent, .absent, .f32, .rne, 0, 0⟩) ∧
  decodeTableWord 128 0x240018800000022000004C6 = some (.vcvt (hd .none) ⟨.mem 0 false, .mem 4 false, .absent, .absent, .s8, .sr, 0, 0⟩) := by
  decide

theorem test_decode_opm_32 :
  decodeTableWord 128 0x50358800000022000000CA = some (.vand (hd .none) ⟨.mem 0 false, .mem 4 false, .mem 5 false, .absent, .u32, .rne, 0, 0⟩) ∧
  decodeTableWord 128 0x50358800000022000001CA = some (.vor (hd .none) ⟨.mem 0 false, .mem 4 false, .mem 5 false, .absent, .u32, .rne, 0, 0⟩) ∧
  decodeTableWord 128 0x50358800000022000002CA = some (.vxor (hd .none) ⟨.mem 0 false, .mem 4 false, .mem 5 false, .absent, .u32, .rne, 0, 0⟩) ∧
  decodeTableWord 128 0x60358800000022000003CA = some (.vshl (hd .none) ⟨.mem 0 false, .mem 4 false, .mem 5 false, .absent, .u16, .rne, 0, 0⟩) ∧
  decodeTableWord 128 0x60358800000022000004CA = some (.vshr (hd .none) ⟨.mem 0 false, .mem 4 false, .mem 5 false, .absent, .u16, .rne, 0, 0⟩) ∧
  decodeTableWord 128 0x60358800000022000005CA = some (.vsra (hd .none) ⟨.mem 0 false, .mem 4 false, .mem 5 false, .absent, .u16, .rne, 0, 0⟩) ∧
  decodeTableWord 128 0xC00358800000022000006CA = some (.vcmp (hd .none) ⟨.mem 0 false, .mem 4 false, .mem 5 false, .absent, .f32, .rne, 3, 0⟩) ∧
  decodeTableWord 128 0x27358800000022000007CA = some (.vsel (hd .none) ⟨.mem 0 false, .mem 4 false, .mem 5 false, .mem 6 false, .s32, .rne, 0, 0⟩) := by
  decide

theorem test_decode_opm_33 :
  decodeTableWord 128 0x30800000022000000CE = some (.vbcast (hd .none) ⟨.mem 0 false, .scalar (.g 0), .absent, .absent, .f32, .rne, 0, 0⟩) ∧
  decodeTableWord 128 0x12800000022000001CE = some (.vmov (hd .none) ⟨.mem 0 false, .mem 1 false, .absent, .absent, .f32, .rne, 0, 0⟩) ∧
  decodeTableWord 128 0x81010000012800000022000002CE = some (.vperm (hd .none) ⟨.mem 0 false, .mem 1 false, .absent, .absent, .f32, .rne, 0, 33025⟩) := by
  decide

theorem test_decode_opm_34 :
  decodeTableWord 128 0x10022000000020000300D2 = some (.vredadd ⟨.always, .q, 3⟩ ⟨.absent, .mem 1 true, .absent, .absent, .bf16, .rne, 0, 0⟩) ∧
  decodeTableWord 128 0x10022000000020000301D2 = some (.vredmax ⟨.always, .q, 3⟩ ⟨.absent, .mem 1 true, .absent, .absent, .bf16, .rne, 0, 0⟩) ∧
  decodeTableWord 128 0x10022000000020000302D2 = some (.vredmin ⟨.always, .q, 3⟩ ⟨.absent, .mem 1 true, .absent, .absent, .bf16, .rne, 0, 0⟩) ∧
  decodeTableWord 128 0x810022800000022000003D2 = some (.vscan (hd .none) ⟨.mem 0 false, .mem 1 true, .absent, .absent, .bf16, .rne, 2, 0⟩) := by
  decide

theorem test_decode_opm_35 :
  decodeTableWord 128 0x502B0800000262000000D6 = some (.vgath (hd .none) ⟨.mem 0 false, .scalar (.g 9), .mem 2 false, .absent, .u32, .rne, 0, 0⟩) ∧
  decodeTableWord 128 0x50292800000022000001D6 = some (.vscat (hd .none) ⟨.mem 0 false, .mem 1 false, .mem 2 false, .absent, .u32, .rne, 0, 0⟩) := by
  decide

theorem test_decode_opm_36 :
  decodeTableWord 64 0x82000000D8 = some (.vsetvl (hd (.g 1)) (.g 2)) ∧
  decodeTableWord 64 0x800002000001D8 = some (.vsetvlImm (hd (.g 1)) 128) := by
  decide

theorem test_decode_opm_38 :
  decodeTableWord 128 0x7FFFFFF806008000000022000000E2 = some (.mwld (hd .none) ⟨0, 16383, 255, 63, 0, .kb8, .raw, false, 0, 2, 0⟩) ∧
  decodeTableWord 128 0x8000000808008000003822000000E2 = some (.mwldImg (hd .none) (.g 7) ⟨1, 0, 0, 1, 0, .kb4, .raw, false, 0, 2, 0⟩) ∧
  decodeTableWord 128 0x100000008040000000001E2000000E2 = some (.mwldGl (hd .none) (.g 7) ⟨2, 0, 0, 1, 0, .bf16, .raw, false, 0, 0, 0⟩) ∧
  decodeTableWord 128 0x10003FFE4408500000022000001E2 = some (.mma (hd .none) ⟨0, 128, 1, 63, 63, .bf16, .bf16, false, 0, 2, 5⟩) ∧
  decodeTableWord 128 0x86DFF00000022000002E2 = some (.mmaSp (hd .none) ⟨0, 0, 0, 0, 0, .kb4, .kb8, false, 6, 7, 63⟩) ∧
  decodeTableWord 128 0x1F0000001020000100000022000003E2 = some (.mzero (hd .none) ⟨62, 0, 0, 2, 1, .raw, .raw, false, 0, 0, 1⟩) := by
  decide

theorem test_decode_opm_39 :
  decodeTableWord 128 0x2800000206020C100000022000000E6 = some (.maccRd (hd .none) ⟨5, 0, 0, 4, 3, .raw, .fp32, false, 0, 3, 1⟩) ∧
  decodeTableWord 128 0x2800000206040C100000022000001E6 = some (.maccWr (hd .none) ⟨5, 0, 0, 4, 3, .raw, .bf16, false, 0, 3, 1⟩) ∧
  decodeTableWord 128 0x3F00000004000002E6 = some (.macq (hd (.g 2)) 63) ∧
  decodeTableWord 128 0x900000022000003E6 = some (.mrel (hd .none) 9) ∧
  decodeTableWord 128 0x900000022000004E6 = some (.mpin (hd .none) 9) ∧
  decodeTableWord 128 0x900000022000005E6 = some (.munpin (hd .none) 9) ∧
  decodeTableWord 128 0x400000004000006E6 = some (.mstat (hd (.g 2)) ⟨0, 0, 0, 0, 0, .raw, .raw, false, 0, 0, 4⟩) := by
  decide

theorem test_decode_opm_3a :
  decodeTableWord 128 0x8000000000004400000022000000EA = some (.deltaUpd (hd .none) ⟨1, 0, 0, 0, 0, .raw, .raw, false, 0, 1, 4⟩) ∧
  decodeTableWord 128 0xF8000000000044400000022000001EA = some (.deltaChunk (hd .none) ⟨31, 0, 0, 0, 0, .raw, .raw, false, 2, 1, 4⟩) ∧
  decodeTableWord 128 0x8000000000044400000022000002EA = some (.deltaQry (hd .none) ⟨1, 0, 0, 0, 0, .raw, .raw, false, 2, 1, 4⟩) := by
  decide

theorem test_decode_opm_3c :
  decodeTableWord 128 0xC7E81700031062000000F2 = some (.cpy (hd .none) (.g 1) (.g 2) (.g 3) ⟨.l2h, 4, true, 0, 0, .sys, .sr, true, .raw, .bf16, 7⟩) ∧
  decodeTableWord 128 0x7FFFFFFFF00818802031062000001F2 = some (.cpy2d (hd .none) (.g 1) (.g 2) (.g 3) (.q 0) ⟨.g2l, 0, false, 0xFFFF, 0x7FFFF, .quad, .rne, false, .kb8, .fp32, 0⟩) ∧
  decodeTableWord 64 0x20162000002F0 = some (.wpwait (hd .none) 2 (.g 5)) ∧
  decodeTableWord 128 0xE0012928800831062000003F2 = some (.gath (hd .none) (.g 1) (.g 2) (.g 3) (.g 4) ⟨9, 7, .quad, .rtz, false, .int8, .fp32⟩) ∧
  decodeTableWord 128 0x63A5803900031062000004F2 = some (.coll (hd .none) (.g 1) (.g 2) (.g 3) ⟨.rsMax, 2, 7, 3, .dev, .int32, 1⟩) ∧
  decodeTableWord 128 0x600831062000005F2 = some (.snap (hd .none) (.g 1) (.g 2) (.g 3) (.g 4) 6) ∧
  decodeTableWord 64 0x10E2000006F0 = some (.sigDec (hd .none) 3 (.g 2)) ∧
  decodeTableWord 128 0x44000407F2 = some (.launch ⟨.always, .g 2, 4⟩ (.g 1)) ∧
  decodeTableWord 128 0x2000000001062000008F2 = some (.arm (hd .none) (.g 1) (.g 2) true) ∧
  decodeTableWord 64 0x62000009F0 = some (.disarm (hd .none) (.g 1)) := by
  decide

theorem test_decode_opm_3d :
  decodeTableWord 128 0x6000000001046000000F6 = some (.cktReq (hd (.g 3)) (.g 1) (.g 2) .net) ∧
  decodeTableWord 64 0x62000001F4 = some (.cktRel (hd .none) (.g 1)) ∧
  decodeTableWord 64 0x46000002F4 = some (.cktStat (hd (.g 3)) (.g 1)) ∧
  decodeTableWord 64 0x20046000003F4 = some (.locq (hd (.g 3)) (.g 1) 2) := by
  decide

theorem test_decode_opm_3e :
  decodeTableWord 64 0x22000000F8 = some (.tfence (hd .none)) ∧
  decodeTableWord 64 0xFF0022000001F8 = some (.trapN (hd .none) 255) ∧
  decodeTableWord 64 0x110022000002F8 = some (.svc (hd .none) 17) ∧
  decodeTableWord 64 0x22000003F8 = some (.eret (hd .none)) ∧
  decodeTableWord 64 0x13F0002000004F8 = some (.srd (hd (.g 1)) 0x13F) ∧
  decodeTableWord 64 0x3800A2000005F8 = some (.swr (hd .none) 0x38 (.g 2)) ∧
  decodeTableWord 64 0x40010082000006F8 = some (.srsRd (hd (.g 1)) (.g 2) 0x4001) ∧
  decodeTableWord 64 0x10718A2000007F8 = some (.srsWr (hd .none) (.g 2) (.g 3) 0x0107) ∧
  decodeTableWord 64 0xB0022000008F8 = some (.prio (hd .none) 11) ∧
  decodeTableWord 64 0x10002000009F8 = some (.time (hd (.g 1)) 1) ∧
  decodeTableWord 64 0x200000AF8 = some (.chkpt (hd (.g 1))) ∧
  decodeTableWord 64 0x5002200000BF8 = some (.pwrReq (hd .none) 5) ∧
  decodeTableWord 64 0x2200000CF8 = some (.halt (hd .none)) := by
  decide

theorem test_decode_pad_word : decodeTableWord 32 3 = some .padWord := by decide

/-! ### Terms that the checks refuse -/

def vargs : VArgs := ⟨.mem 0 false, .mem 1 false, .mem 2 false, .absent, .f32, .rne, 0, 0⟩
def margs : MArgs := ⟨0, 0, 0, 0, 0, .bf16, .bf16, false, 0, 0, 0⟩
def cargs : CpyArgs := ⟨.g2l, 0, false, 0, 0, .quad, .rne, false, .raw, .raw, 0⟩

theorem test_wf_refuses_heads :
  Instr.wellFormed (.br (hd .q) 0) = false ∧ Instr.wellFormed (.st ⟨.always, .none, 1⟩ (.base 0) .w none (.g 0)) = false ∧
  Instr.wellFormed (.add ⟨.always, .q, 1⟩ (.g 0) (.imm 0)) = false ∧ Instr.wellFormed (.tileOp 0) = false := by decide

theorem test_wf_refuses_operands :
  Instr.wellFormed (.add (hd .q) (.g 0) (.const 3)) = false ∧ Instr.wellFormed (.ffma (hd .q) (.g 0) (.g 1) (.imm20 0)) = false ∧
  Instr.wellFormed (.hjoin (hd .none) 0) = false ∧ Instr.wellFormed (.hjoin (hd .none) 11) = false ∧
  Instr.wellFormed (.ld (hd .q) (.base 0) .d true none) = false ∧
  Instr.wellFormed (.amoFadd (hd .q) ⟨0, true, none, false, .g 0⟩) = false ∧
  Instr.wellFormed (.redFadd (hd .none) ⟨0, true, none, .g 0⟩) = false ∧
  Instr.wellFormed (.ringDef (hd .none) (.g 0) (.g 1) 0 3 0 0) = false ∧
  Instr.wellFormed (.ringDef (hd .none) (.g 0) (.g 1) 4 3 0 0) = false ∧ Instr.wellFormed (.prio (hd .none) 12) = false := by decide

theorem test_wf_refuses_vectors :
  Instr.wellFormed (.vadd (hd .none) vargs) = true ∧
  Instr.wellFormed (.vadd (hd .none) { vargs with d := .scalar (.g 0) }) = false ∧
  Instr.wellFormed (.vadd (hd .none) { vargs with y := .absent }) = false ∧
  Instr.wellFormed (.vadd (hd .none) { vargs with z := .mem 3 false }) = false ∧
  Instr.wellFormed (.vadd (hd .none) { vargs with opt := 1 }) = false ∧
  Instr.wellFormed (.vadd (hd .none) { vargs with ty := .s8, opt := 2 }) = false ∧
  Instr.wellFormed (.vadd (hd .none) { vargs with rm := .sr }) = false ∧
  Instr.wellFormed (.vadd (hd .none) { vargs with imm := 1 }) = false ∧
  Instr.wellFormed (.vshl (hd .none) vargs) = false ∧
  Instr.wellFormed (.vexp2 (hd .none) { vargs with y := .absent, ty := .s32 }) = false ∧
  Instr.wellFormed (.vcvt (hd .none) { vargs with y := .absent, opt := 8 }) = false ∧
  Instr.wellFormed (.vscan (hd .none) { vargs with y := .absent, opt := 3 }) = false ∧
  Instr.wellFormed (.vperm (hd .none) { vargs with y := .absent, imm := 0x10000 }) = false := by decide

theorem test_wf_refuses_matrix_commands :
  Instr.wellFormed (.mwld (hd .none) { margs with fb := .fp32, fa := .raw }) = false ∧
  Instr.wellFormed (.mwld (hd .none) { margs with fa := .raw, opt := 1 }) = false ∧
  Instr.wellFormed (.mma (hd .none) { margs with fa := .fp32 }) = false ∧
  Instr.wellFormed (.mma (hd .none) { margs with fa := .kb8, ta := true }) = false ∧
  Instr.wellFormed (.mma (hd .none) { margs with pb := 1 }) = false ∧
  Instr.wellFormed (.maccRd (hd .none) { margs with fb := .raw, opt := 63, mm := 1 }) = false ∧
  Instr.wellFormed (.maccRd (hd .none) { margs with fb := .raw, kb := 1 }) = false ∧
  Instr.wellFormed (.mstat (hd .q) { margs with fb := .raw, fa := .raw, opt := 3 }) = false ∧
  Instr.wellFormed (.mstat (hd .q) { margs with fb := .raw, fa := .raw, opt := 1, acc := 1 }) = false ∧
  Instr.wellFormed (.deltaUpd (hd .none) { margs with fb := .raw, fa := .raw, pb := 1 }) = false := by decide

theorem test_wf_refuses_engine_commands :
  Instr.wellFormed (.cpy (hd .none) (.g 0) (.g 1) (.g 2) cargs) = true ∧
  Instr.wellFormed (.cpy (hd .none) (.g 0) (.g 1) (.g 2) { cargs with kind := .l2c, fs := .bf16 }) = false ∧
  Instr.wellFormed (.cpy (hd .none) (.g 0) (.g 1) (.g 2) { cargs with fpg := true, fm := .bf16 }) = false ∧
  Instr.wellFormed (.cpy (hd .none) (.g 0) (.g 1) (.g 2) { cargs with rows := 1 }) = false ∧
  Instr.wellFormed (.cpy2d (hd .none) (.g 0) (.g 1) (.g 2) (.g 3) { cargs with kind := .l2c }) = false ∧
  Instr.wellFormed (.gath (hd .none) (.g 0) (.g 1) (.g 2) (.g 3) ⟨0, 0, .quad, .rne, false, .raw, .kb8⟩) = false ∧
  Instr.wellFormed (.gath (hd .none) (.g 0) (.g 1) (.g 2) (.g 3) ⟨0, 0, .quad, .rne, true, .bf16, .raw⟩) = false ∧
  Instr.wellFormed (.coll (hd .none) (.g 0) (.g 1) (.g 2) ⟨.allGather, 0, 0, 0, .quad, .raw, 0⟩) = false ∧
  Instr.wellFormed (.coll (hd .none) (.g 0) (.g 1) (.g 2) ⟨.rsAdd, 0, 3, 0, .quad, .raw, 0⟩) = false := by decide

/-! ### Words that the decoder refuses -/

def refusedWith (n w : Nat) : Option (DecodeCause × Nat) :=
  match decode (toBytes n w) with
  | .error e => some (e.cause, e.detail)
  | .ok _ => none

theorem test_decode_refuses :
  refusedWith 16 0x3E2AAAAB = some (.illegalLength, 1) ∧ refusedWith 8 0x00004C200000C341 = some (.illegalLength, 2) ∧
  refusedWith 16 0x3EC00000 = some (.illegalInstruction, 1) ∧ refusedWith 16 0x0000000C00000D04 = some (.illegalInstruction, 2) ∧
  refusedWith 16 0x0000000C00000005 = some (.illegalInstruction, 3) ∧ refusedWith 16 0x0000000C01000004 = some (.illegalInstruction, 4) ∧
  refusedWith 16 0x0000002400000004 = some (.illegalInstruction, 5) ∧ refusedWith 16 0x0000000C00010004 = some (.illegalInstruction, 6) ∧
  refusedWith 16 0x0000000C00001880 = some (.illegalInstruction, 7) ∧ refusedWith 16 0x0001000C00000004 = some (.illegalInstruction, 8) ∧
  refusedWith 16 0x0001000C00008004 = some (.illegalInstruction, 9) := by decide

/-! ### States that meet the statements' hypotheses -/

theorem wit_IntegerResults : base.runs (hd .q) = true := by decide

theorem wit_FloatArithmeticResults : base.runs (hd (.g 15)) = true := by decide

theorem wit_FloatCompareConvertAndSpecials : base.runs ⟨.on true (.g 0) 63, .g 0, 3⟩ = true ∧ Rm.rne ≠ Rm.sr := by decide

theorem wit_MoveAndPointerResults : base.runs (hd .none) = true := by decide

theorem wit_GuardsAndSourceOperands :
  base.skips ⟨.on false (.g 0) 0, .q, 0⟩ = true ∧ headOf (.nop ⟨.on false (.g 0) 0, .q, 0⟩) = some ⟨.on false (.g 0) 0, .q, 0⟩ ∧
  (Instr.fields (.nop ⟨.on false (.g 0) 0, .q, 0⟩)).isSome = true ∧ base.me.pend = [] ∧ (hd .q).guard = .always ∧
  (⟨.on true (.q 15) 63, .q, 0⟩ : Head).guard = .on true (.q 15) 63 := by decide

theorem wit_TransfersAndTheirTargets :
  let s := withG 1 0x0100_0000_0000_0000
  let m := withG 1 6
  let far := withCtx fun c => { c with pc := 0x00FF_FFFF_FFFF_FFFC }
  let odd := withCtx fun c => { c with pc := 2 }
  base.runs (hd .none) = true ∧ s.runs (hd .none) = true ∧ m.runs (hd .none) = true ∧
  (canonical (base.me.pc + 4 * (0xFFFF : BitVec 16).signExtend 64) = true ∧
    bits (base.me.pc + 4 * (0xFFFF : BitVec 16).signExtend 64) 1 0 = 0) ∧
  (canonical (base.me.pc + 4 * (0x7FFF_FFFF : W32).signExtend 64) = true ∧
    bits (base.me.pc + 4 * (0x7FFF_FFFF : W32).signExtend 64) 1 0 = 0) ∧
  (canonical (base.src 1 (.g 1)) = true ∧ bits (base.src 1 (.g 1)) 1 0 = 0) ∧
  canonical (s.src 1 (.g 1)) = false ∧ (canonical (m.src 1 (.g 1)) = true ∧ bits (m.src 1 (.g 1)) 1 0 ≠ 0) ∧
  far.runs (hd .none) = true ∧ canonical (far.me.pc + 4 * (1 : BitVec 16).signExtend 64) = false ∧
  canonical (far.me.pc + 4 * (1 : W32).signExtend 64) = false ∧ odd.runs (hd .none) = true ∧
  bits (odd.me.pc + 4 * (1 : BitVec 16).signExtend 64) 1 0 ≠ 0 ∧ base.me.handler = false := by decide

/-- Base with a handler at 0x1000. -/
def handled : State := withGrain fun g => { g with const := Mem.write [] 4088 (toBytes 8 0x1000) }

theorem wit_ExactFaultEntersHandler :
  handled.lives = true ∧ handled.me.pend = [] ∧ handled.me.out = none ∧ handled.vecBusy handled.cur = false ∧
  handled.me.handler = false ∧ handled.me.dead = false ∧ handled.grain.handler ≠ 0 ∧ Cause.misaligned < 256 ∧ Cause.misaligned ≠ Cause.svc ∧
  Cause.misaligned ≠ Cause.translation ∧ Cause.misaligned ≠ Cause.migration ∧ 255 ≠ Cause.svc := by decide

theorem wit_HardwareLoops :
  let five : State := (withG 1 5)
  let deep : State := five.updMe fun c => { c with depth := 4 }
  let trapped : State := base.updMe fun c => { c with handler := true }
  let before (s : State) (w : W32) : Prop := ((s.me.pc + 4 * w.signExtend 64) - (s.me.pc + 12)).toInt < 0
  let x : Ctx := { Ctx.zero with depth := 1, lc := Vector.replicate 4 2 }
  let y : Ctx := { Ctx.zero with depth := 4, lc := Vector.replicate 4 1 }
  let z : Ctx := { Ctx.zero with depth := 2, pc := 8 }
  (trapped.runs (hd .none) = true ∧ trapped.me.handler = true) ∧
  (base.runs (hd .none) = true ∧ base.me.handler = false ∧ before base 2) ∧
  (deep.runs (hd .none) = true ∧ ¬ before deep 3 ∧ (deep.src 1 (.g 1)).setWidth 32 ≠ (0 : W32) ∧ 4 ≤ deep.me.depth) ∧
  (five.runs (hd .none) = true ∧ ¬ before five 3 ∧ (five.src 1 (.g 1)).setWidth 32 ≠ (0 : W32) ∧ five.me.depth = (0 : Fin 4).val) ∧
  ((base.src 1 (.g 1)).setWidth 32 = (0 : W32) ∧ ¬ before base 3 ∧ base.me.depth = 0) ∧
  (x.handler = false ∧ x.depth = (0 : Fin 4).val + 1 ∧ addrField x.pc = x.le[0] ∧ x.lc[0] ≠ 1) ∧
  (y.handler = false ∧ y.depth = (3 : Fin 4).val + 1 ∧ addrField y.pc = y.le[3] ∧ y.lc[3] = 1) ∧
  (z.depth = (1 : Fin 4).val + 1 ∧ addrField z.pc ≠ z.le[1]) := by decide

/-- The fetch of a loop that its count skips answers the bytes at its end address. -/
theorem wit_HardwareLoops_skipped :
  ∃ bs len, base.fetchBlock base.cur (base.me.pc + 4 * (4 : W32).signExtend 64) = (base, .ok bs) ∧
    lenCheck (base.me.pc + 4 * (4 : W32).signExtend 64) (ofBytes (bs.take 4)) = .ok len :=
  ⟨_, _, rfl, rfl⟩

/-- A sheaf whose grain may start two helpers, helper 1 live, and the view of that helper. -/
def helped : State :=
  let s := base.updSheaf 0 fun h => { h with record := Mem.write [] 0x18 (toBytes 8 (1 + 2 * 4096 + 512 * 2 ^ 32)) }
  { s with ctxs := Tab.put s.ctxs ⟨0, 0, 1⟩ Ctx.zero }
def helper : State := { helped with cur := ⟨0, 0, 1⟩ }

theorem wit_HelpersNopAndPadWord :
  helped.runs (hd .none) = true ∧ helped.cur.ctx = 0 ∧ (2 : BitVec 4).toNat ≤ helped.sheaf.helpers ∧ (2 : BitVec 4) ≠ 0 ∧
  helped.me.pend = [] ∧ helped.relBusy helped.cur = false ∧ helped.fenced = false ∧ helped.acqHeld = false ∧ helped.ctx ⟨0, 0, 2⟩ = none ∧
  canonical (helped.me.pc + 4 * (8 : W32).signExtend 64) = true ∧
  (helped.ctx ⟨0, 0, 1⟩).isSome = true ∧ helped.sheaf.helpers < (3 : BitVec 4).toNat ∧
  helper.runs (hd .none) = true ∧ helper.cur.ctx ≠ 0 ∧ helper.me.pend = [] ∧ helper.me.out = none ∧
  helper.vecBusy helper.cur = false ∧ helper.relBusy helper.cur = false ∧ helper.fenced = false ∧ (helper.ctx ⟨0, 0, 0⟩).isSome = true ∧
  base.lives = true := by decide

theorem wit_PointersAndLocalAddresses :
  let off := base.updCore 0 fun c => { c with bankpwr := Vector.replicate 8 0xAAAA_AAAA_AAAA_AAAA }
  let win := base.updSheaf 0 fun h => { h with record := Mem.write [] 0x18 (toBytes 8 (1 + 2 ^ 22 + 512 * 2 ^ 32)) }
  let four := { base with grains := base.grains ++ [((0, 3), { Grain.zero with core := 3 })] }
  let four' := { win with grains := win.grains ++ [((0, 3), { Grain.zero with core := 3 })] }
  let held (s : State) (a n : Nat) : Prop := ∀ j, j < n → a + j < 0x0020_0000 →
    s.coreHeldBy s.myVd (s.physAddr (s.cur.sheaf, 0) 0 (a + j) / 2 ^ 19) = true
  (base.lives = true) ∧
  (2 ^ 32 ≤ (0x1_0000_0000 : W64).toNat) ∧ (0x0040_0000 ≤ (0x0040_0000 : W64).toNat ∧ (0x00BF_FFFF : W64).toNat < 0x00C0_0000) ∧
  (0x0201_0000 ≤ (0x0201_0000 : W64).toNat ∧ (0xFFFF_FFFF : W64).toNat < 2 ^ 32) ∧
  (¬ held base 0x8_0000 1 ∧ ¬ held base 0x7_FFFF 2 ∧ held base 0x7_FFFE 2 ∧ held base 0x7_FFFD 2 ∧ (0x7_FFFD : W64).toNat % 2 ≠ 0) ∧
  (held four' 0x1F_FFC0 8 ∧ four'.inWindow four'.myQuad 0x1F_FFC0 8 = true) ∧
  (four.inWindow four.myQuad 0x1F_FFF8 8 = false ∧ held four 0x1F_FFF8 8) ∧
  (base.inWindow base.myQuad 0 8 = false ∧ base.rangeBank (base.physAddr (0, 0) 0 0) 8 = .on) ∧
  off.rangeBank (off.physAddr (0, 0) 0 0) 8 = .off ∧ (0x0020_0000 : W64).toNat % 4 = 0 ∧ (0x003F_FFFC : W64).toNat < 0x0040_0000 ∧
  (0x0200_FFF8 : W64).toNat % 8 = 0 ∧ (0x0200_0004 : W64).toNat % 8 ≠ 0 := by decide

/-- The sibling and cluster windows, the ring windows and the hold of a ring's level. -/
theorem wit_PointersAndLocalAddresses_windows :
  let off (s : State) : State := s.updCore 0 fun c => { c with bankpwr := Vector.replicate 8 0xAAAA_AAAA_AAAA_AAAA }
  let win := base.updSheaf 0 fun h => { h with record := Mem.write [] 0x18 (toBytes 8 (1 + 2 ^ 22 + 512 * 2 ^ 32)) }
  let ring (b n : Nat) (s : State) : State := s.updGrain fun g => { g with rings := g.rings.set 0 (some ⟨b, 0x400, 2, 1, 4, n⟩) }
  let r := ring 0 0 base
  let held := r.updGrain fun g => { g with arrived := Vector.replicate 4 true }
  let target (s : State) (a : Nat) : Nat :=
    if a < 0x0040_0000 then s.physAddr (0, 0) 1 (a % 0x0020_0000)
    else s.physAddr (0, (a - 0x0100_0000) / 0x0040_0000) ((a - 0x0100_0000) / 0x0020_0000 % 2) (a % 0x0020_0000)
  let stage (s : State) (o : Nat) : Nat := s.physAddr (0, 0) 0 o
  let four' := { win with grains := win.grains ++ [((0, 3), { Grain.zero with core := 3 })] }
  base.lives = true ∧ (0x0020_0001 % 4 ≠ 0 ∧ 0x01FF_FFFC % 4 = 0 ∧ 0x0100_0000 % 8 = 0) ∧
  (win.inWindow (target win 0x0100_0000 / 2 ^ 21) 0x1F_FFC0 8 = true) ∧
  (base.inWindow (target base 0x0020_0000 / 2 ^ 21) 0 8 = false ∧ target base 0x0020_0000 / 2 ^ 19 ≠ base.myCore ∧
    target base 0x0140_0000 / 2 ^ 19 ≠ base.myCore) ∧
  (target base 0x0100_0000 / 2 ^ 19 = base.myCore ∧ base.rangeBank (target base 0x0100_0000) 8 = .on ∧
    (off base).rangeBank (target (off base) 0x0100_0000) 8 = .off) ∧
  (base.ring 0 = none ∧ r.ring 0 = some ⟨0, 0x400, 2, 1, 4, 0⟩ ∧ 1 < 0x800 / 0x400 ∧ 0x4 / 0x400 ≤ 1) ∧
  (r.coreHeldBy r.myVd (r.physAddr (0, 0) 0 4 / 2 ^ 19) = true ∧
    (ring 0x8_0000 0 base).coreHeldBy base.myVd (base.physAddr (0, 0) 0 0x8_0000 / 2 ^ 19) = false) ∧
  (((ring 0x1F_FFC0 0 four').coreHeldBy 0 (four'.physAddr (0, 0) 0 0x1F_FFC0 / 2 ^ 19)) = true ∧
    (ring 0x1F_FFC0 0 four').inWindow 0 0x1F_FFC0 8 = true) ∧
  (r.inWindow r.myQuad 0 8 = false ∧ held.grain.hasArrived 4 = true ∧ r.grain.hasArrived 4 = false ∧ r.rangeBank (stage r 0) 8 = .on ∧
    (off r).rangeBank (stage (off r) 0) 8 = .off) ∧ base.sheaf.gangMissing = false := by decide

theorem wit_LocalLoadsStoresAndTraps :
  let s := withA 2 0x100
  let u := s.unfence
  let off := s.updCore 0 fun c => { c with bankpwr := Vector.replicate 8 0xAAAA_AAAA_AAAA_AAAA }
  let bad := s.updDev fun d => { d with poisonLmem := [0x40] }
  s.runs (hd (.g 3)) = true ∧ u.fenced = false ∧ u.acqHeld = false ∧ u.vecHeld 0x100 8 = false ∧ u.localCheck .load (s.ea (.post 2)) 8 = .mem 0x100 4 ∧
  u.lPoisoned 0x100 8 = false ∧ u.localCheck .store (s.ea (.off 2 0xFFF8)) 8 = .mem 0xF8 4 ∧ u.relBusy u.cur = false ∧
  u.srcHeld 0xF8 8 = false ∧ u.storeHeld u.myTile 0xF8 8 = false ∧ Mem.wf s.lmem = true ∧
  u.localCheck .load (s.ea (.off 2 1)) 8 = .bad Cause.misaligned 1 ∧ off.unfence.localCheck .store (off.ea (.base 2)) 4 = .bad Cause.bankOff 1 ∧
  u.localCheck .sync (s.ea (.off 2 2)) 4 = .bad Cause.misaligned 1 ∧ u.localCheck .syncw (s.ea (.off 2 2)) 4 = .bad Cause.misaligned 1 ∧
  bad.runs (hd .q) = true ∧ bad.unfence.localCheck .load (bad.ea (.base 2)) 4 = .mem 0x100 4 ∧ bad.unfence.vecHeld 0x100 4 = false ∧
  bad.unfence.lPoisoned 0x100 4 = true ∧ bad.unfence.acqHeld = false ∧
  ((bad.setFe 0x100 true).isFull 0x100 = true ∧ (bad.setFe 0x100 true).unfence.localCheck .sync (bad.ea (.base 2)) 4 = .mem 0x100 4) ∧
  (bad.unfence.localCheck .amo (bad.ea (.base 2)) 4 = .mem 0x100 4 ∧ bad.unfence.srcHeld 0x100 4 = false ∧
    bad.unfence.storeHeld bad.unfence.myTile 0x100 4 = false ∧ bad.unfence.relBusy bad.cur = false ∧
    bad.unfence.relLog (some .sys) = false) ∧
  (s.relBusy s.cur = false ∧ u.relLog (some .dev) = false) ∧
  -- a ring window of the level at which the grain has arrived
  (let h := (s.updGrain fun g => { g with rings := g.rings.set 0 (some ⟨0, 0x400, 2, 1, 4, 0⟩), arrived := Vector.replicate 4 true }).updMe
     fun c => { c with a := c.a.set 2 0x00C0_0000 }
   h.runs (hd .none) = true ∧ h.unfence.localCheck .store (h.ea (.base 2)) 8 = .hold 4 ∧
     h.unfence.localCheck .amo (h.ea (.base 2)) 8 = .hold 4 ∧ h.unfence.relBusy h.cur = false) := by decide

theorem wit_FullEmptyWords :
  let e := withA 2 0x100
  let f := e.setFe 0x100 true
  e.runs (hd .q) = true ∧ e.sheaf.det = false ∧ e.unfence.fenced = false ∧ e.unfence.acqHeld = false ∧ f.unfence.acqHeld = false ∧ e.unfence.vecHeld 0x100 4 = false ∧
  Mem.wf e.lmem = true ∧ Mem.wf e.fe = true ∧ e.unfence.localCheck .sync (e.ea (.base 2)) 4 = .mem 0x100 4 ∧
  e.unfence.lPoisoned 0x100 4 = false ∧ e.isFull 0x100 = false ∧ f.runs (hd .q) = true ∧ f.sheaf.det = false ∧ Mem.wf f.fe = true ∧
  f.unfence.localCheck .sync (f.ea (.post 2)) 4 = .mem 0x100 4 ∧ f.isFull 0x100 = true ∧
  e.unfence.localCheck .syncw (e.ea (.base 2)) 4 = .mem 0x100 4 ∧ e.unfence.srcHeld 0x100 4 = false ∧
  e.unfence.storeHeld e.unfence.myTile 0x100 4 = false ∧ e.unfence.relBusy e.cur = false ∧ e.relBusy e.cur = false ∧
  (let d := (e.updSheaf 0 fun h => { h with det := true }).updMe fun c => { c with parkedOn := 1 }
   d.runs (hd .q) = true ∧ d.sheaf.det = true ∧ d.me.parkedOn = 1 ∧ d.isFull 0x100 = false) := by decide

theorem wit_GlobalAccessesIssue :
  let odd := withA 2 4
  let far := withA 2 0x0100_0000_0000_0000
  base.runs (hd (.g 1)) = true ∧ base.unfence.fenced = false ∧ base.unfence.rcBusy = false ∧
  canonical (base.ea (.post 2)) = true ∧ (base.ea (.post 2)).toNat % 8 = 0 ∧
  (odd.runs (hd .q) = true ∧ odd.unfence.rcBusy = false ∧ canonical (odd.ea (.base 2)) = true ∧ (odd.ea (.base 2)).toNat % 8 ≠ 0) ∧
  (far.runs (hd .q) = true ∧ far.unfence.fenced = false ∧ canonical (far.ea (.base 2)) = false) ∧
  (base.unfence.acqHeld = false ∧ base.unfence.relBusy base.cur = false ∧ base.unfence.relLog (some .sys) = false ∧
    (lined base.cur base).runs (hd .none) = true ∧ (lined base.cur base).unfence.relLog (some .sys) = false) := by decide

/-- Base with an instruction in progress. -/
def inFlight (i : Instr) (d : Dst) (stage : Stage) (addr : W64) (caps : List W64) (data : List Byte) (aux : Nat) : State :=
  withCtx fun c => { c with
    pend := [⟨7, if d = .none then 0 else 1, dstReg d, 2, 0, none, none, 0, false⟩]
    out := some ⟨7, i, 0, d, 0, false, stage, addr, caps, data, aux, none, 0, 0⟩ }

def ldgI : Instr := .ldg (hd (.g 1)) (.base 2) .d true none
def stgI : Instr := .stg (hd .none) (.base 2) .w none (.g 1)

theorem wit_GlobalAccessesComplete :
  let a := inFlight ldgI (.g 1) .accepted 0x10 [] [] 0
  let f := inFlight ldgI (.g 1) .accepted 0x2000 [] [] 0
  let b := inFlight ldgI (.g 1) .sent 0x10 [0, 0, 0x10, 0] [] 0
  let d := inFlight ldgI (.g 1) .answered 0x10 [0x1122_3344_5566_7788] [] 0
  let w := inFlight stgI .none .sent 0x14 [0xDEAD_BEEF, 0, 0x14, 0] [] 0
  let ok (s : State) : Prop := (s.ctx s.cur).isSome = true ∧ s.me.out.isSome = true ∧ s.logging (s.vdOfCtx s.cur) = false ∧
    (s.quads.all fun q => q.2.ulines.isEmpty) = true
  let o (s : State) : Out := s.me.out.getD ⟨0, .padWord, 0, .none, 0, false, .past, 0, [], [], 0, none, 0, 0⟩
  let free (s : State) : Prop := s.behind s.cur (o s) = false
  let late : State := { w with ctxs := Tab.put w.ctxs ⟨0, 0, 1⟩ w.me }
  let out (s : State) : Except Fail Xlat := (s.translate (some (s.coreOfCtx s.cur)) (s.vdOfCtx s.cur) (o s).addr .read).2
  (ok a ∧ ok f ∧ ok b ∧ ok d ∧ ok w) ∧ (free a ∧ free f ∧ free b ∧ free d ∧ free w) ∧ late.behind ⟨0, 0, 1⟩ (o w) = true ∧ globalNeeds (o a).instr = some (.read, 8) ∧ redArgs (o a).instr = none ∧ (o a).stage = .accepted ∧
  (match out a with | .ok y => coreFormat y = none | .error _ => False) ∧ (match out f with | .ok _ => False | .error _ => True) ∧
  (o b).stage = .sent ∧ b.hbmPoisoned (o b).dpa 8 = false ∧ (o d).stage = .answered ∧ (o d).caps = [0x1122_3344_5566_7788] ∧
  (o w).stage = .sent ∧ (o w).caps.head? = some 0xDEAD_BEEF ∧ (o w).dpa % 4 = 0 ∧
  Tab.getD w.dev.lineKey ((o w).dpa / 64) [] = w.key (o w).keyid ∧ Mem.wf w.hbm = true := by
  refine ⟨?_, ?_, ?_, ?_, ?_, ?_, ?_, ?_, ?_, ?_, ?_, ?_, ?_, ?_, ?_, ?_, ?_⟩ <;> first | decide | trivial

def ldI : Instr := .ld (hd (.g 1)) (.base 2) .w false none

theorem wit_PeerLoadAtTarget :
  let s := inFlight ldI (.g 1) .sent 0x100 [0x100, 9] [] 0
  let gone := inFlight ldI (.g 1) .sent 0x100 [0x28_0000, 9] [] 0
  let off := s.updCore 0 fun c => { c with bankpwr := Vector.replicate 8 0xAAAA_AAAA_AAAA_AAAA }
  ((s.ctx s.cur).isSome = true ∧ s.me.out.map (fun o => (o.instr, o.caps)) = some (ldI, [0x100, 9]) ∧ s.coreMoving 0 = false ∧
    s.peerGone (s.vdOfCtx s.cur) 0 = none ∧ s.rangeBank 0x100 4 = .on ∧ s.lPoisoned 0x100 4 = false ∧
    s.peerPhys s.cur (0x100 : W64).toNat = 0x100) ∧
  (gone.me.out.map (fun o => o.caps) = some [0x28_0000, 9] ∧ (gone.peerGone (gone.vdOfCtx gone.cur)
    (gone.peerPhys gone.cur (0x28_0000 : W64).toNat / 2 ^ 19)).isSome = true ∧
    gone.coreMoving (gone.peerPhys gone.cur (0x28_0000 : W64).toNat / 2 ^ 19) = false) ∧
  (off.peerGone (off.vdOfCtx off.cur) 0 = none ∧ off.rangeBank 0x100 4 = .off) := by decide

theorem wit_LocalAtomics :
  let s := withA 2 0x108
  let x : AmoArgs := ⟨2, true, some .tile, false, .g 5⟩
  s.runs (hd (.g 4)) = true ∧ x.glob = false ∧ s.unfence.fenced = false ∧ s.unfence.relBusy s.unfence.cur = false ∧
  s.unfence.localCheck .amo s.me.a[x.p] 8 = .mem 0x108 4 ∧ s.unfence.vecHeld 0x108 8 = false ∧ s.unfence.srcHeld 0x108 8 = false ∧
  s.unfence.storeHeld s.unfence.myTile 0x108 8 = false ∧ s.unfence.lPoisoned 0x108 8 = false ∧ Mem.wf s.lmem = true := by decide

theorem wit_GlobalAtomicsAndReductions :
  let x : AmoArgs := ⟨2, true, none, true, .g 5⟩
  let r : RedArgs := ⟨2, false, none, .g 5⟩
  let a := inFlight (.amoAdd (hd (.g 1)) x) (.g 1) .sent 0x10 [5, 0, 0x10, 0] [] 0
  let b := inFlight (.redAdd (hd .none) r) .none .sent 0x14 [5, 0, 0x14, 0] [] 0
  let ok (s : State) : Prop := (s.ctx s.cur).isSome = true ∧ s.me.out.isSome = true ∧ s.logging (s.vdOfCtx s.cur) = false ∧
    (s.quads.all fun q => q.2.ulines.isEmpty) = true ∧ Mem.wf s.hbm = true
  let o (s : State) : Out := s.me.out.getD ⟨0, .padWord, 0, .none, 0, false, .past, 0, [], [], 0, none, 0, 0⟩
  base.runs (hd (.g 1)) = true ∧ base.unfence.fenced = false ∧ base.unfence.rcBusy = false ∧ x.glob = true ∧ x.scope = none ∧
  base.unfence.relBusy base.cur = false ∧ base.unfence.relLog (some .dom) = false ∧
  canonical base.me.a[x.p] = true ∧ base.me.a[x.p].toNat % 8 = 0 ∧ canonical base.me.a[r.p] = true ∧ base.me.a[r.p].toNat % 4 = 0 ∧
  a.behind a.cur (o a) = false ∧ b.behind b.cur (o b) = false ∧ ok a ∧ (o a).stage = .sent ∧ (amoOp (o a).instr).isSome = true ∧ Tab.getD a.dev.lineKey ((o a).dpa / 64) [] = a.key (o a).keyid ∧
  amoWide (o a).instr = some true ∧ (o a).dpa % 8 = 0 ∧ a.hbmPoisoned (o a).dpa 8 = false ∧
  ok b ∧ (o b).stage = .sent ∧ (amoOp (o b).instr).isSome = true ∧ Tab.getD b.dev.lineKey ((o b).dpa / 64) [] = b.key (o b).keyid ∧
  redArgs (o b).instr = some r ∧ (o b).dpa % 4 = 0 ∧ b.hbmPoisoned (o b).dpa 4 = false := by decide

theorem wit_FencesHoldLaterAccesses :
  let s := inFlight ldgI (.g 1) .accepted 0x10 [] [] 0
  base.runs (hd .none) = true ∧ Scope.tile ≠ .dom ∧ Scope.tile ≠ .dev ∧ Scope.tile ≠ .sys ∧
  base.relLog (some .sys) = false ∧ s.relLog (some .sys) = false ∧
  s.runs (hd .none) = true ∧ s.me.out.isSome = true ∧ (after (.fence (hd .none) .sys) s).me.out = s.me.out ∧
  (let fire := withTile fun t => { t with fires := [⟨5, 24, 0, base.cur⟩] }
   let vec := base.updQuad 0 fun q => { q with vops := [⟨0, base.cur, [], [], [], 0, 9, 1⟩] }
   let cmd := withGrain fun g => { g with
     mq := [⟨0, 0, .mzero (hd .none) ⟨0, 0, 0, 0, 0, .bf16, .bf16, false, 0, 0, 0⟩, base.cur, 0, [], [], [], 0, 0, [], false, none, 0⟩] }
   let f : State := s.updMe fun c => { c with fence := true }
   fire.firing fire.cur = true ∧ vec.vecBusy vec.cur = true ∧ cmd.cmdBusy cmd.cur = true ∧ f.runs (hd .none) = true ∧ f.fenced = true ∧
     (headOf ldgI).isSome = true ∧ opFn ldgI = some (0x22, 7) ∧ f.relLog none = false ∧ (f.grain.dom 4).isSome = true) := by decide

theorem wit_BankPowerStates :
  let v : W64 := 0xFFFF_FFFF_FFFF_FF02
  let s := base.updCore 0 fun c => { c with waking := [(255, 5), (0, 0), (1, 0)], bankpwr := c.bankpwr.set 0 4 }
  let held := withCtx fun c => { c with wait := .stalled, bankWait := some (0x400, 4) }
  let going (s : State) : Core := (s.updCore 0 fun c => { c with goingOff := [0] }).coreOf 0
  (bits v 1 0 = 2 ∧ (base.coreOf 0).bankCode 0 ≠ 2 ∧ base.bankInUse 0 0 = false ∧ held.bankInUse 0 0 = true) ∧
  (0 ∈ (going base).goingOff ∧ 0 ∈ (going held).goingOff) ∧ bits v 3 2 = 0 ∧ bits v 63 62 = 3 ∧
  (bits (0 : W64) 1 0 = 0 ∧ bits (1 : W64) 1 0 = 1 ∧ (State.reset.coreOf 0).bankCode 0 = 2) ∧
  (Tab.find (s.coreOf 0).waking 255 = some 5 ∧ s.cycleOf 0 < 5) ∧
  (Tab.find (s.coreOf 0).waking 0 = some 0 ∧ 0 ≤ s.cycleOf 0 ∧ (s.coreOf 0).bankCode 0 = 0) ∧
  (Tab.find (s.coreOf 0).waking 1 = some 0 ∧ (s.coreOf 0).bankCode 1 = 1) := by decide

theorem wit_BarrierArrivalsAndTokenWaits :
  let gone := base.updSheaf 0 fun h => { h with gangMissing := true }
  let here := withGrain fun g => { g with dommask := 0x8000_0000_0000_0000, arrived := Vector.replicate 4 true }
  let at_ (n : Nat) : State := base.updDom 0 0 fun d => { d with phase := n }
  let cmd := withGrain fun g => { g with
    dommask := 0x8000_0000_0000_0000
    mq := [⟨0, 0, .mzero (hd .none) ⟨0, 0, 0, 0, 0, .bf16, .bf16, false, 0, 0, 0⟩, base.cur, 0, [], [], [], 0, 0, [], false, none, 0⟩] }
  let held := inFlight (.barArv (hd (.g 1)) 3) (.g 1) .heldArrival 0 [] [] 0
  let sync := inFlight (.barSync (hd (.g 1)) 3) (.g 1) .heldArrival 0 [] [] 0
  let waits (n : Nat) : State := (inFlight (.barSync (hd (.g 1)) 3) (.g 1) .waiting 0 [] [] 0).updDom 0 0 fun d => { d with phase := n }
  let d (s : State) : Nat := ((s.domOf s.cur.sheaf 0).phase + 2 ^ 32 - bits (s.src 1 (.g 0)) 31 0) % 2 ^ 32
  base.runs (hd (.g 1)) = true ∧ (Tab.find base.sheaves base.cur.sheaf).isSome = true ∧ base.grain.dom 1 = none ∧
  (gone.runs (hd (.g 1)) = true ∧ gone.grain.dom 4 = some 0 ∧ gone.sheaf.gangMissing = true) ∧
  (base.grain.dom 4 = some 0 ∧ base.sheaf.gangMissing = false ∧ base.unfence.fenced = false ∧ base.unfence.rcBusy = false ∧
    base.unfence.vecBusy base.cur = false) ∧
  (here.runs (hd (.g 1)) = true ∧ here.grain.arrived[3] = true) ∧
  (base.grain.arrived[3] = false ∧ (base.unfence.settle 1 0).cmdPending base.cur = false) ∧
  (cmd.runs (hd (.g 1)) = true ∧ cmd.grain.arrived[3] = false ∧ (cmd.unfence.settle 1 0).cmdPending cmd.cur = true) ∧
  (held.outOf held.cur).map (fun o => (o.stage, barLevel o.instr)) = some (.heldArrival, some 3) ∧ held.cmdPending held.cur = false ∧
  ((held.grainOf held.cur).getD Grain.zero).arrived[3] = false ∧
  (sync.outOf sync.cur).map (fun o => (o.stage, barLevel o.instr)) = some (.heldArrival, some 3) ∧
  (base.runs (hd .q) = true ∧ d base = 0) ∧ ((at_ 1).runs (hd .q) = true ∧ d (at_ 1) = 1) ∧
  (2 ≤ d (at_ 2) ∧ d (at_ 0x7FFF_FFFF) < 2 ^ 31 ∧ d (at_ 0x7FFF_FFFF) = 0x7FFF_FFFF) ∧ 2 ^ 31 ≤ d (at_ 0x8000_0000) ∧
  (gone.unfence.fenced = false ∧ d gone = 0) ∧ ((at_ 1).unfence.acqHeld = false ∧ base.unfence.acqHeld = false) ∧
  ((waits 0).outOf base.cur).map (fun o => (o.stage, o.prog)) = some (.waiting, 0) ∧ (waits 0).phaseOf base.cur 4 = 0 ∧
  (waits 1).phaseOf base.cur 4 = 1 ∧ (base.unfence.firing base.cur = false ∧ base.unfence.relLog (some .dom) = false) ∧
  ((held.sheafOf 0).gangMissing = false ∧ ((held.updSheaf 0 fun h => { h with gangMissing := true }).sheafOf 0).gangMissing = true ∧
    (held.combineHeld fun _ u => u.by_.contains held.cur) = false ∧
    ((tight (lined base.cur held)).combineHeld fun _ u => u.by_.contains held.cur) = true) ∧
  (((waits 0).updSheaf 0 fun h => { h with gangMissing := true }).sheafOf 0).gangMissing = true := by decide

theorem wit_BarrierPhaseCompletes :
  let ready := (withSheaf fun h => { h with record := h.record }).updDom 0 0 fun d => { d with arrived := 1 }
  let sync := (inFlight (.barSync (hd (.g 1)) 3) (.g 1) .waiting 0 [] [] 0).updDom 0 0 fun d => { d with arrived := 1 }
  base.tabsOk = true ∧ base.phaseReady 0 0 = false ∧ ready.tabsOk = true ∧ ready.phaseReady 0 0 = true ∧
  (Tab.find ready.grains (0, 0)).isSome = true ∧ (ready.sheafOf 0).domNum ((ready.sheafOf 0).domLevel 0) 0 = 0 ∧
  sync.tabsOk = true ∧ sync.phaseReady 0 0 = true ∧
  (sync.outOf sync.cur).map (fun o => (o.stage, barLevel o.instr, o.prog)) = some (.waiting, some 3, 0) ∧
  (ready.ctx ready.cur).isSome = true ∧ ready.me.out = none := by decide

theorem wit_EventLinesMutexesTileBarriers :
  let busy := inFlight ldgI (.g 1) .accepted 0x10 [] [] 0
  let other : CtxId := ⟨0, 1, 0⟩
  let ev := withTile fun t => { t with evflag := t.evflag.set 31 true, evfwd := t.evfwd.set 31 0xE, fires := [⟨5, 24, 0, other⟩, ⟨31, 30, 0, other⟩] }
  let fenced := busy.updMe fun c => { c with fence := true }
  let det := withSheaf fun h => { h with det := true }
  let mu (c : CtxId) : State := withTile fun t => { t with mutex := t.mutex.set 15 (some c) }
  let tb (n : Nat) (l : List CtxId) : State := withTile fun t => { t with tbar := t.tbar.set 7 ⟨9, n, l⟩ }
  let b (s : State) : TBar := (s.tileOf s.myTile).tbar[7]
  base.runs (hd .none) = true ∧ base.sheaf.det = false ∧ base.unfence.fenced = false ∧ base.unfence.relBusy base.cur = false ∧
  (base.unfence.acqHeld = false ∧ ev.unfence.acqHeld = false ∧ (mu other).unfence.acqHeld = false ∧ (tb 3 [other]).unfence.acqHeld = false ∧
    (tb 3 [base.cur]).unfence.acqHeld = false) ∧
  (base.unfence.gathering = false ∧ ev.unfence.fenced = false ∧ ev.unfence.gathering = false ∧ fenced.runs (hd .none) = true ∧
    fenced.unfence.fenced = true) ∧
  (det.runs (hd .q) = true ∧ det.sheaf.det = true ∧ det.me.wait ≠ .granted ∧ det.me.wait ≠ .task ∧ det.unfence.acqHeld = false ∧
    det.unfence.relBusy det.cur = false ∧ (ev.sheafOf other.sheaf).det = false) ∧
  (busy.runs (hd .none) = true ∧ busy.unfence.fenced = false ∧ busy.unfence.relBusy busy.cur = true ∧ busy.relBusy busy.cur = true) ∧
  (ev.runs (hd .none) = true ∧ bit (ev.tileOf ev.myTile).evfwd[31] 1 = true ∧
    ev.sheaf.tile (ev.cur.grain / 32 * 4 + 1) ≠ ev.myTile ∧ (ev.tileOf ev.myTile).evflag[31] = true) ∧
  (base.tileOf base.myTile).evflag[0] = false ∧ (∀ f ∈ (ev.tileOf 0).fires, f.line ≠ 0) ∧ ⟨5, 24, 0, other⟩ ∈ (ev.tileOf 0).fires ∧
  (base.tileOf base.myTile).mutex[15] = none ∧
  ((mu base.cur).runs (hd .q) = true ∧ ((mu base.cur).tileOf 0).mutex[15] = some (mu base.cur).cur) ∧
  (((mu other).tileOf 0).mutex[15] = some other ∧ other ≠ (mu other).cur ∧ (mu other).relBusy (mu other).cur = false) ∧
  ((tb 3 [other]).runs (hd .none) = true ∧ (b (tb 3 [other])).count ≠ 0 ∧ (tb 3 [other]).cur ∉ (b (tb 3 [other])).marks ∧
    (b (tb 3 [other])).marks.length + 1 < (b (tb 3 [other])).count) ∧
  ((b (tb 2 [other])).count ≤ (b (tb 2 [other])).marks.length + 1 ∧ (tb 2 [other]).relBusy base.cur = false) ∧
  ((tb 3 [base.cur]).cur ∈ (b (tb 3 [base.cur])).marks ∧ (b (tb 3 [base.cur])).count ≠ 0) ∧ (b base).count = 0 ∧
  (min 88 (bits ((tb 3 [other]).src 2 (.g 0)) 6 0) ≤ (b (tb 3 [other])).marks.length) ∧
  ((b ((tb 3 []).updMe fun c => { c with g := c.g.set 1 88 })).marks.length <
    min 88 (bits (((tb 3 []).updMe fun c => { c with g := c.g.set 1 88 }).src 2 (.g 1)) 6 0)) := by decide

theorem wit_MailboxesAndRings :
  let fill (n : Nat) : State := withGrain fun g => { g with mailbox := (List.range n).map fun k => (BitVec.ofNat 64 k, 100) }
  let ring (base_ size : W64) : State := withCtx fun c => { c with g := (c.g.set 1 base_).set 2 size }
  let v (s : State) (k : Nat) (r : Src) : Nat := (s.src k r).toNat
  base.runs (hd .q) = true ∧ base.sheaf.det = false ∧ base.unfence.fenced = false ∧ base.unfence.relBusy base.cur = false ∧
  ((fill 15).runs (hd .none) = true ∧ (fill 15).grain.mailbox.length < 16) ∧
  ((fill 16).runs (hd .none) = true ∧ 16 ≤ (fill 16).grain.mailbox.length ∧ (fill 16).relBusy (fill 16).cur = false) ∧
  (let det := withSheaf fun h => { h with det := true }
   det.runs (hd .q) = true ∧ det.sheaf.det = true ∧ det.me.wait ≠ .granted ∧ det.me.wait ≠ .task ∧ det.unfence.fenced = false ∧
     det.unfence.relBusy det.cur = false ∧ det.unfence.acqHeld = false) ∧
  (base.grain.mailbox = [] ∧ base.unfence.acqHeld = false ∧ (fill 2).unfence.acqHeld = false) ∧
  ((fill 2).grain.mailbox = [] ++ (((fill 2).src 1 (.g 1)), 100) :: [(1, 100)]) ∧
  base.grain.dom ((0 : Fin 4).val + 1) = none ∧ base.grain.dom ((3 : Fin 4).val + 1) ≠ none ∧ v base 2 (.g 2) = 0 ∧
  ((ring 0x20_0000 64).runs (hd .none) = true ∧ 2 ^ 21 ≤ v (ring 0x20_0000 64) 1 (.g 1) ∧ v (ring 0x20_0000 64) 2 (.g 2) ≠ 0) ∧
  (v (ring 32 64) 1 (.g 1) % 64 ≠ 0) ∧
  (v (ring 64 65) 1 (.g 1) < 2 ^ 21 ∧ v (ring 64 65) 2 (.g 2) % 64 ≠ 0) ∧
  (2 ^ 19 < (1 + 1) * v (ring 64 0x4_0040) 2 (.g 2) ∧ v (ring 64 0x4_0040) 2 (.g 2) % 64 = 0) ∧
  ((1 + 1) * v (ring 0x10_0000 0x4_0000) 2 (.g 2) ≤ 2 ^ 19 ∧ 2 ^ 21 < v (ring 0x10_0000 0x4_0000) 1 (.g 1) + 5 * 0x4_0000) ∧
  (v (ring 0x10_0000 0x4_0000) 1 (.g 1) % 64 = 0 ∧ v (ring 0x10_0000 0x4_0000) 1 (.g 1) + 4 * 0x4_0000 ≤ 2 ^ 21) := by decide

/-- Base with queue 3 of quad 0 enabled over four entries at 0x1000, and an entry delivered. -/
def queued (k : Nat) : State := withTile fun t => { t with rq := t.rq.set 3 { RQueue.zero with
  cfg := 0x8000_0003_0000_1000, tail := k % 4, reserved := k, count := k, msgs := (List.range k).map fun i => (i, (64, 0)) } }

theorem wit_RemoteQueues :
  let t := (queued 1).updMe fun c => { c with a := c.a.set 2 0x200, g := c.g.set 1 3 }
  let full := (queued 4).updMe fun c => { c with a := c.a.set 2 0x200, g := c.g.set 1 3 }
  let bad := (queued 1).updMe fun c => { c with a := c.a.set 2 0x204, g := c.g.set 1 16 }
  let i : Instr := .rqput (hd .none) 2 (.g 1) 7
  let put (q : State) (stage : Stage) (aux : Nat) (core : W64) : State := q.updMe fun c => { c with
    out := some ⟨7, i, 0, .none, 0, false, stage, 0x200, [core + 3], List.replicate 64 7, aux, none, 0, 0⟩ }
  let a := put (queued 3) .accepted 0 0
  let gone := put (queued 3) .accepted 0 0x40
  let off := put base .accepted 0 0
  let d := put (queued 3) .sent 3 0
  let two : State := { a with ctxs := Tab.put a.ctxs ⟨0, 0, 1⟩ { a.me with out := a.me.out.map fun o => { o with tag := 8 } } }
  (two.rqBehind ⟨0, 0, 1⟩ ⟨8, i, 0, .none, 0, false, .accepted, 0x200, [3], [], 0, none, 0, 0⟩ = true ∧
    (a.me.out.map fun o => (a.rqBehind a.cur o, gone.rqBehind gone.cur o, off.rqBehind off.cur o)) = some (false, false, false) ∧
    d.copyMeets (d.entryPhys 0 3 3) 64 = false ∧ d.rqTarget d.cur 3 = (d.myTile, (3 : Fin 16).val) ∧ t.unfence.acqHeld = false ∧
    base.unfence.acqHeld = false) ∧
  (let fenced := (inFlight ldgI (.g 1) .accepted 0x10 [] [] 0).updMe fun c => { c with fence := true }
   fenced.runs (hd .none) = true ∧ fenced.unfence.fenced = true ∧ base.unfence.fenced = false ∧ base.unfence.gathering = false) ∧
  (base.runs (hd .none) = true ∧ t.runs (hd .none) = true ∧ t.unfence.fenced = false ∧ t.unfence.rcBusy = false ∧
    t.unfence.relBusy t.cur = false) ∧
  (∃ b, t.range t.me.a[2] 64 8 false = .ok b ∧ t.rngBank b = .on ∧ t.unfence.rngVecHeld b = false ∧ t.rngPoisoned b = false ∧
    t.rngStoreHeld b = false) ∧
  (t.src 2 (.g 1) &&& ~~~(0xEF : W64) = 0 ∧ (t.rqOf 0 3).en = true ∧
    (t.rqOf 0 3).reserved + (t.rqOf 0 3).freed + t.unfence.inFlight 0 3 < (t.rqOf 0 3).entries) ∧
  ((full.rqOf 0 3).entries ≤ (full.rqOf 0 3).reserved + (full.rqOf 0 3).freed + full.unfence.inFlight 0 3 ∧
    full.runs (hd .none) = true) ∧
  (bad.src 2 (.g 1) &&& ~~~(0xEF : W64) ≠ 0 ∧ bits (bad.src 2 (.g 1)) 63 4 ≠ 0 ∧
    bad.range bad.me.a[2] 64 8 false = .error (Cause.misaligned, 1)) ∧
  (bits (t.src 2 (.g 1)) 63 4 = 0 ∧ (t.rqOf 0 (16 * t.myLQuad + 3)).count ≠ 0 ∧
    t.rangeBank (t.entryPhys 0 3 (t.rqOf 0 3).head) 64 = .on ∧ t.lPoisoned (t.entryPhys 0 3 (t.rqOf 0 3).head) 64 = false) ∧
  ((base.rqOf 0 0).en = false ∧ ((queued 0).rqOf 0 3).count = 0) ∧
  ((a.outOf a.cur).map (fun o => (o.instr, o.stage)) = some (i, .accepted) ∧ a.coreMoving (a.entryPhys 0 3 3 / 2 ^ 19) = false ∧
    a.peerGone (a.vdOfCtx a.cur) (a.entryPhys 0 3 3 / 2 ^ 19) = none ∧ (a.rqOf 0 3).en = true ∧
    (a.rqOf 0 3).reserved + (a.rqOf 0 3).freed < (a.rqOf 0 3).entries) ∧
  (gone.rqTarget gone.cur 0x43 = (1, 3) ∧ (gone.peerGone (gone.vdOfCtx gone.cur) (gone.entryPhys 1 3 0 / 2 ^ 19)).isSome = true) ∧
  ((off.rqOf 0 3).en = false ∧ off.peerGone (off.vdOfCtx off.cur) (off.entryPhys 0 3 0 / 2 ^ 19) = none) ∧
  ((d.outOf d.cur).map (fun o => (o.stage, o.aux)) = some (.sent, 3) ∧ 3 = ((d.rqOf 0 3).head + (d.rqOf 0 3).count) % (d.rqOf 0 3).entries ∧
    d.coreMoving (d.entryPhys 0 3 3 / 2 ^ 19) = false ∧ d.rangeBank (d.entryPhys 0 3 3) 64 = .on ∧ Mem.wf d.lmem = true) := by
  refine ⟨by decide, by decide, by decide, ⟨_, rfl, by decide⟩, by decide, by decide, by decide, by decide, by decide, by decide, by decide, by decide,
    by decide⟩

/-- Whether the vector unit accepts an instruction: `VReady`, as a check. -/
def accepts (s : State) (i : Instr) (v : VArgs) : Bool :=
  match s.vranges (vopds i v (activeE v.ty (vnarrow i) s.me.vl) [s.vcap 0 v.d, s.vcap 1 v.x, s.vcap 2 v.y, s.vcap 3 v.z]) with
  | .ok rs => (!s.unfence.fenced && !s.unfence.rcBusy && !s.vunitBusy) && (rs.all fun r => !s.rangeHeld r.2 && s.rngBank r.2 == .on) &&
      (!s.vheld (rs.map Prod.snd) && !s.vstoreHeld rs && (s.poisonIn (vsrcs rs)).isNone)
  | .error _ => false

theorem accepts_ready {s : State} {i : Instr} {v : VArgs} (h : accepts s i v = true) : ∃ rs, VReady s i v rs := by
  unfold accepts at h
  split at h
  · rename_i rs hr
    simp only [Bool.and_eq_true, Bool.not_eq_true', List.all_eq_true, Option.isNone_iff_eq_none, beq_iff_eq] at h
    exact ⟨rs, ⟨⟨h.1.1.1.1, h.1.1.1.2, h.1.1.2⟩, hr, fun r m => h.1.2 r m, ⟨h.2.1.1, h.2.1.2, h.2.2⟩⟩⟩
  · cases h

/-- Base with four pointers into the own slice and VL 3. -/
def vecBase : State := withCtx fun c => { c with
  a := (((c.a.set 0 0x1000).set 1 0x2000).set 2 0x3000).set 3 0x4000, vl := 3 }

def vb : VArgs := vargs
def vint : VArgs := { vargs with ty := .s32 }
def v3 : VArgs := { vargs with z := .mem 3 true }
def v1 : VArgs := { vargs with y := .absent }
def vr : VArgs := { vargs with d := .absent, y := .absent }

def takes (s : State) (i : Instr) (v : VArgs) : Bool := Instr.wellFormed i && accepts s i v

theorem wit_VectorElements :
  let h := hd .none
  let s := vecBase
  s.runs h = true ∧ takes s (.vadd h vb) vb = true ∧ takes s (.vsub h vb) vb = true ∧ takes s (.vmul h vint) vint = true ∧
  takes s (.vmin h vb) vb = true ∧ takes s (.vmax h vb) vb = true ∧ takes s (.vfma h v3) v3 = true ∧ takes s (.vfms h v3) v3 = true ∧
  takes s (.vabs h v1) v1 = true ∧ takes s (.vneg h v1) v1 = true ∧ takes s (.vexp2 h v1) v1 = true ∧ takes s (.vlog2 h v1) v1 = true ∧
  takes s (.vrcp h v1) v1 = true ∧ takes s (.vrsq h v1) v1 = true ∧ takes s (.vand h vb) vb = true ∧ takes s (.vor h vb) vb = true ∧
  takes s (.vxor h vb) vb = true ∧ takes s (.vshl h vint) vint = true ∧ takes s (.vshr h vint) vint = true ∧
  takes s (.vsra h vint) vint = true ∧ takes s (.vcmp h vb) vb = true ∧ takes s (.vsel h v3) v3 = true ∧ takes s (.vmov h v1) v1 = true ∧
  takes s (.vbcast h v1) v1 = true := by
  refine ⟨?_, ?_, ?_, ?_, ?_, ?_, ?_, ?_, ?_, ?_, ?_, ?_, ?_, ?_, ?_, ?_, ?_, ?_, ?_, ?_, ?_, ?_, ?_, ?_⟩ <;> decide

def vc : VArgs := { v1 with opt := 2 }

theorem wit_VectorConversionsAndReductions :
  let h := hd .none
  let s := vecBase
  s.runs h = true ∧ takes s (.vcvt h vc) vc = true ∧ takes s (.vperm h vb) vb = true ∧ takes s (.vperm h v1) v1 = true ∧
  takes s (.vscan h v1) v1 = true ∧ takes s (.vredadd (hd (.g 1)) vr) vr = true ∧ takes s (.vredmax (hd (.g 1)) vr) vr = true ∧
  takes s (.vredmin (hd (.g 1)) vr) vr = true := by
  refine ⟨?_, ?_, ?_, ?_, ?_, ?_, ?_, ?_⟩ <;> decide

/-- The base and the DETAIL with which the ranges of an instruction fail. -/
def vfails (s : State) (i : Instr) (v : VArgs) : Option (W64 × Nat × Nat) :=
  match s.vranges (vopds i v (activeE v.ty (vnarrow i) s.me.vl) [s.vcap 0 v.d, s.vcap 1 v.x, s.vcap 2 v.y, s.vcap 3 v.z,
      BitVec.ofNat 64 (activeE v.ty (vnarrow i) s.me.vl)]) with
  | .ok _ => none
  | .error e => some e
def vrngs (s : State) (i : Instr) (v : VArgs) : List (Nat × Rng) :=
  match s.vranges (vopds i v (activeE v.ty (vnarrow i) s.me.vl) [s.vcap 0 v.d, s.vcap 1 v.x, s.vcap 2 v.y, s.vcap 3 v.z,
      BitVec.ofNat 64 (activeE v.ty (vnarrow i) s.me.vl)]) with
  | .ok rs => rs
  | .error _ => []

theorem wit_VectorLengthAndHolds :
  let h := hd .none
  let i : Instr := .vadd h vb
  let s := vecBase
  let busy := s.updQuad 0 fun q => { q with vbusy := 5 }
  let odd := s.updMe fun c => { c with a := c.a.set 1 0x2002 }
  let ring := (s.updMe fun c => { c with a := c.a.set 1 0x00C0_0000 }).updGrain fun g => { g with
    rings := g.rings.set 0 (some ⟨0, 0x400, 2, 1, 4, 0⟩), arrived := g.arrived.set 3 true }
  let off := s.updCore 0 fun c => { c with bankpwr := Vector.replicate 8 0xAAAA_AAAA_AAAA_AAAA }
  let op : VOp := ⟨0, ⟨0, 0, 5⟩, [], [(0x1000, 4)], [], 0, 9, 1⟩
  let flying := s.updQuad 0 fun q => { q with vops := [op] }
  let bad := s.updDev fun d => { d with poisonLmem := [0x800] }
  let one := withG 1 128
  (vargsOf i = some vb ∧ headOf i = some h ∧ s.runs h = true ∧ busy.vunitBusy = true ∧ busy.runs h = true) ∧
  (odd.runs h = true ∧ odd.vunitBusy = false ∧ (vfails odd i vb).isSome = true) ∧
  (ring.runs h = true ∧ ((vrngs ring i vb).map Prod.snd).find? ring.rangeHeld = (((vrngs ring i vb).map Prod.snd)[1]?) ∧
    (((vrngs ring i vb).map Prod.snd)[1]?).map (fun r => r.level) = some (some 4) ∧ ring.sheaf.gangMissing = false) ∧
  (off.runs h = true ∧ ((vrngs off i vb).all fun r => !off.rangeHeld r.2) = true ∧ vrngs off i vb ≠ [] ∧
    ((vrngs off i vb).all fun r => off.rngBank r.2 == .off) = true) ∧
  (flying.runs h = true ∧ flying.vunitBusy = false ∧ flying.vheld ((vrngs flying i vb).map Prod.snd) = true ∧
    ((vrngs flying i vb).all fun r => !flying.rangeHeld r.2 && flying.rngBank r.2 == .on) = true) ∧
  (bad.runs h = true ∧ bad.vheld ((vrngs bad i vb).map Prod.snd) = false ∧ bad.vstoreHeld (vrngs bad i vb) = false ∧
    (bad.poisonIn (vsrcs (vrngs bad i vb))).isSome = true) ∧
  (one.runs (hd .q) = true ∧ one.src 1 (.g 1) ≠ 0 ∧ (one.src 1 (.g 1)).toNat ≤ 128 ∧ one.src 1 (.g 0) = 0 ∧
    128 < ((255 : BitVec 8).setWidth 64).toNat) := by
  refine ⟨?_, ?_, ?_, ?_, ?_, ?_, ?_⟩ <;> decide

def vg : VArgs := { vargs with y := .mem 2 false }

/-- A gather of E elements with its captures and index bytes in progress. -/
def gathering (i : Instr) (e : Nat) (prog : Nat) (base_ : W64) (due : Option Nat) : State := vecBase.updMe fun c => { c with
  out := some ⟨7, i, 0, .none, prog, false, .sent, base_, [base_, BitVec.ofNat 64 e, 0x1000], List.replicate (8 * e) 0, 0, due, 0, 0⟩ }

theorem wit_GatherScatterAndCompletion :
  let h := hd .none
  let s := vecBase
  let g : Instr := .vgath h vg
  let two := gathering g 17 0 0x2000 (some 9)
  let last := gathering g 17 16 0x2000 (some 0)
  let wait := gathering g 17 16 0x2000 (some 9)
  let bad := gathering g 17 0 0x20_0000 (some 9)
  let pois := two.updDev fun d => { d with poisonLmem := [0x800] }
  let ok (s : State) (l : List Nat) : Bool := l.all fun i =>
    s.laneCheck (gathAddr 0x2000 (List.replicate 136 0) 4 i) 4 == .ok
  let op : VOp := ⟨4, s.cur, [(0x1000, 7)], [(0x1000, 4)], [], 0, 9, 1⟩
  let fly := s.updQuad 0 fun q => { q with vops := [op] }
  let done := s.updQuad 0 fun q => { q with vops := [{ op with due := 0 }] }
  (s.runs h = true ∧ takes s g vg = true ∧ takes s (.vscat h vg) vg = true ∧ (Tab.find (vrngs s g vg) 2).isSome = true) ∧
  ((two.outOf two.cur).map (fun o => (o.stage, o.instr, o.prog)) = some (.sent, g, 0) ∧ ¬ 17 ≤ 0 + 16 ∧
    ok { two with cur := two.cur } (List.range 16) = true) ∧
  ((last.outOf last.cur).map (fun o => (o.prog, o.due)) = some (16, some 0) ∧ 17 ≤ 16 + 16 ∧ 0 ≤ last.cycleOfCtx last.cur ∧
    ok last [16] = true) ∧
  (17 ≤ 16 + 16 ∧ ¬ 9 ≤ wait.cycleOfCtx wait.cur) ∧
  (let g (s : State) : GathCap := s.unfence.gathCap vg false 3 [s.vcap 0 vg.d, s.vcap 1 vg.x, s.vcap 2 vg.y] (vrngs s (.vgath h vg) vg)
   let writes := s.updQuad 0 fun q => { q with vops := [⟨4, ⟨0, 0, 5⟩, [], [(0x2000, 4)], [], 0, 9, 1⟩] }
   activeE vg.ty true s.me.vl = 3 ∧ s.unfence.gathHeld false (vrngs s (.vgath h vg) vg) (g s) = false ∧
     takes writes (.vgath h vg) vg = true ∧ writes.unfence.gathHeld false (vrngs writes (.vgath h vg) vg) (g writes) = true) ∧
  ((two.quadOf 0).phase ≠ 2 ∧ ((two.updQuad 0 fun q => { q with phase := 2 }).quadOf 0).phase = 2) ∧
  (two.copyMeets 0x1000 1 = false ∧ (two.updSheaf 0 fun h => { h with ckptItems := [(0, 0, 64)], cores := [0] }).copyMeets 0x1000 1 = true) ∧
  (bad.laneCheck (gathAddr 0x20_0000 (List.replicate 136 0) 4 0) 4 = .bad Cause.localAddress 5 false) ∧
  ((pois.me.out.map fun o => (pois.lanePoison o 4 (List.range 16), two.lanePoison o 4 (List.range 16))) = some (some 0, none) ∧
    ok pois (List.range 16) = true) ∧
  ((fly.quadOf 0).vops.find? (fun o => o.n == 4) = some op ∧ fly.cycleOf 0 < op.due) ∧
  ((done.quadOf 0).vops.find? (fun o => o.n == 4) = some { op with due := 0 } ∧ 0 ≤ done.cycleOf 0) := by
  refine ⟨?_, ?_, ?_, ?_, ?_, ?_, ?_, ?_, ?_, ?_, ?_⟩ <;> decide

/-- Whether a queued command may issue over its ranges: `MReady`, as a check that also names the ranges. -/
def mTakes (s : State) (own : Option (Fin 64)) (foot : Option (Nat × Nat)) (rs : List (W64 × Nat × Nat)) : Option (List Rng) :=
  match s.rangesOf true rs with
  | .ok l =>
    if !s.unfence.mqWait && (own.all fun a => (s.ownCheck a).isNone) &&
        (foot.all fun p => decide (p.1 + p.2 ≤ 16384)) &&
        (l.all fun r => !s.rangeHeld r && s.rngBank r == .on && !s.rngMoving r && !s.unfence.rngVecHeld r) && decide (s.scoreUsed s.myTile + l.length ≤ 128)
    then some l else none
  | .error _ => none

theorem mTakes_ready {s : State} {own : Option (Fin 64)} {foot : Option (Nat × Nat)} {rs : List (W64 × Nat × Nat)} {l : List Rng}
    (h : mTakes s own foot rs = some l) : MReady s own foot rs l := by
  unfold mTakes at h
  split at h
  · rename_i k hk
    split at h
    · rename_i c
      cases h
      simp only [Bool.and_eq_true, Bool.not_eq_true', List.all_eq_true, beq_iff_eq, decide_eq_true_eq] at c
      refine ⟨c.1.1.1.1, ?_, ?_, hk, fun r m => ⟨(c.1.2 r m).1.1.1, (c.1.2 r m).1.1.2, (c.1.2 r m).1.2, (c.1.2 r m).2⟩, c.2⟩
      · rintro a rfl
        simpa using c.1.1.1.2
      · rintro p rfl
        simpa using c.1.1.2
    · cases h
  · cases h

/-- Base with two pointers into the own slice, and accumulator 0 owned. -/
def matBase : State := (withCtx fun c => { c with
  a := (c.a.set 1 0x1000).set 2 0x4000, as_ := c.as_.set 1 64, g := (c.g.set 1 64).set 2 0x1040 }).updTile 0 fun t => { t with
  acc := t.acc.set 0 (.owned 0 0) }

def mk (fb fa : Fmt) : MArgs := ⟨0, 0, 0, 1, 1, fb, fa, false, 2, 1, 0⟩

theorem wit_MatrixCommandsIssue :
  let s := matBase
  let a : W64 := 0x1000
  let b : W64 := 0x4000
  let w := mk .bf16 .raw
  let k := mk .kb8 .raw
  let m := mk .bf16 .bf16
  let kk := mk .kb8 .kb8
  let d := mk .raw .raw
  let foot (m : MArgs) : Option (Nat × Nat) := some (m.woff.toNat, footprint m.fb 2)
  let full := s.updGrain fun g => { g with mq := List.replicate 16 (⟨0, 0, .mzero (hd .none) m, s.cur, 0, [], [],
    [], 0, 0, [], false, none, 0⟩ : MCmd) }
  let off := s.updCore 0 fun c => { c with bankpwr := Vector.replicate 8 0xAAAA_AAAA_AAAA_AAAA }
  let odd := s.updMe fun c => { c with a := c.a.set 1 0x1010 }
  let failed := s.updTile 0 fun t => { t with acc := t.acc.set 0 (.spilled 0 0 false), accBad := [0] }
  let bad := s.updMe fun c => { c with a := c.a.set 1 0x0060_0000 }
  let rOf (s : State) (m : MArgs) : Option Rng := match s.rangesOf true [(s.me.a[m.pa], aRange m s.me.as_[m.pa])] with
    | .ok [r] => some r
    | _ => none
  (s.runs (hd .none) = true ∧ s.me.a[m.pa] = a ∧ s.me.a[m.pb] = b ∧ a.toNat % 1024 = 0) ∧
  ((mTakes s none (foot w) [(a, denseBytes w.fb 2, 2)]).isSome = true ∧ (mTakes s none (foot k) [(a, denseBytes k.fb 2, 1)]).isSome = true) ∧
  ((s.src 2 (.g 1)).toNat % 32 = 0 ∧ 32 ≤ (s.src 2 (.g 1)).toNat ∧ (s.src 2 (.g 1)).toNat ≤ 32 * footprint w.fb 2 ∧
    (mTakes s none (foot w) [(a, 64, 1)]).isSome = true ∧ (s.src 2 (.g 0)).toNat < 32 ∧ (mTakes s none (foot w) [(a, 0, 1)]).isSome = true) ∧
  (mTakes s none (foot w) [] = some [] ∧ canonical (s.src 1 (.g 2)) = true ∧ (s.src 1 (.g 2)).toNat % 64 = 0) ∧
  ((mTakes s (some 0) (foot m) [(a, aRange m 64)]).isSome = true ∧ (mTakes s (some 0) (foot kk) [(a, aRange kk 64)]).isSome = true) ∧
  ((mTakes s (some 0) (foot m) [(a, aRange m 64), (b, 4, 4)]).map List.length = some 2) ∧
  (mTakes s (some 0) none [] = some [] ∧ (mTakes s (some 0) none [(a, 64 + 2 * 4, 4)]).isSome = true ∧ s.unfence.mqWait = false) ∧
  ((mTakes s (some 0) none [(a, 1024, 256)]).map List.length = some 1 ∧
    (mTakes s (some 0) none [(a, 1024, 256), (b, 256, 256)]).map List.length = some 2 ∧
    (mTakes s (some 0) none [(a, 256, 256), (b, 256, 256)]).map List.length = some 2 ∧ bits d.opt 4 1 + 1 = 1) ∧
  (full.runs (hd .none) = true ∧ full.unfence.mqWait = true) ∧ ((base.ownCheck 0).map (fun e => e.1 != Cause.memoryError) = some true ∧ base.unfence.mqWait = false) ∧
  ((failed.ownCheck 0).map Prod.fst = some Cause.memoryError ∧ failed.unfence.mqWait = false) ∧
  (s.ownCheck 0 = none ∧ 16384 < (16383 : BitVec 14).toNat + footprint .bf16 2) ∧
  ((match bad.rangesOf true [(bad.me.a[m.pa], aRange m bad.me.as_[m.pa])] with | .error _ => true | .ok _ => false) = true ∧
    bad.ownCheck 0 = none) ∧
  ((rOf off m).map (fun r => (off.rangeHeld r, off.rngBank r)) = some (false, .off)) ∧
  ((rOf odd m).map (fun r => (odd.rangeHeld r, odd.rngBank r)) = some (false, .on) ∧ odd.me.a[m.pa].toNat % 64 ≠ 0 ∧
    odd.me.a[kk.pa].toNat % 1024 ≠ 0) := by
  refine ⟨?_, ?_, ?_, ?_, ?_, ?_, ?_, ?_, ?_, ?_, ?_, ?_, ?_, ?_, ?_⟩ <;> decide +kernel

/-- A command of grain 0 in its queue. -/
def cmd (i : Instr) (ops : Nat) (started : Bool) (due : Option Nat) : MCmd :=
  ⟨0, 0, i, base.cur, 0, [0x1000, 0x1000, 64], [], [], 0, ops, [], started, due, 0⟩
def withCmd (c : MCmd) : State := matBase.updGrain fun g => { g with mq := [c] }

theorem wit_MatrixOwnershipAndWeights :
  let st (x : AccState) : State := base.updTile 0 fun t => { t with acc := t.acc.set 63 x }
  let named := (withCmd (cmd (.mzero (hd .none) (mk .raw .raw)) 0 false none))
  base.runs (hd .none) = true ∧ Mem.wf base.accm = true ∧ base.accState base.myTile 63 = .free ∧ base.accNamed base.myTile 63 = false ∧
  ((st (.owned 0 0)).runs (hd .none) = true ∧ (st (.owned 0 0)).accState (st (.owned 0 0)).myTile 63 = .owned 0 0) ∧
  ((st (.owned 1 5)).accState 0 63 = .owned 1 5 ∧ (st (.owned 1 5)).accNamed 0 63 = false) ∧
  ((st (.spilled 9 0 false)).accState 0 63 = .spilled 9 0 false ∧ (st (.spilled 9 0 false)).placedOn 9 0 = false) ∧
  (st (.pinned 0 3)).accState 0 63 = .pinned 0 3 ∧ (named.runs (hd .none) = true ∧ named.accNamed 0 0 = true) ∧
  ((0 : Fin 8).val = base.cur.grain % 8 ∧ bits (base.src 2 (.g 0)) 3 0 = 0 ∧ bits ((withG 1 15).src 2 (.g 1)) 3 0 ≠ 0 ∧
    (7 : Fin 8).val ≠ base.cur.grain % 8) := by decide

theorem wit_MatrixMultiplyElements : Mem.wf matBase.accm = true := by decide

theorem wit_MatrixQueueSteps :
  let z : Instr := .mzero (hd .none) (mk .raw .raw)
  let m : Instr := .mma (hd .none) (mk .bf16 .bf16)
  let idle := withTile fun t => { t with duty := .full }
  let go := (withCmd (cmd m 1 true none)).updTile 0 fun t => { t with duty := .full }
  let run (k : Nat) : State := (withCmd (cmd m 1 true none)).updTile 0 fun t => { t with run := some ⟨0, 0, k, 0⟩, duty := .full }
  let fin (n : Nat) : State := withCmd { cmd m 1 true (some n) with prog := 1 }
  let plain := withCmd (cmd z 0 false none)
  let pdone := withCmd (cmd z 0 true (some 0))
  let img : Instr := .maccWr (hd .none) (mk .raw .fp32)
  let bad := (withCmd { cmd img 0 true none with reads := [(0x1000, 64)] }).updDev fun d => { d with poisonLmem := [0x400] }
  let v : Saved := ⟨0, 0, [], [], [], [], [], [⟨0, true, Tile.zero, [], [], Tile.zero, [], 0⟩], [], 0, []⟩
  let spl := ((withCmd (cmd m 1 false none)).updTile 0 fun t => { t with acc := t.acc.set 0 (.spilled 0 0 true) }).updSheaf 0
    fun h => { h with saved := some v }
  -- An area at VA 0 that no table maps.
  let big : Saved := { v with size := 4096 }
  let due (n : Nat) : State := spl.updDev fun d => { d with restoreQ := [((0, 0), n)] }
  let descends := go.updTile 0 fun t => { t with duty := .down 3 4 }
  let part : State := spl.updGrain fun g => { g with mq := [{ cmd m 1 true none with prog := 1 }] }
  ((descends.tileOf 0).duty = .down 3 4 ∧ descends.arrayReady 0 0 = some ((0, 0), cmd m 1 true none) ∧ descends.arbiter 0 = some 0 ∧
    descends.mError 0 0 (cmd m 1 true none) = none) ∧
  (part.mqHead 0 0 = some ((0, 0), { cmd m 1 true none with prog := 1 }) ∧ accName m = some 0 ∧ part.accState 0 0 = .spilled 0 0 true) ∧
  ((bad.mqHead 0 0).map (fun e => bad.mqGoing 0 e.1 e.2) = some true) ∧
  ((idle.tileOf 0).run = none ∧ (idle.tileOf 0).duty = .full ∧ idle.arbiter 0 = none) ∧
  ((base.tileOf 0).run = none ∧ (base.tileOf 0).duty = .rest ∧ base.arbiter 0 = none ∧ (withCmd (cmd m 1 true none)).arbiter 0 = some 0 ∧
    ((withCmd (cmd m 1 true none)).tileOf 0).duty = .rest) ∧
  ((go.tileOf 0).run = none ∧ go.arbiter 0 = some 0 ∧ go.arrayReady 0 0 = some ((0, 0), cmd m 1 true none) ∧
    go.mError 0 0 (cmd m 1 true none) = none) ∧
  (((run 8).tileOf 0).run = some ⟨0, 0, 8, 0⟩ ∧ (Tab.find (run 8).grains (0, 0)).map (fun g => g.mq.length) = some 1 ∧
    8 - (run 8).dutyOf 0 * ((run 8).tileCycle 0 - 0) ≠ 0) ∧
  (0 - (run 0).dutyOf 0 * ((run 0).tileCycle 0 - 0) = 0 ∧ (run 0).mError 0 0 (cmd m 1 true none) = none) ∧
  ((fin 0).mqHead 0 0 = some ((0, 0), { cmd m 1 true (some 0) with prog := 1 }) ∧ isArray m = true ∧ (fin 9).tileCycle 0 < 9 ∧
    (fin 0).mError 0 0 { cmd m 1 true (some 0) with prog := 1 } = none) ∧
  (plain.mqHead 0 0 = some ((0, 0), cmd z 0 false none) ∧ isArray z = false ∧ plain.mqStartable 0 (0, 0) (cmd z 0 false none) = true) ∧
  (pdone.mqHead 0 0 = some ((0, 0), cmd z 0 true (some 0)) ∧ 0 ≤ pdone.tileCycle 0) ∧
  ((bad.mqHead 0 0).map (fun e => (bad.mError 0 0 e.2).isSome && e.2.started && e.2.due.isNone) = some true ∧ (bad.tileOf 0).run = none) ∧
  (base.accState 0 0 = .free ∧ spl.accState 0 0 = .spilled 0 0 true ∧ (spl.sheafOf 0).saved = some v ∧ (spl.sheafOf 0).st = .running ∧
    (v.tiles.find? (fun t => (spl.sheafOf 0).tile t.vtile == 0)).isSome = true ∧ (spl.tileOf 0).accBad.contains 0 = false ∧
    ((spl.grainsAtTile 0).any fun e => e.1.1 == 0 && (spl.mqGrain 0 (e.2.core % 8)).isSome &&
      (e.2.mq.head?.bind fun c => accName c.instr) == some 0) = true ∧
    Mem.wf spl.accm = true ∧ Tab.find spl.dev.restoreQ (0, 0) = none ∧
    (∃ b es, v.tiles.find? (fun t => (spl.sheafOf 0).tile t.vtile == 0) = some b ∧ spl.spillRecord 0 v b 0 0 true = some (0, true, es)) ∧
    (∃ b, big.tiles.find? (fun t => (spl.sheafOf 0).tile t.vtile == 0) = some b ∧ spl.spillRecord 0 big b 0 0 true = none)) ∧
  (Tab.find (due 0).dev.restoreQ (0, 0) = some 0 ∧ 0 ≤ (due 0).slot ∧ Tab.find (due 9).dev.restoreQ (0, 0) = some 9 ∧ (due 9).slot < 9) := by
  refine ⟨?_, ?_, ?_, ?_, ?_, ?_, ?_, ?_, ?_, ?_, ?_, ?_, ⟨?_, ?_, ?_, ?_, ?_, ?_, ?_, ?_, ?_, ⟨_, _, rfl, rfl⟩, ⟨_, rfl, ?_⟩⟩, ?_⟩ <;> decide

/-- Whether an engine command may issue over its ranges: `EReady`, as a check that also names the ranges and their first
own-quad offset. -/
def eTakes (s : State) (plv : Nat) (rows : List (W64 × Nat × Nat)) (entries : Nat) : Option (List Rng × Nat) :=
  match s.rangesOf true rows with
  | .ok (r :: l) =>
    if (plv == 0 || ((s.grain.dom plv).isSome && !s.grain.hasArrived plv)) && (!s.unfence.fenced && !s.unfence.rcBusy) &&
        rows.all (fun x => x.1.toNat % 4 == 0 && x.2.1 % 4 == 0) &&
        (r :: l).all (fun x => !s.rangeHeld x && s.rngBank x == .on && !s.rngMoving x && !s.unfence.rngVecHeld x) &&
        decide (s.scoreUsed s.myTile + entries ≤ 128)
    then some (r :: l, r.off) else none
  | _ => none

theorem eTakes_ready {s : State} {plv entries off : Nat} {rows : List (W64 × Nat × Nat)} {ls : List Rng}
    (h : eTakes s plv rows entries = some (ls, off)) : EReady s plv rows ls entries ∧ (ls.head?.map fun r => r.off) = some off := by
  unfold eTakes at h
  split at h
  · rename_i r l hk
    split at h
    · rename_i c
      cases h
      simp only [Bool.and_eq_true, Bool.or_eq_true, Bool.not_eq_true', List.all_eq_true, beq_iff_eq, decide_eq_true_eq] at c
      obtain ⟨⟨⟨⟨a, b⟩, d⟩, e⟩, f⟩ := c
      exact ⟨⟨a, b, hk, d, fun x m => ⟨(e x m).1.1.1, (e x m).1.1.2, (e x m).1.2, (e x m).2⟩, f⟩, rfl⟩
    · cases h
  · cases h

/-- A tile circuit of sheaf 0, on its way to tile 1 and with the given number. -/
def tileLink (n : Nat) : Circuit := ⟨n, 0, .tile, 0, 1, 0, [], 1, 9, true, false, some 0, [], [], [], 0⟩

/-- Base with a local address, a global address and a count in `g1` to `g3`, and circuit 5. -/
def engBase (g1 g2 g3 : W64) : State := (withCtx fun c => { c with
  g := ((c.g.set 1 g1).set 2 g2).set 3 g3 }).updDev fun d => { d with circuits := [tileLink 5] }

def eI (k : CpyKind) (plv : Fin 5) (rows : BitVec 16) (lstr : BitVec 19) (fm fs : Fmt) : CpyArgs :=
  ⟨k, plv, false, rows, lstr, .quad, .rne, false, fm, fs, 2⟩

theorem wit_EngineCommandsIssueOrTrap :
  let s := engBase 0x100 0x40 64
  let c := engBase 0x100 0x5_0000_0000 64
  let f := engBase 0x100 5 64
  let gs := engBase 0x100 0x40 0x400
  let ring := s.updGrain fun g => { g with rings := g.rings.set 0 (some ⟨0, 0x400, 2, 1, 4, 0⟩) }
  let w (s : State) : W64 × W64 × W64 := (s.src 1 (.g 1), s.src 2 (.g 2), s.src 3 (.g 3))
  let rows (s : State) (e : CpyArgs) : List (W64 × Nat × Nat) :=
    let j := jobOf e (s.src 3 (.g 3))
    (List.range j.rows).map fun r => (s.src 1 (.g 1) + BitVec.ofNat 64 (r * j.lstr), j.lrow, fmtAlign e.fs)
  let one := eI .g2l 0 0 0 .raw .raw
  let two := eI .l2g 4 1 64 .raw .raw
  let tile := eI .l2c 0 0 0 .raw .raw
  let coll : CollArgs := ⟨.allGather, 0, 1, 1, .quad, .fp32, 2⟩
  let gath : GathArgs := ⟨1, 31, .quad, .rne, false, .raw, .raw⟩
  (ring.oneStage 0x00C0_0000 0x402 = false ∧ ring.oneStage 0x00C0_0000 0x400 = true ∧ ring.runs (hd .none) = true ∧
    (match ring.rangesOf true [(0x00C0_0000, 64, 1), (0x00C0_0400, 64, 1)] with | .ok _ => true | .error _ => false) = true) ∧
  (s.runs (hd .none) = true ∧ w s = (0x100, 0x40, 64) ∧ (jobOf one (s.src 3 (.g 3))).e ≤ 2 ^ 21) ∧
  ((eTakes s 0 (rows s one) 1).isSome = true ∧ s.oneStage 0x100 (jobOf one 64).extent = true ∧ globalRows (jobOf one 64) (s.src 2 (.g 2)) 0 = none) ∧
  ((eTakes s 4 (rows s two) 1).map (fun p => p.1.length) = some 2 ∧ s.oneStage 0x100 (jobOf two 64).extent = true ∧
    globalRows (jobOf two 64) (s.src 2 (.g 2)) 64 = none ∧ (s.tileOf s.myTile).chanLoad 2 < 16) ∧
  (c.runs (hd .none) = true ∧ bits (c.src 2 (.g 2)) 63 48 = 0 ∧ bits (c.src 2 (.g 2)) 31 0 % 4 = 0 ∧
    c.tileCircuit (bits (c.src 2 (.g 2)) 47 32) = some (tileLink 5) ∧
    remoteBad c (tileLink 5) (bits (c.src 2 (.g 2)) 31 0) ((jobOf tile 64).rows * (jobOf tile 64).lrow) = none ∧
    (eTakes c 0 (rows c tile) 1).isSome = true) ∧
  (1 ≤ (f.src 3 (.g 3)).toNat ∧ (f.src 3 (.g 3)).toNat ≤ 2 ^ 16 ∧ coll.rank.toNat < coll.p.toNat + 1 ∧ (f.src 2 (.g 2)).toNat < 2 ^ 16 ∧
    (f.ringCircuit (f.src 2 (.g 2)).toNat).isSome = true ∧
    (({ f with dev := { f.dev with circuits := [{ tileLink 5 with kind := .net }] } } : State).ringCircuit 5).isSome = true ∧
    (eTakes f 0 [(0x100, 256, 4), (0x200, 256, 4)] 1).map (fun p => p.1.length) = some 2 ∧ f.oneStage 0x100 512 = true) ∧
  ((eTakes gs 0 (((List.range (gath.count.toNat + 1)).map fun r => (gs.src 1 (.g 1) + BitVec.ofNat 64 (r * 32), 32, 1)) ++
      [(gs.src 3 (.g 3), 4 * 2, 4)]) 2).map (fun p => p.1.length) = some 3 ∧ gs.oneStage 0x100 64 = true ∧ canonical (gs.src 2 (.g 2)) = true ∧ rowBytes gath.fs 32 = 32 ∧
    fmtBytes gath.fs = 1 ∧ (gs.tileOf gs.myTile).gath = none) ∧
  (s.unfence.fenced = false ∧ s.unfence.rcBusy = false ∧ s.src 3 (.g 3) ≠ 0 ∧ (s.src 3 (.g 3)).toNat % 64 = 0 ∧
    (s.src 3 (.g 3)).toNat ≤ 2 ^ 40 ∧ canonical (s.src 1 (.g 1)) = true ∧
    canonical (s.src 1 (.g 1) + (s.src 3 (.g 3) - 1)) = true ∧ (s.src 1 (.g 1)).toNat % 64 = 0 ∧ (s.src 2 (.g 2)).toNat % 64 = 0) ∧
  (s.sheaf.det = false ∧ s.unfence.relBusy s.unfence.cur = false ∧ (s.src 1 (.g 1)).toNat % 128 = 0 ∧
    s.unfence.relLog (some .dev) = false ∧ (tight (lined base.cur s)).runs (hd .none) = true ∧
    (tight (lined base.cur s)).unfence.relLog (some .dev) = true) ∧
  (let g2 := ring.updMe fun c => { c with g := c.g.set 1 0x00C0_03F0 }
   let bad := gs.updMe fun c => { c with g := c.g.set 3 0x0060_0000 }
   g2.runs (hd .none) = true ∧ g2.oneStage 0x00C0_03F0 64 = false ∧
     (match g2.rangesOf true [(0x00C0_03F0, 32, 1), (0x00C0_0410, 32, 1)] with | .ok _ => true | .error _ => false) = false ∧
     (match ring.rangesOf true [(0x00C0_03E0, 32, 1), (0x00C0_0400, 32, 1)] with | .ok _ => true | .error _ => false) = true ∧
     ring.oneStage 0x00C0_03E0 64 = false ∧
     (match bad.rangesOf true [(bad.src 3 (.g 3), 8, 4)] with | .ok _ => true | .error _ => false) = false ∧ bad.oneStage 0x100 64 = true) ∧
  (s.grain.dom 1 = none ∧ (1 : Fin 5) ≠ 0) ∧
  (2 ^ 21 < ((engBase 0 0 0x20_0001).src 3 (.g 3)).toNat ∧ ((engBase 0 0 0x20_0000).src 3 (.g 3)).toNat ≤ 2 ^ 21) ∧
  (isKb .kb8 = true ∧ ((engBase 0 0 33).src 3 (.g 3)).toNat % 32 ≠ 0) ∧
  (((engBase 0 0 0).src 3 (.g 3)).toNat < 1 ∧ 2 ^ 16 < ((engBase 0 0 0x1_0001).src 3 (.g 3)).toNat ∧ (1 : BitVec 6).toNat + 1 ≤ (2 : BitVec 6).toNat) ∧
  ((engBase 0 0 0).src 3 (.g 3) = 0 ∧ ((engBase 0 0 65).src 3 (.g 3)).toNat % 64 ≠ 0 ∧
    2 ^ 40 < ((engBase 0 0 0x100_0000_0040).src 3 (.g 3)).toNat) ∧
  (canonical ((engBase 0x0100_0000_0000_0000 0 0).src 1 (.g 1)) = false ∧ ((engBase 64 0 0).src 1 (.g 1)).toNat % 128 ≠ 0 ∧
    (engBase 64 0 0).unfence.relBusy (engBase 64 0 0).unfence.cur = false) := by
  refine ⟨?_, ?_, ?_, ?_, ?_, ?_, ?_, ?_, ?_, ?_, ?_, ?_, ?_, ?_, ?_, ?_⟩ <;> decide +kernel

theorem wit_EngineWaitsAndTags :
  let s := (withTile fun t => { t with chans := t.chans.set 2 ⟨64, []⟩ }).updMe fun c => { c with
    g := (c.g.set 1 64).set 2 65, a := c.a.set 2 0x100 }
  let busy := inFlight ldgI (.g 1) .accepted 0x10 [] [] 0
  let bad := withA 2 0x0100_0000_0000_0000
  let tags (n : Nat) : State := (withVd fun d => { d with tags := (List.range n).map fun k => (100 + k, 128 * k, false) }).updMe fun c =>
    { c with g := (c.g.set 1 3).set 2 100 |>.set 3 0x1_0000 }
  let far := withG 1 0x0100_0000_0000_0000
  s.runs (hd .none) = true ∧ s.unfence.fenced = false ∧
  ((s.src 1 (.g 1)).toNat ≤ ((s.tileOf s.myTile).chans[2]).wp.toNat ∧ ((s.tileOf s.myTile).chans[2]).wp.toNat < (s.src 1 (.g 2)).toNat) ∧
  (busy.unfence.rcBusy = true ∧ busy.runs (hd .none) = true) ∧
  (s.unfence.fenced || s.unfence.rcBusy || s.unfence.relBusy s.unfence.cur || s.unfence.cmdBusy s.unfence.cur ||
    s.unfence.relLog (some .sys)) = false ∧
  (canonical s.me.a[2] = true ∧ s.me.a[2].toNat % 8 = 0) ∧ (bad.runs (hd .none) = true ∧ canonical bad.me.a[2] = false) ∧
  2 ^ 16 ≤ ((tags 0).src 2 (.g 3)).toNat ∧ (canonical ((tags 0).src 1 (.g 1)) = true ∧ (far.src 2 (.g 2)).toNat < 2 ^ 16 ∧
    canonical (far.src 1 (.g 1)) = false) ∧
  (((tags 255).src 2 (.g 1)).toNat < 2 ^ 16 ∧ (((tags 255).vdOf (tags 255).myVd).tags.any fun e => e.1 == 3) = false ∧
    ((tags 255).vdOf (tags 255).myVd).tags.length < 256 ∧ 256 ≤ ((tags 256).vdOf (tags 256).myVd).tags.length) ∧
  ((((tags 256).vdOf (tags 256).myVd).tags.any fun e => e.1 == 3) = false ∧ ((tags 256).src 2 (.g 2)).toNat < 2 ^ 16 ∧
    (((tags 256).vdOf (tags 256).myVd).tags.any fun e => e.1 == 100) = true) := by
  refine ⟨?_, ?_, ?_, ?_, ?_, ?_, ?_, ?_, ?_, ?_, ?_⟩ <;> decide +kernel

/-- Base with the first GiB of VA and of IPA mapped onto itself by tables at 0x10000, the virtual device enabled and READY,
cluster 0 its partition's, and C-die 0 in its die map. -/
def mapped : State :=
  let p (a v : Nat) (m : Mem) : Mem := Mem.write m a (toBytes 8 v)
  let s := (((base.setCtl 0 rS1BASE 0x12000).setHyp 0 rS2BASE 0x10000).setHyp 0 rVDCTL 0xA000_0000_0000_0000).setHyp 0 rDIEMAP
    0xFFFF_0000_FFFF_FFF0
  { s with
    hbm := p 0x10000 0x11001 (p 0x11000 0x1F3 (p 0x12000 0x13001 (p 0x13000 0x14001 (p 0x14000 0x73 s.hbm))))
    dev := { s.dev with parts := s.dev.parts.set 0 { Part.zero with clus0 := 1, ctl := 0x8000_0000_0000_1000 } } }

/-- `mapped` with a launch record at VA 0x200 (SHAPE of one grain with a whole slice, and the stamp given). -/
def recorded (stamp : Nat) : State :=
  { mapped with hbm := Mem.write (Mem.write mapped.hbm 0x218 (toBytes 8 (1 + 512 * 2 ^ 32))) 0x238 (toBytes 8 stamp) }
/-- A copy that waits in its pass: `out` describes it and the tile holds its command. -/
def copyI (fm : Fmt) : Instr := .cpy (hd .none) (.g 1) (.g 2) (.g 3) (eI .g2l 0 0 0 fm .raw)
def copying (fm : Fmt) (sb : W64) : State :=
  let caps : List W64 := [0x100, sb, 64, 0, 0, 0x100]
  (withTile fun t => { t with pass := [⟨0, 7, 0, copyI fm, base.cur, 2, caps, [], [], [(0x100, 64)], 0, false, 0, 64, 0, 0, none⟩] }).updMe
    fun c => { c with out := some ⟨7, copyI fm, 0, .none, 0, false, .accepted, sb, caps, [], 0, none, 0, 0⟩ }

/-- A copy in its channel, with an earlier one before it in the tile's order when `early` says so. -/
def chanCmd (started : Bool) (prog : Nat) (fault : Option (Nat × Nat × W64)) : ECmd :=
  ⟨9, 7, 0, copyI .raw, base.cur, 2, [0x100, 0x40, 64, 0, 0, 0x100], [(0, 4096, 0, 0, 0)], [], [(0x100, 64)], prog, started, 0, 64, 0, 0, fault⟩
def channelled (e : ECmd) (early : Bool) : State := withTile fun t => { t with
  chans := (t.chans.set 2 ⟨5, [e]⟩).set 3 ⟨0, if early then [{ chanCmd false 0 none with seq := 1, ch := 3 }] else []⟩
  seqNext := 10 }

theorem wit_EngineStepsAndLaunches :
  let ok := copying .raw 0x40
  let odd := copying .bf16 0x40
  let far := copying .raw 0x4000_0000
  let j := jobOf (eI .g2l 0 0 0 .raw .raw) 64
  let pages (s : State) (sb : W64) : Bool × Option (List Nat) :=
    match s.onePage false s.cur .read (vaNat sb / 4096 * 4096) with
    | (_, .ok g) => (j.e ≠ 0, some [g.fmtCode, g.bg])
    | (_, .fault _) => (true, none)
    | (_, .ask) => (false, none)
  let faults (s : State) (jj : Job) : Option (Option (Nat × W64)) := match s.allPages false s.cur .read [0] with
    | (_, .ok hs) => some (formatFault jj 0x40 0 hs)
    | _ => none
  let inPass (s : State) : Bool := match s.outOf s.cur with
    | some o => ((s.tileOf 0).pass.find? fun e => e.ctx == s.cur && e.tag == o.tag).isSome
    | none => false
  let line := chanCmd true 0 none
  let done := chanCmd true 1 none
  let bad := chanCmd true 0 (some (0x06, 5, 9))
  let copyHeldBy (s : State) (e : ECmd) : Option Bool := (cpyArgs e.instr).map (s.copyHeld e)
  let meets := (channelled line false).updSheaf 0 fun h => { h with ckptItems := [(0, 0, 4)], cores := [0] }
  let lost := { line with instr := .cpy (hd .none) (.g 1) (.g 2) (.g 3) (eI .l2h 0 0 0 .raw .raw), writes := [], reads := [(0x100, 64)] }
  let poisoned := (channelled lost false).updDev fun d => { d with poisonLmem := [0x40] }
  let la (s : State) (st : Stage) (at_ : W64) (data : List Byte) : State := ({ s with dev := { s.dev with nextSheaf := 1 } } : State).updMe fun c =>
    { c with out := some ⟨7, .launch (hd (.g 4)) (.g 1), 0, .g 4, 0, false, st, at_, [3], data, 0, none, 0, 0⟩ }
  let a := la (recorded 0) .accepted 0x200 []
  let z := la (recorded 0) .accepted 0x300 []
  let got (s : State) (at_ : W64) : Option (Option Nat) := match s.gread (some (s.coreOfCtx s.cur)) (s.vdOfCtx s.cur) at_ 128 with
    | (s1, .ok bs) => some (s1.recordBad (s.vdOfCtx s.cur) (ofRecord bs) true false false)
    | _ => none
  let rec_ := (List.replicate 24 0 : List Byte) ++ toBytes 8 (1 + 512 * 2 ^ 32) ++ List.replicate 96 0
  let b := la mapped .answered 0x200 rec_
  let full := { b with sheaves := b.sheaves ++ (List.range 64).map fun n => (n + 9, { Sheaf.zero with st := .pending }) }
  (inPass ok = true ∧ pages ok 0x40 = (true, some [0, 0]) ∧ faults ok j = some none) ∧
  (inPass odd = true ∧ faults odd (jobOf (eI .g2l 0 0 0 .bf16 .raw) 64) = some (some (2, 0x40))) ∧
  (inPass far = true ∧ pages far 0x4000_0000 = (true, none)) ∧
  ((canonical (memRow 0x40 0 0) && canonical (memRow 0x40 0 0 + BitVec.ofNat 64 ((j.memSide (pageFmt 0) 0).rowLen - 1))) = true) ∧
  (let e := chanCmd false 0 none
   let s := channelled e false
   let h := channelled e true
   s.chanHead 0 2 = some e ∧ s.cmdHeld e.view e.lq e.seq e.reads e.writes = false ∧ h.chanHead 0 2 = some e ∧
     h.cmdHeld e.view e.lq e.seq e.reads e.writes = true) ∧
  (copyHeldBy (channelled line false) line = some false ∧ copyHeldBy meets line = some true ∧ meets.chanHead 0 2 = some line) ∧
  (poisoned.chanHead 0 2 = some lost ∧ (poisoned.headError lost).isSome = true ∧ lost.fault = none) ∧
  ((channelled line false).chanHead 0 2 = some line ∧ (channelled line false).headError line = none ∧ line.prog < line.lines) ∧
  ((channelled done false).chanHead 0 2 = some done ∧ (channelled done false).headError done = none ∧
    (channelled done false).cmdMoved 0 2 done = true) ∧
  ((channelled bad false).chanHead 0 2 = some bad ∧ (channelled bad false).headError bad = some (0x06, 5, 9)) ∧
  isKb .raw = false ∧
  ((a.outOf a.cur).map (fun o => (o.instr, o.stage)) = some (.launch (hd (.g 4)) (.g 1), .accepted) ∧ got a 0x200 = some none) ∧
  got z 0x300 = some (some 1) ∧
  (b.pendingCount 0 (b.childPrio 0 (ofRecord rec_)) < 64 ∧ b.childBefore b.cur 3 (b.childPrio 0 (ofRecord rec_)) = false ∧
    (ofRecord rec_).waitVa = 0 ∧ b.neverFits 0 false (ofRecord rec_) = none ∧ Tab.find b.sheaves b.dev.nextSheaf = none) ∧
  ((full.outOf full.cur).map (fun o => o.stage) = some .answered ∧ 64 ≤ full.pendingCount 0 (full.childPrio 0 (ofRecord rec_))) ∧
  b.rollback 0 = false := by
  refine ⟨?_, ?_, ?_, ?_, ?_, ?_, ?_, ?_, ?_, ?_, ?_, ?_, ?_, ?_, ?_, ?_⟩ <;> decide +kernel

/-- Base with circuits, their handles held by sheaf 0, and a quota of all slots. -/
def linked (l : List Circuit) : State := ((base.updSheaf 0 fun h => { h with circuits := l.map fun k => k.handle }).updDev fun d => { d with
  circuits := l }).setHyp 0 rFABQUOTA 0xFFFF_FF00

theorem wit_CircuitInstructions :
  let s := withG 1 1
  let bad := (withG 1 129).updMe fun c => { c with g := c.g.set 2 8 }
  let busy := inFlight ldgI (.g 1) .accepted 0x10 [] [] 0
  let rel := (linked [{ tileLink 5 with releasing := true }]).updMe fun c => { c with g := c.g.set 1 5 }
  let ckt := (linked [tileLink 5]).updMe fun c => { c with g := c.g.set 1 5 }
  let det := withSheaf fun h => { h with det := true }
  s.runs (hd (.g 3)) = true ∧ s.rcBusy = false ∧
  ((s.src 1 (.g 0)).toNat < ceilDiv s.sheaf.grains 8 ∧ (s.src 1 (.g 0)).toNat < 8 ∧ s.src 1 (.g 0) = 0 ∧
    s.src 1 (.g 0) &&& ~~~(0xFFFF_000F : W64) = 0) ∧
  (1 ≤ (s.src 2 (.g 1)).toNat ∧ (s.src 2 (.g 1)).toNat ≤ s.wheel / 2 ∧ (s.src 2 (.g 1)).toNat ≤ 256 / 2) ∧
  (bad.rcBusy = false ∧ s.wheel / 2 < (bad.src 2 (.g 1)).toNat ∧ ¬ (bad.src 1 (.g 2)).toNat < 8) ∧
  (busy.runs (hd (.g 3)) = true ∧ busy.rcBusy = true) ∧ base.heldCircuit (base.src 1 (.g 1)) = none ∧
  (rel.runs (hd .none) = true ∧ rel.heldCircuit (rel.src 1 (.g 1)) = some { tileLink 5 with releasing := true }) ∧
  (ckt.runs (hd .none) = true ∧ ckt.heldCircuit (ckt.src 1 (.g 1)) = some (tileLink 5)) ∧
  (det.runs (hd (.g 3)) = true ∧ det.sheaf.det = true) ∧ (s.sheaf.det = false ∧ s.sheaf.grains ≤ (s.src 1 (.g 1)).toNat) ∧
  (s.src 1 (.g 0)).toNat < s.sheaf.grains ∧
  (s.homeOf (some s.myCore) s.myVd (s.src 1 (.g 0))).isSome = true := by decide

/-- A message of a `ckt.req` of the control context for one slot. -/
def askMsg (slots due : Nat) : TrainMsg := ⟨some base.cur, 7, 0, 0, slots, .mem, 0, 0, false, due, 0, 0, 0, false⟩

theorem wit_BromeHandlesCircuits :
  let on (l : List TrainMsg) (s : State) : State := { s with slot := 5, dev := { s.dev with toBrome := l, trainNext := 9 } }
  let go : State := { on [askMsg 1 0] base with slot := 9 }
  let up (l : List Circuit) : State := (linked l).setHyp 0 rVDCTL 0x2000_0000_0000_0000
  let req := on [askMsg 1 4] (up [])
  let none_ := on [askMsg 300 4] (up [])
  let relM : TrainMsg := ⟨some base.cur, 0, 5, 0, 0, .tile, 0, 0, true, 5, 0, 0, 0, false⟩
  let full := on [{ askMsg 1 4 with full := true }] (up [])
  let saved := req.updSheaf 0 fun h => { h with cores := [] }
  let w : W64 := writeWord (0, 0, 1, 5) 3
  let away : State := { base with slot := 99, dev := { base.dev with away := [⟨0, false, 0, [w]⟩] } }
  let late := on [relM] (linked [tileLink 5])
  let gang := on [{ askMsg 1 4 with ctx := none }] (up [])
  let c : Circuit := ⟨9, 0, .mem, 0, 0, 0, [], 1, 0, false, false, some 0, [], [], [], 0⟩
  let rel := on [relM] (linked [{ tileLink 5 with releasing := true }])
  let ansM : TrainMsg := { askMsg 1 5 with answer := 5 }
  let i : Instr := .cktReq (hd (.g 3)) (.g 1) (.g 2) .tile
  let ans : State := let s := inFlight i (.g 3) .sent 0 [1] [] 0
    { s with slot := 5, dev := { s.dev with fromBrome := [ansM], circuits := [{ tileLink 5 with active := false }] } }
  let told : State := { base with slot := 5, dev := { base.dev with fromBrome := [{ ansM with ctx := none }] } }
  let sl (n : Nat) : Circuit := { tileLink n with slots := [n], kind := .mem }
  let above := (linked [sl 5, sl 6]).setHyp 0 rFABQUOTA 0
  let idle (at_ : Nat) : State := linked [{ sl 5 with leaving := [(3, at_)], lat := 0 }]
  (req.slot < req.dev.trainNext ∧ go.dev.trainNext ≤ go.slot ∧ go.boarding 0 (go.slot / go.wheel * go.wheel) = [askMsg 1 0]) ∧
  (req.nextMsg = some (askMsg 1 4) ∧ (askMsg 1 4).full = false ∧ bit (req.hyp 0 rVDCTL) 61 = true ∧ (req.sheafOf 0).cores ≠ [] ∧
    ((req.reserveCircuit c).bind fun p => p.circuit 9).isSome = true ∧ (askMsg 1 4).sheaf = some 0) ∧
  (none_.nextMsg = some (askMsg 300 4) ∧ none_.reserveCircuit { c with want := 300 } = none) ∧
  (full.nextMsg.map (fun m => m.full) = some true ∧ bit (base.hyp 0 rVDCTL) 61 = false) ∧
  (saved.nextMsg = some (askMsg 1 4) ∧ (saved.sheafOf 0).cores = [] ∧ (askMsg 1 4).ctx ≠ none) ∧
  (away.dev.away = [⟨0, false, 0, [w]⟩] ∧ writtenEntry w = (0, 0, 1, 5) ∧ 0 * away.wheel + routerDist 0 ≤ away.slot) ∧
  (late.nextMsg = some relM ∧ (late.circuit 5).map (fun k => k.releasing) = some false) ∧
  (gang.nextMsg.map TrainMsg.sheaf = some none) ∧
  (rel.nextMsg = some relM ∧ relM.release = true ∧ (rel.circuit 5).map (fun k => (k.releasing, k.sheaf == relM.sheaf)) = some (true, true)) ∧
  (ans.nextAnswer = some ansM ∧ (ans.ctx ans.cur).isSome = true ∧ ans.rollback (ans.vdOfCtx ans.cur) = false ∧
    (ans.circuit ansM.answer.toNat).isSome = true ∧ told.nextAnswer.map (fun m => m.ctx) = some none) ∧
  ((linked [sl 5]).dev.circuits.all fun k => !(linked [sl 5]).overQuota k) = true ∧
  ((linked [sl 5]).dev.circuits.all fun k => k.leaving.isEmpty) = true ∧ (0 + 0 ≤ (idle 0).slot ∧ (idle 9).slot < 9 + 0) ∧
  ((above.idleLeft 0).dev.circuits.map fun k => (k.handle, above.overQuota k)) = [(5, true), (6, true)] := by
  refine ⟨?_, ?_, ?_, ?_, ?_, ?_, ?_, ?_, ?_, ?_, ?_, ?_, ?_, ?_⟩ <;> decide +kernel

/-- Circuit 5 with a flit of a tile copy, and its command at the head of channel 2. -/
def flitL (k : CktKind) (due at_ : Nat) : Circuit := { tileLink 5 with kind := k, flits := [⟨due, at_, [1, 2, 3, 4], 0, 2, 9, false⟩] }
def tileCopyI : Instr := .cpy (hd .none) (.g 1) (.g 2) (.g 3) (eI .l2c 0 0 0 .raw .raw)
def flitting (c : Circuit) : State := (channelled { chanCmd true 1 none with instr := tileCopyI } false).updDev fun d => { d with circuits := [c] }

theorem wit_FlitsPortsAndFrames :
  let early := flitting (flitL .tile 5 0x100)
  let s := flitting (flitL .tile 0 0x100)
  let gone := flitting (flitL .tile 0 0x18_0000)
  let net := { tileLink 5 with kind := .net, active := false, slots := [3] }
  let port (cfg : W64) : State := (linked [net]).updPort 0 fun _ => ⟨cfg, 3⟩
  let up := port 0xE000_0000_0000_0000
  let eth := port 0x8000_0000_0000_0000
  let slotP := port 0xC000_0000_0000_0000
  let x (s : State) : Port := s.dev.ports[0]
  let v : W64 := 0x4000_0000_0000_0000
  let frame : List Byte := List.replicate 12 0 ++ [0x88, 0xB5] ++ List.replicate 136 0
  let other : List Byte := List.replicate 136 0
  let tags : List Byte := List.replicate 12 0 ++ [0x81, 0, 0, 1, 0x81, 0] ++ List.replicate 136 0
  let head := chanCmd true 0 none
  let inj (k : Circuit) : State := (channelled { head with instr := tileCopyI, caps := [0x100, 0x5_0000_0100, 64, 0, 0, 0x100] } false).updDev
    fun d => { d with circuits := [k] }
  let cmdOf (s : State) : Option (Fin 8) := (s.dev.circuits.head?.bind fun k => k.flits.head?.bind s.flitCmd).map Prod.fst
  let cfg := base.setMg rFABCFG 8
  let many : Circuit := { tileLink 5 with flits := List.replicate 32 ⟨0, 0x100, [], 0, 2, 9, false⟩ }
  let tag : Circuit := { net with active := true, dest := 0x7_0000 }
  let netUp : State := (linked [tag]).updPort 0 fun _ => ⟨0xE000_0000_0000_0000, 3⟩
  let isTag (k : Circuit) : Bool := k.kind == .net && k.active && bits k.dest 3 0 == 0 && bits k.dest 31 16 == 7
  let busy := (linked [tileLink 5]).setMg rFABCFG 8
  ((early.circuit 5).map (fun k => k.flits.length) = some 1 ∧ early.slot < 5) ∧
  (s.slot = 0 ∧ cmdOf s = some 2 ∧ s.flitBlock (flitL .tile 0 0x100) ⟨0, 0x100, [1, 2, 3, 4], 0, 2, 9, false⟩ = (none, false)) ∧
  (cmdOf gone = some 2 ∧ (gone.flitBlock (flitL .tile 0 0x18_0000) ⟨0, 0x18_0000, [1, 2, 3, 4], 0, 2, 9, false⟩).1.isSome = true) ∧
  ((up.circuit 5) = some net ∧ net.slots ≠ [] ∧ up.dev.fromBrome = [] ∧ net.atPort 0 = true ∧ (x up).en = true ∧ (x up).slotMode = true ∧ (x up).aligned = true ∧ (x eth).slotMode = false) ∧
  (bit v 62 ≠ (x eth).slotMode ∧ (x eth).en = true) ∧ (bit v 62 ≠ (x base).slotMode ∧ (x base).en = false ∧ 16 ≤ base.wheel) ∧
  (((inj (tileLink 5)).chanHead 0 2).map (fun e => ((inj (tileLink 5)).headError e, decide (e.prog < e.lines), bits (cap e.caps 1) 47 32,
      (cpyArgs e.instr).map fun a => a.kind == .l2c)) = some (none, true, 5, some true) ∧
    (inj (tileLink 5)).nextSlot (tileLink 5) = none ∧ (inj net).buffered 0 = 0 ∧ (inj net).nextSlot net = some 3) ∧
  ({ inj many with slot := 5 }.flitsTo 1).length = 32 ∧ (({ inj many with slot := 5 }.flitsTo 1).any fun f => decide (f.due < 5)) = true ∧
  (netUp.dev.circuits.find? isTag = some tag ∧ netUp.circuit 5 = some tag ∧ (x netUp).aligned = true ∧ base.dev.circuits.find? isTag = none) ∧
  (bit v 62 = (x slotP).slotMode) ∧ ((x base).en = false ∧ (x slotP).en = true ∧ (x slotP).slotMode = true) ∧
  (up.dev.ptpAligned = false ∧ { up.dev with ptpAligned := true }.ptpAligned = true) ∧
  ((x eth).en = true ∧ (frameBody frame).map (fun b => (b.1, decide (8 ≤ b.2.length))) = some (0x88B5, true) ∧ Mem.wf eth.host = true ∧
    (frameBody other).map Prod.fst = some 0 ∧ frameBody tags = none ∧ (List.replicate 13 (0 : Byte)).length < 14) ∧
  (eth.vdOfPasid 0 = none ∧ mapped.vdOfPasid (bits (word64 (((frameBody frame).map Prod.snd).getD [] |>.take 8)) 19 0) = some 0) ∧
  (3 ≤ bits (3 : W64) 3 0 ∧ bits (10 : W64) 3 0 ≤ 10 ∧ bits (3 : W64) 3 0 ≠ bits (cfg.mg rFABCFG) 3 0 ∧ cfg.dev.circuits = []) ∧
  (bits (10 : W64) 3 0 ≠ bits (busy.mg rFABCFG) 3 0 ∧ (busy.dev.circuits.any fun k => k.kind != .mem) = true) ∧
  (bits (2 : W64) 3 0 < 3 ∧ 10 < bits (11 : W64) 3 0) ∧ (bit (0 : W64) 63 = false ∧ bit (0x8000_0000_0000_0000 : W64) 63 = true ∧
    bit (mapped.hyp 0 rVDCTL) 61 = true) := by
  refine ⟨?_, ?_, ?_, ?_, ?_, ?_, ?_, ?_, ?_, ?_, ?_, ?_, ?_, ?_, ?_, ?_, ?_, ?_, ?_⟩ <;> decide +kernel

/-- Base with a trap handler at 0x100. -/
def trapping : State := withGrain fun g => { g with const := Mem.write [] 4088 [0x00, 0x01] }

theorem wit_SystemInstructions :
  let busy := inFlight ldgI (.g 1) .accepted 0x10 [] [] 0
  let flagged := trapping.updMe fun c => { c with aflags := 5, amask := 4 }
  let o : Out := ⟨7, ldgI, 0, .g 1, 0, false, .sent, 0x10, [], [], 0, none, 0, 0⟩
  let inside (cause : W64) (v : Option Out) : State := withCtx fun c => { c with handler := true, trapcause := cause, pv := v.isSome, saved := v }
  let skips := inside 0x4_0000 (some o)
  let det := withSheaf fun h => { h with det := true }
  trapping.runs (hd .none) = true ∧ trapping.workLeft = false ∧ trapping.me.aflags &&& trapping.me.amask = 0 ∧
  trapping.me.handler = false ∧ trapping.me.dead = false ∧ trapping.grain.handler ≠ 0 ∧ trapping.rollback trapping.myVd = false ∧
  (busy.runs (hd .none) = true ∧ busy.workLeft = true) ∧
  (flagged.runs (hd .none) = true ∧ flagged.workLeft = false ∧ flagged.me.aflags &&& flagged.me.amask = 4 ∧ flagged.grain.handler ≠ 0) ∧
  (skips.runs (hd .none) = true ∧ skips.me.handler = true ∧ skips.me.out = none ∧ bit skips.me.trapcause 18 = true) ∧
  (bit (inside 0 none).me.trapcause 18 = false ∧ (inside 0 none).me.pv = false ∧ (inside 0 none).me.handler = true) ∧
  ((inside 0 (some o)).me.pv = true ∧ (inside 0 (some o)).me.saved = some o ∧ bit (inside 0 (some o)).me.trapcause 18 = false) ∧
  (det.runs (hd (.g 1)) = true ∧ det.sheaf.det = true) ∧ (base.runs (hd (.g 1)) = true ∧ base.sheaf.det = false) := by decide

theorem wit_SpecialRegisters :
  let sys := withSheaf fun h => { h with sys := true }
  let u : W64 := 0
  let ans (p : Pend) : State := withCtx fun c => { c with pend := [p] }
  let a : Pend := ⟨7, 1, some 3, 2, 0, none, some 5, 0, false⟩
  let d (n : Nat) : Pend := ⟨0, 16, some 3, 2, 0, some n, some 5, 1, false⟩
  let one (p : Pend) : Bool := (((ans p).ctx (ans p).cur).bind fun x => x.pend[0]?) == some p
  base.runs (hd (.g 3)) = true ∧ ((0x010 : BitVec 9).toNat = 0x010 + 0 ∧ (0x017 : BitVec 9).toNat = 0x010 + 7 ∧
    (0x13F : BitVec 9).toNat = 0x100 + 63) ∧
  (BitVec.setWidth 32 (0x1_0000_0000 : W64) = (0 : W32) ∧ BitVec.setWidth 32 (1 : W64) ≠ (0 : W32)) ∧
  (4 < bits (5 : W64) 2 0 ∧ bits (4 : W64) 2 0 ≤ 4) ∧ (bits (0 : W64) 7 0 = 0 ∧ 128 < bits (129 : W64) 7 0 ∧ bits (128 : W64) 7 0 ≤ 128) ∧
  (base.sysreg 0x1FF = none ∧ base.sysreg 0x018 = none) ∧ base.sheaf.sys = false ∧
  (sys.runs (hd (.g 3)) = true ∧ sys.sheaf.sys = true ∧ sys.src 1 (.g 0) = u ∧ bits u 63 15 = 0 ∧ bits u 11 0 < sys.sheaf.vtiles ∧
    bits u 14 12 = 0) ∧
  ¬ bits (1 : W64) 11 0 < sys.sheaf.vtiles ∧ ((0x0107 : BitVec 16).toNat = 0x0100 + 7) ∧
  (255 < sys.wheel ∧ sys.wheel ≤ 0x400 ∧ (0x50FF : BitVec 16).toNat = 0x4000 + 0x400 * 4 + 255) ∧
  ((0x64FF : BitVec 16).toNat = 0x6000 + 0x100 * 4 + 255 ∧ 255 < 0x100) ∧
  ((0x00FF : BitVec 16).toNat < 0x0100 ∧ 0x0108 ≤ (0x0108 : BitVec 16).toNat ∧ (0x3FFF : BitVec 16).toNat < 0x4000 ∧
    0x6500 ≤ (0x6500 : BitVec 16).toNat) ∧
  (one a = true ∧ a.tag ≠ 0 ∧ a.due = none ∧ a.val.isSome = true) ∧ (one (d 0) = true ∧ (0 : Nat) ≤ (ans (d 0)).cycleOfCtx base.cur) ∧
  (one (d 9) = true ∧ (ans (d 9)).cycleOfCtx base.cur < 9) ∧ (d 0).tag = 0 := by decide

theorem wit_CheckpointAndHalt :
  let busy := inFlight ldgI (.g 1) .accepted 0x10 [] [] 0
  let log := base.setHyp 0 rLOGCTL 0x8000_0000_0000_0000
  let stop := log.updSheaf 0 fun h => { h with stop := .save }
  let own := withTile fun t => { t with acc := t.acc.set 63 (.owned 0 0) }
  (busy.runs (hd .none) = true ∧ busy.workLeft = true ∧ busy.cur.ctx = 0 ∧ busy.killHelpers.workLeft = true) ∧
  (base.runs (hd .q) = true ∧ base.workLeft = false ∧ base.cur.ctx = (0 : Fin 11).val ∧ base.logging base.myVd = false) ∧
  (log.runs (hd .q) = true ∧ log.workLeft = false ∧ log.logging log.myVd = true ∧ log.sheaf.stop = .none ∧
    (Tab.find log.sheaves log.cur.sheaf).isSome = true) ∧
  (stop.runs (hd .q) = true ∧ stop.logging stop.myVd = true ∧ stop.sheaf.stop ≠ .none ∧ stop.workLeft = false) ∧
  (helper.runs (hd .none) = true ∧ helper.cur.ctx ≠ 0) ∧
  (own.runs (hd .none) = true ∧ own.killHelpers.workLeft = false ∧ (own.grainOf own.cur).isSome = true ∧
    (own.tileOf own.myTile).acc[63] = .owned own.cur.sheaf own.cur.grain) ∧
  (helped.ctx ⟨0, 0, 1⟩).isSome = true ∧
  (let puts : Ctx := { Ctx.zero with out := some ⟨7, .rqput (hd .none) 2 (.g 1) 7, 0, .none, 0, false, .sent, 0x200, [3], [], 0, none, 0, 0⟩ }
   let late : State := { helped with ctxs := Tab.put helped.ctxs ⟨0, 0, 1⟩ puts }
   (late.ctx ⟨0, 0, 1⟩).map (fun x => x.out.map fun o => (isRqput o.instr, o.stage)) = some (some (true, .sent)) ∧
     late.runs (hd .none) = true ∧ late.cur.ctx = 0) ∧
  ((tight (lined base.cur base)).killHelpers.grainLog = true ∧ (tight (lined base.cur base)).killHelpers.workLeft = false ∧
    base.killHelpers.grainLog = false) := by decide

/-- Launch queue 0 of `mapped` enabled, its head and notified slot number 1 at VA 0x200, where a record stands. -/
def queuedRec (stamp tries : Nat) : State :=
  (((recorded stamp).setCtl 0 (rLQBASE 0) 0x180).setCtl 0 (rLQCTL 0) 0x8000_0000_0000_0000 |>.setCtl 0 (rLQSTAT 0) 1).updVd 0 fun v =>
    { v with notify := v.notify.set 0 1, tries := v.tries.set 0 tries }

/-- A record of one grain, which waits for a signal when `wait` is not 0. -/
def oneGrain (wait : Nat) : Mem := Mem.write (Mem.write [] 0x18 (toBytes 8 (1 + 512 * 2 ^ 32))) 0x30 (toBytes 8 wait)

/-- Sheaf 1 of virtual device 0 beside the running sheaf 0. -/
def second (st : SheafSt) (wait : Nat) (s : State) : State := { s with
  sheaves := Tab.put s.sheaves 1 { Sheaf.zero with st := st, record := oneGrain wait, sheafid := 9 }
  dev := { s.dev with nextSheaf := 2 } }

theorem wit_LaunchQueuesAndRecords :
  let s := queuedRec 1 0
  let n := { s with dev := { s.dev with nextSheaf := 1 } }
  let re := (queuedRec 1 0).updVd 0 fun v => { v with reread := v.reread.set 0 (some 0) }
  let later := (queuedRec 1 0).updVd 0 fun v => { v with reread := v.reread.set 0 (some 5) }
  let bad := { s with hbm := Mem.write s.hbm 0x218 (toBytes 8 0) }
  let got (s : State) : Option (Sheaf × Option Nat) :=
    match s.gread none 0 (s.ctl 0 (rLQBASE 0) + BitVec.ofNat 64 (128 * ((s.ctl 0 (rLQSTAT 0)).toNat % 2 ^ (bits (s.ctl 0 (rLQCTL 0)) 3 0 + 1)))) 128 with
    | (y, .ok bs) => if y.vds = s.vds ∧ y.slot = s.slot then
        some (ofRecord bs, y.recordBad 0 (ofRecord bs) false (bit (s.ctl 0 rVDMODE) 61) (bit (s.ctl 0 rVDMODE) 62)) else none
    | _ => none
  let what (s : State) : Option (W64 × Option Nat × W64) := (got s).map fun p => (p.1.stamp, p.2, p.1.waitVa)
  let tagged (t : State) : State := { t.updVd 0 fun v => { v with tags := [(5, 0x200, true), (6, 0x200, false)] } with
    dev := { t.dev with nextSheaf := 1 } }
  let tg := tagged (recorded 1)
  let tgBad := tagged mapped
  let tgFull := { tg with sheaves := tg.sheaves ++ (List.range 64).map fun n => (n + 9, { Sheaf.zero with st := .pending }) }
  let hit (t n : Nat) (s : State) : Bool := ((s.vdOf 0).tags.find? fun e => e.1 == t) == some (t, 0x200, n == 1)
  let rec_ (s : State) : Option (Option Nat × Nat × W64) := match s.gread none 0 (BitVec.ofNat 64 0x200) 128 with
    | (y, .ok bs) => if y.vds = s.vds ∧ y.slot = s.slot then some (y.recordBad 0 (ofRecord bs) false false false,
        y.pendingCount 0 (ofRecord bs).recPrio, (ofRecord bs).waitVa) else none
    | _ => none
  let many (s : State) : State := { s with sheaves := s.sheaves ++ (List.range 64).map fun n => (n + 9, { Sheaf.zero with st := .pending }) }
  let eth (s : State) : State := s.updPort 0 fun _ => ⟨0x8000_0000_0000_0000, 0⟩
  let frame : List Byte := List.replicate 12 0 ++ [0x88, 0xB5, 0, 0, 0, 0, 5, 0, 0, 0] ++ List.replicate 64 7
  let body := ((frameBody frame).map Prod.snd).getD []
  let v : W64 := 0x8000_0000_0000_0000
  let wait := second .waitsig 0x300 mapped
  let never := second .pending 0 base
  let fits := second .pending 0 mapped
  (bit v 63 = true ∧ bit (base.ctl 0 (rLQCTL 0)) 63 = false ∧ bit (s.ctl 0 (rLQCTL 0)) 63 = true) ∧
  (base.sheaves.all fun e => e.2.st != .waitsig) = true ∧ (base.lqReady 0 0 = false ∧ s.lqReady 0 0 = true) ∧
  ((s.vdOf 0).reread[(0 : Fin 12)] = none ∧ re.lqReady 0 0 = true ∧ (re.vdOf 0).reread[(0 : Fin 12)] = some 0 ∧ 0 ≤ re.slot) ∧
  ((later.vdOf 0).reread[(0 : Fin 12)] = some 5 ∧ later.slot < 5) ∧
  (what n = some (1, none, 0) ∧ n.lqReady 0 0 = true ∧ Tab.find n.sheaves n.dev.nextSheaf = none) ∧
  ((what (queuedRec 2 0)).map Prod.fst = some 2 ∧ ((queuedRec 2 0).vdOf 0).tries[(0 : Fin 12)] + 1 < 64) ∧
  (64 ≤ ((queuedRec 2 63).vdOf 0).tries[(0 : Fin 12)] + 1 ∧ (what (queuedRec 2 63)).map Prod.fst = some 2 ∧ (queuedRec 2 63).lqReady 0 0 = true) ∧
  what bad = some (1, some 1, 0) ∧ (base.vdUp 0 = false ∧ mapped.vdUp 0 = true ∧ mapped.vds ≠ []) ∧
  ((mapped.vdOf 0).tags = [] ∧ addrOk (BitVec.ofNat 64 0x200) 128 = true) ∧
  (what (many n) = some (1, none, 0) ∧ (got (many n)).map (fun p => (many n).pendingCount 0 p.1.recPrio) = some 64 ∧
    (got n).map (fun p => n.pendingCount 0 p.1.recPrio) = some 0) ∧
  (((eth tg).dev.ports[(0 : Fin 16)]).en = true ∧ ((eth tg).dev.ports[(0 : Fin 16)]).slotMode = false ∧
    (frameBody frame).map Prod.fst = some 0x88B5 ∧ 8 ≤ body.length ∧ bits (word64 (body.take 8)) 47 32 = 5 ∧
    (eth tg).vdOfPasid (bits (word64 (body.take 8)) 19 0) = some 0 ∧ (eth tg).vdUp 0 = true ∧ hit 5 1 (eth tg) = true ∧
    rec_ (eth tg) = some (none, 0, 0) ∧ (eth tg).rxHeld 0 (body.drop 8) = false ∧ body.drop 8 = List.replicate 64 7) ∧
  ((tight tg).rxHeld 0 [7] = true ∧ rec_ (tight tg) = some (none, 0, 0) ∧ hit 5 1 (tight tg) = true ∧ (tight tg).vdUp 0 = true) ∧
  (hit 5 1 tg = true ∧ hit 6 0 tg = true ∧ rec_ tg = some (none, 0, 0) ∧ Tab.find tg.sheaves tg.dev.nextSheaf = none) ∧
  (hit 5 1 tgBad = true ∧ rec_ tgBad = some (some 1, 0, 0)) ∧ (hit 6 0 tgFull = true ∧ rec_ tgFull = some (none, 64, 0)) ∧
  ((never.sheaves.map Prod.fst).Nodup ∧ (Tab.find never.sheaves 1).map (fun h => (h.st, h.vd, (never.neverFits 0 h.det h).isSome)) =
    some (.pending, 0, true)) ∧
  ((Tab.find fits.sheaves 1).map (fun h => (fits.neverFits 0 h.det h).isSome) = some false) ∧
  ((base.sheafOf 0).st ≠ .waitsig ∧ (wait.sheafOf 1).st = .waitsig ∧ (match wait.gread none 0 (wait.sheafOf 1).waitVa 8 with
    | (y, .ok bs) => decide (y.sheaves = wait.sheaves) && word64 bs == 0
    | _ => false) = true) := by
  refine ⟨?_, ?_, ?_, ?_, ?_, ?_, ?_, ?_, ?_, ?_, ?_, ?_, ?_, ?_, ?_, ?_, ?_, ?_, ?_, ?_⟩ <;> decide +kernel

/-- `mapped` with the turn and a save pool of 64 MiB, sheaf 0 as a function gives it. -/
def pooled (f : Sheaf → Sheaf) : State :=
  let s := (mapped.setHyp 0 rSPBASE 0x1000_0000).setHyp 0 rSPSIZE 0x400_0000
  { s.updSheaf 0 f with dev := { s.dev with parts := s.dev.parts.set 0 { s.dev.parts[0] with turnVd := some 0 } } }

/-- A waiting sheaf 1 of 32 grains and of higher priority, for which sheaf 0 must go. -/
def pressed (s : State) : State := { s with sheaves := Tab.put s.sheaves 1 { Sheaf.zero with
  st := .pending, prio := 5, record := Mem.write [] 0x18 (toBytes 8 (32 + 512 * 2 ^ 32)), sheafid := 9 } }

def emptySave : Saved := ⟨0x1000_0000, 4096, [(⟨0, 0, 0⟩, Ctx.zero)], [(0, Grain.zero)], [], [], [], [], [], 3, []⟩

/-- `mapped` with the turn and the `mem` circuits of tile 0, sheaf 1 waiting for its place. -/
def placing (rec_ : Mem) : State :=
  let s := second .pending 0 mapped
  let mem (st : Nat) : Circuit := ⟨memHandle 0 st, 0, .mem, 0, 0, BitVec.ofNat 64 st, [st], 1, 9, true, false, none, [], [], [], 0⟩
  { s.updSheaf 1 fun h => { h with record := rec_ } with
    dev := { s.dev with circuits := (List.range 8).map mem, parts := s.dev.parts.set 0 { s.dev.parts[0] with turnVd := some 0 } } }

/-- What placing sheaf 1 reads: whether its constant bank could be read, and whether it is a gang launch. -/
def places (s : State) : Option (Bool × Bool) := (s.chosen 1).bind fun b => match b.constImage 1 with
  | (y, .ok _) => some ((Tab.find y.sheaves 1).isSome && !y.rollback (y.sheafOf 1).vd, (y.sheafOf 1).gang)
  | _ => none

theorem wit_PlacementAndRetirement :
  let gangRec := Mem.write (oneGrain 0) 0x28 (toBytes 8 0x30)
  let s := placing (oneGrain 0)
  let done := (withGrain fun g => { g with retired := true })
  let old := { (placing (oneGrain 0)).updSheaf 1 fun h => { h with clusters := [0] } with slot := 2 ^ 63 }
  let lead := { (placing gangRec).updSheaf 1 fun h => { h with st := .reserved } with slot := 2 ^ 63 }
  let held := withSheaf fun h => { h with ckpt := some emptySave }
  -- Sheaf 0 stands still for a move; cluster 1 is its partition's too.
  let mig : State := let s := (pooled fun h => { h with st := .stopped, stop := .migrate }).setHyp 0 rFABQUOTA 0xFFFF_FF00
    { s with dev := { s.dev with parts := s.dev.parts.set 0 { s.dev.parts[0] with clus0 := 3 } } }
  let crowd := (second .pending 0 mig).updSheaf 1 fun h => { h with clusters := [0] }
  let moved := (((mig.dropMem 0 [0]).serve 0 4).moveTile 0 0 4).updSheaf 0 fun h => { h with clusters := h.clusters.set 0 1, cores := h.cores.map (32 + ·) }
  ((done.updSheaf 0 id).endHeld 0 = false ∧ (tight (lined base.cur done)).endHeld 0 = true ∧ (tight (lined base.cur done)).allRetired 0 = true) ∧
  (let one := (placing gangRec).setCtl 0 (rGANG 0) 0x8000_0001_0000_0005
   places one = some (true, true) ∧ one.gangPkgs (one.sheafOf 1) = 1 ∧ (placing gangRec).gangPkgs ((placing gangRec).sheafOf 1) = 0) ∧
  (s.fit 1).isSome = true ∧ ((held.sheafOf 0).st ≠ .pending ∧ held.chosen 0 = none ∧ (held.sheafOf 0).ckpt.isSome = true) ∧
  ((mig.sheafOf 0).st = .stopped ∧ (mig.sheafOf 0).stop = .migrate ∧ mig.quiet 0 = true ∧ (mig.sheafOf 0).clusters = [0] ∧
    (mig.sheafOf 0).tile 0 = 0 ∧ mig.clusterFree 0 0 = false ∧ mig.clusterFree 0 1 = true ∧ 1 ∈ mig.usable 0) ∧
  (crowd.quiet 0 = true ∧ crowd.waitsPlace 1 (crowd.sheafOf 1) = true ∧ crowd.clusterFree 0 1 = true ∧ 1 ∈ crowd.usable 0 ∧
    (crowd.sheafOf 0).clusters = [0]) ∧
  ((List.range 4).filter fun t => decide (4 * 0 + t < (mig.sheafOf 0).vtiles)) = [0] ∧ (moved.placeMem 0 [4]).isSome = true ∧
  ((s.sheafOf 1).st = .pending ∧ places s = some (true, false)) ∧ places (placing gangRec) = some (true, true) ∧
  ((base.sheafOf 0).st = .running ∧ base.allRetired 0 = false) ∧ ((done.sheafOf 0).st = .running ∧ done.allRetired 0 = true) ∧
  (base.slot ≤ (base.sheafOf 0).ageFrom + base.ageLimit (base.sheafOf 0)) ∧
  ((lead.sheafOf 1).ageFrom + lead.ageLimit (lead.sheafOf 1) < lead.slot ∧ (lead.sheafOf 1).st = .reserved ∧
    (lead.sheafOf 1).lead = true ∧ (lead.sheafOf 1).gangWaitPosted = false) ∧
  ((old.sheafOf 1).ageFrom + old.ageLimit (old.sheafOf 1) < old.slot ∧ old.waitsPlace 1 (old.sheafOf 1) = true ∧
    old.hasTurn (old.sheafOf 1).vd = true ∧ (old.sheafOf 1).st ≠ .reserved ∧ (old.sheafOf 1).clusters ≠ [] ∧
    (old.sheaves.map Prod.fst).Nodup ∧ (Tab.find old.sheaves 0).map (fun k => (k.st, k.stop, k.clusters)) = some (.running, .none, [0])) ∧
  (Tab.find base.sheaves 0).isSome = true := by
  refine ⟨?_, ?_, ?_, ?_, ?_, ?_, ?_, ?_, ?_, ?_, ?_, ?_, ?_, ?_, ?_, ?_⟩ <;> decide +kernel

theorem wit_GangMessages :
  let gangRec (lead : Bool) := Mem.write (oneGrain 0) 0x28 (toBytes 8 (if lead then 0x30 else 0x10))
  let g (lead : Bool) (st : SheafSt) (res : List Nat) (t : Option Nat) : State := (base.setCtl 0 (rGANG 0) 0x8000_0001_0000_0005).updSheaf 0
    fun h => { h with record := gangRec lead, st := st, gangRes := res, gangT := t }
  let hf (s : State) : Sheaf := s.sheafOf 0
  let r := g true .reserved [] none
  ((hf base).gang = false ∧ (hf (g false .reserved [] none)).lead = false ∧ 3 ∈ (hf (g true .reserved [3] none)).gangRes) ∧
  ((hf r).gang = true ∧ (hf r).lead = true ∧ 3 ∉ (hf r).gangRes ∧ (hf r).st = .reserved ∧ (hf r).gangT = none ∧
    (hf r).gangRes.length + 1 = r.gangPkgs (hf r)) ∧
  ((hf (g true .pending [] none)).st ≠ .reserved ∧ (hf (g true .pending [] none)).gang = true) ∧ r.rollback (hf r).vd = false ∧
  ((hf (g true .reserved [] (some 5))).gangT = some 5 ∧ r.slot < 5) ∧ ((hf (g true .reserved [] (some 0))).gangT = some 0 ∧ 0 ≤ r.slot) ∧
  ((hf (g true .running [] (some 5))).gangT = some 5 ∧ (hf (g true .running [] (some 0))).st = .running) ∧
  ((hf (g true .running [] none)).gang = true ∧ (hf (g true .running [] none)).st = .running ∧
    ((g true .running [] none).ctx base.cur).map (fun x => x.out) = some none) ∧
  (bit (0x8000_0000_0000_0005 : W64) 63 = true ∧ bits (0x8000_0000_0000_0005 : W64) 37 32 = 0) ∧
  (bit (0 : W64) 63 = false ∧ bits (0x8000_0001_0000_0005 : W64) 37 32 ≠ 0) := by decide

theorem wit_StopSaveAndResume :
  let run (st : StopFor) : State := pooled fun h => { h with stop := st }
  let edge (st : StopFor) : State := pooled fun h => { h with stop := st, stopPhase := 1 }
  let small := withSheaf fun h => { h with stop := .save }
  let late := { run .save with slot := 2 ^ 20 }
  let stopped (st : StopFor) (d : Option Nat) : State := pooled fun h => { h with st := .stopped, stop := st, speltDone := d, ckpt := some emptySave }
  let away := let s := pooled fun h => { h with st := .stopped, saved := some emptySave, clusters := [], cores := [] }
    let mem (st : Nat) : Circuit := ⟨memHandle 0 st, 0, .mem, 0, 0, BitVec.ofNat 64 st, [st], 1, 9, true, false, none, [], [], [], 0⟩
    { s with ctxs := [], grains := [], dev := { s.dev with circuits := (List.range 8).map mem } }
  let back := pooled fun h => { h with st := .stopped, saved := some emptySave, speltDone := some 0 }
  ((away.sheafOf 0).st ≠ .running ∧ (run .none).isVictim 0 = false ∧ ((run .none).sheafOf 0).st = .running) ∧
  ((pressed (run .none)).isVictim 0 = true ∧ ((pressed (run .none)).sheafOf 0).stop = .none) ∧
  ((small.sheafOf 0).stop = .save ∧ small.roomFor 0 = false) ∧ ((run .save).roomFor 0 = true ∧ (run .save).atBoundary 0 = false) ∧
  ((edge .save).roomFor 0 = true ∧ (edge .save).atBoundary 0 = true ∧ 0 ∈ (edge .save).stopGroup 0) ∧
  (((run .checkpoint).sheafOf 0).stop = .checkpoint ∧ ((run (.slice true)).sheafOf 0).stop = .slice true ∧
    ((edge .migrate).sheafOf 0).stop = .migrate ∧ (edge .migrate).atBoundary 0 = true) ∧
  ((late.sheafOf 0).st = .running ∧ (late.sheafOf 0).stop = .save ∧ (late.sheafOf 0).stopAt + 2 ^ 20 ≤ late.slot ∧ late.roomFor 0 = true) ∧
  (((stopped .save none).sheafOf 0).st = .stopped ∧ (stopped .save none).quiet 0 = true ∧ ((stopped .save none).sheafOf 0).speltDone = none) ∧
  ((stopped .save (some 9)).quiet 0 = true ∧ ((stopped .save (some 9)).saveGroup 0).all (stopped .save (some 9)).saveDue = false) ∧
  ((stopped .save (some 0)).saveGroup 0 = [0] ∧ ((stopped .save (some 0)).saveGroup 0).all (stopped .save (some 0)).saveDue = true) ∧
  (((stopped (.slice true) none).sheafOf 0).ckpt = some emptySave ∧ (stopped (.slice true) none).rollGroup 0 = [0] ∧
    (stopped (.slice true) none).rollReady 0 = true ∧ (run (.slice true)).rollGroup 0 = [0] ∧ (run (.slice true)).rollReady 0 = false) ∧
  ((away.sheafOf 0).st = .stopped ∧ (away.sheafOf 0).saved = some emptySave ∧ (away.chosen 0).isSome = true ∧
    (emptySave.ctxs.map Prod.fst).Nodup ∧ (emptySave.grains.map Prod.fst).Nodup) ∧
  ((back.sheafOf 0).st = .stopped ∧ (back.sheafOf 0).stop = .none ∧ (Tab.find back.grains (0, 0)).isSome = true ∧
    (back.sheafOf 0).speltDone = some 0 ∧ 0 ≤ back.slot ∧ back.rollback (back.sheafOf 0).vd = false ∧
    (back.sheafOf 0).ckpt = none ∧ (back.sheafOf 0).gangT = none ∧ ((back.updSheaf 0 fun h => { h with gangT := some 5 }).sheafOf 0).gangT ≠ none ∧ ((back.updSheaf 0 fun h => { h with ckpt := some emptySave }).sheafOf 0).ckpt ≠ none) := by
  refine ⟨?_, ?_, ?_, ?_, ?_, ?_, ?_, ?_, ?_, ?_, ?_, ?_, ?_⟩ <;> decide +kernel

theorem wit_CheckpointsAndThermalMoves :
  let i : Instr := .chkpt (hd (.g 1))
  let s := (inFlight i (.g 1) .past 0 [7] [] 0).updSheaf 0 fun h => { h with st := .stopped, stop := .checkpoint, ckptBy := some base.cur }
  let copy (n : Nat) : State := withSheaf fun h => { h with ckptItems := [(0, 0, 0)], ckptAt := n }
  let need := withCtx fun c => { c with needCkpt := true }
  let log := (withCtx fun c => { c with needCkpt := true }).setHyp 0 rLOGCTL 0x8000_0000_0000_0000
  let move (due : Nat) : State := base.updCore 0 fun c => { c with moveTo := some (3, due) }
  ((base.sheafOf 0).st ≠ .stopped ∧ (base.sheafOf 0).ckptItems = [] ∧ (copy 9).slot < ((copy 9).sheafOf 0).ckptAt ∧
    ((copy 0).sheafOf 0).ckptAt ≤ (copy 0).slot ∧ ((copy 0).sheafOf 0).ckptItems ≠ []) ∧
  ((s.sheafOf 0).st = .stopped ∧ (s.sheafOf 0).stop = .checkpoint ∧ s.quiet 0 = true ∧ s.rollback (s.sheafOf 0).vd = false ∧
    (s.sheafOf 0).ckptBy = some s.cur ∧ (s.ctx s.cur).isSome = true ∧ (s.me.out.map fun o => (o.stage, o.caps)) = some (.past, [7])) ∧
  ((base.ctx base.cur).map (fun x => x.needCkpt) = some false) ∧
  ((need.ctx need.cur).map (fun x => (x.needCkpt, x.out, x.pend)) = some (true, none, []) ∧ need.rollback 0 = false) ∧
  (log.me.needCkpt = true ∧ log.rollback 0 = true ∧ log.sheaf.st = .running ∧ log.sheaf.stop = .none) ∧
  ((move 9).tabsOk = true ∧ (move 9).holder 0 = some ((0, 0), (move 9).grain) ∧ ((move 9).coreOf 0).moveTo = some (3, 9) ∧
    (move 9).cycleOf 0 < 9 ∧ Mem.wf (move 9).lmem = true ∧ ((move 9).sheafOf 0).spadk ≤ 512) ∧
  ({ move 9 with quads := Tab.put base.quads 0 { Quad.zero with cycle := 9 } }.cycleOf 0 = 9) := by
  refine ⟨?_, ?_, ?_, ?_, ?_, ?_, ?_⟩ <;> decide

theorem wit_PartitionTurns :
  let turn (s : State) (f : Part → Part) : State := { s with dev := { s.dev with parts := s.dev.parts.set 0 (f s.dev.parts[0]) } }
  let s := pooled id
  -- A second virtual device with work and a weight.
  let two (s : State) : State := { s.setHyp 1 rVDCTL 0xA000_0000_0000_0000 with
    sheaves := Tab.put s.sheaves 7 { Sheaf.zero with st := .pending, vd := 1 } }
  let busy := { two s with slot := 0x10_0000 }
  let ending := turn busy fun p => { p with ending := true }
  let log := s.setHyp 0 rLOGCTL 0x8000_0000_0000_0000
  -- A store at its home, whose record has no room in the log.
  let full : State := (log.updVd 0 fun v => { v with moments := [⟨1, base.cur, 0, 0, true⟩] }).updMe fun c => { c with
    out := some ⟨7, stgI, 0, .none, 0, false, .sent, 0x14, [0, 0, 0x14, 0], [], 0, none, 0, 0⟩ }
  let none_ := { s with sheaves := [] }
  let early := turn ((two s).setHyp 0 rVDSCHED 0x8000_0001_0000_1000) fun p => { p with turnSlots := 1 }
  let longer := turn s fun p => { p with turnSlots := 99 }
  let off := { ending with sheaves := (ending.sheaves.map fun e => (e.1, { e.2 with st := .pending })), grains := [], ctxs := [] }
  let late := off.setHyp 0 rLOGCTL 0x8000_0000_0000_0000
  let heavy := ((two longer).setHyp 1 rVDSCHED 0x0000_0001_0000_0000).setHyp 0 rVDSCHED 0
  let soon := s.setHyp 0 rVDSCHED 0x0000_0001_0000_0000
  let long := longer.setHyp 0 rVDSCHED 0x0000_0000_0000_0001
  let held (s : State) : Bool := s.sheaves.any fun e => e.2.vd == 0 && s.occupies e.1 e.2
  let newSlice (s : State) : Bool := decide ((s.part 0).turnStart + ((s.part 0).slices + 1) * s.sliceLen 0 ≤ s.slot)
  ((base.part 0).turnVd = none ∧ (base.part 0).en = false) ∧ (s.part 0).turnVd = some 0 ∧
  (full.logWaits 0 = true ∧ (full.part 0).turnVd = some 0) ∧
  (busy.endable 0 ≠ [] ∧ busy.logWaits 0 = false ∧ (busy.part 0).endSlot ≤ busy.slot ∧ busy.competitor 0 0 = true) ∧
  (heavy.weight 0 = 0 ∧ heavy.outweighed 0 0 = true ∧ heavy.logWaits 0 = false) ∧
  (soon.logWaits 0 = false ∧ soon.competitor 0 0 = false ∧ soon.outweighed 0 0 = false ∧ (soon.part 0).ending = false ∧ newSlice soon = true ∧
    newSlice long = false ∧ long.competitor 0 0 = false ∧ long.outweighed 0 0 = false ∧ long.logWaits 0 = false) ∧
  (let e := turn longer fun p => { p with ending := true }
   e.logWaits 0 = false ∧ (e.part 0).ending = true ∧ e.slot < (e.part 0).endSlot ∧ e.outweighed 0 0 = false) ∧
  ((early.part 0).ending = false ∧ early.competitor 0 0 = true ∧ bit (early.hyp 0 rVDSCHED) 63 = true ∧ (early.vdOf 0).short = false ∧
    (early.part 0).endSlot ≤ early.slot + early.saveSum 0) ∧
  ((mapped.part 0).en = true ∧ (mapped.part 0).turnVd = none ∧ mapped.nextTenant 0 (mapped.part 0).lastVd = some 0) ∧
  ({ mapped with sheaves := [] }.nextTenant 0 none = none) ∧ ((s.part 0).en = true ∧ none_.hasWork 0 0 = false) ∧
  (ending.hasWork 0 0 = true ∧ (ending.part 0).ending = true ∧ held ending = true) ∧
  (off.hasWork 0 0 = true ∧ held off = false ∧ off.choosesSave 0 = false ∧ off.logging 0 = false ∧ held late = false ∧
    late.logging 0 = true ∧ late.hasWork 0 0 = true) ∧
  (s.hasWork 0 0 = true ∧ (s.part 0).endSlot ≤ s.slot) ∧ (longer.slot < (longer.part 0).endSlot ∧ longer.hasWork 0 0 = true) := by
  refine ⟨?_, ?_, ?_, ?_, ?_, ?_, ?_, ?_, ?_, ?_, ?_, ?_, ?_, ?_, ?_⟩ <;> decide +kernel

/-- Base with `ldsync` of word 0 at PC 0, the word full or empty, the context as a function gives it. -/
def syncI : Instr := .ldsync (hd (.g 1)) (.base 2)
def syncing (full det : Bool) (tasks : List TaskReq) (f : Ctx → Ctx) : State :=
  let s := (base.setFe 0 full).updMe f
  { s with
    hbm := Mem.write s.hbm 0 (encode syncI)
    grains := Tab.put s.grains (0, 0) { s.grain with const := Mem.write [] 4088 [0, 1] }
    sheaves := Tab.put s.sheaves 0 { s.sheafOf 0 with det := det, tasks := tasks } }

theorem wit_DeadlockBatchesAndResume :
  let dead := syncing false false [] fun c => { c with wait := .parked 1 }
  let g := dead.groupOf 0
  let req (c : Nat) : TaskReq := ⟨syncI, 0, 0, c, 0, false⟩
  let serve := syncing true true [req 0] fun c => { c with wait := .task }
  let two := { syncing true true [req 1, req 0] fun c => { c with wait := .task } with
    ctxs := [(⟨0, 0, 0⟩, { Ctx.zero with wait := .task }), (⟨0, 0, 1⟩, { Ctx.zero with wait := .task })] }
  let y (s : State) : State := (s.updSheaf 0 fun h => { h with tasks := h.tasks.filter fun x => x != req 0 }).updCtx
    ⟨0, 0, 0⟩ fun x => { x with wait := .granted }
  let left (s : State) : Option Bool := match (y s).prepare ⟨0, 0, 0⟩ with
    | (z, .instr i) => match retry i z with
      | .next u => some (((z.conclude ⟨0, 0, 0⟩ i u).enterLaunch ⟨0, 0, 0⟩ i).requestLeft ⟨0, 0, 0⟩)
      | _ => none
    | _ => none
  let svc := withCtx fun c => { c with hostStop := true }
  let here (s : State) (v : W64) : Option Nat :=
    (s.sheaves.find? fun e => e.2.vd == 0 && e.2.sheafid == bits v 47 0 && e.2.st != .retired).map Prod.fst
  ((base.sheafOf 0).st = .running ∧ (base.ctxs.all fun e => (base.parkedFor e.1 e.2).isSome) = false) ∧
  (g = [0] ∧ (dead.ctxs.map fun e => (e.1, dead.parkedFor e.1 e.2)) = [(⟨0, 0, 0⟩, some 1)] ∧ dead.groupBusy g = false ∧
    dead.tabsOk = true ∧ dead.me.pend = [] ∧ dead.me.out = none ∧ dead.vecBusy dead.cur = false ∧ dead.me.handler = false ∧
    dead.me.dead = false ∧ dead.grain.handler ≠ 0) ∧
  (base.batchReady 0 0 = false ∧ serve.batchReady 0 0 = true ∧ ((serve.sheafOf 0).tasks.filter fun r => r.q == 0) = [req 0]) ∧
  (two.batchReady 0 0 = true ∧ ((two.sheafOf 0).tasks.filter fun r => r.q == 0) = [req 1, req 0] ∧ (req 0).ctx < (req 1).ctx) ∧
  (left serve = some false ∧ left (syncing false true [req 0] fun c => { c with wait := .task }) = some true ∧ isLaunch syncI = false) ∧
  (here svc 0 = some 0 ∧ here svc 5 = none ∧ svc.me.hostStop = true ∧ svc.me.dead = false) := by
  refine ⟨?_, ?_, ?_, ?_, ?_, ?_⟩ <;> decide +kernel

theorem wit_InvalidationsAndPages :
  let q (l : List W64) : State := withVd fun v => { v with inval1 := l }
  let hot := inFlight ldgI (.g 1) .sent 0x10 [0, 0, 0x10, 0] [] 0
  let hot' := hot.updVd 0 fun v => { v with inval1 := [0x8000_0000_0000_0000] }
  let page (u : Bool) (a : Option Nat) (w : List CtxId) : State := { mapped.updVd 0 fun v => { v with
    pages := v.pages.set 63 ⟨u, 0, 0, w, a⟩ } with slot := 5 }
  let waits := ((page true none [base.cur]).updMe fun c => { c with wait := .page, taking := some (⟨0x10, 1, 8, true, false, 0⟩, 4) }).updGrain
    fun g => { g with const := Mem.write [] 4088 [0, 1] }
  let mv (m : PageMove) : State := withVd fun v => { v with move := some m }
  let h : Instr := .cpy (hd .none) (.g 1) (.g 2) (.g 3) (eI .h2l 0 0 0 .raw .raw)
  let ats (aux : Nat) : State := withCtx fun c => { c with out := some ⟨7, h, 0, .none, 0, false, .accepted, 0, [], [], aux, none, 0, 0⟩ }
  let holds := channelled { chanCmd true 0 none with instr := h } false
  let held (s : State) : Bool := ((s.tiles.flatMap fun t => t.2.cmds) ++ s.savedCmds).any fun e => s.vdOfCtx e.ctx == 0 &&
    e.trans.any fun h => (match cpyArgs e.instr with
     | some x => isHost x.kind
     | none => false) && overlaps (vaNat 0) 4096 h.1 h.2.1
  let full := (q (List.replicate 64 0))
  (bit (5 : W64) 63 = false ∧ 4 < bits (5 : W64) 2 0 ∧ bits (4 : W64) 2 0 ≤ 4) ∧
  (64 ≤ (full.vdOf 0).inval1.length ∧ ((q []).vdOf 0).inval1.length < 64) ∧
  (((q [0]).vdOf 0).inval1 = 0 :: [] ∧ (q [0]).invalPassed 0 false (invalRange 0).1 (invalRange 0).2 = true ∧
    (q [0]).combineHeld (invalLine 0 false (invalRange 0).1 (invalRange 0).2) = false) ∧
  (let w := tight (lined base.cur (q [0]))
   (w.vdOf 0).inval1 = 0 :: [] ∧ w.invalPassed 0 false (invalRange 0).1 (invalRange 0).2 = true ∧
     w.combineHeld (invalLine 0 false (invalRange 0).1 (invalRange 0).2) = true) ∧
  ((hot'.vdOf 0).inval1 = 0x8000_0000_0000_0000 :: [] ∧
    hot'.invalPassed 0 false (invalRange 0x8000_0000_0000_0000).1 (invalRange 0x8000_0000_0000_0000).2 = false) ∧
  (Mem.wf mapped.hbm = true ∧ base.ptPlace 0 5 = none ∧ (mapped.ptPlace 0 5).isSome = true) ∧
  (bit (0x8000_0000_0000_0000 : W64) 63 = true ∧ bit (base.ctl 0 rPGSTAT) 63 = false ∧ 2 < bits (0x8000_0000_0000_000C : W64) 4 2 ∧
    bits (0x8000_0000_0000_0008 : W64) 4 2 ≤ 2) ∧
  ((base.vdOf 0).move = none ∧ ((mv ⟨false, 0x1000, [], some (0x10, 3)⟩).vdOf 0).move = some ⟨false, 0x1000, [], some (0x10, 3)⟩) ∧
  (let s := mv ⟨false, 0x1000, [(0, 0x2000, 0)], none⟩
   Mem.wf s.host = true ∧ (s.quads.all fun q => q.2.ulines.isEmpty) = true ∧ s.hbmPoisoned 0x2000 4096 = false) ∧
  (base.vdOfPasid 0 = none ∧ mapped.vdOfPasid 0 = some 0 ∧ (63 : BitVec 9).toNat % 64 = 63) ∧
  ((63 : BitVec 9).toNat / 64 = bits (waits.hyp 0 rVDCTL) 34 32 ∧ ((waits.vdOf 0).pages[(63 : Fin 64)]).used = true ∧
    ((waits.vdOf 0).pages[(63 : Fin 64)]).abandoned = none ∧ ((waits.vdOf 0).pages[(63 : Fin 64)]).waiters = [waits.cur] ∧
    waits.me.wait = .page ∧ waits.me.taking.isSome = true ∧ waits.me.handler = false ∧ waits.grain.handler ≠ 0) ∧
  (((page false none []).vdOf 0).pages[(63 : Fin 64)].used = false) ∧
  (((page true (some 9) []).vdOf 0).pages[(63 : Fin 64)].abandoned = some 9 ∧ (page true (some 9) []).slot < 9) ∧
  (((page true (some 5) []).vdOf 0).pages[(63 : Fin 64)].abandoned = some 5 ∧ 5 ≤ (page true (some 5) []).slot) ∧
  ((ats 1).me.out.map (fun o => (o.aux, o.stage, (cpyArgs o.instr).isSome)) = some (1, .accepted, true) ∧ (ats 1).me.handler = false ∧
    (ats 1).me.pend = [] ∧ (ats 1).vecBusy (ats 1).cur = false ∧ (ats 0).me.out.map (fun o => o.aux) = some 0) ∧ (held holds = true ∧ held base = false) := by
  refine ⟨?_, ?_, ?_, ?_, ?_, ?_, ?_, ?_, ?_, ?_, ?_, ?_, ?_, ?_, ?_, ?_⟩ <;> decide +kernel

theorem wit_HostAccessesAndReset :
  let up := mapped.setMg rBOOTSTAT 0x8400_0000_0000_0000
  let va (s : State) (o : BitVec 20) : W64 := sx (BitVec.ofNat 57 (bits (s.ctl 0 rSIGWBASE) 56 20 * 2 ^ 20 + o.toNat))
  let z (d : Nat) : State := { withVd fun v => { v with zeroing := some (d, [(0x1000, 4096, [])]), usedTiles := [0] } with
    slot := 5, tiles := [(0, { Tile.zero with vd := some 0, acc := Tile.zero.acc.set 63 (.spilled 0 0 false) })] }
  let p := withVd fun v => { v with pages := v.pages.set 3 ⟨true, 0, 0, [base.cur], none⟩ }
  (0x18 % 8 = 0 ∧ 0x19 % 8 ≠ 0 ∧ (4 : Nat) ≠ 8) ∧ (base.bootReady = false ∧ up.bootReady = true) ∧
  ((0x9 : BitVec 20).toNat % 8 ≠ 0 ∧ (0xFFFF8 : BitVec 20).toNat % 8 = 0 ∧
    (match up.gread none 0 (va up 0xFFFF8) 8 with
     | (_, .ok _) => true
     | _ => false) = true) ∧
  (bit (0x2000_0000_0000_0000 : W64) 62 = false ∧ bit (0x4000_0000_0000_0000 : W64) 62 = true) ∧
  ((p.sheafOf 0).vd = 0 ∧ (p.sheafOf 0).st ≠ .retired ∧ ((p.vdOf 0).pages[(3 : Fin 64)]).used = true ∧
    ((p.vdOf 0).pages[(3 : Fin 64)]).abandoned = none) ∧
  ((base.vdOf 0).zeroing = none ∧ ((z 9).vdOf 0).zeroing = some (9, [(0x1000, 4096, [])]) ∧ (z 9).slot < 9) ∧
  (((z 5).vdOf 0).zeroing = some (5, [(0x1000, 4096, [])]) ∧ 5 ≤ (z 5).slot ∧ Mem.wf (z 5).hbm = true ∧ (0 : Nat) ∈ ((z 5).vdOf 0).usedTiles ∧
    ((z 5).tileOf 0).vd = some 0 ∧ (((z 5).tileOf 0).acc[(63 : Fin 64)]).sheaf = some 0 ∧ ((z 5).sheafOf 0).vd = 0) := by
  refine ⟨?_, ?_, ?_, ?_, ?_, ?_, ?_⟩ <;> decide +kernel

theorem wit_KeysResetsAndAttestation :
  let at_ (st : W64) : State := base.setMg rBOOTSTAT st
  let att := (at_ 0x0100_0000_0000_0000).updDev fun d => { d with attest := some (0, List.replicate 8 7) }
  let busy := base.setMg rATTSTAT 0x8000_0000_0000_0000
  ((0 : BitVec 13) = 0 ∧ (8191 : BitVec 13) ≠ 0) ∧
  (bit ((at_ 0x8000_0000_0000_0000).mg rBOOTSTAT) 63 = true ∧ bit (base.mg rBOOTSTAT) 63 = false ∧ bit (base.mg rBOOTSTAT) 62 = false) ∧
  ((3 : BitVec 8).toNat ∈ stageErrors 2 ∧ (5 : BitVec 8).toNat ∉ stageErrors 2 ∧ (0 : BitVec 8).toNat ∈ stageErrors 0 ∧
    stageImages 0 = [0] ∧ stageImages 2 = []) ∧
  ((at_ 0x0200_0000_0000_0000).stageError 3 = 3 ∧ (at_ 0x0200_0000_0000_0000).stageError 0 = 0 ∧
    bits ((at_ 0x0200_0000_0000_0000).mg rBOOTSTAT) 58 56 = 2) ∧
  (base.attUp = false ∧ att.attUp = true ∧ bit (att.mg rATTSTAT) 63 = false ∧ bit (busy.mg rATTSTAT) 63 = true) ∧
  (base.dev.attest = none ∧ att.dev.attest = some (0, List.replicate 8 7) ∧ (List.replicate 8 (7 : W64)).length = 8 ∧
    att.dev.svnMin.length = 6 ∧ Mem.wf att.host = true) ∧
  (base.ctx ⟨0, 0, 1⟩ = none ∧ (base.ctx base.cur).map (fun x => (x.pend, x.out)) = some ([], none) ∧ base.coreOfCtx base.cur < 2 ^ 29) := by
  refine ⟨?_, ?_, ?_, ?_, ?_, ?_, ?_⟩ <;> decide +kernel

theorem wit_OperatingPointsAndSlewLimit :
  let quad (f : Quad → Quad) : State := { base.updQuad 0 f with slot := 2 ^ 31 }
  let w (s : State) : Nat := min (s.quadReq 0) (min (s.quadOf 0).thermCeil (s.quadOf 0).capCeil)
  let ask (k : Nat) (f : Quad → Quad) : State := { (withGrain fun g => { g with pwrReq := k }).updQuad 0 f with slot := 2 ^ 31 }
  let p (s : State) (d : Duty) : State := { (s.updTile 0 fun t => { t with duty := d }) with
    dev := { s.dev with parts := s.dev.parts.set 0 { Part.zero with clus0 := 1, ctl := 0x8000_0000_0000_1000 } } }
  let busy (d : Duty) : State := p ((withCmd (cmd (.mma (hd .none) (mk .bf16 .bf16)) 1 true none))) d
  let mayUp (s : State) : Bool := !s.opOver 0 && firstWaiting (s.tilePart 0).lastUp ((s.partTiles 0).filter s.wantsUp) == some 0 &&
    decide (s.slewSum 0 Duty.rising + rampWeight (s.rampOf 0) ≤ (s.tilePart 0).slew)
  let mayDown (s : State) : Bool := !s.opOver 0 && firstWaiting (s.tilePart 0).lastDown ((s.partTiles 0).filter s.wantsDown) == some 0 &&
    decide (s.slewSum 0 Duty.falling + rampWeight (s.rampOf 0) ≤ (s.tilePart 0).slew)
  ((quad fun q => { q with phase := 1 }).quadOf 0).phase ≠ 0 ∧
  (((ask 3 id).quadOf 0).phase = 0 ∧ ((ask 3 id).quadOf 0).point < w (ask 3 id)) ∧
  (w (ask 3 fun q => { q with point := 7 }) < ((ask 3 fun q => { q with point := 7 }).quadOf 0).point) ∧
  ((quad fun q => { q with phase := 1, phaseEnd := 2 ^ 32 }).slot < 2 ^ 32 ∧
    ((quad fun q => { q with phase := 3, phaseEnd := 2 ^ 31 }).quadOf 0).phaseEnd ≤ 2 ^ 31) ∧
  (((quad fun q => { q with newGuard := 20 }).quadOf 0).newGuard ≠ 0 ∧ (0 : Nat) + 2 ^ 31 ≤ (quad id).slot ∧
    ((quad fun q => { q with newGuard := 20 }).quadOf 0).supply < pointMv.getD 0 620 + 20 ∧
    ¬ ((quad fun q => { q with guard := 20, newGuard := 5, supply := 420 }).quadOf 0).supply < pointMv.getD 0 620 + 5) ∧
  (base.bootStage ≠ 4 ∧ base.slot < base.dev.lastAge + 2 ^ 38 ∧ (base.setMg rBOOTSTAT 0x0400_0000_0000_0000).bootStage = 4) ∧
  (mayUp base = false ∧ mayUp (busy .rest) = true ∧ mayUp (busy (.hold 7)) = true ∧ mayUp (busy (.hold 0)) = true) ∧
  (mayDown base = false ∧ mayDown (p base .full) = true ∧ mayDown (p base (.hold 0)) = true ∧ mayDown (p base (.hold 7)) = true) ∧
  ((p base (.up 7 4)).tileCycle 0 < 4 ∧ 0 ≤ (p base (.up 7 0)).tileCycle 0 ∧ (p base (.up 7 0)).arrayWork 0 = false ∧
    (busy (.up 7 0)).arrayWork 0 = true ∧ (busy (.up 7 0)).opOver 0 = false ∧
    ((busy (.up 7 0)).updTile 0 fun t => { t with run := some ⟨0, 0, 0, 0⟩ }).opOver 0 = true) := by
  refine ⟨?_, ?_, ?_, ?_, ?_, ?_, ?_, ?_, ?_⟩ <;> decide +kernel

theorem wit_PowerRegistersAndLimits :
  let part (n : Fin 8) (ctl : W64) (s : State) : State := { s with dev := { s.dev with parts := s.dev.parts.set n { Part.zero with clus0 := 1, ctl := ctl } } }
  let two := part 1 0x8000_0000_0000_1000 (part 0 0x1000 base)
  let clash (s : State) (n : Fin 8) : Bool := (List.finRange 8).any fun m => m != n && (s.part m).en &&
    (((s.part m).clus0 &&& (s.part n).clus0) != 0 || ((s.part m).clus1 &&& (s.part n).clus1) != 0)
  let warm : State := { { base with quads := [(0, { Quad.zero with thermCeil := 5 })], slot := 20000 } with
    dev := base.dev.setMg rTHERMLIM 100 }
  let cap (c avg : Nat) : State := { { two with quads := [(0, Quad.zero)], slot := 200000 } with
    dev := (two.dev.setMg rPWRCAP (BitVec.ofNat 64 c)).setMg rPWRSTAT (BitVec.ofNat 64 (avg * 2 ^ 32)) }
  let avgOf (s : State) : Nat := bits (s.mg rPWRSTAT) 47 32
  let capOf (s : State) : Nat := bits (s.mg rPWRCAP) 15 0
  let lone := { warm with grains := (List.range 8).map fun i => ((0, i), { Grain.zero with core := i }) }
  clash two 0 = true ∧ clash base 0 = false ∧ (rampOk 0 = false ∧ rampOk 0x8765_4321 = true) ∧
  (bits (0x1_0000_0001 : W64) 31 0 ≠ 0 ∧ bits (0x1_0000_0001 : W64) 50 48 = bits (base.hyp 0 rVDSCHED) 50 48 ∧
    bits (0x1_0000_0000_0001 : W64) 50 48 ≠ bits (base.hyp 0 rVDSCHED) 50 48 ∧ base.hasPlaced 0 = true) ∧
  (base.slot < base.dev.lastTherm + 20000 ∧ warm.dev.lastTherm + 20000 ≤ warm.slot ∧ 125 < 126 ∧ bits (warm.mg rTHERMLIM) 7 0 = 100) ∧
  ((warm.quads.map Prod.fst).Nodup ∧ Tab.find warm.quads 0 = some { Quad.zero with thermCeil := 5 } ∧
    Tab.find [((0 : Nat), 95), (1, 95), (2, 95), (3, 95)] 3 = some 95) ∧
  ((warm.grainAt 0).map (fun e => e.2.moving) = some false ∧ warm.idleFor 0 = some 1 ∧ warm.tabsOk = true) ∧
  ((lone.grainAt 0).map (fun e => e.2.moving) = some false ∧ lone.idleFor 0 = none) ∧
  (base.slot < base.dev.lastAvg + 2000000 ∧ { base with slot := 2000000 }.dev.lastAvg + 2000000 ≤ 2000000) ∧
  (base.slot < base.dev.lastCap + 200000 ∧ (cap 0 0).dev.lastCap + 200000 ≤ (cap 0 0).slot ∧
    ((List.finRange 8).all fun n => !(cap 0 0).overShare n) = true ∧ ((cap 0 0).quads.map Prod.fst).Nodup) ∧
  (capOf (cap 0 0) = 0 ∧ avgOf (cap 100 94) * 100 < capOf (cap 100 94) * 95) ∧
  (avgOf (cap 100 95) ≤ capOf (cap 100 95) ∧ capOf (cap 100 95) * 95 ≤ avgOf (cap 100 95) * 100) ∧
  (capOf (cap 100 101) < avgOf (cap 100 101)) := by
  refine ⟨?_, ?_, ?_, ?_, ?_, ?_, ?_, ?_, ?_, ?_, ?_, ?_, ?_⟩ <;> decide +kernel

theorem wit_DecodeOfEncode :
  (Instr.nop (hd .none)).wellFormed = true ∧ (copyI .bf16).wellFormed = true ∧ (encode (copyI .bf16)).length = 16 := by decide

theorem wit_DecodedIsWellFormed : decode (toBytes 16 0x0000002200000374) = .ok (.nop (hd .none), 8) := by decide

/-- A state whose next step fetches a word, one that fetches an illegal word, and one whose page is not mapped. -/
def fetching (nbits w : Nat) (pc : W64) : State := (State.reset.withFetchWord nbits w).updCtx fetchCtx fun x => { x with pc := pc }

theorem wit_StepRunsDecodedInstruction :
  let s := fetching 64 0x0000002200000374 0
  let bad := fetching 64 0x0001000C00000004 0
  let far := fetching 64 0 0x1000
  let ok (s : State) : Bool := match s.ctx fetchCtx with
    | some x => s.sched == [.issue fetchCtx] && !s.dev.halted && s.live fetchCtx x && !x.mustResume && x.taking.isNone &&
        x.deferred.isEmpty && s.mayIssue fetchCtx x
    | none => false
  let got (s : State) (pc : W64) : Option (Except DecodeError (Instr × Nat)) :=
    match (({ s with sched := [], cur := fetchCtx } : State).lowerFirst fetchCtx).fetchBlock fetchCtx pc with
    | (_, .ok bs) => some (decode bs)
    | _ => none
  ok s = true ∧ ok bad = true ∧ ok far = true ∧ got s 0 = some (.ok (.nop (hd .none), 8)) ∧
  got bad 0 = some (.error ⟨.illegalInstruction, 8⟩) ∧ got far 0x1000 = none ∧
  ((s.ctxsOf 0 0).all fun e => !decide (e.1.ctx < fetchCtx.ctx) || e.2.lastIssue != s.cycleOf (s.coreOfCtx fetchCtx / 4)) = true ∧
  (s.sheafOf 0).debug = false ∧ bit (s.ctl 0 rTRCTL) 63 = false := by decide

theorem wit_StepKeepsMemoryCanonical :
  let s := fetching 64 0x0000002200000374 0
  s.memOk = true ∧ ∃ t, step s = .next t ∧ t.me.pc = 8 := ⟨by decide, _, rfl, by decide⟩

theorem wit_StepKeepsTablesDistinct :
  let s := fetching 64 0x0000002200000374 0
  s.tabsOk = true ∧ ∃ t, step s = .next t ∧ t.me.issued = 1 := ⟨by decide, _, rfl, by decide⟩
/-! ### The spec's worked examples -/

/-- 10 R260: DOMMASK of grain 13 of a sheaf of 16 grains with L1 = 4 and L3 = 8, and its nine domains. -/
theorem test_dommask :
  let h : Sheaf := { Sheaf.zero with record := Mem.write (Mem.write [] 0x18 (toBytes 8 16)) 0x20 (toBytes 8 (4 + 8 * 2 ^ 32)) }
  h.dommask 13 = 0x8000_8002_8004_8008 ∧ h.domCount = 9 := by decide

/-- 12 R302: the stack of 0x12_3456_7A40. -/
theorem test_stack : stackOf 0x12_3456_7A40 = 4 := by decide +kernel

/-- 12 R305: the indices of 0x0000_7F80_4020_3A40. -/
theorem test_walk_indices : (List.range 5).map (walkIndex 0x0000_7F80_4020_3A40) = [3, 1, 1, 0xFF, 0] := by decide

/-- 03 R88 to R91: one BF16 block adds 2.2578125 to 1.0, inexact in its alignment only. -/
theorem test_bf16_block :
  accBlock 0x3F80_0000 ⟨.bf16, [0x3FC0, 0xBE80, 0x3C01] ++ List.replicate 29 0, 0⟩ ⟨.bf16, [0x4000, 0x4040, 0x3F80] ++ List.replicate 29 0, 0⟩ =
    (0x4050_8000, fNX) := by decide +kernel

/-- The FP32 block of 03's example, as a source of bytes. -/
def kbSource : Reader := fun _ b => ([0, 0, 0x40, 0x40, 0, 0, 0, 0xBF, 0, 0, 0xA0, 0x3C, 0, 0, 0xE0, 0x3F] : List Byte).getD b 0
def kbConv (rm : Rm) : Conv := ⟨⟨.fp32, 0, 32, 1⟩, ⟨.kb8, 0, 32, 1⟩, rm, 0x5EED_0000⟩

/-- 03 R84 to R87: one FP32 block into KB8 under RNE. -/
theorem test_kb8_rne : ([0, 1, 2, 3, 4, 31, 992, 1023].map fun b => ((kbConv .rne).byte kbSource 0 b).1) =
  [some 0x60, some 0xF0, some 1, some 0x38, some 0, some 0, some 0x80, some 0] ∧ ((kbConv .rne).byte kbSource 0 2).2 = fNX := by decide +kernel

/-- 03 R84 to R87: and under SR, where byte 2 is zero and UF is gained. -/
theorem test_kb8_sr : ([0, 1, 2, 3].map fun b => ((kbConv .sr).byte kbSource 0 b).1) = [some 0x60, some 0xF0, some 0, some 0x38] ∧
  ((kbConv .sr).byte kbSource 0 2).2 = fNX ||| fUF := by decide +kernel

/-- 04 R103: `bext g1, g2, 8, 4` gives bits [11:8] of g2. -/
theorem test_bext : (after (.bext (hd (.g 1)) (.g 2) (.imm (8 + 256 * 4))) (withG 2 0xABCD)).me.g[1] = 0xB := by decide

/-- 06 R175: the tree adds 1.0 and three times 2^-24. -/
theorem test_tree : reduceV .f32 0 [0x3F80_0000, 0x3380_0000, 0x3380_0000, 0x3380_0000] = (0x3F80_0001, fNX) := by decide +kernel
end Sys2Proof.Tests
end

section
/-! The words that the spec writes out (02 R48 to R64). -/

namespace Sys2Proof.Proofs
open Sys2Proof.Machine
/-- Settles O54: the words are literals, and the decoder is evaluated on each of them. -/
theorem knownWordsDecode : Obligations.KnownWordsDecode := by
  dsimp only [Obligations.KnownWordsDecode]
  and_intros
  all_goals decide
end Sys2Proof.Proofs
end

section
/-! Context registers, device registers and the write of pending results (01 R38; 08 R229, R230). -/

namespace Sys2Proof.Proofs

open Sys2Proof.Machine Sys2Proof.Laws

/-! ### Instructions that end in a result of class S or N -/

theorem givesS_of_doneS {i : Instr} {s : State} {h : Head} {v : W64} {code : Nat × Nat} (hr : s.runs h = true)
    (hc : opFn i = some code) (hx : exec i s = issue h 8 s (s.doneS h 8 v)) : GivesS i s h v 8 code :=
  ⟨hc, _, hx.trans (issue_runs hr _ _), doneS_writes (runs_lives hr) h 8 v 0⟩

theorem givesN_of_doneN {i : Instr} {s u : State} {h : Head} {code : Nat × Nat} (hr : s.runs h = true) (hu : u.lives = true)
    (hc : opFn i = some code) (hx : exec i s = issue h 8 s (u.doneN 8)) : GivesN i s u 8 code :=
  ⟨hc, _, hx.trans (issue_runs hr _ _), doneN_issues hu 8⟩

theorem updMe_lives (s : State) (f : Ctx → Ctx) : (s.updMe f).lives = s.lives := updMe_isSome s f

/-! ### Numbers of context registers (R38) -/

theorem regAt_at (base : Nat) {count : Nat} (i : Fin count) : regAt (base + i.val) base count = some i := by
  simp [regAt, fin?]

theorem regAt_out {n base count : Nat} (h : n < base ∨ base + count ≤ n) : regAt n base count = none := by
  simp only [regAt, fin?]
  split_ifs
  · omega
  · rfl
  · rfl

section
variable (s : State)

theorem sysreg_as (i : Fin 8) : s.sysreg (0x010 + i.val) = some s.me.as_[i] := by
  simp only [State.sysreg, regAt_at]

theorem sysreg_ls (j : Fin 4) : s.sysreg (0x020 + j.val) = some s.me.ls[j] := by
  have h0 : regAt (0x020 + j.val) 0x010 8 = none := regAt_out (by omega)
  simp only [State.sysreg, regAt_at, h0]

theorem sysreg_le (j : Fin 4) : s.sysreg (0x024 + j.val) = some s.me.le[j] := by
  have h0 : regAt (0x024 + j.val) 0x010 8 = none := regAt_out (by omega)
  have h1 : regAt (0x024 + j.val) 0x020 4 = none := regAt_out (by omega)
  simp only [State.sysreg, regAt_at, h0, h1]

theorem sysreg_lc (j : Fin 4) : s.sysreg (0x028 + j.val) = some (s.me.lc[j].setWidth 64) := by
  have h0 : regAt (0x028 + j.val) 0x010 8 = none := regAt_out (by omega)
  have h1 : regAt (0x028 + j.val) 0x020 4 = none := regAt_out (by omega)
  have h2 : regAt (0x028 + j.val) 0x024 4 = none := regAt_out (by omega)
  simp only [State.sysreg, regAt_at, h0, h1, h2, zx]

theorem sysreg_lfsr (l : Fin 64) : s.sysreg (0x100 + l.val) = some (s.me.lfsr[l].setWidth 64) := by
  have h0 : regAt (0x100 + l.val) 0x010 8 = none := regAt_out (by omega)
  have h1 : regAt (0x100 + l.val) 0x020 4 = none := regAt_out (by omega)
  have h2 : regAt (0x100 + l.val) 0x024 4 = none := regAt_out (by omega)
  have h3 : regAt (0x100 + l.val) 0x028 4 = none := regAt_out (by omega)
  simp only [State.sysreg, regAt_at, h0, h1, h2, h3, zx]

end

section
variable (x : Ctx) (v : W64)

theorem writeReg_as (i : Fin 8) : x.writeReg (0x010 + i.val) v = some { x with as_ := x.as_.set i v } := by
  simp only [Ctx.writeReg, regAt_at]

theorem writeReg_ls (j : Fin 4) : x.writeReg (0x020 + j.val) v = some { x with ls := x.ls.set j (addrField v) } := by
  have h0 : regAt (0x020 + j.val) 0x010 8 = none := regAt_out (by omega)
  simp only [Ctx.writeReg, regAt_at, h0]

theorem writeReg_le (j : Fin 4) : x.writeReg (0x024 + j.val) v = some { x with le := x.le.set j (addrField v) } := by
  have h0 : regAt (0x024 + j.val) 0x010 8 = none := regAt_out (by omega)
  have h1 : regAt (0x024 + j.val) 0x020 4 = none := regAt_out (by omega)
  simp only [Ctx.writeReg, regAt_at, h0, h1]

theorem writeReg_lc (j : Fin 4) : x.writeReg (0x028 + j.val) v = some { x with lc := x.lc.set j (v.setWidth 32) } := by
  have h0 : regAt (0x028 + j.val) 0x010 8 = none := regAt_out (by omega)
  have h1 : regAt (0x028 + j.val) 0x020 4 = none := regAt_out (by omega)
  have h2 : regAt (0x028 + j.val) 0x024 4 = none := regAt_out (by omega)
  simp only [Ctx.writeReg, regAt_at, h0, h1, h2]

theorem writeReg_lfsr (l : Fin 64) : x.writeReg (0x100 + l.val) v =
    if v.setWidth 32 = (0 : W32) then none else some { x with lfsr := x.lfsr.set l (v.setWidth 32) } := by
  have h0 : regAt (0x100 + l.val) 0x010 8 = none := regAt_out (by omega)
  have h1 : regAt (0x100 + l.val) 0x020 4 = none := regAt_out (by omega)
  have h2 : regAt (0x100 + l.val) 0x024 4 = none := regAt_out (by omega)
  have h3 : regAt (0x100 + l.val) 0x028 4 = none := regAt_out (by omega)
  simp only [Ctx.writeReg, regAt_at, h0, h1, h2, h3]

theorem writeReg_depth : x.writeReg 0x02C v = if 4 < bits v 2 0 then none else some { x with depth := bits v 2 0 } := rfl

theorem writeReg_vl : x.writeReg 0x030 v =
    if bits v 7 0 = 0 ∨ 128 < bits v 7 0 then none else some { x with vl := bits v 7 0 } := rfl

end

/-! ### `srd` and `swr` (R229) -/

section
variable {s : State} {h : Head} (hr : s.runs h = true) {n : BitVec 9}
include hr

theorem srd_reads {w : W64} (hn : s.sysreg n.toNat = some w) : GivesS (.srd h n) s h w 8 (0x3E, 4) :=
  givesS_of_doneS hr rfl (by simp only [exec_srd, execSrd, hn])

theorem swr_writes {a : Src} {w : W64} {y : Ctx} (hn : s.sysreg n.toNat = some w)
    (hw : s.me.writeReg n.toNat (s.src 1 a) = some y) : GivesN (.swr h n a) s (s.updMe fun _ => y) 8 (0x3E, 5) :=
  givesN_of_doneN hr ((updMe_lives s _).trans (runs_lives hr)) rfl (by simp only [exec_swr, execSwr, hn, hw])

theorem swr_refuses {a : Src} {w : W64} (hn : s.sysreg n.toNat = some w) (hw : s.me.writeReg n.toNat (s.src 1 a) = none) :
    exec (.swr h n a) s = .next (s.exact Cause.sysregValue 1) := by
  simp only [exec_swr, execSwr, hn, hw, issue_runs hr]

theorem srd_unknown (hn : s.sysreg n.toNat = none) : exec (.srd h n) s = .next (s.exact Cause.sysregNumber 1) := by
  simp only [exec_srd, execSrd, hn, issue_runs hr]

theorem swr_unknown (a : Src) (hn : s.sysreg n.toNat = none) :
    exec (.swr h n a) s = .next (s.exact Cause.sysregNumber 1) := by
  simp only [exec_swr, execSwr, hn, issue_runs hr]

/-- A register that takes every value: its read, and its write. -/
theorem register_plain {a : Src} {k : Nat} {w : W64} {y : Ctx} (e : n.toNat = k) (hn : s.sysreg k = some w)
    (hw : s.me.writeReg k (s.src 1 a) = some y) :
    GivesS (.srd h n) s h w 8 (0x3E, 4) ∧ GivesN (.swr h n a) s (s.updMe fun _ => y) 8 (0x3E, 5) := by
  subst e
  exact ⟨srd_reads hr hn, swr_writes hr hn hw⟩

/-- A register that refuses some values: its read, the refusal, and the write of any other value. -/
theorem register_checked {a : Src} {k : Nat} {w : W64} {y : Ctx} {bad : Prop} [Decidable bad] (e : n.toNat = k)
    (hn : s.sysreg k = some w) (hw : s.me.writeReg k (s.src 1 a) = if bad then none else some y) :
    GivesS (.srd h n) s h w 8 (0x3E, 4) ∧ (bad → exec (.swr h n a) s = .next (s.exact Cause.sysregValue 1)) ∧
      (¬ bad → GivesN (.swr h n a) s (s.updMe fun _ => y) 8 (0x3E, 5)) := by
  subst e
  exact ⟨srd_reads hr hn, fun hb => swr_refuses hr hn (hw.trans (if_pos hb)),
    fun hb => swr_writes hr hn (hw.trans (if_neg hb))⟩

end

/-! ### `srs.rd` and `srs.wr` (R230) -/

/-- A bank's part of a write of BANKPWRk touches no context. -/
theorem bankWrite_ctxs (s : State) (core bank code : Nat) :
    (s.bankWrite core bank code).cur = s.cur ∧ (s.bankWrite core bank code).ctxs = s.ctxs := by
  unfold State.bankWrite
  dsimp only
  split_ifs <;> exact ⟨rfl, rfl⟩

theorem bankpwrWrite_lives (s : State) (core k : Nat) (v : W64) : (s.bankpwrWrite core k v).lives = s.lives := by
  have key : ∀ (l : List Nat) (s : State), ((l.foldl (fun s j =>
      s.bankWrite core (32 * k + j) (bits v (2 * j + 1) (2 * j))) s).lives = s.lives) := by
    intro l
    induction l with
    | nil => exact fun _ => rfl
    | cons j l ih =>
      intro s
      obtain ⟨hc, hx⟩ := bankWrite_ctxs s core (32 * k + j) (bits v (2 * j + 1) (2 * j))
      rw [List.foldl_cons, ih]
      simp only [State.lives, State.ctx, hc, hx]
  exact key _ s

section
variable {s : State} {u : W64} {n : BitVec 16}

theorem devReg_unselected (hu : ¬ (bits u 63 15 = 0 ∧ bits u 11 0 < s.sheaf.vtiles)) : s.devReg u n.toNat = .bad 2 := by
  unfold State.devReg
  rw [if_pos (by omega)]

variable (hu : bits u 63 15 = 0 ∧ bits u 11 0 < s.sheaf.vtiles)
include hu

theorem devReg_bank {k : Fin 8} (e : n.toNat = 0x0100 + k.val) : s.devReg u n.toNat =
    .bank (s.physCore (s.cur.sheaf, bits u 11 0) (4 * bits u 12 12 + bits u 14 13)) k.val := by
  unfold State.devReg
  rw [if_neg (by omega), if_pos (by omega), e, Nat.add_sub_cancel_left]

/-- An entry of plane 0, whose tables start at 0x4000. -/
theorem devReg_plane0 {port slot : Nat} (h0 : bits u 14 12 = 0) (hp : port < 5) (hs : slot < s.wheel) (hw : s.wheel ≤ 0x400)
    (e : n.toNat = 0x4000 + 0x400 * port + slot) : s.devReg u n.toNat =
    .entry 0 (router (tileX (s.sheaf.tile (bits u 11 0))) (tileY (s.sheaf.tile (bits u 11 0)))) port slot := by
  have hq : (n.toNat - 0x4000) / 0x400 = port := by omega
  have hm : (n.toNat - 0x4000) % 0x400 = slot := by omega
  unfold State.devReg
  rw [if_neg (by omega), if_neg (by omega), if_pos (by omega), if_neg (by simp [h0]), hq, hm]

/-- An entry of plane 1, whose tables start at 0x6000. -/
theorem devReg_plane1 {port slot : Nat} (h0 : bits u 14 12 = 0) (hp : port < 5) (hs : slot < 0x100)
    (e : n.toNat = 0x6000 + 0x100 * port + slot) : s.devReg u n.toNat =
    .entry 1 (router (tileX (s.sheaf.tile (bits u 11 0))) (tileY (s.sheaf.tile (bits u 11 0)))) port slot := by
  have hq : (n.toNat - 0x6000) / 0x100 = port := by omega
  have hm : (n.toNat - 0x6000) % 0x100 = slot := by omega
  unfold State.devReg
  rw [if_neg (by omega), if_neg (by omega), if_neg (by omega), if_pos (by omega), if_neg (by simp [h0]), hq, hm]

theorem devReg_unknown (e : n.toNat < 0x0100 ∨ (0x0108 ≤ n.toNat ∧ n.toNat < 0x4000) ∨ 0x6500 ≤ n.toNat) :
    s.devReg u n.toNat = .bad 1 := by
  unfold State.devReg
  rw [if_neg (by omega), if_neg (by omega), if_neg (by omega), if_neg (by omega)]

end

/-- From `s` to `t` an `srs.rd` has issued whose answer is to be `v`: its result waits for its own step (entry 72). -/
def answersWith (h : Head) (s t : State) (v : W64) : Prop :=
  t.me = { issuedAs s.me t.me with q := qWith s.me h.dst s.me.q[15] } ∧ onlyCtx s.cur s t ∧ sameMem s t ∧
    ∃ p, t.me.pend.getLast? = some p ∧ p.tag = s.freeN + 1 ∧ p.due = none ∧ p.val = some v ∧ p.g = dstReg h.dst

theorem reserve_answers {s : State} (hl : s.lives = true) (h : Head) (v : W64) : answersWith h s
    (s.updMe fun c => ((c.tally s.cycle).reserve h (s.freeN + 1) none (some v) 0).next 8).fresh v := by
  obtain ⟨regs, -, -, -, frame, mem⟩ := reserved_writes hl h 8 (s.freeN + 1) none (some v) 0
  obtain ⟨p, hlast, htag, hg, -, -, -, hdue, hval, -⟩ :=
    reserve_last (s.me.tally s.cycle) h (s.freeN + 1) none (some v) 0
  refine ⟨regs, frame, mem, p, ?_, htag, hdue, hval, hg⟩
  rw [fresh_me, updMe_me s _ hl, next_only]
  exact hlast

section
variable {s : State} {h : Head} (hr : s.runs h = true) {a b : Src} {n : BitVec 16}
include hr

theorem srs_unprivileged (hs : s.sheaf.sys = false) : exec (.srsRd h a n) s = .next (s.exact Cause.privilege 1) ∧
    exec (.srsWr h a b n) s = .next (s.exact Cause.privilege 1) := by
  simp [execSrsRd, execSrsWr, issue_runs hr, hs]

variable (hs : s.sheaf.sys = true)
include hs

theorem srs_bad {d : Nat} (hd : s.devReg (s.src 1 a) n.toNat = .bad d) :
    exec (.srsRd h a n) s = .next (s.exact Cause.sysregNumber d) ∧
      exec (.srsWr h a b n) s = .next (s.exact Cause.sysregNumber d) := by
  simp [execSrsRd, execSrsWr, issue_runs hr, hs, hd]

theorem srs_bank {core : Nat} {k : Fin 8} (hd : s.devReg (s.src 1 a) n.toNat = .bank core k.val) :
    (∃ t, exec (.srsRd h a n) s = .next t ∧ answersWith h s t (s.coreOf core).bankpwr[k]) ∧
      GivesN (.srsWr h a b n) s (s.bankpwrWrite core k.val (s.src 2 b)) 8 (0x3E, 7) := by
  have hl := runs_lives hr
  refine ⟨⟨_, ?_, reserve_answers hl h _⟩, givesN_of_doneN hr ((bankpwrWrite_lives s _ _ _).trans hl) rfl ?_⟩
  · simp [execSrsRd, issue_runs hr, hs, hd]
  · simp [execSrsWr, hs, hd]

theorem srs_entry {plane r port slot : Nat} (hd : s.devReg (s.src 1 a) n.toNat = .entry plane r port slot) :
    (∃ t, exec (.srsRd h a n) s = .next t ∧ answersWith h s t (s.slotEntry plane r port slot)) ∧
      GivesN (.srsWr h a b n) s s 8 (0x3E, 7) := by
  have hl := runs_lives hr
  refine ⟨⟨_, ?_, reserve_answers hl h _⟩, givesN_of_doneN hr hl rfl ?_⟩
  · simp [execSrsRd, issue_runs hr, hs, hd]
  · simp [execSrsWr, hs, hd]

end

/-! ### The write of a pending result (R18, R19, R96) -/

theorem writeResult_q (x : Ctx) (n : Nat) (p : Pend) (v : W64) (i : Fin 16) :
    (x.writeResult n p v).q[i] = if p.age = i.val + 1 then v else x.q[i] := by
  have hi := i.isLt
  have hq : (x.writeResult n p v).q =
      if h : 0 < p.age ∧ p.age ≤ 16 then x.q.set (p.age - 1) v (by omega) else x.q := rfl
  rw [hq]
  by_cases he : p.age = i.val + 1
  · rw [if_pos he, dif_pos (by omega)]
    simp [he]
  · rw [if_neg he]
    split_ifs with hage
    · exact Vector.getElem_set_ne _ hi (by omega)
    · rfl

theorem writeResult_g (x : Ctx) (n : Nat) (p : Pend) (v : W64) (hc : p.clobber = false) (i : Fin 16) :
    (x.writeResult n p v).g[i] = if p.g = some i then v else x.g[i] := by
  obtain ⟨tag, age, g, la, dist, due, val, flags, clobber⟩ := p
  subst hc
  cases g with
  | none => rfl
  | some j =>
    have hg : (x.writeResult n ⟨tag, age, some j, la, dist, due, val, flags, false⟩ v).g = x.g.set j v := rfl
    rw [hg]
    simp [Vector.getElem_set, Fin.ext_iff]

/-- The state after the write of a pending result. -/
def written (s : State) (c : CtxId) (p : Pend) : State :=
  (s.updCtx c fun x => x.writeResult s.freeN p (p.value s.freeN)).fresh

theorem written_ctx {s : State} {c : CtxId} {x : Ctx} (p : Pend) (hx : s.ctx c = some x) :
    (written s c p).ctx c = some (x.writeResult s.freeN p (p.value s.freeN)) := by
  simp [written, hx]

/-- What the write of a pending result changes: the result's places in its own context. -/
theorem written_result {s : State} {c : CtxId} {x : Ctx} (p : Pend) (hx : s.ctx c = some x) :
    (∀ w, p.val = some w → p.value s.freeN = w) ∧
    (∃ y, (written s c p).ctx c = some y ∧
      y = { x with g := y.g, q := y.q, pend := x.pend.erase p, aflags := x.aflags ||| p.flags } ∧
      (p.clobber = false → ∀ n : Fin 16, y.g[n] = if p.g = some n then p.value s.freeN else x.g[n]) ∧
      ∀ n : Fin 16, y.q[n] = if p.age = n.val + 1 then p.value s.freeN else x.q[n]) ∧
    (∀ d, d ≠ c → (written s c p).ctx d = s.ctx d) ∧ sameMem s (written s c p) :=
  ⟨fun w hw => by simp [Pend.value, hw], ⟨_, written_ctx p hx, rfl, writeResult_g x _ p _, writeResult_q x _ p _⟩,
    fun _ hd => updCtx_ctx_ne s _ hd, fun _ => ⟨rfl, rfl, rfl, rfl, rfl, rfl⟩⟩

section
variable {s : State} {c : CtxId} {k : Nat} {x : Ctx} {p : Pend} (hx : s.ctx c = some x) (hp : x.pend[k]? = some p)
include hx hp

theorem srsRdAnswer_writes (ht : p.tag ≠ 0) (hd : p.due = none) (hv : p.val.isSome = true) :
    exec (.srsRdAnswer c k) s = .next (written s c p) := by
  simp [execSrsRdAnswer, State.srsAnswer, hx, hp, ht, hd, hv, written]

theorem srsRdAnswer_other (ht : p.tag = 0) : exec (.srsRdAnswer c k) s = .next s := by
  simp [execSrsRdAnswer, State.srsAnswer, hx, hp, ht]

theorem pendingResultWrite_writes {d : Nat} (hd : p.due = some d) (hle : d ≤ s.cycleOfCtx c) :
    exec (.pendingResultWrite c k) s = .next (written s c p) := by
  simp [execPendingResultWrite, State.resultWrite, State.dueResult, hx, hp, hd, hle, written]

theorem pendingResultWrite_early {d : Nat} (hd : p.due = some d) (hlt : s.cycleOfCtx c < d) :
    exec (.pendingResultWrite c k) s = .next s := by
  simp [execPendingResultWrite, State.resultWrite, State.dueResult, hx, hp, hd, Nat.not_le.mpr hlt]

end

/-- Settles O40: each register number is one of `register_plain` and `register_checked`, each place of a device register one
answer of `State.devReg`, and both steps that write a pending result lead to `written`. -/
theorem specialRegisters : Obligations.SpecialRegisters := by
  refine ⟨fun s h a n i j l hr => ?_, fun s h ra rb n hr => ?_, fun s c k x p hx hp => ?_⟩
  · have plain {k w y} e := register_plain (n := n) (a := a) (k := k) (w := w) (y := y) hr e
    have checked {k w y bad} [Decidable bad] e :=
      register_checked (n := n) (a := a) (k := k) (w := w) (y := y) (bad := bad) hr e
    refine ⟨fun e => plain e (sysreg_as s i) (writeReg_as s.me _ i), fun e => plain e (sysreg_ls s j) (writeReg_ls s.me _ j),
      fun e => plain e (sysreg_le s j) (writeReg_le s.me _ j), fun e => plain e (sysreg_lc s j) (writeReg_lc s.me _ j),
      fun e => checked e (sysreg_lfsr s l) (writeReg_lfsr s.me _ l), fun e => ?_, fun e => ?_,
      fun e => plain e rfl rfl, fun e => plain e rfl rfl, fun e => plain e rfl rfl, fun e => plain e rfl rfl,
      fun e => plain e rfl rfl, fun e => plain e rfl rfl, fun e => plain e rfl rfl, fun e => plain e rfl rfl,
      fun e => plain e rfl rfl, fun e => plain e rfl rfl, fun e => plain e rfl rfl, fun e => plain e rfl rfl,
      fun e => ⟨srd_unknown hr e, swr_unknown hr a e⟩⟩
    · obtain ⟨reads, refuses, writes⟩ := checked e rfl (writeReg_depth s.me _)
      exact ⟨reads, refuses, fun hle => writes (Nat.not_lt.mpr hle)⟩
    · obtain ⟨reads, refuses, writes⟩ := checked e rfl (writeReg_vl s.me _)
      exact ⟨reads, refuses, fun h0 hle => writes (by omega)⟩
  · exact ⟨srs_unprivileged hr, fun hs => ⟨fun hsel => srs_bad hr hs (devReg_unselected hsel),
      fun hsel k e => srs_bank hr hs (devReg_bank hsel e),
      fun hsel h0 port slot hp => ⟨fun hslot e hw => srs_entry hr hs (devReg_plane0 hsel h0 hp hslot hw e),
        fun hslot e => srs_entry hr hs (devReg_plane1 hsel h0 hp hslot e)⟩,
      fun hsel e => srs_bad hr hs (devReg_unknown hsel e)⟩⟩
  · have result := written_result p hx
    exact ⟨fun ht hd hv => ⟨_, _, srsRdAnswer_writes hx hp ht hd hv, result⟩,
      fun d hd hle => ⟨_, _, pendingResultWrite_writes hx hp hd hle, result⟩,
      fun d hd hlt => pendingResultWrite_early hx hp hd hlt, srsRdAnswer_other hx hp⟩

end Sys2Proof.Proofs
end

section
/-! Bit fields of words, and what a write leaves in a register by its access codes (00 R9, R11). -/

namespace Sys2Proof.Proofs

open Sys2Proof.Machine Sys2Proof.Laws

/-! ### Fields of words -/

theorem testBit_bits {n : Nat} (x : BitVec n) (hi lo j : Nat) :
    (bits x hi lo).testBit j = (decide (j < hi + 1 - lo) && bit x (lo + j)) := by
  simp [bits, bit, Nat.testBit_mod_two_pow, Nat.testBit_shiftRight, BitVec.getLsbD]

/-- Two words have one field in common where they agree in its bits. -/
theorem bits_congr {n m : Nat} {x : BitVec n} {y : BitVec m} {hi lo : Nat} (h : ∀ i, lo ≤ i → i ≤ hi → bit x i = bit y i) :
    bits x hi lo = bits y hi lo := by
  refine Nat.eq_of_testBit_eq fun j => ?_
  rw [testBit_bits, testBit_bits]
  by_cases hj : j < hi + 1 - lo
  · rw [h _ (by omega) (by omega)]
  · simp [hj]

theorem bit_maskBits {hi lo : Nat} (hh : hi < 64) (i : Nat) : bit (maskBits hi lo) i = decide (lo ≤ i ∧ i ≤ hi) := by
  have hm : (maskBits hi lo).getLsbD i = (decide (i < 64) && ((2 ^ (hi + 1 - lo) - 1) * 2 ^ lo).testBit i) :=
    BitVec.getLsbD_ofNat ..
  rw [bit, hm, Nat.testBit_mul_two_pow, Nat.testBit_two_pow_sub_one]
  simp only [← Bool.decide_and, decide_eq_decide]
  omega

theorem bit_or {n : Nat} (x y : BitVec n) (i : Nat) : bit (x ||| y) i = (bit x i || bit y i) := BitVec.getLsbD_or
theorem bit_and {n : Nat} (x y : BitVec n) (i : Nat) : bit (x &&& y) i = (bit x i && bit y i) := BitVec.getLsbD_and
theorem bit_not (x : W64) {i : Nat} (hi : i < 64) : bit (~~~x) i = !bit x i := by simp [bit, hi]

/-- The number that `putBits` gives, by the parts of the old word above and below the field. -/
theorem putBits_toNat (x : W64) {hi lo : Nat} (hl : lo ≤ hi) (hh : hi < 64) (v : Nat) :
    (putBits x hi lo v).toNat =
      2 ^ lo * (2 ^ (hi + 1 - lo) * (x.toNat / 2 ^ (hi + 1)) + v % 2 ^ (hi + 1 - lo)) + x.toNat % 2 ^ lo := by
  obtain ⟨w, hw⟩ : ∃ w, hi + 1 = lo + w := ⟨hi + 1 - lo, by omega⟩
  obtain ⟨u, hu⟩ : ∃ u, 64 = lo + w + u := ⟨64 - (lo + w), by omega⟩
  have hx := x.isLt
  have hsub : hi + 1 - lo = w := by omega
  have hfield : bits x hi lo = x.toNat / 2 ^ lo % 2 ^ w := by rw [bits, Nat.shiftRight_eq_div_pow, hsub]
  rw [putBits, BitVec.toNat_ofNat, hfield, hsub, hw]
  generalize x.toNat = X at *
  have hlow := Nat.mod_add_div X (2 ^ lo)
  have hmid := Nat.mod_add_div (X / 2 ^ lo) (2 ^ w)
  rw [Nat.div_div_eq_div_mul, ← pow_add] at hmid
  have hL := Nat.mod_lt X (Nat.two_pow_pos lo)
  have hM := Nat.mod_lt (X / 2 ^ lo) (Nat.two_pow_pos w)
  have hV := Nat.mod_lt v (Nat.two_pow_pos w)
  have hH : X / 2 ^ (lo + w) < 2 ^ u := by
    rw [Nat.div_lt_iff_lt_mul (Nat.two_pow_pos _), mul_comm, ← pow_add, ← hu]
    exact hx
  generalize X / 2 ^ (lo + w) = H at *
  generalize X / 2 ^ lo % 2 ^ w = M at *
  generalize X % 2 ^ lo = L at *
  generalize v % 2 ^ w = V at *
  have hval : X - M * 2 ^ lo + V * 2 ^ lo = 2 ^ lo * (2 ^ w * H + V) + L := by
    have hX : X = L + 2 ^ lo * (M + 2 ^ w * H) := by rw [hmid, hlow]
    rw [mul_add] at hX
    rw [mul_add, mul_comm M, mul_comm V]
    omega
  rw [hval]
  refine Nat.mod_eq_of_lt ?_
  calc 2 ^ lo * (2 ^ w * H + V) + L < 2 ^ lo * (2 ^ w * H + V) + 2 ^ lo := by omega
    _ = 2 ^ lo * (2 ^ w * H + (V + 1)) := by ring
    _ ≤ 2 ^ lo * (2 ^ w * H + 2 ^ w) := by gcongr; omega
    _ = 2 ^ lo * (2 ^ w * (H + 1)) := by ring
    _ ≤ 2 ^ lo * (2 ^ w * 2 ^ u) := by gcongr; omega
    _ = 2 ^ 64 := by rw [hu]; ring

/-- A bit of a word whose field has been replaced: inside the field the new value's, elsewhere the old one. -/
theorem bit_putBits (x : W64) {hi lo : Nat} (hl : lo ≤ hi) (hh : hi < 64) (v i : Nat) :
    bit (putBits x hi lo v) i = if lo ≤ i ∧ i ≤ hi then v.testBit (i - lo) else bit x i := by
  have hlow : x.toNat % 2 ^ lo < 2 ^ lo := Nat.mod_lt _ (Nat.two_pow_pos lo)
  have hnew : v % 2 ^ (hi + 1 - lo) < 2 ^ (hi + 1 - lo) := Nat.mod_lt _ (Nat.two_pow_pos _)
  rw [bit, BitVec.getLsbD, putBits_toNat x hl hh, Nat.testBit_two_pow_mul_add _ hlow]
  by_cases h1 : i < lo
  · rw [if_pos h1, if_neg (by omega), Nat.testBit_mod_two_pow, decide_eq_true h1, Bool.true_and]
    rfl
  · rw [if_neg h1, Nat.testBit_two_pow_mul_add _ hnew]
    by_cases h2 : i - lo < hi + 1 - lo
    · rw [if_pos h2, if_pos (by omega), Nat.testBit_mod_two_pow, decide_eq_true h2, Bool.true_and]
    · rw [if_neg h2, if_neg (by omega), Nat.testBit_div_two_pow]
      simp only [bit, BitVec.getLsbD]
      congr 1
      omega

/-- The field that `putBits` sets. -/
theorem bits_putBits (x : W64) {hi lo : Nat} (hl : lo ≤ hi) (hh : hi < 64) (v : Nat) :
    bits (putBits x hi lo v) hi lo = v % 2 ^ (hi + 1 - lo) := by
  refine Nat.eq_of_testBit_eq fun j => ?_
  rw [testBit_bits, Nat.testBit_mod_two_pow, bit_putBits x hl hh]
  by_cases hj : j < hi + 1 - lo
  · rw [if_pos (by omega), Nat.add_sub_cancel_left]
  · simp [hj]

/-! ### Access codes -/

section
variable {r : RegSpec} (old v : W64) {i : Nat}

theorem bit_write (hi : i < 64) : bit (r.write old v) i =
    (((bit old i && !bit r.rw i) || (bit v i && bit r.rw i)) && !(bit v i && bit r.w1c i)) := by
  simp only [RegSpec.write, bit_and, bit_or, bit_not _ hi]

/-- An RW bit takes the bit written. -/
theorem bit_write_rw (hi : i < 64) (hrw : bit r.rw i = true) (hc : bit r.w1c i = false) :
    bit (r.write old v) i = bit v i := by
  simp [bit_write old v hi, hrw, hc]

/-- A W1C bit is cleared by a 1. -/
theorem bit_write_w1c (hi : i < 64) (hrw : bit r.rw i = false) (hc : bit r.w1c i = true) :
    bit (r.write old v) i = (bit old i && !bit v i) := by
  simp [bit_write old v hi, hrw, hc]

/-- A bit without an access code keeps its value. -/
theorem bit_write_ro (hi : i < 64) (hrw : bit r.rw i = false) (hc : bit r.w1c i = false) :
    bit (r.write old v) i = bit old i := by
  simp [bit_write old v hi, hrw, hc]

end

/-- A field whose bits are RW takes the field written. -/
theorem bits_write_rw {r : RegSpec} (old v : W64) {hi lo : Nat} (hh : hi < 64)
    (hm : ∀ i, lo ≤ i → i ≤ hi → bit r.rw i = true ∧ bit r.w1c i = false) : bits (r.write old v) hi lo = bits v hi lo :=
  bits_congr fun i h1 h2 => bit_write_rw old v (by omega) (hm i h1 h2).1 (hm i h1 h2).2

/-- A field whose bits have no access code keeps its value. -/
theorem bits_write_ro {r : RegSpec} (old v : W64) {hi lo : Nat} (hh : hi < 64)
    (hm : ∀ i, lo ≤ i → i ≤ hi → bit r.rw i = false ∧ bit r.w1c i = false) : bits (r.write old v) hi lo = bits old hi lo :=
  bits_congr fun i h1 h2 => bit_write_ro old v (by omega) (hm i h1 h2).1 (hm i h1 h2).2

end Sys2Proof.Proofs
end

section
/-! Accesses of the host to registers and to the signal window (12 R325, R326). -/

namespace Sys2Proof.Proofs

open Sys2Proof.Machine Sys2Proof.Laws

/-! ### Accesses that complete as Unsupported Request (R325) -/

/-- From `s` to `t` an access has completed as Unsupported Request: the host is told with a word, and nothing else happens. -/
def completesUnsupported (s t : State) (w : W64) : Prop :=
  t.dev.hostRead = none ∧ t.dev.toHost = s.dev.toHost ++ [(8, w)] ∧ t.ctxs = s.ctxs ∧ sameMem s t

theorem unsupported_completes (s : State) (off : Nat) : completesUnsupported s (s.unsupported off) (BitVec.ofNat 64 off) :=
  ⟨rfl, rfl, rfl, fun _ => ⟨rfl, rfl, rfl, rfl, rfl, rfl⟩⟩

theorem hostUnsupportedAccess_aligned (s : State) (page : RegPage) {off n : Nat} (h : off % 8 = 0 ∧ n = 8) :
    exec (.hostUnsupportedAccess page off n) s = .next s := by
  simp only [exec_hostUnsupportedAccess, execHostUnsupportedAccess, if_pos h]

theorem hostUnsupportedAccess_other (s : State) (page : RegPage) {off n : Nat} (h : off % 8 ≠ 0 ∨ n ≠ 8) :
    ∃ t w, exec (.hostUnsupportedAccess page off n) s = .next t ∧ completesUnsupported s t w := by
  have hn : ¬ (off % 8 = 0 ∧ n = 8) := by omega
  simp only [exec_hostUnsupportedAccess, execHostUnsupportedAccess, if_neg hn]
  exact ⟨_, _, rfl, unsupported_completes s _⟩

/-! ### Reads of the signal window (R325) -/

theorem signalWindowRead_misaligned (s : State) (vd : Nat) {o : BitVec 20} (h : o.toNat % 8 ≠ 0) :
    ∃ t w, exec (.signalWindowRead vd o) s = .next t ∧ completesUnsupported s t w := by
  simp only [exec_signalWindowRead, execSignalWindowRead, State.windowRead, if_pos h]
  exact ⟨_, _, rfl, unsupported_completes s _⟩

theorem signalWindowRead_returns {s y : State} {vd : Nat} {o : BitVec 20} {bs : List Byte} (h : o.toNat % 8 = 0)
    (hg : s.gread none vd (sx (BitVec.ofNat 57 (bits (s.ctl vd rSIGWBASE) 56 20 * 2 ^ 20 + o.toNat))) 8 = (y, .ok bs)) :
    exec (.signalWindowRead vd o) s = .next (y.updDev fun d => { d with hostRead := some (word64 bs) }).fresh := by
  simp only [exec_signalWindowRead, execSignalWindowRead, State.windowRead, h, hg, ne_eq, not_true_eq_false, if_false]

/-! ### Writes of registers (R9, R326, R364) -/

theorem registerWrite_misaligned (s : State) (page : RegPage) {off : Nat} (v : W64) (h : off % 8 ≠ 0) :
    exec (.registerWrite page off v) s = .next s := by
  simp only [exec_registerWrite, execRegisterWrite, State.writeReg, if_pos h]

/-- Before READY no page of a virtual device takes a write. -/
theorem registerWrite_notReady (s : State) (vd off : Nat) (v : W64) (hb : s.bootReady = false) :
    exec (.registerWrite (.control vd) off v) s = .next s ∧ exec (.registerWrite (.hyper vd) off v) s = .next s := by
  simp [execRegisterWrite, State.writeReg, hb]

/-- An offset of the control page whose register has no behaviour but its access codes. -/
def plainCtlOffset (off : Nat) : Bool :=
  off % 8 == 0 && (indexOf (fun p : Fin 12 => rLQCTL p) off).isNone && (indexOf (fun p : Fin 12 => rLQNOTIFY p) off).isNone &&
    (indexOf (fun n : Fin 16 => rGANG n) off).isNone && off != rTLBINV1 && off != rPTDATA && off != rPGCMD && off != rGKREQ &&
    off != rSVCRES && off != rVDMODE && off != rTRCTL

section
variable {s : State} (hb : s.bootReady = true) (vd : Nat) {off : Nat} (v : W64)
include hb

theorem registerWrite_control (hp : plainCtlOffset off = true) :
    exec (.registerWrite (.control vd) off v) s = .next (s.plainCtl vd off v) := by
  simp only [plainCtlOffset, Bool.and_eq_true, beq_iff_eq, bne_iff_ne, Option.isNone_iff_eq_none] at hp
  obtain ⟨⟨⟨⟨⟨⟨⟨⟨⟨⟨h8, hctl⟩, hnotify⟩, hgang⟩, hinv⟩, hpt⟩, hpg⟩, hgk⟩, hsvc⟩, -⟩, -⟩ := hp
  simp only [exec_registerWrite, execRegisterWrite, State.writeReg, State.writeCtl, h8, hb, hctl, hnotify, hgang, hinv, hpt,
    hpg, hgk, hsvc, ne_eq, not_true_eq_false, if_false, if_true]

/-- What a write leaves in a register of the control page that has access codes alone. -/
theorem registerWrite_control_spec (hp : plainCtlOffset off = true) {r : RegSpec} (hr : findSpec controlSpecs off = some r) :
    ∃ t, exec (.registerWrite (.control vd) off v) s = .next t ∧ t.ctl vd off = r.write (s.ctl vd off) v := by
  refine ⟨_, registerWrite_control hb vd v hp, ?_⟩
  simp only [plainCtlOffset, Bool.and_eq_true, bne_iff_ne] at hp
  simp only [State.plainCtl, hr, if_neg hp.1.2, if_neg hp.2, setCtl_ctl_self]

/-- A register of the control page without an access code ignores a write. -/
theorem registerWrite_control_readOnly (hp : plainCtlOffset off = true) (hr : findSpec controlSpecs off = none) :
    exec (.registerWrite (.control vd) off v) s = .next s := by
  rw [registerWrite_control hb vd v hp]
  simp only [State.plainCtl, hr]

theorem registerWrite_s2base : ∃ t, exec (.registerWrite (.hyper vd) rS2BASE v) s = .next t ∧
    t.hyp vd rS2BASE = RegSpec.write ⟨rS2BASE, 0, maskBits 38 12, 0⟩ (s.hyp vd rS2BASE) v := by
  have hw : exec (.registerWrite (.hyper vd) rS2BASE v) s = .next (s.plainHyp vd rS2BASE v) := by
    simp only [exec_registerWrite, execRegisterWrite, State.writeReg, hb]
    rfl
  exact ⟨_, hw, setHyp_hyp_self s vd rS2BASE _⟩

end

theorem evqctl_write {s : State} (hb : s.bootReady = true) (vd : Nat) (v : W64) :
    ∃ t, exec (.registerWrite (.control vd) rEVQCTL v) s = .next t ∧ bit (t.ctl vd rEVQCTL) 63 = bit v 63 ∧
      bits (t.ctl vd rEVQCTL) 26 16 = bits v 26 16 ∧ bits (t.ctl vd rEVQCTL) 3 0 = bits v 3 0 ∧
      bit (t.ctl vd rEVQCTL) 62 = (bit (s.ctl vd rEVQCTL) 62 && !bit v 62) := by
  obtain ⟨t, ht, hw⟩ := registerWrite_control_spec (off := rEVQCTL) hb vd v (by decide) rfl
  have hrw (i : Nat) : bit (maskBits 63 63 ||| maskBits 26 16 ||| maskBits 3 0) i =
      decide (i = 63 ∨ (16 ≤ i ∧ i ≤ 26) ∨ i ≤ 3) := by
    simp only [bit_or, bit_maskBits (by decide : 63 < 64), bit_maskBits (by decide : 26 < 64),
      bit_maskBits (by decide : 3 < 64), ← Bool.decide_or, decide_eq_decide]
    omega
  have hc (i : Nat) : bit (maskBits 62 62) i = decide (i = 62) := by
    rw [bit_maskBits (by decide), decide_eq_decide]
    omega
  have htaken (i : Nat) (hi : (16 ≤ i ∧ i ≤ 26) ∨ i ≤ 3) :
      bit (maskBits 63 63 ||| maskBits 26 16 ||| maskBits 3 0) i = true ∧ bit (maskBits 62 62) i = false := by
    rw [hrw, hc, decide_eq_true_eq, decide_eq_false_iff_not]
    omega
  refine ⟨t, ht, ?_, ?_, ?_, ?_⟩
  · rw [hw]
    exact bit_write_rw _ v (by decide) (by simp [hrw]) (by simp [hc])
  · rw [hw]
    exact bits_write_rw _ v (by decide) fun i h1 h2 => htaken i (.inl ⟨h1, h2⟩)
  · rw [hw]
    exact bits_write_rw _ v (by decide) fun i _ h2 => htaken i (.inr h2)
  · rw [hw]
    exact bit_write_w1c _ v (by decide) (by simp [hrw]) (by simp [hc])

theorem evqhead_write {s : State} (hb : s.bootReady = true) (vd : Nat) (v : W64) :
    ∃ t, exec (.registerWrite (.control vd) rEVQHEAD v) s = .next t ∧ t.ctl vd rEVQHEAD = v := by
  obtain ⟨t, ht, hw⟩ := registerWrite_control_spec (off := rEVQHEAD) hb vd v (by decide) rfl
  refine ⟨t, ht, BitVec.eq_of_getLsbD_eq fun i hi => ?_⟩
  rw [hw]
  refine bit_write_rw _ v hi ?_ (by simp [bit])
  rw [bit_maskBits (by decide), decide_eq_true_eq]
  omega

theorem lqbase_write {s : State} (hb : s.bootReady = true) (vd : Nat) (v : W64) :
    ∃ t, exec (.registerWrite (.control vd) (rLQBASE 0) v) s = .next t ∧ bits (t.ctl vd (rLQBASE 0)) 63 7 = bits v 63 7 := by
  obtain ⟨t, ht, hw⟩ := registerWrite_control_spec (off := rLQBASE 0) hb vd v (by decide) rfl
  refine ⟨t, ht, ?_⟩
  rw [hw]
  refine bits_write_rw _ v (by decide) fun i h1 h2 => ⟨?_, by simp [bit]⟩
  rw [bit_maskBits (by decide), decide_eq_true_eq]
  exact ⟨h1, h2⟩

theorem s2base_write {s : State} (hb : s.bootReady = true) (vd : Nat) (v : W64) :
    ∃ t, exec (.registerWrite (.hyper vd) rS2BASE v) s = .next t ∧ bits (t.hyp vd rS2BASE) 38 12 = bits v 38 12 ∧
      bits (t.hyp vd rS2BASE) 11 0 = bits (s.hyp vd rS2BASE) 11 0 := by
  obtain ⟨t, ht, hw⟩ := registerWrite_s2base hb vd v
  have hm (i : Nat) : bit (maskBits 38 12) i = decide (12 ≤ i ∧ i ≤ 38) := bit_maskBits (by decide) i
  refine ⟨t, ht, ?_, ?_⟩
  · rw [hw]
    exact bits_write_rw _ v (by decide) fun i h1 h2 => ⟨by simp [hm, h1, h2], by simp [bit]⟩
  · rw [hw]
    exact bits_write_ro _ v (by decide) fun i h1 h2 => ⟨by simp only [hm, decide_eq_false_iff_not]; omega, by simp [bit]⟩

end Sys2Proof.Proofs
end

section
/-! The end of what a virtual device runs (14 R363, entry 78). -/

namespace Sys2Proof.Proofs

open Sys2Proof.Machine Sys2Proof.Laws

/-! ### Folds over lists of steps -/

/-- What one step of a fold brings about, and every step keeps, holds after the fold. -/
theorem foldl_reaches {σ α : Type} {f : σ → α → σ} {P Q : σ → Prop} {a : α} (hP : ∀ s b, P s → P (f s b))
    (hQ : ∀ s b, Q s → Q (f s b)) (hPQ : ∀ s, P s → Q (f s a)) {l : List α} (ha : a ∈ l) {s : σ} (hs : P s) :
    Q (l.foldl f s) := by
  induction l generalizing s with
  | nil => exact absurd ha List.not_mem_nil
  | cons b l ih =>
    rcases List.mem_cons.mp ha with rfl | hl
    · exact List.foldlRecOn l f (hPQ s hs) fun t ht b _ => hQ t b ht
    · exact ih hl (hP s b hs)

/-! ### Tables -/

theorem tab_find_filter_key {κ α : Type} [DecidableEq κ] (t : Tab κ α) (p : κ → Bool) (k : κ) :
    Tab.find (t.filter fun e => p e.1) k = if p k = true then Tab.find t k else none := by
  induction t with
  | nil => simp [Tab.find]
  | cons e t ih =>
    obtain ⟨j, v⟩ := e
    by_cases hj : j = k
    · subst hj
      cases hp : p j
      · simpa [hp] using ih
      · simp [hp, Tab.find]
    · cases hp : p j
      · simpa [hp, Tab.find, hj] using ih
      · simpa [hp, Tab.find, hj] using ih

/-- The first entry of a key stands in the table. -/
theorem tab_mem_of_find {κ α : Type} [DecidableEq κ] {t : Tab κ α} {k : κ} {v : α} (h : Tab.find t k = some v) : (k, v) ∈ t := by
  induction t with
  | nil => simp at h
  | cons e t ih =>
    obtain ⟨j, w⟩ := e
    by_cases hj : j = k
    · subst hj
      simp only [Tab.find, if_true, Option.some.injEq] at h
      simp [h]
    · simp only [Tab.find, if_neg hj] at h
      exact List.mem_cons_of_mem _ (ih h)

/-! ### Sheaves and circuits -/

theorem dropCircuit_frame (s : State) (h : Nat) : s.dropCircuit h = { s with dev := (s.dropCircuit h).dev } := rfl

theorem dropCircuit_circuits (s : State) (h : Nat) :
    (s.dropCircuit h).dev.circuits = s.dev.circuits.filter fun c => c.handle != h := rfl

/-- Dropping circuits changes nothing but the device outside its cores. -/
theorem dropCircuits_frame {α : Type} (f : α → Nat) (l : List α) (s : State) : l.foldl (fun s k => s.dropCircuit (f k)) s =
    { s with dev := (l.foldl (fun s k => s.dropCircuit (f k)) s).dev } := by
  induction l generalizing s with
  | nil => rfl
  | cons k l ih => rw [List.foldl_cons, ih, dropCircuit_frame s (f k)]

theorem dropMem_frame (s : State) (n : Nat) (tiles : List Nat) : s.dropMem n tiles = { s with dev := (s.dropMem n tiles).dev } := by
  unfold State.dropMem
  dsimp only
  generalize tiles.filter _ = l
  induction l generalizing s with
  | nil => rfl
  | cons t l ih => rw [List.foldl_cons, ih, dropCircuits_frame (memHandle t)]

/-- A circuit that is left was there before, and its handle is not one of those dropped. -/
theorem mem_circuits_of_dropCircuits {l : List Circuit} {s : State} {k : Circuit}
    (hk : k ∈ (l.foldl (fun s k => s.dropCircuit k.handle) s).dev.circuits) :
    k ∈ s.dev.circuits ∧ ∀ j ∈ l, k.handle ≠ j.handle := by
  induction l generalizing s with
  | nil => exact ⟨hk, fun _ hj => absurd hj List.not_mem_nil⟩
  | cons j l ih =>
    obtain ⟨hmem, hne⟩ := ih hk
    rw [dropCircuit_circuits, List.mem_filter] at hmem
    exact ⟨hmem.1, fun i hi => (List.mem_cons.mp hi).elim (fun e => e ▸ by simpa using hmem.2) (hne i)⟩

/-- One sheaf of a virtual device ends: its units are released and it is retired. -/
def retireNow (s : State) (n : Nat) : State :=
  ((s.releaseUnits n).freeAccs n).updSheaf n fun h => { h with
    st := .retired, circuits := [], doms := [], saved := none, ckpt := none, stop := .none }

/-- The sheaves of a virtual device that have not retired. -/
def sheavesOfVd (s : State) (vd : Nat) : List Nat :=
  (s.sheaves.filter fun e => e.2.vd == vd && e.2.st != .retired).map fun e => e.1

/-- The sheaves of a virtual device have ended. -/
def withoutSheaves (s : State) (vd : Nat) : State := (sheavesOfVd s vd).foldl retireNow s

/-- And the circuits of the virtual device are dropped. -/
def withoutCircuits (s : State) (vd : Nat) : State :=
  ((withoutSheaves s vd).dev.circuits.filter fun k => k.vd == vd).foldl (fun s k => s.dropCircuit k.handle) (withoutSheaves s vd)

/-- A sheaf has retired and none of its contexts is live. -/
def hasEnded (n : Nat) (s : State) : Prop := (s.sheafOf n).st = .retired ∧ ∀ c : CtxId, c.sheaf = n → s.ctx c = none

theorem retireNow_frame (s : State) (n : Nat) : retireNow s n = { s with
    ctxs := s.ctxs.filter fun e => e.1.sheaf != n
    grains := (retireNow s n).grains
    sheaves := (retireNow s n).sheaves
    tiles := (retireNow s n).tiles
    dev := (retireNow s n).dev } := by
  unfold retireNow State.releaseUnits
  dsimp only
  rw [dropMem_frame]
  rfl

theorem retireNow_ctx (s : State) (n : Nat) (c : CtxId) :
    (retireNow s n).ctx c = if c.sheaf = n then none else s.ctx c := by
  have h : (retireNow s n).ctxs = s.ctxs.filter fun e => e.1.sheaf != n := congrArg State.ctxs (retireNow_frame s n)
  rw [State.ctx, h, tab_find_filter_key s.ctxs (fun k => k.sheaf != n)]
  by_cases hc : c.sheaf = n <;> simp [hc, State.ctx]

theorem releaseUnits_st (s : State) (n m : Nat) : ((s.releaseUnits n).sheafOf m).st = (s.sheafOf m).st := by
  have hm : (s.dropMem n (s.sheafOf n).tiles).sheaves = s.sheaves :=
    (congrArg State.sheaves (dropMem_frame s n (s.sheafOf n).tiles) :)
  unfold State.releaseUnits State.sheafOf Tab.getD at *
  dsimp only
  rw [hm, tab_find_upd]
  split_ifs
  · cases Tab.find s.sheaves m <;> rfl
  · rfl

theorem retireNow_st (s : State) (n m : Nat) :
    ((retireNow s n).sheafOf m).st = if m = n then .retired else (s.sheafOf m).st := by
  rw [← releaseUnits_st s n m]
  unfold retireNow State.updSheaf State.sheafOf Tab.getD
  dsimp only
  rw [tab_find_upd]
  by_cases hm : n = m
  · rw [if_pos hm, if_pos hm.symm]
    cases Tab.find ((s.releaseUnits n).freeAccs n).sheaves m <;> rfl
  · rw [if_neg hm, if_neg (Ne.symm hm)]
    rfl

theorem retireNow_ends (s : State) (n : Nat) : hasEnded n (retireNow s n) :=
  ⟨by rw [retireNow_st, if_pos rfl], fun c hc => by rw [retireNow_ctx, if_pos hc]⟩

theorem retireNow_keeps_ended {n : Nat} {s : State} (m : Nat) (h : hasEnded n s) : hasEnded n (retireNow s m) := by
  obtain ⟨hst, hctx⟩ := h
  refine ⟨?_, fun c hc => ?_⟩
  · rw [retireNow_st, hst, ite_self]
  · rw [retireNow_ctx, hctx c hc, ite_self]

theorem withoutSheaves_ends {s : State} {vd n : Nat} (hv : (s.sheafOf n).vd = vd) (hst : (s.sheafOf n).st ≠ .retired) :
    hasEnded n (withoutSheaves s vd) := by
  have hn : n ∈ sheavesOfVd s vd := by
    cases hf : Tab.find s.sheaves n with
    | none => simp [State.sheafOf, Tab.getD, hf, Sheaf.zero] at hst
    | some h =>
      simp only [State.sheafOf, Tab.getD, hf, Option.getD_some] at hv hst
      exact List.mem_map.mpr ⟨(n, h), List.mem_filter.mpr ⟨tab_mem_of_find hf, by simp [hv, hst]⟩, rfl⟩
  exact foldl_reaches (P := fun _ => True) (fun _ _ _ => trivial) (fun _ m h => retireNow_keeps_ended m h)
    (fun s _ => retireNow_ends s n) hn trivial

/-- The parts of the state that the end of a virtual device's work leaves as they are. -/
theorem withoutSheaves_frame (s : State) (vd : Nat) : withoutSheaves s vd = { s with
    ctxs := (withoutSheaves s vd).ctxs
    grains := (withoutSheaves s vd).grains
    sheaves := (withoutSheaves s vd).sheaves
    tiles := (withoutSheaves s vd).tiles
    dev := (withoutSheaves s vd).dev } := by
  unfold withoutSheaves
  generalize sheavesOfVd s vd = l
  induction l generalizing s with
  | nil => rfl
  | cons n l ih => rw [List.foldl_cons, ih, retireNow_frame s n]

theorem withoutCircuits_frame (s : State) (vd : Nat) :
    withoutCircuits s vd = { withoutSheaves s vd with dev := (withoutCircuits s vd).dev } :=
  dropCircuits_frame Circuit.handle _ _

theorem withoutCircuits_none {s : State} {vd : Nat} {k : Circuit} (hk : k ∈ (withoutCircuits s vd).dev.circuits) : k.vd ≠ vd := by
  obtain ⟨hmem, hne⟩ := mem_circuits_of_dropCircuits hk
  exact fun hv => hne k (List.mem_filter.mpr ⟨hmem, by simp [hv]⟩) rfl

theorem endVd_sheaves (s : State) (vd : Nat) : (s.endVd vd).sheaves = (withoutSheaves s vd).sheaves :=
  (congrArg State.sheaves (withoutCircuits_frame s vd) :)

theorem endVd_ctxs (s : State) (vd : Nat) : (s.endVd vd).ctxs = (withoutSheaves s vd).ctxs :=
  (congrArg State.ctxs (withoutCircuits_frame s vd) :)

theorem endVd_circuits (s : State) (vd : Nat) : (s.endVd vd).dev.circuits = (withoutCircuits s vd).dev.circuits := rfl

theorem endVd_slot (s : State) (vd : Nat) : (s.endVd vd).slot = s.slot :=
  (congrArg State.slot (withoutCircuits_frame s vd) :).trans (congrArg State.slot (withoutSheaves_frame s vd) :)

theorem endVd_hbm (s : State) (vd : Nat) : (s.endVd vd).hbm = s.hbm :=
  (congrArg State.hbm (withoutCircuits_frame s vd) :).trans (congrArg State.hbm (withoutSheaves_frame s vd) :)

/-- The registers and the page requests of a virtual device outlast the end of its work. -/
theorem endVd_vdOf (s : State) (vd : Nat) :
    ((s.endVd vd).vdOf vd).hyper = (s.vdOf vd).hyper ∧ ((s.endVd vd).vdOf vd).pages = (s.vdOf vd).pages := by
  have hv : (withoutCircuits s vd).vds = s.vds :=
    (congrArg State.vds (withoutCircuits_frame s vd) :).trans (congrArg State.vds (withoutSheaves_frame s vd) :)
  have he : (s.endVd vd).vds = Tab.updD (withoutCircuits s vd).vds vd Vd.zero fun v => { v with
      nextSheafid := 0
      tags := []
      rxVa := 0
      log := []
      logged := []
      moments := []
      tries := Vector.replicate 12 0
      reread := Vector.replicate 12 none } := rfl
  rw [State.vdOf, he, tab_getD_updD_self, hv]
  exact ⟨rfl, rfl⟩

theorem endVd_ends {s : State} {vd n : Nat} (hv : (s.sheafOf n).vd = vd) (hst : (s.sheafOf n).st ≠ .retired) :
    hasEnded n (s.endVd vd) := by
  obtain ⟨h1, h2⟩ := withoutSheaves_ends hv hst
  refine ⟨?_, fun c hc => ?_⟩
  · rw [State.sheafOf, endVd_sheaves]
    exact h1
  · rw [State.ctx, endVd_ctxs]
    exact h2 c hc

end Sys2Proof.Proofs
end

section
/-! The reset of a virtual device (12 R321, R326; 14 R363). -/

namespace Sys2Proof.Proofs

open Sys2Proof.Machine Sys2Proof.Laws

/-! ### VDCTL, READY and EPOCH -/

/-- The bits of VDCTL that a write sets: EN and PASID. -/
def vdctlMask : W64 := maskBits 63 63 ||| maskBits 19 0

theorem bit_vdctlMask (i : Nat) : bit vdctlMask i = decide (i = 63 ∨ i ≤ 19) := by
  rw [vdctlMask, bit_or, bit_maskBits (by decide), bit_maskBits (by decide), ← Bool.decide_or, decide_eq_decide]
  omega

/-- VDCTL after the first part of a write: EN and PASID come from the word written. -/
def vdctlWritten (old v : W64) : W64 := (old &&& ~~~vdctlMask) ||| (v &&& vdctlMask)

theorem bit_vdctlWritten (old v : W64) {i : Nat} (hi : i < 64) :
    bit (vdctlWritten old v) i = if i = 63 ∨ i ≤ 19 then bit v i else bit old i := by
  rw [vdctlWritten, bit_or, bit_and, bit_and, bit_not _ hi, bit_vdctlMask]
  split_ifs with h <;> simp [h]

theorem setHyp_zeroing (s : State) (vd off : Nat) (w : W64) : ((s.setHyp vd off w).vdOf vd).zeroing = (s.vdOf vd).zeroing := by
  rw [State.setHyp, updVd_vdOf_self]
  rfl

theorem setHyp_pages (s : State) (vd off : Nat) (w : W64) : ((s.setHyp vd off w).vdOf vd).pages = (s.vdOf vd).pages := by
  rw [State.setHyp, updVd_vdOf_self]
  rfl

/-- What a reset does to a page-request slot: an outstanding request is abandoned for 2^24 slots (R321). -/
def abandonPage (slot : Nat) (p : PageReq) : PageReq :=
  if p.used && p.abandoned.isNone then { p with waiters := [], abandoned := some (slot + 2 ^ 24) } else p

theorem abandonPage_eq (slot : Nat) (p : PageReq) : abandonPage slot p =
    if p.used = true ∧ p.abandoned = none then { p with waiters := [], abandoned := some (slot + 2 ^ 24) } else p := by
  simp [abandonPage]

/-- The virtual device as the zeroing pass begins: READY is 0 and the pages of what it ran are abandoned. -/
theorem startZeroing_vd (s : State) (vd : Nat) :
    (s.startZeroing vd).hyp vd rVDCTL = s.hyp vd rVDCTL &&& ~~~(maskBits 61 61) ∧
    ((s.startZeroing vd).vdOf vd).zeroing.isSome = true ∧
    ((s.startZeroing vd).vdOf vd).pages = (s.vdOf vd).pages.map (abandonPage s.slot) := by
  obtain ⟨hhyper, hpages⟩ := endVd_vdOf s vd
  have hctl : (s.endVd vd).hyp vd rVDCTL = s.hyp vd rVDCTL := by simp only [State.hyp, Vd.hyp, hhyper]
  refine ⟨?_, ?_, ?_⟩
  · rw [State.startZeroing, setHyp_hyp_self, hctl]
  · rw [State.startZeroing, setHyp_zeroing, updVd_vdOf_self]
    rfl
  · rw [State.startZeroing, setHyp_pages, updVd_vdOf_self, hpages, endVd_slot]
    rfl

theorem resetVd_ends {s : State} {vd n : Nat} (hv : (s.sheafOf n).vd = vd) (hst : (s.sheafOf n).st ≠ .retired) :
    hasEnded n (s.resetVd vd) := by
  have h : hasEnded n (s.endVd vd) := endVd_ends hv hst
  simpa only [hasEnded, State.sheafOf, State.ctx, State.resetVd, State.startZeroing, setHyp_sheaves, setHyp_ctxs,
    updVd_sheaves, updVd_ctxs] using h

theorem resetVd_circuits {s : State} {vd : Nat} {k : Circuit} (hk : k ∈ (s.resetVd vd).dev.circuits) : k.vd ≠ vd := by
  simp only [State.resetVd, State.startZeroing, setHyp_dev, updVd_dev, endVd_circuits] at hk
  exact withoutCircuits_none hk

theorem resetVd_hbm (s : State) (vd : Nat) : (s.resetVd vd).hbm = s.hbm := by
  simp only [State.resetVd, State.startZeroing, setHyp_hbm, updVd_hbm, endVd_hbm]

theorem vdReset_write {s : State} (vd : Nat) {v : W64} (h : bit v 62 = false) :
    exec (.vdReset vd v) s = .next (s.setHyp vd rVDCTL (vdctlWritten (s.hyp vd rVDCTL) v)) := by
  simp only [exec_vdReset, execVdReset, State.writeVdctl, h, Bool.false_eq_true, if_false]
  rfl

theorem vdReset_reset {s : State} (vd : Nat) {v : W64} (h : bit v 62 = true) :
    exec (.vdReset vd v) s = .next ((s.setHyp vd rVDCTL (vdctlWritten (s.hyp vd rVDCTL) v)).resetVd vd) := by
  simp only [exec_vdReset, execVdReset, State.writeVdctl, h, if_true]
  rfl

theorem resetVd_hyp (s : State) (vd : Nat) : (s.resetVd vd).hyp vd rVDCTL =
    putBits (s.hyp vd rVDCTL &&& ~~~(maskBits 61 61)) 34 32 (bits (s.hyp vd rVDCTL &&& ~~~(maskBits 61 61)) 34 32 + 1) := by
  rw [State.resetVd, setHyp_hyp_self, (startZeroing_vd s vd).1]

theorem resetVd_zeroing (s : State) (vd : Nat) : ((s.resetVd vd).vdOf vd).zeroing.isSome = true := by
  rw [State.resetVd, setHyp_zeroing]
  exact (startZeroing_vd s vd).2.1

theorem resetVd_pages (s : State) (vd : Nat) (i : Fin 64) :
    ((s.resetVd vd).vdOf vd).pages[i] = abandonPage s.slot (s.vdOf vd).pages[i] := by
  rw [State.resetVd, setHyp_pages, (startZeroing_vd s vd).2.2]
  simp

/-- READY is 0 after a reset, EPOCH has risen, and every other bit of VDCTL is kept. -/
theorem resetVd_vdctl (s : State) (vd : Nat) :
    bits ((s.resetVd vd).hyp vd rVDCTL) 34 32 = (bits (s.hyp vd rVDCTL) 34 32 + 1) % 8 ∧
    bit ((s.resetVd vd).hyp vd rVDCTL) 61 = false ∧
    ∀ i, i < 64 → (i < 32 ∨ 34 < i) → i ≠ 61 → bit ((s.resetVd vd).hyp vd rVDCTL) i = bit (s.hyp vd rVDCTL) i := by
  have hkeep (i : Nat) (hi : i < 64) : bit (s.hyp vd rVDCTL &&& ~~~(maskBits 61 61)) i =
      (bit (s.hyp vd rVDCTL) i && !decide (61 ≤ i ∧ i ≤ 61)) := by
    rw [bit_and, bit_not _ hi, bit_maskBits (by decide)]
  rw [resetVd_hyp]
  refine ⟨?_, ?_, fun i hi hout hne => ?_⟩
  · rw [bits_putBits _ (by decide) (by decide)]
    have hepoch : bits (s.hyp vd rVDCTL &&& ~~~(maskBits 61 61)) 34 32 = bits (s.hyp vd rVDCTL) 34 32 :=
      bits_congr fun i h1 h2 => by
        rw [hkeep i (by omega), decide_eq_false (by omega), Bool.not_false, Bool.and_true]
    rw [hepoch]
    rfl
  · rw [bit_putBits _ (by decide) (by decide), if_neg (by decide), hkeep 61 (by decide)]
    simp
  · rw [bit_putBits _ (by decide) (by decide), if_neg (by omega), hkeep i hi, decide_eq_false (by omega), Bool.not_false,
      Bool.and_true]

/-- A write of VDCTL without RESET sets EN and PASID, and nothing else. -/
theorem vdReset_sets (s : State) (vd : Nat) {v : W64} (h : bit v 62 = false) :
    ∃ t, exec (.vdReset vd v) s = .next t ∧ t = { s with vds := t.vds } ∧
      bit (t.hyp vd rVDCTL) 63 = bit v 63 ∧ bits (t.hyp vd rVDCTL) 19 0 = bits v 19 0 ∧
      bits (t.hyp vd rVDCTL) 34 32 = bits (s.hyp vd rVDCTL) 34 32 ∧
      bit (t.hyp vd rVDCTL) 61 = bit (s.hyp vd rVDCTL) 61 := by
  refine ⟨_, vdReset_write vd h, rfl, ?_⟩
  rw [setHyp_hyp_self]
  refine ⟨?_, bits_congr fun i _ h2 => ?_, bits_congr fun i h1 h2 => ?_, ?_⟩
  · rw [bit_vdctlWritten _ _ (by decide), if_pos (by decide)]
  · rw [bit_vdctlWritten _ _ (by omega), if_pos (by omega)]
  · rw [bit_vdctlWritten _ _ (by omega), if_neg (by omega)]
  · rw [bit_vdctlWritten _ _ (by decide), if_neg (by decide)]

/-- A write of VDCTL with RESET: EPOCH rises, READY falls, the zeroing pass begins and what the virtual device ran has
ended. -/
theorem vdReset_resets (s : State) (vd : Nat) {v : W64} (h : bit v 62 = true) :
    ∃ t, exec (.vdReset vd v) s = .next t ∧ bit (t.hyp vd rVDCTL) 63 = bit v 63 ∧
      bits (t.hyp vd rVDCTL) 34 32 = (bits (s.hyp vd rVDCTL) 34 32 + 1) % 8 ∧ bit (t.hyp vd rVDCTL) 61 = false ∧
      (t.vdOf vd).zeroing.isSome = true ∧
      (∀ n, (s.sheafOf n).vd = vd → (s.sheafOf n).st ≠ .retired → hasEnded n t) ∧
      (∀ k ∈ t.dev.circuits, k.vd ≠ vd) ∧
      (∀ i : Fin 64, (t.vdOf vd).pages[i] = abandonPage s.slot (s.vdOf vd).pages[i]) ∧
      t.hbm = s.hbm := by
  let w := vdctlWritten (s.hyp vd rVDCTL) v
  let y := s.setHyp vd rVDCTL w
  have hy : y.hyp vd rVDCTL = w := setHyp_hyp_self s vd rVDCTL w
  obtain ⟨hepoch, hready, hrest⟩ := resetVd_vdctl y vd
  refine ⟨y.resetVd vd, vdReset_reset vd h, ?_, ?_, hready, resetVd_zeroing y vd, ?_, ?_, ?_, resetVd_hbm y vd⟩
  · rw [hrest 63 (by decide) (by decide) (by decide), hy, bit_vdctlWritten _ _ (by decide), if_pos (by decide)]
  · rw [hepoch, hy]
    congr 2
    exact bits_congr fun i h1 h2 => by rw [bit_vdctlWritten _ _ (by omega), if_neg (by omega)]
  · exact fun n hv hst => resetVd_ends (s := y) hv hst
  · exact fun k hk => resetVd_circuits (s := y) hk
  · intro i
    rw [resetVd_pages, setHyp_pages]
    rfl

end Sys2Proof.Proofs
end

section
/-! The zeroing pass of a virtual device (14 R363). -/

namespace Sys2Proof.Proofs

open Sys2Proof.Machine Sys2Proof.Laws

/-! ### Memories -/

/-- A byte at an address that no cell has reads as zero, in a memory of any form. -/
theorem mem_get_of_absent {m : Mem} {a : Nat} (h : ∀ e ∈ m, e.1 ≠ a) : Mem.get m a = 0 := by
  induction m with
  | nil => rfl
  | cons e m ih =>
    obtain ⟨b, v⟩ := e
    have hb : b ≠ a := h (b, v) List.mem_cons_self
    simp only [Mem.get, if_neg hb, ih fun e he => h e (List.mem_cons_of_mem _ he), ite_self]

/-- Dropping cells by their address leaves the byte at every other address. -/
theorem mem_get_filter_kept {m : Mem} {n a : Nat} (h : Mem.wfFrom n m = true) (p : Nat → Bool) (ha : p a = true) :
    Mem.get (m.filter fun e => p e.1) a = Mem.get m a := by
  induction m generalizing n with
  | nil => rfl
  | cons e m ih =>
    obtain ⟨b, v⟩ := e
    simp only [Mem.wfFrom, Bool.and_eq_true, decide_eq_true_eq] at h
    have ih := ih h.2
    by_cases hp : p b = true
    · simp only [List.filter_cons, hp, if_true, Mem.get, ih]
    · have hb : b ≠ a := fun e => hp (e ▸ ha)
      simp only [List.filter_cons, hp, Bool.false_eq_true, if_false, Mem.get, if_neg hb, ih]
      split_ifs with hlt
      · exact mem_get_of_wfFrom h.2 (by omega)
      · rfl

theorem mem_get_clear_out {m : Mem} (h : Mem.wf m = true) {a b n : Nat} (ho : b < a ∨ a + n ≤ b) :
    Mem.get (Mem.clear m a n) b = Mem.get m b :=
  mem_get_filter_kept h (fun x => decide (x < a ∨ a + n ≤ x)) (decide_eq_true ho)

theorem mem_mem_clear {m : Mem} {a n : Nat} {e : Host.Cell} : e ∈ Mem.clear m a n ↔ e ∈ m ∧ (e.1 < a ∨ a + n ≤ e.1) := by
  simp [Mem.clear]

theorem mem_clear_clear (m : Mem) (a n k : Nat) : Mem.clear (Mem.clear m a n) (a + n) k = Mem.clear m a (n + k) := by
  simp only [Mem.clear, List.filter_filter]
  congr 1
  funext e
  rw [← Bool.decide_and, decide_eq_decide]
  omega

/-! ### The zeroing of ranges -/

/-- Zeroing pages changes device memory and what the device keeps of its lines. -/
theorem zeroPages_frame (s : State) (key : List W64) (dpa n : Nat) : s.zeroPages key dpa n =
    { s with hbm := Mem.clear s.hbm dpa (4096 * n), dev := (s.zeroPages key dpa n).dev } := by
  induction n with
  | zero =>
    have h0 : Mem.clear s.hbm dpa (4096 * 0) = s.hbm := List.filter_eq_self.mpr fun e _ => decide_eq_true (by omega)
    rw [h0]
    rfl
  | succ n ih =>
    have hstep (t : State) : t.putPage key (dpa + 4096 * n) [] = { t with
        hbm := Mem.clear t.hbm (dpa + 4096 * n) 4096
        dev := (t.putPage key (dpa + 4096 * n) []).dev } := rfl
    rw [State.zeroPages, hstep, ih, Nat.mul_succ, ← mem_clear_clear]

theorem zeroAll_frame (s : State) (rs : List (Nat × Nat × List W64)) :
    s.zeroAll rs = { s with hbm := (s.zeroAll rs).hbm, dev := (s.zeroAll rs).dev } := by
  induction rs with
  | nil => rfl
  | cons r rs ih => rw [State.zeroAll, zeroPages_frame, ih]

theorem zeroAll_hbm_cons (s : State) (r : Nat × Nat × List W64) (rs : List (Nat × Nat × List W64)) :
    (s.zeroAll (r :: rs)).hbm = Mem.clear (s.zeroAll rs).hbm r.1 (4096 * (r.2.1 / 4096)) :=
  congrArg State.hbm (zeroPages_frame (s.zeroAll rs) r.2.2 r.1 (r.2.1 / 4096))

/-- No cell of a range of whole pages is left. -/
theorem zeroAll_clears {s : State} {rs : List (Nat × Nat × List W64)} {e : Host.Cell} (he : e ∈ (s.zeroAll rs).hbm) :
    ∀ r ∈ rs, e.1 < r.1 ∨ r.1 + 4096 * (r.2.1 / 4096) ≤ e.1 := by
  induction rs with
  | nil => exact fun r hr => absurd hr List.not_mem_nil
  | cons q rs ih =>
    rw [zeroAll_hbm_cons, mem_mem_clear] at he
    exact fun r hr => (List.mem_cons.mp hr).elim (fun h => h ▸ he.2) (ih he.1 r)

theorem zeroAll_zero {s : State} {rs : List (Nat × Nat × List W64)} {r : Nat × Nat × List W64} (hr : r ∈ rs)
    (hn : r.2.1 % 4096 = 0) {a : Nat} (h1 : r.1 ≤ a) (h2 : a < r.1 + r.2.1) : Mem.get (s.zeroAll rs).hbm a = 0 := by
  refine mem_get_of_absent fun e he hea => ?_
  have := zeroAll_clears he r hr
  omega

theorem zeroAll_out {s : State} (hs : Mem.wf s.hbm = true) {rs : List (Nat × Nat × List W64)} {a : Nat}
    (ho : ∀ r ∈ rs, a < r.1 ∨ r.1 + r.2.1 ≤ a) : Mem.wf (s.zeroAll rs).hbm = true ∧
      Mem.get (s.zeroAll rs).hbm a = Mem.get s.hbm a := by
  induction rs with
  | nil => exact ⟨hs, rfl⟩
  | cons r rs ih =>
    obtain ⟨hwf, hget⟩ := ih fun q hq => ho q (List.mem_cons_of_mem _ hq)
    have hr := ho r List.mem_cons_self
    rw [zeroAll_hbm_cons]
    exact ⟨mem_wf_clear hwf _ _, (mem_get_clear_out hwf (by omega)).trans hget⟩

/-! ### The wipe of a tile (entry 79) -/

/-- An accumulator tile that a sheaf of another virtual device holds. -/
def heldByOther (s : State) (vd : Nat) (a : AccState) : Bool := a.sheaf.any fun n => (s.sheafOf n).vd != vd

/-- A tile that a placed sheaf of another virtual device has. -/
def servesOther (s : State) (vd tile : Nat) : Bool :=
  s.sheaves.any fun e => (s.sheafOf e.1).vd != vd && s.occupies e.1 e.2 && e.2.tiles.contains tile

/-- A tile whose units the pass clears. -/
def tileWiped (s : State) (vd tile : Nat) : Prop := (s.tileOf tile).vd = some vd ∨ servesOther s vd tile = false

/-- A tile that serves no virtual device, of whose local memory nothing is left. -/
def isWiped (tile : Nat) (s : State) : Prop := (s.tileOf tile).vd = none ∧ ∀ e ∈ s.lmem, e.1 / 2 ^ 22 ≠ tile

theorem loseTrace_frame (s : State) (tile : Nat) : s.loseTrace tile = { s with vds := (s.loseTrace tile).vds } := by
  unfold State.loseTrace
  split
  · split <;> rfl
  · rfl

theorem clearTile_tileOf (s : State) (tile m : Nat) : (s.clearTile tile).tileOf m = if tile = m then { Tile.zero with
      acc := (s.tileOf m).acc
      accBad := (s.tileOf m).accBad
      l2 := (s.tileOf m).l2
      walk := (s.tileOf m).walk
      duty := (s.tileOf m).duty
      ramp := (s.tileOf m).ramp
      run := (s.tileOf m).run } else s.tileOf m := by
  have ht : (s.loseTrace tile).tiles = s.tiles := (congrArg State.tiles (loseTrace_frame s tile) :)
  simp only [State.clearTile, State.tileOf, Tab.getD, tab_find_upd, ht]
  split_ifs
  · cases Tab.find s.tiles m <;> rfl
  · rfl

theorem clearTile_frame (s : State) (tile : Nat) : s.clearTile tile = { s with
    vds := (s.clearTile tile).vds
    lmem := s.lmem.filter fun e => !(e.1 * 1 / 2 ^ 22 == tile)
    fe := (s.clearTile tile).fe
    wbuf := (s.clearTile tile).wbuf
    tiles := (s.clearTile tile).tiles } := by
  unfold State.clearTile
  dsimp only
  rw [loseTrace_frame]

/-- The accumulator elements of a tile are lost that no other virtual device's sheaf holds. -/
def withoutElements (s : State) (vd tile : Nat) : State :=
  { s with accm := s.accm.filter fun e =>
      !(e.1 / 2 ^ 20 == tile && !heldByOther s vd ((s.tileOf tile).acc.toList.getD (e.1 / 2 ^ 14 % 64) .free)) }

/-- A tile's accumulator tiles are FREE where no other virtual device's sheaf holds them. -/
def freeAcc (s : State) (vd : Nat) (t : Tile) : Tile :=
  { t with acc := t.acc.map fun a => if heldByOther s vd a = true then a else .free }

section
variable {s : State} {vd tile : Nat}

theorem wipeTile_eq (s : State) (vd tile : Nat) : s.wipeTile vd tile =
    if (s.tileOf tile).vd ≠ some vd ∧ servesOther s vd tile = true then
      (withoutElements s vd tile).updTile tile (freeAcc s vd)
    else ((withoutElements s vd tile).clearTile tile).updTile tile fun t =>
      { freeAcc s vd t with vd := none, accBad := [], accZero := [] } := rfl

theorem wipeTile_shared (h : ¬ tileWiped s vd tile) :
    s.wipeTile vd tile = (withoutElements s vd tile).updTile tile (freeAcc s vd) := by
  rw [wipeTile_eq, if_pos]
  simpa [tileWiped] using h

theorem wipeTile_own (h : tileWiped s vd tile) : s.wipeTile vd tile =
    ((withoutElements s vd tile).clearTile tile).updTile tile fun t =>
      { freeAcc s vd t with vd := none, accBad := [], accZero := [] } := by
  rw [wipeTile_eq, if_neg]
  simpa [tileWiped, Decidable.or_iff_not_imp_left] using h

end

/-- The pass over one tile leaves contexts, grains, sheaves and device memory. -/
theorem wipeTile_frame (s : State) (vd tile : Nat) : s.wipeTile vd tile = { s with
    vds := (s.wipeTile vd tile).vds
    lmem := (s.wipeTile vd tile).lmem
    fe := (s.wipeTile vd tile).fe
    wbuf := (s.wipeTile vd tile).wbuf
    accm := (s.wipeTile vd tile).accm
    tiles := (s.wipeTile vd tile).tiles } := by
  by_cases h : tileWiped s vd tile
  · rw [wipeTile_own h, clearTile_frame]
    rfl
  · rw [wipeTile_shared h]
    rfl

theorem wipeTile_lmem (s : State) (vd tile : Nat) {e : Host.Cell} (he : e ∈ (s.wipeTile vd tile).lmem) :
    e ∈ s.lmem ∧ (tileWiped s vd tile → e.1 / 2 ^ 22 ≠ tile) := by
  by_cases h : tileWiped s vd tile
  · rw [wipeTile_own h, clearTile_frame] at he
    have hm := List.mem_filter.mp he
    exact ⟨hm.1, fun _ => by simpa using hm.2⟩
  · rw [wipeTile_shared h] at he
    exact ⟨he, fun h' => absurd h' h⟩

theorem wipeTile_tileOf_ne (s : State) (vd : Nat) {tile m : Nat} (hm : m ≠ tile) :
    (s.wipeTile vd tile).tileOf m = s.tileOf m := by
  by_cases h : tileWiped s vd tile
  · rw [wipeTile_own h, updTile_tileOf_ne _ _ hm, clearTile_tileOf, if_neg (Ne.symm hm)]
    rfl
  · rw [wipeTile_shared h, updTile_tileOf_ne _ _ hm]
    rfl

theorem wipeTile_vd (s : State) (vd tile : Nat) (h : tileWiped s vd tile) : ((s.wipeTile vd tile).tileOf tile).vd = none := by
  rw [wipeTile_own h, updTile_tileOf_self]

theorem wipeTile_shared_vd (s : State) (vd tile : Nat) (h : ¬ tileWiped s vd tile) :
    ((s.wipeTile vd tile).tileOf tile).vd = (s.tileOf tile).vd := by
  rw [wipeTile_shared h, updTile_tileOf_self]
  rfl

theorem wipeTile_acc (s : State) (vd tile : Nat) (a : Fin 64) : ((s.wipeTile vd tile).tileOf tile).acc[a] =
    if heldByOther s vd (s.tileOf tile).acc[a] = true then (s.tileOf tile).acc[a] else .free := by
  have hacc : ((s.wipeTile vd tile).tileOf tile).acc = (freeAcc s vd (s.tileOf tile)).acc := by
    by_cases h : tileWiped s vd tile
    · rw [wipeTile_own h, updTile_tileOf_self, clearTile_tileOf, if_pos rfl]
      rfl
    · rw [wipeTile_shared h, updTile_tileOf_self]
      rfl
  rw [hacc, freeAcc]
  simp

/-- Which sheaves hold what does not change in the pass. -/
theorem wipeTile_sheafOf (s : State) (vd tile n : Nat) : (s.wipeTile vd tile).sheafOf n = s.sheafOf n := by
  rw [wipeTile_frame]
  rfl

theorem wipeTile_servesOther (s : State) (vd tile m : Nat) : servesOther (s.wipeTile vd tile) vd m = servesOther s vd m := by
  rw [wipeTile_frame]
  rfl

/-! ### The wipe of all tiles that a virtual device used -/

theorem isWiped_wipeTile {s : State} {tile : Nat} (vd m : Nat) (h : isWiped tile s) : isWiped tile (s.wipeTile vd m) := by
  refine ⟨?_, fun e he => h.2 e (wipeTile_lmem s vd m he).1⟩
  by_cases hm : tile = m
  · subst hm
    by_cases hw : tileWiped s vd tile
    · exact wipeTile_vd s vd tile hw
    · exact (wipeTile_shared_vd s vd tile hw).trans h.1
  · rw [wipeTile_tileOf_ne s vd hm]
    exact h.1

theorem wipeTile_wipes {s : State} {vd tile : Nat} (h : tileWiped s vd tile) : isWiped tile (s.wipeTile vd tile) :=
  ⟨wipeTile_vd s vd tile h, fun _ he => (wipeTile_lmem s vd tile he).2 h⟩

theorem tileWiped_wipeTile {s : State} {vd tile m : Nat} (hm : tile ≠ m) (h : tileWiped s vd tile) :
    tileWiped (s.wipeTile vd m) vd tile := by
  unfold tileWiped at *
  rwa [wipeTile_tileOf_ne s vd hm, wipeTile_servesOther]

/-- The tiles of a list after the pass. -/
def wiped (s : State) (vd : Nat) (tiles : List Nat) : State := tiles.foldl (fun s t => s.wipeTile vd t) s

theorem wiped_isWiped {s : State} {vd tile : Nat} {tiles : List Nat} (ht : tile ∈ tiles) (h : tileWiped s vd tile) :
    isWiped tile (wiped s vd tiles) := by
  refine foldl_reaches (P := fun s => tileWiped s vd tile ∨ isWiped tile s) ?_ (fun s m hs => isWiped_wipeTile vd m hs) ?_ ht
    (.inl h)
  · rintro s m (hs | hs)
    · by_cases hm : tile = m
      · exact .inr (hm ▸ wipeTile_wipes (hm ▸ hs))
      · exact .inl (tileWiped_wipeTile hm hs)
    · exact .inr (isWiped_wipeTile vd m hs)
  · rintro s (hs | hs)
    · exact wipeTile_wipes hs
    · exact isWiped_wipeTile vd tile hs

/-- An accumulator tile that no sheaf of another virtual device holds. -/
def accReleasable (vd tile : Nat) (a : Fin 64) (s : State) : Prop :=
  ∀ n, ((s.tileOf tile).acc[a]).sheaf = some n → (s.sheafOf n).vd = vd

theorem heldByOther_false {s : State} {vd tile : Nat} {a : Fin 64} (h : accReleasable vd tile a s) :
    heldByOther s vd (s.tileOf tile).acc[a] = false := by
  unfold heldByOther
  cases hs : ((s.tileOf tile).acc[a]).sheaf with
  | none => rfl
  | some n => simp [h n hs]

theorem wipeTile_frees {s : State} {vd tile : Nat} {a : Fin 64} (h : accReleasable vd tile a s) :
    ((s.wipeTile vd tile).tileOf tile).acc[a] = .free := by
  rw [wipeTile_acc, heldByOther_false h]
  simp

theorem accFree_wipeTile {s : State} {tile : Nat} {a : Fin 64} (vd m : Nat) (h : (s.tileOf tile).acc[a] = .free) :
    ((s.wipeTile vd m).tileOf tile).acc[a] = .free := by
  by_cases hm : tile = m
  · subst hm
    rw [wipeTile_acc, h, ite_self]
  · rw [wipeTile_tileOf_ne s vd hm, h]

theorem accReleasable_wipeTile {s : State} {vd tile : Nat} {a : Fin 64} (m : Nat) (h : accReleasable vd tile a s) :
    accReleasable vd tile a (s.wipeTile vd m) := by
  intro n hn
  rw [wipeTile_sheafOf]
  by_cases hm : tile = m
  · subst hm
    rw [wipeTile_frees h] at hn
    cases hn
  · rw [wipeTile_tileOf_ne s vd hm] at hn
    exact h n hn

theorem wiped_accFree {s : State} {vd tile : Nat} {tiles : List Nat} {a : Fin 64} (ht : tile ∈ tiles)
    (h : accReleasable vd tile a s) : ((wiped s vd tiles).tileOf tile).acc[a] = .free :=
  foldl_reaches (P := accReleasable vd tile a) (Q := fun s => (s.tileOf tile).acc[a] = .free)
    (fun _ m hs => accReleasable_wipeTile m hs) (fun _ m hs => accFree_wipeTile vd m hs) (fun _ hs => wipeTile_frees hs) ht h

theorem wiped_ctxs_hbm (s : State) (vd : Nat) (tiles : List Nat) :
    (wiped s vd tiles).ctxs = s.ctxs ∧ (wiped s vd tiles).hbm = s.hbm := by
  refine List.foldlRecOn (motive := fun u : State => u.ctxs = s.ctxs ∧ u.hbm = s.hbm) tiles _ ⟨rfl, rfl⟩ fun u hu t _ => ?_
  rw [wipeTile_frame]
  exact hu

/-! ### The end of the pass -/

/-- The state when the ranges are zeroed and the tiles are wiped. -/
def passed (s : State) (vd : Nat) (rs : List (Nat × Nat × List W64)) : State :=
  wiped (s.zeroAll rs) vd (s.vdOf vd).usedTiles

theorem zeroAll_vdOf (s : State) (rs : List (Nat × Nat × List W64)) (n : Nat) : (s.zeroAll rs).vdOf n = s.vdOf n := by
  rw [zeroAll_frame]
  rfl

theorem zeroingDone_idle {s : State} {vd : Nat} (h : (s.vdOf vd).zeroing = none) : exec (.zeroingDone vd) s = .next s := by
  simp only [exec_zeroingDone, execZeroingDone, State.zeroDone, h]

section
variable {s : State} {vd d : Nat} {rs : List (Nat × Nat × List W64)} (h : (s.vdOf vd).zeroing = some (d, rs))
include h

theorem zeroingDone_early (hd : s.slot < d) : exec (.zeroingDone vd) s = .next s := by
  simp only [exec_zeroingDone, execZeroingDone, State.zeroDone, h, if_pos hd]

theorem zeroingDone_ends (hd : d ≤ s.slot) : exec (.zeroingDone vd) s =
    .next (((passed s vd rs).updVd vd fun v => { v with zeroing := none, usedTiles := [] }).setHyp vd rVDCTL
      (((passed s vd rs).updVd vd fun v => { v with zeroing := none, usedTiles := [] }).hyp vd rVDCTL ||| maskBits 61 61)) := by
  simp only [exec_zeroingDone, execZeroingDone, State.zeroDone, h, if_neg (Nat.not_lt.mpr hd), zeroAll_vdOf]
  rfl

end

theorem tileWiped_zeroAll {s : State} {vd tile : Nat} (rs : List (Nat × Nat × List W64))
    (h : (s.tileOf tile).vd = some vd ∨ (∀ e ∈ s.sheaves, (s.sheafOf e.1).vd ≠ vd → s.occupies e.1 e.2 = true →
      tile ∉ e.2.tiles)) : tileWiped (s.zeroAll rs) vd tile := by
  rw [zeroAll_frame]
  refine h.imp id fun hs => ?_
  simp only [servesOther, List.any_eq_false, Bool.and_eq_true, bne_iff_ne, List.contains_iff_mem, not_and]
  exact fun e he hv => hs e he hv.1 hv.2

theorem accReleasable_zeroAll {s : State} {vd tile : Nat} {a : Fin 64} (rs : List (Nat × Nat × List W64))
    (h : accReleasable vd tile a s) : accReleasable vd tile a (s.zeroAll rs) := by
  rw [zeroAll_frame]
  exact h

/-- The end of the pass: READY is 1, the ranges read as zero, and so do the tiles that no other virtual device has. -/
theorem zeroingDone_result {s : State} {vd d : Nat} {rs : List (Nat × Nat × List W64)}
    (h : (s.vdOf vd).zeroing = some (d, rs)) (hd : d ≤ s.slot) :
    ∃ t, exec (.zeroingDone vd) s = .next t ∧ bit (t.hyp vd rVDCTL) 61 = true ∧ (t.vdOf vd).zeroing = none ∧
      t.ctxs = s.ctxs ∧ t.hbm = (s.zeroAll rs).hbm ∧ t.lmem = (passed s vd rs).lmem ∧
      ∀ tile, t.tileOf tile = (passed s vd rs).tileOf tile := by
  obtain ⟨hctxs, hhbm⟩ := wiped_ctxs_hbm (s.zeroAll rs) vd (s.vdOf vd).usedTiles
  refine ⟨_, zeroingDone_ends h hd, ?_, ?_, ?_, hhbm, rfl, fun tile => rfl⟩
  · rw [setHyp_hyp_self, bit_or, bit_maskBits (by decide)]
    simp
  · rw [setHyp_zeroing, updVd_vdOf_self]
  · exact hctxs.trans (congrArg State.ctxs (zeroAll_frame s rs) :)

/-- Settles O50: host accesses by their page and alignment, VDCTL by its RESET bit, and the zeroing pass by its end. -/
theorem hostAccessesAndReset : Obligations.HostAccessesAndReset := by
  refine ⟨fun s page off n v vd o => ⟨fun h8 hn => hostUnsupportedAccess_aligned s page ⟨h8, hn⟩,
    hostUnsupportedAccess_other s page, registerWrite_misaligned s page v, registerWrite_notReady s vd off v, fun hb => ?_,
    signalWindowRead_misaligned s vd, fun y bs h8 hg => ?_⟩, fun s vd v => ⟨vdReset_sets s vd, fun h => ?_,
    zeroingDone_idle, fun d rs hz => ⟨zeroingDone_early hz, fun hd => ?_, fun hd t ht tile hu a ha => ?_⟩⟩⟩
  · exact ⟨evqctl_write hb vd v, ⟨s, registerWrite_control_readOnly hb vd v (by decide) rfl, rfl⟩, evqhead_write hb vd v,
      s2base_write hb vd v, lqbase_write hb vd v⟩
  · exact ⟨_, signalWindowRead_returns h8 hg, rfl, rfl, fun _ => ⟨rfl, rfl, rfl, rfl, rfl, rfl⟩⟩
  · obtain ⟨t, ht, hen, hepoch, hready, hzero, hends, hcirc, hpages, hhbm⟩ := vdReset_resets s vd h
    exact ⟨t, ht, hen, hepoch, hready, hzero, hends, hcirc, fun i => (hpages i).trans (abandonPage_eq _ _), hhbm⟩
  · obtain ⟨t, ht, hready, hzero, hctxs, hhbm, hlmem, htile⟩ := zeroingDone_result hz hd
    refine ⟨t, ht, hready, hzero, hctxs, fun r hr hn a h1 h2 => ?_, fun hwf a ho => ?_, fun tile hu hcond => ?_⟩
    · rw [hhbm, zeroAll_zero hr hn h1 h2]
    · rw [hhbm, (zeroAll_out hwf ho).2]
    · obtain ⟨hvd, hgone⟩ := wiped_isWiped hu (tileWiped_zeroAll rs hcond)
      refine ⟨(congrArg Tile.vd (htile tile)).trans hvd, fun a ha => ?_⟩
      rw [hlmem]
      exact mem_get_of_absent fun e he hea => hgone e he (hea ▸ ha)
  · obtain ⟨u, hu', -, -, -, -, -, htile⟩ := zeroingDone_result hz hd
    obtain rfl : u = t := Host.Outcome.next.inj (hu'.symm.trans ht)
    rw [htile]
    exact wiped_accFree hu (accReleasable_zeroAll rs ha)

end Sys2Proof.Proofs
end

section
/-! The state that a cold reset leaves (15 R364). -/

namespace Sys2Proof.Proofs

open Sys2Proof.Machine Sys2Proof.Laws

theorem reset_ctl (vd off : Nat) : State.reset.ctl vd off = resetWord controlSpecs off := rfl

theorem reset_hyp (vd off : Nat) : State.reset.hyp vd off = resetWord hyperSpecs off := rfl

/-- Before bring-up has reached a stage, only the boot status answers. -/
theorem reset_readMgmt {off : Nat} (h : off ≠ rBOOTSTAT) : State.reset.readReg .mgmt off = 0 := by
  have hboot : State.reset.bootReady = false := by decide
  have hatt : State.reset.attUp = false := by decide
  simp [State.readReg, hboot, hatt, h]

/-- Settles O58: a table without entries gives each unit its reset value. -/
theorem resetState : Obligations.ResetState := by
  unfold Obligations.ResetState
  refine ⟨rfl, rfl, rfl, rfl, rfl, by decide, by decide, by decide, fun _ h => reset_readMgmt h, fun _ _ => ⟨rfl, rfl⟩, fun vd => ?_,
    fun _ => (by decide : ∀ i : Fin 8, Core.zero.bankpwr[i] = 0xAAAA_AAAA_AAAA_AAAA), fun _ => ⟨rfl, rfl, rfl, rfl⟩, by decide,
    by decide, rfl, rfl, rfl, fun _ => (by decide : ∀ a : Fin 64, Tile.zero.acc[a] = .free)⟩
  simp only [reset_ctl, reset_hyp]
  decide

end Sys2Proof.Proofs
end

section
/-! Every instruction that a context issues, guarded off, and what sources and guards read (01 R17 to R19). -/

namespace Sys2Proof.Proofs

open Sys2Proof.Machine Sys2Proof.Laws

/-- An instruction of a context is issued, in as many bytes as its encoding has. -/
theorem exec_issues {i : Instr} {h : Head} (hi : headOf i = some h) (s : State) :
    ∃ n body, exec i s = issue h n s body ∧ ∀ f, Instr.fields i = some f → n = lenBytes f.len := by
  unfold exec
  cases i with
  | add _ _ b | sub _ _ b | mul _ _ b | mulh _ _ b | mulhu _ _ b | div _ _ b | divu _ _ b | rem _ _ b | remu _ _ b
      | minS _ _ b | maxS _ _ b | minu _ _ b | maxu _ _ b | andW _ _ b | orW _ _ b | xorW _ _ b | andn _ _ b | orn _ _ b
      | shl _ _ b | shr _ _ b | sra _ _ b | rot _ _ b | bext _ _ b | sext _ _ b | zext _ _ b | ceq _ _ b | cne _ _ b
      | clt _ _ b | cle _ _ b | cltu _ _ b | cleu _ _ b | fadd _ _ b | fsub _ _ b | fmul _ _ b | fmin _ _ b | fmax _ _ b
      | fceq _ _ b | fclt _ _ b | fcle _ _ b =>
    cases hi
    exact ⟨_, _, rfl, fun f e => by cases e; cases b <;> rfl⟩
  | bins _ _ _ c | sel _ _ _ c | ffma _ _ _ c =>
    cases hi
    exact ⟨_, _, rfl, fun f e => by cases e; cases c <;> rfl⟩
  | evwaitLoad | mutexTake | mutexTry | mutexRelease | tileBarrierArrive | tileBarrierWait | tbcfgWrite | rqcfgWrite
      | mqwtWrite =>
    cases hi
    exact ⟨_, _, rfl, fun f e => nomatch e⟩
  | clz | ctz | popc | fabs | fneg | frcp | frsq | fclass | hexit | nop | ld | st | ldg | stg | ldsync | ldsyncC | stfull
      | setempty | amoSwap | amoCas | amoAdd | amoFadd | amoMin | amoMax | amoAnd | amoOr | amoXor | redAdd | redFadd
      | redMin | redMax | redAnd | redOr | redXor | fence | fenceAcq | fenceRel | vadd | vsub | vmul | vfma | vfms | vmin
      | vmax | vabs | vneg | vexp2 | vlog2 | vrcp | vrsq | vcvt | vand | vor | vxor | vshl | vshr | vsra | vcmp | vsel
      | vbcast | vmov | vperm | vredadd | vredmax | vredmin | vscan | vgath | vscat | mwld | mma | mmaSp | mzero | maccRd
      | maccWr | macq | mrel | mpin | munpin | mstat | deltaUpd | deltaChunk | deltaQry | tfence | eret | chkpt | halt
      | movR | ret | brx | vsetvl | launch | disarm | cktRel | cktStat | fcvt | movhi | psetKeep | padd | loopI | barWait
      | rdvGet | rqtake | wpwait | sigDec | locq | swr | srsRd | rqput | mwldImg | mwldGl | pset | rdvPut | arm | srsWr
      | cktReq | ringDef | cpy | coll | cpy2d | gath | snap | movi | lit | paddImm | pget | br | jmp | call | hstart
      | hjoin | barArv | barSync | evsig | vsetvlImm | trapN | svc | srd | prio | time | pwrReq =>
    cases hi
    exact ⟨_, _, rfl, fun f e => by cases e; rfl⟩
  | _ => exact nomatch hi

theorem src_g_of_nothing_pending {s : State} (hp : s.me.pend = []) (k : Nat) (n : Fin 16) : s.src k (.g n) = s.me.g[n] := by
  simp [State.src, Ctx.src, hp]

theorem src_q_of_nothing_pending {s : State} (hp : s.me.pend = []) (k : Nat) (n : Fin 16) : s.src k (.q n) = s.me.q[n] := by
  simp [State.src, Ctx.src, hp]

theorem guardOn_on {s : State} {h : Head} {neg : Bool} {r : Src} {b : Fin 64} (hg : h.guard = .on neg r b) :
    s.guardOn h = (bit (s.src 0 r) b.val != neg) := by
  simp [State.guardOn, State.src, hg]

/-- Settles O5: whatever is issued runs its push alone when it is guarded off, and a source without a pending result is its
register. -/
theorem guardsAndSourceOperands : Obligations.GuardsAndSourceOperands := by
  refine ⟨fun i s h hi hs => ?_, fun s k n b v w c f hp => ?_⟩
  · obtain ⟨n, body, he, hn⟩ := exec_issues hi s
    exact ⟨s.skip h n, n, he.trans (issue_skips hs n body), skip_writes (skips_lives hs) h n, hn⟩
  · have hg (k) : s.src k (.g n) = s.me.g[n] := src_g_of_nothing_pending hp k n
    have hq (k) : s.src k (.q n) = s.me.q[n] := src_q_of_nothing_pending hp k n
    refine ⟨hg k, hq k, rfl, rfl, rfl, rfl, rfl, rfl, by simp only [State.fop, hg k], fun h ha => by simp [State.guardOn, ha],
      fun h neg ho => ?_, fun h neg ho => ?_⟩
    · rw [guardOn_on ho, hg]
    · rw [guardOn_on ho, hq]

end Sys2Proof.Proofs
end

section
/-! An exact fault of a context whose results are written (01 R34; 11 R281, R282). -/

namespace Sys2Proof.Proofs

open Sys2Proof.Machine Sys2Proof.Laws

/-! ### What a trap takes out of the engine -/

theorem lessPend_frame (s : State) (c : CtxId) (level n : Nat) : ∃ h, s.lessPend c level n = { s with sheaves := h } := by
  unfold State.lessPend
  split
  · exact ⟨s.sheaves, rfl⟩
  · exact ⟨_, rfl⟩

theorem foldl_lessPend_frame (s : State) (c : CtxId) (es : List ECmd) :
    ∃ h, es.foldl (fun s e => s.lessPend c e.plv e.bytes) s = { s with sheaves := h } := by
  induction es generalizing s with
  | nil => exact ⟨s.sheaves, rfl⟩
  | cons e es ih =>
    obtain ⟨h, he⟩ := lessPend_frame s c e.plv e.bytes
    obtain ⟨k, hk⟩ := ih { s with sheaves := h }
    exact ⟨k, by rw [List.foldl_cons, he, hk]⟩

theorem leaveEngine_frame (s : State) (c : CtxId) (keep : List Nat) :
    ∃ t h, s.leaveEngine c keep = { s with tiles := t, sheaves := h } := by
  unfold State.leaveEngine
  dsimp only
  split
  · exact ⟨s.tiles, s.sheaves, rfl⟩
  · obtain ⟨h, hf⟩ := foldl_lessPend_frame s c _
    rw [hf]
    exact ⟨_, h, rfl⟩

theorem parkEngine_frame (s : State) (c : CtxId) : ∃ t h, s.parkEngine c = { s with tiles := t, sheaves := h } := by
  unfold State.parkEngine
  dsimp only
  obtain ⟨t, h, hl⟩ := leaveEngine_frame s c _
  rw [hl]
  split
  · exact ⟨t, h, rfl⟩
  · exact ⟨_, h, rfl⟩

/-! ### The entry -/

theorem ctx_cur_of_lives {s : State} (hl : s.lives = true) : s.ctx s.cur = some s.me := by
  obtain ⟨x, hx⟩ := Option.isSome_iff_exists.mp hl
  rw [hx]
  simp only [State.ctx] at hx
  simp [State.me, hx]

theorem exact_entersHandler {s : State} {cause detail : Nat} {addr : W64} {restart : Bool} (hl : s.lives = true)
    (hpend : s.me.pend = []) (hout : s.me.out = none) (hvec : s.vecBusy s.cur = false) (hh : s.me.handler = false)
    (hd : s.me.dead = false) (he : s.grain.handler ≠ 0) (hsvc : cause ≠ Cause.svc) (htr : cause ≠ Cause.translation)
    (hmi : cause ≠ Cause.migration) :
    ∃ u : State, u.cur = s.cur ∧ u.me = s.me ∧ u.lives = true ∧ (∀ c, c ≠ s.cur → u.ctx c = s.ctx c) ∧ sameMem s u ∧
      s.exact cause detail addr restart = u.updMe fun x =>
        { x.trapRegs ⟨cause, detail, addr, restart, false, 0⟩ s.me.pc with handler := true, pc := s.grain.handler } := by
  obtain ⟨t, h, hp⟩ := parkEngine_frame (s.updCtx s.cur Ctx.recordOut) s.cur
  have hrec : s.me.recordOut = s.me := by simp [Ctx.recordOut, hout]
  have hctx : (s.updCtx s.cur Ctx.recordOut).ctx s.cur = some s.me := by
    rw [updCtx_ctx_self, ctx_cur_of_lives hl, Option.map_some, hrec]
  let u : State := ({ s.updCtx s.cur Ctx.recordOut with tiles := t, sheaves := h } : State).fresh
  have hu : u.ctx s.cur = some s.me := hctx
  refine ⟨u, rfl, (updMe_me s _ hl).trans hrec, Option.isSome_iff_exists.mpr ⟨_, hu⟩, fun c hc => updCtx_ctx_ne s _ hc,
    sameMem_of_eq rfl rfl rfl rfl rfl rfl, ?_⟩
  have hready : u.trapReady s.cur s.me = true := by
    simp only [State.trapReady, hpend, List.isEmpty_nil, Bool.true_and, Bool.not_eq_true']
    exact hvec
  have hdel : (s.me.handler || s.grain.handler == 0 || s.me.dead) = false := by
    rw [hh, hd, beq_eq_false_iff_ne.mpr he]
    rfl
  unfold State.exact State.takeTrap
  rw [hp]
  change (match u.ctx s.cur with
    | none => u
    | some x => if u.trapReady s.cur x then u.enterTrap s.cur _ _ else _) = _
  simp only [hu, hready, if_true, State.enterTrap, hsvc, htr, hmi, if_false, false_or, false_and, State.deliver]
  change (if (s.me.handler || s.grain.handler == 0 || s.me.dead) = true then _ else _) = _
  rw [hdel]
  rfl

/-- Settles O7: nothing is recorded and nothing is awaited, so that the entry does not wait. -/
theorem exactFaultEntersHandler : Obligations.ExactFaultEntersHandler := by
  intro s cause detail addr restart hl hpend hout hvec hh hd he hc hdet hsvc htr hmi t
  obtain ⟨u, hcur, hme, hul, hothers, hmem, ht⟩ :=
    exact_entersHandler (detail := detail) (addr := addr) (restart := restart) hl hpend hout hvec hh hd he hsvc htr hmi
  have hword : (⟨cause, detail, addr, restart, false, 0⟩ : Trap).word =
      BitVec.ofNat 64 (cause + detail * 2 ^ 8 + (if restart then 2 ^ 16 else 0)) := by
    simp only [Trap.word, Nat.mod_eq_of_lt hc, Nat.mod_eq_of_lt hdet, Bool.false_eq_true, if_false, Nat.add_zero]
  refine ⟨?_, fun c hne => ?_, ?_⟩
  · change (s.exact cause detail addr restart).me = _
    rw [ht, updMe_me u _ hul, hme]
    simp only [Ctx.trapRegs, hword]
  · change (s.exact cause detail addr restart).ctx c = _
    rw [ht, updMe_ctx_ne u _ (hcur ▸ hne), hothers c hne]
  · change sameMem s (s.exact cause detail addr restart)
    rw [ht]
    exact hmem

end Sys2Proof.Proofs
end


section
/-! What a step keeps of the tables and the memories: a state that another one leads to has distinct keys where that one had,
and memories of canonical form where that one had (01 R12, R13; entry 2). -/

namespace Sys2Proof.Proofs

open Sys2Proof.Machine Sys2Proof.Laws

/-! ### Tables whose keys stay distinct -/

/-- Where the keys of the first table are distinct, so are those of the second. -/
def KeysKept {κ α : Type} (t u : Tab κ α) : Prop := (t.map Prod.fst).Nodup → (u.map Prod.fst).Nodup

section
variable {κ α : Type} [DecidableEq κ] {t u : Tab κ α}

theorem tab_keys_upd (t : Tab κ α) (k : κ) (f : α → α) : (Tab.upd t k f).map Prod.fst = t.map Prod.fst := by
  induction t with
  | nil => rfl
  | cons e t ih =>
    obtain ⟨j, v⟩ := e
    by_cases hj : j = k <;> simp [Tab.upd, hj, ih]

theorem tab_keys_put (t : Tab κ α) (k : κ) (v : α) :
    (Tab.put t k v).map Prod.fst = if k ∈ t.map Prod.fst then t.map Prod.fst else t.map Prod.fst ++ [k] := by
  induction t with
  | nil => rfl
  | cons e t ih =>
    obtain ⟨j, w⟩ := e
    by_cases hj : j = k
    · simp [Tab.put, hj]
    · simp only [Tab.put, if_neg hj, List.map_cons, ih, List.mem_cons, Ne.symm hj, false_or]
      split_ifs <;> rfl

theorem KeysKept.upd (h : KeysKept t u) (k : κ) (f : α → α) : KeysKept t (Tab.upd u k f) := fun ht => by
  rw [tab_keys_upd]
  exact h ht

theorem KeysKept.put (h : KeysKept t u) (k : κ) (v : α) : KeysKept t (Tab.put u k v) := fun ht => by
  rw [tab_keys_put]
  split_ifs with hk
  · exact h ht
  · exact List.nodup_append.mpr ⟨h ht, List.nodup_singleton k, fun a ha b hb e => hk (List.mem_singleton.mp hb ▸ e ▸ ha)⟩

theorem KeysKept.filter {κ α : Type} {t u : Tab κ α} (h : KeysKept t u) (p : κ × α → Bool) : KeysKept t (u.filter p) :=
  fun ht => (h ht).sublist (List.filter_sublist.map Prod.fst)

theorem KeysKept.map {κ α : Type} {t u : Tab κ α} (h : KeysKept t u) {f : κ × α → κ × α} (hf : ∀ e, (f e).1 = e.1) :
    KeysKept t (u.map f) := fun ht => by
  rw [List.map_map, show Prod.fst ∘ f = Prod.fst from funext hf]
  exact h ht

end

/-! ### Memories that stay in canonical form -/

/-- Where the first memory is in canonical form, so is the second. -/
def FormKept (m n : Mem) : Prop := Mem.wf m = true → Mem.wf n = true

section
variable {m n : Mem}

theorem FormKept.set (h : FormKept m n) (a : Nat) (v : Byte) : FormKept m (Mem.set n a v) := fun hm => mem_wf_set (h hm) a v

theorem FormKept.write (h : FormKept m n) (a : Nat) (bs : List Byte) : FormKept m (Mem.write n a bs) :=
  fun hm => mem_wf_write (h hm) a bs

theorem FormKept.filter (h : FormKept m n) (p : Host.Cell → Bool) : FormKept m (n.filter p) := fun hm => mem_wf_filter (h hm) p

theorem FormKept.clear (h : FormKept m n) (a k : Nat) : FormKept m (Mem.clear n a k) := fun hm => mem_wf_clear (h hm) a k

/-- Writes one after another. -/
theorem FormKept.foldl {α : Type} {f : Mem → α → Mem} (h : FormKept m n) (hf : ∀ u a, FormKept m u → FormKept m (f u a))
    (l : List α) : FormKept m (l.foldl f n) :=
  List.foldlRecOn l f h fun u hu a _ => hf u a hu

theorem FormKept.moveCells (h : FormKept m n) (lo k tgt : Nat) : FormKept m (moveCells n lo k tgt) :=
  ((h.clear lo k).clear tgt k).foldl (fun _ _ hu => hu.set _ _) _

end

/-! ### States -/

/-- What the parts of `s` keep of those of `r`, from which it comes. -/
structure Keeps (r s : State) : Prop where
  ctxs : KeysKept r.ctxs s.ctxs
  grains : KeysKept r.grains s.grains
  hbm : FormKept r.hbm s.hbm
  lmem : FormKept r.lmem s.lmem
  fe : FormKept r.fe s.fe
  wbuf : FormKept r.wbuf s.wbuf
  accm : FormKept r.accm s.accm
  host : FormKept r.host s.host

/-- The same for the state that comes with a result, if there is one, and for a next state. -/
def KeepsFst {α : Type} (r : State) (p : State × α) : Prop := Keeps r p.1
def KeepsSome (r : State) (o : Option State) : Prop := ∀ t, o = some t → Keeps r t
def KeepsNext (r : State) (o : Host.Outcome State Fault Refusal) : Prop := ∀ t, o = .next t → Keeps r t

theorem keeps_refl (s : State) : Keeps s s := ⟨id, id, id, id, id, id, id, id⟩

theorem Keeps.tabsOk {r s : State} (h : Keeps r s) (hr : r.tabsOk = true) : s.tabsOk = true := by
  simp only [State.tabsOk, Bool.and_eq_true, decide_eq_true_eq] at *
  exact ⟨h.ctxs hr.1, h.grains hr.2⟩

theorem Keeps.memOk {r s : State} (h : Keeps r s) (hr : r.memOk = true) : s.memOk = true := by
  simp only [State.memOk, Bool.and_eq_true] at *
  obtain ⟨⟨⟨⟨⟨hbm, lmem⟩, fe⟩, wbuf⟩, accm⟩, host⟩ := hr
  exact ⟨⟨⟨⟨⟨h.hbm hbm, h.lmem lmem⟩, h.fe fe⟩, h.wbuf wbuf⟩, h.accm accm⟩, h.host host⟩

/-- The tables and memories of a state. -/
def keptParts (s : State) : Tab CtxId Ctx × Tab (Nat × Nat) Grain × Mem × Mem × Mem × Mem × Mem × Mem :=
  (s.ctxs, s.grains, s.hbm, s.lmem, s.fe, s.wbuf, s.accm, s.host)

/-- A change of the other parts. -/
theorem frame_keeps {r s t : State} (h : Keeps r s) (e : keptParts t = keptParts s) : Keeps r t := by
  simp only [keptParts, Prod.mk.injEq] at e
  obtain ⟨ctxs, grains, hbm, lmem, fe, wbuf, accm, host⟩ := e
  exact ⟨ctxs ▸ h.ctxs, grains ▸ h.grains, hbm ▸ h.hbm, lmem ▸ h.lmem, fe ▸ h.fe, wbuf ▸ h.wbuf, accm ▸ h.accm, host ▸ h.host⟩

/-! ### A change of one table or memory -/

section
variable {r s : State} (h : Keeps r s)
include h

theorem setCtxs_keeps {t : Tab CtxId Ctx} (ht : KeysKept r.ctxs t) : Keeps r { s with ctxs := t } := { h with ctxs := ht }
theorem setGrains_keeps {t : Tab (Nat × Nat) Grain} (ht : KeysKept r.grains t) : Keeps r { s with grains := t } :=
  { h with grains := ht }
theorem setLmem_keeps {m : Mem} (hm : FormKept r.lmem m) : Keeps r { s with lmem := m } := { h with lmem := hm }
theorem setFull_keeps {m : Mem} (hm : FormKept r.fe m) : Keeps r { s with fe := m } := { h with fe := hm }
theorem setWbuf_keeps {m : Mem} (hm : FormKept r.wbuf m) : Keeps r { s with wbuf := m } := { h with wbuf := hm }
theorem setAccm_keeps {m : Mem} (hm : FormKept r.accm m) : Keeps r { s with accm := m } := { h with accm := hm }
theorem setHost_keeps {m : Mem} (hm : FormKept r.host m) : Keeps r { s with host := m } := { h with host := hm }
theorem setCur_keeps {c : CtxId} : Keeps r { s with cur := c } := frame_keeps h (by rfl)
theorem setSched_keeps {l : List Move} : Keeps r { s with sched := l } := frame_keeps h (by rfl)
theorem setSheaves_keeps {t : Tab Nat Sheaf} : Keeps r { s with sheaves := t } := frame_keeps h (by rfl)
theorem setUnits_keeps {q : Tab Nat Quad} {t : Tab Nat Tile} : Keeps r { s with quads := q, tiles := t } :=
  frame_keeps h (by rfl)

end

/-! ### Control flow -/

theorem ite_keeps {α : Type} {P : α → Prop} {c : Prop} [Decidable c] {a b : α} (ha : P a) (hb : P b) :
    P (if c then a else b) := by
  split
  · exact ha
  · exact hb

theorem foldl_keeps {σ α : Type} {P : σ → Prop} {f : σ → α → σ} {l : List α} {s : σ} (h : P s) (hf : ∀ u a, P u → P (f u a)) :
    P (l.foldl f s) :=
  List.foldlRecOn l f h fun u hu a _ => hf u a hu

theorem keeps_of_eq {α : Type} {r t : State} {p : State × α} {x : α} (h : KeepsFst r p) (e : p = (t, x)) : Keeps r t := by
  subst e
  exact h

theorem fst_keeps {α : Type} {r s : State} {x : α} (h : Keeps r s) : KeepsFst r (s, x) := h

theorem some_keeps {r s : State} (h : Keeps r s) : KeepsSome r (some s) := fun _ e => Option.some.inj e ▸ h

theorem none_keeps {r : State} : KeepsSome r none := fun _ e => nomatch e

theorem KeepsSome.bind {r : State} {o : Option State} {f : State → Option State} (h : KeepsSome r o)
    (hf : ∀ u, Keeps r u → KeepsSome r (f u)) : KeepsSome r (o.bind f) := fun t e => by
  obtain ⟨u, ho, hu⟩ := Option.bind_eq_some_iff.mp e
  exact hf u (h u ho) t hu

theorem KeepsSome.map {r : State} {o : Option State} {f : State → State} (h : KeepsSome r o)
    (hf : ∀ u, Keeps r u → Keeps r (f u)) : KeepsSome r (o.map f) := fun t e => by
  obtain ⟨u, ho, hu⟩ := Option.map_eq_some_iff.mp e
  exact hu ▸ hf u (h u ho)

theorem KeepsSome.getD {r s : State} {o : Option State} (h : KeepsSome r o) (hs : Keeps r s) : Keeps r (o.getD s) := by
  cases ho : o with
  | none => exact hs
  | some t => exact h t ho

theorem next_keeps {r s : State} (h : Keeps r s) : KeepsNext r (.next s) := fun _ e => Host.Outcome.next.inj e ▸ h

theorem fault_keeps {r : State} {f : Fault} : KeepsNext r (.fault f) := fun _ e => nomatch e

theorem refused_keeps {r : State} {f : Refusal} : KeepsNext r (.refused f) := fun _ e => nomatch e

/-! ### Lists of steps -/

/-- What each step of a list keeps from a state. -/
def StepsKeep (r s : State) (fs : Steps) : Prop := fs.Forall fun f => Keeps r (f s)

section
variable {α : Type} {r s : State}

theorem StepsKeep.append {a b : Steps} (ha : StepsKeep r s a) (hb : StepsKeep r s b) : StepsKeep r s (a ++ b) :=
  List.forall_append.mpr ⟨ha, hb⟩

theorem stepsKeep_map {l : List α} {f : α → State → State} (hf : ∀ a, Keeps r (f a s)) : StepsKeep r s (l.map f) :=
  (List.forall_map_iff f).mpr (List.forall_iff_forall_mem.mpr fun a _ => hf a)

theorem stepsKeep_flatMap {l : List α} {f : α → Steps} (hf : ∀ a, StepsKeep r s (f a)) : StepsKeep r s (l.flatMap f) := by
  induction l with
  | nil => trivial
  | cons a l ih => exact (hf a).append ih

end

end Sys2Proof.Proofs
end

section
/-! What the operations keep: tables, registers and memories of the device. -/

namespace Sys2Proof.Proofs

open Sys2Proof.Machine Sys2Proof.Laws

variable {r s : State} (h : Keeps r s)
include h

theorem updCtx_keeps {c : CtxId} {f : Ctx → Ctx} : Keeps r (s.updCtx c f) := { h with ctxs := h.ctxs.upd c f }
theorem updMe_keeps {f : Ctx → Ctx} : Keeps r (s.updMe f) := updCtx_keeps h
theorem updGrainOf_keeps {c : CtxId} {f : Grain → Grain} : Keeps r (s.updGrainOf c f) := { h with grains := h.grains.upd _ f }
theorem updGrain_keeps {f : Grain → Grain} : Keeps r (s.updGrain f) := updGrainOf_keeps h
theorem updSheaf_keeps {n : Nat} {f : Sheaf → Sheaf} : Keeps r (s.updSheaf n f) := frame_keeps h (by rfl)
theorem updCore_keeps {n : Nat} {f : Core → Core} : Keeps r (s.updCore n f) := frame_keeps h (by rfl)
theorem updQuad_keeps {n : Nat} {f : Quad → Quad} : Keeps r (s.updQuad n f) := frame_keeps h (by rfl)
theorem updTile_keeps {n : Nat} {f : Tile → Tile} : Keeps r (s.updTile n f) := frame_keeps h (by rfl)
theorem updVd_keeps {n : Nat} {f : Vd → Vd} : Keeps r (s.updVd n f) := frame_keeps h (by rfl)
theorem updDev_keeps {f : Dev → Dev} : Keeps r (s.updDev f) := frame_keeps h (by rfl)
theorem fresh_keeps : Keeps r s.fresh := frame_keeps h (by rfl)

end Sys2Proof.Proofs
end

section
/-! What the operations keep: the device registers. -/

namespace Sys2Proof.Proofs

open Sys2Proof.Machine Sys2Proof.Laws

variable {r s : State} (h : Keeps r s)
include h

theorem setCtl_keeps {vd off : Nat} {w : W64} : Keeps r (s.setCtl vd off w) := updVd_keeps h
theorem setHyp_keeps {vd off : Nat} {w : W64} : Keeps r (s.setHyp vd off w) := updVd_keeps h
theorem setMg_keeps {off : Nat} {w : W64} : Keeps r (s.setMg off w) := updDev_keeps h

end Sys2Proof.Proofs
end

section
/-! What the operations keep: translation and the device memory (12). -/

namespace Sys2Proof.Proofs

open Sys2Proof.Machine Sys2Proof.Laws

variable {r s : State} (h : Keeps r s)
include h

theorem devPut_keeps {key : List W64} {a : Nat} {b : Byte} : Keeps r (s.devPut key a b) := by
  unfold State.devPut
  extract_lets
  split
  · exact { h with hbm := h.hbm.set a b }
  · exact { h with hbm := (h.hbm.write _ _).set a b }

theorem devPuts_keeps {key : List W64} {a : Nat} {bs : List Byte} : Keeps r (s.devPuts key a bs) := by
  induction bs generalizing s a with
  | nil => exact h
  | cons b bs ih => exact ih (devPut_keeps h)

theorem cleanHbm_keeps {p : Nat → Bool} : Keeps r (s.cleanHbm p) := ite_keeps h (updDev_keeps h)
theorem cleanLmem_keeps {p : Nat → Bool} : Keeps r (s.cleanLmem p) := ite_keeps h (updDev_keeps h)
theorem cleanWbuf_keeps {p : Nat → Bool} : Keeps r (s.cleanWbuf p) := ite_keeps h (updDev_keeps h)
theorem cleanAcc_keeps {p : Nat → Bool} : Keeps r (s.cleanAcc p) := ite_keeps h (updDev_keeps h)

theorem devWrite_keeps {key : List W64} {a : Nat} {bs : List Byte} : Keeps r (s.devWrite key a bs) :=
  ite_keeps (cleanHbm_keeps (devPuts_keeps h)) (devPuts_keeps h)

theorem poisonHbm_keeps {ls : List Nat} : Keeps r (s.poisonHbm ls) := updDev_keeps h
theorem poisonHost_keeps {ls : List Nat} : Keeps r (s.poisonHost ls) := updDev_keeps h
theorem cleanHost_keeps {a n : Nat} : Keeps r (s.cleanHost a n) := ite_keeps h (updDev_keeps h)
theorem countError_keeps {place addr : Nat} : Keeps r (s.countError place addr) := setMg_keeps (setMg_keeps h)
theorem countCorrected_keeps {place : Nat} : Keeps r (s.countCorrected place) := setMg_keeps h

theorem setAD_keeps {at_ : Nat} {d : Bool} : Keeps r (s.setAD at_ d) := by
  unfold State.setAD
  exact ite_keeps h (devPuts_keeps h)

theorem walkBoth_keeps {via : Via} {vd va : Nat} {k : Acc} : KeepsFst r (s.walkBoth via vd va k) := by
  have hs (l : List Nat) : Keeps r (l.foldl (fun s at_ => s.setAD at_ false) s) := foldl_keeps h fun _ _ hu => setAD_keeps hu
  unfold State.walkBoth
  dsimp only
  split
  · exact h
  · refine ite_keeps (P := KeepsFst r) (hs _) (ite_keeps (P := KeepsFst r) (hs _) ?_)
    split
    · exact hs _
    · refine ite_keeps (P := KeepsFst r) (hs _) (ite_keeps (P := KeepsFst r) (hs _) (fst_keeps ?_))
      split
      · exact setAD_keeps (hs _)
      · exact updTile_keeps (updCore_keeps (setAD_keeps (hs _)))

theorem tlbRefill_keeps {via : Via} {vd va : Nat} {e : TlbEntry} : Keeps r (s.tlbRefill via vd va e) := by
  unfold State.tlbRefill
  split
  · exact h
  · exact ite_keeps h (updCore_keeps h)

theorem xlate_keeps {via : Via} {vd : Nat} {va : W64} {k : Acc} : KeepsFst r (s.xlate via vd va k) := by
  unfold State.xlate
  dsimp only
  split
  · exact h
  · split
    · exact walkBoth_keeps h
    · exact ite_keeps (tlbRefill_keeps h) (ite_keeps (tlbRefill_keeps h) (ite_keeps (walkBoth_keeps (tlbRefill_keeps h))
          (tlbRefill_keeps h)))

theorem logPut_keeps {vd : Nat} {va : W64} {bs : List Byte} {bad : Bool} : Keeps r (s.logPut vd va bs bad) := by
  unfold State.logPut
  dsimp only
  split
  · rename_i t _ e
    have ht : Keeps r t := keeps_of_eq (xlate_keeps h) e
    exact ht
  · rename_i t _ e
    have ht : Keeps r t := keeps_of_eq (xlate_keeps h) e
    exact ite_keeps (poisonHbm_keeps (devWrite_keeps ht)) (devWrite_keeps ht)

theorem logDrop_keeps {vd : Nat} : Keeps r (s.logDrop vd) := by
  unfold State.logDrop
  dsimp only
  split
  · exact h
  · exact setHyp_keeps (updVd_keeps h)

theorem logTrim_keeps {vd n : Nat} : Keeps r (s.logTrim vd n) := by
  induction n generalizing s with
  | zero => exact h
  | succ n ih =>
    unfold State.logTrim
    split
    · exact h
    · exact ite_keeps h (ih (logDrop_keeps h))

theorem logLine_keeps {vd line dpa sid : Nat} {key : List W64} : Keeps r (s.logLine vd line dpa sid key) :=
  ite_keeps h (logTrim_keeps (updVd_keeps (ite_keeps (updDev_keeps h) (logPut_keeps (logPut_keeps (updDev_keeps h))))))

theorem combineU_keeps {u : ULine} : Keeps r (s.combineU u) :=
  foldl_keeps (ite_keeps (logLine_keeps h) h) fun _ _ hu1 => devWrite_keeps hu1

theorem flushU_keeps {p : Nat → ULine → Bool} : Keeps r (s.flushU p) :=
  foldl_keeps (frame_keeps h (by rfl)) fun _ _ hu => combineU_keeps hu

theorem flushHome_keeps {dpa n : Nat} : Keeps r (s.flushHome dpa n) := ite_keeps h (flushU_keeps h)
theorem waitLog_keeps {vd : Nat} : Keeps r (s.waitLog vd) := ite_keeps h (updVd_keeps h)

theorem flushWhen_keeps {vd : Nat} {p : Nat → ULine → Bool} : Keeps r (s.flushWhen vd p) :=
  ite_keeps (waitLog_keeps h) (flushU_keeps h)

theorem flushSoft_keeps {vd dpa n : Nat} : Keeps r (s.flushSoft vd dpa n) := ite_keeps (waitLog_keeps h) (flushHome_keeps h)

theorem flushMet_keeps {vd : Nat} {met : List Nat} : Keeps r (s.flushMet vd met) :=
  ite_keeps h (foldl_keeps h (fun _ _ hu => flushSoft_keeps hu))

theorem translate_keeps {via : Via} {vd : Nat} {va : W64} {k : Acc} : KeepsFst r (s.translate via vd va k) :=
  ite_keeps (xlate_keeps (flushMet_keeps h)) (xlate_keeps h)

theorem gread_keeps {via : Via} {vd : Nat} {va : W64} {n : Nat} : KeepsFst r (s.gread via vd va n) := by
  unfold State.gread
  dsimp only
  split
  · rename_i t _ e
    have ht : Keeps r t := keeps_of_eq (translate_keeps h) e
    exact ht
  · rename_i t _ e
    have ht : Keeps r t := keeps_of_eq (translate_keeps h) e
    exact ite_keeps (flushSoft_keeps ht) (flushSoft_keeps ht)

theorem gwrite_keeps {via : Via} {vd sid : Nat} {va : W64} {bs : List Byte} : KeepsFst r (s.gwrite via vd sid va bs) := by
  unfold State.gwrite
  dsimp only
  split
  · rename_i t _ e
    have ht : Keeps r t := keeps_of_eq (translate_keeps h) e
    exact ht
  · rename_i t _ e
    have ht : Keeps r t := keeps_of_eq (translate_keeps h) e
    exact devWrite_keeps (ite_keeps (logLine_keeps (flushHome_keeps ht)) (flushHome_keeps ht))

theorem gwriteAll_keeps {vd sid fuel : Nat} {va : W64} {bs : List Byte} : Keeps r (s.gwriteAll vd sid fuel va bs) := by
  induction fuel generalizing s va bs with
  | zero => exact h
  | succ k ih =>
    cases bs with
    | nil => exact h
    | cons b bs => exact ih (gwrite_keeps h)

end Sys2Proof.Proofs
end

section
/-! What the operations keep: the shared operations. -/

namespace Sys2Proof.Proofs

open Sys2Proof.Machine Sys2Proof.Laws

variable {r s : State} (h : Keeps r s)
include h

theorem doneN_keeps {len : Nat} : Keeps r (s.doneN len) := fresh_keeps (updMe_keeps h)

theorem doneS_keeps {hd : Head} {len : Nat} {v : W64} {fl : Flags} : Keeps r (s.doneS hd len v fl) :=
  fresh_keeps (updMe_keeps h)

theorem doneL_keeps {hd : Head} {len lat : Nat} {v : W64} {fl : Flags} : Keeps r (s.doneL hd len lat v fl) :=
  fresh_keeps (updMe_keeps h)

theorem doneTag_keeps {hd : Head} {len tag : Nat} : Keeps r (s.doneTag hd len tag) := fresh_keeps (updMe_keeps h)
theorem skip_keeps {hd : Head} {len : Nat} : Keeps r (s.skip hd len) := fresh_keeps (updMe_keeps h)
theorem doneJump_keeps {t : W64} : Keeps r (s.doneJump t) := fresh_keeps (updMe_keeps h)

theorem issue_keeps {hd : Head} {len : Nat} {body : State} (hb : Keeps r body) : KeepsNext r (issue hd len s body) := by
  unfold issue
  split
  · exact fault_keeps
  · exact next_keeps (ite_keeps hb (skip_keeps h))

theorem park_keeps {detail : Nat} : Keeps r (s.park detail) := updMe_keeps h
theorem stall_keeps : Keeps r s.stall := updMe_keeps h
theorem tell_keeps {kind : Nat} {w : W64} : Keeps r (s.tell kind w) := updDev_keeps h

theorem eventOut_keeps {vd : Nat} {bs : List Byte} : Keeps r (s.eventOut vd bs) :=
  ite_keeps h (ite_keeps (setCtl_keeps h) (tell_keeps (setCtl_keeps (gwriteAll_keeps h))))

theorem postEvent_keeps {vd code detail ctx grain sheafid : Nat} {w : W64} : Keeps r (s.postEvent vd code detail ctx grain
    sheafid w) :=
  ite_keeps (eventOut_keeps h) (updVd_keeps (waitLog_keeps h))

theorem postCtx_keeps {c : CtxId} {code detail : Nat} {w : W64} : Keeps r (s.postCtx c code detail w) := postEvent_keeps h
theorem postSheaf_keeps {n code detail : Nat} {w : W64} : Keeps r (s.postSheaf n code detail w) := postEvent_keeps h

theorem deliver_keeps {c : CtxId} {t : Trap} {pc : W64} : Keeps r (s.deliver c t pc) := by
  unfold State.deliver
  dsimp only
  split
  · exact h
  · exact ite_keeps (postCtx_keeps (updCtx_keeps h)) (updCtx_keeps h)

theorem requestPage_keeps {c : CtxId} {t : Trap} {pc : W64} : Keeps r (s.requestPage c t pc) := by
  unfold State.requestPage
  dsimp only
  split
  · exact updVd_keeps (updCtx_keeps h)
  · split
    · exact updCtx_keeps (updCtx_keeps h)
    · exact tell_keeps (tell_keeps (updVd_keeps (updCtx_keeps h)))

theorem enterTrap_keeps {c : CtxId} {t : Trap} {pc : W64} : Keeps r (s.enterTrap c t pc) := by
  unfold State.enterTrap
  split
  · exact h
  · exact ite_keeps (postCtx_keeps (updCtx_keeps h)) (ite_keeps (requestPage_keeps h) (deliver_keeps h))

theorem lessPend_keeps {c : CtxId} {level n : Nat} : Keeps r (s.lessPend c level n) := ite_keeps h (updSheaf_keeps h)

theorem leaveEngine_keeps {c : CtxId} {keep : List Nat} : Keeps r (s.leaveEngine c keep) :=
  ite_keeps h (updTile_keeps (foldl_keeps h (fun _ _ hu => lessPend_keeps hu)))

theorem parkEngine_keeps {c : CtxId} : Keeps r (s.parkEngine c) :=
  ite_keeps (leaveEngine_keeps h) (updTile_keeps (leaveEngine_keeps h))

theorem takeTrap_keeps {c : CtxId} {t : Trap} {pc : W64} : Keeps r (s.takeTrap c t pc) := by
  unfold State.takeTrap
  dsimp only
  split
  · exact fresh_keeps (parkEngine_keeps (updCtx_keeps h))
  · exact ite_keeps (enterTrap_keeps (fresh_keeps (parkEngine_keeps (updCtx_keeps h)))) (updCtx_keeps (fresh_keeps
        (parkEngine_keeps (updCtx_keeps h))))

theorem exact_keeps {cause detail : Nat} {addr : W64} {restart : Bool} : Keeps r (s.exact cause detail addr restart) :=
  takeTrap_keeps h

theorem recorded_keeps {c : CtxId} {cause detail : Nat} {addr : W64} {restart : Bool} {acc : Nat} : Keeps r (s.recorded c
    cause detail addr restart acc) := by
  unfold State.recorded
  split
  · exact h
  · exact takeTrap_keeps h

theorem recordFail_keeps {c : CtxId} {f : Fail} {addr : W64} {k : Acc} : Keeps r (s.recordFail c f addr k) := recorded_keeps h
theorem defer_keeps {c : CtxId} {t : Trap} : Keeps r (s.defer c t) := updCtx_keeps h
theorem unlogged_keeps {c : CtxId} : Keeps r (s.unlogged c) := ite_keeps (updCtx_keeps h) h

end Sys2Proof.Proofs
end

section
/-! What the operations keep: operands, traps and waits. -/

namespace Sys2Proof.Proofs

open Sys2Proof.Machine Sys2Proof.Laws

variable {r s : State} (h : Keeps r s)
include h

theorem advance_keeps {m : MemOp} : Keeps r (s.advance m) := by
  unfold State.advance
  split
  · exact updMe_keeps h
  · exact h

theorem asCtx_keeps {c : CtxId} {f : State → State} (hf : ∀ u, Keeps r u → Keeps r (f u)) : Keeps r (s.asCtx c f) :=
  frame_keeps (s := f { s with cur := c }) (hf _ (frame_keeps h (by rfl))) rfl

theorem wakeRet_keeps {phys n : Nat} : Keeps r (s.wakeRet phys n) :=
  foldl_keeps h fun _ _ hu => ite_keeps (updCore_keeps hu) hu

theorem bankStall_keeps {phys n : Nat} : Keeps r (s.bankStall phys n) := updMe_keeps (wakeRet_keeps h)
theorem holdAt_keeps {level : Nat} : Keeps r (s.holdAt level) := ite_keeps (exact_keeps h) (updMe_keeps (park_keeps h))
theorem lwrite_keeps {phys n : Nat} {v : W64} : Keeps r (s.lwrite phys n v) := { h with lmem := h.lmem.write _ _ }
theorem setFe_keeps {phys : Nat} {full : Bool} : Keeps r (s.setFe phys full) := { h with fe := h.fe.set _ _ }
theorem unfence_keeps : Keeps r s.unfence := ite_keeps (updMe_keeps h) h
theorem stallRel_keeps {sc : Option Scope} : Keeps r (s.stallRel sc) := stall_keeps (ite_keeps (waitLog_keeps h) h)
theorem release_keeps {sc : Scope} : Keeps r (s.release sc) := ite_keeps (flushU_keeps h) h

theorem releaseOpt_keeps {sc : Option Scope} : Keeps r (s.releaseOpt sc) := by
  unfold State.releaseOpt
  split
  · exact release_keeps h
  · exact h

theorem wakeTag_keeps {sheaf kind place q : Nat} : Keeps r (s.wakeTag sheaf kind place q) := ite_keeps (updSheaf_keeps h) h
theorem raise_keeps {c : CtxId} {kind place : Nat} : Keeps r (s.raise c kind place) := ite_keeps (updCtx_keeps h) h
theorem settle_keeps {kind place : Nat} : Keeps r (s.settle kind place) := ite_keeps (raise_keeps h) h

end Sys2Proof.Proofs
end

section
/-! What the operations keep: fetch. -/

namespace Sys2Proof.Proofs

open Sys2Proof.Machine Sys2Proof.Laws

variable {r s : State} (h : Keeps r s)
include h

theorem fetchBlock_keeps {c : CtxId} {pc : W64} : KeepsFst r (s.fetchBlock c pc) := by
  unfold State.fetchBlock
  dsimp only
  split
  · rename_i t _ e
    have ht : Keeps r t := keeps_of_eq (translate_keeps h) e
    exact ht
  · rename_i t _ e
    have ht : Keeps r t := keeps_of_eq (translate_keeps h) e
    exact ite_keeps ht ht

theorem fetchFault_keeps {c : CtxId} {f : Fail} {pc : W64} : Keeps r (s.fetchFault c f pc) := takeTrap_keeps h

end Sys2Proof.Proofs
end

section
/-! What the operations keep: integer instructions. -/

namespace Sys2Proof.Proofs

open Sys2Proof.Machine Sys2Proof.Laws

variable {r s : State} (h : Keeps r s)
include h

theorem aluS_keeps {hd : Head} {a : Src} {b : IOp} {f : W64 → W64 → W64} : KeepsNext r (aluS hd a b s f) :=
  issue_keeps h (doneS_keeps h)

theorem aluL_keeps {lat : Nat} {hd : Head} {a : Src} {b : IOp} {f : W64 → W64 → W64 × Flags} : KeepsNext r (aluL lat hd a b s
    f) :=
  issue_keeps h (doneL_keeps h)

theorem alu1_keeps {hd : Head} {a : Src} {f : W64 → W64} : KeepsNext r (alu1 hd a s f) := issue_keeps h (doneS_keeps h)

theorem alu3_keeps {hd : Head} {a b : Src} {c : IOp} {f : W64 → W64 → W64 → W64} : KeepsNext r (alu3 hd a b c s f) :=
  issue_keeps h (doneS_keeps h)

end Sys2Proof.Proofs
end

section
/-! What the operations keep: control transfers and helpers. -/

namespace Sys2Proof.Proofs

open Sys2Proof.Machine Sys2Proof.Laws

variable {r s : State} (h : Keeps r s)
include h

theorem checkTarget_keeps {t : W64} {go : State} (hgo : Keeps r go) : Keeps r (s.checkTarget t go) :=
  ite_keeps (exact_keeps h) (ite_keeps (exact_keeps h) hgo)

theorem execLoopI_keeps {hd : Head} {a : Src} {o : W32} : KeepsNext r (execLoopI hd a o s) := by
  unfold execLoopI
  dsimp only
  refine issue_keeps h (ite_keeps (exact_keeps h) (ite_keeps (exact_keeps h) ?_))
  split
  · split
    · rename_i t _ e
      have ht : Keeps r t := keeps_of_eq (fetchBlock_keeps h) e
      exact fetchFault_keeps ht
    · rename_i t _ e
      have ht : Keeps r t := keeps_of_eq (fetchBlock_keeps h) e
      split
      · exact takeTrap_keeps ht
      · exact fresh_keeps (updMe_keeps ht)
  · exact ite_keeps (exact_keeps h) (fresh_keeps (updMe_keeps h))

theorem execHstart_keeps {hd : Head} {n : BitVec 4} {o : W32} : KeepsNext r (execHstart hd n o s) := by
  have hput (x : Ctx) : Keeps r { s with ctxs := Tab.put s.ctxs (s.helperId n.toNat) x } := { h with ctxs := h.ctxs.put _ x }
  exact issue_keeps h (ite_keeps (exact_keeps h) (ite_keeps (exact_keeps h) (ite_keeps (stall_keeps h) (ite_keeps
      (exact_keeps h)
    (ite_keeps (exact_keeps h) (doneN_keeps (hput _)))))))

theorem emitTrace_keeps {c : CtxId} : Keeps r (s.emitTrace c) := by
  unfold State.emitTrace
  dsimp only
  split
  · exact h
  · exact ite_keeps h (ite_keeps (setCtl_keeps (updCtx_keeps h)) (updTile_keeps (updCtx_keeps h)))

theorem freeMutexes_keeps {c : CtxId} : Keeps r (s.freeMutexes c) := frame_keeps h (by rfl)

theorem dropMutexes_keeps {c : CtxId} : Keeps r (s.dropMutexes c) :=
  ite_keeps h (ite_keeps (updSheaf_keeps h) (freeMutexes_keeps h))

theorem endCtx_keeps {c : CtxId} : Keeps r (s.endCtx c) := by
  have hm := dropMutexes_keeps (c := c) (leaveEngine_keeps (c := c) (keep := []) h)
  exact { hm with ctxs := (hm.ctxs.filter _).upd _ _, grains := hm.grains.map fun _ => rfl }

theorem execPadWord_keeps : KeepsNext r (execPadWord s) := by
  unfold execPadWord
  split
  · exact fault_keeps
  · exact next_keeps (updMe_keeps h)

end Sys2Proof.Proofs
end

section
/-! What the operations keep: the event unit. -/

namespace Sys2Proof.Proofs

open Sys2Proof.Machine Sys2Proof.Laws

variable {r s : State} (h : Keeps r s)
include h

theorem detGate_keeps {i : Instr} {body : State} (hbody : Keeps r body) : Keeps r (s.detGate i body) :=
  ite_keeps (ite_keeps h (updMe_keeps (updSheaf_keeps h))) hbody

theorem pageDone_keeps {hd : Head} {m : MemOp} {v : W64} : Keeps r (s.pageDone hd m v) := doneL_keeps (advance_keeps h)

theorem pageStored_keeps {m : MemOp} {rel : Option Scope} : Keeps r (s.pageStored m rel) :=
  doneN_keeps (advance_keeps (releaseOpt_keeps h))

theorem pageAccess_keeps {go : State → State} (hgo : ∀ u, Keeps r u → Keeps r (go u)) : Keeps r (s.pageAccess go) :=
  ite_keeps (stall_keeps (unfence_keeps h)) (hgo _ (unfence_keeps h))

theorem updMyTile_keeps {f : Tile → Tile} : Keeps r (s.updMyTile f) := updTile_keeps h

theorem evwait_keeps {hd : Head} {m : MemOp} {n : Fin 32} : Keeps r (s.evwait hd m n) :=
  ite_keeps (stall_keeps h) (ite_keeps (pageDone_keeps (updMyTile_keeps (settle_keeps h))) (park_keeps h))

theorem takeMutex_keeps {k : Fin 16} : Keeps r (s.takeMutex k) := updMyTile_keeps h

theorem mutexLoad_keeps {hd : Head} {i : Instr} {m : MemOp} {k : Fin 16} : Keeps r (s.mutexLoad hd i m k) :=
  ite_keeps (stall_keeps h) (detGate_keeps h (ite_keeps (pageDone_keeps (takeMutex_keeps h)) (park_keeps h)))

theorem mutexTryLoad_keeps {hd : Head} {i : Instr} {m : MemOp} {k : Fin 16} : Keeps r (s.mutexTryLoad hd i m k) :=
  ite_keeps (stall_keeps h) (detGate_keeps h (ite_keeps (pageDone_keeps (takeMutex_keeps h)) (pageDone_keeps h)))

theorem mutexStore_keeps {i : Instr} {m : MemOp} {rel : Option Scope} {ea : W64} {k : Fin 16} : Keeps r (s.mutexStore i m rel
    ea k) := by
  unfold State.mutexStore
  refine ite_keeps (stall_keeps h) (detGate_keeps h ?_)
  split
  · exact exact_keeps h
  · exact ite_keeps (pageStored_keeps (updMyTile_keeps h)) (exact_keeps h)

theorem tbarTag_keeps {k : Fin 8} {done : Bool} {q : Nat} : Keeps r (s.tbarTag k done q) :=
  ite_keeps (wakeTag_keeps (wakeTag_keeps h)) (wakeTag_keeps h)

theorem tbarArrive_keeps {m : MemOp} {rel : Option Scope} {ea : W64} {k : Fin 8} : Keeps r (s.tbarArrive m rel ea k) :=
  ite_keeps (stall_keeps h) (ite_keeps (exact_keeps h) (ite_keeps (park_keeps h) (pageStored_keeps (updMyTile_keeps
      (tbarTag_keeps (settle_keeps h))))))

theorem tbarWait_keeps {hd : Head} {m : MemOp} {k : Fin 8} : Keeps r (s.tbarWait hd m k) :=
  ite_keeps (stall_keeps h) (ite_keeps (park_keeps h) (pageDone_keeps (settle_keeps h)))

theorem tbcfgStore_keeps {m : MemOp} {rel : Option Scope} {k : Fin 8} {v : W64} : Keeps r (s.tbcfgStore m rel k v) :=
  pageStored_keeps (updMyTile_keeps (ite_keeps h (tbarTag_keeps h)))

theorem dropReserved_keeps {tile k : Nat} : Keeps r (s.dropReserved tile k) :=
  { h with ctxs := h.ctxs.map fun e => by dsimp only; split <;> rfl }

theorem rqcfgStore_keeps {m : MemOp} {rel : Option Scope} {k : Fin 32} {v : W64} : Keeps r (s.rqcfgStore m rel k v) :=
  pageStored_keeps (updMyTile_keeps (ite_keeps (dropReserved_keeps h) h))

theorem mqwtStore_keeps {m : MemOp} {rel : Option Scope} {ea : W64} {c : Fin 8} {v : W64} : Keeps r (s.mqwtStore m rel ea c
    v) :=
  ite_keeps (exact_keeps h) (pageStored_keeps (ite_keeps h (updGrain_keeps h)))

theorem pageLoad_keeps {hd : Head} {i : Instr} {m : MemOp} {ea : W64} {off : Nat} : Keeps r (s.pageLoad hd i m ea off) := by
  unfold State.pageLoad
  dsimp only
  split
  · exact pageDone_keeps h
  · split
    · exact evwait_keeps h
    · split
      · exact pageDone_keeps h
      · refine ite_keeps (exact_keeps h) ?_
        split
        · exact mutexLoad_keeps h
        · split
          · exact mutexTryLoad_keeps h
          · split
            · exact pageDone_keeps h
            · refine ite_keeps (exact_keeps h) ?_
              split
              · exact pageDone_keeps h
              · refine ite_keeps (exact_keeps h) ?_
                split
                · exact tbarWait_keeps h
                · refine ite_keeps (exact_keeps h) ?_
                  split
                  · split
                    · exact ite_keeps (pageDone_keeps h) (ite_keeps (pageDone_keeps h) (exact_keeps h))
                    · exact exact_keeps h
                  · refine ite_keeps (exact_keeps h) ?_
                    split
                    · exact pageDone_keeps h
                    · refine ite_keeps (exact_keeps h) ?_
                      split
                      · exact pageDone_keeps h
                      · refine ite_keeps (exact_keeps h) ?_
                        split
                        · exact pageDone_keeps h
                        · exact exact_keeps h

theorem pageStore_keeps {i : Instr} {m : MemOp} {rel : Option Scope} {ea : W64} {off : Nat} {v : W64} : Keeps r (s.pageStore
    i m rel ea off v) := by
  unfold State.pageStore
  dsimp only
  split
  · exact pageStored_keeps (ite_keeps (updMyTile_keeps h) h)
  · refine ite_keeps (exact_keeps h) ?_
    split
    · exact pageStored_keeps (updMyTile_keeps h)
    · refine ite_keeps (exact_keeps h) ?_
      split
      · exact mutexStore_keeps h
      · refine ite_keeps (exact_keeps h) ?_
        split
        · exact tbcfgStore_keeps h
        · split
          · exact tbarArrive_keeps h
          · refine ite_keeps (exact_keeps h) ?_
            split
            · split
              · exact ite_keeps (rqcfgStore_keeps h) (exact_keeps h)
              · exact exact_keeps h
            · refine ite_keeps (exact_keeps h) ?_
              split
              · exact mqwtStore_keeps h
              · exact exact_keeps h

end Sys2Proof.Proofs
end

section
/-! What the operations keep: loads and stores. -/

namespace Sys2Proof.Proofs

open Sys2Proof.Machine Sys2Proof.Laws

variable {r s : State} (h : Keeps r s)
include h

theorem start_keeps {i : Instr} {dst : Dst} {addr : W64} {caps : List W64} {data : List Byte} {stage : Stage} : Keeps r
    (s.start i dst addr caps data stage) :=
  updMe_keeps h

theorem startL_keeps {i : Instr} {hd : Head} {len : Nat} {addr : W64} {caps : List W64} {data : List Byte} {stage : Stage} :
    Keeps r (s.startL i hd len addr caps data stage) :=
  doneTag_keeps (start_keeps h)

theorem startN_keeps {i : Instr} {len : Nat} {addr : W64} {caps : List W64} {data : List Byte} {stage : Stage} : Keeps r
    (s.startN i len addr caps data stage) :=
  doneN_keeps (start_keeps h)

theorem updOut_keeps {c : CtxId} {f : Out → Out} : Keeps r (s.updOut c f) := updCtx_keeps h

theorem finish_keeps {c : CtxId} {tag : Nat} {v : W64} {fl : Flags} : Keeps r (s.finish c tag v fl) :=
  fresh_keeps (updCtx_keeps h)

theorem fixResult_keeps {c : CtxId} {tag : Nat} {v : W64} {due : Nat} {fl : Flags} : Keeps r (s.fixResult c tag v due fl) :=
  updCtx_keeps h

theorem loadBody_keeps {hd : Head} {i : Instr} {m : MemOp} {sz : Size} {uns : Bool} : Keeps r (s.loadBody hd i m sz uns) := by
  unfold State.loadBody
  dsimp only
  refine ite_keeps (stall_keeps (unfence_keeps h)) ?_
  split
  · exact exact_keeps (unfence_keeps h)
  · exact holdAt_keeps (unfence_keeps h)
  · exact bankStall_keeps (unfence_keeps h)
  · exact ite_keeps (stall_keeps (unfence_keeps h)) (ite_keeps (exact_keeps (unfence_keeps h)) (doneL_keeps (advance_keeps
        (unfence_keeps h))))
  · exact ite_keeps (stall_keeps (unfence_keeps h)) (updMe_keeps (startL_keeps (advance_keeps (unfence_keeps h))))
  · exact ite_keeps (stall_keeps (unfence_keeps h)) (pageLoad_keeps (unfence_keeps h))

theorem storeBody_keeps {i : Instr} {m : MemOp} {sz : Size} {rel : Option Scope} {v : W64} : Keeps r (s.storeBody i m sz rel
    v) := by
  unfold State.storeBody
  dsimp only
  refine ite_keeps (stallRel_keeps (unfence_keeps h)) ?_
  split
  · exact exact_keeps (unfence_keeps h)
  · exact holdAt_keeps (unfence_keeps h)
  · exact bankStall_keeps (unfence_keeps h)
  · exact ite_keeps (stall_keeps (unfence_keeps h)) (doneN_keeps (advance_keeps (lwrite_keeps (releaseOpt_keeps
        (unfence_keeps h)))))
  · exact exact_keeps (unfence_keeps h)
  · exact ite_keeps (stall_keeps (unfence_keeps h)) (pageStore_keeps (unfence_keeps h))

theorem peerRead_keeps {c : CtxId} : Keeps r (s.peerRead c) := by
  unfold State.peerRead
  split
  · exact h
  · split
    · refine ite_keeps h ?_
      generalize s.rangeBank _ _ = bank
      generalize s.peerGone _ _ = gone
      cases gone with
      | some d => exact recorded_keeps h
      | none =>
        cases bank with
        | off => exact recorded_keeps h
        | ret => exact wakeRet_keeps h
        | waking => exact h
        | on => exact ite_keeps (recorded_keeps h) (fixResult_keeps h)
    · exact h

theorem globalCheck_keeps {ea : W64} {n : Nat} {go : State} (hgo : Keeps r go) : Keeps r (s.globalCheck ea n go) :=
  ite_keeps (exact_keeps h) (ite_keeps (exact_keeps h) hgo)

theorem homeWrite_keeps {c : CtxId} {o : Out} {n : Nat} {v : W64} : Keeps r (s.homeWrite c o n v) :=
  devWrite_keeps (ite_keeps (logLine_keeps (flushHome_keeps h)) (flushHome_keeps h))

theorem applyRed_keeps {c : CtxId} {o : Out} {op : Nat} {x : RedArgs} {b : W64} : Keeps r (s.applyRed c o op x b) :=
  updQuad_keeps (flushU_keeps h)

theorem inject_keeps {c : CtxId} : Keeps r (s.inject c) := by
  unfold State.inject
  dsimp only
  split
  · exact h
  · split
    · refine ite_keeps h ?_
      split
      · rename_i t _ e
        have ht : Keeps r t := keeps_of_eq (translate_keeps h) e
        exact recordFail_keeps ht
      · rename_i t _ e
        have ht : Keeps r t := keeps_of_eq (translate_keeps h) e
        split
        · exact recordFail_keeps ht
        · split
          · exact ite_keeps (updOut_keeps ht) (ite_keeps ht (ite_keeps (flushU_keeps (finish_keeps (applyRed_keeps ht)))
                (finish_keeps (applyRed_keeps ht))))
          · exact updOut_keeps ht
    · exact h

theorem homeError_keeps {c : CtxId} {o : Out} : Keeps r (s.homeError c o) := recorded_keeps h

theorem pollWait_keeps {n : Nat} : Keeps r (s.pollWait n) := by
  unfold State.pollWait
  dsimp only
  refine ite_keeps h ?_
  split
  · exact ite_keeps (updSheaf_keeps (updSheaf_keeps (gread_keeps h))) (updSheaf_keeps (gread_keeps h))
  · exact updSheaf_keeps (gread_keeps h)

theorem pollVd_keeps {vd : Nat} : Keeps r (s.pollVd vd) := foldl_keeps h fun _ _ hu => ite_keeps (pollWait_keeps hu) hu

theorem respond_keeps {c : CtxId} : Keeps r (s.respond c) := by
  unfold State.respond
  dsimp only
  split
  · exact h
  · refine ite_keeps h ?_
    split
    · exact ite_keeps (homeError_keeps (flushHome_keeps h)) (updCtx_keeps (updOut_keeps (flushHome_keeps h)))
    · exact ite_keeps (homeError_keeps (flushHome_keeps h)) (pollVd_keeps (unlogged_keeps (finish_keeps (homeWrite_keeps
          (flushHome_keeps h)))))
    · split
      · exact ite_keeps (homeError_keeps (flushHome_keeps h)) (finish_keeps (homeWrite_keeps (flushHome_keeps h)))
      · exact h

theorem loadReturn_keeps {c : CtxId} : Keeps r (s.loadReturn c) := by
  unfold State.loadReturn
  split
  · exact h
  · split
    · exact finish_keeps h
    · exact h

theorem storeHome_keeps {c : CtxId} : Keeps r (s.storeHome c) := by
  unfold State.storeHome
  split
  · exact h
  · split
    · exact ite_keeps h (finish_keeps (homeWrite_keeps h))
    · exact h

theorem ldsyncBody_keeps {hd : Head} {m : MemOp} {clear : Bool} : Keeps r (s.ldsyncBody hd m clear) := by
  unfold State.ldsyncBody
  dsimp only
  refine ite_keeps (stall_keeps (unfence_keeps h)) ?_
  split
  · exact exact_keeps (unfence_keeps h)
  · exact holdAt_keeps (unfence_keeps h)
  · exact bankStall_keeps (unfence_keeps h)
  · exact ite_keeps (stall_keeps (unfence_keeps h)) (ite_keeps (park_keeps (unfence_keeps h)) (ite_keeps (exact_keeps
        (unfence_keeps h)) (doneL_keeps (advance_keeps (ite_keeps (setFe_keeps (settle_keeps (unfence_keeps h)))
        (settle_keeps (unfence_keeps h)))))))
  · exact exact_keeps (unfence_keeps h)

theorem feStore_keeps {m : MemOp} {act : State → Nat → State} (hact : ∀ u p, Keeps r u → Keeps r (act u p)) : Keeps r
    (s.feStore m act) := by
  have hu := unfence_keeps h
  unfold State.feStore
  dsimp only
  refine ite_keeps (stall_keeps hu) ?_
  split
  · exact exact_keeps hu
  · exact holdAt_keeps hu
  · exact bankStall_keeps hu
  · exact ite_keeps (stall_keeps hu) (doneN_keeps (advance_keeps (hact _ _ hu)))
  · exact exact_keeps hu

theorem clearBank_keeps {core bank : Nat} : Keeps r (s.clearBank core bank) :=
  { h with lmem := h.lmem.filter _, fe := h.fe.filter _ }

theorem bankOff_keeps {core bank : Nat} : Keeps r (s.bankOff core bank) := clearBank_keeps (updCore_keeps h)
theorem offStep_keeps {core bank : Nat} : Keeps r (s.offStep core bank) := ite_keeps (bankOff_keeps h) h

theorem bankWrite_keeps {core bank code : Nat} : Keeps r (s.bankWrite core bank code) :=
  ite_keeps h (ite_keeps (ite_keeps h (ite_keeps (updCore_keeps h) (bankOff_keeps h))) (ite_keeps (updCore_keeps h)
      (ite_keeps (updCore_keeps (updCore_keeps (updCore_keeps h))) (updCore_keeps (updCore_keeps (updCore_keeps h))))))

theorem bankpwrWrite_keeps {core k : Nat} {v : W64} : Keeps r (s.bankpwrWrite core k v) :=
  foldl_keeps h fun _ _ hu => bankWrite_keeps hu

theorem wakeDone_keeps {core bank : Nat} {ret : Bool} : Keeps r (s.wakeDone core bank ret) := by
  unfold State.wakeDone
  dsimp only
  split
  · exact h
  · exact ite_keeps (updCore_keeps h) h

end Sys2Proof.Proofs
end

section
/-! What the operations keep: atomics. -/

namespace Sys2Proof.Proofs

open Sys2Proof.Machine Sys2Proof.Laws

variable {r s : State} (h : Keeps r s)
include h

theorem amoLocal_keeps {hd : Head} {op : Nat} {x : AmoArgs} {ea b c : W64} : Keeps r (s.amoLocal hd op x ea b c) := by
  unfold State.amoLocal
  dsimp only
  split
  · exact exact_keeps h
  · exact holdAt_keeps h
  · exact bankStall_keeps h
  · exact ite_keeps (stall_keeps h) (ite_keeps (exact_keeps h) (doneL_keeps (lwrite_keeps (releaseOpt_keeps h))))
  · exact exact_keeps h

theorem amoBody_keeps {hd : Head} {i : Instr} {op : Nat} {x : AmoArgs} {c : W64} : Keeps r (s.amoBody hd i op x c) :=
  ite_keeps (stallRel_keeps (unfence_keeps h)) (ite_keeps (ite_keeps (stall_keeps (unfence_keeps h)) (globalCheck_keeps
      (unfence_keeps h) (startL_keeps (releaseOpt_keeps (unfence_keeps h))))) (amoLocal_keeps (unfence_keeps h)))

theorem amoReply_keeps {c : CtxId} : Keeps r (s.amoReply c) := by
  unfold State.amoReply
  dsimp only
  split
  · exact h
  · split
    · exact ite_keeps h (ite_keeps (homeError_keeps (flushHome_keeps h)) (finish_keeps (homeWrite_keeps (flushHome_keeps h))))
    · exact h

theorem redBody_keeps {i : Instr} {x : RedArgs} : Keeps r (s.redBody i x) :=
  ite_keeps (stall_keeps (unfence_keeps h)) (globalCheck_keeps (unfence_keeps h) (startN_keeps (unfence_keeps h)))

theorem fenceBody_keeps {wide : Bool} : Keeps r (s.fenceBody wide) := doneN_keeps (updMe_keeps h)

end Sys2Proof.Proofs
end

section
/-! What the operations keep: barriers. -/

namespace Sys2Proof.Proofs

open Sys2Proof.Machine Sys2Proof.Laws

variable {r s : State} (h : Keeps r s)
include h

theorem updDom_keeps {sheaf n : Nat} {f : Dom → Dom} : Keeps r (s.updDom sheaf n f) := updSheaf_keeps h

theorem arrive_keeps {c : CtxId} {l : Fin 4} : Keeps r (s.arrive c l) := by
  have hu := updDom_keeps (sheaf := c.sheaf) (n := (((s.grainOf c).getD Grain.zero).dom (lvlNum l)).getD 0)
    (f := fun d => { d with arrived := d.arrived + 1, tag := max d.tag (((s.flushU fun _ u => u.by_.contains c).updGrainOf c
      fun g => { g with arrived := g.arrived.set l true }).barQuantum c) })
    (updGrainOf_keeps (c := c) (f := fun g => { g with arrived := g.arrived.set l true })
      (flushU_keeps (p := fun _ u => u.by_.contains c) h))
  exact { hu with ctxs := hu.ctxs.map fun e => by dsimp only; split <;> rfl }

theorem arriveCheck_keeps {l : Fin 4} {go : State → State} (hgo : ∀ u, Keeps r u → Keeps r (go u)) : Keeps r (s.arriveCheck l
    go) :=
  ite_keeps (exact_keeps (unfence_keeps h)) (ite_keeps (exact_keeps (unfence_keeps h)) (ite_keeps (stallRel_keeps
      (unfence_keeps h)) (ite_keeps (park_keeps (unfence_keeps h)) (hgo _ (settle_keeps (unfence_keeps h))))))

theorem execBarWait_keeps {hd : Head} {t : Src} {l : Fin 4} : KeepsNext r (execBarWait hd t l s) := by
  unfold execBarWait
  dsimp only
  refine issue_keeps h ?_
  split
  · exact exact_keeps (unfence_keeps h)
  · exact ite_keeps (stall_keeps (unfence_keeps h)) (ite_keeps (exact_keeps (unfence_keeps h)) (ite_keeps (park_keeps
        (unfence_keeps h)) (ite_keeps (doneL_keeps (settle_keeps (unfence_keeps h))) (ite_keeps (doneL_keeps (settle_keeps
        (unfence_keeps h))) (exact_keeps (unfence_keeps h))))))

theorem syncResult_keeps {c : CtxId} {o : Out} {dom phase : Nat} : Keeps r (s.syncResult c o dom phase) :=
  fixResult_keeps (ite_keeps (raise_keeps h) h)

theorem missArrival_keeps {c : CtxId} : Keeps r (s.missArrival c) := by
  unfold State.missArrival
  dsimp only
  split
  · exact h
  · split
    · exact ite_keeps (takeTrap_keeps (updCtx_keeps (ite_keeps (updGrainOf_keeps (updDom_keeps h)) h))) (recorded_keeps
          (ite_keeps (updGrainOf_keeps (updDom_keeps h)) h))
    · exact h

theorem performHeld_keeps {c : CtxId} : Keeps r (s.performHeld c) := by
  unfold State.performHeld
  dsimp only
  split
  · exact h
  · split
    · refine ite_keeps (missArrival_keeps h) (ite_keeps h (ite_keeps (waitLog_keeps h) ?_))
      split
      · exact updOut_keeps (arrive_keeps h)
      · exact fixResult_keeps (arrive_keeps h)
    · exact ite_keeps (ite_keeps (missArrival_keeps h) h) (syncResult_keeps h)
    · exact h

theorem phaseComplete_keeps {sheaf n : Nat} : Keeps r (s.phaseComplete sheaf n) := by
  unfold State.phaseComplete
  split
  · exact h
  · extract_lets _ _ _ t u v _ next w
    have hv : Keeps r v := ite_keeps (updSheaf_keeps (updDom_keeps (wakeTag_keeps h))) (updDom_keeps (wakeTag_keeps h))
    have hw : Keeps r w := { hv with grains := hv.grains.map fun e => by dsimp only [next]; split <;> rfl }
    refine foldl_keeps hw fun _ _ hx => ?_
    split
    · split
      · exact ite_keeps (syncResult_keeps hx) hx
      · exact hx
    · exact hx

theorem gangArrivals_keeps {sheaf : Nat} : Keeps r (s.gangArrivals sheaf) := ite_keeps (tell_keeps (updSheaf_keeps h)) h

theorem fireLine_keeps {sheaf tile : Nat} {n : Fin 32} {q : Nat} : Keeps r (s.fireLine sheaf tile n q) :=
  ite_keeps (updTile_keeps h) (wakeTag_keeps (updTile_keeps h))

theorem fireArrive_keeps {tile : Nat} {n : Fin 32} : Keeps r (s.fireArrive tile n) := by
  unfold State.fireArrive
  split
  · exact h
  · exact fireLine_keeps (updTile_keeps h)

end Sys2Proof.Proofs
end

section
/-! What the operations keep: ranges of the engines. -/

namespace Sys2Proof.Proofs

open Sys2Proof.Machine Sys2Proof.Laws

variable {r s : State} (h : Keeps r s)
include h

theorem rngWake_keeps {r1 : Rng} : Keeps r (s.rngWake r1) := foldl_keeps h fun _ _ hu => wakeRet_keeps hu
theorem rngStall_keeps {r1 : Rng} : Keeps r (s.rngStall r1) := updMe_keeps (rngWake_keeps h)

theorem rangesReady_keeps {rs : List Rng} {go : State} (hgo : Keeps r go) : Keeps r (s.rangesReady rs go) := by
  unfold State.rangesReady
  split
  · exact holdAt_keeps h
  · split
    · exact hgo
    · split
      · exact exact_keeps h
      · exact rngStall_keeps h

theorem putCells_keeps {cs : List Host.Cell} : Keeps r (s.putCells cs) :=
  { h with lmem := h.lmem.foldl (fun _ _ hm => hm.set _ _) cs }

theorem fillCells_keeps {cs : List Host.Cell} : Keeps r (s.fillCells cs) :=
  { h with fe := h.fe.foldl (fun _ _ hm => hm.set _ _) cs }

theorem cleanCells_keeps {cs : List Host.Cell} : Keeps r (s.cleanCells cs) := cleanLmem_keeps h

end Sys2Proof.Proofs
end

section
/-! What the operations keep: the array. -/

namespace Sys2Proof.Proofs

open Sys2Proof.Machine Sys2Proof.Laws

variable {r s : State} (h : Keeps r s)
include h

theorem accPut_keeps {tile a i j v : Nat} : Keeps r (s.accPut tile a i j v) :=
  cleanAcc_keeps (setAccm_keeps h (h.accm.write _ _))

theorem accClear_keeps {tile a : Nat} : Keeps r (s.accClear tile a) := cleanAcc_keeps (setAccm_keeps h (h.accm.clear _ _))

theorem takeTurn_keeps {tile : Nat} : Keeps r (s.takeTurn tile) := by
  unfold State.takeTurn
  dsimp only
  split
  · exact h
  · exact ite_keeps h (updTile_keeps h)

theorem account_keeps {tile at_ : Nat} : Keeps r (s.account tile at_) := updTile_keeps h
theorem setDuty_keeps {tile : Nat} {d : Duty} : Keeps r (s.setDuty tile d) := updTile_keeps h

theorem updTilePart_keeps {tile : Nat} {f : Part → Part} : Keeps r (s.updTilePart tile f) := by
  unfold State.updTilePart
  split
  · exact updDev_keeps h
  · exact h

theorem grantUp_keeps {tile : Nat} : Keeps r (s.grantUp tile) := by
  unfold State.grantUp
  dsimp only
  split
  · split
    · exact setDuty_keeps (updTilePart_keeps (account_keeps h))
    · exact setDuty_keeps (updTile_keeps (updTilePart_keeps (account_keeps h)))
  · exact h

theorem grantDown_keeps {tile : Nat} : Keeps r (s.grantDown tile) := by
  unfold State.grantDown
  dsimp only
  split
  · split
    · exact setDuty_keeps (updTilePart_keeps h)
    · exact setDuty_keeps (updTilePart_keeps h)
    · exact setDuty_keeps (updTilePart_keeps h)
  · exact h

theorem stepEnd_keeps {tile : Nat} : Keeps r (s.stepEnd tile) := by
  unfold State.stepEnd
  dsimp only
  split
  · exact ite_keeps h (ite_keeps (setDuty_keeps (account_keeps h)) (setDuty_keeps (account_keeps h)))
  · exact ite_keeps h (setDuty_keeps (account_keeps h))
  · exact ite_keeps h (setDuty_keeps (account_keeps h))
  · exact h

end Sys2Proof.Proofs
end

section
/-! What the operations keep: mailboxes, receive queues and rings. -/

namespace Sys2Proof.Proofs

open Sys2Proof.Machine Sys2Proof.Laws

variable {r s : State} (h : Keeps r s)
include h

theorem putBody_keeps {key v : W64} : Keeps r (s.putBody key v) := ite_keeps (park_keeps h) (doneN_keeps (updGrain_keeps h))

theorem getBody_keeps {hd : Head} {key : W64} : Keeps r (s.getBody hd key) := by
  unfold State.getBody
  split
  · exact park_keeps h
  · exact doneL_keeps (updGrain_keeps h)

theorem updRq_keeps {tile q : Nat} {f : RQueue → RQueue} : Keeps r (s.updRq tile q f) := updTile_keeps h

theorem rqputBody_keeps {hd : Head} {p : Fin 8} {desc : Src} {len : Fin 8} : Keeps r (s.rqputBody hd p desc len) := by
  unfold State.rqputBody
  dsimp only
  refine ite_keeps (stall_keeps (unfence_keeps h)) ?_
  split
  · exact exact_keeps (unfence_keeps h)
  · exact ite_keeps (exact_keeps (unfence_keeps h)) (rangesReady_keeps (unfence_keeps h) (ite_keeps (stall_keeps
        (unfence_keeps h)) (ite_keeps (exact_keeps (unfence_keeps h)) (ite_keeps (park_keeps (unfence_keeps h)) (startN_keeps
        (unfence_keeps h))))))

theorem rqReserve_keeps {c : CtxId} : Keeps r (s.rqReserve c) := by
  unfold State.rqReserve
  dsimp only
  split
  · exact h
  · split
    · refine ite_keeps h ?_
      split
      · exact recorded_keeps h
      · exact ite_keeps (recorded_keeps h) (ite_keeps h (updOut_keeps (updRq_keeps h)))
    · exact h

theorem rqUndo_keeps {tile q idx : Nat} : Keeps r (s.rqUndo tile q idx) := by
  have hu := updRq_keeps (tile := tile) (q := q)
    (f := fun r => { r with tail := (r.tail + r.entries - 1) % r.entries, reserved := r.reserved - 1 }) h
  exact { hu with ctxs := hu.ctxs.map fun _ => rfl }

theorem rqDeliver_keeps {c : CtxId} : Keeps r (s.rqDeliver c) := by
  unfold State.rqDeliver
  split
  · exact h
  · split
    · refine ite_keeps h ?_
      generalize s.rangeBank _ _ = bank
      cases bank with
      | off => exact recorded_keeps (updOut_keeps (rqUndo_keeps h))
      | ret => exact wakeRet_keeps h
      | waking => exact h
      | on => exact finish_keeps (wakeTag_keeps (updRq_keeps (cleanLmem_keeps (setLmem_keeps h (h.lmem.write _ _)))))
    · exact h

theorem rqtakeBody_keeps {hd : Head} {p : Fin 8} {qn : Src} : Keeps r (s.rqtakeBody hd p qn) := by
  unfold State.rqtakeBody
  have hu := unfence_keeps h
  generalize s.unfence = u at hu ⊢
  refine ite_keeps (stall_keeps hu) (ite_keeps (exact_keeps hu) (ite_keeps (exact_keeps hu) ?_))
  split
  · exact exact_keeps hu
  · refine rangesReady_keeps hu (ite_keeps (stall_keeps hu) (ite_keeps (park_keeps hu) ?_))
    generalize u.entryPhys _ _ _ = entry
    generalize hb : u.rangeBank entry 64 = bank
    simp only [hb]
    cases bank with
    | off => exact exact_keeps hu
    | ret => exact bankStall_keeps hu
    | waking => exact bankStall_keeps hu
    | on => exact ite_keeps (exact_keeps hu) (doneL_keeps (updQuad_keeps (updRq_keeps (settle_keeps hu))))

theorem execRingDef_keeps {hd : Head} {base size : Src} {d n : BitVec 5} {lvl : Fin 4} {k : Fin 8} : KeepsNext r (execRingDef
    hd base size d n lvl k s) := by
  unfold execRingDef
  dsimp only
  refine issue_keeps h (ite_keeps (exact_keeps h) (ite_keeps (doneN_keeps (updGrain_keeps h)) ?_))
  split
  · exact exact_keeps h
  · exact doneN_keeps (updGrain_keeps h)

end Sys2Proof.Proofs
end

section
/-! What the operations keep: the vector unit. -/

namespace Sys2Proof.Proofs

open Sys2Proof.Machine Sys2Proof.Laws

variable {r s : State} (h : Keeps r s)
include h

theorem vbump_keeps {v : VArgs} : Keeps r (s.vbump v) := foldl_keeps h fun _ _ hu => updMe_keeps hu
theorem vtake_keeps {o : Nat} : Keeps r (s.vtake o) := updQuad_keeps h

theorem venter_keeps {i : Instr} {v : VArgs} {e : Nat} {caps : List W64} {rs : List (Nat × Rng)} : KeepsFst r (s.venter i v e
    caps rs) := by
  unfold State.venter
  dsimp only
  split
  · exact updMe_keeps (updQuad_keeps (vtake_keeps h))
  · exact updQuad_keeps (vtake_keeps h)

theorem vecBody_keeps {hd : Head} {i : Instr} {v : VArgs} : Keeps r (s.vecBody hd i v) := by
  have hu := unfence_keeps h
  unfold State.vecBody
  dsimp only
  refine ite_keeps (stall_keeps hu) ?_
  split
  · exact exact_keeps hu
  · refine rangesReady_keeps hu (ite_keeps (stall_keeps hu) ?_)
    split
    · exact recorded_keeps (startL_keeps (vbump_keeps (vtake_keeps hu)))
    · split
      · exact doneL_keeps (vbump_keeps (venter_keeps hu))
      · exact doneN_keeps (vbump_keeps (venter_keeps hu))

theorem gathBody_keeps {_h : Head} {i : Instr} {v : VArgs} {scatter : Bool} : Keeps r (s.gathBody _h i v scatter) := by
  unfold State.gathBody
  dsimp only
  refine ite_keeps (stall_keeps (unfence_keeps h)) ?_
  split
  · exact exact_keeps (unfence_keeps h)
  · refine rangesReady_keeps (unfence_keeps h) (ite_keeps (stall_keeps (unfence_keeps h)) ?_)
    split
    · exact recorded_keeps (startN_keeps (vbump_keeps (vtake_keeps (unfence_keeps h))))
    · exact updOut_keeps (startN_keeps (vbump_keeps (vtake_keeps (unfence_keeps h))))

theorem gathGroup_keeps {o : Out} {v : VArgs} {scatter : Bool} : Keeps r (s.gathGroup o v scatter) := by
  have hp {cs : List (Nat × Byte)} := cleanCells_keeps (cs := cs) (putCells_keeps (cs := cs) h)
  unfold State.gathGroup
  dsimp only
  refine ite_keeps h ?_
  split
  · split
    · exact recorded_keeps h
    · exact wakeRet_keeps h
  · split
    · exact recorded_keeps h
    · exact ite_keeps h (ite_keeps (finish_keeps hp) (updOut_keeps hp))

theorem vecRetry_keeps {o : Out} {v : VArgs} : Keeps r (s.vecRetry o v) := by
  unfold State.vecRetry
  dsimp only
  refine ite_keeps h ?_
  split
  · exact recorded_keeps h
  · refine ite_keeps (foldl_keeps h fun _ _ hu => rngWake_keeps hu) ?_
    split
    · exact recorded_keeps h
    · split
      · exact fixResult_keeps (venter_keeps h)
      · exact finish_keeps (venter_keeps h)

theorem gathRetry_keeps {o : Out} {v : VArgs} {scatter : Bool} : Keeps r (s.gathRetry o v scatter) := by
  unfold State.gathRetry
  dsimp only
  refine ite_keeps h ?_
  split
  · exact recorded_keeps h
  · refine ite_keeps (foldl_keeps h (fun _ _ hu => rngWake_keeps hu)) ?_
    split
    · exact recorded_keeps h
    · exact updOut_keeps (vtake_keeps h)

theorem vecStep_keeps {c : CtxId} : Keeps r (s.vecStep c) := by
  unfold State.vecStep
  split
  · exact h
  · refine ite_keeps h (asCtx_keeps h ?_)
    intro _ hu
    split
    · exact ite_keeps (gathGroup_keeps hu) (gathRetry_keeps hu)
    · exact ite_keeps (gathGroup_keeps hu) (gathRetry_keeps hu)
    · split
      · exact vecRetry_keeps hu
      · exact hu

theorem vecDone_keeps {quad n : Nat} : Keeps r (s.vecDone quad n) := by
  unfold State.vecDone
  dsimp only
  split
  · exact h
  · exact ite_keeps h (updCtx_keeps (cleanCells_keeps (putCells_keeps (updQuad_keeps h))))

theorem setVl_keeps {hd : Head} {v : W64} : Keeps r (s.setVl hd v) := ite_keeps (exact_keeps h) (doneS_keeps (updMe_keeps h))

end Sys2Proof.Proofs
end

section
/-! What the operations keep: the matrix queue. -/

namespace Sys2Proof.Proofs

open Sys2Proof.Machine Sys2Proof.Laws

variable {r s : State} (h : Keeps r s)
include h

theorem meetBad_keeps {own : Option (Fin 64)} : Keeps r (s.meetBad own) := by
  unfold State.meetBad
  split
  · exact ite_keeps (updTile_keeps h) h
  · exact h

theorem enqueue_keeps {i : Instr} {tag : Nat} {caps : List W64} {reads writes : List (Nat × Nat)} {ops : Nat} : Keeps r
    (s.enqueue i tag caps reads writes ops) :=
  updGrain_keeps (updTile_keeps h)

theorem mqChecks_keeps {own : Option (Fin 64)} {foot : Option (Nat × Nat)} {rs : List (W64 × Nat × Nat)} {mid post : Option
    (Nat × W64)} {go : List Rng → State} (hgo : ∀ l, Keeps r (go l)) : Keeps r (s.mqChecks own foot rs mid post go) := by
  unfold State.mqChecks
  split
  · exact exact_keeps (ite_keeps (meetBad_keeps h) h)
  · refine ite_keeps (exact_keeps h) ?_
    split
    · exact exact_keeps h
    · split
      · exact exact_keeps h
      · split
        · exact holdAt_keeps h
        · split
          · exact ite_keeps (exact_keeps h) (rngStall_keeps h)
          · split
            · exact exact_keeps h
            · exact ite_keeps (stall_keeps h) (hgo _)

theorem accMove_keeps {i : Instr} {m : MArgs} {write : Bool} : Keeps r (s.accMove i m write) :=
  ite_keeps (stall_keeps (unfence_keeps h)) (mqChecks_keeps (unfence_keeps h) (fun _ => doneN_keeps (enqueue_keeps
      (unfence_keeps h))))

theorem setAcc_keeps {tile : Nat} {a : Fin 64} {x : AccState} : Keeps r (s.setAcc tile a x) := updTile_keeps h
theorem takeAcc_keeps {a : Fin 64} : Keeps r (s.takeAcc a) := setAcc_keeps (accClear_keeps (updTile_keeps h))

theorem execMacq_keeps {hd : Head} {a : Fin 64} : KeepsNext r (execMacq hd a s) := by
  unfold execMacq
  refine issue_keeps h ?_
  split
  · exact doneL_keeps (takeAcc_keeps h)
  · exact ite_keeps (doneL_keeps h) (doneL_keeps (takeAcc_keeps h))
  · exact doneL_keeps h
  · exact doneL_keeps h

theorem execMunpin_keeps {hd : Head} {a : Fin 64} : KeepsNext r (execMunpin hd a s) := by
  unfold execMunpin
  refine issue_keeps h (ite_keeps (park_keeps h) ?_)
  split
  · exact ite_keeps (doneN_keeps (setAcc_keeps h)) (exact_keeps h)
  · exact exact_keeps h

theorem deltaBump_keeps {m : MArgs} {two : Bool} : Keeps r (deltaBump s m two) :=
  ite_keeps (ite_keeps (updMe_keeps (updMe_keeps h)) (updMe_keeps h)) h

theorem deltaBody_keeps {i : Instr} {m : MArgs} {inB : Nat} {outB : Option Nat} {ops : Nat} : Keeps r (s.deltaBody i m inB
    outB ops) :=
  ite_keeps (stall_keeps (unfence_keeps h)) (mqChecks_keeps (unfence_keeps h) (fun _ => doneN_keeps (enqueue_keeps
      (deltaBump_keeps (unfence_keeps h)))))

theorem putEngine_keeps {cs : List Host.Cell} : Keeps r (s.putEngine cs) :=
  cleanCells_keeps (fillCells_keeps (putCells_keeps h))

theorem wput_keeps {tile o : Nat} {bs : List Byte} : Keeps r (s.wput tile o bs) :=
  cleanWbuf_keeps (setWbuf_keeps h (h.wbuf.write _ _))

theorem mmaOp_keeps {tile lq : Nat} {c : MCmd} {m : MArgs} {kbs : List Nat} : KeepsFst r (s.mmaOp tile lq c m kbs) :=
  foldl_keeps (P := KeepsFst r) h fun _ _ hp => foldl_keeps (P := KeepsFst r) hp fun _ _ hq => accPut_keeps hq

theorem accPutRows_keeps {tile : Nat} {a : Fin 64} {rows : List (List Nat)} : Keeps r (s.accPutRows tile a rows) :=
  foldl_keeps h fun _ _ hu => foldl_keeps hu (fun _ _ hu1 => accPut_keeps hu1)

theorem deltaOp_keeps {tile lq : Nat} {c : MCmd} {a : Fin 64} {perToken : Nat} {qry : Bool} : KeepsFst r (s.deltaOp tile lq c
    a perToken qry) :=
  ite_keeps (P := KeepsFst r) (fst_keeps (putEngine_keeps h)) (ite_keeps (P := KeepsFst r) (fst_keeps (accPutRows_keeps h))
    (ite_keeps (P := KeepsFst r) (fst_keeps (putEngine_keeps h)) (fst_keeps h)))

theorem opEffect_keeps {tile lq : Nat} {c : MCmd} : KeepsFst r (s.opEffect tile lq c) := by
  unfold State.opEffect
  split
  · exact mmaOp_keeps h
  · exact mmaOp_keeps h
  · exact deltaOp_keeps h
  · exact deltaOp_keeps h
  · exact deltaOp_keeps h
  · exact h

theorem updGrainAt_keeps {key : Nat × Nat} {f : Grain → Grain} : Keeps r (s.updGrainAt key f) :=
  { h with grains := h.grains.upd key f }

theorem updHead_keeps {key : Nat × Nat} {f : MCmd → MCmd} : Keeps r (s.updHead key f) := updGrainAt_keeps h

theorem startHead_keeps {key : Nat × Nat} {c : MCmd} : Keeps r (s.startHead key c) := by
  unfold State.startHead
  dsimp only
  split
  · exact updHead_keeps (updGrainAt_keeps h)
  · exact updHead_keeps h

theorem tileOpStep_keeps {tile : Nat} : Keeps r (s.tileOpStep tile) := by
  unfold State.tileOpStep
  dsimp only
  split
  · refine ite_keeps h ?_
    split
    · exact updTile_keeps h
    · refine ite_keeps (updTile_keeps h) (ite_keeps ?_ (updTile_keeps ?_)) <;>
        exact updCtx_keeps (updGrainAt_keeps (updHead_keeps (opEffect_keeps (updTile_keeps h))))
  · refine ite_keeps (takeTurn_keeps h) ?_
    split
    · exact h
    · split
      · exact h
      · refine ite_keeps h ?_
        split
        · exact setDuty_keeps (updTile_keeps (ite_keeps h (startHead_keeps h)))
        · exact updTile_keeps (ite_keeps h (startHead_keeps h))

theorem buildImage_keeps {tile lq : Nat} {c : MCmd} {m : MArgs} : Keeps r (s.buildImage tile lq c m) :=
  wput_keeps (ite_keeps (wput_keeps (wput_keeps h)) (wput_keeps h))

theorem accToLocal_keeps {tile lq : Nat} {c : MCmd} {m : MArgs} : KeepsFst r (s.accToLocal tile lq c m) :=
  foldl_keeps (P := KeepsFst r) h fun _ _ hp => putEngine_keeps hp

theorem localToAcc_keeps {tile lq : Nat} {c : MCmd} {m : MArgs} : Keeps r (s.localToAcc tile lq c m) :=
  foldl_keeps h fun _ _ hu => foldl_keeps hu (fun _ _ hu1 => accPut_keeps hu1)

theorem accZeroRows_keeps {tile : Nat} {m : MArgs} : Keeps r (s.accZeroRows tile m) :=
  foldl_keeps h fun _ _ hu => foldl_keeps hu (fun _ _ hu1 => accPut_keeps hu1)

theorem plainEffect_keeps {tile lq : Nat} {g : Grain} {c : MCmd} : KeepsFst r (s.plainEffect tile lq g c) := by
  unfold State.plainEffect
  split
  · exact fst_keeps (buildImage_keeps h)
  · exact fst_keeps (wput_keeps h)
  · exact fst_keeps (accZeroRows_keeps h)
  · exact accToLocal_keeps h
  · exact fst_keeps (localToAcc_keeps h)
  · exact fst_keeps (asCtx_keeps h fun _ hu => updCtx_keeps hu)
  · exact h

theorem popHead_keeps {key : Nat × Nat} {c : MCmd} {fl : Flags} : Keeps r (s.popHead key c fl) :=
  updCtx_keeps (updGrainAt_keeps h)

theorem glBlock_keeps {tile : Nat} {key : Nat × Nat} {c : MCmd} {m : MArgs} {j : Nat} : Keeps r (s.glBlock tile key c m j) :=
    by
  unfold State.glBlock
  dsimp only
  split
  · rename_i e
    exact recordFail_keeps (keeps_of_eq (translate_keeps (updOut_keeps h)) e)
  · rename_i t x e
    have ht : Keeps r t := keeps_of_eq (translate_keeps (updOut_keeps h)) e
    split
    · rename_i e
      exact recordFail_keeps (keeps_of_eq (translate_keeps ht) e)
    · rename_i u y e
      have hu : Keeps r u := keeps_of_eq (translate_keeps ht) e
      split
      · exact recorded_keeps hu
      · split
        · rename_i e _
          have hv := keeps_of_eq (gread_keeps hu) e
          refine updOut_keeps (updHead_keeps (ite_keeps ?_ (wput_keeps ?_))) <;>
            exact ite_keeps (wput_keeps (ite_keeps (wput_keeps (wput_keeps hv)) (wput_keeps hv)))
              (ite_keeps (wput_keeps (wput_keeps hv)) (wput_keeps hv))
        · rename_i e
          exact recordFail_keeps (keeps_of_eq (gread_keeps hu) e)
        · rename_i e _
          exact recordFail_keeps (keeps_of_eq (gread_keeps hu) e)

theorem mqComplete_keeps {tile lc : Nat} : Keeps r (s.mqComplete tile lc) := by
  unfold State.mqComplete
  dsimp only
  split
  · exact h
  · refine ite_keeps h ?_
    split
    · split
      · exact ite_keeps h (ite_keeps (glBlock_keeps (updHead_keeps h)) (finish_keeps (popHead_keeps h)))
      · exact h
    · split
      · exact ite_keeps h (ite_keeps (popHead_keeps h) (popHead_keeps (plainEffect_keeps h)))
      · exact ite_keeps h (updHead_keeps h)

theorem discardMq_keeps {key : Nat × Nat} {c : CtxId} : Keeps r (s.discardMq key c) := updCtx_keeps (updGrainAt_keeps h)

theorem mqErrorEnd_keeps {tile lc : Nat} : Keeps r (s.mqErrorEnd tile lc) := by
  unfold State.mqErrorEnd
  dsimp only
  split
  · exact h
  · refine ite_keeps h ?_
    split
    · exact h
    · exact fresh_keeps (defer_keeps (discardMq_keeps (popHead_keeps h)))

end Sys2Proof.Proofs
end

section
/-! What the operations keep: copies. -/

namespace Sys2Proof.Proofs

open Sys2Proof.Machine Sys2Proof.Laws

variable {r s : State} (h : Keeps r s)
include h

theorem morePend_keeps {c : CtxId} {level n : Nat} : Keeps r (s.morePend c level n) := ite_keeps h (updDom_keeps h)

theorem engineGate_keeps {plv : Nat} {go : State → State} (hgo : ∀ u, Keeps r u → Keeps r (go u)) : Keeps r (s.engineGate plv
    go) :=
  ite_keeps (exact_keeps (unfence_keeps h)) (ite_keeps (stall_keeps (unfence_keeps h)) (ite_keeps (holdAt_keeps
      (unfence_keeps h)) (hgo _ (unfence_keeps h))))

theorem engineRanges_keeps {rs more : List (W64 × Nat × Nat)} {ext : W64 × Nat} {go : List Rng → State} (hgo : ∀ l, Keeps r
    (go l)) : Keeps r (s.engineRanges rs more ext go) := by
  unfold State.engineRanges
  split
  · exact exact_keeps h
  · refine ite_keeps (exact_keeps h) ?_
    split
    · exact exact_keeps h
    · exact ite_keeps (exact_keeps h) (hgo _)

theorem engineReady_keeps {ls : List Rng} {entries : Nat} {full : Bool} {go : State} (hgo : Keeps r go) : Keeps r
    (s.engineReady ls entries full go) :=
  rangesReady_keeps h (ite_keeps (stall_keeps h) hgo)

theorem updCircuit_keeps {handle : Nat} {f : Circuit → Circuit} : Keeps r (s.updCircuit handle f) := updDev_keeps h

theorem newCmd_keeps {i : Instr} {c : CtxId} {tag ch : Nat} {caps : List W64} {reads writes : List (Nat × Nat)} {plv bytes :
    Nat} : KeepsFst r (s.newCmd i c tag ch caps reads writes plv bytes) :=
  morePend_keeps (updTile_keeps h)

theorem toPass_keeps {tile : Nat} {e : ECmd} : Keeps r (s.toPass tile e) := updTile_keeps h
theorem toChan_keeps {tile : Nat} {ch : Fin 8} {e : ECmd} : Keeps r (s.toChan tile ch e) := updTile_keeps h

theorem cpyBody_keeps {i : Instr} {e : CpyArgs} {sa sb sc sd : W64} : Keeps r (s.cpyBody i e sa sb sc sd) := by
  unfold State.cpyBody
  dsimp only
  refine engineGate_keeps h fun u hu => ite_keeps (exact_keeps hu) (engineRanges_keeps hu fun _ => ite_keeps (exact_keeps hu)
      ?_)
  split
  · split
    · exact exact_keeps hu
    · split
      · exact exact_keeps hu
      · exact engineReady_keeps hu (doneN_keeps (toChan_keeps (newCmd_keeps hu)))
  · split
    · exact exact_keeps hu
    · exact engineReady_keeps hu (startN_keeps (toPass_keeps (newCmd_keeps (ite_keeps (updMe_keeps hu) hu))))

theorem devPage_keeps {c : CtxId} {k : Acc} {page : Nat} : KeepsFst r (s.devPage c k page) := by
  unfold State.devPage
  split
  · rename_i t _ e
    have ht : Keeps r t := keeps_of_eq (translate_keeps h) e
    exact ht
  · rename_i t _ e
    have ht : Keeps r t := keeps_of_eq (translate_keeps h) e
    exact ht

theorem hostPage_keeps {c : CtxId} {k : Acc} {page : Nat} : KeepsFst r (s.hostPage c k page) := by
  unfold State.hostPage
  dsimp only
  split
  · exact flushMet_keeps h
  · split
    · exact foldl_keeps (flushMet_keeps h) (fun _ _ hu => setAD_keeps hu)
    · split
      · exact foldl_keeps (flushMet_keeps h) (fun _ _ hu => setAD_keeps hu)
      · split
        · exact foldl_keeps (flushMet_keeps h) (fun _ _ hu => setAD_keeps hu)
        · exact foldl_keeps (flushMet_keeps h) (fun _ _ hu => setAD_keeps hu)

theorem onePage_keeps {host : Bool} {c : CtxId} {k : Acc} {page : Nat} : KeepsFst r (s.onePage host c k page) :=
  ite_keeps (hostPage_keeps h) (devPage_keeps h)

theorem allPages_keeps {host : Bool} {c : CtxId} {k : Acc} {l : List Nat} : KeepsFst r (s.allPages host c k l) := by
  induction l generalizing s with
  | nil => exact h
  | cons p ps ih =>
    unfold State.allPages
    split
    · rename_i t _ e
      exact keeps_of_eq (onePage_keeps h) e
    · rename_i t e
      exact keeps_of_eq (onePage_keeps h) e
    · rename_i t _ e
      have ht : Keeps r t := keeps_of_eq (onePage_keeps h) e
      split
      · rename_i u _ eu
        exact keeps_of_eq (ih ht) eu
      · exact ih ht

theorem passEntry_keeps {c : CtxId} {o : Out} {j : Job} {plv : Nat} : KeepsFst r (s.passEntry c o j plv) := by
  unfold State.passEntry
  dsimp only
  split
  · exact h
  · exact toPass_keeps (newCmd_keeps h)

theorem askHost_keeps {c : CtxId} {o : Out} {page : Nat} : Keeps r (s.askHost c o page) :=
  ite_keeps h (tell_keeps (updOut_keeps h))

theorem enterChannel_keeps {c : CtxId} {o : Out} {j : Job} {e : ECmd} {hs : List Held} : Keeps r (s.enterChannel c o j e hs)
    :=
  finish_keeps (toChan_keeps (updTile_keeps (ite_keeps (morePend_keeps h) (lessPend_keeps h))))

theorem copyPass_keeps {c : CtxId} {o : Out} {a : CpyArgs} : Keeps r (s.copyPass c o a) := by
  have hp {j : Job} := passEntry_keeps (c := c) (o := o) (j := j) (plv := a.plv.val) h
  unfold State.copyPass
  dsimp only
  refine ite_keeps (enterChannel_keeps hp) ?_
  split
  · rename_i e
    exact recordFail_keeps (keeps_of_eq (onePage_keeps hp) e)
  · rename_i e
    exact askHost_keeps (keeps_of_eq (onePage_keeps hp) e)
  · rename_i t _ e
    have ht : Keeps r t := keeps_of_eq (onePage_keeps hp) e
    split
    · exact recordFail_keeps ht
    · split
      · rename_i e
        exact recordFail_keeps (keeps_of_eq (allPages_keeps ht) e)
      · rename_i e
        exact askHost_keeps (keeps_of_eq (allPages_keeps ht) e)
      · rename_i u _ e
        have hu : Keeps r u := keeps_of_eq (allPages_keeps ht) e
        split
        · exact recordFail_keeps hu
        · exact enterChannel_keeps hu

end Sys2Proof.Proofs
end

section
/-! What the operations keep: the engines. -/

namespace Sys2Proof.Proofs

open Sys2Proof.Machine Sys2Proof.Laws

variable {r s : State} (h : Keeps r s)
include h

theorem engineWake_keeps {c : CtxId} {q : Nat} {cs : List Host.Cell} : Keeps r (s.engineWake c q cs) :=
  ite_keeps (foldl_keeps h (fun _ _ hu => wakeTag_keeps hu)) h

theorem engineLocal_keeps {c : CtxId} {q : Nat} {w : View} {lq off : Nat} {bs : List (Option Byte)} : Keeps r (s.engineLocal
    c q w lq off bs) :=
  engineWake_keeps (putEngine_keeps h)

theorem enginePiece_keeps {c : CtxId} {hs : List Held} {va : W64} {bs : List (Option Byte)} : Keeps r (s.enginePiece c hs va
    bs) := by
  unfold State.enginePiece
  dsimp only
  refine ite_keeps (devWrite_keeps ?_) (foldl_keeps ?_ fun _ _ hx => ?_)
  · exact ite_keeps (logLine_keeps (flushHome_keeps h)) (flushHome_keeps h)
  · exact ite_keeps (logLine_keeps (flushHome_keeps h)) (flushHome_keeps h)
  · split
    · exact devPut_keeps hx
    · exact hx

theorem engineGlobal_keeps {c : CtxId} {host : Bool} {hs : List Held} {fuel : Nat} {va : W64} {bs : List (Option Byte)} :
    Keeps r (s.engineGlobal c host hs fuel va bs) := by
  induction fuel generalizing s va bs with
  | zero => exact h
  | succ k ih =>
    cases bs with
    | nil => exact h
    | cons b bs =>
      refine ih (ite_keeps (cleanHost_keeps (setHost_keeps h (h.host.foldl (fun _ _ hm => ?_) _))) (enginePiece_keeps h))
      split
      · exact hm.set _ _
      · exact hm

theorem sendFlit_keeps {k : Circuit} {tile ch seq at_ : Nat} {coll : Bool} {bs : List Byte} : Keeps r (s.sendFlit k tile ch
    seq at_ coll bs) :=
  updCircuit_keeps h

theorem updChan_keeps {tile : Nat} {ch : Fin 8} {f : Chan → Chan} : Keeps r (s.updChan tile ch f) := updTile_keeps h
theorem updChanHead_keeps {tile : Nat} {ch : Fin 8} {f : ECmd → ECmd} : Keeps r (s.updChanHead tile ch f) := updChan_keeps h
theorem flushPages_keeps {hs : List Held} : Keeps r (s.flushPages hs) := ite_keeps h (flushU_keeps h)

theorem poisonLine_keeps {tile : Nat} {e : ECmd} {j : Job} : Keeps r (s.poisonLine tile e j) :=
  ite_keeps (updDev_keeps (countError_keeps h)) h

theorem wholeLines_keeps {e : ECmd} {dst : Side} {row : Nat → W64} {hi : Nat} : Keeps r (s.wholeLines e dst row hi) :=
  ite_keeps h (cleanHbm_keeps h)

theorem copyLine_keeps {tile : Nat} {ch : Fin 8} {e : ECmd} {a : CpyArgs} : Keeps r (s.copyLine tile ch e a) := by
  unfold State.copyLine
  dsimp only
  refine updChan_keeps (wakeTag_keeps (updCtx_keeps (lessPend_keeps (ite_keeps (wholeLines_keeps ?_) ?_)))) <;>
  · refine poisonLine_keeps (foldl_keeps (P := KeepsFst r) ?_ ?_)
    · exact ite_keeps (P := Keeps r) (flushPages_keeps h) h
    · exact fun _ _ hp => ite_keeps (P := Keeps r) (engineLocal_keeps hp) (engineGlobal_keeps hp)

theorem copyFlit_keeps {tile : Nat} {ch : Fin 8} {e : ECmd} {a : CpyArgs} : Keeps r (s.copyFlit tile ch e a) := by
  unfold State.copyFlit
  dsimp only
  split
  · exact h
  · exact ite_keeps h (updChan_keeps (wakeTag_keeps (updCtx_keeps (sendFlit_keeps h))))

theorem collFlit_keeps {tile : Nat} {ch : Fin 8} {e : ECmd} {a : CollArgs} : Keeps r (s.collFlit tile ch e a) := by
  unfold State.collFlit
  dsimp only
  refine ite_keeps h ?_
  split
  · exact h
  · exact ite_keeps h (updChan_keeps (updCtx_keeps (sendFlit_keeps h)))

theorem collTake_keeps {tile : Nat} {ch : Fin 8} {bytes : List Byte} : Keeps r (s.collTake tile ch bytes) := by
  unfold State.collTake
  dsimp only
  split
  · exact h
  · split
    · exact h
    · exact updChan_keeps (engineLocal_keeps h)

theorem collArrive_keeps {k : Circuit} {f : Flit} {snd : ECmd} {a : CollArgs} : Keeps r (s.collArrive k f snd a) := by
  unfold State.collArrive
  split
  · exact h
  · exact collTake_keeps h

theorem collLoose_keeps {e : ECmd} {a : CollArgs} {lost : Bool} : Keeps r (s.collLoose e a lost) :=
  ite_keeps h (foldl_keeps (fresh_keeps h) (fun _ _ hu => putEngine_keeps hu))

theorem lineWrite_keeps {tile : Nat} {ch : Fin 8} : Keeps r (s.lineWrite tile ch) := by
  unfold State.lineWrite
  dsimp only
  split
  · exact h
  · refine ite_keeps (ite_keeps h (updChan_keeps h)) (ite_keeps h ?_)
    split
    · exact ite_keeps h (ite_keeps (copyFlit_keeps h) (copyLine_keeps h))
    · exact collFlit_keeps h
    · exact h

theorem chanComplete_keeps {tile : Nat} {ch : Fin 8} : Keeps r (s.chanComplete tile ch) := by
  unfold State.chanComplete
  dsimp only
  split
  · exact h
  · refine ite_keeps h ?_
    split
    · split
      · refine unlogged_keeps (updCtx_keeps (updChan_keeps (lessPend_keeps ?_)))
        split
        · exact collLoose_keeps h
        · exact h
      · refine updCtx_keeps (updChan_keeps (lessPend_keeps ?_))
        split
        · exact collLoose_keeps h
        · exact h
    · refine updCtx_keeps (updChan_keeps (lessPend_keeps ?_))
      split
      · exact collLoose_keeps h
      · exact h

theorem discard_keeps {tile : Nat} {c : CtxId} {seq : Nat} : Keeps r (s.discard tile c seq) :=
  updCtx_keeps (updDev_keeps (updTile_keeps (foldl_keeps h (fun _ _ hu => lessPend_keeps hu))))

theorem faultEnd_keeps {tile : Nat} {ch : Fin 8} : Keeps r (s.faultEnd tile ch) := by
  unfold State.faultEnd
  dsimp only
  split
  · exact h
  · refine ite_keeps h ?_
    split
    · exact h
    · refine defer_keeps (discard_keeps ?_)
      split
      · exact ite_keeps (poisonHost_keeps h) h
      · exact h

theorem flitGone_keeps {k : Circuit} {f : Flit} : Keeps r (s.flitGone k f) := updCircuit_keeps h
theorem flitFault_keeps {f : Flit} {ch : Fin 8} {x : Nat × Nat × W64} : Keeps r (s.flitFault f ch x) := updChan_keeps h

theorem tileFlaw_keeps {tile c : Nat} : Keeps r (s.tileFlaw tile c) := by
  unfold State.tileFlaw
  dsimp only
  split
  · split
    · exact h
    · split
      · exact h
      · exact ite_keeps h (updChanHead_keeps (countError_keeps h))
  · split
    · exact h
    · split
      · exact h
      · exact recorded_keeps (countError_keeps h)

theorem accessFlaw_keeps {c : CtxId} : Keeps r (s.accessFlaw c) := by
  unfold State.accessFlaw
  split
  · exact h
  · exact ite_keeps (recorded_keeps (countError_keeps h)) h

theorem netOut_keeps {k : Circuit} {f : Flit} : Keeps r (s.netOut k f) :=
  foldl_keeps (tell_keeps h) fun _ _ hu => tell_keeps hu

theorem netBad_keeps {k : Circuit} {f : Flit} : Keeps r (s.netBad k f) := by
  unfold State.netBad
  split
  · exact h
  · exact flitFault_keeps (countError_keeps h)

theorem netFlit_keeps {port tag ch : Nat} {bytes : List Byte} {crcOk : Bool} : Keeps r (s.netFlit port tag ch bytes crcOk) :=
    by
  unfold State.netFlit
  dsimp only
  split
  · exact h
  · exact ite_keeps (netBad_keeps h) (updCircuit_keeps h)

theorem netArrive_keeps {handle : Nat} : Keeps r (s.netArrive handle) := by
  unfold State.netArrive
  split
  · exact h
  · split
    · exact h
    · refine ite_keeps h ?_
      split
      · exact h
      · exact ite_keeps h (collTake_keeps (updCircuit_keeps h))

theorem flitArrive_keeps {handle : Nat} {crcOk : Bool} : Keeps r (s.flitArrive handle crcOk) := by
  unfold State.flitArrive
  dsimp only
  split
  · exact h
  · split
    · exact h
    · refine ite_keeps h ?_
      split
      · exact flitGone_keeps h
      · refine ite_keeps (flitFault_keeps (countError_keeps (flitGone_keeps h))) ?_
        split
        · exact ite_keeps (updChan_keeps (lessPend_keeps (netOut_keeps (flitGone_keeps h)))) (ite_keeps h (updChan_keeps
              (lessPend_keeps (collArrive_keeps (flitGone_keeps h)))))
        · split
          · exact flitFault_keeps (flitGone_keeps h)
          · exact foldl_keeps h (fun _ _ hu => wakeRet_keeps hu)
          · exact updChan_keeps (lessPend_keeps (engineLocal_keeps (flitGone_keeps h)))

theorem collBody_keeps {i : Instr} {a : CollArgs} {sa sb sc : W64} : Keeps r (s.collBody i a sa sb sc) := by
  unfold State.collBody
  refine engineGate_keeps h fun u hu => ite_keeps (exact_keeps hu) (ite_keeps (exact_keeps hu) (engineRanges_keeps hu fun _ =>
    ite_keeps (exact_keeps hu) (engineReady_keeps hu ?_)))
  dsimp only
  exact doneN_keeps (toChan_keeps (newCmd_keeps hu))

theorem gatherBody_keeps {i : Instr} {a : GathArgs} {sa sb sc sd : W64} : Keeps r (s.gatherBody i a sa sb sc sd) := by
  unfold State.gatherBody
  refine engineGate_keeps h fun _ hu => engineRanges_keeps hu fun _ => ite_keeps (exact_keeps hu) (engineReady_keeps hu ?_)
  dsimp only
  exact startN_keeps (updTile_keeps (newCmd_keeps (ite_keeps (updMe_keeps hu) hu)))

theorem gathRow_keeps {c : CtxId} {o : Out} {a : GathArgs} {e : ECmd} : Keeps r (s.gathRow c o a e) := by
  unfold State.gathRow
  dsimp only
  refine ite_keeps (finish_keeps (updTile_keeps h)) (ite_keeps h ?_)
  split
  · exact recorded_keeps h
  · refine ite_keeps (recordFail_keeps h) (ite_keeps (recordFail_keeps h) ?_)
    split
    · rename_i t _ e
      have ht : Keeps r t := keeps_of_eq (devPage_keeps h) e
      exact recordFail_keeps ht
    · rename_i t e
      have ht : Keeps r t := keeps_of_eq (devPage_keeps h) e
      exact ht
    · rename_i t _ e
      have ht : Keeps r t := keeps_of_eq (devPage_keeps h) e
      refine ite_keeps (recordFail_keeps ht) ?_
      split
      · rename_i t1 _ _ e
        have ht1 : Keeps r t1 := keeps_of_eq (allPages_keeps ht) e
        exact recordFail_keeps ht1
      · rename_i t1 _ e
        have ht1 : Keeps r t1 := keeps_of_eq (allPages_keeps ht) e
        exact ht1
      · rename_i t1 _ e
        have ht1 : Keeps r t1 := keeps_of_eq (allPages_keeps ht) e
        split
        · exact recordFail_keeps ht1
        · refine ite_keeps (recordFail_keeps ht1) ?_
          split
          · exact recorded_keeps (foldl_keeps ht1 (fun _ _ hu => ite_keeps (flushHome_keeps hu) hu))
          · exact updOut_keeps (updCtx_keeps (engineLocal_keeps (foldl_keeps ht1 (fun _ _ hu => ite_keeps (flushHome_keeps
                hu) hu))))

theorem gathPass_keeps {c : CtxId} {o : Out} {a : GathArgs} : Keeps r (s.gathPass c o a) := by
  unfold State.gathPass
  dsimp only
  split
  · exact ite_keeps (gathRow_keeps h) h
  · split
    · exact gathRow_keeps (updTile_keeps h)
    · exact h

theorem snapBody_keeps {i : Instr} {dst src len ckp : W64} : Keeps r (s.snapBody i dst src len ckp) := by
  unfold State.snapBody
  dsimp only
  refine engineGate_keeps h ?_
  intro _ hu
  refine ite_keeps (exact_keeps hu) ?_
  split
  · exact exact_keeps hu
  · exact startN_keeps hu

theorem snapLine_keeps {c : CtxId} {num : Nat} {dst src : W64} : KeepsFst r (s.snapLine c num dst src) := by
  unfold State.snapLine
  dsimp only
  split
  · rename_i t _ e
    have ht : Keeps r t := keeps_of_eq (devPage_keeps h) e
    exact ht
  · rename_i t e
    have ht : Keeps r t := keeps_of_eq (devPage_keeps h) e
    exact ht
  · rename_i t _ e
    have ht : Keeps r t := keeps_of_eq (devPage_keeps h) e
    split
    · rename_i t1 _ e
      have ht1 : Keeps r t1 := keeps_of_eq (devPage_keeps ht) e
      exact ht1
    · rename_i t1 e
      have ht1 : Keeps r t1 := keeps_of_eq (devPage_keeps ht) e
      exact ht1
    · rename_i t1 _ e
      have ht1 : Keeps r t1 := keeps_of_eq (devPage_keeps ht) e
      split
      · exact waitLog_keeps ht1
      · split
        · exact flushHome_keeps ht1
        · exact ite_keeps (flushHome_keeps ht1) (enginePiece_keeps (flushHome_keeps ht1))

theorem snapLines_keeps {c : CtxId} {num n : Nat} {dst src : W64} : KeepsFst r (s.snapLines c num n dst src) := by
  induction n generalizing s dst src with
  | zero => exact h
  | succ n ih =>
    unfold State.snapLines
    split
    · exact waitLog_keeps h
    · split
      · rename_i t e
        exact ih (keeps_of_eq (snapLine_keeps h) e)
      · exact snapLine_keeps h

theorem snapUnit_keeps {c : CtxId} {o : Out} : Keeps r (s.snapUnit c o) := by
  unfold State.snapUnit
  dsimp only
  refine ite_keeps (recorded_keeps h) (ite_keeps (finish_keeps h) ?_)
  split
  · rename_i t _ _ _ e
    have ht : Keeps r t := keeps_of_eq (snapLines_keeps h) e
    exact recordFail_keeps ht
  · rename_i t e
    have ht : Keeps r t := keeps_of_eq (snapLines_keeps h) e
    exact recorded_keeps ht
  · rename_i t e
    have ht : Keeps r t := keeps_of_eq (snapLines_keeps h) e
    exact ht
  · rename_i t e
    have ht : Keeps r t := keeps_of_eq (snapLines_keeps h) e
    exact updOut_keeps (updCtx_keeps ht)

theorem enginePass_keeps {c : CtxId} : Keeps r (s.enginePass c) := by
  unfold State.enginePass
  split
  · exact h
  · split
    · exact copyPass_keeps h
    · exact copyPass_keeps h
    · exact gathPass_keeps h
    · exact snapUnit_keeps h
    · exact h

end Sys2Proof.Proofs
end

section
/-! What the operations keep: the issue of an instruction. -/

namespace Sys2Proof.Proofs

open Sys2Proof.Machine Sys2Proof.Laws

variable {r s : State} (h : Keeps r s)
include h

theorem execIllegalInstruction_keeps {cause : DecodeCause} {detail : Byte} : KeepsNext r (execIllegalInstruction cause detail
    s) := by
  unfold execIllegalInstruction
  split
  · exact fault_keeps
  · exact next_keeps (exact_keeps h)

theorem resultWrite_keeps {c : CtxId} {k : Nat} : Keeps r (s.resultWrite c k) := by
  unfold State.resultWrite
  split
  · exact h
  · exact fresh_keeps (updCtx_keeps h)

theorem fetchNext_keeps {c : CtxId} {x : Ctx} : KeepsFst r (s.fetchNext c x) := by
  unfold State.fetchNext
  split
  · rename_i t _ e
    have ht : Keeps r t := keeps_of_eq (fetchBlock_keeps h) e
    exact fetchFault_keeps ht
  · rename_i t _ e
    have ht : Keeps r t := keeps_of_eq (fetchBlock_keeps h) e
    split
    · exact ht
    · exact ht

theorem lowerFirst_keeps {c : CtxId} : Keeps r (s.lowerFirst c) :=
  foldl_keeps (ite_keeps h (foldl_keeps (updQuad_keeps h) (fun _ _ hu => cleanCells_keeps (putCells_keeps hu)))) fun _ _ hu
      => peerRead_keeps hu

theorem prepare_keeps {c : CtxId} : KeepsFst r (s.prepare c) := by
  unfold State.prepare
  dsimp only
  split
  · exact h
  · split
    · exact h
    · split
      · exact updCtx_keeps (frame_keeps h (by rfl))
      · split
        · exact ite_keeps (enterTrap_keeps (frame_keeps h (by rfl))) h
        · split
          · exact takeTrap_keeps (updCtx_keeps (frame_keeps h (by rfl)))
          · exact ite_keeps (fetchNext_keeps (lowerFirst_keeps (frame_keeps h (by rfl)))) h

theorem darnel_keeps {c : CtxId} {i : Instr} {after : State} (hafter : Keeps r after) : Keeps r (s.darnel c i after) := by
  unfold State.darnel
  refine ite_keeps hafter ?_
  split
  · exact hafter
  · split
    · exact hafter
    · exact ite_keeps hafter (takeTrap_keeps h)

theorem tracePeriod_keeps {c : CtxId} {before : Nat} : Keeps r (s.tracePeriod c before) := by
  unfold State.tracePeriod
  dsimp only
  split
  · exact h
  · exact ite_keeps (emitTrace_keeps h) h

omit h in
theorem released_keeps {c : CtxId} {after : State} (hafter : Keeps r after) : Keeps r (s.released c after) := by
  unfold State.released
  dsimp only
  split
  · exact hafter
  · exact ite_keeps hafter (updCtx_keeps hafter)

theorem conclude_keeps {c : CtxId} {i : Instr} {after : State} (hafter : Keeps r after) : Keeps r (s.conclude c i after) :=
  tracePeriod_keeps (released_keeps (darnel_keeps h hafter))

end Sys2Proof.Proofs
end

section
/-! What the operations keep: system instructions. -/

namespace Sys2Proof.Proofs

open Sys2Proof.Machine Sys2Proof.Laws

variable {r s : State} (h : Keeps r s)
include h

theorem trapAfter_keeps {cause detail : Nat} : Keeps r (s.trapAfter cause detail) := exact_keeps (doneN_keeps h)
theorem abandon_keeps {c : CtxId} {tag : Nat} : Keeps r (s.abandon c tag) := updGrainOf_keeps h

theorem dropSaved_keeps {c : CtxId} : Keeps r (s.dropSaved c) := by
  unfold State.dropSaved
  split
  · exact abandon_keeps (leaveEngine_keeps h)
  · exact h

theorem execSrd_keeps {hd : Head} {n : BitVec 9} : KeepsNext r (execSrd hd n s) := by
  unfold execSrd
  refine issue_keeps h ?_
  split
  · exact exact_keeps h
  · exact doneS_keeps h

theorem execSwr_keeps {hd : Head} {n : BitVec 9} {a : Src} : KeepsNext r (execSwr hd n a s) := by
  unfold execSwr
  dsimp only
  refine issue_keeps h ?_
  split
  · exact exact_keeps h
  · split
    · exact exact_keeps h
    · exact doneN_keeps (updMe_keeps h)

theorem nextChk_keeps : KeepsFst r s.nextChk := updGrain_keeps h

theorem killHelper_keeps {c : CtxId} : Keeps r (s.killHelper c) :=
  ite_keeps (updCtx_keeps h) (endCtx_keeps (emitTrace_keeps (dropSaved_keeps (updCtx_keeps h))))

theorem killHelpers_keeps : Keeps r s.killHelpers := foldl_keeps h fun _ _ hu => ite_keeps hu (killHelper_keeps hu)

theorem retireGrain_keeps : Keeps r s.retireGrain :=
  fresh_keeps (endCtx_keeps (updGrain_keeps (emitTrace_keeps (updTile_keeps (flushU_keeps h)))))

end Sys2Proof.Proofs
end

section
/-! What the operations keep: circuits, flits and ports. -/

namespace Sys2Proof.Proofs

open Sys2Proof.Machine Sys2Proof.Laws

variable {r s : State} (h : Keeps r s)
include h

theorem setTables_keeps {ws : List ((Nat × Nat × Nat × Nat) × W64)} : Keeps r (s.setTables ws) := by
  unfold State.setTables
  exact updDev_keeps h

theorem writeEntries_keeps {k : Circuit} : Keeps r (s.writeEntries k) := foldl_keeps h fun _ _ hu => updDev_keeps hu
theorem freeEntries_keeps {handle : Nat} : Keeps r (s.freeEntries handle) := updDev_keeps h
theorem idleEntries_keeps {handle : Nat} : Keeps r (s.idleEntries handle) := freeEntries_keeps (setTables_keeps h)

theorem reserveCircuit_keeps {k : Circuit} : KeepsSome r (s.reserveCircuit k) := by
  unfold State.reserveCircuit
  dsimp only
  refine ite_keeps none_keeps ?_
  split
  · exact none_keeps
  · exact some_keeps (writeEntries_keeps (updDev_keeps h))

theorem placeCircuit_keeps {k : Circuit} : KeepsSome r (s.placeCircuit k) :=
  (reserveCircuit_keeps h).map fun _ hu => setTables_keeps hu

theorem dropCircuit_keeps {handle : Nat} : Keeps r (s.dropCircuit handle) := updDev_keeps (idleEntries_keeps h)

theorem execCktRel_keeps {hd : Head} {a : Src} : KeepsNext r (execCktRel hd a s) := by
  unfold execCktRel
  dsimp only
  refine issue_keeps h ?_
  split
  · exact exact_keeps h
  · exact ite_keeps (doneN_keeps h) (doneN_keeps (unlogged_keeps (updDev_keeps (updCircuit_keeps h))))

theorem startTrains_keeps : Keeps r s.startTrains := ite_keeps h (updDev_keeps (updDev_keeps (updDev_keeps h)))

theorem putAway_keeps {south : Bool} {first : Nat} {head : W64} {words : List W64} : KeepsFst r (s.putAway south first head
    words) :=
  fst_keeps (updDev_keeps h)

theorem sendWrites_keeps {first : Nat} {ws : List ((Nat × Nat × Nat × Nat) × W64)} : KeepsFst r (s.sendWrites first ws) :=
  foldl_keeps (P := KeepsFst r) (s := (s, first * s.wheel)) h fun p _ hp =>
    foldl_keeps (P := fun acc : State × Nat × Nat => Keeps r acc.1) (s := (p.1, p.2, first)) hp fun _ _ hq => putAway_keeps hq

theorem awayStep_keeps : Keeps r s.awayStep := ite_keeps h (updDev_keeps h)

theorem bromeAnswers_keeps {m : TrainMsg} {from_ first a : Nat} : Keeps r (s.bromeAnswers m from_ first a) := by
  unfold State.bromeAnswers
  extract_lets
  split
  rename_i t _ e
  refine fresh_keeps (updDev_keeps (keeps_of_eq ?_ e))
  split
  · exact h
  · exact putAway_keeps h

theorem grant_keeps : Keeps r s.grant := by
  unfold State.grant
  dsimp only
  split
  · exact h
  · have hd {f : Dev → Dev} := updDev_keeps (f := f) h
    refine ite_keeps h (ite_keeps (bromeAnswers_keeps hd) (ite_keeps (bromeAnswers_keeps ?_) ?_))
    · split
      · exact updSheaf_keeps (updDev_keeps hd)
      · exact updDev_keeps hd
    · split
      · exact bromeAnswers_keeps hd
      · rename_i t e
        have ht : Keeps r t := reserveCircuit_keeps hd _ e
        refine bromeAnswers_keeps ?_
        split
        · exact updSheaf_keeps (sendWrites_keeps ht)
        · exact sendWrites_keeps ht

theorem unGrant_keeps : Keeps r s.unGrant := by
  unfold State.unGrant
  dsimp only
  split
  · exact h
  · refine ite_keeps h ?_
    split
    · exact updDev_keeps h
    · split
      · exact updSheaf_keeps (updDev_keeps (freeEntries_keeps (sendWrites_keeps (updDev_keeps h))))
      · exact updDev_keeps (freeEntries_keeps (sendWrites_keeps (updDev_keeps h)))

theorem answer_keeps : Keeps r s.answer := by
  unfold State.answer
  dsimp only
  split
  · exact h
  · split
    · exact setCtl_keeps (updCircuit_keeps (updDev_keeps h))
    · exact ite_keeps (unlogged_keeps (finish_keeps (updCircuit_keeps (updDev_keeps h)))) (updCircuit_keeps (updDev_keeps h))

theorem dropSlot_keeps {k : Circuit} {x : Nat} : Keeps r (s.dropSlot k x) := by
  unfold State.dropSlot
  exact updDev_keeps (updCircuit_keeps (putAway_keeps h))

theorem idleLeft_keeps {vd : Nat} : Keeps r (s.idleLeft vd) :=
  foldl_keeps h (fun _ _ hu => ite_keeps hu (foldl_keeps hu (fun _ _ hu1 => updDev_keeps (updCircuit_keeps (sendWrites_keeps
      hu1)))))

theorem shrink_keeps {vd : Nat} : Keeps r (s.shrink vd) := by
  unfold State.shrink
  dsimp only
  split
  · exact idleLeft_keeps h
  · exact dropSlot_keeps (idleLeft_keeps h)

theorem writeFabcfg_keeps {v : W64} : Keeps r (s.writeFabcfg v) :=
  ite_keeps (setMg_keeps h) (ite_keeps (setMg_keeps h) (updDev_keeps (setMg_keeps h)))

theorem updPort_keeps {p : Fin 16} {f : Port → Port} : Keeps r (s.updPort p f) := updDev_keeps h

theorem portGone_keeps {p : Fin 16} : Keeps r (s.portGone p) := by
  refine foldl_keeps h fun _ _ hu => ite_keeps (foldl_keeps (updCircuit_keeps hu) fun _ _ hv => ?_) hu
  split
  · exact dropSlot_keeps hv
  · exact hv

theorem dropPortFlits_keeps {p : Fin 16} : Keeps r (s.dropPortFlits p) := by
  refine foldl_keeps h fun _ _ hu =>
    ite_keeps (foldl_keeps (updCircuit_keeps (foldl_keeps hu fun _ _ hv => ?_)) fun _ _ hw => netBad_keeps hw) hu
  split
  · exact flitFault_keeps (countError_keeps (flitGone_keeps hv))
  · exact flitGone_keeps hv

theorem writePort_keeps {p : Fin 16} {v : W64} : Keeps r (s.writePort p v) :=
  ite_keeps h (updPort_keeps (ite_keeps (portGone_keeps h) h))

theorem stepSlots_keeps {offset : Int} : Keeps r (s.stepSlots offset) := frame_keeps h (by rfl)

theorem ptp_keeps {p : Fin 16} {offset : Int} {delay : W16} : Keeps r (s.ptp p offset delay) :=
  ite_keeps h (ite_keeps (updPort_keeps (stepSlots_keeps (updPort_keeps h))) (ite_keeps (updPort_keeps (updPort_keeps h))
      (dropPortFlits_keeps (updPort_keeps (updPort_keeps h)))))

theorem netActive_keeps {handle : Nat} : Keeps r (s.netActive handle) := by
  unfold State.netActive
  dsimp only
  split
  · exact h
  · exact ite_keeps (updCircuit_keeps h) h

theorem gkreq_keeps {vd : Nat} {v : W64} : Keeps r (s.gkreq vd v) := ite_keeps h (updDev_keeps h)

theorem bulkFrame_keeps {p : Fin 16} {vd host : Nat} {payload : List Byte} : Keeps r (s.bulkFrame p vd host payload) :=
  ite_keeps h (tell_keeps (updPort_keeps (setHost_keeps h (h.host.write _ _))))

theorem frameOut_keeps {port vd host len : Nat} : Keeps r (s.frameOut port vd host len) := by
  unfold State.frameOut
  dsimp only
  split
  · exact h
  · exact ite_keeps h (tell_keeps (updPort_keeps h))

theorem execSrsRd_keeps {hd : Head} {u : Src} {n : BitVec 16} : KeepsNext r (execSrsRd hd u n s) := by
  unfold execSrsRd
  dsimp only
  refine issue_keeps h (ite_keeps (exact_keeps h) ?_)
  split
  · exact exact_keeps h
  · exact fresh_keeps (updMe_keeps h)
  · exact fresh_keeps (updMe_keeps h)

theorem execSrsWr_keeps {hd : Head} {u b : Src} {n : BitVec 16} : KeepsNext r (execSrsWr hd u b n s) := by
  unfold execSrsWr
  dsimp only
  refine issue_keeps h (ite_keeps (exact_keeps h) ?_)
  split
  · exact exact_keeps h
  · exact doneN_keeps (bankpwrWrite_keeps h)
  · exact doneN_keeps h

theorem srsAnswer_keeps {c : CtxId} {k : Nat} : Keeps r (s.srsAnswer c k) := by
  unfold State.srsAnswer
  split
  · exact h
  · split
    · exact h
    · exact ite_keeps (fresh_keeps (updCtx_keeps h)) h

end Sys2Proof.Proofs
end

section
/-! What the operations keep: floating point. -/

namespace Sys2Proof.Proofs

open Sys2Proof.Machine Sys2Proof.Laws

variable {r s : State} (h : Keeps r s)
include h

theorem fp2_keeps {lat : Nat} {hd : Head} {a : Src} {b : FOp} {f : Nat → Nat → W64 × Flags} : KeepsNext r (fp2 lat hd a b s
    f) :=
  issue_keeps h (doneL_keeps h)

theorem fp1_keeps {lat : Nat} {hd : Head} {a : Src} {f : Nat → W64 × Flags} : KeepsNext r (fp1 lat hd a s f) :=
  issue_keeps h (doneL_keeps h)

end Sys2Proof.Proofs
end

section
/-! What the operations keep: launch records and queues. -/

namespace Sys2Proof.Proofs

open Sys2Proof.Machine Sys2Proof.Laws

variable {r s : State} (h : Keeps r s)
include h

theorem accept_keeps {vd : Nat} {hd : Sheaf} {parent : Option CtxId} {callNo : Nat} {errData : W64} : Keeps r (s.accept vd hd
    parent callNo errData) :=
  pollWait_keeps (updVd_keeps (updDev_keeps (frame_keeps h (by rfl))))

theorem retest_keeps {n : Nat} : Keeps r (s.retest n) := by
  unfold State.retest
  dsimp only
  refine ite_keeps h ?_
  split
  · exact h
  · exact postSheaf_keeps (updSheaf_keeps h)

theorem retestVd_keeps {vd : Nat} : Keeps r (s.retestVd vd) := foldl_keeps h fun _ _ hu => ite_keeps (retest_keeps hu) hu

theorem lqEnable_keeps {vd : Nat} {p : Fin 12} {v : W64} : Keeps r (s.lqEnable vd p v) :=
  ite_keeps (updVd_keeps (updVd_keeps (setCtl_keeps (setCtl_keeps h)))) (ite_keeps (setCtl_keeps h) (updVd_keeps
      (setCtl_keeps h)))

theorem lqNotify_keeps {vd : Nat} {p : Fin 12} {v : W64} : Keeps r (s.lqNotify vd p v) := pollVd_keeps (updVd_keeps h)

theorem lqRead_keeps {vd : Nat} {p : Fin 12} : Keeps r (s.lqRead vd p) := by
  unfold State.lqRead
  dsimp only
  split
  · refine ite_keeps (updVd_keeps (gread_keeps h)) ?_
    split
    · exact postEvent_keeps (setCtl_keeps (updVd_keeps (gread_keeps h)))
    · exact accept_keeps (setCtl_keeps (updVd_keeps (gread_keeps h)))
  · exact ite_keeps (postEvent_keeps (setCtl_keeps (updVd_keeps (gread_keeps h)))) (updVd_keeps (gread_keeps h))

theorem lqFetch_keeps {vd : Nat} {p : Fin 12} : Keeps r (s.lqFetch vd p) := ite_keeps (lqRead_keeps h) h

theorem lqReread_keeps {vd : Nat} {p : Fin 12} : Keeps r (s.lqReread vd p) := by
  unfold State.lqReread
  split
  · exact h
  · exact ite_keeps (lqRead_keeps h) h

theorem launchStep_keeps {c : CtxId} : Keeps r (s.launchStep c) := by
  unfold State.launchStep
  dsimp only
  split
  · exact h
  · refine ite_keeps h ?_
    split
    · split
      · rename_i t _ e
        have ht : Keeps r t := keeps_of_eq (gread_keeps h) e
        exact recordFail_keeps ht
      · rename_i t _ e
        have ht : Keeps r t := keeps_of_eq (gread_keeps h) e
        split
        · exact recorded_keeps ht
        · exact updOut_keeps ht
    · exact ite_keeps h (retest_keeps (unlogged_keeps (finish_keeps (accept_keeps h))))
    · exact h

theorem tagMiss_keeps {vd : Nat} : Keeps r (s.tagMiss vd) := setCtl_keeps h

theorem tagMessage_keeps {vd tag : Nat} {payload : List Byte} : Keeps r (s.tagMessage vd tag payload) := by
  unfold State.tagMessage
  split
  · exact h
  · split
    · exact tagMiss_keeps h
    · extract_lets _ _ fired
      have hread (c : Prop) [Decidable c] (va : W64) (f : Fail) :
          KeepsFst r (if c then s.gread none vd va 128 else (s, .error f)) := ite_keeps (P := KeepsFst r) (gread_keeps h) h
      have hfired {u : State} (hu : Keeps r u) : Keeps r (fired u) := ite_keeps hu (updVd_keeps hu)
      split
      · rename_i t _ e
        exact postEvent_keeps (hfired (keeps_of_eq (hread _ _ _) e))
      · rename_i t _ e
        have ht : Keeps r t := keeps_of_eq (hread _ _ _) e
        extract_lets
        split
        · exact postEvent_keeps (hfired ht)
        · exact ite_keeps (tagMiss_keeps ht)
            (ite_keeps (updVd_keeps (waitLog_keeps ht)) (accept_keeps (gwriteAll_keeps (hfired ht))))

theorem lateStep_keeps {vd : Nat} : Keeps r (s.lateStep vd) := by
  unfold State.lateStep
  split
  · exact h
  · exact ite_keeps h (eventOut_keeps (updVd_keeps h))
  · exact ite_keeps h (tagMessage_keeps (updVd_keeps h))

theorem launchFrame_keeps {p : Fin 16} {payload : List Byte} : Keeps r (s.launchFrame p payload) := by
  unfold State.launchFrame
  dsimp only
  split
  · refine ite_keeps h ?_
    split
    · exact updPort_keeps h
    · exact tagMessage_keeps (updPort_keeps h)
  · exact h

end Sys2Proof.Proofs
end

section
/-! What the operations keep: placement and retirement. -/

namespace Sys2Proof.Proofs

open Sys2Proof.Machine Sys2Proof.Laws

variable {r s : State} (h : Keeps r s)
include h

theorem placeMem_keeps {vd : Nat} {l : List Nat} : KeepsSome r (s.placeMem vd l) := by
  induction l generalizing s with
  | nil => exact some_keeps h
  | cons t ts ih =>
    unfold State.placeMem
    split
    · exact ih h
    · split
      · exact none_keeps
      · rename_i u e
        refine ih (foldl_keeps (P := KeepsSome r) (some_keeps h) (fun _ _ ho => ho.bind fun _ hv => placeCircuit_keeps hv) u
            e)

theorem dropMem_keeps {n : Nat} {tiles : List Nat} : Keeps r (s.dropMem n tiles) :=
  foldl_keeps h fun _ _ hu => foldl_keeps hu (fun _ _ hu1 => dropCircuit_keeps hu1)

theorem loseTrace_keeps {tile : Nat} : Keeps r (s.loseTrace tile) := by
  unfold State.loseTrace
  split
  · exact ite_keeps h (setCtl_keeps h)
  · exact h

theorem clearTile_keeps {tile : Nat} : Keeps r (s.clearTile tile) := by
  have hl := loseTrace_keeps (tile := tile) h
  exact { hl with lmem := hl.lmem.filter _, fe := hl.fe.filter _, wbuf := hl.wbuf.filter _ }

theorem serve_keeps {vd tile : Nat} : Keeps r (s.serve vd tile) :=
  updVd_keeps (updTile_keeps (ite_keeps h (clearTile_keeps h)))

theorem bindSheaf_keeps {n : Nat} {cl : List Nat × List Nat} : KeepsSome r (s.bindSheaf n cl) :=
  (placeMem_keeps (updSheaf_keeps h)).map fun _ hu => foldl_keeps hu fun _ _ hv => serve_keeps hv

theorem greadLines_keeps {vd : Nat} {va : W64} {n : Nat} : KeepsFst r (s.greadLines vd va n) := by
  induction n generalizing s va with
  | zero => exact h
  | succ n ih =>
    unfold State.greadLines
    split
    · rename_i t _ e
      exact keeps_of_eq (gread_keeps h) e
    · rename_i t _ e
      have ht : Keeps r t := keeps_of_eq (gread_keeps h) e
      split
      · rename_i u _ eu
        exact keeps_of_eq (ih ht) eu
      · rename_i u _ eu
        exact keeps_of_eq (ih ht) eu

theorem constImage_keeps {n : Nat} : KeepsFst r (s.constImage n) := by
  unfold State.constImage
  dsimp only
  split
  · exact h
  · split
    · rename_i t _ e
      have ht : Keeps r t := keeps_of_eq (greadLines_keeps h) e
      exact ht
    · rename_i t _ e
      have ht : Keeps r t := keeps_of_eq (greadLines_keeps h) e
      exact ht

theorem placeGrain_keeps {n : Nat} {const : Mem} {grain : Nat} : Keeps r (s.placeGrain n const grain) :=
  updCore_keeps (setGrains_keeps h (h.grains.put _ _))

theorem startGrains_keeps {n : Nat} : Keeps r (s.startGrains n) :=
  foldl_keeps h fun _ _ hu => { hu with ctxs := hu.ctxs.put _ _ }

theorem releaseUnits_keeps {n : Nat} : Keeps r (s.releaseUnits n) := by
  have hd := dropMem_keeps (n := n) (tiles := (s.sheafOf n).tiles) h
  exact { hd with ctxs := hd.ctxs.filter _, grains := hd.grains.filter _ }

theorem freeAccs_keeps {n : Nat} : Keeps r (s.freeAccs n) := frame_keeps h (by rfl)

theorem decSignal_keeps {vd sid : Nat} {va : W64} : Keeps r (s.decSignal vd sid va) := by
  unfold State.decSignal
  split
  · rename_i t _ e
    have ht : Keeps r t := keeps_of_eq (gread_keeps h) e
    exact ht
  · rename_i t _ e
    have ht : Keeps r t := keeps_of_eq (gread_keeps h) e
    exact gwrite_keeps ht

theorem endSheaf_keeps {n : Nat} : Keeps r (s.endSheaf n) := by
  have hd := freeAccs_keeps (n := n) (releaseUnits_keeps (n := n) (foldl_keeps (l := (s.sheafOf n).circuits)
    (flushU_keeps (p := fun _ u => u.by_.any fun c => c.sheaf == n) h) fun _ k hu => dropCircuit_keeps (handle := k) hu))
  unfold State.endSheaf
  refine pollVd_keeps (ite_keeps (postSheaf_keeps ?_) ?_) <;>
  · exact ite_keeps (updSheaf_keeps (frame_keeps hd (by rfl))) (decSignal_keeps (updSheaf_keeps (frame_keeps hd (by rfl))))

theorem retireSheaf_keeps {n : Nat} : Keeps r (s.retireSheaf n) :=
  ite_keeps h (ite_keeps (waitLog_keeps h) (endSheaf_keeps h))

theorem placeOwn_keeps {n : Nat} {l : List Nat} : KeepsSome r (s.placeOwn n l) := by
  induction l generalizing s with
  | nil => exact some_keeps h
  | cons hd hs ih =>
    unfold State.placeOwn
    split
    · exact ih h
    · extract_lets
      split
      · exact none_keeps
      · rename_i t e
        exact ih (placeCircuit_keeps h t e)

theorem bound_keeps {n : Nat} : KeepsSome r (s.bound n) :=
  ite_keeps none_keeps (fun t e => by
    obtain ⟨cl, -, e⟩ := Option.bind_eq_some_iff.mp e
    exact (bindSheaf_keeps h).bind (fun _ hu => placeOwn_keeps hu) t e)

theorem chosen_keeps {n : Nat} : KeepsSome r (s.chosen n) := by
  unfold State.chosen
  split
  · exact none_keeps
  · rename_i t e
    have ht : Keeps r t := bound_keeps h _ e
    exact ite_keeps (some_keeps ht) none_keeps

theorem gangTell_keeps {hd : Sheaf} {code : Nat} : Keeps r (s.gangTell hd code) := tell_keeps h
theorem commit_keeps {n t : Nat} : Keeps r (s.commit n t) := updSheaf_keeps h
theorem gangLead_keeps {n : Nat} : Keeps r (s.gangLead n) := ite_keeps (tell_keeps (gangTell_keeps (commit_keeps h))) h

theorem gangReservedMsg_keeps {n pkg : Nat} : Keeps r (s.gangReservedMsg n pkg) :=
  ite_keeps h (gangLead_keeps (updSheaf_keeps h))

theorem gangCommitMsg_keeps {n slot : Nat} : Keeps r (s.gangCommitMsg n slot) := ite_keeps (commit_keeps h) h

theorem gangStart_keeps {n : Nat} : Keeps r (s.gangStart n) := by
  unfold State.gangStart
  dsimp only
  split
  · exact ite_keeps (startGrains_keeps (updSheaf_keeps h)) h
  · exact h

theorem gangMsg_keeps {n pkg : Nat} {missing : Bool} : Keeps r (s.gangMsg n pkg missing) := by
  unfold State.gangMsg
  dsimp only
  refine ite_keeps h ?_
  split
  · exact ite_keeps h (postSheaf_keeps (updSheaf_keeps (releaseUnits_keeps (gangTell_keeps h))))
  · exact ite_keeps (foldl_keeps (updSheaf_keeps h) (fun _ _ hu => ite_keeps (missArrival_keeps hu) hu)) (updSheaf_keeps h)
  · exact ite_keeps (foldl_keeps (updSheaf_keeps h) (fun _ _ hu => ite_keeps (missArrival_keeps hu) hu)) (updSheaf_keeps h)
  · exact h

theorem gangnWrite_keeps {vd : Nat} {n : Fin 16} {v : W64} : Keeps r (s.gangnWrite vd n v) := ite_keeps h (setCtl_keeps h)

theorem placeNew_keeps {n : Nat} : Keeps r (s.placeNew n) := by
  unfold State.placeNew
  dsimp only
  refine ite_keeps h ?_
  split
  · exact h
  · rename_i t e
    have ht : Keeps r t := chosen_keeps h _ e
    split
    · rename_i t1 _ e
      have ht1 : Keeps r t1 := keeps_of_eq (constImage_keeps ht) e
      exact endSheaf_keeps (postSheaf_keeps ht1)
    · rename_i t1 _ e
      have ht1 : Keeps r t1 := keeps_of_eq (constImage_keeps ht) e
      exact ite_keeps (gangLead_keeps (gangTell_keeps (updSheaf_keeps (updSheaf_keeps (foldl_keeps ht1 (fun _ _ hu =>
          placeGrain_keeps hu)))))) (startGrains_keeps (updSheaf_keeps (updSheaf_keeps (foldl_keeps ht1 (fun _ _ hu =>
          placeGrain_keeps hu)))))

end Sys2Proof.Proofs
end

section
/-! What the operations keep: the save area. -/

namespace Sys2Proof.Proofs

open Sys2Proof.Machine Sys2Proof.Laws

variable {r s : State} (h : Keeps r s)
include h

theorem putPage_keeps {key : List W64} {dpa : Nat} {cells : List (Nat × Byte)} : Keeps r (s.putPage key dpa cells) :=
  { h with hbm := (h.hbm.clear _ _).foldl (fun _ _ hm => hm.set _ _) _ }

theorem putArea_keeps {vd va : Nat} {m : Mem} {pages : Nat} : Keeps r (s.putArea vd va m pages) := by
  induction pages with
  | zero => exact h
  | succ k ih =>
    unfold State.putArea
    extract_lets
    split
    · rename_i t _ e
      exact keeps_of_eq (translate_keeps ih) e
    · rename_i t _ e
      exact putPage_keeps (flushHome_keeps (keeps_of_eq (translate_keeps ih) e))

theorem markLine_keeps {vd va : Nat} : Keeps r (s.markLine vd va) := by
  unfold State.markLine
  split
  · rename_i t _ e
    have ht : Keeps r t := keeps_of_eq (translate_keeps h) e
    exact ht
  · rename_i t _ e
    have ht : Keeps r t := keeps_of_eq (translate_keeps h) e
    exact poisonHbm_keeps ht

theorem writeArea_keeps {n : Nat} {v w : Saved} : Keeps r (s.writeArea n v w) :=
  ite_keeps (putArea_keeps h) (foldl_keeps (putArea_keeps h) (fun _ _ hu => markLine_keeps hu))

theorem areaPut_keeps {vd fuel va : Nat} {bs : List Byte} : Keeps r (s.areaPut vd fuel va bs) := by
  induction fuel generalizing s va bs with
  | zero => exact h
  | succ k ih =>
    cases bs with
    | nil => exact h
    | cons b bs => exact ih (logPut_keeps h)

theorem copyItems_keeps {n : Nat} {items : List (Nat × Nat × Nat)} : Keeps r (s.copyItems n items) := by
  unfold State.copyItems
  dsimp only
  split
  · exact h
  · exact ite_keeps h (foldl_keeps h (fun _ _ hu => areaPut_keeps hu))

end Sys2Proof.Proofs
end

section
/-! What the operations keep: stop, save and resume. -/

namespace Sys2Proof.Proofs

open Sys2Proof.Machine Sys2Proof.Laws

variable {r s : State} (h : Keeps r s)
include h

theorem stopCtx_keeps {c : CtxId} : Keeps r (s.stopCtx c) := fresh_keeps (emitTrace_keeps (parkEngine_keeps (updCtx_keeps h)))

theorem beginStop_keeps {n : Nat} : Keeps r (s.beginStop n) :=
  flushWhen_keeps (foldl_keeps (updSheaf_keeps h) (fun _ _ hu => stopCtx_keeps hu))

theorem stopFlush_keeps {n : Nat} : Keeps r (s.stopFlush n) :=
  ite_keeps h (ite_keeps (flushU_keeps (frame_keeps h (by rfl))) (flushWhen_keeps h))

theorem giveUp_keeps {n : Nat} : Keeps r (s.giveUp n) :=
  updSheaf_keeps (releaseUnits_keeps (foldl_keeps (foldl_keeps h (fun _ _ hu => updTile_keeps hu)) (fun _ _ hu =>
      updCircuit_keeps (idleEntries_keeps hu))))

theorem updPart_keeps {p : Fin 8} {f : Part → Part} : Keeps r (s.updPart p f) := updDev_keeps h
theorem noteShort_keeps {vd : Nat} : Keeps r (s.noteShort vd) := ite_keeps h (updVd_keeps h)
theorem askStop_keeps {n : Nat} {why : StopFor} : Keeps r (s.askStop n why) := ite_keeps h (updSheaf_keeps h)
theorem takeAreas_keeps {ms : List Nat} : Keeps r (s.takeAreas ms) := foldl_keeps h fun _ _ hu => updSheaf_keeps hu

theorem stopAll_keeps {n : Nat} : Keeps r (s.stopAll n) :=
  foldl_keeps (takeAreas_keeps h) fun _ _ hu => ite_keeps hu (beginStop_keeps (updSheaf_keeps hu))

theorem stopStep_keeps {n : Nat} : Keeps r (s.stopStep n) := by
  unfold State.stopStep
  dsimp only
  refine ite_keeps h ?_
  split
  · exact ite_keeps (askStop_keeps h) h
  · exact ite_keeps (updSheaf_keeps h) (ite_keeps (stopAll_keeps h) h)
  · exact ite_keeps (beginStop_keeps h) h
  · exact beginStop_keeps h
  · exact beginStop_keeps h

theorem stopLate_keeps {n : Nat} : Keeps r (s.stopLate n) := ite_keeps (stopAll_keeps h) h

theorem undo_keeps {vd : Nat} {r1 : LogRec} : Keeps r (s.undo vd r1) := by
  unfold State.undo
  dsimp only
  split
  · rename_i t _ e
    have ht : Keeps r t := keeps_of_eq (translate_keeps h) e
    exact ht
  · rename_i t _ e
    have ht : Keeps r t := keeps_of_eq (translate_keeps h) e
    exact ite_keeps (poisonHbm_keeps (devWrite_keeps ht)) (devWrite_keeps ht)

theorem rollBack_keeps {vd : Nat} {ns : List Nat} : Keeps r (s.rollBack vd ns) := foldl_keeps h fun _ _ hu => undo_keeps hu

theorem saveAll_keeps {g : List Nat} : Keeps r (s.saveAll g) := by
  unfold State.saveAll
  dsimp only
  refine foldl_keeps (foldl_keeps h (fun _ _ hu => updSheaf_keeps hu)) ?_
  intro _ _ hu
  split
  · exact writeArea_keeps hu
  · exact hu

theorem rollEnd_keeps {n : Nat} : Keeps r (s.rollEnd n) := by
  unfold State.rollEnd
  dsimp only
  split
  · exact h
  · exact giveUp_keeps (updSheaf_keeps (copyItems_keeps h))

theorem saveStep_keeps {n : Nat} : Keeps r (s.saveStep n) := by
  unfold State.saveStep
  dsimp only
  refine ite_keeps h ?_
  split
  · exact ite_keeps h (foldl_keeps (rollBack_keeps h) (fun _ _ hu => rollEnd_keeps hu))
  · split
    · exact updSheaf_keeps h
    · exact ite_keeps h (foldl_keeps (saveAll_keeps h) (fun _ _ hu => giveUp_keeps hu))
  · split
    · exact updSheaf_keeps h
    · exact ite_keeps h (foldl_keeps (saveAll_keeps h) (fun _ _ hu => giveUp_keeps hu))
  · exact h

theorem restoreTile_keeps {n : Nat} {v : SavedTile} : Keeps r (s.restoreTile n v) :=
  updTile_keeps (ite_keeps (cleanWbuf_keeps (setWbuf_keeps h
    ((h.wbuf.clear _ _).foldl (fun _ _ hm => hm.set _ _) _))) h)

theorem restoreMarks_keeps {n : Nat} {v : Saved} : Keeps r (s.restoreMarks n v) := ite_keeps h (updDev_keeps h)

theorem restoreGrain_keeps {n : Nat} {v : Saved} {seqs : Nat → Nat} {e : Nat × Grain} : Keeps r (s.restoreGrain n v seqs e) :=
  updCore_keeps (cleanLmem_keeps (setGrains_keeps (setFull_keeps (setLmem_keeps h
    ((h.lmem.clear _ _).foldl (fun _ _ hm => hm.set _ _) _)) ((h.fe.clear _ _).foldl (fun _ _ hm => hm.set _ _) _))
        (h.grains.put _ _)))

theorem restoreCtx_keeps {c : CtxId} {x : Ctx} : Keeps r (s.restoreCtx c x) := { h with ctxs := h.ctxs.put _ _ }

theorem resumeStep_keeps {n : Nat} : Keeps r (s.resumeStep n) := by
  unfold State.resumeStep
  dsimp only
  split
  · rename_i t _ _ e
    have ht : Keeps r t := chosen_keeps h _ e
    exact updSheaf_keeps (restoreMarks_keeps (foldl_keeps (foldl_keeps (foldl_keeps ht fun _ _ hu => restoreTile_keeps hu)
      fun _ _ hu => restoreGrain_keeps hu) fun _ _ hu => restoreCtx_keeps hu))
  · exact h

theorem firstImage_keeps {n : Nat} : Keeps r (s.firstImage n) :=
  ite_keeps h (updSheaf_keeps (writeArea_keeps (noteShort_keeps h)))

theorem restoreDone_keeps {n : Nat} : Keeps r (s.restoreDone n) := ite_keeps h (firstImage_keeps (updSheaf_keeps h))

theorem restoreAcc_keeps {tile : Nat} {a : Fin 64} : Keeps r (s.restoreAcc tile a) := by
  unfold State.restoreAcc
  dsimp only
  split
  · split
    · split
      · exact updTile_keeps (countError_keeps h)
      · have ht (lo : Nat) (es : List Byte) : Keeps r ({ s with accm := Mem.write (Mem.clear s.accm lo (2 ^ 14)) lo es } :
            State) :=
          setAccm_keeps h ((h.accm.clear _ _).write _ _)
        refine ite_keeps ?_ (updSheaf_keeps ?_) <;>
          exact setAcc_keeps (ite_keeps (cleanAcc_keeps (ht _ _)) (updDev_keeps (cleanAcc_keeps (ht _ _))))
    · exact h
  · exact h

theorem tileRestore_keeps {tile : Nat} {a : Fin 64} : Keeps r (s.tileRestore tile a) := by
  unfold State.tileRestore
  dsimp only
  split
  · exact h
  · exact updDev_keeps h
  · exact updDev_keeps h
  · exact ite_keeps h (restoreAcc_keeps (updDev_keeps h))

theorem keepImage_keeps {n seq : Nat} : Keeps r (s.keepImage n seq) :=
  ite_keeps (updSheaf_keeps (writeArea_keeps h)) (updSheaf_keeps h)

theorem ckptRecorded_keeps {n : Nat} : Keeps r (s.ckptRecorded n) := by
  unfold State.ckptRecorded
  dsimp only
  refine ite_keeps h ?_
  split
  · exact ite_keeps (finish_keeps (updCtx_keeps (updSheaf_keeps (keepImage_keeps (updVd_keeps (updDev_keeps h))))))
        (updCtx_keeps (updSheaf_keeps (keepImage_keeps (updVd_keeps (updDev_keeps h)))))
  · exact updCtx_keeps (updSheaf_keeps (keepImage_keeps (updVd_keeps (updDev_keeps h))))

theorem copiesDone_keeps {n : Nat} : Keeps r (s.copiesDone n) := ite_keeps h (updSheaf_keeps (copyItems_keeps h))

theorem plainCkpt_keeps {c : CtxId} : Keeps r (s.plainCkpt c) := by
  unfold State.plainCkpt
  dsimp only
  split
  · exact h
  · exact ite_keeps h (ite_keeps (updCtx_keeps h) (ite_keeps h (updSheaf_keeps h)))

theorem endSlice_keeps {vd : Nat} {save roll : Bool} : Keeps r (s.endSlice vd save roll) :=
  foldl_keeps (ite_keeps (takeAreas_keeps h) h) fun _ _ hu => ite_keeps (updSheaf_keeps hu) (ite_keeps (updSheaf_keeps hu) hu)

theorem sliceEnd_keeps {p : Fin 8} : Keeps r (s.sliceEnd p) := by
  unfold State.sliceEnd
  dsimp only
  split
  · exact h
  · exact ite_keeps (updPart_keeps (endSlice_keeps h)) (ite_keeps (updPart_keeps (endSlice_keeps h)) (ite_keeps
        (updPart_keeps (endSlice_keeps h)) (ite_keeps (noteShort_keeps (updPart_keeps h)) h)))

theorem saveStart_keeps {p : Fin 8} : Keeps r (s.saveStart p) := by
  unfold State.saveStart
  dsimp only
  split
  · exact h
  · exact ite_keeps h (updPart_keeps (endSlice_keeps h))

theorem giveTurn_keeps {p : Fin 8} {vd : Option Nat} : Keeps r (s.giveTurn p vd) := by
  unfold State.giveTurn
  dsimp only
  split
  · exact noteShort_keeps (updVd_keeps (updPart_keeps h))
  · exact updPart_keeps h

theorem owe_keeps {p : Fin 8} {vd : Nat} : Keeps r (s.owe p vd) := ite_keeps h (updVd_keeps h)

theorem tenantTurn_keeps {p : Fin 8} : Keeps r (s.tenantTurn p) := by
  unfold State.tenantTurn
  dsimp only
  refine ite_keeps h ?_
  split
  · split
    · exact h
    · exact giveTurn_keeps h
  · exact ite_keeps (giveTurn_keeps h) (ite_keeps (ite_keeps h (giveTurn_keeps (owe_keeps h))) (ite_keeps (giveTurn_keeps h)
        h))

theorem ageStep_keeps {n : Nat} : Keeps r (s.ageStep n) :=
  ite_keeps h (ite_keeps (ite_keeps (postSheaf_keeps (updSheaf_keeps h)) h) (ite_keeps h (ite_keeps (ite_keeps h
      (updSheaf_keeps h)) (ite_keeps (postSheaf_keeps (updSheaf_keeps (foldl_keeps h (fun _ _ hu => askStop_keeps hu))))
      (foldl_keeps h (fun _ _ hu => askStop_keeps hu))))))

theorem moveTile_keeps {n a b : Nat} : Keeps r (s.moveTile n a b) := by
  have hl {m n : Mem} {l : List Nat} {w : Nat} {k t : Nat → Nat} (hm : FormKept m n) :
      FormKept m (l.foldl (fun m i => moveCells m (k i) w (t i)) n) := hm.foldl (fun _ _ hm => hm.moveCells _ _ _) _
  unfold State.moveTile
  dsimp only
  refine foldl_keeps (updTile_keeps (updTile_keeps ?_)) fun _ _ hv => updCore_keeps hv
  exact { h with
    lmem := hl h.lmem
    fe := hl h.fe
    wbuf := ite_keeps (P := FormKept r.wbuf) (h.wbuf.moveCells _ _ _) h.wbuf
    accm := h.accm.foldl (fun _ _ hm => ite_keeps (P := FormKept r.accm) (hm.moveCells _ _ _) hm) _
    ctxs := h.ctxs.map fun e => by split <;> rfl
    grains := h.grains.map fun e => by split <;> rfl }

theorem migrate_keeps {n vc target : Nat} : Keeps r (s.migrate n vc target) := by
  unfold State.migrate
  dsimp only
  refine ite_keeps h ?_
  split
  · exact h
  · rename_i v e
    refine foldl_keeps (placeMem_keeps (updSheaf_keeps (foldl_keeps (dropMem_keeps h) fun _ _ hv =>
      moveTile_keeps (serve_keeps hv))) v e) fun _ _ hw => ?_
    split
    · exact hw
    · exact ite_keeps hw ((placeCircuit_keeps (idleEntries_keeps hw)).getD hw)

theorem migrated_keeps {n : Nat} : Keeps r (s.migrated n) := ite_keeps (updSheaf_keeps h) h

theorem moveStep_keeps {core : Nat} : Keeps r (s.moveStep core) := by
  have hm {m n : Mem} {a b c d : Nat} {l : List Host.Cell} (hn : FormKept m n) :
      FormKept m (l.foldl (fun m x => Mem.set m x.1 x.2) (Mem.clear (Mem.clear n a b) c d)) :=
    ((hn.clear _ _).clear _ _).foldl (fun _ _ hu => hu.set _ _) _
  unfold State.moveStep
  split
  · exact ite_keeps (flushWhen_keeps h) (ite_keeps h (updCore_keeps h))
  · refine ite_keeps h (setSheaves_keeps (updCore_keeps (updCore_keeps (updGrainOf_keeps (setCtxs_keeps (setFull_keeps
      (setLmem_keeps h (hm h.lmem)) (hm h.fe)) (h.ctxs.map fun e => ?_))))))
    split <;> rfl
  · exact h

end Sys2Proof.Proofs
end

section
/-! What an instruction that a context issues keeps. -/

namespace Sys2Proof.Proofs

open Sys2Proof.Machine Sys2Proof.Laws

variable {r s : State} (h : Keeps r s)
include h

/-- What a context issues. -/
theorem exec_issued_keeps {i : Instr} (hi : headOf i ≠ none) : KeepsNext r (exec i s) := by
  unfold exec
  cases i with
  | add | sub | minS | maxS | minu | maxu | andW | orW | xorW | andn | orn | shl | shr | sra | rot | bext | sext | zext | ceq
      | cne | clt | cle | cltu | cleu =>
    exact aluS_keeps h
  | mul | mulh | mulhu | div | divu | rem | remu => exact aluL_keeps h
  | clz | ctz | popc => exact alu1_keeps h
  | bins | sel => exact alu3_keeps h
  | br | jmp | ret | brx => exact issue_keeps h (checkTarget_keeps h (doneJump_keeps h))
  | call => exact issue_keeps h (checkTarget_keeps h (fresh_keeps (updMe_keeps h)))
  | loopI => exact execLoopI_keeps h
  | hstart => exact execHstart_keeps h
  | hjoin =>
    exact issue_keeps h (ite_keeps (exact_keeps h) (ite_keeps (exact_keeps h) (ite_keeps (stall_keeps h) (ite_keeps
        (park_keeps h) (doneN_keeps (settle_keeps h))))))
  | hexit =>
    exact issue_keeps h (ite_keeps (exact_keeps h) (ite_keeps (stall_keeps h) (fresh_keeps (endCtx_keeps (wakeTag_keeps
        (emitTrace_keeps h))))))
  | nop => exact issue_keeps h (doneN_keeps h)
  | evwaitLoad => exact issue_keeps h (pageAccess_keeps h (fun _ hu => evwait_keeps hu))
  | mutexTake => exact issue_keeps h (pageAccess_keeps h (fun _ hu => mutexLoad_keeps hu))
  | mutexTry => exact issue_keeps h (pageAccess_keeps h (fun _ hu => mutexTryLoad_keeps hu))
  | mutexRelease => exact issue_keeps h (pageAccess_keeps h (fun _ hu => mutexStore_keeps hu))
  | tileBarrierArrive => exact issue_keeps h (pageAccess_keeps h (fun _ hu => tbarArrive_keeps hu))
  | tileBarrierWait => exact issue_keeps h (pageAccess_keeps h (fun _ hu => tbarWait_keeps hu))
  | tbcfgWrite => exact issue_keeps h (pageAccess_keeps h (fun _ hu => tbcfgStore_keeps hu))
  | rqcfgWrite => exact issue_keeps h (pageAccess_keeps h (fun _ hu => rqcfgStore_keeps hu))
  | mqwtWrite => exact issue_keeps h (pageAccess_keeps h (fun _ hu => mqwtStore_keeps hu))
  | ld => exact issue_keeps h (loadBody_keeps h)
  | st => exact issue_keeps h (storeBody_keeps h)
  | ldg =>
    exact issue_keeps h (ite_keeps (stall_keeps (unfence_keeps h)) (globalCheck_keeps (unfence_keeps h) (startL_keeps
        (advance_keeps (unfence_keeps h)))))
  | stg =>
    exact issue_keeps h (ite_keeps (stallRel_keeps (unfence_keeps h)) (globalCheck_keeps (unfence_keeps h) (startN_keeps
        (advance_keeps (releaseOpt_keeps (unfence_keeps h))))))
  | ldsync | ldsyncC => exact issue_keeps h (ldsyncBody_keeps h)
  | stfull =>
    exact issue_keeps h (ite_keeps (stall_keeps h) (feStore_keeps h fun _ _ hu => ite_keeps (P := Keeps r) (setFe_keeps
        (lwrite_keeps hu)) (wakeTag_keeps (setFe_keeps (lwrite_keeps hu)))))
  | setempty => exact issue_keeps h (feStore_keeps h (fun _ _ hu => setFe_keeps hu))
  | amoSwap | amoCas | amoAdd | amoFadd | amoMin | amoMax | amoAnd | amoOr | amoXor => exact issue_keeps h (amoBody_keeps h)
  | redAdd | redFadd | redMin | redMax | redAnd | redOr | redXor => exact issue_keeps h (redBody_keeps h)
  | fence | fenceRel => exact issue_keeps h (ite_keeps (stallRel_keeps h) (fenceBody_keeps (release_keeps h)))
  | fenceAcq => exact issue_keeps h (fenceBody_keeps h)
  | barArv =>
    exact issue_keeps h (arriveCheck_keeps h (fun _ hu => ite_keeps (updOut_keeps (startL_keeps hu)) (doneL_keeps
        (arrive_keeps hu))))
  | barSync =>
    exact issue_keeps h (arriveCheck_keeps h (fun _ hu => ite_keeps (updOut_keeps (startL_keeps hu)) (updOut_keeps
        (startL_keeps (arrive_keeps hu)))))
  | barWait => exact execBarWait_keeps h
  | evsig =>
    exact issue_keeps h (ite_keeps (stall_keeps (unfence_keeps h)) (doneN_keeps (foldl_keeps (fireLine_keeps (unfence_keeps
        h)) (fun _ _ hu => ite_keeps (updTile_keeps hu) hu))))
  | rdvPut =>
    exact issue_keeps h (ite_keeps (stall_keeps (unfence_keeps h)) (detGate_keeps (unfence_keeps h) (putBody_keeps
        (unfence_keeps h))))
  | rdvGet =>
    exact issue_keeps h (ite_keeps (stall_keeps (unfence_keeps h)) (detGate_keeps (unfence_keeps h) (getBody_keeps
        (unfence_keeps h))))
  | rqput => exact issue_keeps h (rqputBody_keeps h)
  | rqtake => exact issue_keeps h (rqtakeBody_keeps h)
  | ringDef => exact execRingDef_keeps h
  | vadd | vsub | vmul | vfma | vfms | vmin | vmax | vabs | vneg | vexp2 | vlog2 | vrcp | vrsq | vcvt | vand | vor | vxor |
      vshl | vshr | vsra | vcmp | vsel | vbcast | vmov | vperm | vredadd | vredmax | vredmin | vscan =>
    exact issue_keeps h (vecBody_keeps h)
  | vgath | vscat => exact issue_keeps h (gathBody_keeps h)
  | vsetvl | vsetvlImm => exact issue_keeps h (setVl_keeps h)
  | mwld | mwldImg | mma =>
    exact issue_keeps h (ite_keeps (stall_keeps (unfence_keeps h)) (mqChecks_keeps (unfence_keeps h) (fun _ => doneN_keeps
        (enqueue_keeps (unfence_keeps h)))))
  | mwldGl =>
    exact issue_keeps h (ite_keeps (stall_keeps (unfence_keeps h)) (mqChecks_keeps (unfence_keeps h) fun _ => ite_keeps
        (exact_keeps (unfence_keeps h)) (ite_keeps (exact_keeps (unfence_keeps h)) (startN_keeps (enqueue_keeps
        (unfence_keeps h))))))
  | mmaSp =>
    exact issue_keeps h (ite_keeps (stall_keeps (unfence_keeps h)) (mqChecks_keeps (unfence_keeps h) (fun _ => doneN_keeps
        (updGrain_keeps (enqueue_keeps (unfence_keeps h))))))
  | mzero =>
    exact issue_keeps h (ite_keeps (stall_keeps (unfence_keeps h)) (mqChecks_keeps (unfence_keeps h) fun _ => doneN_keeps
        (enqueue_keeps (unfence_keeps h))))
  | maccRd | maccWr => exact issue_keeps h (accMove_keeps h)
  | mstat => exact issue_keeps h (ite_keeps (stall_keeps (unfence_keeps h)) (doneTag_keeps (enqueue_keeps (unfence_keeps h))))
  | macq => exact execMacq_keeps h
  | mrel => exact issue_keeps h (ite_keeps (park_keeps h) (ite_keeps (doneN_keeps (setAcc_keeps h)) (exact_keeps h)))
  | mpin => exact issue_keeps h (ite_keeps (doneN_keeps (setAcc_keeps h)) (exact_keeps h))
  | munpin => exact execMunpin_keeps h
  | deltaUpd | deltaChunk | deltaQry => exact issue_keeps h (deltaBody_keeps h)
  | cpy | cpy2d => exact issue_keeps h (cpyBody_keeps h)
  | coll => exact issue_keeps h (collBody_keeps h)
  | gath => exact issue_keeps h (gatherBody_keeps h)
  | snap => exact issue_keeps h (snapBody_keeps h)
  | wpwait =>
    exact issue_keeps h (ite_keeps (stall_keeps (unfence_keeps h)) (ite_keeps (park_keeps (unfence_keeps h)) (doneN_keeps
        (settle_keeps (unfence_keeps h)))))
  | sigDec =>
    exact issue_keeps h (ite_keeps (stallRel_keeps (unfence_keeps h)) (globalCheck_keeps (unfence_keeps h) (startN_keeps
        (release_keeps (unfence_keeps h)))))
  | tfence => exact issue_keeps h (ite_keeps (stall_keeps h) (ite_keeps (trapAfter_keeps h) (doneN_keeps h)))
  | trapN => exact issue_keeps h (trapAfter_keeps h)
  | svc => exact issue_keeps h (trapAfter_keeps (unlogged_keeps h))
  | eret =>
    exact issue_keeps h (ite_keeps (exact_keeps h) (ite_keeps (stall_keeps h) (fresh_keeps (updMe_keeps (ite_keeps
        (dropSaved_keeps h) h)))))
  | srd => exact execSrd_keeps h
  | swr => exact execSwr_keeps h
  | prio | pwrReq => exact issue_keeps h (doneN_keeps (updGrain_keeps h))
  | time | movi | movhi | movR | lit | pget => exact issue_keeps h (doneS_keeps h)
  | chkpt =>
    exact issue_keeps h (ite_keeps (stall_keeps h) (ite_keeps (ite_keeps (stall_keeps h) (updSheaf_keeps (startL_keeps
        (nextChk_keeps h)))) (doneL_keeps (nextChk_keeps h))))
  | halt =>
    exact issue_keeps h (ite_keeps (exact_keeps h) (ite_keeps (stall_keeps (killHelpers_keeps h)) (ite_keeps (stall_keeps
        (waitLog_keeps (killHelpers_keeps h))) (retireGrain_keeps (killHelpers_keeps h)))))
  | cktReq => exact issue_keeps h (ite_keeps (stall_keeps h) (ite_keeps (exact_keeps h) (startL_keeps (updDev_keeps h))))
  | cktRel => exact execCktRel_keeps h
  | cktStat | locq | ffma => exact issue_keeps h (doneL_keeps h)
  | srsRd => exact execSrsRd_keeps h
  | srsWr => exact execSrsWr_keeps h
  | fadd | fsub | fmul | fmin | fmax | fceq | fclt | fcle => exact fp2_keeps h
  | fabs | fneg | frcp | frsq | fclass => exact fp1_keeps h
  | fcvt => exact issue_keeps h (doneL_keeps (ite_keeps (updMe_keeps h) h))
  | launch =>
    exact issue_keeps h (ite_keeps (stallRel_keeps (unfence_keeps h)) (ite_keeps (exact_keeps (unfence_keeps h)) (ite_keeps
        (exact_keeps (unfence_keeps h)) (detGate_keeps (unfence_keeps h) (startL_keeps (updGrain_keeps (release_keeps
        (unfence_keeps h))))))))
  | arm =>
    exact issue_keeps h (ite_keeps (exact_keeps h) (ite_keeps (exact_keeps h) (ite_keeps (exact_keeps h) (doneN_keeps
        (unlogged_keeps (updVd_keeps h))))))
  | disarm => exact issue_keeps h (doneN_keeps (unlogged_keeps (updVd_keeps h)))
  | pset | psetKeep | padd | paddImm => exact issue_keeps h (doneN_keeps (updMe_keeps h))
  | _ => exact absurd rfl hi

omit h in
/-- An instruction that waits is tried again as it was issued. -/
theorem retry_cases (i : Instr) (s : State) : (headOf i ≠ none ∧ retry i s = exec i s) ∨ retry i s = .next s := by
  unfold retry
  split
  case h_70 => exact .inr rfl
  all_goals exact .inl ⟨nofun, rfl⟩

theorem retry_keeps {i : Instr} : KeepsNext r (retry i s) := by
  rcases retry_cases i s with ⟨hi, e⟩ | e
  · exact e ▸ exec_issued_keeps h hi
  · exact e ▸ next_keeps h

end Sys2Proof.Proofs
end

section
/-! What the operations keep: deadlock, batches and moves of the schedule. -/

namespace Sys2Proof.Proofs

open Sys2Proof.Machine Sys2Proof.Laws

variable {r s : State} (h : Keeps r s)
include h

theorem deadlock_keeps {n : Nat} : Keeps r (s.deadlock n) :=
  ite_keeps h (ite_keeps h (foldl_keeps (foldl_keeps (foldl_keeps h (fun _ _ hu => updSheaf_keeps hu)) (fun _ _ hu =>
      takeTrap_keeps hu)) (fun _ _ hu => postSheaf_keeps hu)))

theorem enterLaunch_keeps {c : CtxId} {i : Instr} : Keeps r (s.enterLaunch c i) :=
  ite_keeps (launchStep_keeps (launchStep_keeps h)) h

theorem serveReq_keeps {n : Nat} {r1 : TaskReq} : Keeps r (s.serveReq n r1) := by
  unfold State.serveReq
  dsimp only
  refine ite_keeps (freeMutexes_keeps (updSheaf_keeps h)) ?_
  split
  · exact updSheaf_keeps h
  · refine ite_keeps (updSheaf_keeps (updSheaf_keeps h)) (setCur_keeps ?_)
    split
    · rename_i t i e
      have ht : Keeps r t := keeps_of_eq (prepare_keeps (updCtx_keeps (updSheaf_keeps h))) e
      split
      · rename_i u e
        exact enterLaunch_keeps (conclude_keeps ht (retry_keeps ht u e))
      · exact ht
    · rename_i t _ _ e
      exact keeps_of_eq (prepare_keeps (updCtx_keeps (updSheaf_keeps h))) e

theorem serveBatch_keeps {n q : Nat} : Keeps r (s.serveBatch n q) :=
  ite_keeps h (foldl_keeps (updSheaf_keeps h) (fun _ _ hu => serveReq_keeps hu))

theorem shelfStep_keeps {n : Nat} : Keeps r (s.shelfStep n) := by
  have hf := flushU_keeps (s := s) (r := r)
  refine ite_keeps h (ite_keeps (waitLog_keeps h) (updSheaf_keeps ?_))
  exact { hf h with ctxs := (hf h).ctxs.map fun e => by dsimp only; split <;> rfl }

theorem svcres_keeps {vd : Nat} {v : W64} : Keeps r (s.svcres vd v) := by
  unfold State.svcres
  dsimp only
  split
  · exact h
  · exact updSheaf_keeps (updCtx_keeps h)

end Sys2Proof.Proofs
end

section
/-! What the operations keep: power. -/

namespace Sys2Proof.Proofs

open Sys2Proof.Machine Sys2Proof.Laws

variable {r s : State} (h : Keeps r s)
include h

theorem beginTransition_keeps {quad : Nat} : Keeps r (s.beginTransition quad) := ite_keeps h (updQuad_keeps h)

theorem rampDone_keeps {quad : Nat} : Keeps r (s.rampDone quad) :=
  ite_keeps h (ite_keeps (updQuad_keeps h) (ite_keeps (updQuad_keeps h) h))

theorem switchDone_keeps {quad : Nat} : Keeps r (s.switchDone quad) := ite_keeps h (updQuad_keeps h)

theorem retestPart_keeps {n : Fin 8} : Keeps r (s.retestPart n) :=
  foldl_keeps h fun _ _ hu => ite_keeps (retestVd_keeps hu) hu

theorem writePtctl_keeps {n : Fin 8} {v : W64} : Keeps r (s.writePtctl n v) :=
  ite_keeps h (ite_keeps (updPart_keeps h) (retestPart_keeps (updPart_keeps h)))

theorem writePtclus_keeps {n : Fin 8} {second : Bool} {v : W64} : Keeps r (s.writePtclus n second v) :=
  ite_keeps h (retestPart_keeps (updPart_keeps h))

theorem writePtramp_keeps {n : Fin 8} {v : W64} : Keeps r (s.writePtramp n v) := ite_keeps (updPart_keeps h) h

theorem writeVdsched_keeps {vd : Nat} {v : W64} : Keeps r (s.writeVdsched vd v) :=
  ite_keeps (setHyp_keeps h) (ite_keeps (retestVd_keeps (setHyp_keeps h)) (setHyp_keeps h))

theorem startMove_keeps {core target : Nat} {key : Nat × Nat} : Keeps r (s.startMove core target key) :=
  updCore_keeps (updGrainOf_keeps (flushWhen_keeps (foldl_keeps h (fun _ _ hu => stopCtx_keeps hu))))

theorem hotCore_keeps {before : State} {core : Nat} : Keeps r (s.hotCore before core) := by
  unfold State.hotCore
  dsimp only
  split
  · exact h
  · refine ite_keeps h ?_
    split
    · exact startMove_keeps h
    · exact ite_keeps h (updQuad_keeps h)

theorem thermal_keeps {temps : List (Nat × Nat)} : Keeps r (s.thermal temps) :=
  ite_keeps h (ite_keeps (updDev_keeps (updDev_keeps h)) (foldl_keeps (foldl_keeps (updDev_keeps h)
    fun _ _ hu => ite_keeps (updQuad_keeps hu) hu) fun _ _ hu => hotCore_keeps hu))

theorem closeWindow_keeps {watts : Nat} {parts : List Nat} : Keeps r (s.closeWindow watts parts) :=
  ite_keeps h (setMg_keeps (updDev_keeps h))

theorem lowerTop_keeps {qs : List Nat} : Keeps r (s.lowerTop qs) := foldl_keeps h fun _ _ hu => updQuad_keeps hu

theorem capAdjust_keeps : Keeps r s.capAdjust :=
  ite_keeps h (ite_keeps (foldl_keeps (ite_keeps (lowerTop_keeps (foldl_keeps (updDev_keeps h) (fun _ _ hu => lowerTop_keeps
      hu))) (foldl_keeps (updDev_keeps h) (fun _ _ hu => lowerTop_keeps hu))) (fun _ _ hu => ite_keeps hu (updQuad_keeps
      hu))) (ite_keeps (lowerTop_keeps (foldl_keeps (updDev_keeps h) (fun _ _ hu => lowerTop_keeps hu))) (foldl_keeps
      (updDev_keeps h) (fun _ _ hu => lowerTop_keeps hu))))

end Sys2Proof.Proofs
end

section
/-! What the operations keep: the host link. -/

namespace Sys2Proof.Proofs

open Sys2Proof.Machine Sys2Proof.Laws

variable {r s : State} (h : Keeps r s)
include h

theorem queueInval_keeps {vd : Nat} {stage2 : Bool} {w : W64} : Keeps r (s.queueInval vd stage2 w) :=
  ite_keeps h (ite_keeps (ite_keeps (setHyp_keeps h) (updVd_keeps h)) (ite_keeps (setCtl_keeps h) (updVd_keeps h)))

theorem dropAtc_keeps {vd a n : Nat} : Keeps r (s.dropAtc vd a n) := updDev_keeps h

theorem dropEntries_keeps {vd : Nat} {stage2 : Bool} {a n : Nat} : Keeps r (s.dropEntries vd stage2 a n) :=
  flushU_keeps (ite_keeps (frame_keeps h (by rfl)) (dropAtc_keeps (frame_keeps h (by rfl))))

theorem invalDone_keeps {vd : Nat} {stage2 : Bool} : Keeps r (s.invalDone vd stage2) := by
  unfold State.invalDone
  dsimp only
  split
  · exact h
  · exact ite_keeps h (ite_keeps (waitLog_keeps h) (ite_keeps (setHyp_keeps (updVd_keeps (dropEntries_keeps h)))
      (setCtl_keeps (updVd_keeps (dropEntries_keeps h)))))

theorem writePtdata_keeps {vd : Nat} {v : W64} : Keeps r (s.writePtdata vd v) := by
  unfold State.writePtdata
  dsimp only
  split
  · exact h
  · exact devWrite_keeps (flushHome_keeps (setAD_keeps h))

theorem writeS2ptdata_keeps {vd : Nat} {v : W64} : Keeps r (s.writeS2ptdata vd v) := devWrite_keeps h

theorem clearS2_keeps {vd : Nat} {mask : W64} : Keeps r (s.clearS2 vd mask) :=
  setHyp_keeps (devWrite_keeps (flushHome_keeps h))

theorem movePage_keeps {vd page : Nat} {write : Bool} : KeepsFst r (s.movePage vd page write) := by
  have hs (l : List Nat) (p : Nat → ULine → Bool) : Keeps r (l.foldl (fun s at_ => s.setAD at_ false) (s.flushMet vd
      (s.walkMet none vd page))) :=
    foldl_keeps (flushMet_keeps h) fun _ _ hu => setAD_keeps hu
  unfold State.movePage
  dsimp only
  split
  · exact fst_keeps (flushMet_keeps h)
  · split
    · exact fst_keeps (foldl_keeps (flushMet_keeps h) fun _ _ hu => setAD_keeps hu)
    · exact ite_keeps (P := KeepsFst r) (fst_keeps (foldl_keeps (flushMet_keeps h) fun _ _ hu => setAD_keeps hu))
        (fst_keeps (setAD_keeps (foldl_keeps (flushMet_keeps h) fun _ _ hu => setAD_keeps hu)))

theorem movePages_keeps {vd : Nat} {write : Bool} {l : List Nat} : KeepsFst r (s.movePages vd write l) := by
  induction l generalizing s with
  | nil => exact h
  | cons p ps ih =>
    unfold State.movePages
    split
    · rename_i t _ e
      exact keeps_of_eq (movePage_keeps h) e
    · rename_i t _ e
      exact ih (keeps_of_eq (movePage_keeps h) e)

theorem startPageMove_keeps {vd : Nat} {v : W64} : Keeps r (s.startPageMove vd v) :=
  ite_keeps h (ite_keeps (setCtl_keeps h) (setCtl_keeps (updVd_keeps (movePages_keeps h))))

theorem moveLines_keeps {toDevice : Bool} {key host dpa lines : Nat} : KeepsFst r (s.moveLines toDevice key host dpa lines)
    := by
  induction lines with
  | zero => exact fst_keeps h
  | succ k ih =>
    unfold State.moveLines
    split
    · rename_i e
      exact fst_keeps (keeps_of_eq ih e)
    · rename_i t e
      have hu {a n : Nat} : Keeps r (t.flushHome a n) := flushHome_keeps (keeps_of_eq ih e)
      refine ite_keeps (P := KeepsFst r) (fst_keeps (ite_keeps (poisonHbm_keeps (countError_keeps (devWrite_keeps hu)))
        (devWrite_keeps hu))) (ite_keeps (P := KeepsFst r) (fst_keeps (poisonHost_keeps hu)) (fst_keeps (cleanHost_keeps ?_)))
      exact setHost_keeps hu (hu.host.write _ _)

theorem movePagesNow_keeps {m : PageMove} {l : List (Nat × Nat × Nat)} {host : Nat} : KeepsFst r (s.movePagesNow m l host) :=
    by
  delta State.movePagesNow State.movePagesNow._f
  generalize 64 = n
  induction l generalizing s host with
  | nil => exact fst_keeps h
  | cons p ps ih =>
    have hm := moveLines_keeps (lines := n) (toDevice := m.toDevice) (key := p.2.2) (host := host) (dpa := p.2.1) h
    dsimp only
    split
    · rename_i e
      exact fst_keeps (keeps_of_eq (moveLines_keeps h) e)
    · rename_i e
      exact ih (keeps_of_eq (moveLines_keeps h) e)

theorem finishPageMove_keeps {vd : Nat} : Keeps r (s.finishPageMove vd) := by
  unfold State.finishPageMove
  dsimp only
  split
  · exact h
  · split
    · exact setCtl_keeps (updVd_keeps (movePagesNow_keeps h))
    · exact setCtl_keeps (updVd_keeps (movePagesNow_keeps h))

theorem updAnywhere_keeps {c : CtxId} {f : Ctx → Ctx} : Keeps r (s.updAnywhere c f) := updSheaf_keeps (updCtx_keeps h)

theorem pageFail_keeps {c : CtxId} : Keeps r (s.pageFail c) := by
  unfold State.pageFail
  dsimp only
  split
  · exact h
  · split
    · exact h
    · exact ite_keeps h (ite_keeps (postCtx_keeps (updAnywhere_keeps h)) (updAnywhere_keeps h))

theorem stale_keeps {vd : Nat} : Keeps r (s.stale vd) := setHyp_keeps h

theorem respondPage_keeps {pasid : BitVec 20} {prg : BitVec 9} {a : PageAnswer} : Keeps r (s.respondPage pasid prg a) := by
  unfold State.respondPage
  dsimp only
  split
  · exact stale_keeps h
  · refine ite_keeps (stale_keeps h) ?_
    split
    · exact foldl_keeps (updVd_keeps h) (fun _ _ hu => updAnywhere_keeps hu)
    · exact foldl_keeps (updVd_keeps h) (fun _ _ hu => pageFail_keeps hu)
    · exact foldl_keeps (updVd_keeps h) (fun _ _ hu => pageFail_keeps hu)

theorem reuseSlot_keeps {vd : Nat} {slot : Fin 64} : Keeps r (s.reuseSlot vd slot) := by
  unfold State.reuseSlot
  split
  · exact h
  · exact ite_keeps h (updVd_keeps h)

theorem refuseCopy_keeps {c : CtxId} {page : Nat} {k : Acc} : Keeps r (s.refuseCopy c page k) :=
  recordFail_keeps (updOut_keeps h)

theorem atsAnswer_keeps {c : CtxId} {granted : Bool} {host : W64} : Keeps r (s.atsAnswer c granted host) := by
  unfold State.atsAnswer
  dsimp only
  split
  · exact h
  · split
    · exact h
    · refine ite_keeps h ?_
      split
      · exact h
      · exact ite_keeps (updOut_keeps (updDev_keeps h)) (refuseCopy_keeps h)

theorem atsInvalidate_keeps {vd : Nat} {va : W64} {n : Nat} : Keeps r (s.atsInvalidate vd va n) :=
  ite_keeps h (tell_keeps (dropAtc_keeps h))

theorem endVd_keeps {vd : Nat} : Keeps r (s.endVd vd) :=
  updVd_keeps (setUnits_keeps (updDev_keeps (foldl_keeps (foldl_keeps h fun _ _ hu => updSheaf_keeps (freeAccs_keeps
    (releaseUnits_keeps hu))) fun _ _ hu => dropCircuit_keeps hu)))

theorem startZeroing_keeps {vd : Nat} : Keeps r (s.startZeroing vd) := setHyp_keeps (updVd_keeps (endVd_keeps h))
theorem resetVd_keeps {vd : Nat} : Keeps r (s.resetVd vd) := setHyp_keeps (startZeroing_keeps h)

theorem writeVdctl_keeps {vd : Nat} {v : W64} : Keeps r (s.writeVdctl vd v) :=
  ite_keeps (resetVd_keeps (setHyp_keeps h)) (setHyp_keeps h)

theorem zeroPages_keeps {key : List W64} {dpa pages : Nat} : Keeps r (s.zeroPages key dpa pages) := by
  induction pages with
  | zero => exact h
  | succ k ih => exact putPage_keeps ih

theorem zeroAll_keeps {l : List (Nat × Nat × List W64)} : Keeps r (s.zeroAll l) := by
  induction l with
  | nil => exact h
  | cons r rs ih => exact zeroPages_keeps ih

theorem wipeTile_keeps {vd tile : Nat} : Keeps r (s.wipeTile vd tile) := by
  have ha (p : Host.Cell → Bool) : Keeps r { s with accm := s.accm.filter p } := { h with accm := h.accm.filter p }
  exact ite_keeps (updTile_keeps (ha _)) (updTile_keeps (clearTile_keeps (ha _)))

theorem zeroDone_keeps {vd : Nat} : Keeps r (s.zeroDone vd) := by
  unfold State.zeroDone
  dsimp only
  split
  · exact h
  · exact ite_keeps h (setHyp_keeps (updVd_keeps (foldl_keeps (zeroAll_keeps h) (fun _ _ hu => wipeTile_keeps hu))))

theorem keyBusy_keeps : Keeps r s.keyBusy := setMg_keeps h
theorem loadKey_keeps {slot : Nat} : Keeps r (s.loadKey slot) := ite_keeps h (keyBusy_keeps (updDev_keeps h))
theorem clearKey_keeps {slot : Nat} : Keeps r (s.clearKey slot) := ite_keeps h (keyBusy_keeps (updDev_keeps h))
theorem unsupported_keeps {off : Nat} : Keeps r (s.unsupported off) := tell_keeps (updDev_keeps h)

theorem windowRead_keeps {vd off : Nat} : Keeps r (s.windowRead vd off) :=
  ite_keeps (unsupported_keeps h) (fresh_keeps (updDev_keeps (gread_keeps h)))

end Sys2Proof.Proofs
end

section
/-! What the operations keep: keys, resets and attestation. -/

namespace Sys2Proof.Proofs

open Sys2Proof.Machine Sys2Proof.Laws

variable {r s : State} (h : Keeps r s)
include h

theorem cold_keeps : Keeps r s.cold := by
  have empty {α β : Type} (t : Tab α β) : KeysKept t [] := fun _ => List.nodup_nil
  have blank (m : Mem) : FormKept m [] := fun _ => rfl
  exact ⟨empty _, empty _, blank _, blank _, blank _, blank _, blank _, h.host⟩

theorem stageDone_keeps {error : Nat} : Keeps r (s.stageDone error) :=
  ite_keeps h (ite_keeps (setMg_keeps h) (setMg_keeps (ite_keeps (updDev_keeps h) h)))

theorem flrPf0_keeps : Keeps r s.flrPf0 := by
  unfold State.flrPf0
  exact updDev_keeps (foldl_keeps h fun _ _ hu => resetVd_keeps hu)

theorem attStart_keeps {op : Nat} : Keeps r (s.attStart op) :=
  ite_keeps h (ite_keeps (setMg_keeps h) (setMg_keeps (updDev_keeps h)))

theorem attFinish_keeps : Keeps r s.attFinish := by
  unfold State.attFinish
  split
  · exact h
  · exact ite_keeps (setMg_keeps (updDev_keeps h)) (setMg_keeps (setHost_keeps (updDev_keeps h) (h.host.write _ _)))

theorem flaw_keeps {place unit : Nat} {uncorrectable : Bool} : Keeps r (s.flaw place unit uncorrectable) := by
  unfold State.flaw
  dsimp only
  refine ite_keeps (countCorrected_keeps h) ?_
  split
  · exact updDev_keeps (countError_keeps h)
  · exact updDev_keeps (countError_keeps h)
  · exact updDev_keeps (countError_keeps h)
  · exact updDev_keeps (countError_keeps h)
  · exact updDev_keeps (countError_keeps h)
  · exact poisonHost_keeps h
  · exact ite_keeps (tileFlaw_keeps h) (accessFlaw_keeps h)
  · exact h

theorem storeMarks_keeps : Keeps r s.storeMarks := ite_keeps h (updDev_keeps h)

theorem registerError_keeps {c : CtxId} : Keeps r (s.registerError c) := by
  unfold State.registerError
  dsimp only
  split
  · exact h
  · exact takeTrap_keeps (countError_keeps (updCtx_keeps h))

theorem ageing_keeps {found : List (Nat × Nat)} : Keeps r (s.ageing found) :=
  ite_keeps h (foldl_keeps (foldl_keeps (updDev_keeps h) (fun _ _ hu => updQuad_keeps hu)) (fun _ _ hu => setMg_keeps hu))

theorem forceGuard_keeps {quad : Nat} : Keeps r (s.forceGuard quad) := ite_keeps h (updQuad_keeps h)

end Sys2Proof.Proofs
end

section
/-! What the operations keep: register writes. -/

namespace Sys2Proof.Proofs

open Sys2Proof.Machine Sys2Proof.Laws

variable {r s : State} (h : Keeps r s)
include h

theorem plainCtl_keeps {vd off : Nat} {v : W64} : Keeps r (s.plainCtl vd off v) := by
  unfold State.plainCtl
  dsimp only
  split
  · exact h
  · exact setCtl_keeps h

theorem writeCtl_keeps {vd off : Nat} {v : W64} : Keeps r (s.writeCtl vd off v) := by
  unfold State.writeCtl
  split
  · exact lqEnable_keeps h
  · exact lqNotify_keeps h
  · exact gangnWrite_keeps h
  · exact ite_keeps (queueInval_keeps h) (ite_keeps (writePtdata_keeps h) (ite_keeps (startPageMove_keeps h) (ite_keeps
        (gkreq_keeps h) (ite_keeps (svcres_keeps h) (plainCtl_keeps h)))))

theorem plainHyp_keeps {vd off : Nat} {v : W64} : Keeps r (s.plainHyp vd off v) := by
  unfold State.plainHyp
  split
  · exact h
  · exact setHyp_keeps h

theorem writeHyp_keeps {vd off : Nat} {v : W64} : Keeps r (s.writeHyp vd off v) :=
  ite_keeps (writeVdctl_keeps h) (ite_keeps (queueInval_keeps h) (ite_keeps (writeS2ptdata_keeps h) (ite_keeps (clearS2_keeps
      h) (ite_keeps (writeVdsched_keeps h) (ite_keeps (retestVd_keeps (plainHyp_keeps h)) (ite_keeps (setCtl_keeps h)
      (plainHyp_keeps h)))))))

theorem writeKeycmd_keeps {v : W64} : Keeps r (s.writeKeycmd v) :=
  ite_keeps h (ite_keeps (loadKey_keeps h) (ite_keeps (clearKey_keeps h) h))

theorem writeMgmt_keeps {off : Nat} {v : W64} : Keeps r (s.writeMgmt off v) := by
  unfold State.writeMgmt
  split
  · exact writePort_keeps h
  · split
    · exact writePtclus_keeps h
    · exact writePtclus_keeps h
    · exact writePtctl_keeps h
    · exact writePtramp_keeps h
  · refine ite_keeps (writeKeycmd_keeps h) (ite_keeps (writeFabcfg_keeps h) (ite_keeps (setMg_keeps h) (ite_keeps
        (setMg_keeps h) (ite_keeps (ite_keeps (attStart_keeps h) h) (ite_keeps (setMg_keeps h) ?_)))))
    split
    · exact h
    · exact setMg_keeps h

theorem writeReg_keeps {page : RegPage} {off : Nat} {v : W64} : Keeps r (s.writeReg page off v) := by
  unfold State.writeReg
  refine ite_keeps h ?_
  split
  · exact ite_keeps (writeMgmt_keeps h) h
  · exact ite_keeps (writeHyp_keeps h) h
  · exact ite_keeps (writeCtl_keeps h) h

end Sys2Proof.Proofs
end

section
/-! What an instruction or a row keeps. -/

namespace Sys2Proof.Proofs

open Sys2Proof.Machine Sys2Proof.Laws

variable {r s : State} (h : Keeps r s)
include h

theorem exec_keeps {i : Instr} : KeepsNext r (exec i s) := by
  by_cases hi : headOf i ≠ none
  · exact exec_issued_keeps h hi
  · unfold exec
    cases i with
    | padWord => exact execPadWord_keeps h
    | peerLoadTargetRead => exact next_keeps (peerRead_keeps h)
    | memRequestInject => exact next_keeps (inject_keeps h)
    | memResponse => exact next_keeps (respond_keeps h)
    | globalLoadReturn => exact next_keeps (loadReturn_keeps h)
    | stgHomePerform => exact next_keeps (storeHome_keeps h)
    | bankpwrWrite => exact next_keeps (bankpwrWrite_keeps h)
    | bankWakeDone | retBankWake => exact next_keeps (wakeDone_keeps h)
    | amoHomeReply => exact next_keeps (amoReply_keeps h)
    | heldArrivalPerform => exact next_keeps (performHeld_keeps h)
    | barrierPhaseComplete => exact next_keeps (phaseComplete_keeps h)
    | eventFireArrive => exact next_keeps (fireArrive_keeps h)
    | slewGrantUp => exact next_keeps (grantUp_keeps h)
    | slewGrantDown => exact next_keeps (grantDown_keeps h)
    | rampStepEnd => exact next_keeps (stepEnd_keeps h)
    | rqputReservationArrive => exact next_keeps (rqReserve_keeps h)
    | rqputDeliver => exact next_keeps (rqDeliver_keeps h)
    | rqFreeNotice => exact next_keeps (updRq_keeps h)
    | vectorGroup => exact next_keeps (vecStep_keeps h)
    | vectorCompletion => exact next_keeps (vecDone_keeps h)
    | tileOp => exact next_keeps (tileOpStep_keeps h)
    | matrixCommandComplete => exact next_keeps (mqComplete_keeps h)
    | matrixErrorEnd => exact next_keeps (mqErrorEnd_keeps h)
    | channelLineWrite => exact next_keeps (lineWrite_keeps h)
    | engineCommandComplete => exact next_keeps (chanComplete_keeps h)
    | engineFaultEnd => exact next_keeps (faultEnd_keeps h)
    | circuitFlitArrive => exact next_keeps (flitArrive_keeps h)
    | engineTranslationDone => exact next_keeps (enginePass_keeps h)
    | illegalInstruction => exact execIllegalInstruction_keeps h
    | pendingResultWrite => exact next_keeps (resultWrite_keeps h)
    | configTrain => exact next_keeps (startTrains_keeps h)
    | bromeRequest => exact next_keeps (grant_keeps h)
    | bromeRelease => exact next_keeps (unGrant_keeps h)
    | bromeAnswer => exact next_keeps (answer_keeps h)
    | circuitResize => exact next_keeps (shrink_keeps h)
    | fabcfgWrite => exact next_keeps (writeFabcfg_keeps h)
    | fabquotaWrite => exact next_keeps (setHyp_keeps h)
    | portCfgWrite => exact next_keeps (writePort_keeps h)
    | ptpMessage => exact next_keeps (ptp_keeps h)
    | netCircuitActive => exact next_keeps (netActive_keeps h)
    | gkreqWrite => exact next_keeps (gkreq_keeps h)
    | ethBulkFrame => exact next_keeps (bulkFrame_keeps h)
    | srsRdAnswer => exact next_keeps (srsAnswer_keeps h)
    | waitvaPoll => exact next_keeps (pollWait_keeps h)
    | placementRetest => exact next_keeps (retestVd_keeps h)
    | lqEnable => exact next_keeps (lqEnable_keeps h)
    | lqNotify => exact next_keeps (lqNotify_keeps h)
    | lqFetch => exact next_keeps (lqFetch_keeps h)
    | lqRereadTimer => exact next_keeps (lqReread_keeps h)
    | launchAccept => exact next_keeps (launchStep_keeps h)
    | taggedLaunchMessage => exact next_keeps (tagMessage_keeps h)
    | ethLaunchFrame => exact next_keeps (launchFrame_keeps h)
    | sheafRetire => exact next_keeps (retireSheaf_keeps h)
    | gangReserved => exact next_keeps (gangReservedMsg_keeps h)
    | gangCommit => exact next_keeps (gangCommitMsg_keeps h)
    | gangArrivalMessage => exact next_keeps (gangMsg_keeps h)
    | gangnWrite => exact next_keeps (gangnWrite_keeps h)
    | sheafStop => exact next_keeps (stopStep_keeps h)
    | stopTimeout => exact next_keeps (stopLate_keeps h)
    | speltSaveDone => exact next_keeps (saveStep_keeps h)
    | sheafResume => exact next_keeps (resumeStep_keeps h)
    | sheafPlace => exact next_keeps (firstImage_keeps (placeNew_keeps h))
    | gangStartSlot => exact next_keeps (firstImage_keeps (gangStart_keeps h))
    | speltRestoreDone => exact next_keeps (restoreDone_keeps h)
    | tileRestore => exact next_keeps (tileRestore_keeps h)
    | checkpointRecorded => exact next_keeps (ckptRecorded_keeps h)
    | checkpointCopyDone => exact next_keeps (copiesDone_keeps h)
    | unnumberedCheckpoint => exact next_keeps (plainCkpt_keeps h)
    | sliceEnd => exact next_keeps (sliceEnd_keeps h)
    | saveStartTimer => exact next_keeps (saveStart_keeps h)
    | tenantTurn => exact next_keeps (tenantTurn_keeps h)
    | ageLimitExpiry => exact next_keeps (ageStep_keeps h)
    | sheafMigrate => exact next_keeps (migrated_keeps (migrate_keeps h))
    | thermalMoveDone => exact next_keeps (moveStep_keeps h)
    | deadlockDetect => exact next_keeps (deadlock_keeps h)
    | batchServe => exact next_keeps (serveBatch_keeps h)
    | svcresWrite => exact next_keeps (svcres_keeps h)
    | pointTransition => exact next_keeps (beginTransition_keeps h)
    | supplyRampDone => exact next_keeps (rampDone_keeps h)
    | pointTransitionDone => exact next_keeps (switchDone_keeps h)
    | ptctlWrite => exact next_keeps (writePtctl_keeps h)
    | ptrampWrite => exact next_keeps (writePtramp_keeps h)
    | vdschedWrite => exact next_keeps (writeVdsched_keeps h)
    | thermalSample => exact next_keeps (thermal_keeps h)
    | thermlimWrite | pwrcapWrite | keyCommandDone => exact next_keeps (setMg_keeps h)
    | powerWindow => exact next_keeps (closeWindow_keeps h)
    | powerCapAdjust => exact next_keeps (capAdjust_keeps h)
    | tlbinv1Write | tlbinv2Write => exact next_keeps (queueInval_keeps h)
    | tlbInvalidationDone => exact next_keeps (invalDone_keeps h)
    | ptdataWrite => exact next_keeps (writePtdata_keeps h)
    | s2ptdataWrite => exact next_keeps (writeS2ptdata_keeps h)
    | s2ptclr => exact next_keeps (clearS2_keeps h)
    | pageMove => exact next_keeps (startPageMove_keeps h)
    | pageMoveDone => exact next_keeps (finishPageMove_keeps h)
    | pageResponse => exact next_keeps (respondPage_keeps h)
    | abandonedSlotReuse => exact next_keeps (reuseSlot_keeps h)
    | atsTranslationCompletion => exact next_keeps (atsAnswer_keeps h)
    | atsInvalidationRequest => exact next_keeps (atsInvalidate_keeps h)
    | vdReset => exact next_keeps (writeVdctl_keeps h)
    | zeroingDone => exact next_keeps (zeroDone_keeps h)
    | keyLoad => exact next_keeps (loadKey_keeps h)
    | keyClear => exact next_keeps (clearKey_keeps h)
    | signalWindowRead => exact next_keeps (windowRead_keeps h)
    | hostUnsupportedAccess => exact next_keeps (ite_keeps h (unsupported_keeps h))
    | coldReset => exact next_keeps (cold_keeps h)
    | bringupStageDone => exact next_keeps (stageDone_keeps h)
    | pf0Flr => exact next_keeps (flrPf0_keeps h)
    | vfFlr => exact next_keeps (resetVd_keeps h)
    | attReport | attCertChain => exact next_keeps (attStart_keeps h)
    | attestDone => exact next_keeps (attFinish_keeps h)
    | uncorrectableRegisterError => exact next_keeps (registerError_keeps h)
    | ageingSample => exact next_keeps (ageing_keeps h)
    | guardForceTransition => exact next_keeps (forceGuard_keeps h)
    | registerWrite => exact next_keeps (writeReg_keeps h)
    | _ => exact absurd nofun hi

end Sys2Proof.Proofs
end

section
/-! What the operations keep: the schedule. -/

namespace Sys2Proof.Proofs

open Sys2Proof.Machine Sys2Proof.Laws

variable {r s : State} (h : Keeps r s)
include h

theorem beforeFetch_keeps {c : CtxId} : Keeps r (s.beforeFetch c) := by
  unfold State.beforeFetch
  dsimp only
  split
  · exact h
  · exact ite_keeps (frame_keeps (prepare_keeps h) (by rfl)) h

theorem freeNotice_keeps {tile : Nat} {n : Fin 32} : Keeps r (s.freeNotice tile n) := ite_keeps h (updTile_keeps h)

theorem migrateStep_keeps {n : Nat} : Keeps r (s.migrateStep n) := by
  unfold State.migrateStep
  dsimp only
  refine ite_keeps h ?_
  split
  · exact migrated_keeps (migrate_keeps h)
  · exact migrated_keeps h

theorem writeTrace_keeps {vd : Nat} {r1 : TraceRec} : Keeps r (s.writeTrace vd r1) :=
  ite_keeps (setCtl_keeps h) (setCtl_keeps (gwriteAll_keeps h))

theorem drainTrace_keeps {tile : Nat} : Keeps r (s.drainTrace tile) := by
  unfold State.drainTrace
  dsimp only
  split
  · exact ite_keeps h (ite_keeps (waitLog_keeps h) (writeTrace_keeps (updTile_keeps h)))
  · exact h

theorem landFlits_keeps : Keeps r s.landFlits :=
  foldl_keeps h fun _ _ hu => foldl_keeps hu (fun _ _ hu1 => flitArrive_keeps hu1)

theorem endPhases_keeps : Keeps r s.endPhases :=
  foldl_keeps h fun _ _ hu => foldl_keeps hu (fun _ _ hu1 => phaseComplete_keeps hu1)

theorem tickSlot_keeps : Keeps r s.tickSlot := by
  unfold State.tickSlot
  extract_lets t _ _ u idle v
  have ht : Keeps r t := ite_keeps h (endPhases_keeps (landFlits_keeps h))
  have hu : Keeps r u := foldl_keeps (frame_keeps ht (by rfl)) fun _ _ hx => updQuad_keeps hx
  have hv : Keeps r v := { hu with ctxs := hu.ctxs.map fun e => by dsimp only [idle]; split <;> rfl }
  exact foldl_keeps hv fun _ _ hx => drainTrace_keeps hx

omit h in
/-- The state that the first of the steps with an effect gives. -/
theorem firstStep_keeps {fs : Steps} (hfs : StepsKeep r s fs) : KeepsSome r (s.firstStep fs) := by
  induction fs with
  | nil => exact none_keeps
  | cons f fs ih =>
    obtain ⟨hf, hrest⟩ := List.forall_cons _ f fs |>.mp hfs
    exact ite_keeps (P := KeepsSome r) (ih hrest) (some_keeps hf)

theorem ctxSteps_keep {c : CtxId} {x : Ctx} : StepsKeep r s (ctxSteps c x) :=
  .append (stepsKeep_flatMap fun _ => ⟨resultWrite_keeps h, srsAnswer_keeps h⟩)
    ⟨beforeFetch_keeps h, vecStep_keeps h, peerRead_keeps h, inject_keeps h, respond_keeps h, storeHome_keeps h, amoReply_keeps h,
      loadReturn_keeps h, rqReserve_keeps h, rqDeliver_keeps h, performHeld_keeps h, enginePass_keeps h, launchStep_keeps h,
      plainCkpt_keeps h⟩

theorem chanSteps_keep {tile : Nat} {ch : Fin 8} : StepsKeep r s (chanSteps tile ch) :=
  ⟨lineWrite_keeps h, chanComplete_keeps h, faultEnd_keeps h⟩

theorem tileSteps_keep {tile : Nat} {t : Tile} : StepsKeep r s (tileSteps tile t) :=
  .append (.append (.append (.append (.append (stepsKeep_map fun _ => ite_keeps (fireArrive_keeps h) h)
    ⟨stepEnd_keeps h, tileOpStep_keeps h⟩) (stepsKeep_flatMap fun _ => ⟨mqComplete_keeps h, mqErrorEnd_keeps h⟩))
    (stepsKeep_flatMap fun _ => chanSteps_keep h)) (stepsKeep_map fun _ => freeNotice_keeps h))
    (stepsKeep_map fun _ => tileRestore_keeps h)

theorem sheafSteps_keep {n : Nat} {v : Sheaf} : StepsKeep r s (sheafSteps n v) :=
  .append (.append (stepsKeep_map fun _ => phaseComplete_keeps h) (stepsKeep_map fun _ => serveBatch_keeps h))
    ⟨ite_keeps (pollWait_keeps h) h, gangArrivals_keeps h, shelfStep_keeps h, retireSheaf_keeps h, ckptRecorded_keeps h,
      copiesDone_keeps h, stopLate_keeps h, stopFlush_keeps h, saveStep_keeps h, restoreDone_keeps h, resumeStep_keeps h,
      firstImage_keeps (placeNew_keeps h), firstImage_keeps (gangStart_keeps h), ageStep_keeps h, stopStep_keeps h,
      migrateStep_keeps h⟩

theorem vdSteps_keep {vd : Nat} : StepsKeep r s (vdSteps vd) :=
  .append (.append (stepsKeep_flatMap fun _ => ⟨lqFetch_keeps h, lqReread_keeps h⟩)
    ⟨invalDone_keeps h, invalDone_keeps h, finishPageMove_keeps h, zeroDone_keeps h, shrink_keeps h, lateStep_keeps h⟩)
    (stepsKeep_map fun _ => reuseSlot_keeps h)

theorem quadSteps_keep {quad : Nat} {q : Quad} : StepsKeep r s (quadSteps quad q) :=
  .append (stepsKeep_map fun _ => vecDone_keeps h)
    ⟨rampDone_keeps h, switchDone_keeps h, beginTransition_keeps h, forceGuard_keeps h⟩

theorem coreSteps_keep {core : Nat} {c : Core} : StepsKeep r s (coreSteps core c) :=
  .append (.append (stepsKeep_map fun _ => offStep_keeps h) (stepsKeep_flatMap fun _ => ⟨wakeDone_keeps h, wakeDone_keeps h⟩))
    (ite_keeps (P := StepsKeep r s) (moveStep_keeps h) trivial)

theorem circuitSteps_keep {k : Circuit} : StepsKeep r s (circuitSteps k) :=
  .append (ite_keeps (P := StepsKeep r s) trivial (flitArrive_keeps h))
    (ite_keeps (P := StepsKeep r s) trivial (netArrive_keeps h))

theorem devSteps_keep : StepsKeep r s devSteps :=
  .append (.append ⟨stageDone_keeps h, attFinish_keeps h, ite_keeps (setMg_keeps h) h, ite_keeps (startTrains_keeps h) h,
      grant_keeps h, unGrant_keeps h, answer_keeps h, awayStep_keeps h, ite_keeps (capAdjust_keeps h) h⟩
    (stepsKeep_flatMap fun _ => ⟨sliceEnd_keeps h, saveStart_keeps h, tenantTurn_keeps h⟩)) (storeMarks_keeps h)

theorem steps_keep : StepsKeep r s s.steps :=
  .append (.append (.append (.append (.append (.append (.append (stepsKeep_flatMap fun _ => ctxSteps_keep h)
    (stepsKeep_flatMap fun _ => quadSteps_keep h)) (stepsKeep_flatMap fun _ => coreSteps_keep h))
    (stepsKeep_flatMap fun _ => tileSteps_keep h)) (stepsKeep_flatMap fun _ => circuitSteps_keep h)) (devSteps_keep h))
    (stepsKeep_flatMap fun _ => ite_keeps (P := StepsKeep r s) trivial (sheafSteps_keep h)))
    (stepsKeep_flatMap fun _ => vdSteps_keep h)

theorem grants_keep : StepsKeep r s s.grants := stepsKeep_flatMap fun _ => ⟨grantUp_keeps h, grantDown_keeps h⟩

theorem select_keeps {core : Nat} : Keeps r (s.select core) :=
  ite_keeps (setSched_keeps h) (setSched_keeps (foldl_keeps (updCore_keeps h) fun _ _ hu => updCtx_keeps hu))

theorem plan_keeps : Keeps r s.plan := by
  unfold State.plan
  split
  · rename_i t e
    exact firstStep_keeps (steps_keep h) t e
  · split
    · exact select_keeps h
    · dsimp only
      split
      · rename_i t e
        have hd := stepsKeep_map (f := fun (e : Nat × Sheaf) (t : State) => t.deadlock e.1)
          (l := s.sheaves.filter fun e => e.2.st == .running) fun _ => deadlock_keeps h
        exact firstStep_keeps (hd.append (grants_keep h)) t e
      · exact tickSlot_keeps h

theorem issueMove_keeps {c : CtxId} : KeepsNext r (s.issueMove c) := by
  unfold State.issueMove
  split
  · rename_i t e
    exact next_keeps (keeps_of_eq (prepare_keeps h) e)
  · rename_i t i e
    have ht : Keeps r t := keeps_of_eq (prepare_keeps h) e
    split
    · rename_i u e
      exact next_keeps (conclude_keeps ht (exec_keeps ht u e))
    · exact fault_keeps
    · exact refused_keeps
  · rename_i t _ _ e
    exact execIllegalInstruction_keeps (keeps_of_eq (prepare_keeps h) e)

theorem move_keeps {m : Move} : KeepsNext r (s.move m) := by
  cases m with
  | issue c => exact ite_keeps (P := KeepsNext r) (next_keeps h) (issueMove_keeps h)
  | row i => exact ite_keeps (P := KeepsNext r) (exec_keeps h) (next_keeps h)
  | flaw => exact next_keeps (ite_keeps h (flaw_keeps h))
  | vfDisable => exact next_keeps (ite_keeps h (startZeroing_keeps h))
  | frameOut => exact next_keeps (ite_keeps h (frameOut_keeps h))
  | netFlit => exact next_keeps (ite_keeps h (netFlit_keeps h))
  | tick => exact next_keeps (ite_keeps h (tickSlot_keeps h))

theorem step_keeps : KeepsNext r (step s) := by
  unfold step State.stepNext
  split
  · exact next_keeps (ite_keeps h (plan_keeps h))
  · exact move_keeps (setSched_keeps h)

end Sys2Proof.Proofs
end

section
/-! Each context and each grain in one entry of its table (01 R12, R13). -/

namespace Sys2Proof.Proofs

open Sys2Proof.Machine

/-- Settles O60: the keys of both tables stay distinct through every operation that a step is made of. -/
theorem stepKeepsTablesDistinct : Obligations.StepKeepsTablesDistinct := fun s t hs e => (step_keeps (keeps_refl s) t e).tabsOk hs

end Sys2Proof.Proofs
end

section
/-! Helpers, `nop` and the pad word (01 R14, R27; 04 R116 to R120). -/

namespace Sys2Proof.Proofs

open Sys2Proof.Machine Sys2Proof.Laws

theorem target_eq (s : State) {n : Nat} (o : BitVec n) : s.target o = s.me.pc + 4 * o.signExtend 64 := by
  have h : BitVec.twoPow 64 2 = 4 := by decide
  simp only [State.target, sx, BitVec.shiftLeft_eq_mul_twoPow, h, BitVec.mul_comm]

theorem helperId_ne_cur {s : State} {k : Nat} (hc : s.cur.ctx = 0) (hk : k ≠ 0) : s.helperId k ≠ s.cur :=
  fun e => hk ((congrArg CtxId.ctx e).trans hc)

theorem not_lt_helpers {s : State} {n : BitVec 4} (hn : n.toNat ≤ s.sheaf.helpers) : ¬ s.sheaf.helpers < n.toNat :=
  Nat.not_lt.mpr hn

/-! ### hstart and hjoin -/

section
variable {s : State} {h : Head} {n : BitVec 4} {w : W32} (hr : s.runs h = true)
include hr

/-- A helper is put in its own place and the control context goes on. -/
theorem hstart_starts (hc : s.cur.ctx = 0) (hn : n.toNat ≤ s.sheaf.helpers) (hp : s.me.pend = [])
    (hb : s.relBusy s.cur = false) (hf : s.fenced = false) (hx : s.ctx (s.helperId n.toNat) = none)
    (ht : canonical (s.target w) = true) :
    exec (.hstart h n w) s = .next (State.doneN { s with
      ctxs := Tab.put s.ctxs (s.helperId n.toNat) (s.me.helper (s.target w) s.cur.grain n.toNat s.cycle) } 12) := by
  rw [exec_hstart, execHstart, issue_runs hr]
  simp [hc, not_lt_helpers hn, hp, hb, hf, hx, ht]

theorem hstart_bad (hc : s.cur.ctx ≠ 0) : exec (.hstart h n w) s = .next (s.exact Cause.helperState 1) := by
  rw [exec_hstart, execHstart, issue_runs hr]
  simp [hc]

theorem hstart_many (hc : s.cur.ctx = 0) (hn : s.sheaf.helpers < n.toNat) :
    exec (.hstart h n w) s = .next (s.exact Cause.helperState 3) := by
  rw [exec_hstart, execHstart, issue_runs hr]
  simp [hc, hn]

theorem hjoin_bad (hc : s.cur.ctx ≠ 0) : exec (.hjoin h n) s = .next (s.exact Cause.helperState 1) := by
  rw [exec_hjoin, execHjoin, issue_runs hr]
  simp [hc]

theorem hjoin_many (hc : s.cur.ctx = 0) (hn : s.sheaf.helpers < n.toNat) :
    exec (.hjoin h n) s = .next (s.exact Cause.helperState 3) := by
  rw [exec_hjoin, execHjoin, issue_runs hr]
  simp [hc, hn]

theorem hjoin_parks (hc : s.cur.ctx = 0) (hn : n.toNat ≤ s.sheaf.helpers) (ha : s.acqHeld = false) (hf : s.fenced = false)
    (hx : (s.ctx (s.helperId n.toNat)).isSome = true) : exec (.hjoin h n) s = .next (s.park 6) := by
  rw [exec_hjoin, execHjoin, issue_runs hr]
  simp [hc, not_lt_helpers hn, ha, hf, hx]

theorem hjoin_ends (hc : s.cur.ctx = 0) (hn : n.toNat ≤ s.sheaf.helpers) (ha : s.acqHeld = false) (hf : s.fenced = false)
    (hx : s.ctx (s.helperId n.toNat) = none) :
    exec (.hjoin h n) s = .next ((s.settle 4 (16 * s.cur.grain + n.toNat)).doneN 8) := by
  rw [exec_hjoin, execHjoin, issue_runs hr]
  simp [hc, not_lt_helpers hn, ha, hf, hx]

theorem hexit_bad (hc : s.cur.ctx = 0) : exec (.hexit h) s = .next (s.exact Cause.helperState 4) := by
  rw [exec_hexit, execHexit, issue_runs hr]
  simp [hc]

end

theorem settle_lives {s : State} (hl : s.lives = true) (kind place : Nat) : (s.settle kind place).lives = true := by
  unfold State.settle State.raise
  split
  · split
    · exact (updMe_lives s _).trans hl
    · exact hl
  · exact hl

theorem hstart_result {s t : State} {c : CtxId} {x : Ctx} (hne : c ≠ s.cur)
    (ht : t = ({ s with ctxs := Tab.put s.ctxs c x } : State).doneN 12) :
    t.ctx c = some x ∧ (∀ d, d ≠ c → d ≠ s.cur → t.ctx d = s.ctx d) ∧ sameMem s t := by
  subst ht
  refine ⟨?_, fun d hd hdc => ?_, sameMem_of_eq rfl rfl rfl rfl rfl rfl⟩
  · exact (updMe_ctx_ne { s with ctxs := Tab.put s.ctxs c x } _ hne).trans (tab_find_put_self _ _ _)
  · exact (updMe_ctx_ne { s with ctxs := Tab.put s.ctxs c x } _ hdc).trans (tab_find_put_ne _ _ (Ne.symm hd))

/-! ### hexit -/

theorem tab_upd_id {κ α : Type} [DecidableEq κ] (t : Tab κ α) (k : κ) : Tab.upd t k id = t := by
  induction t with
  | nil => rfl
  | cons e t ih =>
    unfold Tab.upd
    split
    · rfl
    · rw [ih]

/-- A trace record changes only the counts that it has told. -/
theorem emitTrace_frame (s : State) (c : CtxId) : ∃ t v, ∃ f : Ctx → Ctx,
    s.emitTrace c = { s.updCtx c f with tiles := t, vds := v } ∧ ∀ x, (f x).aflags = x.aflags ∧ (f x).pend = x.pend := by
  have hid : s.updCtx c id = s := by
    simp only [State.updCtx, tab_upd_id]
  unfold State.emitTrace
  dsimp only
  split
  · exact ⟨s.tiles, s.vds, id, hid.symm, fun _ => ⟨rfl, rfl⟩⟩
  · split
    · exact ⟨s.tiles, s.vds, id, hid.symm, fun _ => ⟨rfl, rfl⟩⟩
    · split
      · exact ⟨_, _, _, rfl, fun _ => ⟨rfl, rfl⟩⟩
      · exact ⟨_, _, _, rfl, fun _ => ⟨rfl, rfl⟩⟩

theorem wakeTag_frame (s : State) (sheaf kind place q : Nat) : ∃ h, s.wakeTag sheaf kind place q = { s with sheaves := h } := by
  unfold State.wakeTag
  split
  · exact ⟨_, rfl⟩
  · exact ⟨s.sheaves, rfl⟩

theorem dropMutexes_frame (s : State) (c : CtxId) : ∃ t h, s.dropMutexes c = { s with tiles := t, sheaves := h } := by
  unfold State.dropMutexes
  split
  · exact ⟨s.tiles, s.sheaves, rfl⟩
  · split
    · exact ⟨s.tiles, _, rfl⟩
    · exact ⟨_, s.sheaves, rfl⟩

theorem vecOps_of_not_busy {s : State} {c : CtxId} (h : s.vecBusy c = false) :
    ((s.quads.flatMap fun q => q.2.vops).filter fun v => v.ctx == c) = [] := by
  rw [List.filter_eq_nil_iff]
  intro v hv
  obtain ⟨q, hq, hvq⟩ := List.mem_flatMap.mp hv
  have hall := List.any_eq_false.mp h q hq
  exact List.any_eq_false.mp (Bool.eq_false_iff.mpr hall) v hvq

/-- A context that awaits nothing leaves the table; its flags go to the control context of its grain. -/
theorem endCtx_frame {s : State} {c : CtxId} {x : Ctx} (hx : s.ctx c = some x) (hp : x.pend = []) (hv : s.vecBusy c = false) :
    ∃ t g h, s.endCtx c = { ({ s with ctxs := Tab.del s.ctxs c } : State).updCtx { c with ctx := 0 }
      (fun y => { y with aflags := y.aflags ||| x.aflags }) with tiles := t, grains := g, sheaves := h } := by
  obtain ⟨t, h, hl⟩ := leaveEngine_frame s c []
  obtain ⟨t', h', hd⟩ := dropMutexes_frame (s.leaveEngine c) c
  unfold State.endCtx
  rw [hd, hl]
  dsimp only
  have hx' : ({ s with tiles := t', sheaves := h' } : State).ctx c = some x := hx
  simp only [hx', vecOps_of_not_busy hv, Option.getD_some, hp, List.foldl_nil]
  exact ⟨_, _, _, rfl⟩

/-- The helper is gone, and the control context has its flags. -/
theorem hexit_ends {s : State} {h : Head} (hr : s.runs h = true) (hc : s.cur.ctx ≠ 0) (hp : s.me.pend = [])
    (ho : s.me.out = none) (hv : s.vecBusy s.cur = false) (hb : s.relBusy s.cur = false) (hf : s.fenced = false) :
    ∃ t, exec (.hexit h) s = .next t ∧ t.ctx s.cur = none ∧ sameMem s t ∧
      (∀ x, s.ctx { s.cur with ctx := 0 } = some x →
        t.ctx { s.cur with ctx := 0 } = some { x with aflags := x.aflags ||| s.me.aflags }) ∧
      ∀ c, c ≠ s.cur → c ≠ { s.cur with ctx := 0 } → t.ctx c = s.ctx c := by
  obtain ⟨tl, v, f, he, hkeep⟩ := emitTrace_frame s s.cur
  obtain ⟨sh, hw⟩ := wakeTag_frame (s.emitTrace s.cur) s.cur.sheaf 4 (16 * s.cur.grain + s.cur.ctx) (s.quantumOf s.cur)
  let u : State := { s.updCtx s.cur f with tiles := tl, vds := v, sheaves := sh }
  have hu : (s.emitTrace s.cur).wakeTag s.cur.sheaf 4 (16 * s.cur.grain + s.cur.ctx) (s.quantumOf s.cur) = u := by
    rw [hw, he]
  have hx : u.ctx s.cur = some (f s.me) :=
    (updCtx_ctx_self s s.cur f).trans (by rw [ctx_cur_of_lives (runs_lives hr), Option.map_some])
  obtain ⟨t, g, k, hend⟩ := endCtx_frame hx ((hkeep _).2.trans hp) hv
  have hne : ({ s.cur with ctx := 0 } : CtxId) ≠ s.cur := fun e => hc (congrArg CtxId.ctx e).symm
  refine ⟨(u.endCtx s.cur).fresh, ?_, ?_, ?_, fun x hctl => ?_, fun c hcur hctl => ?_⟩
  · rw [exec_hexit, execHexit, issue_runs hr, hu]
    simp [hc, hp, ho, hv, hb, hf]
  · rw [hend]
    exact (updCtx_ctx_ne _ _ hne.symm).trans ((tab_find_del _ _ _).trans (if_pos rfl))
  · rw [hend]
    exact sameMem_of_eq rfl rfl rfl rfl rfl rfl
  · rw [hend]
    have hgone : Tab.find (Tab.del u.ctxs s.cur) { s.cur with ctx := 0 } = some x := by
      rw [tab_find_del, if_neg hne.symm]
      exact (updCtx_ctx_ne s f hne).trans hctl
    rw [← (hkeep s.me).1]
    exact (tab_find_upd_self _ _ _).trans (by rw [hgone, Option.map_some])
  · rw [hend]
    have hgone : Tab.find (Tab.del u.ctxs s.cur) c = s.ctx c := by
      rw [tab_find_del, if_neg (Ne.symm hcur)]
      exact updCtx_ctx_ne s f hcur
    exact (tab_find_upd_ne _ _ (Ne.symm hctl)).trans hgone

/-- The fetch skips a pad word. -/
theorem exec_padWord_moves {s : State} (hl : s.lives = true) :
    exec .padWord s = .next (s.updMe fun c => { c with pc := c.pc + 4 }) := by
  rw [exec_padWord, execPadWord, ctx_cur_of_lives hl]

/-- Settles O9: each arm of `hstart`, `hjoin` and `hexit` in the order of its checks. -/
theorem helpersNopAndPadWord : Obligations.HelpersNopAndPadWord := by
  refine ⟨fun s h n w hr => ?_, fun s h hl => ⟨fun hr => ?_, ?_, fun t ht => ?_⟩⟩
  · refine ⟨fun hc hn hz hp hb hf hx ht => ?_, fun hc hn hz ha hf hx => ?_, fun hc hn ha hf hx => hjoin_parks hr hc hn ha hf hx,
      hexit_ends hr, fun hc => ⟨hstart_bad hr hc, hjoin_bad hr hc⟩, hexit_bad hr,
      fun hc hn => ⟨hstart_many hr hc hn, hjoin_many hr hc hn⟩⟩
    · have hz' : n.toNat ≠ 0 := fun e => hz (BitVec.eq_of_toNat_eq e)
      rw [← target_eq] at ht
      obtain ⟨hid, hothers, hmem⟩ := hstart_result (helperId_ne_cur hc hz') rfl
      exact ⟨_, _, hstart_starts hr hc hn hp hb hf hx ht, hid, target_eq s w, rfl, rfl, rfl, rfl, rfl, rfl, rfl, rfl, rfl, rfl, rfl,
        rfl, rfl, rfl, rfl, rfl, rfl, fun i => by simp [Ctx.helper, lfsrSeed], rfl, hothers, hmem⟩
    · exact ⟨rfl, _, hjoin_ends hr hc hn ha hf hx, doneN_issues (settle_lives (runs_lives hr) _ _) 8⟩
  · exact givesN_of_doneN hr hl rfl rfl
  · exact exec_padWord_moves hl
  · obtain rfl := Host.Outcome.next.inj (ht.symm.trans (exec_padWord_moves hl))
    exact ⟨updMe_me s _ hl, sameMem_of_eq rfl rfl rfl rfl rfl rfl, fun c hc => updMe_ctx_ne s _ hc⟩

end Sys2Proof.Proofs
end

section
/-! Pointers and the checks of a local address (01 R22, R23, R39 to R42; 05 R126, R127, R153, R155). -/

namespace Sys2Proof.Proofs

open Sys2Proof.Machine Sys2Proof.Laws

/-! ### The slices that a range touches -/

theorem physAddr_core (s : State) (w : View) (lq off : Nat) :
    s.physAddr w lq off / 2 ^ 19 = s.physCore w (4 * lq + off / 2 ^ 19) := by
  unfold State.physAddr
  omega

theorem mem_slicesOf {off n i : Nat} (hn : 0 < n) :
    i ∈ slicesOf off n ↔ i < 4 ∧ ∃ j, j < n ∧ off + j < 2 ^ 21 ∧ (off + j) / 2 ^ 19 = i := by
  simp only [slicesOf, List.mem_filter, List.mem_range, Bool.and_eq_true, decide_eq_true_eq]
  refine and_congr_right fun hi => ⟨fun ⟨hlo, hhi⟩ => ⟨max (i * 2 ^ 19) off - off, ?_, ?_, ?_⟩, fun ⟨j, hj, hb, he⟩ => ?_⟩
  all_goals omega

/-- A range is held where the slice of each of its bytes in the quad is. -/
theorem slicesHeld_iff {s : State} {off n : Nat} (hn : 0 < n) :
    s.slicesHeld off n = true ↔ ∀ j, j < n → off + j < 0x0020_0000 →
      s.coreHeldBy s.myVd (s.physAddr s.myView s.myLQuad (off + j) / 2 ^ 19) = true := by
  simp only [State.slicesHeld, List.all_eq_true, mem_slicesOf hn, physAddr_core]
  constructor
  · intro h j hj hb
    exact h _ ⟨by omega, j, hj, hb, rfl⟩
  · rintro h i ⟨-, j, hj, hb, rfl⟩
    exact h j hj hb

/-- A peer load finds its logical place again (R128). -/
theorem peerPhys_at (s : State) (c : CtxId) (t : Nat) {q off : Nat} (hq : q < 2) (ho : off < 2 ^ 21) :
    s.peerPhys c (t * 2 ^ 22 + q * 2 ^ 21 + off) = s.physAddr (c.sheaf, t) q off := by
  have ht : (t * 2 ^ 22 + q * 2 ^ 21 + off) / 2 ^ 22 = t := by omega
  have hq' : (t * 2 ^ 22 + q * 2 ^ 21 + off) / 2 ^ 21 % 2 = q := by omega
  have ho' : (t * 2 ^ 22 + q * 2 ^ 21 + off) % 2 ^ 21 = off := by omega
  rw [State.peerPhys, ht, hq', ho']

/-! ### The answers of the own quad and of the windows -/

/-- The answer on the own quad: `a` is the address given, `off` the place it stands for. -/
def ownAnswer (s : State) (a n off : Nat) (arr : Option Nat) : LRes :=
  if !s.slicesHeld off n then .bad Cause.peerGone 3
  else if a % n ≠ 0 then .bad Cause.misaligned 1
  else if s.inWindow s.myQuad off n then .bad Cause.localAddress 7
  else match arr with
    | some k => .hold k
    | none => s.ownBank (s.physAddr s.myView s.myLQuad off) n 4

/-- The answer in the sibling and cluster windows. -/
def farAnswer (s : State) (u : LUse) (a n t q off lat : Nat) : LRes :=
  if a % n ≠ 0 then .bad Cause.misaligned 1
  else match u with
    | .store | .syncw | .amo => .bad Cause.localAddress 2
    | .sync => .bad Cause.localAddress 5
    | .load =>
      let phys := s.peerPhys s.cur (t * 2 ^ 22 + q * 2 ^ 21 + off)
      if s.inWindow (phys / 2 ^ 21) off n then .bad Cause.localAddress 7
      else if phys / 2 ^ 19 = s.myCore then s.ownBank phys n lat
      else .peer (t * 2 ^ 22 + q * 2 ^ 21 + off) lat

/-- The answer on the control page. -/
def pageAnswer (u : LUse) (a n : Nat) : LRes :=
  if a % n ≠ 0 then .bad Cause.misaligned 1
  else match u with
    | .load | .store => if n ≠ 8 then .bad Cause.localAddress 4 else .page (a - 0x0200_0000)
    | _ => .bad Cause.localAddress 5

section
variable {s : State} {u : LUse} {ea : W64} {n : Nat}

theorem localCheck_beyond (h : 2 ^ 32 ≤ ea.toNat) : s.localCheck u ea n = .bad Cause.localAddress 3 := by
  simp only [State.localCheck, h, if_true]

theorem localCheck_quad (h : ea.toNat < 0x0020_0000) : s.localCheck u ea n = ownAnswer s ea.toNat n ea.toNat none := by
  have h1 : ¬ 2 ^ 32 ≤ ea.toNat := by omega
  simp only [State.localCheck, h, h1, if_true, if_false]
  rfl

theorem localCheck_sibling (h : 0x0020_0000 ≤ ea.toNat) (h' : ea.toNat < 0x0040_0000) : s.localCheck u ea n =
    farAnswer s u ea.toNat n (s.cur.grain / 8) (1 - s.myLQuad) (ea.toNat - 0x0020_0000) 14 := by
  have h1 : ¬ 2 ^ 32 ≤ ea.toNat := by omega
  have h2 : ¬ ea.toNat < 0x0020_0000 := by omega
  simp only [State.localCheck, h1, h2, h', if_true, if_false]
  rfl

theorem localCheck_ring_none (h : 0x00C0_0000 ≤ ea.toNat) (h' : ea.toNat < 0x0100_0000)
    (hr : ((s.ring (ringOf ea.toNat).1).bind fun r => (r.place (ringOf ea.toNat).2).map fun p => (r, p.2)) = none) :
    s.localCheck u ea n = if ea.toNat % n = 0 then .bad Cause.localAddress 6 else .bad Cause.misaligned 1 := by
  have h1 : ¬ 2 ^ 32 ≤ ea.toNat := by omega
  have h2 : ¬ ea.toNat < 0x0020_0000 := by omega
  have h3 : ¬ ea.toNat < 0x0040_0000 := by omega
  simp only [State.localCheck, h1, h2, h3, h, h', and_self, hr, if_true, if_false, ite_not]

theorem localCheck_ring_some {r : Ring} {off : Nat} (h : 0x00C0_0000 ≤ ea.toNat) (h' : ea.toNat < 0x0100_0000)
    (hr : ((s.ring (ringOf ea.toNat).1).bind fun r => (r.place (ringOf ea.toNat).2).map fun p => (r, p.2)) = some (r, off)) :
    s.localCheck u ea n =
      ownAnswer s ea.toNat n off (if s.grain.hasArrived r.level then some r.level else none) := by
  have h1 : ¬ 2 ^ 32 ≤ ea.toNat := by omega
  have h2 : ¬ ea.toNat < 0x0020_0000 := by omega
  have h3 : ¬ ea.toNat < 0x0040_0000 := by omega
  simp only [State.localCheck, h1, h2, h3, h, h', and_self, hr, if_true, if_false]
  rfl

theorem localCheck_cluster (h : 0x0100_0000 ≤ ea.toNat) (h' : ea.toNat < 0x0200_0000) :
    let t := s.cur.grain / 8 / 4 * 4 + (ea.toNat - 0x0100_0000) / 0x0040_0000
    let q := (ea.toNat - 0x0100_0000) / 0x0020_0000 % 2
    s.localCheck u ea n = farAnswer s u ea.toNat n t q (ea.toNat % 0x0020_0000)
      (if t ≠ s.cur.grain / 8 then 40 else if q = s.myLQuad then 6 else 14) := by
  have h1 : ¬ 2 ^ 32 ≤ ea.toNat := by omega
  have h2 : ¬ ea.toNat < 0x0020_0000 := by omega
  have h3 : ¬ ea.toNat < 0x0040_0000 := by omega
  have h4 : ¬ (0x00C0_0000 ≤ ea.toNat ∧ ea.toNat < 0x0100_0000) := by omega
  simp only [State.localCheck, h1, h2, h3, h4, h, h', and_self, if_true, if_false]
  rfl

/-- Both windows, with the place that an address names in them. -/
theorem localCheck_far
    (h : (0x0020_0000 ≤ ea.toNat ∧ ea.toNat < 0x0040_0000) ∨ (0x0100_0000 ≤ ea.toNat ∧ ea.toNat < 0x0200_0000)) :
    let t := if ea.toNat < 0x0040_0000 then s.cur.grain / 8
      else s.cur.grain / 8 / 4 * 4 + (ea.toNat - 0x0100_0000) / 0x0040_0000
    let q := if ea.toNat < 0x0040_0000 then 1 - s.myLQuad else (ea.toNat - 0x0100_0000) / 0x0020_0000 % 2
    let lat := if ea.toNat < 0x0040_0000 then 14 else if t ≠ s.cur.grain / 8 then 40 else if q = s.myLQuad then 6 else 14
    q < 2 ∧ s.localCheck u ea n = farAnswer s u ea.toNat n t q (ea.toNat % 0x0020_0000) lat := by
  rcases h with ⟨h, h'⟩ | ⟨h, h'⟩
  · have ho : ea.toNat % 0x0020_0000 = ea.toNat - 0x0020_0000 := by omega
    simp only [h', if_true, ho, localCheck_sibling h h', and_true]
    omega
  · have hs : ¬ ea.toNat < 0x0040_0000 := by omega
    simp only [hs, if_false, localCheck_cluster h h', and_true]
    omega

theorem localCheck_page (h : 0x0200_0000 ≤ ea.toNat) (h' : ea.toNat < 0x0201_0000) :
    s.localCheck u ea n = pageAnswer u ea.toNat n := by
  have h1 : ¬ 2 ^ 32 ≤ ea.toNat := by omega
  have h2 : ¬ ea.toNat < 0x0020_0000 := by omega
  have h3 : ¬ ea.toNat < 0x0040_0000 := by omega
  have h4 : ¬ (0x00C0_0000 ≤ ea.toNat ∧ ea.toNat < 0x0100_0000) := by omega
  have h5 : ¬ (0x0100_0000 ≤ ea.toNat ∧ ea.toNat < 0x0200_0000) := by omega
  simp only [State.localCheck, h1, h2, h3, h4, h5, h, h', and_self, if_true, if_false]
  rfl

theorem localCheck_gap
    (h : (0x0040_0000 ≤ ea.toNat ∧ ea.toNat < 0x00C0_0000) ∨ (0x0201_0000 ≤ ea.toNat ∧ ea.toNat < 2 ^ 32)) :
    s.localCheck u ea n = .bad Cause.localAddress 1 := by
  have h1 : ¬ 2 ^ 32 ≤ ea.toNat := by omega
  have h2 : ¬ ea.toNat < 0x0020_0000 := by omega
  have h3 : ¬ ea.toNat < 0x0040_0000 := by omega
  have h4 : ¬ (0x00C0_0000 ≤ ea.toNat ∧ ea.toNat < 0x0100_0000) := by omega
  have h5 : ¬ (0x0100_0000 ≤ ea.toNat ∧ ea.toNat < 0x0200_0000) := by omega
  have h6 : ¬ (0x0200_0000 ≤ ea.toNat ∧ ea.toNat < 0x0201_0000) := by omega
  simp only [State.localCheck, h1, h2, h3, h4, h5, h6, if_false]

end

theorem ownBank_on {s : State} {phys n : Nat} (lat : Nat) (h : s.rangeBank phys n = .on) : s.ownBank phys n lat = .mem phys lat := by
  rw [State.ownBank, h]

theorem ownBank_off {s : State} {phys n : Nat} (lat : Nat) (h : s.rangeBank phys n = .off) :
    s.ownBank phys n lat = .bad Cause.bankOff 1 := by
  rw [State.ownBank, h]

theorem ownAnswer_gone {s : State} {a n off : Nat} {arr : Option Nat} (h : s.slicesHeld off n = false) :
    ownAnswer s a n off arr = .bad Cause.peerGone 3 := by
  simp [ownAnswer, h]

theorem ownAnswer_misaligned {s : State} {a n off : Nat} {arr : Option Nat} (h : s.slicesHeld off n = true) (ha : a % n ≠ 0) :
    ownAnswer s a n off arr = .bad Cause.misaligned 1 := by
  simp [ownAnswer, h, ha]

theorem ownAnswer_window {s : State} {a n off : Nat} {arr : Option Nat} (h : s.slicesHeld off n = true) (ha : a % n = 0)
    (hw : s.inWindow s.myQuad off n = true) : ownAnswer s a n off arr = .bad Cause.localAddress 7 := by
  simp [ownAnswer, h, ha, hw]

theorem ownAnswer_hold {s : State} {a n off k : Nat} (h : s.slicesHeld off n = true) (ha : a % n = 0)
    (hw : s.inWindow s.myQuad off n = false) : ownAnswer s a n off (some k) = .hold k := by
  simp [ownAnswer, h, ha, hw]

theorem ownAnswer_bank {s : State} {a n off : Nat} (h : s.slicesHeld off n = true) (ha : a % n = 0)
    (hw : s.inWindow s.myQuad off n = false) :
    ownAnswer s a n off none = s.ownBank (s.physAddr s.myView s.myLQuad off) n 4 := by
  simp [ownAnswer, h, ha, hw]

theorem pageAnswer_misaligned {u : LUse} {a n : Nat} (ha : a % n ≠ 0) : pageAnswer u a n = .bad Cause.misaligned 1 := if_pos ha

theorem pageAnswer_aligned {u : LUse} {a n : Nat} (ha : a % n = 0) (hu : u = .load ∨ u = .store) :
    pageAnswer u a n = if n = 8 then .page (a - 0x0200_0000) else .bad Cause.localAddress 4 := by
  rcases hu with rfl | rfl
  all_goals simp [pageAnswer, ha]

/-- What the windows of other quads answer (R39, R126, R127). -/
theorem farAnswer_cases {s : State} {use : LUse} {a n t q off lat : Nat} (hq : q < 2) (ho : off < 2 ^ 21) :
    let target := s.physAddr (s.cur.sheaf, t) q off
    let r := farAnswer s use a n t q off lat
    (a % n ≠ 0 → r = .bad Cause.misaligned 1) ∧
    (a % n = 0 → use = .store ∨ use = .syncw ∨ use = .amo → r = .bad Cause.localAddress 2) ∧
    (a % n = 0 → use = .sync → r = .bad Cause.localAddress 5) ∧
    (a % n = 0 → use = .load →
      (s.inWindow (target / 2 ^ 21) off n = true → r = .bad Cause.localAddress 7) ∧
      (s.inWindow (target / 2 ^ 21) off n = false → target / 2 ^ 19 ≠ s.myCore →
        r = .peer (t * 2 ^ 22 + q * 2 ^ 21 + off) lat) ∧
      (s.inWindow (target / 2 ^ 21) off n = false → target / 2 ^ 19 = s.myCore →
        (s.rangeBank target n = .on → r = .mem target lat) ∧
        (s.rangeBank target n = .off → r = .bad Cause.bankOff 1))) := by
  intro target r
  have hr : r = farAnswer s use a n t q off lat := rfl
  have ht : s.peerPhys s.cur (t * 2 ^ 22 + q * 2 ^ 21 + off) = target := peerPhys_at s s.cur t hq ho
  clear_value r target
  subst hr
  refine ⟨fun ha => ?_, fun ha hu => ?_, fun ha hu => ?_, fun ha hu => ⟨fun hw => ?_, fun hw hc => ?_, fun hw hc =>
    ⟨fun hb => ?_, fun hb => ?_⟩⟩⟩
  · simp [farAnswer, ha]
  · rcases hu with rfl | rfl | rfl
    all_goals simp [farAnswer, ha]
  · simp [farAnswer, ha, hu]
  · simp only [farAnswer, ha, hu, ht, hw, ne_eq, not_true, if_false, if_true]
  · simp only [farAnswer, ha, hu, ht, hw, hc, ne_eq, not_true, Bool.false_eq_true, if_false]
  · simp only [farAnswer, ha, hu, ht, hw, hc, ne_eq, not_true, Bool.false_eq_true, if_false, if_true, ownBank_on _ hb]
  · simp only [farAnswer, ha, hu, ht, hw, hc, ne_eq, not_true, Bool.false_eq_true, if_false, if_true, ownBank_off _ hb]

/-! ### The ring that an address names, the pointers, the hold -/

theorem ringOf_none {s : State} {k o : Nat} (h : s.ring k = none ∨ ∃ r, s.ring k = some r ∧ r.d < o / r.size) :
    ((s.ring k).bind fun r => (r.place o).map fun p => (r, p.2)) = none := by
  rcases h with h | ⟨r, h, hd⟩
  · rw [h, Option.bind_none]
  · simp only [h, Option.bind_some, Ring.place, hd, if_true, Option.map_none]

theorem ringOf_some {s : State} {k o : Nat} {r : Ring} (h : s.ring k = some r) (hd : o / r.size ≤ r.d) :
    ((s.ring k).bind fun r => (r.place o).map fun p => (r, p.2)) =
      some (r, r.base + (r.sp + o / r.size) % r.n * r.size + o % r.size) := by
  simp only [h, Option.bind_some, Ring.place, Nat.not_lt.mpr hd, if_false, Option.map_some]

theorem not_slicesHeld {s : State} {off n : Nat} (hn : 0 < n) (h : ¬ ∀ j, j < n → off + j < 0x0020_0000 →
    s.coreHeldBy s.myVd (s.physAddr s.myView s.myLQuad (off + j) / 2 ^ 19) = true) : s.slicesHeld off n = false :=
  Bool.eq_false_iff.mpr fun e => h ((slicesHeld_iff hn).mp e)

theorem holdAt_parks {s : State} {k : Nat} (h : k ≠ 4 ∨ s.sheaf.gangMissing = false) :
    s.holdAt k = (s.park 7).updMe fun c => { c with holdLevel := some k } := by
  refine if_neg fun ⟨hk, hg⟩ => ?_
  rcases h with h | h
  · exact h hk
  · exact Bool.false_ne_true (h.symm.trans hg)

/-- Settles O10, region by region of the local space. -/
theorem pointersAndLocalAddresses : Obligations.PointersAndLocalAddresses := by
  refine ⟨fun s p v => ⟨rfl, rfl, rfl, rfl, rfl, fun hl => ⟨updMe_me s _ hl, rfl, fun c hc => updMe_ctx_ne s _ hc⟩⟩,
    fun s ea n use hn => ?_, fun s k hl hk => ?_⟩
  · have hpos : 0 < n := by omega
    intro a lq vt phys held
    refine ⟨localCheck_beyond, fun h h' => localCheck_gap (.inl ⟨h, h'⟩), fun h h' => localCheck_gap (.inr ⟨h, h'⟩),
      fun h hh => ?_, fun h hh ha => ?_, fun h hh ha hw => ?_, fun h hh ha hw => ⟨fun hb => ?_, fun hb => ?_⟩, fun h => ?_,
      fun h h' => ?_, fun h h' ha hu => ?_, fun h h' ha => ?_⟩
    · exact (localCheck_quad h).trans (ownAnswer_gone (not_slicesHeld hpos hh))
    · exact (localCheck_quad h).trans (ownAnswer_misaligned ((slicesHeld_iff hpos).mpr hh) ha)
    · exact (localCheck_quad h).trans (ownAnswer_window ((slicesHeld_iff hpos).mpr hh) ha hw)
    · exact (localCheck_quad h).trans ((ownAnswer_bank ((slicesHeld_iff hpos).mpr hh) ha hw).trans (ownBank_on 4 hb))
    · exact (localCheck_quad h).trans ((ownAnswer_bank ((slicesHeld_iff hpos).mpr hh) ha hw).trans (ownBank_off 4 hb))
    · intro sibling t q lat off
      obtain ⟨hq, hfar⟩ := localCheck_far (s := s) (u := use) (n := n) h
      rw [hfar]
      exact farAnswer_cases hq (Nat.mod_lt _ (by decide))
    · intro k o
      refine ⟨fun hr => localCheck_ring_none h h' (ringOf_none hr), fun r hr hd => ?_⟩
      have hown := localCheck_ring_some (u := use) (n := n) h h' (ringOf_some hr hd)
      intro off stage owned
      refine ⟨fun hh => ?_, fun hh ha => ?_, fun hh ha hw => ?_, fun hh ha hw => ⟨fun hr => ?_, fun hr =>
        ⟨fun hb => ?_, fun hb => ?_⟩⟩⟩
      · exact hown.trans (ownAnswer_gone (not_slicesHeld hpos hh))
      · exact hown.trans (ownAnswer_misaligned ((slicesHeld_iff hpos).mpr hh) ha)
      · exact hown.trans (ownAnswer_window ((slicesHeld_iff hpos).mpr hh) ha hw)
      all_goals simp only [hr, Bool.false_eq_true, if_true, if_false] at hown
      · exact hown.trans (ownAnswer_hold ((slicesHeld_iff hpos).mpr hh) ha hw)
      · exact hown.trans ((ownAnswer_bank ((slicesHeld_iff hpos).mpr hh) ha hw).trans (ownBank_on 4 hb))
      · exact hown.trans ((ownAnswer_bank ((slicesHeld_iff hpos).mpr hh) ha hw).trans (ownBank_off 4 hb))
    · exact (localCheck_page h h').trans (pageAnswer_aligned ha hu)
    · exact (localCheck_page h h').trans (pageAnswer_misaligned ha)
  · rw [holdAt_parks hk]
    refine ⟨?_, fun c hc => ?_, sameMem_of_eq rfl rfl rfl rfl rfl rfl⟩
    · refine (updMe_me (s.park 7) _ ((updMe_lives s _).trans hl)).trans ?_
      exact congrArg (fun x : Ctx => { x with holdLevel := some k }) (updMe_me s _ hl)
    · exact (updMe_ctx_ne (s.park 7) _ hc).trans (updMe_ctx_ne s _ hc)

end Sys2Proof.Proofs
end

section
/-! What the device memory leaves undisturbed: the contexts, grains and sheaves, and the cycles of the quads (12). -/

namespace Sys2Proof.Proofs

open Sys2Proof.Machine Sys2Proof.Laws

/-- The tables of contexts, grains and sheaves stand as they were, and so do the clocks, the accumulator entries, and the
local and weight memories. -/
structure Undisturbed (r s : State) : Prop where
  cur : s.cur = r.cur
  freeN : s.freeN = r.freeN
  slot : s.slot = r.slot
  ctxs : s.ctxs = r.ctxs
  grains : s.grains = r.grains
  sheaves : s.sheaves = r.sheaves
  cycles : ∀ q, s.cycleOf q = r.cycleOf q
  accs : ∀ t, (s.tileOf t).acc = (r.tileOf t).acc
  lmem : s.lmem = r.lmem
  wbuf : s.wbuf = r.wbuf

theorem Undisturbed.refl (s : State) : Undisturbed s s := ⟨rfl, rfl, rfl, rfl, rfl, rfl, fun _ => rfl, fun _ => rfl, rfl, rfl⟩

/-- The same of the state that a function answers with. -/
def UndisturbedFst {α : Type} (r : State) (p : State × α) : Prop := Undisturbed r p.1

theorem fst_undisturbs {α : Type} {r s : State} {x : α} (h : Undisturbed r s) : UndisturbedFst r (s, x) := h

/-- What is looked up in a table whose values are changed by key. -/
theorem tab_find_mapVal {κ α β : Type} [DecidableEq κ] (t : Tab κ α) (f : κ × α → β) (k : κ) :
    Tab.find (t.map fun e => (e.1, f e)) k = (Tab.find t k).map fun x => f (k, x) := by
  induction t with
  | nil => rfl
  | cons e t ih =>
    obtain ⟨j, x⟩ := e
    by_cases hj : j = k
    · simp only [List.map_cons, Tab.find, hj, if_true, Option.map_some]
    · simp only [List.map_cons, Tab.find, hj, if_false, ih]

section
variable {r s : State} (h : Undisturbed r s)
include h

theorem Undisturbed.ctx (c : CtxId) : s.ctx c = r.ctx c := congrArg (Tab.find · c) h.ctxs
theorem Undisturbed.me : s.me = r.me := by rw [State.me, h.ctxs, h.cur]; rfl
theorem Undisturbed.lives : s.lives = r.lives := by rw [State.lives, h.cur, h.ctx]; rfl
theorem Undisturbed.grainOf (c : CtxId) : s.grainOf c = r.grainOf c := congrArg (Tab.find · _) h.grains
theorem Undisturbed.grain : s.grain = r.grain := by rw [State.grain, h.cur, h.grainOf]; rfl
theorem Undisturbed.sheafOf (n : Nat) : s.sheafOf n = r.sheafOf n := congrArg (Tab.getD · n _) h.sheaves
theorem Undisturbed.domOf (m n : Nat) : s.domOf m n = r.domOf m n := by rw [State.domOf, h.sheafOf]; rfl
theorem Undisturbed.quantumOf (c : CtxId) : s.quantumOf c = r.quantumOf c := by
  rw [State.quantumOf, h.ctx, h.sheafOf]
  rfl
theorem Undisturbed.cycle : s.cycle = r.cycle := by
  rw [State.cycle, h.cycles, State.myQuad, h.grain]
  rfl

/-! ### Writes of the device memory -/

theorem frame_undisturbs {cores vds dev hbm host} : Undisturbed r { s with
    cores := cores, vds := vds, dev := dev, hbm := hbm, host := host } :=
  ⟨h.cur, h.freeN, h.slot, h.ctxs, h.grains, h.sheaves, h.cycles, h.accs, h.lmem, h.wbuf⟩

theorem updDev_undisturbs {f : Dev → Dev} : Undisturbed r (s.updDev f) := frame_undisturbs h
theorem updVd_undisturbs {n : Nat} {f : Vd → Vd} : Undisturbed r (s.updVd n f) := frame_undisturbs h
theorem updCore_undisturbs {n : Nat} {f : Core → Core} : Undisturbed r (s.updCore n f) := frame_undisturbs h
theorem updTile_undisturbs {n : Nat} {f : Tile → Tile} (hf : ∀ x, (f x).acc = x.acc) : Undisturbed r (s.updTile n f) := by
  refine ⟨h.cur, h.freeN, h.slot, h.ctxs, h.grains, h.sheaves, h.cycles, fun t => ?_, h.lmem, h.wbuf⟩
  refine Eq.trans ?_ (h.accs t)
  refine (congrArg Tile.acc (tab_getD_updD s.tiles n t Tile.zero Tile.zero f)).trans ?_
  split
  · rename_i e
    subst e
    exact hf _
  · rfl

theorem devPut_undisturbs {key : List W64} {a : Nat} {b : Byte} : Undisturbed r (s.devPut key a b) := by
  unfold State.devPut
  dsimp only
  exact ite_keeps (frame_undisturbs h) (frame_undisturbs h)

theorem devPuts_undisturbs {key : List W64} {a : Nat} {bs : List Byte} : Undisturbed r (s.devPuts key a bs) := by
  induction bs generalizing s a with
  | nil => exact h
  | cons b bs ih => exact ih (devPut_undisturbs h)

theorem cleanHbm_undisturbs {p : Nat → Bool} : Undisturbed r (s.cleanHbm p) := by
  unfold State.cleanHbm
  exact ite_keeps h (updDev_undisturbs h)

theorem devWrite_undisturbs {key : List W64} {a : Nat} {bs : List Byte} : Undisturbed r (s.devWrite key a bs) := by
  unfold State.devWrite
  exact ite_keeps (cleanHbm_undisturbs (devPuts_undisturbs h)) (devPuts_undisturbs h)

theorem setAD_undisturbs {at_ : Nat} {d : Bool} : Undisturbed r (s.setAD at_ d) := by
  unfold State.setAD
  exact ite_keeps h (devPuts_undisturbs h)

theorem walkBoth_undisturbs {via : Via} {vd va : Nat} {k : Acc} : UndisturbedFst r (s.walkBoth via vd va k) := by
  have hs (l : List Nat) : Undisturbed r (l.foldl (fun s at_ => s.setAD at_ false) s) :=
    foldl_keeps h fun _ _ hu => setAD_undisturbs hu
  unfold State.walkBoth
  dsimp only
  split
  · exact h
  · refine ite_keeps (P := UndisturbedFst r) (hs _) (ite_keeps (P := UndisturbedFst r) (hs _) ?_)
    split
    · exact hs _
    · refine ite_keeps (P := UndisturbedFst r) (hs _) (ite_keeps (P := UndisturbedFst r) (hs _) (fst_undisturbs ?_))
      split
      · exact setAD_undisturbs (hs _)
      · exact updTile_undisturbs (updCore_undisturbs (setAD_undisturbs (hs _))) fun _ => rfl

theorem tlbRefill_undisturbs {via : Via} {vd va : Nat} {e : TlbEntry} : Undisturbed r (s.tlbRefill via vd va e) := by
  unfold State.tlbRefill
  split
  · exact h
  · exact ite_keeps h (updCore_undisturbs h)

theorem xlate_undisturbs {via : Via} {vd : Nat} {va : W64} {k : Acc} : UndisturbedFst r (s.xlate via vd va k) := by
  have ht (e : TlbEntry) : Undisturbed r (s.tlbRefill via vd (vaNat va) e) := tlbRefill_undisturbs h
  unfold State.xlate
  dsimp only
  split
  · exact h
  · split
    · exact walkBoth_undisturbs h
    · exact ite_keeps (P := UndisturbedFst r) (ht _) (ite_keeps (P := UndisturbedFst r) (ht _)
        (ite_keeps (P := UndisturbedFst r) (walkBoth_undisturbs (ht _)) (ht _)))

theorem logPut_undisturbs {vd : Nat} {va : W64} {bs : List Byte} {bad : Bool} : Undisturbed r (s.logPut vd va bs bad) := by
  have hx := xlate_undisturbs (via := none) (vd := vd) (va := va) (k := .write) h
  unfold State.logPut
  split
  · rename_i e
    rw [e] at hx
    exact hx
  · rename_i e
    rw [e] at hx
    exact ite_keeps (updDev_undisturbs (devWrite_undisturbs hx)) (devWrite_undisturbs hx)

theorem logDrop_undisturbs {vd : Nat} : Undisturbed r (s.logDrop vd) := by
  unfold State.logDrop
  dsimp only
  split
  · exact h
  · exact updVd_undisturbs (updVd_undisturbs h)

theorem logTrim_undisturbs {vd n : Nat} : Undisturbed r (s.logTrim vd n) := by
  induction n generalizing s with
  | zero => exact h
  | succ n ih =>
    unfold State.logTrim
    split
    · exact h
    · exact ite_keeps h (ih (logDrop_undisturbs h))

theorem logLine_undisturbs {vd line dpa sid : Nat} {key : List W64} : Undisturbed r (s.logLine vd line dpa sid key) := by
  have hd : Undisturbed r (s.updDev fun d => { d with seq := d.seq + 1 }) := updDev_undisturbs h
  exact ite_keeps h (logTrim_undisturbs (updVd_undisturbs (ite_keeps hd (logPut_undisturbs (logPut_undisturbs hd)))))

theorem combineU_undisturbs {u : ULine} : Undisturbed r (s.combineU u) :=
  foldl_keeps (ite_keeps (logLine_undisturbs h) h) fun _ _ hu => devWrite_undisturbs hu

end

/-- Combining U lines leaves all but the lines themselves and the device memory as they were (R137). -/
theorem flushU_undisturbs (s : State) (p : Nat → ULine → Bool) : Undisturbed s (s.flushU p) := by
  refine foldl_keeps ⟨rfl, rfl, rfl, rfl, rfl, rfl, fun q => ?_, fun _ => rfl, rfl, rfl⟩ fun _ _ hu => combineU_undisturbs hu
  simp only [State.cycleOf, State.quadOf, Tab.getD, tab_find_mapVal]
  cases Tab.find s.quads q with
  | none => rfl
  | some x => rfl

end Sys2Proof.Proofs
end

section
/-! A fence that is met, the wake of a waiting context, and an instruction put in progress (01 R30; 05 R132; 10 R279). -/

namespace Sys2Proof.Proofs

open Sys2Proof.Machine Sys2Proof.Laws

/-! ### Updates of one entry -/

theorem tab_upd_congr {κ α : Type} [DecidableEq κ] (t : Tab κ α) (k : κ) {f g : α → α}
    (h : ∀ x, Tab.find t k = some x → f x = g x) : Tab.upd t k f = Tab.upd t k g := by
  induction t with
  | nil => rfl
  | cons e t ih =>
    obtain ⟨j, x⟩ := e
    by_cases hj : j = k
    · simp only [Tab.upd, hj, if_true, h x (by simp [Tab.find, hj])]
    · simp only [Tab.upd, hj, if_false, ih fun y hy => h y (by simpa [Tab.find, hj] using hy)]

theorem tab_upd_upd {κ α : Type} [DecidableEq κ] (t : Tab κ α) (k : κ) (f g : α → α) :
    Tab.upd (Tab.upd t k f) k g = Tab.upd t k fun x => g (f x) := by
  induction t with
  | nil => rfl
  | cons e t ih =>
    obtain ⟨j, x⟩ := e
    by_cases hj : j = k
    · simp only [Tab.upd, hj, if_true]
    · simp only [Tab.upd, hj, if_false, ih]

theorem updMe_congr {s : State} {f g : Ctx → Ctx} (h : f s.me = g s.me) : s.updMe f = s.updMe g := by
  refine congrArg (fun c => { s with ctxs := c }) (tab_upd_congr s.ctxs s.cur fun x hx => ?_)
  have hm : s.me = x := by rw [State.me, hx, Option.getD_some]
  rw [← hm, h]

/-! ### unfence and settle change the executing context alone -/

section
variable (s : State)

theorem unfence_frame : ∃ c, s.unfence = { s with ctxs := c } := by
  unfold State.unfence
  split
  · exact ⟨_, rfl⟩
  · exact ⟨s.ctxs, rfl⟩

theorem settle_frame (kind place : Nat) : ∃ c, s.settle kind place = { s with ctxs := c } := by
  unfold State.settle State.raise
  split
  · split
    · exact ⟨_, rfl⟩
    · exact ⟨s.ctxs, rfl⟩
  · exact ⟨s.ctxs, rfl⟩

@[simp] theorem unfence_cur : s.unfence.cur = s.cur := by obtain ⟨c, h⟩ := unfence_frame s; rw [h]
@[simp] theorem unfence_freeN : s.unfence.freeN = s.freeN := by obtain ⟨c, h⟩ := unfence_frame s; rw [h]
@[simp] theorem unfence_grain : s.unfence.grain = s.grain := by obtain ⟨c, h⟩ := unfence_frame s; rw [h]; rfl
@[simp] theorem unfence_sheaves : s.unfence.sheaves = s.sheaves := by obtain ⟨c, h⟩ := unfence_frame s; rw [h]
@[simp] theorem unfence_sheaf : s.unfence.sheaf = s.sheaf := by obtain ⟨c, h⟩ := unfence_frame s; rw [h]; rfl
@[simp] theorem unfence_domOf (m n : Nat) : s.unfence.domOf m n = s.domOf m n := by
  obtain ⟨c, h⟩ := unfence_frame s; rw [h]; rfl
@[simp] theorem unfence_grainOf (c : CtxId) : s.unfence.grainOf c = s.grainOf c := by
  obtain ⟨x, h⟩ := unfence_frame s; rw [h]; rfl
@[simp] theorem unfence_cycle : s.unfence.cycle = s.cycle := by obtain ⟨c, h⟩ := unfence_frame s; rw [h]; rfl

@[simp] theorem settle_cur (k p : Nat) : (s.settle k p).cur = s.cur := by obtain ⟨c, h⟩ := settle_frame s k p; rw [h]
@[simp] theorem settle_freeN (k p : Nat) : (s.settle k p).freeN = s.freeN := by obtain ⟨c, h⟩ := settle_frame s k p; rw [h]
@[simp] theorem settle_grain (k p : Nat) : (s.settle k p).grain = s.grain := by
  obtain ⟨c, h⟩ := settle_frame s k p; rw [h]; rfl
@[simp] theorem settle_sheaves (k p : Nat) : (s.settle k p).sheaves = s.sheaves := by
  obtain ⟨c, h⟩ := settle_frame s k p; rw [h]
@[simp] theorem settle_domOf (k p m n : Nat) : (s.settle k p).domOf m n = s.domOf m n := by
  obtain ⟨c, h⟩ := settle_frame s k p; rw [h]; rfl
@[simp] theorem settle_grainOf (k p : Nat) (c : CtxId) : (s.settle k p).grainOf c = s.grainOf c := by
  obtain ⟨x, h⟩ := settle_frame s k p; rw [h]; rfl
@[simp] theorem settle_cycle (k p : Nat) : (s.settle k p).cycle = s.cycle := by
  obtain ⟨c, h⟩ := settle_frame s k p; rw [h]; rfl

end

theorem unfence_lives {s : State} (hl : s.lives = true) : s.unfence.lives = true := by
  unfold State.unfence
  split
  · exact (updMe_lives s _).trans hl
  · exact hl

theorem settle_me_out {s : State} (hl : s.lives = true) (kind place : Nat) : (s.settle kind place).me.out = s.me.out := by
  unfold State.settle State.raise
  split
  · split
    · exact (congrArg Ctx.out (updMe_me s _ hl)).trans rfl
    · rfl
  · rfl

/-! ### An instruction in progress -/

theorem loopTest_out (x : Ctx) (o : Option Out) (p n : W64) (k : Nat) :
    ({ x with out := o } : Ctx).loopTest p n k = ({ (x.loopTest p n k).1 with out := o }, (x.loopTest p n k).2) := by
  induction k generalizing x with
  | zero => rfl
  | succ i ih =>
    simp only [Ctx.loopTest]
    split
    · rename_i hi
      split
      · split
        · rfl
        · exact ih { x with lc := x.lc.set i (x.lc[i] - 1) }
      · rfl
    · rfl

theorem next_out (x : Ctx) (o : Option Out) (len : Nat) :
    ({ x with out := o } : Ctx).next len = { x.next len with out := o } := by
  unfold Ctx.next
  dsimp only
  rw [loopTest_out]
  split
  · rfl
  · rfl

theorem reserve_out (x : Ctx) (o : Option Out) (h : Head) (tag : Nat) (due : Option Nat) (v : Option W64) (fl : Flags) :
    ({ x with out := o } : Ctx).reserve h tag due v fl = { x.reserve h tag due v fl with out := o } := by
  unfold Ctx.reserve
  cases h.dst with
  | none => rfl
  | q => rfl
  | g n => rfl

theorem start_eq_withOut (s : State) (i : Instr) (d : Dst) (addr : W64) (caps : List W64) (data : List Byte) (stage : Stage) :
    s.start i d addr caps data stage = s.withOut ⟨s.freeN + 1, i, s.me.pc, d, 0, false, stage, addr, caps, data, 0, none,
      s.cycle, s.quantumOf s.cur⟩ :=
  updMe_congr rfl

/-- A change of the instruction in progress just after its issue is a change of it at its issue. -/
theorem doneTag_updOut (s : State) (o : Out) (f : Out → Out) (h : Head) (len tag : Nat) :
    ((s.withOut o).doneTag h len tag).updOut s.cur f = (s.withOut (f o)).doneTag h len tag := by
  refine congrArg (fun c => { s with ctxs := c, freeN := s.freeN + 1 } : Tab CtxId Ctx → State) ?_
  refine ((congrArg (Tab.upd · s.cur _) (tab_upd_upd s.ctxs s.cur _ _)).trans (tab_upd_upd s.ctxs s.cur _ _)).trans ?_
  refine Eq.trans ?_ (tab_upd_upd s.ctxs s.cur _ _).symm
  refine tab_upd_congr s.ctxs s.cur fun x _ => ?_
  have hx (p : Option Out) : ((({ x with out := p } : Ctx).tally s.cycle).reserve h tag none none 0).next len =
      { ((x.tally s.cycle).reserve h tag none none 0).next len with out := p } :=
    (congrArg (Ctx.next · len) (reserve_out (x.tally s.cycle) p h tag none none 0)).trans (next_out _ p len)
  exact (congrArg (fun y : Ctx => { y with out := y.out.map f }) (hx (some o))).trans (hx (some (f o))).symm

end Sys2Proof.Proofs
end

section
/-! Barrier arrivals and waits by token (05 R139 to R142; 10 R271). -/

namespace Sys2Proof.Proofs

open Sys2Proof.Machine Sys2Proof.Laws

/-! ### An arrival -/

theorem barQuantum_of_out_none {s : State} {c : CtxId} (h : s.outOf c = none) : s.barQuantum c = s.quantumOf c := by
  change (s.ctx c).bind (fun x => x.out) = none at h
  rw [State.barQuantum, h]

theorem outOf_cur_of_lives {s : State} (hl : s.lives = true) : s.outOf s.cur = s.me.out := by
  rw [State.outOf, ctx_cur_of_lives hl, Option.bind_some]

/-- The domain of a context's grain at a level (R36). -/
def domAt (s : State) (c : CtxId) (l : Fin 4) : Nat := (((s.grainOf c).getD Grain.zero).dom (lvlNum l)).getD 0

/-- What is left of the arrival once the context's U lines are combined. -/
def combined (s : State) (c : CtxId) : State := s.flushU fun _ u => u.by_.contains c

theorem combined_undisturbed (s : State) (c : CtxId) : Undisturbed s (combined s c) := flushU_undisturbs s _

/-- The arrival stands in its grain and is counted in its domain. -/
def counted (s : State) (c : CtxId) (l : Fin 4) : State :=
  ((combined s c).updGrainOf c fun g => { g with arrived := g.arrived.set l true }).updDom c.sheaf (domAt s c l) fun d =>
    { d with
      arrived := d.arrived + 1
      tag := max d.tag ((combined s c).barQuantum c) }

/-- A held arrival of another context of the grain counts toward the next phase (R142). -/
def heldOver (c : CtxId) (l : Fin 4) (p : Nat) (e : CtxId × Ctx) : Ctx :=
  if e.1.sheaf = c.sheaf ∧ e.1.grain = c.grain ∧ e.1 ≠ c then
    { e.2 with out := e.2.out.map fun o =>
      if o.stage = .heldArrival ∧ barLevel o.instr = some l then { o with prog := (p + 1) % 2 ^ 32 } else o }
  else e.2

section
variable (s : State) (c : CtxId) (l : Fin 4)

theorem arrive_grains : (s.arrive c l).grains =
    Tab.upd (combined s c).grains (c.sheaf, c.grain) fun g => { g with arrived := g.arrived.set l true } := rfl

theorem arrive_sheaves : (s.arrive c l).sheaves = Tab.upd (combined s c).sheaves c.sheaf fun h => { h with
    doms := Tab.updD h.doms (domAt s c l) ⟨0, 0, 0, 0⟩ fun d => { d with
      arrived := d.arrived + 1
      tag := max d.tag ((combined s c).barQuantum c) } } := rfl

theorem arrive_ctxs : (s.arrive c l).ctxs = (combined s c).ctxs.map fun e =>
    (e.1, heldOver c l ((counted s c l).domOf c.sheaf (domAt s c l)).phase e) := by
  refine List.map_congr_left fun e _ => ?_
  unfold heldOver
  split
  · rfl
  · rfl

theorem arrive_cur : (s.arrive c l).cur = s.cur := (combined_undisturbed s c).cur
theorem arrive_mem : sameMem (combined s c) (s.arrive c l) := sameMem_of_eq rfl rfl rfl rfl rfl rfl

theorem arrive_ctx_self : (s.arrive c l).ctx c = s.ctx c := by
  have hx (p : Nat) (x : Ctx) : heldOver c l p (c, x) = x := by simp [heldOver]
  rw [State.ctx, arrive_ctxs, tab_find_mapVal]
  simp only [hx, Option.map_id_fun', id_eq]
  exact (combined_undisturbed s c).ctx c

theorem arrive_lives {s : State} {l : Fin 4} (hl : s.lives = true) : (s.arrive s.cur l).lives = true := by
  rw [State.lives, arrive_cur, arrive_ctx_self]
  exact hl

theorem arrive_me : (s.arrive s.cur l).me = s.me := by
  have hx := arrive_ctx_self s s.cur l
  simp only [State.ctx] at hx
  rw [State.me, State.me, arrive_cur, hx]

theorem arrive_grainOf_self {g : Grain} (h : (combined s c).grainOf c = some g) :
    (s.arrive c l).grainOf c = some { g with arrived := g.arrived.set l true } := by
  rw [State.grainOf, arrive_grains, tab_find_upd_self]
  exact congrArg (Option.map _) h

theorem arrive_grainOf_ne {d : CtxId} (h : d.sheaf ≠ c.sheaf ∨ d.grain ≠ c.grain) :
    (s.arrive c l).grainOf d = (combined s c).grainOf d := by
  rw [State.grainOf, arrive_grains, tab_find_upd_ne]
  · rfl
  · intro e
    simp only [Prod.mk.injEq] at e
    rcases h with h | h
    · exact h e.1.symm
    · exact h e.2.symm

theorem arrive_domOf (h : (Tab.find s.sheaves c.sheaf).isSome = true) (m : Nat) : (s.arrive c l).domOf c.sheaf m =
    if domAt s c l = m then { (combined s c).domOf c.sheaf m with
      arrived := ((combined s c).domOf c.sheaf m).arrived + 1
      tag := max ((combined s c).domOf c.sheaf m).tag ((combined s c).barQuantum c) }
    else (combined s c).domOf c.sheaf m := by
  obtain ⟨x, hx⟩ := Option.isSome_iff_exists.mp h
  have hc : Tab.find (combined s c).sheaves c.sheaf = some x := by rw [(combined_undisturbed s c).sheaves, hx]
  simp only [State.domOf, State.sheafOf, Tab.getD, arrive_sheaves, tab_find_upd_self, hc, Option.map_some, Option.getD_some]
  refine (tab_getD_updD _ _ _ _ _ _).trans ?_
  split
  · rename_i e
    subst e
    rfl
  · rfl

end

/-! ### The checks of bar.arv and bar.sync -/

section
variable {s : State} {l : Fin 4} {n : Nat} (go : State → State)

theorem arriveCheck_level (h : s.grain.dom (lvlNum l) = none) :
    s.arriveCheck l go = s.unfence.exact Cause.barrierLevel 1 := by
  simp [State.arriveCheck, h]

theorem arriveCheck_missing (h : s.grain.dom (lvlNum l) = some n) (hm : lvlNum l = 4 ∧ s.sheaf.gangMissing = true) :
    s.arriveCheck l go = s.unfence.exact Cause.gangMissing 1 := by
  simp only [State.arriveCheck, unfence_grain, unfence_sheaf, h, Option.isNone_some, Bool.false_eq_true, if_false, if_pos hm]

theorem arriveCheck_passes (h : s.grain.dom (lvlNum l) = some n) (hm : ¬ (lvlNum l = 4 ∧ s.sheaf.gangMissing = true))
    (hf : s.unfence.fenced = false) (hr : s.unfence.rcBusy = false) (hv : s.unfence.vecBusy s.unfence.cur = false)
    (hi : s.unfence.firing s.unfence.cur = false) (hw : s.unfence.relLog (some .dom) = false) :
    s.arriveCheck l go = if s.grain.arrived[l] then s.unfence.park 4 else go (s.unfence.settle 1 n) := by
  simp only [State.arriveCheck, unfence_grain, unfence_sheaf, h, Option.isNone_some, Bool.false_eq_true, if_false, hm, hf, hr, hv,
    hi, hw, Bool.or_self, Option.getD_some]

end

theorem exec_barArv_runs {s : State} {h : Head} (hr : s.runs h = true) (l : Fin 4) : exec (.barArv h l) s =
    .next (s.arriveCheck l fun v =>
      if v.cmdPending v.cur then
        (v.startL (.barArv h l) h 8 0 [] [] .heldArrival).updOut v.cur fun o =>
          { o with prog := v.phaseOf v.cur (lvlNum l), held := true }
      else (v.arrive v.cur l).doneL h 8 4 (BitVec.ofNat 64 (v.phaseOf v.cur (lvlNum l)))) :=
  issue_runs hr _ _

theorem exec_barSync_runs {s : State} {h : Head} (hr : s.runs h = true) (l : Fin 4) : exec (.barSync h l) s =
    .next (s.arriveCheck l fun v =>
      if v.cmdPending v.cur then
        (v.startL (.barSync h l) h 8 0 [] [] .heldArrival).updOut v.cur fun o =>
          { o with prog := v.phaseOf v.cur (lvlNum l), held := true }
      else ((v.arrive v.cur l).startL (.barSync h l) h 8 0 [] [] .waiting).updOut (v.arrive v.cur l).cur fun o =>
          { o with prog := v.phaseOf v.cur (lvlNum l) }) :=
  issue_runs hr _ _

theorem phaseOf_cur {s : State} {k n : Nat} (h : s.grain.dom k = some n) :
    s.phaseOf s.cur k = (s.domOf s.cur.sheaf n).phase := by
  change (s.domOf s.cur.sheaf ((s.grain.dom k).getD 0)).phase = _
  rw [h, Option.getD_some]

/-- An instruction of class L put in progress, whose entry is then completed. -/
theorem startL_reserves {s : State} (hl : s.lives = true) (i : Instr) (h : Head) (stage : Stage) (f : Out → Out) :
    ReservesL (s.withOut (f ⟨s.freeN + 1, i, s.me.pc, h.dst, 0, false, stage, 0, [], [], 0, none, s.cycle, s.quantumOf s.cur⟩))
      ((s.startL i h 8 0 [] [] stage).updOut s.cur f) h none none 0 8 := by
  rw [State.startL, start_eq_withOut, doneTag_updOut]
  exact doneTag_reserves ((updMe_lives s _).trans hl) h 8 _

/-! ### A held arrival -/

section
variable {s : State} {c : CtxId} {o : Out} {l : Fin 4} (ho : s.outOf c = some o)
include ho

theorem performHeld_missed (hs : o.stage = .heldArrival) (hb : barLevel o.instr = some l) (hm : s.missed c l = true) :
    s.performHeld c = s.missArrival c := by
  simp only [State.performHeld, ho, hs, hb, hm, if_true]

section
variable (hs : o.stage = .heldArrival) (hb : barLevel o.instr = some l) (hm : s.missed c l = false)
include hs hb hm

theorem performHeld_holds (hh : (s.cmdPending c || ((s.grainOf c).getD Grain.zero).arrived[l]) = true) :
    s.performHeld c = s := by
  simp only [State.performHeld, ho, hs, hb, hm, hh, Bool.false_eq_true, if_false, if_true]

variable (hh : (s.cmdPending c || ((s.grainOf c).getD Grain.zero).arrived[l]) = false)
include hh

theorem performHeld_logs (hl : s.combineHeld (fun _ u => u.by_.contains c) = true) :
    s.performHeld c = s.waitLog (s.vdOfCtx c) := by
  simp only [State.performHeld, ho, hs, hb, hm, hh, hl, Bool.false_eq_true, if_false, if_true]

omit hb in
theorem performHeld_arv (hl : s.combineHeld (fun _ u => u.by_.contains c) = false) {b : Head} (hi : o.instr = .barArv b l) :
    s.performHeld c = (s.arrive c l).fixResult c o.tag (BitVec.ofNat 64 (s.phaseOf c (lvlNum l)))
      ((s.arrive c l).cycleOfCtx c + 4) := by
  simp only [State.performHeld, ho, hs, hi, barLevel, hm, hh, hl, Bool.false_eq_true, if_false]

omit hb in
theorem performHeld_sync (hl : s.combineHeld (fun _ u => u.by_.contains c) = false) {b : Head} (hi : o.instr = .barSync b l) :
    s.performHeld c = (s.arrive c l).updOut c fun o =>
      { o with stage := .waiting, held := false, prog := s.phaseOf c (lvlNum l) } := by
  simp only [State.performHeld, ho, hs, hi, barLevel, hm, hh, hl, Bool.false_eq_true, if_false]

end

theorem performHeld_waiting (hs : o.stage = .waiting) (hb : barLevel o.instr = some l) : s.performHeld c =
    if s.phaseOf c (lvlNum l) = o.prog then (if s.missed c l then s.missArrival c else s)
    else s.syncResult c o ((((s.grainOf c).getD Grain.zero).dom (lvlNum l)).getD 0) o.prog := by
  simp only [State.performHeld, ho, hs, hb]

end

theorem missed_iff {s : State} {c : CtxId} {l : Fin 4} :
    s.missed c l = true ↔ l.val + 1 = 4 ∧ (s.sheafOf c.sheaf).gangMissing = true := by
  simp [State.missed, lvlNum]

theorem not_missed {s : State} {c : CtxId} {l : Fin 4} (h : ¬ (l.val + 1 = 4 ∧ (s.sheafOf c.sheaf).gangMissing = true)) :
    s.missed c l = false := Bool.eq_false_iff.mpr fun e => h (missed_iff.mp e)

theorem syncResult_of_not_det {s : State} {c : CtxId} (h : (s.sheafOf c.sheaf).det = false) (o : Out) (dom phase : Nat) :
    s.syncResult c o dom phase = s.fixResult c o.tag (BitVec.ofNat 64 phase) (s.cycleOfCtx c + 2) := by
  have hr : s.raise c 1 dom = s := if_neg (ne_true_of_eq_false h)
  simp only [State.syncResult, hr, ite_self]

/-! ### Tokens -/

theorem exec_barWait_runs {s : State} {h : Head} (hr : s.runs h = true) {a : Src} {l : Fin 4} {n : Nat}
    (hd : s.grain.dom (lvlNum l) = some n) (hf : s.unfence.fenced = false) (ha : s.unfence.acqHeld = false) :
    let d := ((s.domOf s.cur.sheaf n).phase + 2 ^ 32 - bits (s.src 1 a) 31 0) % 2 ^ 32
    exec (.barWait h a l) s = .next (
      if lvlNum l = 4 ∧ s.sheaf.gangMissing = true ∧ (d = 0 ∨ 2 ^ 31 ≤ d) then s.unfence.exact Cause.gangMissing 2
      else if d = 0 then s.unfence.park 4
      else if d = 1 then (s.unfence.settle 1 n).doneL h 8 2 0
      else if d < 2 ^ 31 then (s.unfence.settle 1 n).doneL h 8 2 1
      else s.unfence.exact Cause.barrierToken 1) := by
  have hp : s.unfence.phaseOf s.unfence.cur (lvlNum l) = (s.domOf s.cur.sheaf n).phase := by
    rw [phaseOf_cur (by rw [unfence_grain, hd]), unfence_domOf, unfence_cur]
  intro d
  rw [exec_barWait, execBarWait, issue_runs hr]
  simp only [unfence_grain, hd, hf, ha, hp, Bool.or_self, Bool.false_eq_true, if_false, unfence_sheaf]
  rfl

/-- The result of a token wait stands two cycles later. -/
theorem barWait_reserves {s : State} (hl : s.lives = true) (h : Head) (n : Nat) (v : W64) :
    ReservesL (s.unfence.settle 1 n) ((s.unfence.settle 1 n).doneL h 8 2 v) h (some (s.cycle + 2)) (some v) 0 8 := by
  have hd := doneL_reserves (settle_lives (unfence_lives hl) 1 n) h 8 2 v 0
  rwa [settle_cycle, unfence_cycle] at hd

/-! ### What an arrival at issue does -/

section
variable {s : State} {h : Head} {l : Fin 4} {n : Nat} (hd : s.grain.dom (lvlNum l) = some n)
include hd

theorem settled_phase : (s.unfence.settle 1 n).phaseOf (s.unfence.settle 1 n).cur (lvlNum l) =
    (s.domOf s.cur.sheaf n).phase := by
  rw [phaseOf_cur (by rw [settle_grain, unfence_grain, hd]), settle_domOf, unfence_domOf, settle_cur, unfence_cur]

theorem settled_domAt : domAt (s.unfence.settle 1 n) (s.unfence.settle 1 n).cur l = n := by
  rw [domAt, settle_grainOf, unfence_grainOf, settle_cur, unfence_cur]
  change (s.grain.dom (lvlNum l)).getD 0 = n
  rw [hd, Option.getD_some]

omit hd in
theorem settled_out (hr : s.runs h = true) (ho : s.unfence.rcBusy = false) : (s.unfence.settle 1 n).me.out = none := by
  simp only [State.rcBusy, Bool.or_eq_false_iff, Option.isSome_eq_false_iff, Option.isNone_iff_eq_none] at ho
  exact (settle_me_out (unfence_lives (runs_lives hr)) 1 n).trans ho.1

end

/-- What an arrival changes beside the U lines that it combines (R139, R140, R142). -/
theorem arrive_effect {v : State} {c : CtxId} {l : Fin 4} {n : Nat} (hc : v.cur = c) (hl : v.lives = true)
    (hs : (Tab.find v.sheaves c.sheaf).isSome = true) (hn : domAt v v.cur l = n) (ho : v.me.out = none) :
    let a := v.arrive v.cur l
    let w := v.flushU fun _ u => u.by_.contains v.cur
    let d := w.domOf c.sheaf n
    a.domOf c.sheaf n = { d with arrived := d.arrived + 1, tag := max d.tag (w.quantumOf v.cur) } ∧
      (∀ m, m ≠ n → a.domOf c.sheaf m = w.domOf c.sheaf m) ∧
      (∀ g, w.grainOf c = some g → a.grainOf c = some { g with arrived := g.arrived.set l true }) ∧
      (∀ e, e.sheaf ≠ c.sheaf ∨ e.grain ≠ c.grain → a.grainOf e = w.grainOf e) ∧ a.me = w.me ∧ sameMem w a := by
  subst hc hn
  intro a w d
  have hw : Undisturbed v w := combined_undisturbed v v.cur
  have hq : w.barQuantum v.cur = w.quantumOf v.cur :=
    barQuantum_of_out_none ((congrArg (fun x => Option.bind x Ctx.out) (hw.ctx v.cur)).trans ((outOf_cur_of_lives hl).trans ho))
  have hdom := arrive_domOf v v.cur l hs
  refine ⟨?_, fun m hm => (hdom m).trans (if_neg (Ne.symm hm)), fun g hg => arrive_grainOf_self v v.cur l hg,
    fun e he => arrive_grainOf_ne v v.cur l he, (arrive_me v l).trans hw.me.symm, arrive_mem v v.cur l⟩
  rw [← hq]
  exact (hdom _).trans (if_pos rfl)

/-- Settles O20: the checks of the three instructions in their order, and the arrival part by part. -/
theorem barrierArrivalsAndTokenWaits : Obligations.BarrierArrivalsAndTokenWaits := by
  refine ⟨fun s h l n hr hsh => ?_, fun s c o b l ho hs hi hdet => ?_, fun s h a l n hr => ?_⟩
  · intro k u v p a out gone
    have hl : v.lives = true := settle_lives (unfence_lives (runs_lives hr)) 1 n
    refine ⟨fun hd => ?_, fun hd hg => ?_, fun hd hg hf hrc hv hi hw => ⟨fun ha => ?_, fun ha hc => ?_, fun ha hc => ?_⟩,
      fun c o ho hs hb => ?_⟩
    · rw [exec_barArv_runs hr, exec_barSync_runs hr, arriveCheck_level _ hd, arriveCheck_level _ hd]
      exact ⟨rfl, rfl⟩
    · rw [exec_barArv_runs hr, exec_barSync_runs hr, arriveCheck_missing _ hd hg, arriveCheck_missing _ hd hg]
      exact ⟨rfl, rfl⟩
    · rw [exec_barArv_runs hr, exec_barSync_runs hr, arriveCheck_passes _ hd hg hf hrc hv hi hw,
        arriveCheck_passes _ hd hg hf hrc hv hi hw, if_pos ha, if_pos ha]
      exact ⟨rfl, rfl⟩
    · have hp := settled_phase hd
      have hal : a.lives = true := arrive_lives hl
      rw [exec_barArv_runs hr, exec_barSync_runs hr, arriveCheck_passes _ hd hg hf hrc hv hi hw,
        arriveCheck_passes _ hd hg hf hrc hv hi hw, if_neg (ne_true_of_eq_false ha), if_neg (ne_true_of_eq_false ha),
        if_neg (ne_true_of_eq_false hc), if_neg (ne_true_of_eq_false hc), hp]
      refine ⟨⟨_, rfl, doneL_reserves hal h 8 4 _ 0⟩,
        ⟨_, rfl, startL_reserves hal (.barSync h l) h .waiting fun o => { o with prog := p }⟩, ?_⟩
      have hcur : v.cur = s.cur := by rw [settle_cur, unfence_cur]
      exact arrive_effect hcur hl (by rw [settle_sheaves, unfence_sheaves]; exact hsh) (settled_domAt hd) (settled_out hr hrc)
    · have hp := settled_phase hd
      rw [exec_barArv_runs hr, exec_barSync_runs hr, arriveCheck_passes _ hd hg hf hrc hv hi hw,
        arriveCheck_passes _ hd hg hf hrc hv hi hw, if_neg (ne_true_of_eq_false ha), if_neg (ne_true_of_eq_false ha),
        if_pos hc, if_pos hc, hp]
      exact ⟨⟨_, rfl, startL_reserves hl (.barArv h l) h .heldArrival fun o => { o with prog := p, held := true }⟩,
        _, rfl, startL_reserves hl (.barSync h l) h .heldArrival fun o => { o with prog := p, held := true }⟩
    · intro r missed held
      refine ⟨fun hm => ?_, fun hm hh => ?_, fun hm hc ha hu => ?_, fun hm hc ha hu => ⟨fun b hi => ?_, fun b hi => ?_⟩⟩
      · exact congrArg Host.Outcome.next (performHeld_missed ho hs hb (missed_iff.mpr hm))
      · exact congrArg Host.Outcome.next (performHeld_holds ho hs hb (not_missed hm) (Bool.or_eq_true_iff.mpr hh))
      all_goals have hh : (s.cmdPending c || ((s.grainOf c).getD Grain.zero).arrived[l]) = false := Bool.or_eq_false_iff.mpr ⟨hc, ha⟩
      · exact congrArg Host.Outcome.next (performHeld_logs ho hs hb (not_missed hm) hh hu)
      · exact congrArg Host.Outcome.next (performHeld_arv ho hs (not_missed hm) hh hu hi)
      · exact congrArg Host.Outcome.next (performHeld_sync ho hs (not_missed hm) hh hu hi)
  · intro p missed
    have hb : barLevel o.instr = some l := by rw [hi, barLevel]
    refine ⟨fun hp hm => ?_, fun hp hm => ?_, fun hp => ?_⟩
    all_goals refine congrArg Host.Outcome.next ((performHeld_waiting ho hs hb).trans ?_)
    · exact (if_pos hp).trans (if_neg (ne_true_of_eq_false (not_missed hm)))
    · exact (if_pos hp).trans (if_pos (missed_iff.mpr hm))
    · exact (if_neg hp).trans (syncResult_of_not_det hdet o _ _)
  · intro k u d
    refine ⟨fun hd => ?_, fun hd hf ha => ?_⟩
    · rw [exec_barWait, execBarWait, issue_runs hr]
      have hk : s.unfence.grain.dom (lvlNum l) = none := by rw [unfence_grain]; exact hd
      simp only [hk]
      rfl
    · rw [exec_barWait_runs hr hd hf ha]
      have hl := runs_lives hr
      refine ⟨fun h1 => ?_, fun h2 h3 => ?_, fun hg h0 => ?_, fun hg hb => ?_, fun hk hg hb => ?_⟩
      · rw [if_neg fun ⟨_, _, hb⟩ => by omega, if_neg (by omega), if_pos h1]
        exact ⟨_, rfl, barWait_reserves hl h n 0⟩
      · rw [if_neg fun ⟨_, _, hb⟩ => by omega, if_neg (by omega), if_neg (by omega), if_pos h3]
        exact ⟨_, rfl, barWait_reserves hl h n 1⟩
      · rw [if_neg fun ⟨hk, hm, _⟩ => hg ⟨hk, hm⟩, if_pos h0]
      · rw [if_neg fun ⟨hk, hm, _⟩ => hg ⟨hk, hm⟩, if_neg (by omega), if_neg (by omega), if_neg (by omega)]
      · rw [if_pos ⟨hk, hg, hb⟩]

end Sys2Proof.Proofs
end

section
/-! Engine commands: a place in a ring beyond the 64 bits that a command captures (08 R207, R217). -/

namespace Sys2Proof.Proofs

open Sys2Proof.Machine Sys2Proof.Laws

/-- One context on core 0, whose ring 0 begins at offset 2^64 and whose `g1` names its first byte. -/
def farRing : State := { State.reset with
  ctxs := [(⟨0, 0, 0⟩, { Ctx.zero with g := Ctx.zero.g.set 1 0x00C0_0000 })]
  grains := [((0, 0), { Grain.zero with rings := Grain.zero.rings.set 0 (some ⟨2 ^ 64, 64, 1, 0, 1, 0⟩) })]
  sheaves := [(0, { Sheaf.zero with st := .running, cores := [0] })]
  cores := [(0, { State.reset.coreOf 0 with bankpwr := Vector.replicate 8 0 })] }

/-- A gather of one row of one element of a block format, which has no whole group and so no bytes (R74). -/
def emptyRow : GathArgs := ⟨0, 0, .quad, .rne, false, .raw, .kb8⟩

def farGath : Instr := .gath ⟨.always, .none, 0⟩ (.g 1) (.g 2) (.g 3) (.g 4) emptyRow

def rowRange : Rng := ⟨0x00C0_0000, 2 ^ 64, 0, some 1⟩
def indexRange : Rng := ⟨0, 0, 4, none⟩

theorem farRing_ready : EReady farRing 0 [(0x00C0_0000, 0, 1), (0, 4, 4)] [rowRange, indexRange] 2 where
  level := .inl rfl
  free := by decide
  ranges := by decide
  words := by decide
  ready := by decide
  room := by decide

/-- The range of the row that the gather writes, in the state that it leaves. -/
def gathWrites (o : Out3) : Option (List (Nat × Nat)) :=
  match o with
  | .next t => (t.tileOf 0).gath.map fun c => c.writes
  | _ => none

theorem farGath_writes : gathWrites (exec farGath farRing) = some [(0, 0)] := by decide

/-- Refutes O33: the captured offset of a gather's rows has 64 bits, and the bytes that the command writes are named by it. A
row of a block format with fewer than 32 elements has no bytes, so that no check bounds its place, and where its ring begins
at offset 2^64 the command names offset 0. -/
theorem not_engineCommandsIssueOrTrap : ¬ Obligations.EngineCommandsIssueOrTrap := by
  rintro ⟨⟨-, -, hgath, -⟩, -⟩
  obtain ⟨t, y, hx, hi, hs⟩ := hgath farRing ⟨.always, .none, 0⟩ (.g 1) (.g 2) (.g 3) (.g 4) emptyRow [rowRange] indexRange (2 ^ 64)
    (by decide) farRing_ready rfl (by decide) (by decide) (by decide)
  have htile : t.tiles = y.tiles := (congrArg State.tiles hi.frame.1 :)
  have hw : gathWrites (exec farGath farRing) = some [(2 ^ 64, 0)] := by
    rw [farGath, hx]
    change (Tab.getD t.tiles 0 Tile.zero).gath.map (fun c => c.writes) = _
    rw [htile]
    exact congrArg (fun T : Tile => T.gath.map fun c => c.writes) hs.tile
  rw [farGath_writes] at hw
  exact absurd hw (by decide)

end Sys2Proof.Proofs
end

section
/-! What else leaves the contexts, grains and sheaves undisturbed: accesses of the device, events, circuits (12, 13). -/

namespace Sys2Proof.Proofs

open Sys2Proof.Machine Sys2Proof.Laws

theorem Undisturbed.trans {r s t : State} (h : Undisturbed r s) (k : Undisturbed s t) : Undisturbed r t where
  cur := k.cur.trans h.cur
  freeN := k.freeN.trans h.freeN
  slot := k.slot.trans h.slot
  ctxs := k.ctxs.trans h.ctxs
  grains := k.grains.trans h.grains
  sheaves := k.sheaves.trans h.sheaves
  cycles q := (k.cycles q).trans (h.cycles q)
  accs t := (k.accs t).trans (h.accs t)
  lmem := k.lmem.trans h.lmem
  wbuf := k.wbuf.trans h.wbuf

section
variable {r s : State} (h : Undisturbed r s)
include h

/-! ### Accesses of global memory -/

theorem flushHome_undisturbs {dpa n : Nat} : Undisturbed r (s.flushHome dpa n) := ite_keeps h (h.trans (flushU_undisturbs s _))
theorem waitLog_undisturbs {vd : Nat} : Undisturbed r (s.waitLog vd) := ite_keeps h (updVd_undisturbs h)

theorem flushSoft_undisturbs {vd dpa n : Nat} : Undisturbed r (s.flushSoft vd dpa n) :=
  ite_keeps (waitLog_undisturbs h) (flushHome_undisturbs h)

theorem flushMet_undisturbs {vd : Nat} {met : List Nat} : Undisturbed r (s.flushMet vd met) :=
  ite_keeps h (foldl_keeps h fun _ _ hu => flushSoft_undisturbs hu)

theorem translate_undisturbs {via : Via} {vd : Nat} {va : W64} {k : Acc} : UndisturbedFst r (s.translate via vd va k) :=
  ite_keeps (xlate_undisturbs (flushMet_undisturbs h)) (xlate_undisturbs h)

theorem gread_undisturbs {via : Via} {vd : Nat} {va : W64} {n : Nat} : UndisturbedFst r (s.gread via vd va n) := by
  have hx := translate_undisturbs (via := via) (vd := vd) (va := va) (k := .read) h
  unfold State.gread
  split
  · rename_i e
    rw [e] at hx
    exact hx
  · rename_i t x e
    rw [e] at hx
    have hf : Undisturbed r (t.flushSoft vd x.dpa n) := flushSoft_undisturbs hx
    exact ite_keeps (P := UndisturbedFst r) hf hf

theorem gwrite_undisturbs {via : Via} {vd sid : Nat} {va : W64} {bs : List Byte} :
    UndisturbedFst r (s.gwrite via vd sid va bs) := by
  have hx := translate_undisturbs (via := via) (vd := vd) (va := va) (k := .write) h
  unfold State.gwrite
  split
  · rename_i e
    rw [e] at hx
    exact hx
  · rename_i t x e
    rw [e] at hx
    have hf : Undisturbed r (t.flushHome x.dpa bs.length) := flushHome_undisturbs hx
    exact devWrite_undisturbs (ite_keeps (logLine_undisturbs hf) hf)

theorem gwriteAll_undisturbs {vd sid k : Nat} {va : W64} {bs : List Byte} : Undisturbed r (s.gwriteAll vd sid k va bs) := by
  induction k generalizing s va bs with
  | zero => exact h
  | succ k ih =>
    cases bs with
    | nil => exact h
    | cons b bs => exact ih (gwrite_undisturbs h)

theorem decSignal_undisturbs {vd sid : Nat} {va : W64} : Undisturbed r (s.decSignal vd sid va) := by
  have hx := gread_undisturbs (via := none) (vd := vd) (va := va) (n := 8) h
  unfold State.decSignal
  split
  · rename_i e
    rw [e] at hx
    exact hx
  · rename_i e
    rw [e] at hx
    exact gwrite_undisturbs hx

/-! ### Events -/

theorem eventOut_undisturbs {vd : Nat} {bs : List Byte} : Undisturbed r (s.eventOut vd bs) :=
  ite_keeps h (ite_keeps (updVd_undisturbs h) (updDev_undisturbs (updVd_undisturbs (gwriteAll_undisturbs h))))

theorem postSheaf_undisturbs {n code detail : Nat} {w : W64} : Undisturbed r (s.postSheaf n code detail w) :=
  ite_keeps (eventOut_undisturbs h) (updVd_undisturbs (waitLog_undisturbs h))

/-! ### The save area -/

theorem putArea_undisturbs {vd va : Nat} {m : Mem} {k : Nat} : Undisturbed r (s.putArea vd va m k) := by
  induction k with
  | zero => exact h
  | succ k ih =>
    have hx := translate_undisturbs (via := none) (vd := vd) (va := vaW (va + 4096 * k)) (k := .write) ih
    unfold State.putArea
    dsimp only
    split
    · rename_i e
      rw [e] at hx
      exact hx
    · rename_i e
      rw [e] at hx
      exact frame_undisturbs (flushHome_undisturbs hx)

theorem markLine_undisturbs {vd va : Nat} : Undisturbed r (s.markLine vd va) := by
  have hx := translate_undisturbs (via := none) (vd := vd) (va := vaW va) (k := .write) h
  unfold State.markLine
  split
  · rename_i e
    rw [e] at hx
    exact hx
  · rename_i e
    rw [e] at hx
    exact updDev_undisturbs hx

theorem writeArea_undisturbs {n : Nat} {v w : Saved} : Undisturbed r (s.writeArea n v w) :=
  ite_keeps (putArea_undisturbs h) (foldl_keeps (putArea_undisturbs h) fun _ _ hu => markLine_undisturbs hu)

theorem noteShort_undisturbs {vd : Nat} : Undisturbed r (s.noteShort vd) := ite_keeps h (updVd_undisturbs h)

/-! ### Circuits -/

theorem setTables_undisturbs {ws : List ((Nat × Nat × Nat × Nat) × W64)} : Undisturbed r (s.setTables ws) :=
  frame_undisturbs h

theorem idleEntries_undisturbs {handle : Nat} : Undisturbed r (s.idleEntries handle) :=
  frame_undisturbs (setTables_undisturbs h)

theorem dropCircuit_undisturbs {handle : Nat} : Undisturbed r (s.dropCircuit handle) :=
  updDev_undisturbs (idleEntries_undisturbs h)

theorem dropMem_undisturbs {n : Nat} {tiles : List Nat} : Undisturbed r (s.dropMem n tiles) :=
  foldl_keeps h fun _ _ hu => foldl_keeps hu fun _ _ hv => dropCircuit_undisturbs hv

theorem writeEntries_undisturbs {k : Circuit} : Undisturbed r (s.writeEntries k) :=
  foldl_keeps h fun _ _ hu => updDev_undisturbs hu

theorem reserveCircuit_undisturbs {k : Circuit} {t : State} (e : s.reserveCircuit k = some t) : Undisturbed r t := by
  unfold State.reserveCircuit at e
  dsimp only at e
  split at e
  · exact nomatch e
  · split at e
    · exact nomatch e
    · exact Option.some.inj e ▸ writeEntries_undisturbs (updDev_undisturbs h)

theorem placeCircuit_undisturbs {k : Circuit} {t : State} (e : s.placeCircuit k = some t) : Undisturbed r t := by
  obtain ⟨u, hu, rfl⟩ := Option.map_eq_some_iff.mp e
  exact setTables_undisturbs (reserveCircuit_undisturbs h hu)

theorem placeCircuits_undisturbs {α : Type} {k : α → Circuit} {l : List α} {t : State}
    (e : l.foldl (fun (o : Option State) a => o.bind fun s => s.placeCircuit (k a)) (some s) = some t) : Undisturbed r t := by
  refine foldl_keeps (P := fun o : Option State => ∀ u, o = some u → Undisturbed r u) (fun u hu => Option.some.inj hu ▸ h)
    (fun o a ho u hu => ?_) t e
  obtain ⟨v, hv, hp⟩ := Option.bind_eq_some_iff.mp hu
  exact placeCircuit_undisturbs (ho v hv) hp

theorem placeMem_undisturbs {vd : Nat} {ts : List Nat} {t : State} (e : s.placeMem vd ts = some t) : Undisturbed r t := by
  induction ts generalizing s with
  | nil => exact Option.some.inj e ▸ h
  | cons a ts ih =>
    unfold State.placeMem at e
    split at e
    · exact ih h e
    · split at e
      · exact nomatch e
      · rename_i hp
        exact ih (placeCircuits_undisturbs h hp) e

end

end Sys2Proof.Proofs
end

section
/-! Where a sheaf fits, the order of placement and the age of a waiting sheaf (10 R257, R258, R268). -/

namespace Sys2Proof.Proofs

open Sys2Proof.Machine Sys2Proof.Laws

/-! ### Where a sheaf fits -/

/-- One cluster of the list for each virtual cluster, and none twice. -/
theorem pickClusters_picks {ok : Nat → Nat → Option (List Nat)} {avail vs picked cores : List Nat} {l : List Nat × List Nat}
    (h : pickClusters ok avail vs picked cores = some l) (hn : picked.Nodup) (ha : ∀ c ∈ picked, c ∈ avail) :
    l.1.length = picked.length + vs.length ∧ l.1.Nodup ∧ ∀ c ∈ l.1, c ∈ avail := by
  induction vs generalizing picked cores with
  | nil =>
    obtain rfl := Option.some.inj h
    exact ⟨rfl, hn, ha⟩
  | cons v vs ih =>
    unfold pickClusters at h
    split at h
    · exact nomatch h
    · rename_i c t hc
      obtain ⟨d, hd, he⟩ := List.exists_of_findSome?_eq_some hc
      obtain ⟨x, -, hx⟩ := Option.map_eq_some_iff.mp he
      obtain rfl : d = c := congrArg Prod.fst hx
      rw [List.mem_filter] at hd
      obtain ⟨hda, hdp⟩ := hd
      have hdn : d ∉ picked := by simpa using hdp
      obtain ⟨hl, hnd, hav⟩ := ih h (hn.append (List.nodup_singleton d) (by simpa using hdn))
        fun c hc => (List.mem_append.mp hc).elim (ha c) fun e => List.mem_singleton.mp e ▸ hda
      refine ⟨?_, hnd, hav⟩
      simp only [hl, List.length_append, List.length_cons, List.length_nil]
      omega

theorem fit_places {s : State} {n : Nat} {l : List Nat × List Nat} (h : s.fit n = some l) :
    s.vdUp (s.sheafOf n).vd = true ∧ s.hasTurn (s.sheafOf n).vd = true ∧ l.1.length = (s.sheafOf n).vclusters ∧ l.1.Nodup ∧
      (∀ c ∈ l.1, c ∈ s.shelves (s.sheafOf n)) ∧ s.slotsUsed n [] + (s.sheafOf n).domCount ≤ 16384 := by
  unfold State.fit at h
  dsimp only at h
  split at h
  · exact nomatch h
  · rename_i hc
    simp only [Bool.or_eq_true, Bool.not_eq_true', decide_eq_true_eq, not_or, Bool.not_eq_false, Nat.not_lt] at hc
    obtain ⟨⟨hup, hturn⟩, hslots⟩ := hc
    have hpick (b : Bool) (hb : pickClusters (s.fitCluster n [] b) (s.shelves (s.sheafOf n))
        (List.range (s.sheafOf n).vclusters) [] [] = some l) :=
      pickClusters_picks hb List.nodup_nil fun c hc => absurd hc List.not_mem_nil
    simp only [List.length_nil, Nat.zero_add, List.length_range] at hpick
    rcases Option.or_eq_some_iff.mp h with h | ⟨-, h⟩
    · obtain ⟨hl, hn, ha⟩ := hpick _ h
      exact ⟨hup, hturn, hl, hn, ha, hslots⟩
    · obtain ⟨hl, hn, ha⟩ := hpick _ h
      exact ⟨hup, hturn, hl, hn, ha, hslots⟩

/-- The sheaf that is placed waits for its place, and no earlier one can be bound (R268). -/
theorem chosen_first {s t : State} {n : Nat} (h : s.chosen n = some t) :
    s.waitsPlace n (s.sheafOf n) = true ∧ ∀ m ∈ s.earlier n, s.bound m = none := by
  unfold State.chosen at h
  split at h
  · exact nomatch h
  · rename_i hb
    split at h
    · rename_i hall
      refine ⟨?_, fun m hm => Option.isNone_iff_eq_none.mp (List.all_eq_true.mp hall m hm)⟩
      by_contra hw
      rw [State.bound, Bool.eq_false_iff.mpr hw] at hb
      exact nomatch hb
    · exact nomatch h

/-! ### The age of a waiting sheaf -/

theorem sheafOf_of_find {s : State} {n : Nat} {h : Sheaf} (hf : Tab.find s.sheaves n = some h) : s.sheafOf n = h := by
  rw [State.sheafOf, Tab.getD, hf, Option.getD_some]

/-- A sheaf that is not retired stands in the table. -/
theorem find_of_st {s : State} {n : Nat} (h : (s.sheafOf n).st ≠ .retired) : Tab.find s.sheaves n = some (s.sheafOf n) := by
  cases hf : Tab.find s.sheaves n with
  | none => exact absurd (by rw [State.sheafOf, Tab.getD, hf]; rfl) h
  | some x => rw [sheafOf_of_find hf]

theorem updSheaf_sheafOf_self {s : State} {n : Nat} {h : Sheaf} (hf : Tab.find s.sheaves n = some h) (f : Sheaf → Sheaf) :
    (s.updSheaf n f).sheafOf n = f h :=
  sheafOf_of_find ((tab_find_upd_self _ _ _).trans (by rw [hf, Option.map_some]))

theorem updSheaf_sheafOf_ne (s : State) {n m : Nat} (f : Sheaf → Sheaf) (h : m ≠ n) :
    (s.updSheaf n f).sheafOf m = s.sheafOf m :=
  congrArg (Option.getD · _) (tab_find_upd_ne s.sheaves f (Ne.symm h))

/-- What a request to stop leaves of a running sheaf that nothing has asked yet (R284). -/
def asked (s : State) (m : Nat) (why : StopFor) (k : Sheaf) : Sheaf :=
  { k with stop := why, stopAt := s.slot, stopPhase := (s.domOf m 0).phase }

theorem askStop_frame (s : State) (n : Nat) (why : StopFor) : ∃ h, s.askStop n why = { s with sheaves := h } := by
  unfold State.askStop
  split
  · exact ⟨s.sheaves, rfl⟩
  · exact ⟨_, rfl⟩

theorem askStop_sheafOf (s : State) (n m : Nat) (why : StopFor) : (s.askStop n why).sheafOf m =
    if n = m ∧ (s.sheafOf m).st = .running ∧ (s.sheafOf m).stop = .none then asked s m why (s.sheafOf m) else s.sheafOf m := by
  unfold State.askStop
  split
  · rename_i h
    refine (if_neg ?_).symm
    rintro ⟨rfl, hr, hs⟩
    rcases h with h | h
    · exact h hr
    · exact h hs
  · rename_i h
    simp only [ne_eq, not_or, Decidable.not_not] at h
    obtain ⟨hr, hs⟩ := h
    by_cases e : n = m
    · subst e
      rw [if_pos ⟨rfl, hr, hs⟩, updSheaf_sheafOf_self (find_of_st (by rw [hr]; decide))]
      rfl
    · rw [if_neg fun c => e c.1, updSheaf_sheafOf_ne s _ (Ne.symm e)]

theorem askStops_frame (l : List (Nat × Sheaf)) (s : State) (why : StopFor) :
    ∃ h, l.foldl (fun s e => s.askStop e.1 why) s = { s with sheaves := h } := by
  induction l generalizing s with
  | nil => exact ⟨s.sheaves, rfl⟩
  | cons e l ih =>
    obtain ⟨h, he⟩ := askStop_frame s e.1 why
    obtain ⟨k, hk⟩ := ih (s.askStop e.1 why)
    exact ⟨k, by rw [List.foldl_cons, hk, he]⟩

theorem askStop_domOf (s : State) (n m : Nat) (why : StopFor) : (s.askStop n why).domOf m 0 = s.domOf m 0 := by
  rw [State.domOf, askStop_sheafOf]
  split
  · rfl
  · rfl

theorem asked_askStop (s : State) (n m : Nat) (why : StopFor) (k : Sheaf) :
    asked (s.askStop n why) m why k = asked s m why k := by
  obtain ⟨h, he⟩ := askStop_frame s n why
  rw [asked, asked, askStop_domOf, he]

/-- Every running sheaf of a list is asked to stop, once. -/
theorem askStops_sheafOf (l : List (Nat × Sheaf)) (s : State) (m : Nat) {why : StopFor} (hw : why ≠ .none) :
    (l.foldl (fun s e => s.askStop e.1 why) s).sheafOf m =
      if m ∈ l.map Prod.fst ∧ (s.sheafOf m).st = .running ∧ (s.sheafOf m).stop = .none then asked s m why (s.sheafOf m)
      else s.sheafOf m := by
  induction l generalizing s with
  | nil => exact (if_neg fun h => absurd h.1 List.not_mem_nil).symm
  | cons e l ih =>
    rw [List.foldl_cons, ih, asked_askStop, askStop_sheafOf]
    by_cases hrun : (s.sheafOf m).st = .running ∧ (s.sheafOf m).stop = .none
    · by_cases he : e.1 = m
      · have hstop : (asked s m why (s.sheafOf m)).stop ≠ .none := hw
        simp [he, hrun, hstop]
      · have he' : m ≠ e.1 := Ne.symm he
        simp only [hrun, he, he', and_self, and_true, if_false, List.map_cons, List.mem_cons, false_or]
    · simp only [hrun, and_false, if_false]

/-- The running sheaves whose clusters a waiting sheaf of the same virtual device would use (R268). -/
def movers (s : State) (n : Nat) (h : Sheaf) : List (Nat × Sheaf) :=
  s.sheaves.filter fun e => e.1 != n && e.2.st == .running && e.2.stop == .none && e.2.vd == h.vd &&
    e.2.clusters.any fun c => h.onCluster c

theorem mem_movers {s : State} {n : Nat} {h : Sheaf} {e : Nat × Sheaf} : e ∈ movers s n h ↔ e ∈ s.sheaves ∧ e.1 ≠ n ∧
    e.2.st = .running ∧ e.2.stop = .none ∧ e.2.vd = h.vd ∧ ∃ c ∈ e.2.clusters, ∃ d ∈ h.clusters, d % 96 = c % 96 := by
  simp [movers, Sheaf.onCluster, and_assoc]

/-- In a table that has each key once, an entry is what is found. -/
theorem tab_find_of_mem {κ α : Type} [DecidableEq κ] {t : Tab κ α} (hn : (t.map Prod.fst).Nodup) {e : κ × α} (he : e ∈ t) :
    Tab.find t e.1 = some e.2 := by
  induction t with
  | nil => exact absurd he List.not_mem_nil
  | cons d t ih =>
    rw [List.map_cons, List.nodup_cons] at hn
    obtain ⟨hd, hn⟩ := hn
    rcases List.mem_cons.mp he with rfl | he
    · simp [Tab.find]
    · have hne : d.1 ≠ e.1 := fun c => hd (c ▸ List.mem_map_of_mem he)
      simp only [Tab.find, hne, if_false]
      exact ih hn he

theorem ageStep_young {s : State} {n : Nat} (h : s.slot ≤ (s.sheafOf n).ageFrom + s.ageLimit (s.sheafOf n)) :
    s.ageStep n = s := by
  have hd : decide ((s.sheafOf n).ageFrom + s.ageLimit (s.sheafOf n) < s.slot) = false := decide_eq_false (Nat.not_lt.mpr h)
  simp only [State.ageStep, hd, if_true]

section
variable {s : State} {n : Nat} (h : (s.sheafOf n).ageFrom + s.ageLimit (s.sheafOf n) < s.slot)
include h

theorem ageStep_reserved (hst : (s.sheafOf n).st = .reserved) (hl : (s.sheafOf n).lead = true)
    (hg : (s.sheafOf n).gangWaitPosted = false) : s.ageStep n =
      (s.updSheaf n fun h => { h with gangWaitPosted := true }).postSheaf n 7 (s.sheafOf n).gidx 0 := by
  simp [State.ageStep, decide_eq_true h, hst, hl, hg]

/-- The movers are asked to stop; what an accumulator tile in the way adds is an event and its mark. -/
theorem ageStep_waiting (hw : s.waitsPlace n (s.sheafOf n) = true) (ht : s.hasTurn (s.sheafOf n).vd = true)
    (hst : (s.sheafOf n).st ≠ .reserved) (hc : (s.sheafOf n).clusters ≠ []) :
    let u := (movers s n (s.sheafOf n)).foldl (fun s e => s.askStop e.1 .migrate) s
    s.ageStep n = u ∨ s.ageStep n = (u.updSheaf n fun h => { h with blockedPosted := true }).postSheaf n 3 0 0 := by
  intro u
  have he : s.ageStep n = if u.accBlocked n (s.sheafOf n) ∧ (s.sheafOf n).blockedPosted = false then
      (u.updSheaf n fun h => { h with blockedPosted := true }).postSheaf n 3 0 0 else u := by
    simp only [State.ageStep, decide_eq_true h, hst, hw, ht, List.isEmpty_eq_false_iff.mpr hc, Bool.true_eq_false, if_false,
      Bool.not_true, Bool.or_self, Bool.false_eq_true]
    rfl
  rw [he]
  split
  · exact .inr rfl
  · exact .inl rfl

/-- Among the other sheaves the movers alone change. -/
theorem ageStep_moves (hw : s.waitsPlace n (s.sheafOf n) = true) (ht : s.hasTurn (s.sheafOf n).vd = true)
    (hst : (s.sheafOf n).st ≠ .reserved) (hc : (s.sheafOf n).clusters ≠ []) (hn : (s.sheaves.map Prod.fst).Nodup) :
    (s.ageStep n).ctxs = s.ctxs ∧ (s.ageStep n).grains = s.grains ∧ ∀ m k, Tab.find s.sheaves m = some k → m ≠ n →
      ((m, k) ∈ movers s n (s.sheafOf n) → (s.ageStep n).sheafOf m = asked s m .migrate k) ∧
      ((m, k) ∉ movers s n (s.sheafOf n) → (s.ageStep n).sheafOf m = k) := by
  obtain ⟨hs, hf⟩ := askStops_frame (movers s n (s.sheafOf n)) s .migrate
  have hfold (m : Nat) := askStops_sheafOf (movers s n (s.sheafOf n)) s m (why := .migrate) (by decide)
  have hkeep : (s.ageStep n).ctxs = s.ctxs ∧ (s.ageStep n).grains = s.grains ∧ ∀ m, m ≠ n → (s.ageStep n).sheafOf m =
      ((movers s n (s.sheafOf n)).foldl (fun s e => s.askStop e.1 .migrate) s).sheafOf m := by
    rcases ageStep_waiting h hw ht hst hc with e | e
    · rw [e]
      exact ⟨by rw [hf], by rw [hf], fun m _ => rfl⟩
    · have hp := postSheaf_undisturbs (n := n) (code := 3) (detail := 0) (w := 0)
        (Undisturbed.refl (((movers s n (s.sheafOf n)).foldl (fun s e => s.askStop e.1 .migrate) s).updSheaf n
          fun h => { h with blockedPosted := true }))
      rw [← e] at hp
      refine ⟨hp.ctxs.trans (by rw [hf]; rfl), hp.grains.trans (by rw [hf]; rfl), fun m hm => ?_⟩
      rw [hp.sheafOf, updSheaf_sheafOf_ne _ _ hm]
  obtain ⟨hctx, hgr, hsh⟩ := hkeep
  refine ⟨hctx, hgr, fun m k hk hm => ?_⟩
  have hmem : (m, k) ∈ movers s n (s.sheafOf n) ↔ m ∈ (movers s n (s.sheafOf n)).map Prod.fst := by
    refine ⟨fun e => List.mem_map_of_mem (f := Prod.fst) e, fun e => ?_⟩
    obtain ⟨x, hx, rfl⟩ := List.mem_map.mp e
    have hxk : x.2 = k := Option.some.inj ((tab_find_of_mem hn (mem_movers.mp hx).1).symm.trans hk)
    exact hxk ▸ hx
  have hrun (e : (m, k) ∈ movers s n (s.sheafOf n)) : k.st = .running ∧ k.stop = .none := by
    obtain ⟨-, -, hr, hstop, -⟩ := mem_movers.mp e
    exact ⟨hr, hstop⟩
  rw [hsh m hm, hfold m, sheafOf_of_find hk]
  exact ⟨fun e => if_pos ⟨hmem.mp e, hrun e⟩, fun e => if_neg fun c => e (hmem.mpr c.1)⟩

end

end Sys2Proof.Proofs
end

section
/-! The placement of a sheaf: its grains, its control contexts and the messages of a gang (01 R14; 10 R258, R267, R270). -/

namespace Sys2Proof.Proofs

open Sys2Proof.Machine Sys2Proof.Laws

/-! ### Grains and contexts one after another -/

/-- A grain as it is placed (R14, R37, R262). -/
def newGrain (y : State) (n : Nat) (const : Mem) (g : Nat) : Grain :=
  { Grain.zero with
    core := (y.sheafOf n).coreOf g
    prio := (y.sheafOf n).prio
    dommask := (y.sheafOf n).dommask g
    const := const
    cycle0 := y.cycleOf ((y.sheafOf n).coreOf g / 4) }

theorem placeGrains_frame (y : State) (n : Nat) (const : Mem) (k : Nat) : ∃ gr co,
    (List.range k).foldl (fun s g => s.placeGrain n const g) y = { y with grains := gr, cores := co } ∧
      ∀ g, g < k → Tab.find gr (n, g) = some (newGrain y n const g) := by
  induction k with
  | zero => exact ⟨y.grains, y.cores, rfl, fun g hg => absurd hg (Nat.not_lt_zero g)⟩
  | succ k ih =>
    obtain ⟨gr, co, he, hg⟩ := ih
    refine ⟨Tab.put gr (n, k) (newGrain y n const k), (({ y with grains := gr, cores := co } : State).placeGrain n const k).cores,
      ?_, fun g hlt => ?_⟩
    · rw [List.range_succ, List.foldl_append, he]
      rfl
    · rw [tab_find_put]
      by_cases e : k = g
      · rw [if_pos (by rw [e]), e]
      · rw [if_neg fun c => e (congrArg Prod.snd c), hg g (by omega)]

theorem startGrains_frame (s : State) (n : Nat) : ∃ c, s.startGrains n = { s with ctxs := c } ∧
    (∀ g, g < (s.sheafOf n).grains → Tab.find c ⟨n, g, 0⟩ = some (Ctx.control (s.sheafOf n).entry (s.sheafOf n).args g
      (s.cycleOf ((s.sheafOf n).coreOf g / 4)))) ∧
    ∀ d : CtxId, d.sheaf ≠ n ∨ d.ctx ≠ 0 ∨ (s.sheafOf n).grains ≤ d.grain → Tab.find c d = s.ctx d := by
  unfold State.startGrains
  generalize s.sheafOf n = h
  dsimp only
  induction h.grains with
  | zero => exact ⟨s.ctxs, rfl, fun g hg => absurd hg (Nat.not_lt_zero g), fun d _ => rfl⟩
  | succ k ih =>
    obtain ⟨c, he, hg, ho⟩ := ih
    refine ⟨Tab.put c ⟨n, k, 0⟩ (Ctx.control h.entry h.args k (s.cycleOf (h.coreOf k / 4))), ?_, fun g hlt => ?_, fun d hd => ?_⟩
    · rw [List.range_succ, List.foldl_append, he]
      rfl
    · rw [tab_find_put]
      by_cases e : k = g
      · rw [if_pos (by rw [e]), e]
      · rw [if_neg fun c => e (congrArg CtxId.grain c), hg g (by omega)]
    · rw [tab_find_put_ne, ho d]
      · omega
      · rintro rfl
        rcases hd with hd | hd | hd
        · exact hd rfl
        · exact hd rfl
        · exact absurd hd (by simp)

/-! ### The control context of a grain -/

theorem args_getD (h : Sheaf) {i : Nat} (hi : i < 8) : h.args.getD i 0 = h.word (0x40 + 8 * i) := by
  simp [Sheaf.args, hi]

/-- The values of R14 in a control context at its start. -/
theorem control_starts (k : Sheaf) (g cycle : Nat) :
    let x := Ctx.control k.entry k.args g cycle
    x.pc = k.word 0 ∧ x.vl = 64 ∧ x.depth = 0 ∧ x.pv = false ∧
      x.handler = false ∧ x.aflags = 0 ∧ x.amask = 0 ∧ x.lcnt = 0 ∧ x.trapcause = 0 ∧ x.q = Vector.replicate 16 0 ∧
      x.a = Vector.replicate 8 0 ∧ x.as_ = Vector.replicate 8 0 ∧ x.pend = [] ∧ x.out = none ∧
      (∀ i : Fin 16, x.g[i] = if i.val < 8 then 0 else k.word (0x40 + 8 * (i.val - 8))) ∧
      ∀ i : Fin 64, x.lfsr[i] = 0x5EED_0000 ^^^ BitVec.ofNat 32 (g * 2 ^ 16) ^^^ BitVec.ofNat 32 i.val := by
  refine ⟨rfl, rfl, rfl, rfl, rfl, rfl, rfl, rfl, rfl, rfl, rfl, rfl, rfl, rfl, fun i => ?_, fun i => ?_⟩
  · simp only [Ctx.control, Fin.getElem_fin, Vector.getElem_ofFn]
    split
    · rfl
    · exact args_getD k (by omega)
  · simp [Ctx.control, lfsrSeed]

/-! ### The first image of a checkpoint -/

theorem firstImage_skips {s : State} {n : Nat} (h : (s.sheafOf n).ckpt.isSome = true ∨ (s.sheafOf n).gangT.isSome = true ∨
    (s.sheafOf n).st ≠ .running) : s.firstImage n = s := by
  refine if_pos ?_
  simp only [Bool.or_eq_true, decide_eq_true_eq]
  rcases h with h | h | h
  · exact .inl (.inl h)
  · exact .inl (.inr h)
  · exact .inr h

/-- The first image changes the sheaf's own record of it, and the memory that holds it. -/
theorem firstImage_frame (s : State) (n : Nat) : ∃ u, Undisturbed s u ∧
    (s.firstImage n = u ∨ ∃ v q, s.firstImage n = u.updSheaf n fun h => { h with ckpt := some v, ckptSeq := q }) := by
  unfold State.firstImage
  dsimp only
  split
  · exact ⟨s, Undisturbed.refl s, .inl rfl⟩
  · exact ⟨_, writeArea_undisturbs (noteShort_undisturbs (Undisturbed.refl s)), .inr ⟨_, _, rfl⟩⟩

/-- A running sheaf runs on, and no context and no grain changes. -/
theorem firstImage_runs_on {s : State} {n : Nat} (h : (s.sheafOf n).st = .running) : ((s.firstImage n).sheafOf n).st = .running ∧
    (s.firstImage n).ctxs = s.ctxs ∧ (s.firstImage n).grains = s.grains := by
  obtain ⟨u, hu, he⟩ := firstImage_frame s n
  have hst : (u.sheafOf n).st = .running := by rw [hu.sheafOf, h]
  rcases he with he | ⟨v, q, he⟩
  · rw [he]
    exact ⟨hst, hu.ctxs, hu.grains⟩
  · rw [he]
    refine ⟨?_, hu.ctxs, hu.grains⟩
    rw [updSheaf_sheafOf_self (find_of_st (by rw [hst]; decide))]
    exact hst

/-! ### Placement -/

/-- The state with the grains of a sheaf placed, before its state changes. -/
def grainsPlaced (y : State) (n : Nat) (const : Mem) : State :=
  ((List.range (y.sheafOf n).grains).foldl (fun s g => s.placeGrain n const g) y).updSheaf n fun h => { h with doms := [] }

theorem placeNew_places {s b y : State} {n : Nat} {const : Mem} (hst : (s.sheafOf n).st = .pending)
    (hb : s.chosen n = some b) (hi : b.constImage n = (y, .ok const)) : s.placeNew n =
      if (y.sheafOf n).gang = true then
        (((grainsPlaced y n const).updSheaf n fun h => { h with st := .reserved }).gangTell (y.sheafOf n) 0).gangLead n
      else ((grainsPlaced y n const).updSheaf n fun h => { h with st := .running }).startGrains n := by
  simp only [State.placeNew, hst, ne_eq, not_true, if_false, hb, hi]
  rfl

theorem placeNew_skips {s : State} {n : Nat} (h : (s.sheafOf n).st ≠ .pending ∨ s.chosen n = none) : s.placeNew n = s := by
  unfold State.placeNew
  split
  · rfl
  · rename_i hp
    rcases h with h | h
    · exact absurd h hp
    · rw [h]

section
variable {y : State} {n : Nat} {const : Mem} (hy : (Tab.find y.sheaves n).isSome = true)
include hy

/-- The sheaf in its new state, with its grains. -/
theorem grainsPlaced_frame (st : SheafSt) : ∃ gr co sh,
    (grainsPlaced y n const).updSheaf n (fun h => { h with st := st }) = { y with grains := gr, cores := co, sheaves := sh } ∧
      Tab.find sh n = some { y.sheafOf n with doms := [], st := st } ∧
      ∀ g, g < (y.sheafOf n).grains → Tab.find gr (n, g) = some (newGrain y n const g) := by
  obtain ⟨x, hx⟩ := Option.isSome_iff_exists.mp hy
  obtain ⟨gr, co, he, hg⟩ := placeGrains_frame y n const (y.sheafOf n).grains
  refine ⟨gr, co, Tab.upd (Tab.upd y.sheaves n fun h => { h with doms := [] }) n fun h => { h with st := st }, ?_, ?_, hg⟩
  · rw [grainsPlaced, he]
    rfl
  · rw [sheafOf_of_find hx]
    exact (tab_find_upd_self _ _ _).trans (by rw [tab_find_upd_self, hx]; rfl)

/-- The grains of a sheaf that is not a gang's start at once. -/
theorem startGrains_starts : let k := y.sheafOf n
    let t := (((grainsPlaced y n const).updSheaf n fun h => { h with st := .running }).startGrains n).firstImage n
    (t.sheafOf n).st = .running ∧
      (∀ g, g < k.grains → ∃ c, t.ctx ⟨n, g, 0⟩ = some (Ctx.control k.entry k.args g c)) ∧
      (∀ c : CtxId, c.sheaf ≠ n ∨ c.ctx ≠ 0 ∨ k.grains ≤ c.grain → t.ctx c = y.ctx c) ∧
      ∀ g, g < k.grains → Tab.find t.grains (n, g) = some (newGrain y n const g) := by
  intro k t
  obtain ⟨gr, co, sh, hu, hn, hg⟩ := grainsPlaced_frame (const := const) hy .running
  obtain ⟨c, hc, hstart, hother⟩ := startGrains_frame ({ y with grains := gr, cores := co, sheaves := sh } : State) n
  have hs : ({ y with grains := gr, cores := co, sheaves := sh } : State).sheafOf n = { k with doms := [], st := .running } :=
    sheafOf_of_find hn
  rw [hs] at hstart hother
  have ht : t = (({ y with grains := gr, cores := co, sheaves := sh, ctxs := c } : State)).firstImage n :=
    (congrArg (fun v : State => (v.startGrains n).firstImage n) hu).trans (congrArg (State.firstImage · n) hc)
  have hrun : (({ y with grains := gr, cores := co, sheaves := sh, ctxs := c } : State).sheafOf n).st = .running :=
    congrArg Sheaf.st hs
  obtain ⟨hst, hctx, hgr⟩ := firstImage_runs_on hrun
  rw [← ht] at hst hctx hgr
  clear_value t
  refine ⟨hst, fun g hlt => ⟨y.cycleOf (k.coreOf g / 4), ?_⟩, fun d hd => ?_, fun g hlt => ?_⟩
  · exact (congrArg (Tab.find · _) hctx).trans (hstart g hlt)
  · exact (congrArg (Tab.find · _) hctx).trans (hother d hd)
  · exact (congrArg (Tab.find · _) hgr).trans (hg g hlt)

/-- A gang's sheaf is RESERVED, and the leader that has heard every member commits. -/
theorem gangLead_reserves : let k := y.sheafOf n
    let t := ((((grainsPlaced y n const).updSheaf n fun h => { h with st := .reserved }).gangTell k 0).gangLead n).firstImage n
    t.ctxs = y.ctxs ∧ (t.sheafOf n).st = (if k.lead = true ∧ k.gangRes.length = y.gangPkgs k then .running else .reserved) ∧
      (5, BitVec.ofNat 64 (k.sheafid * 4)) ∈ t.dev.toHost := by
  intro k t
  obtain ⟨gr, co, sh, hu, hn, -⟩ := grainsPlaced_frame (const := const) hy .reserved
  let v : State := ({ y with grains := gr, cores := co, sheaves := sh } : State).gangTell k 0
  have hv : v.sheafOf n = { k with doms := [], st := .reserved } := sheafOf_of_find hn
  have hmem : (5, BitVec.ofNat 64 (k.sheafid * 4)) ∈ v.dev.toHost := List.mem_append_right _ (List.mem_singleton.mpr rfl)
  have ht : t = (v.gangLead n).firstImage n :=
    congrArg (fun v : State => ((v.gangTell k 0).gangLead n).firstImage n) hu
  by_cases hc : k.lead = true ∧ k.gangRes.length = y.gangPkgs k
  · obtain ⟨T, hl⟩ : ∃ T, v.gangLead n = ((v.commit n T).gangTell { k with doms := [], st := .reserved } 3).tell 10
        (BitVec.ofNat 64 T) := by
      unfold State.gangLead
      rw [hv]
      exact ⟨_, if_pos ⟨rfl, hc⟩⟩
    have hcom : (v.gangLead n).sheafOf n = { k with doms := [], st := .running, gangT := some T } := by
      rw [hl]
      exact updSheaf_sheafOf_self (s := v) hn _
    have hi : (v.gangLead n).firstImage n = v.gangLead n := firstImage_skips (.inr (.inl (by rw [hcom]; rfl)))
    rw [ht, hi, if_pos hc, hcom, hl]
    exact ⟨rfl, rfl, List.mem_append_left _ (List.mem_append_left _ hmem)⟩
  · have hl : v.gangLead n = v := by
      unfold State.gangLead
      rw [hv]
      exact if_neg fun ⟨_, h1, h2⟩ => hc ⟨h1, h2⟩
    have hi : v.firstImage n = v := firstImage_skips (.inr (.inr fun e => SheafSt.noConfusion ((congrArg Sheaf.st hv).symm.trans e)))
    rw [ht, hl, hi, if_neg hc, hv]
    exact ⟨rfl, rfl, hmem⟩

end

end Sys2Proof.Proofs
end

section
/-! The retirement of a sheaf (10 R272; 07 R186; 11 R296). -/

namespace Sys2Proof.Proofs

open Sys2Proof.Machine Sys2Proof.Laws

/-! ### The poll of waiting sheaves -/

/-- Contexts, grains, accumulator entries and the local memories stand as they were, and so does one sheaf. -/
structure Spared (n : Nat) (r s : State) : Prop where
  ctxs : s.ctxs = r.ctxs
  grains : s.grains = r.grains
  accs : ∀ t, (s.tileOf t).acc = (r.tileOf t).acc
  lmem : s.lmem = r.lmem
  wbuf : s.wbuf = r.wbuf
  sheaf : s.sheafOf n = r.sheafOf n

theorem Spared.trans_undisturbed {n : Nat} {r s t : State} (h : Spared n r s) (k : Undisturbed s t) : Spared n r t where
  ctxs := k.ctxs.trans h.ctxs
  grains := k.grains.trans h.grains
  accs u := (k.accs u).trans (h.accs u)
  lmem := k.lmem.trans h.lmem
  wbuf := k.wbuf.trans h.wbuf
  sheaf := (k.sheafOf n).trans h.sheaf

theorem Spared.updSheaf {n m : Nat} {r s : State} (h : Spared n r s) (f : Sheaf → Sheaf) (hm : n ≠ m) :
    Spared n r (s.updSheaf m f) :=
  { h with sheaf := (updSheaf_sheafOf_ne s f hm).trans h.sheaf }

theorem pollWait_spares {n : Nat} {r s : State} (h : Spared n r s) (hn : (r.sheafOf n).st ≠ .waitsig) (m : Nat) :
    Spared n r (s.pollWait m) := by
  unfold State.pollWait
  dsimp only
  split
  · exact h
  · rename_i hw
    have hm : n ≠ m := by
      rintro rfl
      exact hw (h.sheaf ▸ hn)
    have hr (f : Sheaf → Sheaf) : Spared n r ((s.gread none (s.sheafOf m).vd (s.sheafOf m).waitVa 8).1.updSheaf m f) :=
      (h.trans_undisturbed (gread_undisturbs (Undisturbed.refl s))).updSheaf f hm
    split
    · exact ite_keeps ((hr _).updSheaf _ hm) (hr _)
    · exact hr _

theorem pollVd_spares {n : Nat} {s : State} (hn : (s.sheafOf n).st ≠ .waitsig) (vd : Nat) : Spared n s (s.pollVd vd) :=
  foldl_keeps ⟨rfl, rfl, fun _ => rfl, rfl, rfl, rfl⟩ fun _ _ hu => ite_keeps (pollWait_spares hu hn _) hu

/-! ### The units of a sheaf that ends -/

/-- The state once the units of a sheaf are released and it is retired. -/
def unitsEnded (s : State) (n : Nat) : State :=
  ({ (s.releaseUnits n).freeAccs n with
    tiles := ((s.releaseUnits n).freeAccs n).tiles.map fun t => (t.1, { t.2 with
      mutex := t.2.mutex.map fun m => if m.any fun c => c.sheaf == n then none else m }) } : State).updSheaf n fun h =>
    { h with st := .retired, circuits := [], doms := [], tasks := [], area := none, saved := none, ckpt := none, stop := .none }

/-- What a sheaf that ends leaves of its accumulator entries. -/
def accLeft (n : Nat) (a : AccState) : AccState := if a.sheaf == some n && !a.isSpilled then .free else a

theorem accLeft_spilled {n : Nat} {a : AccState} (h : (accLeft n a).sheaf = some n) : (accLeft n a).isSpilled = true := by
  unfold accLeft at h ⊢
  split at h
  · exact nomatch h
  · rename_i hc
    rw [if_neg hc]
    simpa [h] using hc

section
variable (s : State) (n : Nat)

theorem releaseUnits_undisturbed : ∃ d, Undisturbed s d ∧ s.releaseUnits n = { d with
    ctxs := s.ctxs.filter fun e => e.1.sheaf != n
    grains := s.grains.filter fun e => e.1.1 != n
    sheaves := Tab.upd s.sheaves n fun h => { h with
      clusters := [], cores := [], tasks := h.tasks.filter fun r => r.ends } } := by
  have hd : Undisturbed s (s.dropMem n (s.sheafOf n).tiles) := dropMem_undisturbs (Undisturbed.refl s)
  refine ⟨_, hd, ?_⟩
  unfold State.releaseUnits
  dsimp only
  rw [hd.ctxs, hd.grains, hd.sheaves]

theorem unitsEnded_ctx (c : CtxId) : (unitsEnded s n).ctx c = if c.sheaf = n then none else s.ctx c := by
  obtain ⟨d, -, he⟩ := releaseUnits_undisturbed s n
  have hc : (unitsEnded s n).ctxs = s.ctxs.filter fun e => e.1.sheaf != n := by
    change (s.releaseUnits n).ctxs = _
    rw [he]
  rw [State.ctx, hc, tab_find_filter_key s.ctxs fun k => k.sheaf != n]
  by_cases e : c.sheaf = n
  · simp [e]
  · simp [e, State.ctx]

theorem unitsEnded_grain (m g : Nat) : Tab.find (unitsEnded s n).grains (m, g) = if m = n then none else Tab.find s.grains (m, g) := by
  obtain ⟨d, -, he⟩ := releaseUnits_undisturbed s n
  have hg : (unitsEnded s n).grains = s.grains.filter fun e => e.1.1 != n := by
    change (s.releaseUnits n).grains = _
    rw [he]
  rw [hg, tab_find_filter_key s.grains fun k => k.1 != n]
  by_cases e : m = n
  · simp [e]
  · simp [e]

theorem unitsEnded_mem : (unitsEnded s n).lmem = s.lmem ∧ (unitsEnded s n).wbuf = s.wbuf := by
  obtain ⟨d, hd, he⟩ := releaseUnits_undisturbed s n
  change (s.releaseUnits n).lmem = _ ∧ (s.releaseUnits n).wbuf = _
  rw [he]
  exact ⟨hd.lmem, hd.wbuf⟩

theorem unitsEnded_acc (tile : Nat) (a : Fin 64) : ∃ x : AccState, ((unitsEnded s n).tileOf tile).acc[a] = accLeft n x := by
  have ht : (unitsEnded s n).tiles = ((s.releaseUnits n).tiles.map fun t => (t.1, { t.2 with
      acc := t.2.acc.map (accLeft n) })).map fun t => (t.1, { t.2 with
      mutex := t.2.mutex.map fun m => if m.any fun c => c.sheaf == n then none else m }) := rfl
  rw [State.tileOf, Tab.getD, ht, tab_find_mapVal, tab_find_mapVal]
  cases Tab.find (s.releaseUnits n).tiles tile with
  | none => exact ⟨.free, by simp [Tile.zero, accLeft, AccState.sheaf]⟩
  | some x => exact ⟨x.acc[a], by simp⟩

theorem unitsEnded_sheafOf {h : Sheaf} (hf : Tab.find s.sheaves n = some h) : ((unitsEnded s n).sheafOf n).st = .retired ∧
    ((unitsEnded s n).sheafOf n).clusters = [] ∧ ((unitsEnded s n).sheafOf n).circuits = [] := by
  obtain ⟨d, -, he⟩ := releaseUnits_undisturbed s n
  have hr : Tab.find (s.releaseUnits n).sheaves n =
      some { h with clusters := [], cores := [], tasks := h.tasks.filter fun r => r.ends } := by
    rw [he]
    exact (tab_find_upd_self _ _ _).trans (by rw [hf, Option.map_some])
  have hs := sheafOf_of_find (s := unitsEnded s n) ((tab_find_upd_self _ _ _).trans (congrArg (Option.map _) hr))
  rw [hs]
  exact ⟨rfl, rfl, rfl⟩

end

/-! ### The end of a sheaf -/

/-- Before the units are released, the U lines are combined and the circuits dropped. -/
theorem endSheaf_steps (s : State) (n : Nat) : ∃ u x, Undisturbed s u ∧ Undisturbed (unitsEnded u n) x ∧
    s.endSheaf n = x.pollVd (s.sheafOf n).vd := by
  have hu : Undisturbed s ((s.sheafOf n).circuits.foldl (fun s k => s.dropCircuit k)
      (s.flushU fun _ u => u.by_.any fun c => c.sheaf == n)) :=
    foldl_keeps (flushU_undisturbs s _) fun _ _ h => dropCircuit_undisturbs h
  refine ⟨_, _, hu, ?_, rfl⟩
  have hd (v : State) : Undisturbed v (if (s.sheafOf n).sigVa = 0 then v
      else v.decSignal (s.sheafOf n).vd (s.sheafOf n).sheafid (s.sheafOf n).sigVa) :=
    ite_keeps (Undisturbed.refl v) (decSignal_undisturbs (Undisturbed.refl v))
  exact ite_keeps (postSheaf_undisturbs (hd _)) (hd _)

/-- What is left of a sheaf after its retirement, and what of the others. -/
theorem endSheaf_ends {s : State} {n : Nat} {h : Sheaf} (hf : Tab.find s.sheaves n = some h) : let t := s.endSheaf n
    (t.sheafOf n).st = .retired ∧ (t.sheafOf n).clusters = [] ∧ (t.sheafOf n).circuits = [] ∧
      (∀ c : CtxId, c.sheaf = n → t.ctx c = none) ∧ (∀ c : CtxId, c.sheaf ≠ n → t.ctx c = s.ctx c) ∧
      (∀ g, Tab.find t.grains (n, g) = none) ∧
      (∀ m g, m ≠ n → Tab.find t.grains (m, g) = Tab.find s.grains (m, g)) ∧ t.lmem = s.lmem ∧ t.wbuf = s.wbuf ∧
      ∀ tile, ∀ a : Fin 64, ((t.tileOf tile).acc[a]).sheaf = some n → ((t.tileOf tile).acc[a]).isSpilled = true := by
  obtain ⟨u, x, hu, hx, he⟩ := endSheaf_steps s n
  obtain ⟨hst, hcl, hci⟩ := unitsEnded_sheafOf u n (hu.sheaves ▸ hf)
  obtain ⟨hlm, hwb⟩ := unitsEnded_mem u n
  have hp := pollVd_spares (n := n) (s := x) (by rw [hx.sheafOf, hst]; decide) (s.sheafOf n).vd
  intro t
  have ht : t = x.pollVd (s.sheafOf n).vd := he
  clear_value t
  subst ht
  have hctx (c : CtxId) : (x.pollVd (s.sheafOf n).vd).ctx c = if c.sheaf = n then none else s.ctx c := by
    rw [State.ctx, hp.ctxs, hx.ctxs, ← hu.ctx]
    exact unitsEnded_ctx u n c
  have hgr (m g : Nat) : Tab.find (x.pollVd (s.sheafOf n).vd).grains (m, g) =
      if m = n then none else Tab.find s.grains (m, g) := by
    rw [hp.grains, hx.grains, ← hu.grains]
    exact unitsEnded_grain u n m g
  refine ⟨?_, ?_, ?_, fun c hc => (hctx c).trans (if_pos hc), fun c hc => (hctx c).trans (if_neg hc),
    fun g => (hgr n g).trans (if_pos rfl), fun m g hm => (hgr m g).trans (if_neg hm), ?_, ?_, fun tile a hs => ?_⟩
  · rw [hp.sheaf, hx.sheafOf, hst]
  · rw [hp.sheaf, hx.sheafOf, hcl]
  · rw [hp.sheaf, hx.sheafOf, hci]
  · rw [hp.lmem, hx.lmem, hlm, hu.lmem]
  · rw [hp.wbuf, hx.wbuf, hwb, hu.wbuf]
  · obtain ⟨e, ha⟩ := unitsEnded_acc u n tile a
    have hacc : ((x.pollVd (s.sheafOf n).vd).tileOf tile).acc[a] = accLeft n e := by
      rw [hp.accs, hx.accs]
      exact ha
    rw [hacc] at hs ⊢
    exact accLeft_spilled hs

end Sys2Proof.Proofs
end

section
/-! The migration of a sheaf: what the move of its tiles does to its contexts and grains (09 R256; 10 R268, R269). -/

namespace Sys2Proof.Proofs

open Sys2Proof.Machine Sys2Proof.Laws

/-! ### One tile -/

/-- The contexts, grains, sheaves and quads of a state stand in another. -/
structure SameTables (r s : State) : Prop where
  ctxs : s.ctxs = r.ctxs
  grains : s.grains = r.grains
  sheaves : s.sheaves = r.sheaves
  quads : s.quads = r.quads

theorem serve_same (s : State) (vd tile : Nat) : SameTables s (s.serve vd tile) := by
  unfold State.serve
  dsimp only
  split
  · exact ⟨rfl, rfl, rfl, rfl⟩
  · rw [clearTile_frame]
    exact ⟨rfl, rfl, rfl, rfl⟩

/-- A grain whose tile moves: its core in the new tile, its cycle count taken along, its queued commands parked (R256). -/
def grainMoved (cyc : Nat → Nat) (b : Nat) (x : Grain) : Grain :=
  { x with
    core := 8 * b + x.core % 8
    cycle0 := x.cycle0 + (cyc ((8 * b + x.core % 8) / 4) : Int) - (cyc (x.core / 4) : Int)
    mq := x.mq.map MCmd.parked }

/-- A table whose values are changed where a condition holds. -/
theorem tab_map_ite {κ α : Type} (t : Tab κ α) (p : κ × α → Prop) [DecidablePred p] (f : κ × α → α) :
    (t.map fun e => if p e then (e.1, f e) else e) = t.map fun e => (e.1, if p e then f e else e.2) := by
  refine List.map_congr_left fun e _ => ?_
  split
  · rfl
  · rfl

theorem moveTile_tables (s : State) (n a b : Nat) : SameTables { s with
    ctxs := s.ctxs.map fun e => (e.1, if e.1.sheaf = n ∧ s.coreOfCtx e.1 / 8 = a
      then e.2.again (s.cycleOf ((8 * b + s.coreOfCtx e.1 % 8) / 4)) else e.2)
    grains := s.grains.map fun e =>
      (e.1, if e.1.1 = n ∧ (e.2.core / 8 == a) = true then grainMoved s.cycleOf b e.2 else e.2) } (s.moveTile n a b) := by
  rw [← tab_map_ite, ← tab_map_ite]
  exact foldl_keeps ⟨rfl, rfl, rfl, rfl⟩ fun _ _ h => ⟨h.ctxs, h.grains, h.sheaves, h.quads⟩

/-! ### The tiles of a virtual cluster -/

theorem again_again (x : Ctx) (k j : Nat) : (x.again k).again j = x.again j := by
  have hs : ((x.saved.map fun o => { o with due := o.due.map fun _ => 0 }).map fun o => { o with due := o.due.map fun _ => 0 }) =
      x.saved.map fun o : Out => { o with due := o.due.map fun _ => 0 } := by
    cases x.saved with
    | none => rfl
    | some o => cases h : o.due <;> simp [h]
  exact congrArg (fun o : Option Out => { x.again j with saved := o }) hs

theorem parked_parked (c : MCmd) : c.parked.parked = c.parked := by
  cases h : c.due <;> simp [MCmd.parked, h]

theorem grainMoved_core (cyc : Nat → Nat) (b : Nat) (x : Grain) : (grainMoved cyc b x).core / 8 = b ∧
    (grainMoved cyc b x).core % 8 = x.core % 8 := by
  simp only [grainMoved]
  omega

/-- A grain that is in its place stays as it is. -/
theorem grainMoved_twice (cyc : Nat → Nat) (b : Nat) (x : Grain) : grainMoved cyc b (grainMoved cyc b x) = grainMoved cyc b x := by
  have hc : 8 * b + (grainMoved cyc b x).core % 8 = (grainMoved cyc b x).core := by
    obtain ⟨h1, h2⟩ := grainMoved_core cyc b x
    omega
  have hq : (grainMoved cyc b x).mq.map MCmd.parked = (grainMoved cyc b x).mq := by
    simp [grainMoved, parked_parked]
  generalize hy : grainMoved cyc b x = y at hc hq
  rw [grainMoved, hc, hq, add_sub_cancel_right]

/-- A grain of a sheaf whose tiles `l` move by `f`. -/
def grainAfter (cyc : Nat → Nat) (f : Nat → Nat) (l : List Nat) (x : Grain) : Grain :=
  if x.core / 8 ∈ l then grainMoved cyc (f (x.core / 8)) x else x

/-- The tiles `l` of the sheaf `n` have moved by `f`: no other sheaf's context changes, and those of its own that stood on them
begin again. -/
structure TilesMoved (n : Nat) (f : Nat → Nat) (l : List Nat) (s t : State) : Prop where
  others : ∀ c : CtxId, c.sheaf ≠ n → t.ctx c = s.ctx c
  moved : ∀ c x, c.sheaf = n → s.ctx c = some x → s.coreOfCtx c / 8 ∈ l → ∃ k, t.ctx c = some (x.again k)
  unmoved : ∀ c x, c.sheaf = n → s.ctx c = some x → s.coreOfCtx c / 8 ∉ l → t.ctx c = some x
  grains : ∀ g, Tab.find t.grains (n, g) = (Tab.find s.grains (n, g)).map (grainAfter s.cycleOf f l)
  cycles : t.cycleOf = s.cycleOf

theorem moveTile_moves (s : State) (n vd a : Nat) (f : Nat → Nat) :
    TilesMoved n f [a] s ((s.serve vd (f a)).moveTile n a (f a)) := by
  have hv := serve_same s vd (f a)
  generalize s.serve vd (f a) = v at hv
  have hm := moveTile_tables v n a (f a)
  generalize v.moveTile n a (f a) = t at hm
  have hcyc : v.cycleOf = s.cycleOf := funext fun q => congrArg (fun t : Tab Nat Quad => (Tab.getD t q Quad.zero).cycle) hv.quads
  have hcore (c : CtxId) : v.coreOfCtx c = s.coreOfCtx c :=
    congrArg (fun t : Tab (Nat × Nat) Grain => ((Tab.find t (c.sheaf, c.grain)).getD Grain.zero).core) hv.grains
  have hctx (c : CtxId) : t.ctx c = (s.ctx c).map fun x => if c.sheaf = n ∧ s.coreOfCtx c / 8 = a
      then x.again (s.cycleOf ((8 * f a + s.coreOfCtx c % 8) / 4)) else x := by
    rw [State.ctx, hm.ctxs, tab_find_mapVal, hv.ctxs, hcyc]
    simp only [hcore]
    rfl
  refine ⟨fun c hc => ?_, fun c x hc hx ha => ?_, fun c x hc hx ha => ?_, fun g => ?_, ?_⟩
  · simp only [hctx, hc, false_and, if_false, Option.map_id']
  · exact ⟨_, by rw [hctx, hx, Option.map_some, if_pos ⟨hc, List.mem_singleton.mp ha⟩]⟩
  · rw [hctx, hx, Option.map_some, if_neg fun e => ha (List.mem_singleton.mpr e.2)]
  · rw [hm.grains, tab_find_mapVal, hv.grains, hcyc]
    refine congrArg (fun k => Option.map k (Tab.find s.grains (n, g))) (funext fun x => ?_)
    simp only [grainAfter, List.mem_singleton, beq_iff_eq, true_and]
    split
    · rename_i e
      rw [e]
    · rfl
  · refine Eq.trans (funext fun q => ?_) hcyc
    exact congrArg (fun t : Tab Nat Quad => (Tab.getD t q Quad.zero).cycle) hm.quads

theorem coreOfCtx_of_grains {s t : State} {c : CtxId} {n a : Nat} {f : Nat → Nat} (h : TilesMoved n f [a] s t) (hc : c.sheaf = n)
    (ha : s.coreOfCtx c / 8 ≠ a) : t.coreOfCtx c = s.coreOfCtx c := by
  have hg := h.grains c.grain
  rw [← hc] at hg
  rw [State.coreOfCtx, State.coreOfCtx, State.grainOf, hg, ← State.grainOf]
  rw [State.coreOfCtx] at ha
  cases hs : s.grainOf c with
  | none => rfl
  | some x =>
    rw [hs] at ha
    simp only [Option.map_some, Option.getD_some, grainAfter]
    exact congrArg Grain.core (if_neg fun e => ha (List.mem_singleton.mp e))

theorem grainAfter_cons (cyc : Nat → Nat) {f : Nat → Nat} (hf : ∀ t, f (f t) = f t) (a : Nat) (l : List Nat) (x : Grain) :
    grainAfter cyc f l (grainAfter cyc f [a] x) = grainAfter cyc f (a :: l) x := by
  by_cases hx : x.core / 8 = a
  · obtain ⟨hc, -⟩ := grainMoved_core cyc (f a) x
    have h1 : grainAfter cyc f [a] x = grainMoved cyc (f a) x := by simp [grainAfter, hx]
    have h2 : grainAfter cyc f (a :: l) x = grainMoved cyc (f a) x := by simp [grainAfter, hx]
    rw [h1, h2, grainAfter, hc, hf, grainMoved_twice, ite_self]
  · simp [grainAfter, hx]

theorem moveTiles_moves (s : State) (n vd : Nat) {f : Nat → Nat} (hf : ∀ t, f (f t) = f t) (l : List Nat) :
    TilesMoved n f l s (l.foldl (fun s t => (s.serve vd (f t)).moveTile n t (f t)) s) := by
  induction l generalizing s with
  | nil => exact ⟨fun _ _ => rfl, fun _ _ _ _ h => absurd h List.not_mem_nil, fun _ _ _ hx _ => hx,
      fun g => by simp [show grainAfter s.cycleOf f [] = id from rfl], rfl⟩
  | cons a l ih =>
    have h := moveTile_moves s n vd a f
    rw [List.foldl_cons]
    generalize (s.serve vd (f a)).moveTile n a (f a) = u at h
    have k := ih u
    refine ⟨fun c hc => (k.others c hc).trans (h.others c hc), fun c x hc hx ha => ?_, fun c x hc hx ha => ?_, fun g => ?_,
      k.cycles.trans h.cycles⟩
    · by_cases e : s.coreOfCtx c / 8 = a
      · obtain ⟨j, hj⟩ := h.moved c x hc hx (List.mem_singleton.mpr e)
        by_cases m : u.coreOfCtx c / 8 ∈ l
        · obtain ⟨i, hi⟩ := k.moved c _ hc hj m
          exact ⟨i, hi.trans (congrArg some (again_again x j i))⟩
        · exact ⟨j, k.unmoved c _ hc hj m⟩
      · refine k.moved c x hc (h.unmoved c x hc hx (by simpa using e)) ?_
        rw [coreOfCtx_of_grains h hc e]
        exact (List.mem_cons.mp ha).resolve_left e
    · rw [List.mem_cons, not_or] at ha
      obtain ⟨e, m⟩ := ha
      refine k.unmoved c x hc (h.unmoved c x hc hx (by simpa using e)) ?_
      rwa [coreOfCtx_of_grains h hc e]
    · rw [k.grains, h.grains, h.cycles, Option.map_map]
      exact congrArg (fun m => Option.map m (Tab.find s.grains (n, g))) (funext fun x => grainAfter_cons s.cycleOf hf a l x)

/-- No sheaf changes where tiles move. -/
theorem moveTiles_sheaves (s : State) (n vd : Nat) (f : Nat → Nat) (l : List Nat) :
    (l.foldl (fun s t => (s.serve vd (f t)).moveTile n t (f t)) s).sheaves = s.sheaves :=
  foldl_keeps (P := fun u : State => u.sheaves = s.sheaves) rfl fun u t h =>
    (moveTile_tables (u.serve vd (f t)) n t (f t)).sheaves.trans ((serve_same u vd (f t)).sheaves.trans h)

/-! ### The move of a virtual cluster -/

/-- Where a tile stands after its cluster `c` has moved to `target`. -/
def shifted (c target t : Nat) : Nat := if t / 4 = c then 4 * target + t % 4 else t

theorem shifted_shifted (c target t : Nat) : shifted c target (shifted c target t) = shifted c target t := by
  unfold shifted
  split_ifs <;> omega

/-- The tiles of a virtual cluster of a sheaf. -/
def clusterTiles (h : Sheaf) (vc : Nat) : List Nat :=
  ((List.range 4).filter fun t => decide (4 * vc + t < h.vtiles)).map fun t => h.tile (4 * vc + t)

/-- A sheaf whose virtual cluster has moved, before its circuits are placed again. -/
def clusterMoved (s : State) (n vc target : Nat) : State :=
  let h := s.sheafOf n
  let f := shifted (h.clusters.getD vc 0) target
  ((clusterTiles h vc).foldl (fun s t => (s.serve h.vd (f t)).moveTile n t (f t)) (s.dropMem n (clusterTiles h vc))).updSheaf n
    fun h => { h with clusters := h.clusters.set vc target, cores := h.cores.map fun c => 8 * f (c / 8) + c % 8 }

/-- What keeps a virtual cluster where it is. -/
def KeptInPlace (s : State) (n vc target : Nat) : Prop :=
  let h := s.sheafOf n
  h.st ≠ .stopped ∨ h.stop ≠ .migrate ∨ h.clusters.length ≤ vc ∨ s.quiet n = false ∨ s.clusterFree n target = false ∨
    target ∉ s.usable h.vd

theorem migrate_kept {s : State} {n vc target : Nat} (h : KeptInPlace s n vc target) : s.migrate n vc target = s := by
  unfold State.migrate
  dsimp only
  exact if_pos (by simpa [KeptInPlace] using h)

section
variable {s : State} {n vc target : Nat} (h : ¬ KeptInPlace s n vc target)
include h

/-- The move is made where the `mem` circuits of the new tiles can be placed; the circuits of the sheaf are placed again then. -/
theorem migrate_moves {o : Option State} (ho : (clusterMoved s n vc target).placeMem (s.sheafOf n).vd
      ((clusterTiles (s.sheafOf n) vc).map (shifted ((s.sheafOf n).clusters.getD vc 0) target)) = o) :
    (o = none → s.migrate n vc target = s) ∧ ∀ w, o = some w → Undisturbed w (s.migrate n vc target) := by
  unfold State.migrate
  dsimp only
  rw [if_neg (by simpa [KeptInPlace] using h)]
  generalize hp : State.placeMem _ _ _ = p
  obtain rfl : p = o := hp.symm.trans ho
  cases p with
  | none => exact ⟨fun _ => rfl, fun w hw => nomatch hw⟩
  | some u =>
    refine ⟨fun hu => (nomatch hu), fun w hw => ?_⟩
    obtain rfl := Option.some.inj hw
    refine foldl_keeps (Undisturbed.refl u) fun v k hv => ?_
    split
    · exact hv
    · refine ite_keeps hv ?_
      generalize hr : State.placeCircuit _ _ = r
      cases r with
      | none => exact hv
      | some r => exact placeCircuit_undisturbs (idleEntries_undisturbs hv) hr

end

theorem TilesMoved.of_undisturbed {n : Nat} {f : Nat → Nat} {l : List Nat} {r s t : State} (h : TilesMoved n f l s t)
    (hr : Undisturbed r s) : TilesMoved n f l r t := by
  have hcore (c : CtxId) : s.coreOfCtx c = r.coreOfCtx c := congrArg (fun o => (Option.getD o Grain.zero).core) (hr.grainOf c)
  have hcyc : s.cycleOf = r.cycleOf := funext hr.cycles
  refine ⟨fun c hc => (h.others c hc).trans (hr.ctx c), fun c x hc hx ha => ?_, fun c x hc hx ha => ?_, fun g => ?_,
    h.cycles.trans hcyc⟩
  · exact h.moved c x hc ((hr.ctx c).trans hx) (by rwa [hcore])
  · exact h.unmoved c x hc ((hr.ctx c).trans hx) (by rwa [hcore])
  · rw [h.grains, hr.grains, hcyc]

theorem TilesMoved.of_tables {n : Nat} {f : Nat → Nat} {l : List Nat} {s t u : State} (h : TilesMoved n f l s t)
    (hc : u.ctxs = t.ctxs) (hg : u.grains = t.grains) (hq : u.cycleOf = t.cycleOf) : TilesMoved n f l s u := by
  have hctx (c : CtxId) : u.ctx c = t.ctx c := congrArg (Tab.find · c) hc
  refine ⟨fun c e => (hctx c).trans (h.others c e), fun c x e hx ha => ?_, fun c x e hx ha => ?_, fun g => ?_, hq.trans h.cycles⟩
  · rw [hctx]
    exact h.moved c x e hx ha
  · rw [hctx]
    exact h.unmoved c x e hx ha
  · rw [hg, h.grains]

theorem clusterMoved_moves (s : State) (n vc target : Nat) :
    TilesMoved n (shifted ((s.sheafOf n).clusters.getD vc 0) target) (clusterTiles (s.sheafOf n) vc) s (clusterMoved s n vc target) :=
  ((moveTiles_moves _ n (s.sheafOf n).vd (shifted_shifted _ target) _).of_undisturbed
    (dropMem_undisturbs (Undisturbed.refl s))).of_tables rfl rfl rfl

theorem clusterMoved_clusters {s : State} {n vc target : Nat} (hs : (Tab.find s.sheaves n).isSome = true) :
    ∃ y, Tab.find (clusterMoved s n vc target).sheaves n = some y ∧ y.clusters = (s.sheafOf n).clusters.set vc target := by
  obtain ⟨x, hx⟩ := Option.isSome_iff_exists.mp hs
  have hd := dropMem_undisturbs (n := n) (tiles := clusterTiles (s.sheafOf n) vc) (Undisturbed.refl s)
  refine ⟨_, (tab_find_upd_self _ _ _).trans (by rw [moveTiles_sheaves, hd.sheaves, hx, Option.map_some]), ?_⟩
  rw [sheafOf_of_find hx]

/-! ### A sheaf that goes on (R269) -/

/-- Another sheaf waits for a cluster of this one, and a cluster is free for a move. -/
def Wanted (s : State) (n : Nat) : Prop :=
  (∃ c ∈ (s.sheafOf n).clusters, ∃ e ∈ s.sheaves, e.1 ≠ n ∧ s.waitsPlace e.1 e.2 = true ∧
    ∃ d ∈ e.2.clusters, d % 96 = c % 96) ∧ ∃ c ∈ s.usable (s.sheafOf n).vd, s.clusterFree n c = true

/-- A stopped sheaf has nothing more to move. -/
def GoesOn (s : State) (n : Nat) : Prop :=
  (s.sheafOf n).st = .stopped ∧ (s.sheafOf n).stop = .migrate ∧ s.quiet n = true ∧ ¬ Wanted s n

theorem goesOn_iff (s : State) (n : Nat) : GoesOn s n ↔
    (s.sheafOf n).st = .stopped ∧ (s.sheafOf n).stop = .migrate ∧ s.quiet n = true ∧
      (!((s.sheafOf n).clusters.any (fun c => s.sheaves.any fun e => e.1 != n && s.waitsPlace e.1 e.2 && e.2.onCluster c) &&
        (s.usable (s.sheafOf n).vd).any fun c => s.clusterFree n c)) = true := by
  have hw : ((s.sheafOf n).clusters.any (fun c => s.sheaves.any fun e => e.1 != n && s.waitsPlace e.1 e.2 && e.2.onCluster c) &&
      (s.usable (s.sheafOf n).vd).any fun c => s.clusterFree n c) = true ↔ Wanted s n := by
    simp [Wanted, Sheaf.onCluster, and_assoc]
  rw [GoesOn, ← hw, Bool.not_eq_true, Bool.not_eq_true']

theorem migrated_goes {s : State} {n : Nat} (h : GoesOn s n) :
    s.migrated n = s.updSheaf n fun h => { h with st := .running, stop := .none } := if_pos ((goesOn_iff s n).mp h)

theorem migrated_stays {s : State} {n : Nat} (h : ¬ GoesOn s n) : s.migrated n = s := if_neg (mt (goesOn_iff s n).mpr h)

theorem migrated_frame (s : State) {n : Nat} (hs : (Tab.find s.sheaves n).isSome = true) : (s.migrated n).ctxs = s.ctxs ∧
    (s.migrated n).grains = s.grains ∧ (s.migrated n).cycleOf = s.cycleOf ∧
    ((s.migrated n).sheafOf n).clusters = (s.sheafOf n).clusters := by
  obtain ⟨x, hx⟩ := Option.isSome_iff_exists.mp hs
  by_cases e : GoesOn s n
  · rw [migrated_goes e, updSheaf_sheafOf_self hx, sheafOf_of_find hx]
    exact ⟨rfl, rfl, rfl, rfl⟩
  · rw [migrated_stays e]
    exact ⟨rfl, rfl, rfl, rfl⟩

/-- A step either leaves the clusters of the sheaf, its contexts and its grains, or makes the whole move. -/
theorem migration_cases {s : State} {n : Nat} (vc target : Nat) (hs : (Tab.find s.sheaves n).isSome = true) :
    let h := s.sheafOf n
    let f := shifted (h.clusters.getD vc 0) target
    let t := (s.migrate n vc target).migrated n
    ((t.sheafOf n).clusters = h.clusters ∧ t.grains = s.grains ∧ t.ctxs = s.ctxs) ∧
        (KeptInPlace s n vc target ∨ (clusterMoved s n vc target).placeMem h.vd ((clusterTiles h vc).map f) = none) ∨
      ¬ KeptInPlace s n vc target ∧ (t.sheafOf n).clusters = h.clusters.set vc target ∧ TilesMoved n f (clusterTiles h vc) s t := by
  intro h f t
  have stay (e : s.migrate n vc target = s) : (t.sheafOf n).clusters = h.clusters ∧ t.grains = s.grains ∧ t.ctxs = s.ctxs := by
    obtain ⟨hc, hg, -, hcl⟩ := migrated_frame s hs
    have ht : t = s.migrated n := congrArg (State.migrated · n) e
    rw [ht]
    exact ⟨hcl, hg, hc⟩
  by_cases hk : KeptInPlace s n vc target
  · exact .inl ⟨stay (migrate_kept hk), .inl hk⟩
  · cases ho : (clusterMoved s n vc target).placeMem h.vd ((clusterTiles h vc).map f) with
    | none => exact .inl ⟨stay ((migrate_moves hk ho).1 rfl), .inr rfl⟩
    | some w =>
      have hu := (placeMem_undisturbs (Undisturbed.refl _) ho).trans ((migrate_moves hk ho).2 w rfl)
      obtain ⟨y, hy, hcl⟩ := clusterMoved_clusters (vc := vc) (target := target) hs
      rw [← hu.sheaves] at hy
      obtain ⟨hc, hg, hq, hsame⟩ := migrated_frame _ (Option.isSome_iff_exists.mpr ⟨y, hy⟩)
      refine .inr ⟨hk, ?_, (clusterMoved_moves s n vc target).of_tables (hc.trans hu.ctxs) (hg.trans hu.grains)
        (hq.trans (funext hu.cycles))⟩
      rw [hsame, sheafOf_of_find hy, hcl]

/-! ### A grain after the move -/

theorem grainAfter_frame (cyc f : Nat → Nat) (l : List Nat) (x : Grain) : let z := grainAfter cyc f l x
    z = { x with core := z.core, cycle0 := z.cycle0, mq := z.mq } ∧
      (cyc (z.core / 4) : Int) - z.cycle0 = (cyc (x.core / 4) : Int) - x.cycle0 := by
  unfold grainAfter
  split
  · exact ⟨rfl, by simp only [grainMoved]; omega⟩
  · exact ⟨rfl, rfl⟩

theorem grainAfter_core (cyc : Nat → Nat) (c target : Nat) (l : List Nat) (x : Grain) :
    let z := grainAfter cyc (shifted c target) l x
    z.core = x.core ∨ z.core / 32 = target ∧ z.core % 8 = x.core % 8 := by
  unfold grainAfter
  split
  · obtain ⟨h1, h2⟩ := grainMoved_core cyc (shifted c target (x.core / 8)) x
    unfold shifted at h1 h2 ⊢
    dsimp only
    split_ifs at h1 h2 ⊢ <;> omega
  · exact .inl rfl

/-- A grain on the cluster that moves stands at the same place of the target. -/
theorem grainAfter_shifted (cyc : Nat → Nat) {c target : Nat} {l : List Nat} {x : Grain} (hx : x.core / 8 ∈ l)
    (hc : x.core / 8 / 4 = c) : let z := grainAfter cyc (shifted c target) l x
    z.core / 32 = target ∧ z.core % 32 = x.core % 32 ∧ z.mq = x.mq.map MCmd.parked := by
  obtain ⟨h1, h2⟩ := grainMoved_core cyc (4 * target + x.core / 8 % 4) x
  simp only [grainAfter, if_pos hx, shifted, if_pos hc]
  refine ⟨by omega, by omega, rfl⟩

end Sys2Proof.Proofs
end

section
/-! Placement, ageing, retirement and migration together (10 R258, R262, R267 to R272). -/

namespace Sys2Proof.Proofs

open Sys2Proof.Machine Sys2Proof.Laws

section
variable {s : State} {n : Nat}

/-- A sheaf that is not placed keeps its image and its state. -/
theorem sheafPlace_skips (hp : (s.sheafOf n).st ≠ .pending ∨ s.chosen n = none)
    (hr : (s.sheafOf n).st = .running → (s.sheafOf n).ckpt.isSome = true ∨ (s.sheafOf n).gangT ≠ none) :
    exec (.sheafPlace n) s = .next s := by
  change Host.Outcome.next ((s.placeNew n).firstImage n) = _
  rw [placeNew_skips hp, firstImage_skips]
  by_cases h : (s.sheafOf n).st = .running
  · rcases hr h with hc | hg
    · exact .inl hc
    · exact .inr (.inl (Option.isSome_iff_ne_none.mpr hg))
  · exact .inr (.inr h)

theorem retireSheaf_skips (h : (s.sheafOf n).st ≠ .running ∨ s.allRetired n = false) : s.retireSheaf n = s :=
  if_pos (h.imp_right fun e => by rw [e]; rfl)

theorem retireSheaf_retires (hst : (s.sheafOf n).st = .running) (ha : s.allRetired n = true) :
    s.retireSheaf n = if s.endHeld n = true then s.waitLog (s.sheafOf n).vd else s.endSheaf n :=
  if_neg fun h => h.elim (fun e => e hst) fun e => by simp [ha] at e

/-- Nothing moves, and the sheaf goes on unless it is wanted elsewhere. -/
theorem sheafMigrate_kept {vc target : Nat} (h : KeptInPlace s n vc target) :
    exec (.sheafMigrate n vc target) s = .next (s.migrated n) :=
  congrArg (fun t : State => Host.Outcome.next (t.migrated n)) (migrate_kept h)

end

/-- Settles O43: by the lemma of each step: what `placeNew` starts or reserves, whom `ageStep` asks to move, what `endSheaf` ends,
and that a migration either leaves the sheaf in place or moves its tiles one after another (`TilesMoved`). -/
theorem placementAndRetirement : Obligations.PlacementAndRetirement := by
  unfold Obligations.PlacementAndRetirement
  intro s n h started
  refine ⟨fun l => fit_places, fun t => chosen_first, sheafPlace_skips, ?place, fun hp => ?skip, fun hst ha he => ?held,
    fun hst ha he => ?retire, fun hs => ?young, fun hs => ⟨fun hst hl hg => ?reserved, fun hw ht hst hc hn => ?waiting⟩,
    fun vc target hp => ?unstopped, fun vc target hst hstop hq hp => ?kept, ?moves,
    fun x k => ⟨rfl, rfl, rfl, rfl, rfl, rfl, rfl⟩, fun vc target hs => ?either⟩
  case place =>
    intro b y const hp hb hi _ hy k
    have he := placeNew_places hp hb hi
    refine ⟨fun hg => ?_, fun hg => ⟨_, rfl, ?_⟩⟩
    · obtain ⟨hst, hstart, hother, hgr⟩ := startGrains_starts (const := const) hy
      rw [if_neg (by rw [hg]; decide)] at he
      rw [← he] at hst hstart hother hgr
      refine ⟨_, rfl, ⟨hst, fun g hlt => ?_, hother⟩, fun g hlt => ⟨_, hgr g hlt, rfl, rfl, rfl, rfl, rfl, rfl, rfl, rfl, rfl, rfl, rfl,
        rfl⟩⟩
      obtain ⟨c, hc⟩ := hstart g hlt
      exact ⟨_, hc, control_starts k g c⟩
    · rw [if_pos hg] at he
      rw [he]
      exact gangLead_reserves hy
  case skip => exact congrArg Host.Outcome.next (retireSheaf_skips hp)
  case held => exact congrArg Host.Outcome.next ((retireSheaf_retires hst ha).trans (if_pos he))
  case retire =>
    refine ⟨_, congrArg Host.Outcome.next ((retireSheaf_retires hst ha).trans (if_neg (by rw [he]; decide))), ?_⟩
    exact endSheaf_ends (find_of_st (by rw [hst]; decide))
  case young => exact congrArg Host.Outcome.next (ageStep_young hs)
  case reserved =>
    refine ⟨_, congrArg Host.Outcome.next (ageStep_reserved hs hst hl hg), rfl, ?_, fun m hm => updSheaf_sheafOf_ne s _ hm⟩
    exact updSheaf_sheafOf_self (find_of_st (by rw [hst]; decide)) _
  case waiting =>
    obtain ⟨hctx, hgr, hsh⟩ := ageStep_moves hs hw ht hst hc hn
    refine ⟨_, rfl, hctx, hgr, fun m k hk hm => ?_⟩
    obtain ⟨hin, hout⟩ := hsh m k hk hm
    have hmem : (m, k) ∈ s.sheaves := tab_mem_of_find hk
    exact ⟨fun ⟨h1, h2, h3, h4⟩ => hin (mem_movers.mpr ⟨hmem, hm, h1, h2, h3, h4⟩), fun hno => hout fun e => hno (by
      obtain ⟨-, -, h⟩ := mem_movers.mp e
      exact h)⟩
  case unstopped =>
    have hk : KeptInPlace s n vc target := by
      rcases hp with e | e | e
      · exact .inl e
      · exact .inr (.inl e)
      · exact .inr (.inr (.inr (.inl e)))
    have hg : ¬ GoesOn s n := fun ⟨h1, h2, h3, _⟩ => by simp [h, h1, h2, h3] at hp
    exact (sheafMigrate_kept hk).trans (congrArg Host.Outcome.next (migrated_stays hg))
  case kept =>
    intro wanted stays
    have hk : KeptInPlace s n vc target := by
      rcases hp with e | e | e
      · exact .inr (.inr (.inl e))
      · exact .inr (.inr (.inr (.inr (.inl e))))
      · exact .inr (.inr (.inr (.inr (.inr e))))
    have hx := find_of_st (s := s) (n := n) (by rw [hst]; decide)
    refine ⟨fun hw => ?_, fun hw => ⟨_, sheafMigrate_kept hk, ?_⟩⟩
    · exact (sheafMigrate_kept hk).trans (congrArg Host.Outcome.next (migrated_stays fun ⟨_, _, _, hno⟩ => hno hw))
    · rw [migrated_goes ⟨hst, hstop, hq, hw⟩]
      exact ⟨rfl, updSheaf_sheafOf_self hx _, fun m hm => updSheaf_sheafOf_ne s _ hm⟩
  case moves =>
    intro vc target hst hstop hq hvc hfree huse from_ moved tiles y hplace hfrom
    have hs : (Tab.find s.sheaves n).isSome = true := by rw [find_of_st (s := s) (n := n) (by rw [hst]; decide)]; rfl
    rcases migration_cases vc target hs with ⟨-, hk | hnone⟩ | ⟨-, hcl, ht⟩
    · refine absurd hk ?_
      simp only [KeptInPlace, not_or]
      exact ⟨fun e => e hst, fun e => e hstop, Nat.not_le.mpr hvc, by rw [hq]; decide, by rw [hfree]; decide, fun e => e huse⟩
    · rw [show y.placeMem h.vd (tiles.map moved) = none from hnone] at hplace
      exact nomatch hplace
    · refine ⟨_, rfl, hcl, ht.others, fun c x hc hx => ⟨ht.moved c x hc hx, ht.unmoved c x hc hx⟩, fun g x hx => ?_⟩
      obtain ⟨hf, hcyc⟩ := grainAfter_frame s.cycleOf moved tiles x
      refine ⟨grainAfter s.cycleOf moved tiles x, (ht.grains g).trans (by rw [hx]; rfl), hf, hcyc,
        fun hm => grainAfter_shifted s.cycleOf hm (hfrom _ hm), fun hm => if_neg hm⟩
  case either =>
    refine ⟨_, rfl, ?_⟩
    rcases migration_cases vc target hs with ⟨⟨hcl, hg, hc⟩, -⟩ | ⟨hk, hcl, ht⟩
    · exact ⟨fun c _ => congrArg (Tab.find · c) hc, .inl ⟨hcl, hg, hc⟩⟩
    · simp only [KeptInPlace, not_or, not_not, Bool.not_eq_false] at hk
      obtain ⟨-, -, -, -, hfree, huse⟩ := hk
      refine ⟨ht.others, .inr ⟨huse, hfree, hcl, fun g x hx => ?_⟩⟩
      obtain ⟨hf, -⟩ := grainAfter_frame s.cycleOf (shifted (h.clusters.getD vc 0) target) (clusterTiles h vc) x
      exact ⟨_, (ht.grains g).trans (by rw [hx]; rfl), hf, grainAfter_core s.cycleOf _ target _ x⟩

end Sys2Proof.Proofs
end

section
/-! What the codes of the operand fields are once they have been read: the converses of the laws of `Laws` (02 R48 to R61). -/

namespace Sys2Proof.Proofs

open Sys2Proof.Laws

/-! ### Codes -/

theorem finOf_toNat {n : Nat} (h : 0 < n) (x : Nat) : (finOf n h x).val = x % n := rfl
theorem ptrOf_toNat (x : Nat) : (ptrOf x).val = x % 8 := rfl

theorem code_srcOf (x : Nat) : (srcOf x).code = x % 32 := by
  unfold srcOf
  split <;> simp only [Src.code, finOf_toNat] <;> omega

theorem code_dstOf {x : Nat} (h : x ≤ 17) : (dstOf x).code = x := by
  interval_cases x <;> rfl

theorem code_sizeOf {x : Nat} (h : x < 4) : (sizeOf_ x).code = x := by
  interval_cases x <;> rfl

theorem code_scopeOf {x : Nat} (h0 : 0 < x) (h : x < 8) : (scopeOf x).code = x := by
  interval_cases x <;> rfl

theorem code_ordOf {x : Nat} (h : x < 8) : ordCode (ordOf x) = x := by
  unfold ordOf
  split_ifs with h0
  · exact h0.symm
  · exact code_scopeOf (Nat.pos_of_ne_zero h0) h

theorem code_rmOf {x : Nat} (h : x < 3) : (rmOf x).code = x := by
  interval_cases x <;> rfl

theorem code_fmtOf {x : Nat} (h : x < 8) : (fmtOf x).code = x := by
  interval_cases x <;> rfl

/-- A code from 8 on reads as INT32, so a format that an instruction takes beside INT32 has a code below 8. -/
theorem code_fmtOf_of_ne {x : Nat} (h : fmtOf x ≠ .int32) : (fmtOf x).code = x := by
  refine code_fmtOf (Nat.lt_of_not_le fun h8 => h ?_)
  obtain ⟨n, rfl⟩ := Nat.exists_eq_add_of_le' h8
  rfl

theorem code_vtyOf {x : Nat} (h : x < 8) : (vtyOf x).code.toNat = x := by
  interval_cases x <;> rfl

theorem code_cvtOf {x : Nat} (h : x < 8) : (cvtOf x).code = x := by
  interval_cases x <;> rfl

theorem code_cpyKindOf {x : Nat} (h : x < 5) : (cpyKindOf x).code = x := by
  interval_cases x <;> rfl

theorem code_collOpOf {x : Nat} (h : x < 3) : (collOpOf x).code = x := by
  interval_cases x <;> rfl

theorem code_cktKindOf {x : Nat} (h : x < 4) : (cktKindOf x).code = x := by
  interval_cases x <;> rfl

theorem bitOf_beq_one {x : Nat} (h : x < 2) : bitOf (x == 1) = x := by
  interval_cases x <;> rfl

theorem bitOf_not_eq_zero {b : Bool} : bitOf (!b) = 0 ↔ b = true := by
  cases b <;> decide

/-! ### Memory operands and descriptors -/

theorem memOf_am {am : Nat} (h : am < 3) (sa imm : Nat) : (memOf am sa imm).am = am := by
  interval_cases am <;> rfl

theorem memOf_ptr (am sa imm : Nat) : (memOf am sa imm).ptr = sa % 8 := by
  unfold memOf
  split <;> rfl

theorem memOf_immF (am sa imm : Nat) (h : am < 3) : (memOf am sa imm).immF = if am = 2 then imm % 65536 else 0 := by
  interval_cases am <;> simp [memOf, MemOp.immF]

/-- A descriptor whose unused parts are zero is read without loss. -/
theorem descOf_zero {c reg : Nat} (hc : c < 32) (hr : reg < 32) (h : descZero c reg = true) :
    (descOf c reg).code = c ∧ (descOf c reg).reg = reg := by
  obtain ⟨q, hq⟩ : ∃ q, c / 8 = q := ⟨_, rfl⟩
  have hlt : q < 4 := by omega
  interval_cases q <;> simp [descZero, descOf, hq, VDesc.code, VDesc.reg, code_srcOf, ptrOf_toNat] at h ⊢ <;> omega

end Sys2Proof.Proofs
end

section
/-! The checks that every instruction meets (02 R48 to R53, R64), and the number that fields make. -/

namespace Sys2Proof.Proofs

open Sys2Proof.Laws

/-! ### Bytes and digits -/

theorem toBytes_ofBytes : ∀ bs : List Byte, toBytes bs.length (ofBytes bs) = bs
  | [] => rfl
  | b :: bs => by
    have hm : (b.toNat + 256 * ofBytes bs) / 256 = ofBytes bs := digit_div b.isLt
    have hb : BitVec.ofNat 8 (b.toNat + 256 * ofBytes bs) = b := by
      apply BitVec.eq_of_toNat_eq
      rw [BitVec.toNat_ofNat]
      exact digit_mod b.isLt
    simp only [List.length_cons, toBytes, ofBytes, hm, hb, toBytes_ofBytes bs]

theorem ofBytes_lt : ∀ bs : List Byte, ofBytes bs < 2 ^ (8 * bs.length)
  | [] => by decide
  | b :: bs => by
    rw [List.length_cons, Nat.mul_succ, Nat.add_comm, Nat.pow_add]
    exact digit_lt b.isLt (ofBytes_lt bs)

/-- The first bytes hold the low digits. -/
theorem ofBytes_take : ∀ (n : Nat) (bs : List Byte), n ≤ bs.length → ofBytes (bs.take n) = ofBytes bs % 2 ^ (8 * n)
  | 0, bs, _ => by simp [ofBytes, Nat.mod_one]
  | n + 1, b :: bs, h => by
    have hn : n ≤ bs.length := Nat.le_of_succ_le_succ h
    rw [List.take_succ_cons, ofBytes, ofBytes, ofBytes_take n bs hn, Nat.mul_succ, Nat.add_comm (8 * n), Nat.pow_add, Nat.mod_mul,
      show (2 : Nat) ^ 8 = 256 from rfl, digit_mod b.isLt, digit_div b.isLt]

/-- A number from one bit on is a digit and the number from the bit above that digit on. -/
theorem digit_above (w k m : Nat) {n : Nat} (e : k * m = n) : w / k % m + m * (w / n) = w / k := by
  rw [← e, ← Nat.div_div_eq_div_mul, Nat.mod_add_div]

/-- A number is made by its fields. -/
theorem word_fieldsOf (w : Nat) : (fieldsOf w).word = w := by
  have d0 : w % 4 + 4 * (w / 4) = w := Nat.mod_add_div w 4
  have d1 : w / 4 % 64 + 64 * (w / 2 ^ 8) = w / 4 := digit_above w 4 64 rfl
  have d2 : w / 2 ^ 8 % 256 + 256 * (w / 2 ^ 16) = w / 2 ^ 8 := digit_above w (2 ^ 8) 256 rfl
  have d3 : w / 2 ^ 16 % 16 + 16 * (w / 2 ^ 20) = w / 2 ^ 16 := digit_above w (2 ^ 16) 16 rfl
  have d4 : w / 2 ^ 20 % 2 + 2 * (w / 2 ^ 21) = w / 2 ^ 20 := digit_above w (2 ^ 20) 2 rfl
  have d5 : w / 2 ^ 21 % 2 + 2 * (w / 2 ^ 22) = w / 2 ^ 21 := digit_above w (2 ^ 21) 2 rfl
  have d6 : w / 2 ^ 22 % 32 + 32 * (w / 2 ^ 27) = w / 2 ^ 22 := digit_above w (2 ^ 22) 32 rfl
  have d7 : w / 2 ^ 27 % 64 + 64 * (w / 2 ^ 33) = w / 2 ^ 27 := digit_above w (2 ^ 27) 64 rfl
  have d8 : w / 2 ^ 33 % 32 + 32 * (w / 2 ^ 38) = w / 2 ^ 33 := digit_above w (2 ^ 33) 32 rfl
  have d9 : w / 2 ^ 38 % 32 + 32 * (w / 2 ^ 43) = w / 2 ^ 38 := digit_above w (2 ^ 38) 32 rfl
  have d10 : w / 2 ^ 43 % 32 + 32 * (w / 2 ^ 48) = w / 2 ^ 43 := digit_above w (2 ^ 43) 32 rfl
  have d11 : w / 2 ^ 48 % 65536 + 65536 * (w / 2 ^ 64) = w / 2 ^ 48 := digit_above w (2 ^ 48) 65536 rfl
  unfold fieldsOf Fields.word
  rw [d11, d10, d9, d8, d7, d6, d5, d4, d3, d2, d1, d0]

theorem fieldsOf_inWidth {w : Nat} (hl : w % 4 < 3) (hw : w < 2 ^ (8 * lenBytes (w % 4))) : InWidth (fieldsOf w) := by
  constructor <;> simp only [fieldsOf]
  case hi =>
    obtain e | e | e : w % 4 = 0 ∨ w % 4 = 1 ∨ w % 4 = 2 := by omega
    all_goals
      rw [e] at hw ⊢
      simp only [lenBytes] at hw ⊢
      omega
  all_goals omega

/-! ### The head (R48, R50, R51) -/

/-- What the result class asks of a head (R51). -/
def headOk : Cls → Head → Bool
  | .n, h => h.classN
  | .s, h => h.classS
  | .l, _ => true

/-- The fields hold the guard, the destination and the lookahead of a head. -/
structure HasHead (f : Fields) (h : Head) : Prop where
  la : f.la = h.la.val
  ge : f.ge = h.guard.ge
  gn : f.gn = h.guard.gn
  greg : f.greg = h.guard.greg
  gbit : f.gbit = h.guard.gbit
  dst : f.dst = h.dst.code

section
variable {f : Fields} {h : Head} {k : Cls}

theorem hasHead_fields (h : Head) (len opm fn sa sb imm hi : Nat) :
    HasHead { h.fields len opm fn with sa := sa, sb := sb, imm := imm, hi := hi } h :=
  ⟨rfl, rfl, rfl, rfl, rfl, rfl⟩

theorem HasHead.head_eq (w : HasHead f h) : f.head = h := by
  simp only [Fields.head, w.la, w.ge, w.gn, w.greg, w.gbit, w.dst, guardOf_codes, dstOf_code, finOf_val]

theorem HasHead.guardOk (w : HasHead f h) : f.guardOk = true := by
  simp only [Fields.guardOk, w.ge, w.gn, w.greg, w.gbit]
  cases h.guard <;> rfl

theorem HasHead.dstOk (w : HasHead f h) (hk : headOk k h = true) : f.dstOk k = true := by
  have hle : f.dst ≤ 17 := w.dst ▸ dst_code_le h.dst
  cases k with
  | n =>
    simp only [headOk, Head.classN, Bool.and_eq_true, beq_iff_eq] at hk
    simp [Fields.dstOk, w.dst, hk.1, Dst.code]
  | s => simpa [Fields.dstOk] using hle
  | l => simpa [Fields.dstOk] using hle

theorem HasHead.laOk (w : HasHead f h) (hk : headOk k h = true) : f.laOk k = true := by
  cases k with
  | n =>
    simp only [headOk, Head.classN, Bool.and_eq_true, beq_iff_eq] at hk
    simp [Fields.laOk, w.la, hk.2]
  | s =>
    simp only [headOk, Head.classS, beq_iff_eq] at hk
    simp [Fields.laOk, w.la, hk]
  | l => rfl

/-- Fields are those that their head, their opcode and their operands make. -/
theorem HasHead.fields_eq {len opm fn sa sb imm hi : Nat} (w : HasHead f h) (h1 : f.len = len) (h2 : f.opm = opm) (h3 : f.fn = fn)
    (h4 : f.sa = sa) (h5 : f.sb = sb) (h6 : f.imm = imm) (h7 : f.hi = hi) :
    f = { h.fields len opm fn with sa := sa, sb := sb, imm := imm, hi := hi } := by
  obtain ⟨la, ge, gn, greg, gbit, dst⟩ := w
  cases f
  simp_all [Head.fields]

theorem code_guardOf (w : InWidth f) (hg : f.guardOk = true) :
    (guardOf f.ge f.gn f.greg f.gbit).ge = f.ge ∧ (guardOf f.ge f.gn f.greg f.gbit).gn = f.gn ∧
      (guardOf f.ge f.gn f.greg f.gbit).greg = f.greg ∧ (guardOf f.ge f.gn f.greg f.gbit).gbit = f.gbit := by
  have hge := w.ge
  have hgreg := w.greg
  have hgbit := w.gbit
  by_cases h0 : f.ge = 0
  · simp [Fields.guardOk, h0] at hg
    simp [guardOf, h0, Guard.ge, Guard.gn, Guard.greg, Guard.gbit, hg]
  · have hgn : (f.gn == 1).toNat = f.gn := bitOf_beq_one w.gn
    simp only [guardOf, h0, if_false, Guard.ge, Guard.gn, Guard.greg, Guard.gbit, code_srcOf, finOf_toNat, hgn, true_and]
    omega

/-- Fields that pass the checks of the head hold the head that the decoder reads. -/
theorem hasHead_head (w : InWidth f) (hg : f.guardOk = true) (hd : f.dstOk k = true) : HasHead f f.head := by
  obtain ⟨ge, gn, greg, gbit⟩ := code_guardOf w hg
  have hle : f.dst ≤ 17 := by cases k <;> simp [Fields.dstOk] at hd <;> omega
  exact ⟨(Nat.mod_eq_of_lt w.la).symm, ge.symm, gn.symm, greg.symm, gbit.symm, (code_dstOf hle).symm⟩

theorem headOk_head (hd : f.dstOk k = true) (hl : f.laOk k = true) : headOk k f.head = true := by
  have hla : f.la = 0 → finOf 16 (by decide) f.la = 0 := fun e => by rw [e]; rfl
  cases k with
  | n =>
    simp only [Fields.dstOk, Fields.laOk, beq_iff_eq] at hd hl
    simp [headOk, Head.classN, Fields.head, hd, hla hl, dstOf]
  | s =>
    simp only [Fields.laOk, beq_iff_eq] at hl
    simp [headOk, Head.classS, Fields.head, hla hl]
  | l => rfl

end

/-! ### Candidates (R64) -/

/-- Checks 6 to 12 for what an assigned function makes of the fields. -/
structure Fits (f : Fields) (c : Cand) : Prop where
  lenOk : c.lenOk = true
  guardOk : f.guardOk = true
  dstOk : f.dstOk c.cls = true
  laOk : f.laOk c.cls = true
  range : c.range = true
  unused : c.unused = true
  even : c.even = true

/-- The decoder reads the instruction from the fields: the opcode map assigns a function that passes its checks. -/
def Reads (f : Fields) (i : Instr) : Prop := ∃ c, opMap f = some (some c) ∧ Fits f c ∧ c.instr = i

/-- The fields encode a well-formed instruction. -/
def Encodes (f : Fields) (i : Instr) : Prop := i.wellFormed = true ∧ i.fields = some f

theorem decodeFields_eq_ok {f : Fields} {i : Instr} : decodeFields f = .ok i ↔ Reads f i := by
  unfold decodeFields Reads
  constructor
  · intro h
    split at h
    · exact nomatch h
    · exact nomatch h
    · next c hc =>
      split_ifs at h with h1 h2 h3 h4 h5 h6 h7
      simp only [Bool.not_eq_true', Bool.not_eq_false] at h1 h2 h3 h4 h5 h6 h7
      exact ⟨c, hc, ⟨h1, h2, h3, h4, h5, h6, h7⟩, Except.ok.inj h⟩
  · rintro ⟨c, hc, ⟨h1, h2, h3, h4, h5, h6, h7⟩, rfl⟩
    simp [hc, h1, h2, h3, h4, h5, h6, h7]

theorem zero?_nil : zero? [] = true := rfl
theorem zero?_cons {x : Nat} {xs : List Nat} : zero? (x :: xs) = true ↔ x = 0 ∧ zero? xs = true := by
  simp [zero?]

section
variable {f : Fields} {c : Cand}

theorem Fits.hasHead (ft : Fits f c) (w : InWidth f) : HasHead f f.head := hasHead_head w ft.guardOk ft.dstOk
theorem Fits.headOk (ft : Fits f c) : headOk c.cls f.head = true := headOk_head ft.dstOk ft.laOk

theorem fits_of_hasHead {h : Head} (w : HasHead f h) (hk : Proofs.headOk c.cls h = true) (hl : c.lenOk = true) (hr : c.range = true)
    (hu : c.unused = true) (he : c.even = true) : Fits f c :=
  ⟨hl, w.guardOk, w.dstOk hk, w.laOk hk, hr, hu, he⟩

end

end Sys2Proof.Proofs
end

section
/-! Instructions whose last source is given by an operand mode (02 R53, R54): what the decoder reads from their fields, and that
these fields encode it. -/

namespace Sys2Proof.Proofs

open Sys2Proof.Laws

theorem hi_of_len_zero {f : Fields} (w : InWidth f) (h : f.len = 0) : f.hi = 0 := by
  have hi := w.hi
  rw [h] at hi
  exact Nat.lt_one_iff.mp hi

theorem hi_of_len_one {f : Fields} (w : InWidth f) (h : f.len = 1) : f.hi < 2 ^ 32 := by
  have hi := w.hi
  rwa [h] at hi

theorem const_ok {n : BitVec 10} : (IOp.const n).ok = true ↔ n.toNat % 2 = 0 := by
  simp only [IOp.ok, beq_iff_eq, BitVec.getLsbD, Nat.testBit_zero, decide_eq_false_iff_not]
  omega

/-! ### Modes -/

section
variable {f : Fields} {opm op : Nat}

theorem mode_cases (w : InWidth f) : f.mode = 0 ∨ f.mode = 1 ∨ f.mode = 2 ∨ f.mode = 3 := by
  have := w.fn
  simp only [Fields.mode]
  omega

/-- Where LEN fits the mode, the literal is there in mode 3 only. -/
theorem modeLen_cases (w : InWidth f) (hl : f.modeLen = true) :
    (f.mode ≠ 3 → f.len = 0 ∧ f.hi = 0) ∧ (f.mode = 3 → f.len = 1 ∧ f.hi < 2 ^ 32) := by
  simp only [Fields.modeLen, beq_iff_eq] at hl
  constructor
  · intro hm
    rw [if_neg hm] at hl
    exact ⟨hl, hi_of_len_zero w hl⟩
  · intro hm
    rw [if_pos hm] at hl
    exact ⟨hl, hi_of_len_one w hl⟩

theorem fn_eq_of_mode (hn : f.fn % 64 = op) : f.fn = 64 * f.mode + op := by
  simp only [Fields.mode]
  omega

/-- Check 12 is what R54 asks of a constant-bank operand. -/
theorem iop_ok (w : InWidth f) (he : f.evenC = true) (reg : Nat) : (f.iop reg).ok = true := by
  rcases mode_cases w with hm | hm | hm | hm
  case inr.inr.inl =>
    simp [Fields.evenC, hm] at he
    simp only [Fields.iop, hm, const_ok, BitVec.toNat_ofNat]
    omega
  all_goals simp only [Fields.iop, hm, IOp.ok]

theorem fop_okThree (w : InWidth f) (hm : f.mode ≠ 1) (reg : Nat) : (f.fop reg).okThree = true := by
  rcases mode_cases w with h | h | h | h
  case inr.inl => exact absurd h hm
  all_goals simp only [Fields.fop, h, FOp.okThree]

end

/-! ### Encoding what was read -/

section
variable {f : Fields} {opm op : Nat}
variable (w : InWidth f) (hh : HasHead f f.head) (ho : f.opm = opm) (hn : f.fn % 64 = op) (hl : f.modeLen = true)
include w hh ho hn hl

theorem encInt2_iop (hz : f.zero2 = true) : encInt2 f.head opm op (srcOf f.sa) (f.iop f.sb) = f := by
  obtain ⟨hsa, hsb, himm⟩ : f.sa < 32 ∧ f.sb < 32 ∧ f.imm < 65536 := ⟨w.sa, w.sb, w.imm⟩
  have hfn := fn_eq_of_mode hn
  obtain ⟨h0, h1⟩ := modeLen_cases w hl
  rcases mode_cases w with hm | hm | hm | hm
  all_goals
    simp only [Fields.zero2, zero?_cons, hm] at hz
    simp only [Fields.iop, hm, encInt2, Head.fields, code_srcOf, BitVec.toNat_ofNat]
    exact (hh.fields_eq (by omega) ho (by omega) (by omega) (by omega) (by omega) (by omega)).symm

theorem encInt3_iop (hz : f.zero3 = true) : encInt3 f.head opm op (srcOf f.sa) (srcOf f.sb) (f.iop (f.imm % 32)) = f := by
  obtain ⟨hsa, hsb, himm⟩ : f.sa < 32 ∧ f.sb < 32 ∧ f.imm < 65536 := ⟨w.sa, w.sb, w.imm⟩
  have hfn := fn_eq_of_mode hn
  obtain ⟨h0, h1⟩ := modeLen_cases w hl
  rcases mode_cases w with hm | hm | hm | hm
  all_goals
    simp only [Fields.zero3, zero?_cons, hm] at hz
    simp only [Fields.iop, hm, encInt3, Head.fields, code_srcOf, BitVec.toNat_ofNat]
    exact (hh.fields_eq (by omega) ho (by omega) (by omega) (by omega) (by omega) (by omega)).symm

theorem encFlt2_fop (hz : f.zero2f = true) : encFlt2 f.head opm op (srcOf f.sa) (f.fop f.sb) = f := by
  obtain ⟨hsa, hsb, himm⟩ : f.sa < 32 ∧ f.sb < 32 ∧ f.imm < 65536 := ⟨w.sa, w.sb, w.imm⟩
  have hfn := fn_eq_of_mode hn
  obtain ⟨h0, h1⟩ := modeLen_cases w hl
  rcases mode_cases w with hm | hm | hm | hm
  all_goals
    simp only [Fields.zero2f, zero?_cons, hm] at hz
    simp only [Fields.fop, hm, encFlt2, Head.fields, code_srcOf, BitVec.toNat_ofNat]
    exact (hh.fields_eq (by omega) ho (by omega) (by omega) (by omega) (by omega) (by omega)).symm

end

theorem encFfma_fop {f : Fields} (w : InWidth f) (hh : HasHead f f.head) (ho : f.opm = 0x10) (hn : f.fn % 64 = 3) (hl : f.modeLen = true)
    (hm1 : f.mode ≠ 1) (hz : f.zero3 = true) : encFfma f.head (srcOf f.sa) (srcOf f.sb) (f.fop (f.imm % 32)) = f := by
  obtain ⟨hsa, hsb, himm⟩ : f.sa < 32 ∧ f.sb < 32 ∧ f.imm < 65536 := ⟨w.sa, w.sb, w.imm⟩
  have hfn := fn_eq_of_mode hn
  obtain ⟨h0, h1⟩ := modeLen_cases w hl
  rcases mode_cases w with hm | hm | hm | hm
  case inr.inl => exact absurd hm hm1
  all_goals
    simp only [Fields.zero3, zero?_cons, hm] at hz
    simp only [Fields.fop, hm, encFfma, Head.fields, code_srcOf, BitVec.toNat_ofNat]
    exact (hh.fields_eq (by omega) ho (by omega) (by omega) (by omega) (by omega) (by omega)).symm

section
variable {f : Fields} {c : Cand} {k : Cls} {opm op : Nat}
variable (w : InWidth f) (ho : f.opm = opm) (hn : f.fn % 64 = op) (ft : Fits f c)
include w ho hn ft

theorem int2_encodes {i : Head → Src → IOp → Instr} (hw : ∀ h a b, (i h a b).wellFormed = (headOk k h && b.ok))
    (hf : ∀ h a b, (i h a b).fields = some (encInt2 h opm op a b)) (hc : int2 f k i = some c) : Encodes f c.instr := by
  obtain rfl := Option.some.inj hc
  refine ⟨?_, (hf _ _ _).trans (congrArg some (encInt2_iop w (ft.hasHead w) ho hn ft.lenOk ft.unused))⟩
  rw [hw, Bool.and_eq_true]
  exact ⟨ft.headOk, iop_ok w ft.even _⟩

theorem int3_encodes {i : Head → Src → Src → IOp → Instr} (hw : ∀ h a b d, (i h a b d).wellFormed = (headOk .s h && d.ok))
    (hf : ∀ h a b d, (i h a b d).fields = some (encInt3 h opm op a b d)) (hc : int3 f i = some c) : Encodes f c.instr := by
  obtain rfl := Option.some.inj hc
  refine ⟨?_, (hf _ _ _ _).trans (congrArg some (encInt3_iop w (ft.hasHead w) ho hn ft.lenOk ft.unused))⟩
  rw [hw, Bool.and_eq_true]
  exact ⟨ft.headOk, iop_ok w ft.even _⟩

theorem flt2_encodes {i : Head → Src → FOp → Instr} (hw : ∀ h a b, (i h a b).wellFormed = true)
    (hf : ∀ h a b, (i h a b).fields = some (encFlt2 h opm op a b)) (hc : flt2 f i = some c) : Encodes f c.instr := by
  obtain rfl := Option.some.inj hc
  exact ⟨hw _ _ _, (hf _ _ _).trans (congrArg some (encFlt2_fop w (ft.hasHead w) ho hn ft.lenOk ft.unused))⟩

theorem one_encodes {i : Head → Src → Instr} (hw : ∀ h a, (i h a).wellFormed = headOk k h)
    (hf : ∀ h a, (i h a).fields = some (encOne h opm op a)) (hc : one f k i = some c) : Encodes f c.instr := by
  obtain rfl := Option.some.inj hc
  obtain ⟨hsb, himm, -⟩ : f.sb = 0 ∧ f.imm = 0 ∧ _ := by simpa only [zero?_cons] using ft.unused
  obtain ⟨hm, hl⟩ : f.mode = 0 ∧ f.len = 0 := by simpa using ft.lenOk
  have hfn := fn_eq_of_mode hn
  have hsa : f.sa = (srcOf f.sa).code := by rw [code_srcOf, Nat.mod_eq_of_lt w.sa]
  refine ⟨(hw _ _).trans ft.headOk, (hf _ _).trans (congrArg some ?_)⟩
  exact ((ft.hasHead w).fields_eq hl ho (by omega) hsa hsb himm (hi_of_len_zero w hl)).symm

end

/-! ### Reading what was encoded -/

section
variable {h : Head} {a b : Src} {opm op : Nat} {d : IOp} {d' : FOp}

theorem mode_digits (hop : op < 64) : op / 64 = 0 ∧ (64 + op) / 64 = 1 ∧ (128 + op) / 64 = 2 ∧ (192 + op) / 64 = 3 := by omega

theorem encInt2_reads (hop : op < 64) (hd : d.ok = true) : let f := encInt2 h opm op a d
    HasHead f h ∧ f.modeLen = true ∧ f.zero2 = true ∧ f.evenC = true ∧ srcOf f.sa = a ∧ f.iop f.sb = d := by
  obtain ⟨e0, e1, e2, e3⟩ := mode_digits hop
  cases d with
  | const n =>
    refine ⟨hasHead_fields .., ?_⟩
    simp [encInt2, Head.fields, Fields.modeLen, Fields.mode, Fields.zero2, zero?_cons, zero?_nil, Fields.evenC, Fields.iop, srcOf_code,
      e2, const_ok.mp hd, Nat.div_eq_of_lt n.isLt]
  | _ =>
    refine ⟨hasHead_fields .., ?_⟩
    simp [encInt2, Head.fields, Fields.modeLen, Fields.mode, Fields.zero2, zero?_cons, zero?_nil, Fields.evenC, Fields.iop, srcOf_code,
      e0, e1, e3]

theorem encInt3_reads (hop : op < 64) (hd : d.ok = true) : let f := encInt3 h opm op a b d
    HasHead f h ∧ f.modeLen = true ∧ f.zero3 = true ∧ f.evenC = true ∧ srcOf f.sa = a ∧ srcOf f.sb = b ∧ f.iop (f.imm % 32) = d := by
  obtain ⟨e0, e1, e2, e3⟩ := mode_digits hop
  cases d with
  | const n =>
    refine ⟨hasHead_fields .., ?_⟩
    simp [encInt3, Head.fields, Fields.modeLen, Fields.mode, Fields.zero3, zero?_cons, zero?_nil, Fields.evenC, Fields.iop, srcOf_code,
      e2, const_ok.mp hd, Nat.div_eq_of_lt n.isLt]
  | reg r =>
    refine ⟨hasHead_fields .., ?_⟩
    simp [encInt3, Head.fields, Fields.modeLen, Fields.mode, Fields.zero3, zero?_cons, zero?_nil, Fields.evenC, Fields.iop, srcOf_code,
      e0, Nat.div_eq_of_lt (src_code_lt r), Nat.mod_eq_of_lt (src_code_lt r)]
  | _ =>
    refine ⟨hasHead_fields .., ?_⟩
    simp [encInt3, Head.fields, Fields.modeLen, Fields.mode, Fields.zero3, zero?_cons, zero?_nil, Fields.evenC, Fields.iop, srcOf_code,
      e1, e3]

theorem encFlt2_reads (hop : op < 64) : let f := encFlt2 h opm op a d'
    HasHead f h ∧ f.modeLen = true ∧ f.zero2f = true ∧ srcOf f.sa = a ∧ f.fop f.sb = d' := by
  obtain ⟨e0, e1, e2, e3⟩ := mode_digits hop
  cases d' with
  | const n =>
    refine ⟨hasHead_fields .., ?_⟩
    simp [encFlt2, Head.fields, Fields.modeLen, Fields.mode, Fields.zero2f, zero?_cons, zero?_nil, Fields.fop, srcOf_code, e2,
      Nat.div_eq_of_lt n.isLt]
  | imm20 v =>
    have hv : v.toNat / 16 * 16 + v.toNat % 16 = v.toNat := Nat.div_add_mod' _ _
    refine ⟨hasHead_fields .., ?_⟩
    simp [encFlt2, Head.fields, Fields.modeLen, Fields.mode, Fields.zero2f, zero?_cons, zero?_nil, Fields.fop, srcOf_code, e1, hv]
  | _ =>
    refine ⟨hasHead_fields .., ?_⟩
    simp [encFlt2, Head.fields, Fields.modeLen, Fields.mode, Fields.zero2f, zero?_cons, zero?_nil, Fields.fop, srcOf_code, e0, e3]

theorem encFfma_reads (hd : d'.okThree = true) : let f := encFfma h a b d'
    HasHead f h ∧ (f.modeLen && f.mode != 1) = true ∧ f.zero3 = true ∧ srcOf f.sa = a ∧ srcOf f.sb = b ∧ f.fop (f.imm % 32) = d' := by
  cases d' with
  | const n =>
    refine ⟨hasHead_fields .., ?_⟩
    simp [encFfma, Head.fields, Fields.modeLen, Fields.mode, Fields.zero3, zero?_cons, zero?_nil, Fields.fop, srcOf_code,
      Nat.div_eq_of_lt n.isLt]
  | reg r =>
    refine ⟨hasHead_fields .., ?_⟩
    simp [encFfma, Head.fields, Fields.modeLen, Fields.mode, Fields.zero3, zero?_cons, zero?_nil, Fields.fop, srcOf_code,
      Nat.div_eq_of_lt (src_code_lt r), Nat.mod_eq_of_lt (src_code_lt r)]
  | imm20 v => exact nomatch hd
  | lit v =>
    refine ⟨hasHead_fields .., ?_⟩
    simp [encFfma, Head.fields, Fields.modeLen, Fields.mode, Fields.zero3, zero?_cons, zero?_nil, Fields.fop, srcOf_code]

end

section
variable {h : Head} {a b : Src} {k : Cls} {opm op : Nat} {d : IOp} {d' : FOp}

theorem int2_reads {i : Head → Src → IOp → Instr} (hop : op < 64) (hw : (headOk k h && d.ok) = true)
    (hm : opMap (encInt2 h opm op a d) = some (int2 (encInt2 h opm op a d) k i)) : Reads (encInt2 h opm op a d) (i h a d) := by
  obtain ⟨hk, hd⟩ := Bool.and_eq_true_iff.mp hw
  obtain ⟨hh, hl, hz, he, ha, hb⟩ := encInt2_reads (h := h) (opm := opm) (a := a) hop hd
  refine ⟨_, hm, fits_of_hasHead hh hk hl rfl hz he, ?_⟩
  dsimp only
  rw [hh.head_eq, ha, hb]

theorem int3_reads {i : Head → Src → Src → IOp → Instr} (hop : op < 64) (hw : (headOk .s h && d.ok) = true)
    (hm : opMap (encInt3 h opm op a b d) = some (int3 (encInt3 h opm op a b d) i)) : Reads (encInt3 h opm op a b d) (i h a b d) := by
  obtain ⟨hk, hd⟩ := Bool.and_eq_true_iff.mp hw
  obtain ⟨hh, hl, hz, he, ha, hb, hc⟩ := encInt3_reads (h := h) (opm := opm) (a := a) (b := b) hop hd
  refine ⟨_, hm, fits_of_hasHead hh hk hl rfl hz he, ?_⟩
  dsimp only
  rw [hh.head_eq, ha, hb, hc]

theorem flt2_reads {i : Head → Src → FOp → Instr} (hop : op < 64)
    (hm : opMap (encFlt2 h opm op a d') = some (flt2 (encFlt2 h opm op a d') i)) : Reads (encFlt2 h opm op a d') (i h a d') := by
  obtain ⟨hh, hl, hz, ha, hb⟩ := encFlt2_reads (h := h) (opm := opm) (a := a) (d' := d') hop
  refine ⟨_, hm, fits_of_hasHead hh rfl hl rfl hz rfl, ?_⟩
  dsimp only
  rw [hh.head_eq, ha, hb]

theorem ffma_reads (hd : d'.okThree = true) (hm : opMap (encFfma h a b d') = some (candFfma (encFfma h a b d'))) :
    Reads (encFfma h a b d') (.ffma h a b d') := by
  obtain ⟨hh, hl, hz, ha, hb, hc⟩ := encFfma_reads (h := h) (a := a) (b := b) hd
  refine ⟨_, hm, fits_of_hasHead hh rfl hl rfl hz rfl, ?_⟩
  dsimp only
  rw [hh.head_eq, ha, hb, hc]

theorem one_reads {i : Head → Src → Instr} (hop : op < 64) (hk : headOk k h = true)
    (hm : opMap (encOne h opm op a) = some (one (encOne h opm op a) k i)) : Reads (encOne h opm op a) (i h a) := by
  have hh : HasHead (encOne h opm op a) h := hasHead_fields ..
  have hmode : (encOne h opm op a).mode = 0 := (mode_digits hop).1
  refine ⟨_, hm, fits_of_hasHead hh hk (by simp only [hmode]; rfl) rfl rfl rfl, ?_⟩
  dsimp only
  rw [hh.head_eq]
  exact congrArg (i h) (srcOf_code a)

end

end Sys2Proof.Proofs
end

section
/-! The second words of the formats V, M and E (02 R55 to R57): their fields make the number that they were read from, and are
read from the number that they make. -/

namespace Sys2Proof.Proofs

open Sys2Proof.Laws

/-! ### Digits of a number -/

section
variable {w k a b m : Nat} (q : w / k = a + m * b)
include q

theorem digit_next {n : Nat} (h : a < m) (e : k * m = n) : w / n = b := by
  rw [← e, ← Nat.div_div_eq_div_mul, q, digit_div h]

theorem digit_at (h : a < m) : w / k % m = a := by rw [q, digit_mod h]

end

theorem ofNat_digit {w k b n : Nat} {v : BitVec n} (q : w / k = v.toNat + 2 ^ n * b) : BitVec.ofNat n (w / k) = v := by
  apply BitVec.eq_of_toNat_eq
  rw [BitVec.toNat_ofNat, digit_at q v.isLt]

theorem finOf_digit {w k b n : Nat} (hn : 0 < n) {x : Fin n} (q : w / k = x.val + n * b) : finOf n hn (w / k) = x :=
  Fin.ext (digit_at q x.isLt)

/-! ### Format V (R55) -/

theorem vargs_word {f : Fields} (w : InWidth f) (hl : f.len = 2) (hc : f.vcodes = true) (hz : f.vzero = true) (hi : f.imm / 32 = 0) :
    f.vargs.x.reg = f.sa ∧ f.vargs.y.reg = f.sb ∧ f.vargs.z.reg = f.imm ∧ f.vargs.word = f.hi := by
  have hhi : f.hi / 2 ^ 32 < 2 ^ 32 := by have := w.hi; rw [hl] at this; exact Nat.div_lt_of_lt_mul this
  simp only [Fields.vcodes, Bool.and_eq_true, decide_eq_true_eq, bne_iff_ne] at hc
  simp only [Fields.vzero, Bool.and_eq_true] at hz
  obtain ⟨⟨⟨hd, hx⟩, hy⟩, hz⟩ := hz
  have hd := (descOf_zero (Nat.mod_lt _ (by decide)) (by decide) hd).1
  obtain ⟨hx, hxr⟩ := descOf_zero (Nat.mod_lt _ (by decide)) w.sa hx
  obtain ⟨hy, hyr⟩ := descOf_zero (Nat.mod_lt _ (by decide)) w.sb hy
  obtain ⟨hz, hzr⟩ := descOf_zero (Nat.mod_lt _ (by decide)) (Nat.mod_lt _ (by decide)) hz
  refine ⟨hxr, hyr, hzr.trans (by omega), ?_⟩
  unfold VArgs.word Fields.vargs
  rw [hd, hx, hy, hz, code_vtyOf hc.1, code_rmOf (show f.hi / 2 ^ 24 % 4 < 3 by omega), BitVec.toNat_ofNat, BitVec.toNat_ofNat,
    Nat.mod_eq_of_lt hhi, show (64 : Nat) = 2 ^ 6 from rfl, digit_above (n := 2 ^ 32) _ (2 ^ 26) (2 ^ 6) rfl, digit_above (n := 2 ^ 26) _ (2 ^ 24) 4 rfl,
    digit_above (n := 2 ^ 24) _ (2 ^ 20) 16 rfl, digit_above (n := 2 ^ 20) _ (2 ^ 15) 32 rfl, digit_above (n := 2 ^ 15) _ (2 ^ 10) 32 rfl, digit_above (n := 2 ^ 10) _ 32 32 rfl,
    Nat.mod_add_div]

theorem encV_reads (h : Head) (opm fn : Nat) (v : VArgs) (hd : v.d.reg = 0) : let f := encV h opm fn v
    f.vargs = v ∧ f.vcodes = true ∧ f.vzero = true ∧ f.imm / 32 = 0 := by
  have hr := rm_code_lt v.rm
  have q0 : v.word / 1 = v.d.code + 32 * _ := Nat.div_one _
  have q1 := digit_next (n := 32) q0 (desc_code_lt _) rfl
  have q2 := digit_next (n := 2 ^ 10) q1 (desc_code_lt _) rfl
  have q3 := digit_next (n := 2 ^ 15) q2 (desc_code_lt _) rfl
  have q4 := digit_next (n := 2 ^ 20) q3 (desc_code_lt _) rfl
  have hty : v.ty.code.toNat < 16 := lt_trans (vty_code_lt _) (by decide)
  have q5 := digit_next (n := 2 ^ 24) q4 hty rfl
  have q6 := digit_next (n := 2 ^ 26) q5 (lt_trans hr (by decide)) rfl
  have q7 := digit_next (n := 2 ^ 32) q6 v.opt.isLt rfl
  have p0 : v.word % 32 = v.d.code := digit_mod (desc_code_lt _)
  have p1 := digit_at q1 (desc_code_lt _)
  have p2 := digit_at q2 (desc_code_lt _)
  have p3 := digit_at q3 (desc_code_lt _)
  have p4 := digit_at q4 hty
  have p5 := digit_at q5 (lt_trans hr (by decide))
  have hz : v.z.reg % 32 = v.z.reg := Nat.mod_eq_of_lt (desc_reg_lt _)
  have hopt : BitVec.ofNat 6 (v.word / 2 ^ 26) = v.opt := ofNat_digit q6
  have himm : BitVec.ofNat 32 (v.word / 2 ^ 32) = v.imm := by rw [q7, BitVec.ofNat_toNat, BitVec.setWidth_eq]
  have hdd : descOf v.d.code 0 = v.d := hd ▸ descOf_codes v.d
  have hdz : descZero v.d.code 0 = true := hd ▸ descZero_codes v.d
  refine ⟨?_, ?_, ?_, Nat.div_eq_of_lt (desc_reg_lt _)⟩
  · simp only [encV, Fields.vargs, p0, p1, p2, p3, p4, p5, hz, hopt, himm, hdd, descOf_codes, vtyOf_code, rmOf_code]
  · simp only [encV, Fields.vcodes, p4, p5, Bool.and_eq_true, decide_eq_true_eq, bne_iff_ne]
    exact ⟨vty_code_lt _, by omega⟩
  · simp only [encV, Fields.vzero, p0, p1, p2, p3, hz, hdz, descZero_codes, Bool.and_self]


/-! ### Format M (R56) -/

theorem bitOf_bit (x : Nat) : bitOf (x % 2 == 1) = x % 2 := bitOf_beq_one (Nat.mod_lt _ (by decide))

theorem hi_of_len_two {f : Fields} (w : InWidth f) (h : f.len = 2) : f.hi < 2 ^ 64 := by
  have hi := w.hi
  rwa [h] at hi

theorem margs_word {f : Fields} (w : InWidth f) (hl : f.len = 2) (ha : f.margs.fa ≠ .int32) (hb : f.margs.fb ≠ .int32) :
    f.margs.word = f.hi := by
  have hhi : f.hi / 2 ^ 55 < 2 ^ 9 := Nat.div_lt_of_lt_mul (hi_of_len_two w hl)
  have hfa : f.margs.fa.code = f.hi / 2 ^ 13 % 16 := code_fmtOf_of_ne ha
  have hfb : f.margs.fb.code = f.hi / 2 ^ 17 % 16 := code_fmtOf_of_ne hb
  unfold MArgs.word
  rw [hfa, hfb]
  simp only [Fields.margs, finOf_toNat, ptrOf_toNat, bitOf_bit, BitVec.toNat_ofNat]
  rw [Nat.mod_eq_of_lt hhi, digit_above (n := 2 ^ 55) _ (2 ^ 41) (2 ^ 14) rfl, digit_above (n := 2 ^ 41) _ (2 ^ 33) 256 rfl,
    digit_above (n := 2 ^ 33) _ (2 ^ 27) 64 rfl, digit_above (n := 2 ^ 27) _ (2 ^ 21) 64 rfl, digit_above (n := 2 ^ 21) _ (2 ^ 17) 16 rfl,
    digit_above (n := 2 ^ 17) _ (2 ^ 13) 16 rfl, digit_above (n := 2 ^ 13) _ (2 ^ 12) 2 rfl, digit_above (n := 2 ^ 12) _ (2 ^ 9) 8 rfl,
    digit_above (n := 2 ^ 9) _ (2 ^ 6) 8 rfl]
  exact Nat.mod_add_div _ 64

theorem margs_of_word {f : Fields} {m : MArgs} (hf : f.hi = m.word) : f.margs = m ∧ f.hi / 2 ^ 55 = m.opt.toNat := by
  have hfa : m.fa.code < 16 := lt_trans (fmt_code_lt _) (by decide)
  have hfb : m.fb.code < 16 := lt_trans (fmt_code_lt _) (by decide)
  have q0 : m.word / 1 = m.acc.val + 64 * _ := Nat.div_one _
  have q1 := digit_next (n := 2 ^ 6) q0 m.acc.isLt rfl
  have q2 := digit_next (n := 2 ^ 9) q1 m.pa.isLt rfl
  have q3 := digit_next (n := 2 ^ 12) q2 m.pb.isLt rfl
  have q4 := digit_next (n := 2 ^ 13) q3 (bitOf_lt _) rfl
  have q5 := digit_next (n := 2 ^ 17) q4 hfa rfl
  have q6 := digit_next (n := 2 ^ 21) q5 hfb rfl
  have q7 := digit_next (n := 2 ^ 27) q6 m.mm.isLt rfl
  have q8 := digit_next (n := 2 ^ 33) q7 m.nn.isLt rfl
  have q9 := digit_next (n := 2 ^ 41) q8 m.kb.isLt rfl
  have q10 := digit_next (n := 2 ^ 55) q9 m.woff.isLt rfl
  have hacc : finOf 64 (by decide) m.word = m.acc := by have := finOf_digit (by decide) q0; rwa [Nat.div_one] at this
  have hopt : BitVec.ofNat 9 (m.word / 2 ^ 55) = m.opt := by rw [q10, BitVec.ofNat_toNat, BitVec.setWidth_eq]
  refine ⟨?_, hf ▸ q10⟩
  unfold Fields.margs ptrOf
  rw [hf, hacc, finOf_digit _ q1, finOf_digit _ q2, digit_at q3 (bitOf_lt _), bitOf_eq_one, digit_at q4 hfa, fmtOf_code,
    digit_at q5 hfb, fmtOf_code, ofNat_digit q6, ofNat_digit q7, ofNat_digit q8, ofNat_digit q9, hopt]

/-! ### Format E (R57, R213, R217, R218) -/

theorem ecodes_bounds {f : Fields} (h : f.ecodes = true) :
    f.hi / 8 % 16 < 8 ∧ f.hi / 2 ^ 7 % 16 < 8 ∧ f.hi / 2 ^ 12 % 4 < 3 ∧ 0 < f.hi / 2 ^ 14 % 8 := by
  simp only [Fields.ecodes, Bool.and_eq_true, decide_eq_true_eq, bne_iff_ne] at h
  omega

theorem code_mod_eight_scopeOf {x : Nat} (h : 0 < x % 8) : (scopeOf (x % 8)).code = x % 8 := code_scopeOf h (Nat.mod_lt _ (by decide))

theorem plvOf_toNat {x : Nat} (h : x < 5) : (plvOf x).val = x := Nat.mod_eq_of_lt h

theorem cpyArgs_word {f : Fields} (he : f.ecodes = true) (hk : f.hi / 2 ^ 17 % 8 < 5) (hp : f.plv < 5) (hz : f.hi / 2 ^ 59 = 0) :
    f.cpyArgs.word = f.hi := by
  obtain ⟨hfs, hfm, hrm, hsc⟩ := ecodes_bounds he
  have hhi : f.hi / 2 ^ 40 < 2 ^ 19 := by omega
  unfold CpyArgs.word Fields.cpyArgs
  rw [ptrOf_toNat, code_fmtOf hfs, code_fmtOf hfm, bitOf_bit, code_rmOf hrm, code_mod_eight_scopeOf hsc, code_cpyKindOf hk,
    plvOf_toNat hp, bitOf_bit, BitVec.toNat_ofNat, BitVec.toNat_ofNat, Fields.plv, Nat.mod_eq_of_lt hhi, show (65536 : Nat) = 2 ^ 16 from rfl, digit_above (n := 2 ^ 40) _ (2 ^ 24) (2 ^ 16) rfl,
    digit_above (n := 2 ^ 24) _ (2 ^ 23) 2 rfl, digit_above (n := 2 ^ 23) _ (2 ^ 20) 8 rfl, digit_above (n := 2 ^ 20) _ (2 ^ 17) 8 rfl,
    digit_above (n := 2 ^ 17) _ (2 ^ 14) 8 rfl, digit_above (n := 2 ^ 14) _ (2 ^ 12) 4 rfl, digit_above (n := 2 ^ 12) _ (2 ^ 11) 2 rfl,
    digit_above (n := 2 ^ 11) _ (2 ^ 7) 16 rfl, digit_above (n := 2 ^ 7) _ 8 16 rfl, Nat.mod_add_div]

theorem cpyArgs_of_word {f : Fields} {e : CpyArgs} (hf : f.hi = e.word) :
    f.cpyArgs = e ∧ f.ecodes = true ∧ f.hi / 2 ^ 17 % 8 < 5 ∧ f.plv < 5 := by
  have hfs : e.fs.code < 16 := lt_trans (fmt_code_lt _) (by decide)
  have hfm : e.fm.code < 16 := lt_trans (fmt_code_lt _) (by decide)
  have hrm : e.rm.code < 4 := lt_trans (rm_code_lt _) (by decide)
  have hkind : e.kind.code < 8 := lt_trans (cpyKind_code_lt _) (by decide)
  have hplv : e.plv.val < 8 := lt_trans e.plv.isLt (by decide)
  have q0 : e.word / 1 = e.ch.val + 8 * _ := Nat.div_one _
  have q1 := digit_next (n := 8) q0 e.ch.isLt rfl
  have q2 := digit_next (n := 2 ^ 7) q1 hfs rfl
  have q3 := digit_next (n := 2 ^ 11) q2 hfm rfl
  have q4 := digit_next (n := 2 ^ 12) q3 (bitOf_lt _) rfl
  have q5 := digit_next (n := 2 ^ 14) q4 hrm rfl
  have q6 := digit_next (n := 2 ^ 17) q5 (scope_code_lt _).2 rfl
  have q7 := digit_next (n := 2 ^ 20) q6 hkind rfl
  have q8 := digit_next (n := 2 ^ 23) q7 hplv rfl
  have q9 := digit_next (n := 2 ^ 24) q8 (bitOf_lt _) rfl
  have q10 := digit_next (n := 2 ^ 40) q9 e.rows.isLt rfl
  have hch : finOf 8 (by decide) e.word = e.ch := by have := finOf_digit (by decide) q0; rwa [Nat.div_one] at this
  have hlstr : BitVec.ofNat 19 (e.word / 2 ^ 40) = e.lstr := by rw [q10, BitVec.ofNat_toNat, BitVec.setWidth_eq]
  have d1 := digit_at q1 hfs
  have d2 := digit_at q2 hfm
  have d4 := digit_at q4 hrm
  have d5 := digit_at q5 (scope_code_lt _).2
  have d6 := digit_at q6 hkind
  have d7 := digit_at q7 hplv
  have plv : plvOf e.plv.val = e.plv := finOf_val _ _
  refine ⟨?_, ?_, ?_, ?_⟩
  · unfold Fields.cpyArgs Fields.plv ptrOf
    rw [hf, hch, d1, fmtOf_code, d2, fmtOf_code, digit_at q3 (bitOf_lt _), bitOf_eq_one, d4, rmOf_code, d5, scopeOf_code, d6,
      cpyKindOf_code, d7, plv, digit_at q8 (bitOf_lt _), bitOf_eq_one, ofNat_digit q9, hlstr]
  · have hr := rm_code_lt e.rm
    have hs := (scope_code_lt e.scope).1
    unfold Fields.ecodes
    rw [hf, d1, d2, d4, d5]
    simp [fmt_code_lt]
    omega
  · rw [hf, d6]
    exact cpyKind_code_lt _
  · unfold Fields.plv
    rw [hf, d7]
    exact e.plv.isLt

theorem gathArgs_word {f : Fields} (he : f.ecodes = true) (h0 : f.hi % 8 = 0) (hz : f.hi / 2 ^ 49 = 0) : f.gathArgs.word = f.hi := by
  obtain ⟨hfs, hfm, hrm, hsc⟩ := ecodes_bounds he
  have hhi : f.hi / 2 ^ 33 < 2 ^ 16 := by omega
  unfold GathArgs.word Fields.gathArgs
  rw [code_fmtOf hfs, code_fmtOf hfm, bitOf_bit, code_rmOf hrm, code_mod_eight_scopeOf hsc, BitVec.toNat_ofNat, BitVec.toNat_ofNat,
    Nat.mod_eq_of_lt hhi, show (65536 : Nat) = 2 ^ 16 from rfl, digit_above (n := 2 ^ 33) _ (2 ^ 17) (2 ^ 16) rfl,
    digit_above (n := 2 ^ 17) _ (2 ^ 14) 8 rfl, digit_above (n := 2 ^ 14) _ (2 ^ 12) 4 rfl, digit_above (n := 2 ^ 12) _ (2 ^ 11) 2 rfl,
    digit_above (n := 2 ^ 11) _ (2 ^ 7) 16 rfl, digit_above (n := 2 ^ 7) _ 8 16 rfl]
  omega

theorem gathArgs_of_word {f : Fields} {e : GathArgs} (hf : f.hi = e.word) :
    f.gathArgs = e ∧ f.ecodes = true ∧ f.hi % 8 = 0 := by
  have hfs : e.fs.code < 16 := lt_trans (fmt_code_lt _) (by decide)
  have hfm : e.fm.code < 16 := lt_trans (fmt_code_lt _) (by decide)
  have hrm : e.rm.code < 4 := lt_trans (rm_code_lt _) (by decide)
  have q1 : e.word / 8 = e.fs.code + 16 * _ := Nat.mul_div_cancel_left _ (by decide)
  have q2 := digit_next (n := 2 ^ 7) q1 hfs rfl
  have q3 := digit_next (n := 2 ^ 11) q2 hfm rfl
  have q4 := digit_next (n := 2 ^ 12) q3 (bitOf_lt _) rfl
  have q5 := digit_next (n := 2 ^ 14) q4 hrm rfl
  have q6 := digit_next (n := 2 ^ 17) q5 (scope_code_lt _).2 rfl
  have q7 := digit_next (n := 2 ^ 33) q6 e.count.isLt rfl
  have hrow : BitVec.ofNat 16 (e.word / 2 ^ 33) = e.rowel := by rw [q7, BitVec.ofNat_toNat, BitVec.setWidth_eq]
  have d1 := digit_at q1 hfs
  have d2 := digit_at q2 hfm
  have d4 := digit_at q4 hrm
  have d5 := digit_at q5 (scope_code_lt _).2
  refine ⟨?_, ?_, ?_⟩
  · unfold Fields.gathArgs
    rw [hf, d1, fmtOf_code, d2, fmtOf_code, digit_at q3 (bitOf_lt _), bitOf_eq_one, d4, rmOf_code, d5, scopeOf_code, ofNat_digit q6, hrow]
  · have hr := rm_code_lt e.rm
    have hs := (scope_code_lt e.scope).1
    unfold Fields.ecodes
    rw [hf, d1, d2, d4, d5]
    simp [fmt_code_lt]
    omega
  · rw [hf]
    exact Nat.mul_mod_right _ _

theorem collArgs_word {f : Fields} (hfs : f.hi / 8 % 16 < 8) (hsc : 0 < f.hi / 2 ^ 14 % 8) (hop : f.hi / 2 ^ 17 % 4 < 3) (hp : f.plv < 5)
    (h7 : f.hi / 2 ^ 7 % 2 ^ 7 = 0) (h19 : f.hi / 2 ^ 19 % 2 = 0) (hz : f.hi / 2 ^ 35 = 0) : f.collArgs.word = f.hi := by
  have hhi : f.hi / 2 ^ 29 < 2 ^ 6 := by omega
  have e1 : f.hi / 8 % 16 = f.hi / 8 % 2 ^ 11 := by omega
  have e2 : f.hi / 2 ^ 17 % 4 = f.hi / 2 ^ 17 % 8 := by omega
  unfold CollArgs.word Fields.collArgs
  rw [ptrOf_toNat, code_fmtOf hfs, code_mod_eight_scopeOf hsc, code_collOpOf hop, plvOf_toNat hp, BitVec.toNat_ofNat,
    BitVec.toNat_ofNat, Fields.plv, e1, e2, Nat.mod_eq_of_lt hhi, show (64 : Nat) = 2 ^ 6 from rfl, digit_above (n := 2 ^ 29) _ (2 ^ 23) (2 ^ 6) rfl,
    digit_above (n := 2 ^ 23) _ (2 ^ 20) 8 rfl, digit_above (n := 2 ^ 20) _ (2 ^ 17) 8 rfl, digit_above (n := 2 ^ 17) _ (2 ^ 14) 8 rfl,
    digit_above (n := 2 ^ 14) _ 8 (2 ^ 11) rfl, Nat.mod_add_div]

theorem collArgs_of_word {f : Fields} {e : CollArgs} (hf : f.hi = e.word) : f.collArgs = e ∧ f.hi / 8 % 16 < 8 ∧
    0 < f.hi / 2 ^ 14 % 8 ∧ f.hi / 2 ^ 17 % 4 < 3 ∧ f.plv < 5 ∧ f.hi / 2 ^ 7 % 2 ^ 7 = 0 ∧ f.hi / 2 ^ 19 % 2 = 0 := by
  have hfs := fmt_code_lt e.fs
  have hop := collOp_code_lt e.op
  have hfs' : e.fs.code < 2 ^ 11 := by omega
  have hplv : e.plv.val < 8 := lt_trans e.plv.isLt (by decide)
  have q0 : e.word / 1 = e.ch.val + 8 * _ := Nat.div_one _
  have q1 := digit_next (n := 8) q0 e.ch.isLt rfl
  have q2 := digit_next (n := 2 ^ 14) q1 hfs' rfl
  have q3 := digit_next (n := 2 ^ 17) q2 (scope_code_lt _).2 rfl
  have q4 := digit_next (n := 2 ^ 20) q3 (show e.op.code < 8 by omega) rfl
  have q5 := digit_next (n := 2 ^ 23) q4 hplv rfl
  have q6 := digit_next (n := 2 ^ 29) q5 e.p.isLt rfl
  have hch : finOf 8 (by decide) e.word = e.ch := by have := finOf_digit (by decide) q0; rwa [Nat.div_one] at this
  have hrank : BitVec.ofNat 6 (e.word / 2 ^ 29) = e.rank := by rw [q6, BitVec.ofNat_toNat, BitVec.setWidth_eq]
  have d1 : e.word / 8 % 16 = e.fs.code := by rw [q1]; omega
  have d2 := digit_at q2 (scope_code_lt _).2
  have d3 : e.word / 2 ^ 17 % 4 = e.op.code := by rw [q3]; omega
  have d4 := digit_at q4 hplv
  have plv : plvOf e.plv.val = e.plv := finOf_val _ _
  refine ⟨?_, ?_⟩
  · unfold Fields.collArgs Fields.plv ptrOf
    rw [hf, hch, d1, fmtOf_code, d2, scopeOf_code, d3, collOpOf_code, d4, plv, ofNat_digit q5, hrank]
  · unfold Fields.plv
    rw [hf, d1, d2, d3, d4]
    exact ⟨hfs, (scope_code_lt _).1, hop, e.plv.isLt, by omega, by omega⟩

end Sys2Proof.Proofs
end

section
/-! Instructions without operand modes (02 R52, R55, R56, R61 to R63): what the decoder reads from their fields, and that these
fields encode it. -/

namespace Sys2Proof.Proofs

open Sys2Proof.Laws

/-! ### Encoding what was read -/

/-- The widths of the operand fields, and of what LEN lets follow them. -/
theorem operand_bounds {f : Fields} (w : InWidth f) : f.fn < 256 ∧ f.sa < 32 ∧ f.sb < 32 ∧ f.imm < 65536 ∧ (f.len = 0 → f.hi = 0) ∧
    (f.len = 1 → f.hi < 2 ^ 32) ∧ (f.len = 2 → f.hi < 2 ^ 64) :=
  ⟨w.fn, w.sa, w.sb, w.imm, hi_of_len_zero w, hi_of_len_one w, hi_of_len_two w⟩

section
variable {f : Fields} {c : Cand} {k : Cls} {opm fn : Nat} {r : Bool} {zs : List Nat}
variable (w : InWidth f) (ho : f.opm = opm) (ft : Fits f c)
include w ho ft

/-- The fields of a group without operand modes encode what was read, when they are the operands' codes. -/
theorem cand_encodes {len sa sb imm hi : Nat} {i : Instr} (hc : cand f len k r zs i = some c)
    (hf : i.fields = some { f.head.fields len opm fn with sa := sa, sb := sb, imm := imm, hi := hi })
    (hw : headOk k f.head = true → r = true → zero? zs = true → i.wellFormed = true)
    (hx : f.len = len → r = true → zero? zs = true → f.fn = fn ∧ f.sa = sa ∧ f.sb = sb ∧ f.imm = imm ∧ f.hi = hi) : Encodes f c.instr := by
  obtain rfl := Option.some.inj hc
  have hl : f.len = len := by simpa using ft.lenOk
  obtain ⟨hn, hsa, hsb, himm, hhi⟩ := hx hl ft.range ft.unused
  exact ⟨hw ft.headOk ft.range ft.unused, hf.trans (congrArg some ((ft.hasHead w).fields_eq hl ho hn hsa hsb himm hhi).symm)⟩

theorem candV_encodes (hn : f.fn = fn) {rule : VRule} {i : Head → VArgs → Instr} (hw : ∀ h v, (i h v).wellFormed = (headOk k h && rule.ok v))
    (hf : ∀ h v, (i h v).fields = some (encV h opm fn v)) (hc : candV f k rule i = some c) : Encodes f c.instr := by
  obtain rfl := Option.some.inj hc
  have hl : f.len = 2 := by simpa using ft.lenOk
  obtain ⟨hcodes, hrange⟩ := Bool.and_eq_true_iff.mp ft.range
  obtain ⟨⟨hzero, hunused⟩, himm⟩ : (f.vzero = true ∧ rule.unusedZero f.vargs = true) ∧ f.imm / 32 = 0 := by simpa using ft.unused
  obtain ⟨hx, hy, hz, hword⟩ := vargs_word w hl hcodes hzero himm
  refine ⟨?_, (hf _ _).trans (congrArg some ((ft.hasHead w).fields_eq hl ho hn hx.symm hy.symm hz.symm hword.symm).symm)⟩
  rw [hw, VRule.ok, hrange, hunused]
  exact (Bool.and_true _).trans ft.headOk

theorem candM_encodes (hn : f.fn = fn) {u : Bool} {i : Head → MArgs → Instr} (hc : candM f k r u i = some c)
    (hf : (i f.head f.margs).fields = some (encM f.head opm fn f.margs))
    (hw : headOk k f.head = true → r = true → u = true → (i f.head f.margs).wellFormed = true)
    (hfmt : r = true → u = true → f.margs.fa ≠ .int32 ∧ f.margs.fb ≠ .int32) : Encodes f c.instr := by
  refine cand_encodes w ho ft hc hf (fun hk hr hz => ?_) (fun hl hr hz => ?_) <;>
    simp only [zero?_cons, bitOf_not_eq_zero] at hz <;> obtain ⟨hsa, hsb, himm, hu, -⟩ := hz
  · exact hw hk hr hu
  · obtain ⟨ha, hb⟩ := hfmt hr hu
    exact ⟨hn, hsa, hsb, himm, (margs_word w hl ha hb).symm⟩

end

/-! ### Loads, stores, atomics and reductions (R61, R62) -/

section
variable {f : Fields}

theorem code_size (f : Fields) : f.size.code = f.fn % 4 := code_sizeOf (Nat.mod_lt _ (by decide))
theorem bitOf_uns (f : Fields) : bitOf f.uns = f.fn / 4 % 2 := bitOf_bit _
theorem bitOf_dw (f : Fields) : bitOf f.dw = f.fn / 16 % 2 := bitOf_bit _
theorem code_ord (w : InWidth f) : ordCode f.ord = f.fn / 32 := code_ordOf (Nat.div_lt_of_lt_mul w.fn)

/-- A memory operand that check 10 accepts is read without loss, up to an IMM16 that it does not use. -/
theorem mem_codes (w : InWidth f) (h : f.memOk = true) :
    f.mem.am = f.fn / 8 % 4 ∧ f.mem.ptr = f.sa ∧ (f.memZero = 0 → f.mem.immF = f.imm) := by
  simp only [Fields.memOk, Bool.and_eq_true, bne_iff_ne, decide_eq_true_eq] at h
  have ham : f.fn / 8 % 4 < 3 := by omega
  refine ⟨memOf_am ham _ _, (memOf_ptr _ _ _).trans (Nat.mod_eq_of_lt h.2), fun hz => ?_⟩
  have himm := w.imm
  simp only [Fields.memZero] at hz
  rw [Fields.mem, memOf_immF _ _ _ ham]
  split_ifs at hz ⊢ <;> omega

variable {c : Cand} {opm : Nat} (w : InWidth f) (ho : f.opm = opm) (ft : Fits f c)
include w ho ft

theorem candLoad_encodes {i : Head → MemOp → Size → Bool → Option Scope → Instr}
    (hw : ∀ h m sz u o, (i h m sz u o).wellFormed = loadOk sz u) (hf : ∀ h m sz u o, (i h m sz u o).fields = some (encLoad h opm m sz u o))
    (hc : candLoad f i = some c) : Encodes f c.instr := by
  refine cand_encodes w ho ft hc (hf _ _ _ _ _) (fun _ _ hz => ?_) (fun hl hr hz => ?_) <;>
    simp only [zero?_cons, bitOf_not_eq_zero] at hz <;> obtain ⟨hsb, hm, hu, -⟩ := hz
  · exact (hw _ _ _ _ _).trans hu
  · obtain ⟨ham, hptr, himm⟩ := mem_codes w hr
    rw [code_size, bitOf_uns, ham, code_ord w]
    exact ⟨by omega, hptr.symm, hsb, (himm hm).symm, hi_of_len_zero w hl⟩

theorem candStore_encodes {i : Head → MemOp → Size → Option Scope → Src → Instr}
    (hw : ∀ h m sz o b, (i h m sz o b).wellFormed = h.classN) (hf : ∀ h m sz o b, (i h m sz o b).fields = some (encStore h opm m sz o b))
    (hc : candStore f i = some c) : Encodes f c.instr := by
  refine cand_encodes w ho ft hc (hf _ _ _ _ _) (fun hk _ _ => (hw _ _ _ _ _).trans hk) (fun hl hr hz => ?_)
  simp only [zero?_cons] at hz
  obtain ⟨hm, hfn, -⟩ := hz
  obtain ⟨ham, hptr, himm⟩ := mem_codes w hr
  rw [code_size, ham, code_ord w, code_srcOf]
  exact ⟨by omega, hptr.symm, (Nat.mod_eq_of_lt w.sb).symm, (himm hm).symm, hi_of_len_zero w hl⟩

theorem encSync_encodes {k : Cls} {op b : Nat} {zs : List Nat} {i : Instr} (hop : f.fn % 4 = op)
    (hc : cand f 0 k f.memOk zs i = some c) (hf : i.fields = some (encSync f.head op f.mem b)) (hw : headOk k f.head = true → i.wellFormed = true)
    (hopm : opm = 0x24) (hz : zero? zs = true → f.memZero = 0 ∧ f.fn / 4 % 2 = 0 ∧ f.fn / 32 = 0 ∧ f.sb = b) : Encodes f c.instr := by
  subst hopm
  refine cand_encodes w ho ft hc hf (fun hk _ _ => hw hk) (fun hl hr h => ?_)
  obtain ⟨hm, h4, h32, hsb⟩ := hz h
  obtain ⟨ham, hptr, himm⟩ := mem_codes w hr
  rw [ham]
  exact ⟨by omega, hptr.symm, hsb, (himm hm).symm, hi_of_len_zero w hl⟩

theorem encAmo_encodes {op x : Nat} {r : Bool} {zs : List Nat} {i : Instr} (hop : f.fn % 16 = op) (hopm : opm = 0x28)
    (hc : cand f 0 .l r zs i = some c) (hf : i.fields = some (encAmo f.head op f.amoArgs x)) (hw : r = true → i.wellFormed = true)
    (hsa : r = true → f.sa < 8) (hz : zero? zs = true → f.imm % 32 = x ∧ f.imm / 64 = 0) : Encodes f c.instr := by
  subst hopm
  refine cand_encodes w ho ft hc hf (fun _ hr _ => hw hr) (fun hl hr h => ?_)
  obtain ⟨hx, h64⟩ := hz h
  have hglob : bitOf f.amoArgs.glob = f.imm / 32 % 2 := bitOf_bit _
  refine ⟨?_, (Nat.mod_eq_of_lt (hsa hr)).symm, ?_, by omega, hi_of_len_zero w hl⟩
  · rw [show f.amoArgs.dw = f.dw from rfl, show f.amoArgs.scope = f.ord from rfl, bitOf_dw, code_ord w]
    omega
  · exact ((code_srcOf _).trans (Nat.mod_eq_of_lt w.sb)).symm

theorem encRed_encodes {op : Nat} {r : Bool} {i : Instr} (hop : f.fn % 16 = op) (hopm : opm = 0x29)
    (hc : cand f 0 .n r [f.imm] i = some c) (hf : i.fields = some (encRed f.head op f.redArgs))
    (hw : headOk .n f.head = true → r = true → i.wellFormed = true) (hsa : r = true → f.sa < 8) : Encodes f c.instr := by
  subst hopm
  refine cand_encodes w ho ft hc hf (fun hk hr _ => hw hk hr) (fun hl hr h => ?_)
  obtain ⟨himm, -⟩ := zero?_cons.mp h
  refine ⟨?_, (Nat.mod_eq_of_lt (hsa hr)).symm, ?_, himm, hi_of_len_zero w hl⟩
  · rw [show f.redArgs.dw = f.dw from rfl, show f.redArgs.scope = f.ord from rfl, bitOf_dw, code_ord w]
    omega
  · exact ((code_srcOf _).trans (Nat.mod_eq_of_lt w.sb)).symm

end

/-! ### Reading what was encoded -/

section
variable {h : Head} {k : Cls} {opm fn : Nat} {r : Bool} {zs : List Nat}

theorem reads_of_hasHead {f : Fields} {len : Nat} {i : Instr} (hh : HasHead f h) (hl : f.len = len) (hk : headOk k h = true)
    (hm : opMap f = some (cand f len k r zs i)) (hr : r = true) (hz : zero? zs = true) : Reads f i :=
  ⟨_, hm, fits_of_hasHead hh hk (beq_iff_eq.mpr hl) hr hz rfl, rfl⟩

theorem cand_reads {len sa sb imm hi : Nat} {i j : Instr} (hk : headOk k h = true)
    (hm : opMap { h.fields len opm fn with sa := sa, sb := sb, imm := imm, hi := hi } =
      some (cand { h.fields len opm fn with sa := sa, sb := sb, imm := imm, hi := hi } len k r zs i))
    (hr : r = true) (hz : zero? zs = true) (hj : i = j) : Reads { h.fields len opm fn with sa := sa, sb := sb, imm := imm, hi := hi } j :=
  hj ▸ reads_of_hasHead (hasHead_fields ..) rfl hk hm hr hz

theorem candV_reads {rule : VRule} {i : Head → VArgs → Instr} {v : VArgs} (hw : (headOk k h && rule.ok v) = true)
    (hm : opMap (encV h opm fn v) = some (candV (encV h opm fn v) k rule i)) : Reads (encV h opm fn v) (i h v) := by
  obtain ⟨hk, hok⟩ := Bool.and_eq_true_iff.mp hw
  obtain ⟨hrange, hunused⟩ := Bool.and_eq_true_iff.mp hok
  have hd : v.d.reg = 0 := by
    have hd := hrange
    simp only [VRule.inRange, Bool.and_eq_true] at hd
    cases e : v.d with
    | scalar r => simp [e] at hd
    | _ => rfl
  have hh : HasHead (encV h opm fn v) h := hasHead_fields ..
  obtain ⟨hv, hcodes, hzero, himm⟩ := encV_reads h opm fn v hd
  refine ⟨_, hm, fits_of_hasHead hh hk rfl ?_ ?_ rfl, ?_⟩
  · simp only [hv, hcodes, hrange, Bool.and_self]
  · simp only [hv, hzero, hunused, himm, beq_self_eq_true, Bool.and_self]
  · dsimp only
    rw [hv, hh.head_eq]

theorem encM_margs (h : Head) (opm fn : Nat) (m : MArgs) : (encM h opm fn m).margs = m := (margs_of_word (f := encM h opm fn m) rfl).1

theorem candM_reads {range unused : MArgs → Bool} {i : Head → MArgs → Instr} {m : MArgs}
    (hw : (headOk k h && range m && unused m) = true)
    (hm : opMap (encM h opm fn m) = some (candM (encM h opm fn m) k (range (encM h opm fn m).margs) (unused (encM h opm fn m).margs) i)) :
    Reads (encM h opm fn m) (i h m) := by
  obtain ⟨hw, hu⟩ := Bool.and_eq_true_iff.mp hw
  obtain ⟨hk, hr⟩ := Bool.and_eq_true_iff.mp hw
  have hh : HasHead (encM h opm fn m) h := hasHead_fields ..
  rw [encM_margs] at hm
  refine ⟨_, hm, fits_of_hasHead hh hk rfl hr ?_ rfl, ?_⟩
  · rw [hu]
    rfl
  · dsimp only
    rw [hh.head_eq, encM_margs]

/-! ### Loads, stores, atomics and reductions -/

theorem mem_of_codes {f : Fields} {m : MemOp} (hfn : f.fn / 8 % 4 = m.am) (hsa : f.sa = m.ptr) (himm : f.imm = m.immF) :
    f.mem = m ∧ f.memOk = true ∧ f.memZero = 0 := by
  have ham := mem_am_lt m
  have hptr := mem_ptr_lt m
  refine ⟨?_, ?_, ?_⟩
  · rw [Fields.mem, hfn, hsa, himm, memOf_codes]
  · simp only [Fields.memOk, hfn, hsa, Bool.and_eq_true, bne_iff_ne, decide_eq_true_eq]
    omega
  · rw [Fields.memZero, hfn, himm]
    cases m <;> rfl

theorem access_of_codes {f : Fields} {m : MemOp} {sz : Size} {u : Bool} {o : Option Scope}
    (hfn : f.fn = sz.code + 4 * bitOf u + 8 * m.am + 32 * ordCode o) :
    f.fn / 8 % 4 = m.am ∧ f.size = sz ∧ f.fn / 4 % 2 = bitOf u ∧ f.uns = u ∧ f.ord = o := by
  have hs := size_code_lt sz
  have hu := bitOf_lt u
  have ham := mem_am_lt m
  have e1 : f.fn % 4 = sz.code := by omega
  have e2 : f.fn / 4 % 2 = bitOf u := by omega
  have e3 : f.fn / 32 = ordCode o := by omega
  exact ⟨by omega, by rw [Fields.size, e1, sizeOf_code], e2, by rw [Fields.uns, e2, bitOf_eq_one], by rw [Fields.ord, e3, ordOf_code]⟩

theorem load_reads {m : MemOp} {sz : Size} {u : Bool} {o : Option Scope} {i : Head → MemOp → Size → Bool → Option Scope → Instr}
    (hw : loadOk sz u = true) (hm : opMap (encLoad h opm m sz u o) = some (candLoad (encLoad h opm m sz u o) i)) :
    Reads (encLoad h opm m sz u o) (i h m sz u o) := by
  have hh : HasHead (encLoad h opm m sz u o) h := hasHead_fields ..
  obtain ⟨ham, hs, -, hu, ho⟩ := access_of_codes (f := encLoad h opm m sz u o) (m := m) (sz := sz) (u := u) (o := o) rfl
  obtain ⟨hmem, hok, hzero⟩ := mem_of_codes (f := encLoad h opm m sz u o) ham rfl rfl
  refine ⟨_, hm, fits_of_hasHead hh rfl rfl hok ?_ rfl, ?_⟩
  · rw [hs, hu, hzero, hw]
    rfl
  · dsimp only
    rw [hh.head_eq, hmem, hs, hu, ho]

theorem store_reads {m : MemOp} {sz : Size} {o : Option Scope} {b : Src} {i : Head → MemOp → Size → Option Scope → Src → Instr}
    (hk : headOk .n h = true) (hm : opMap (encStore h opm m sz o b) = some (candStore (encStore h opm m sz o b) i)) :
    Reads (encStore h opm m sz o b) (i h m sz o b) := by
  have hh : HasHead (encStore h opm m sz o b) h := hasHead_fields ..
  obtain ⟨ham, hs, hu, -, ho⟩ := access_of_codes (f := encStore h opm m sz o b) (m := m) (sz := sz) (u := false) (o := o) rfl
  obtain ⟨hmem, hok, hzero⟩ := mem_of_codes (f := encStore h opm m sz o b) ham rfl rfl
  refine ⟨_, hm, fits_of_hasHead hh hk rfl hok ?_ rfl, ?_⟩
  · rw [hu, hzero]
    rfl
  · dsimp only
    rw [hh.head_eq, hmem, hs, ho]
    exact congrArg (i h m sz o) (srcOf_code b)

theorem encSync_codes {op b : Nat} {m : MemOp} (hop : op < 4) : let f := encSync h op m b
    f.fn % 4 = op ∧ f.fn / 4 % 2 = 0 ∧ f.fn / 32 = 0 ∧ f.mem = m ∧ f.memOk = true ∧ f.memZero = 0 := by
  have ham := mem_am_lt m
  have hfn : (encSync h op m b).fn = op + 8 * m.am := rfl
  exact ⟨by omega, by omega, by omega, mem_of_codes (by omega) rfl rfl⟩

theorem sync_reads {op : Nat} {m : MemOp} {i : Head → MemOp → Instr} (hop : op < 4) (hk : headOk k h = true)
    (hm : ∀ f : Fields, f.fn % 4 = op → map24 f = cand f 0 k f.memOk [f.memZero, f.fn / 4 % 2, f.fn / 32, f.sb] (i f.head f.mem)) :
    Reads (encSync h op m 0) (i h m) := by
  have hh : HasHead (encSync h op m 0) h := hasHead_fields ..
  obtain ⟨h4, h2, h32, hmem, hok, hzero⟩ := encSync_codes (h := h) (m := m) (b := 0) hop
  refine ⟨_, congrArg some (hm _ h4), fits_of_hasHead hh hk rfl hok ?_ rfl, ?_⟩
  · rw [hzero, h2, h32]
    rfl
  · dsimp only
    rw [hh.head_eq, hmem]

theorem stfull_reads {m : MemOp} {b : Src} (hk : headOk .n h = true) : Reads (encSync h 2 m b.code) (.stfull h m b) := by
  have hh : HasHead (encSync h 2 m b.code) h := hasHead_fields ..
  obtain ⟨h4, h2, h32, hmem, hok, hzero⟩ := encSync_codes (h := h) (m := m) (b := b.code) (show 2 < 4 by decide)
  refine ⟨_, congrArg some (by simp only [map24, h4]; rfl), fits_of_hasHead hh hk rfl hok ?_ rfl, ?_⟩
  · rw [hzero, h2, h32]
    rfl
  · dsimp only
    rw [hh.head_eq, hmem]
    exact congrArg (Instr.stfull h m) (srcOf_code b)

theorem encAmo_reads {op c : Nat} {x : AmoArgs} (hop : op < 16) (hc : c < 32) : let f := encAmo h op x c
    f.fn % 16 = op ∧ f.amoArgs = x ∧ f.dw = x.dw ∧ decide (f.sa < 8) = true ∧ f.imm % 32 = c ∧ f.imm / 64 = 0 := by
  have hdw := bitOf_lt x.dw
  have hglob := bitOf_lt x.glob
  have hfn : (encAmo h op x c).fn = op + 16 * bitOf x.dw + 32 * ordCode x.scope := rfl
  have himm : (encAmo h op x c).imm = c + 32 * bitOf x.glob := rfl
  have edw : (encAmo h op x c).dw = x.dw := by
    rw [Fields.dw, show (encAmo h op x c).fn / 16 % 2 = bitOf x.dw by omega, bitOf_eq_one]
  have eord : (encAmo h op x c).ord = x.scope := by
    rw [Fields.ord, show (encAmo h op x c).fn / 32 = ordCode x.scope by omega, ordOf_code]
  have eglob : ((encAmo h op x c).imm / 32 % 2 == 1) = x.glob := by
    rw [show (encAmo h op x c).imm / 32 % 2 = bitOf x.glob by omega, bitOf_eq_one]
  refine ⟨by omega, ?_, edw, decide_eq_true x.p.isLt, by omega, by omega⟩
  rw [Fields.amoArgs, edw, eord, eglob]
  simp only [encAmo, ptrOf_val, srcOf_code]

theorem amo_reads {op : Nat} {x : AmoArgs} {i : Head → AmoArgs → Instr} (hop : op < 16)
    (hm : ∀ f : Fields, f.fn % 16 = op → map28 f = candAmo f i) : Reads (encAmo h op x 0) (i h x) := by
  have hh : HasHead (encAmo h op x 0) h := hasHead_fields ..
  obtain ⟨h16, hx, -, hsa, h32, h64⟩ := encAmo_reads (h := h) (x := x) hop (show 0 < 32 by decide)
  refine ⟨_, congrArg some (hm _ h16), fits_of_hasHead hh rfl rfl hsa ?_ rfl, ?_⟩
  · rw [h32, h64]
    rfl
  · dsimp only
    rw [hh.head_eq, hx]

theorem amoFadd_reads {x : AmoArgs} (hx : faddOk x.dw = true) : Reads (encAmo h 3 x 0) (.amoFadd h x) := by
  have hh : HasHead (encAmo h 3 x 0) h := hasHead_fields ..
  obtain ⟨h16, he, hdw, hsa, h32, h64⟩ := encAmo_reads (h := h) (x := x) (show 3 < 16 by decide) (show 0 < 32 by decide)
  refine ⟨_, congrArg some (by simp only [map28, h16]; rfl), fits_of_hasHead hh rfl rfl ?_ ?_ rfl, ?_⟩
  · rw [hsa, hdw, hx]
    rfl
  · rw [h32, h64]
    rfl
  · dsimp only
    rw [hh.head_eq, he]

theorem amoCas_reads {x : AmoArgs} {c : Src} : Reads (encAmo h 1 x c.code) (.amoCas h x c) := by
  have hh : HasHead (encAmo h 1 x c.code) h := hasHead_fields ..
  obtain ⟨h16, he, -, hsa, h32, h64⟩ := encAmo_reads (h := h) (x := x) (show 1 < 16 by decide) (src_code_lt c)
  refine ⟨_, congrArg some (by simp only [map28, h16]; rfl), fits_of_hasHead hh rfl rfl hsa ?_ rfl, ?_⟩
  · rw [h64]
    rfl
  · dsimp only
    rw [hh.head_eq, he, h32, srcOf_code]

theorem encRed_reads {op : Nat} {x : RedArgs} (hop : op < 16) : let f := encRed h op x
    f.fn % 16 = op ∧ f.redArgs = x ∧ f.dw = x.dw ∧ decide (f.sa < 8) = true := by
  have hdw := bitOf_lt x.dw
  have hfn : (encRed h op x).fn = op + 16 * bitOf x.dw + 32 * ordCode x.scope := rfl
  have edw : (encRed h op x).dw = x.dw := by
    rw [Fields.dw, show (encRed h op x).fn / 16 % 2 = bitOf x.dw by omega, bitOf_eq_one]
  have eord : (encRed h op x).ord = x.scope := by
    rw [Fields.ord, show (encRed h op x).fn / 32 = ordCode x.scope by omega, ordOf_code]
  refine ⟨by omega, ?_, edw, decide_eq_true x.p.isLt⟩
  rw [Fields.redArgs, edw, eord]
  simp only [encRed, ptrOf_val, srcOf_code]

theorem red_reads {op : Nat} {x : RedArgs} {i : Head → RedArgs → Instr} (hop : op < 16) (hk : headOk .n h = true)
    (hm : ∀ f : Fields, f.fn % 16 = op → map29 f = candRed f i) : Reads (encRed h op x) (i h x) := by
  have hh : HasHead (encRed h op x) h := hasHead_fields ..
  obtain ⟨h16, hx, -, hsa⟩ := encRed_reads (h := h) (x := x) hop
  refine ⟨_, congrArg some (hm _ h16), fits_of_hasHead hh hk rfl hsa rfl rfl, ?_⟩
  dsimp only
  rw [hh.head_eq, hx]

theorem redFadd_reads {x : RedArgs} (hw : (headOk .n h && faddOk x.dw) = true) : Reads (encRed h 1 x) (.redFadd h x) := by
  obtain ⟨hk, hx⟩ := Bool.and_eq_true_iff.mp hw
  have hh : HasHead (encRed h 1 x) h := hasHead_fields ..
  obtain ⟨h16, he, hdw, hsa⟩ := encRed_reads (h := h) (x := x) (show 1 < 16 by decide)
  refine ⟨_, congrArg some (by simp only [map29, h16]; rfl), fits_of_hasHead hh hk rfl ?_ rfl rfl, ?_⟩
  · rw [hsa, hdw, hx]
    rfl
  · dsimp only
    rw [hh.head_eq, he]

end

end Sys2Proof.Proofs
end

section
/-! What the opcode map accepts is well-formed and encoded by the fields that it was read from (02 R58 to R63), one lemma for each
group of OPM codes. -/

namespace Sys2Proof.Proofs

open Sys2Proof.Laws

section
variable {f : Fields} {c : Cand} (w : InWidth f) (ft : Fits f c)
include w ft

/-! ### Scalar instructions (R59, R62) -/

theorem map01_encodes (ho : f.opm = 0x01) (hc : map01 f = some c) : Encodes f c.instr := by
  unfold map01 at hc
  split at hc
  iterate 13 next hn => exact int2_encodes w ho hn ft (fun _ _ _ => rfl) (fun _ _ _ => rfl) hc
  · exact nomatch hc

theorem map02_encodes (ho : f.opm = 0x02) (hc : map02 f = some c) : Encodes f c.instr := by
  unfold map02 at hc
  split at hc
  iterate 9 next hn => exact int2_encodes w ho hn ft (fun _ _ _ => rfl) (fun _ _ _ => rfl) hc
  · exact nomatch hc

theorem map03_encodes (ho : f.opm = 0x03) (hc : map03 f = some c) : Encodes f c.instr := by
  unfold map03 at hc
  split at hc
  iterate 3 next hn => exact one_encodes w ho hn ft (fun _ _ => rfl) (fun _ _ => rfl) hc
  case h_4 hn | h_6 hn | h_7 hn => exact int2_encodes w ho hn ft (fun _ _ _ => rfl) (fun _ _ _ => rfl) hc
  iterate 2 next hn => exact int3_encodes w ho hn ft (fun _ _ _ _ => rfl) (fun _ _ _ _ => rfl) hc
  · exact nomatch hc

theorem map04_encodes (ho : f.opm = 0x04) (hc : map04 f = some c) : Encodes f c.instr := by
  unfold map04 at hc
  split at hc
  iterate 6 next hn => exact int2_encodes w ho hn ft (fun _ _ _ => rfl) (fun _ _ _ => rfl) hc
  · exact nomatch hc

theorem candFfma_encodes (ho : f.opm = 0x10) (hn : f.fn % 64 = 3) (hc : candFfma f = some c) : Encodes f c.instr := by
  obtain rfl := Option.some.inj hc
  obtain ⟨hl, hm⟩ : f.modeLen = true ∧ f.mode ≠ 1 := by simpa using ft.lenOk
  exact ⟨fop_okThree w hm _, congrArg some (encFfma_fop w (ft.hasHead w) ho hn hl hm ft.unused)⟩

theorem map10_encodes (ho : f.opm = 0x10) (hc : map10 f = some c) : Encodes f c.instr := by
  unfold map10 at hc
  split at hc
  case h_4 hn => exact candFfma_encodes w ft ho hn hc
  case h_7 hn | h_8 hn | h_9 hn | h_10 hn => exact one_encodes w ho hn ft (fun _ _ => rfl) (fun _ _ => rfl) hc
  iterate 5 next hn => exact flt2_encodes w ho hn ft (fun _ _ _ => rfl) (fun _ _ _ => rfl) hc
  · exact nomatch hc

theorem candFcvt_encodes (ho : f.opm = 0x11) (hn : f.fn % 64 = 4) (hc : candFcvt f = some c) : Encodes f c.instr := by
  obtain rfl := Option.some.inj hc
  obtain ⟨-, hsa, -, himm, h0, -⟩ := operand_bounds w
  obtain ⟨hm, hl⟩ : f.mode = 0 ∧ f.len = 0 := by simpa using ft.lenOk
  obtain ⟨hk, hr⟩ : f.imm % 16 < 8 ∧ f.imm / 16 % 4 ≠ 3 := by simpa using ft.range
  obtain ⟨hsb, h64, -⟩ : f.sb = 0 ∧ f.imm / 64 = 0 ∧ _ := by simpa only [zero?_cons] using ft.unused
  have hfn := fn_eq_of_mode hn
  refine ⟨rfl, congrArg some ((ft.hasHead w).fields_eq hl ho (by omega) ?_ hsb ?_ (h0 hl)).symm⟩
  · rw [code_srcOf, Nat.mod_eq_of_lt hsa]
  · rw [code_cvtOf hk, code_rmOf (by omega)]
    omega

theorem map11_encodes (ho : f.opm = 0x11) (hc : map11 f = some c) : Encodes f c.instr := by
  unfold map11 at hc
  split at hc
  iterate 3 next hn => exact flt2_encodes w ho hn ft (fun _ _ _ => rfl) (fun _ _ _ => rfl) hc
  · next hn => exact one_encodes w ho hn ft (fun _ _ => rfl) (fun _ _ => rfl) hc
  · next hn => exact candFcvt_encodes w ft ho hn hc
  · exact nomatch hc

theorem map18_encodes (ho : f.opm = 0x18) (hc : map18 f = some c) : Encodes f c.instr := by
  have hb := operand_bounds w
  unfold map18 at hc
  split at hc
  iterate 4 next hn =>
    refine cand_encodes w ho ft hc rfl (fun hk _ _ => hk) fun hl _ hz => ?_
    simp only [zero?_cons] at hz
    simp only [Head.fields, code_srcOf, BitVec.toNat_ofNat]
    omega
  · exact nomatch hc

theorem candPset_encodes (ho : f.opm = 0x19) (hn : f.fn = 0) (hc : candPset f = some c) : Encodes f c.instr := by
  have hb := operand_bounds w
  unfold candPset at hc
  split_ifs at hc
  all_goals
    refine cand_encodes w ho ft hc rfl (fun hk _ _ => hk) fun hl _ hz => ?_
    simp only [zero?_cons] at hz
    simp only [Head.fields, code_srcOf, ptrOf_toNat]
    omega

theorem candPadd_encodes (ho : f.opm = 0x19) (hn : f.fn = 1) (hc : candPadd f = some c) : Encodes f c.instr := by
  have hb := operand_bounds w
  unfold candPadd at hc
  split_ifs at hc
  all_goals
    refine cand_encodes w ho ft hc rfl (fun hk _ _ => hk) fun hl _ hz => ?_
    simp only [zero?_cons] at hz
    simp only [Head.fields, code_srcOf, ptrOf_toNat, BitVec.toNat_ofNat]
    omega

theorem map19_encodes (ho : f.opm = 0x19) (hc : map19 f = some c) : Encodes f c.instr := by
  have hb := operand_bounds w
  unfold map19 at hc
  split at hc
  · next hn => exact candPset_encodes w ft ho hn hc
  · next hn => exact candPadd_encodes w ft ho hn hc
  · next hn =>
    refine cand_encodes w ho ft hc rfl (fun hk _ _ => hk) fun hl _ hz => ?_
    simp only [zero?_cons] at hz
    simp only [Head.fields, ptrOf_toNat, bitOf_bit]
    omega
  · exact nomatch hc

theorem map1C_encodes (ho : f.opm = 0x1C) (hc : map1C f = some c) : Encodes f c.instr := by
  have hb := operand_bounds w
  unfold map1C at hc
  split at hc
  iterate 6 next hn =>
    refine cand_encodes w ho ft hc rfl (fun hk _ _ => hk) fun hl _ hz => ?_
    simp only [zero?_cons] at hz
    simp only [Head.fields, code_srcOf, BitVec.toNat_ofNat]
    omega
  · exact nomatch hc

theorem map1D_encodes (ho : f.opm = 0x1D) (hc : map1D f = some c) : Encodes f c.instr := by
  have hb := operand_bounds w
  unfold map1D at hc
  split at hc
  case h_1 hn | h_2 hn =>
    refine cand_encodes w ho ft hc rfl (fun hk hr _ => Bool.and_eq_true_iff.mpr ⟨hk, hr⟩) fun hl _ hz => ?_
    simp only [zero?_cons] at hz
    simp only [Head.fields, Fields.helper, BitVec.toNat_ofNat]
    omega
  case h_3 hn | h_4 hn =>
    refine cand_encodes w ho ft hc rfl (fun hk _ _ => hk) fun hl _ hz => ?_
    simp only [zero?_cons] at hz
    omega
  · exact nomatch hc

/-! ### Memory, atomics and waits (R61, R62) -/

theorem map24_encodes (ho : f.opm = 0x24) (hc : map24 f = some c) : Encodes f c.instr := by
  unfold map24 at hc
  split at hc
  case h_3 hn =>
    refine encSync_encodes (b := (srcOf f.sb).code) w ho ft hn hc rfl (fun hk => hk) rfl fun hz => ?_
    simp only [zero?_cons] at hz
    exact ⟨hz.1, hz.2.1, hz.2.2.1, by rw [code_srcOf, Nat.mod_eq_of_lt w.sb]⟩
  iterate 3 next hn =>
    refine encSync_encodes (b := 0) w ho ft hn hc rfl (fun hk => hk) rfl fun hz => ?_
    simp only [zero?_cons] at hz
    exact ⟨hz.1, hz.2.1, hz.2.2.1, hz.2.2.2.1⟩
  · exact nomatch hc

theorem map28_encodes (ho : f.opm = 0x28) (hc : map28 f = some c) : Encodes f c.instr := by
  unfold map28 at hc
  split at hc
  case h_2 hn =>
    refine encAmo_encodes w ho ft hn rfl hc rfl (fun _ => rfl) of_decide_eq_true fun hz => ?_
    simp only [zero?_cons] at hz
    rw [code_srcOf]
    omega
  case h_4 hn =>
    refine encAmo_encodes w ho ft hn rfl hc rfl (fun hr => (Bool.and_eq_true_iff.mp hr).2)
      (fun hr => of_decide_eq_true (Bool.and_eq_true_iff.mp hr).1) fun hz => ?_
    simpa only [zero?_cons, zero?_nil, and_true] using hz
  iterate 7 next hn =>
    refine encAmo_encodes w ho ft hn rfl hc rfl (fun _ => rfl) of_decide_eq_true fun hz => ?_
    simpa only [zero?_cons, zero?_nil, and_true] using hz
  · exact nomatch hc

theorem map29_encodes (ho : f.opm = 0x29) (hc : map29 f = some c) : Encodes f c.instr := by
  unfold map29 at hc
  split at hc
  case h_2 hn =>
    exact encRed_encodes w ho ft hn rfl hc rfl (fun hk hr => Bool.and_eq_true_iff.mpr ⟨hk, (Bool.and_eq_true_iff.mp hr).2⟩)
      fun hr => of_decide_eq_true (Bool.and_eq_true_iff.mp hr).1
  iterate 6 next hn => exact encRed_encodes w ho ft hn rfl hc rfl (fun hk _ => hk) of_decide_eq_true
  · exact nomatch hc

theorem map2A_encodes (ho : f.opm = 0x2A) (hc : map2A f = some c) : Encodes f c.instr := by
  have hb := operand_bounds w
  unfold map2A at hc
  have hr : f.fn % 8 ≠ 0 ∧ f.fn / 8 % 4 ≠ 3 := by
    have hr := ft.range
    obtain rfl := Option.some.inj hc
    simpa using hr
  have hsc := code_scopeOf (Nat.pos_of_ne_zero hr.1) (Nat.mod_lt _ (by decide))
  dsimp only at hc
  split at hc
  case h_1 hn =>
    refine cand_encodes (fn := (scopeOf (f.fn % 8)).code) w ho ft hc rfl (fun hk _ _ => hk) fun hl _ hz => ?_
    simp only [zero?_cons] at hz
    rw [hsc]
    omega
  case h_2 hn =>
    refine cand_encodes w ho ft hc rfl (fun hk _ _ => hk) fun hl _ hz => ?_
    simp only [zero?_cons] at hz
    rw [hsc]
    omega
  case h_3 h0 h1 =>
    refine cand_encodes w ho ft hc rfl (fun hk _ _ => hk) fun hl _ hz => ?_
    simp only [zero?_cons] at hz
    rw [hsc]
    obtain ⟨h0, h1⟩ : f.fn / 8 % 4 ≠ 0 ∧ f.fn / 8 % 4 ≠ 1 := ⟨h0, h1⟩
    omega

theorem map2C_encodes (ho : f.opm = 0x2C) (hc : map2C f = some c) : Encodes f c.instr := by
  have hb := operand_bounds w
  unfold map2C at hc
  split at hc
  case h_4 hn =>
    refine cand_encodes w ho ft hc rfl (fun hk _ _ => hk) fun hl _ hz => ?_
    simp only [zero?_cons] at hz
    simp only [Head.fields, finOf_toNat]
    omega
  iterate 3 next hn =>
    refine cand_encodes w ho ft hc rfl (fun _ _ _ => rfl) fun hl _ hz => ?_
    simp only [zero?_cons] at hz
    simp only [Head.fields, Fields.lvl, code_srcOf, finOf_toNat]
    omega
  · exact nomatch hc

theorem map2D_encodes (ho : f.opm = 0x2D) (hc : map2D f = some c) : Encodes f c.instr := by
  have hb := operand_bounds w
  unfold map2D at hc
  split at hc
  case h_1 hn | h_3 hn =>
    refine cand_encodes w ho ft hc rfl (fun hk _ _ => hk) fun hl hr hz => ?_
    simp only [zero?_cons, decide_eq_true_eq] at hz hr
    simp only [Head.fields, code_srcOf, ptrOf_toNat]
    omega
  case h_2 hn | h_4 hn =>
    refine cand_encodes w ho ft hc rfl (fun _ _ _ => rfl) fun hl hr hz => ?_
    simp only [zero?_cons, decide_eq_true_eq] at hz hr
    simp only [Head.fields, code_srcOf, ptrOf_toNat]
    omega
  · exact nomatch hc

theorem map2E_encodes (ho : f.opm = 0x2E) (hc : map2E f = some c) : Encodes f c.instr := by
  have hb := operand_bounds w
  unfold map2E at hc
  split at hc
  · next hn =>
    refine cand_encodes w ho ft hc rfl (fun hk hr _ => Bool.and_eq_true_iff.mpr ⟨hk, hr⟩) fun hl _ hz => ?_
    simp only [zero?_cons] at hz
    simp only [Head.fields, code_srcOf, ptrOf_toNat, finOf_toNat, BitVec.toNat_ofNat]
    omega
  · exact nomatch hc

/-! ### Vector instructions (R63, R166) -/

theorem map30_encodes (ho : f.opm = 0x30) (hc : map30 f = some c) : Encodes f c.instr := by
  unfold map30 at hc
  split at hc
  iterate 9 next hn => exact candV_encodes w ho ft hn (fun _ _ => rfl) (fun _ _ => rfl) hc
  · exact nomatch hc

theorem map31_encodes (ho : f.opm = 0x31) (hc : map31 f = some c) : Encodes f c.instr := by
  unfold map31 at hc
  split at hc
  iterate 5 next hn => exact candV_encodes w ho ft hn (fun _ _ => rfl) (fun _ _ => rfl) hc
  · exact nomatch hc

theorem map32_encodes (ho : f.opm = 0x32) (hc : map32 f = some c) : Encodes f c.instr := by
  unfold map32 at hc
  split at hc
  iterate 8 next hn => exact candV_encodes w ho ft hn (fun _ _ => rfl) (fun _ _ => rfl) hc
  · exact nomatch hc

theorem map33_encodes (ho : f.opm = 0x33) (hc : map33 f = some c) : Encodes f c.instr := by
  unfold map33 at hc
  split at hc
  iterate 3 next hn => exact candV_encodes w ho ft hn (fun _ _ => rfl) (fun _ _ => rfl) hc
  · exact nomatch hc

theorem map34_encodes (ho : f.opm = 0x34) (hc : map34 f = some c) : Encodes f c.instr := by
  unfold map34 at hc
  split at hc
  iterate 4 next hn => exact candV_encodes w ho ft hn (fun _ _ => rfl) (fun _ _ => rfl) hc
  · exact nomatch hc

theorem map35_encodes (ho : f.opm = 0x35) (hc : map35 f = some c) : Encodes f c.instr := by
  unfold map35 at hc
  split at hc
  iterate 2 next hn => exact candV_encodes w ho ft hn (fun _ _ => rfl) (fun _ _ => rfl) hc
  · exact nomatch hc

theorem map36_encodes (ho : f.opm = 0x36) (hc : map36 f = some c) : Encodes f c.instr := by
  have hb := operand_bounds w
  unfold map36 at hc
  split at hc
  iterate 2 next hn =>
    refine cand_encodes w ho ft hc rfl (fun hk _ _ => hk) fun hl _ hz => ?_
    simp only [zero?_cons] at hz
    simp only [Head.fields, code_srcOf, BitVec.toNat_ofNat]
    omega
  · exact nomatch hc

/-! ### Matrix instructions (R63, R187 to R199) -/

omit w ft in
/-- The formats of an array operand are no INT32. -/
theorem operand_ne_int32 {x : Fmt} (h : x.isOperand = true) : x ≠ .int32 := by
  rintro rfl
  exact nomatch h

omit w ft in
theorem raw_ne_int32 {x : Fmt} (h : (x == .raw) = true) : x ≠ .int32 := by
  rintro rfl
  exact nomatch h

omit w ft in
theorem mwld_formats {sel : Nat} {m : MArgs} (hr : mwldRange m = true) (hu : mwldUnused sel m = true) : m.fa ≠ .int32 ∧ m.fb ≠ .int32 := by
  simp only [mwldUnused, Bool.and_eq_true] at hu
  exact ⟨raw_ne_int32 hu.1.1.1.1.2, operand_ne_int32 hr⟩

omit w ft in
theorem mma_formats {m : MArgs} (hr : mmaRange m = true) : m.fa ≠ .int32 ∧ m.fb ≠ .int32 := by
  simp only [mmaRange, Bool.and_eq_true] at hr
  exact ⟨operand_ne_int32 hr.1.1, operand_ne_int32 hr.1.2⟩

omit w ft in
theorem macc_formats {mem : Bool} {m : MArgs} (hr : maccRange mem m = true) (hu : maccUnused mem m = true) :
    m.fa ≠ .int32 ∧ m.fb ≠ .int32 := by
  constructor
  · intro h
    cases mem <;> simp [maccRange, maccUnused, h] at hr hu
  · intro h
    simp [maccUnused, h] at hu

omit w ft in
theorem mstat_formats {m : MArgs} (hu : mstatUnused m = true) : m.fa ≠ .int32 ∧ m.fb ≠ .int32 := by
  constructor <;> intro h <;> simp [mstatUnused, h] at hu

omit w ft in
theorem delta_formats {kind : Nat} {m : MArgs} (hu : deltaUnused kind m = true) : m.fa ≠ .int32 ∧ m.fb ≠ .int32 := by
  constructor <;> intro h <;> simp [deltaUnused, h] at hu

omit w ft in
theorem and3 {x y z : Bool} (hx : x = true) (hy : y = true) (hz : z = true) : (x && y && z) = true := by
  rw [hx, hy, hz]
  rfl

theorem candMwld_encodes (ho : f.opm = 0x38) (hn : f.fn = 0) (hc : candMwld f = some c) : Encodes f c.instr := by
  have hb := operand_bounds w
  unfold candMwld at hc
  dsimp only at hc
  split at hc
  · exact candM_encodes w ho ft hn hc rfl and3 mwld_formats
  · refine cand_encodes (fn := 0) (sa := 0) (sb := (srcOf f.sb).code) (imm := 0) (hi := f.margs.word) w ho ft hc rfl (fun hk hr hz => ?_)
      (fun hl hr hz => ?_) <;> simp only [zero?_cons, bitOf_not_eq_zero] at hz
    · exact and3 hk hr hz.2.2.1
    · obtain ⟨ha, hb⟩ := mwld_formats hr hz.2.2.1
      exact ⟨hn, hz.1, by rw [code_srcOf, Nat.mod_eq_of_lt w.sb], hz.2.1, (margs_word w hl ha hb).symm⟩
  · refine cand_encodes (fn := 0) (sa := (srcOf f.sa).code) (sb := 0) (imm := 0) (hi := f.margs.word) w ho ft hc rfl (fun hk hr hz => ?_)
      (fun hl hr hz => ?_) <;> simp only [zero?_cons, bitOf_not_eq_zero] at hz
    · exact and3 hk hr hz.2.2.1
    · obtain ⟨ha, hb⟩ := mwld_formats hr hz.2.2.1
      exact ⟨hn, by rw [code_srcOf, Nat.mod_eq_of_lt w.sa], hz.1, hz.2.1, (margs_word w hl ha hb).symm⟩
  · obtain rfl := Option.some.inj hc
    exact nomatch ft.range

theorem map38_encodes (ho : f.opm = 0x38) (hc : map38 f = some c) : Encodes f c.instr := by
  unfold map38 at hc
  split at hc
  · next hn => exact candMwld_encodes w ft ho hn hc
  iterate 2 next hn => exact candM_encodes w ho ft hn hc rfl and3 (fun hr _ => mma_formats hr)
  · next hn => exact candM_encodes w ho ft hn hc rfl and3 macc_formats
  · exact nomatch hc

theorem candOwn_encodes {k : Cls} {i : Head → Fin 64 → Instr} {fn : Nat} (ho : f.opm = 0x39) (hn : f.fn = fn)
    (hw : ∀ h a, (i h a).wellFormed = headOk k h) (hf : ∀ h a, (i h a).fields = some (encOwn h fn a)) (hc : candOwn f k i = some c) :
    Encodes f c.instr := by
  refine cand_encodes w ho ft hc (hf _ _) (fun hk _ _ => (hw _ _).trans hk) fun hl _ hz => ?_
  simp only [zero?_cons] at hz
  simp only [Head.fields, finOf_toNat]
  omega

theorem map39_encodes (ho : f.opm = 0x39) (hc : map39 f = some c) : Encodes f c.instr := by
  unfold map39 at hc
  split at hc
  case h_7 hn => exact candM_encodes w ho ft hn hc rfl (fun _ hr hu => Bool.and_eq_true_iff.mpr ⟨hr, hu⟩) (fun _ hu => mstat_formats hu)
  case h_1 hn | h_2 hn => exact candM_encodes w ho ft hn hc rfl and3 macc_formats
  iterate 4 next hn => exact candOwn_encodes w ft ho hn (fun _ _ => rfl) (fun _ _ => rfl) hc
  · exact nomatch hc

theorem map3A_encodes (ho : f.opm = 0x3A) (hc : map3A f = some c) : Encodes f c.instr := by
  unfold map3A at hc
  split at hc
  iterate 3 next hn =>
    exact candM_encodes w ho ft hn hc rfl (fun hk _ hu => Bool.and_eq_true_iff.mpr ⟨hk, hu⟩) (fun _ hu => delta_formats hu)
  · exact nomatch hc

/-! ### Engines, circuits and system (R63, R213 to R235) -/

omit w ft in
theorem cpyOk_bounds (h : f.cpyOk = true) : f.ecodes = true ∧ f.hi / 2 ^ 17 % 8 < 5 ∧ f.plv < 5 ∧ cpyRange f.cpyArgs = true := by
  simpa only [Fields.cpyOk, Bool.and_eq_true, decide_eq_true_eq, and_assoc] using h

omit w ft in
theorem collOk_bounds (h : f.collOk = true) : f.hi / 8 % 16 < 8 ∧ 0 < f.hi / 2 ^ 14 % 8 ∧ f.hi / 2 ^ 17 % 4 < 3 ∧ f.plv < 5 ∧
    collRange f.collArgs = true := by
  simp only [Fields.collOk, Bool.and_eq_true, decide_eq_true_eq, bne_iff_ne] at h
  obtain ⟨⟨⟨⟨hfs, hsc⟩, hop⟩, hp⟩, hr⟩ := h
  exact ⟨hfs, Nat.pos_of_ne_zero hsc, by omega, hp, hr⟩

theorem map3C_encodes (ho : f.opm = 0x3C) (hc : map3C f = some c) : Encodes f c.instr := by
  have hb := operand_bounds w
  unfold map3C at hc
  split at hc
  case h_1 hn | h_2 hn =>
    refine cand_encodes w ho ft hc rfl (fun hk hr hz => ?_) (fun hl hr hz => ?_) <;>
      obtain ⟨he, hkind, hp, hrange⟩ := cpyOk_bounds hr <;> simp only [zero?_cons, bitOf_not_eq_zero] at hz
    · exact and3 hk hrange hz.2.2.1
    · simp only [code_srcOf]
      rw [cpyArgs_word he hkind hp hz.2.1]
      omega
  case h_4 hn =>
    refine cand_encodes w ho ft hc rfl (fun hk hr hz => ?_) (fun hl hr hz => ?_) <;>
      obtain ⟨he, hrange⟩ := Bool.and_eq_true_iff.mp hr <;> simp only [zero?_cons, bitOf_not_eq_zero] at hz
    · exact and3 hk hrange hz.2.2.2.1
    · simp only [code_srcOf]
      rw [gathArgs_word he hz.2.1 hz.2.2.1]
      omega
  case h_5 hn =>
    refine cand_encodes w ho ft hc rfl (fun hk hr hz => ?_) (fun hl hr hz => ?_) <;>
      obtain ⟨hfs, hsc, hop, hp, hrange⟩ := collOk_bounds hr <;> simp only [zero?_cons] at hz
    · exact Bool.and_eq_true_iff.mpr ⟨hk, hrange⟩
    · simp only [code_srcOf]
      rw [collArgs_word hfs hsc hop hp hz.2.1 hz.2.2.1 hz.2.2.2.1]
      omega
  case h_8 hn =>
    refine cand_encodes w ho ft hc rfl (fun _ _ _ => rfl) fun hl _ hz => ?_
    simp only [zero?_cons] at hz
    simp only [Head.fields, code_srcOf]
    omega
  case h_3 hn | h_6 hn | h_7 hn | h_9 hn | h_10 hn =>
    refine cand_encodes w ho ft hc rfl (fun hk _ _ => hk) fun hl hr hz => ?_
    simp only [zero?_cons, decide_eq_true_eq] at hz hr
    simp only [Head.fields, code_srcOf, ptrOf_toNat, bitOf_bit]
    omega
  · exact nomatch hc

theorem map3D_encodes (ho : f.opm = 0x3D) (hc : map3D f = some c) : Encodes f c.instr := by
  have hb := operand_bounds w
  unfold map3D at hc
  split at hc
  case h_1 hn =>
    refine cand_encodes w ho ft hc rfl (fun _ _ _ => rfl) fun hl _ hz => ?_
    simp only [zero?_cons] at hz
    simp only [Head.fields, code_srcOf, code_cktKindOf (Nat.mod_lt (f.hi / 2 ^ 17) (show 0 < 4 by decide))]
    omega
  case h_2 hn =>
    refine cand_encodes w ho ft hc rfl (fun hk _ _ => hk) fun hl _ hz => ?_
    simp only [zero?_cons] at hz
    simp only [Head.fields, code_srcOf]
    omega
  case h_3 hn =>
    refine cand_encodes w ho ft hc rfl (fun _ _ _ => rfl) fun hl _ hz => ?_
    simp only [zero?_cons] at hz
    simp only [Head.fields, code_srcOf]
    omega
  case h_4 hn =>
    refine cand_encodes w ho ft hc rfl (fun _ _ _ => rfl) fun hl hr hz => ?_
    simp only [zero?_cons, bne_iff_ne] at hz hr
    simp only [Head.fields, code_srcOf, finOf_toNat]
    omega
  · exact nomatch hc

theorem map3E_encodes (ho : f.opm = 0x3E) (hc : map3E f = some c) : Encodes f c.instr := by
  have hb := operand_bounds w
  unfold map3E at hc
  split at hc
  case h_1 hn | h_4 hn | h_13 hn =>
    refine cand_encodes w ho ft hc rfl (fun hk _ _ => hk) fun hl _ hz => ?_
    simp only [zero?_cons] at hz
    omega
  case h_11 hn =>
    refine cand_encodes w ho ft hc rfl (fun _ _ _ => rfl) fun hl _ hz => ?_
    simp only [zero?_cons] at hz
    omega
  case h_8 hn =>
    refine cand_encodes w ho ft hc rfl (fun hk _ _ => hk) fun hl _ _ => ?_
    simp only [Head.fields, code_srcOf, BitVec.toNat_ofNat]
    omega
  case h_2 hn | h_3 hn | h_5 hn | h_6 hn | h_12 hn =>
    refine cand_encodes w ho ft hc rfl (fun hk _ _ => hk) fun hl _ hz => ?_
    simp only [zero?_cons] at hz
    simp only [Head.fields, code_srcOf, ptrOf_toNat, BitVec.toNat_ofNat]
    omega
  case h_7 hn =>
    refine cand_encodes w ho ft hc rfl (fun _ _ _ => rfl) fun hl _ hz => ?_
    simp only [zero?_cons] at hz
    simp only [Head.fields, code_srcOf, BitVec.toNat_ofNat]
    omega
  case h_9 hn =>
    have hv : (BitVec.ofNat 4 f.imm).toNat = f.imm % 16 := BitVec.toNat_ofNat ..
    refine cand_encodes w ho ft hc rfl (fun hk hr _ => Bool.and_eq_true_iff.mpr ⟨hk, ?_⟩) fun hl _ hz => ?_
    · rwa [hv]
    · simp only [zero?_cons] at hz
      simp only [Head.fields, hv]
      omega
  case h_10 hn =>
    refine cand_encodes w ho ft hc rfl (fun hk _ _ => hk) fun hl hr hz => ?_
    simp only [zero?_cons, bne_iff_ne] at hz hr
    simp only [Head.fields, finOf_toNat]
    omega
  · exact nomatch hc

/-- What the opcode map accepts is encoded by the fields that it was read from. -/
theorem encodes_of_opMap (hc : opMap f = some (some c)) : Encodes f c.instr := by
  unfold opMap at hc
  split at hc <;> simp only [Option.some.injEq, reduceCtorEq] at hc
  case h_1 ho => exact map01_encodes w ft ho hc
  case h_2 ho => exact map02_encodes w ft ho hc
  case h_3 ho => exact map03_encodes w ft ho hc
  case h_4 ho => exact map04_encodes w ft ho hc
  case h_5 ho => exact map10_encodes w ft ho hc
  case h_6 ho => exact map11_encodes w ft ho hc
  case h_7 ho => exact map18_encodes w ft ho hc
  case h_8 ho => exact map19_encodes w ft ho hc
  case h_9 ho => exact map1C_encodes w ft ho hc
  case h_10 ho => exact map1D_encodes w ft ho hc
  case h_11 ho | h_13 ho => exact candLoad_encodes w ho ft (fun _ _ _ _ _ => rfl) (fun _ _ _ _ _ => rfl) hc
  case h_12 ho | h_14 ho => exact candStore_encodes w ho ft (fun _ _ _ _ _ => rfl) (fun _ _ _ _ _ => rfl) hc
  case h_15 ho => exact map24_encodes w ft ho hc
  case h_16 ho => exact map28_encodes w ft ho hc
  case h_17 ho => exact map29_encodes w ft ho hc
  case h_18 ho => exact map2A_encodes w ft ho hc
  case h_19 ho => exact map2C_encodes w ft ho hc
  case h_20 ho => exact map2D_encodes w ft ho hc
  case h_21 ho => exact map2E_encodes w ft ho hc
  case h_22 ho => exact map30_encodes w ft ho hc
  case h_23 ho => exact map31_encodes w ft ho hc
  case h_24 ho => exact map32_encodes w ft ho hc
  case h_25 ho => exact map33_encodes w ft ho hc
  case h_26 ho => exact map34_encodes w ft ho hc
  case h_27 ho => exact map35_encodes w ft ho hc
  case h_28 ho => exact map36_encodes w ft ho hc
  case h_29 ho => exact map38_encodes w ft ho hc
  case h_30 ho => exact map39_encodes w ft ho hc
  case h_31 ho => exact map3A_encodes w ft ho hc
  case h_32 ho => exact map3C_encodes w ft ho hc
  case h_33 ho => exact map3D_encodes w ft ho hc
  case h_34 ho => exact map3E_encodes w ft ho hc

end

end Sys2Proof.Proofs
end

section
/-! The encoding of every well-formed instruction lies within its widths and is read back by the opcode map (02 R45 to R63). -/

namespace Sys2Proof.Proofs

open Sys2Proof.Laws

/-- The family of widths, put together. -/
theorem fields_inWidth {i : Instr} {f : Fields} (hf : i.fields = some f) : InWidth f := by
  cases i
  case add => exact Widths.add _ _ _ _ hf
  case sub => exact Widths.sub _ _ _ _ hf
  case mul => exact Widths.mul _ _ _ _ hf
  case mulh => exact Widths.mulh _ _ _ _ hf
  case mulhu => exact Widths.mulhu _ _ _ _ hf
  case div => exact Widths.div _ _ _ _ hf
  case divu => exact Widths.divu _ _ _ _ hf
  case rem => exact Widths.rem _ _ _ _ hf
  case remu => exact Widths.remu _ _ _ _ hf
  case minS => exact Widths.minS _ _ _ _ hf
  case maxS => exact Widths.maxS _ _ _ _ hf
  case minu => exact Widths.minu _ _ _ _ hf
  case maxu => exact Widths.maxu _ _ _ _ hf
  case andW => exact Widths.andW _ _ _ _ hf
  case orW => exact Widths.orW _ _ _ _ hf
  case xorW => exact Widths.xorW _ _ _ _ hf
  case andn => exact Widths.andn _ _ _ _ hf
  case orn => exact Widths.orn _ _ _ _ hf
  case shl => exact Widths.shl _ _ _ _ hf
  case shr => exact Widths.shr _ _ _ _ hf
  case sra => exact Widths.sra _ _ _ _ hf
  case rot => exact Widths.rot _ _ _ _ hf
  case clz => exact Widths.clz _ _ _ hf
  case ctz => exact Widths.ctz _ _ _ hf
  case popc => exact Widths.popc _ _ _ hf
  case bext => exact Widths.bext _ _ _ _ hf
  case bins => exact Widths.bins _ _ _ _ _ hf
  case sext => exact Widths.sext _ _ _ _ hf
  case zext => exact Widths.zext _ _ _ _ hf
  case sel => exact Widths.sel _ _ _ _ _ hf
  case ceq => exact Widths.ceq _ _ _ _ hf
  case cne => exact Widths.cne _ _ _ _ hf
  case clt => exact Widths.clt _ _ _ _ hf
  case cle => exact Widths.cle _ _ _ _ hf
  case cltu => exact Widths.cltu _ _ _ _ hf
  case cleu => exact Widths.cleu _ _ _ _ hf
  case fadd => exact Widths.fadd _ _ _ _ hf
  case fsub => exact Widths.fsub _ _ _ _ hf
  case fmul => exact Widths.fmul _ _ _ _ hf
  case ffma => exact Widths.ffma _ _ _ _ _ hf
  case fmin => exact Widths.fmin _ _ _ _ hf
  case fmax => exact Widths.fmax _ _ _ _ hf
  case fabs => exact Widths.fabs _ _ _ hf
  case fneg => exact Widths.fneg _ _ _ hf
  case frcp => exact Widths.frcp _ _ _ hf
  case frsq => exact Widths.frsq _ _ _ hf
  case fceq => exact Widths.fceq _ _ _ _ hf
  case fclt => exact Widths.fclt _ _ _ _ hf
  case fcle => exact Widths.fcle _ _ _ _ hf
  case fclass => exact Widths.fclass _ _ _ hf
  case fcvt => exact Widths.fcvt _ _ _ _ _ hf
  case movi => exact Widths.movi _ _ _ hf
  case movhi => exact Widths.movhi _ _ _ _ hf
  case movR => exact Widths.movR _ _ _ hf
  case lit => exact Widths.lit _ _ _ hf
  case pset => exact Widths.pset _ _ _ _ _ hf
  case psetKeep => exact Widths.psetKeep _ _ _ _ hf
  case padd => exact Widths.padd _ _ _ _ hf
  case paddImm => exact Widths.paddImm _ _ _ _ hf
  case pget => exact Widths.pget _ _ _ _ hf
  case br => exact Widths.br _ _ _ hf
  case jmp => exact Widths.jmp _ _ _ hf
  case call => exact Widths.call _ _ _ hf
  case ret => exact Widths.ret _ _ _ hf
  case brx => exact Widths.brx _ _ _ hf
  case loopI => exact Widths.loopI _ _ _ _ hf
  case hstart => exact Widths.hstart _ _ _ _ hf
  case hjoin => exact Widths.hjoin _ _ _ hf
  case hexit => exact Widths.hexit _ _ hf
  case nop => exact Widths.nop _ _ hf
  case ld => exact Widths.ld _ _ _ _ _ _ hf
  case st => exact Widths.st _ _ _ _ _ _ hf
  case ldg => exact Widths.ldg _ _ _ _ _ _ hf
  case stg => exact Widths.stg _ _ _ _ _ _ hf
  case ldsync => exact Widths.ldsync _ _ _ hf
  case ldsyncC => exact Widths.ldsyncC _ _ _ hf
  case stfull => exact Widths.stfull _ _ _ _ hf
  case setempty => exact Widths.setempty _ _ _ hf
  case amoSwap => exact Widths.amoSwap _ _ _ hf
  case amoCas => exact Widths.amoCas _ _ _ _ hf
  case amoAdd => exact Widths.amoAdd _ _ _ hf
  case amoFadd => exact Widths.amoFadd _ _ _ hf
  case amoMin => exact Widths.amoMin _ _ _ hf
  case amoMax => exact Widths.amoMax _ _ _ hf
  case amoAnd => exact Widths.amoAnd _ _ _ hf
  case amoOr => exact Widths.amoOr _ _ _ hf
  case amoXor => exact Widths.amoXor _ _ _ hf
  case redAdd => exact Widths.redAdd _ _ _ hf
  case redFadd => exact Widths.redFadd _ _ _ hf
  case redMin => exact Widths.redMin _ _ _ hf
  case redMax => exact Widths.redMax _ _ _ hf
  case redAnd => exact Widths.redAnd _ _ _ hf
  case redOr => exact Widths.redOr _ _ _ hf
  case redXor => exact Widths.redXor _ _ _ hf
  case fence => exact Widths.fence _ _ _ hf
  case fenceAcq => exact Widths.fenceAcq _ _ _ hf
  case fenceRel => exact Widths.fenceRel _ _ _ hf
  case barArv => exact Widths.barArv _ _ _ hf
  case barWait => exact Widths.barWait _ _ _ _ hf
  case barSync => exact Widths.barSync _ _ _ hf
  case evsig => exact Widths.evsig _ _ _ hf
  case rdvPut => exact Widths.rdvPut _ _ _ _ hf
  case rdvGet => exact Widths.rdvGet _ _ _ hf
  case rqput => exact Widths.rqput _ _ _ _ _ hf
  case rqtake => exact Widths.rqtake _ _ _ _ hf
  case ringDef => exact Widths.ringDef _ _ _ _ _ _ _ _ hf
  case vadd => exact Widths.vadd _ _ _ hf
  case vsub => exact Widths.vsub _ _ _ hf
  case vmul => exact Widths.vmul _ _ _ hf
  case vfma => exact Widths.vfma _ _ _ hf
  case vfms => exact Widths.vfms _ _ _ hf
  case vmin => exact Widths.vmin _ _ _ hf
  case vmax => exact Widths.vmax _ _ _ hf
  case vabs => exact Widths.vabs _ _ _ hf
  case vneg => exact Widths.vneg _ _ _ hf
  case vexp2 => exact Widths.vexp2 _ _ _ hf
  case vlog2 => exact Widths.vlog2 _ _ _ hf
  case vrcp => exact Widths.vrcp _ _ _ hf
  case vrsq => exact Widths.vrsq _ _ _ hf
  case vcvt => exact Widths.vcvt _ _ _ hf
  case vand => exact Widths.vand _ _ _ hf
  case vor => exact Widths.vor _ _ _ hf
  case vxor => exact Widths.vxor _ _ _ hf
  case vshl => exact Widths.vshl _ _ _ hf
  case vshr => exact Widths.vshr _ _ _ hf
  case vsra => exact Widths.vsra _ _ _ hf
  case vcmp => exact Widths.vcmp _ _ _ hf
  case vsel => exact Widths.vsel _ _ _ hf
  case vbcast => exact Widths.vbcast _ _ _ hf
  case vmov => exact Widths.vmov _ _ _ hf
  case vperm => exact Widths.vperm _ _ _ hf
  case vredadd => exact Widths.vredadd _ _ _ hf
  case vredmax => exact Widths.vredmax _ _ _ hf
  case vredmin => exact Widths.vredmin _ _ _ hf
  case vscan => exact Widths.vscan _ _ _ hf
  case vgath => exact Widths.vgath _ _ _ hf
  case vscat => exact Widths.vscat _ _ _ hf
  case vsetvl => exact Widths.vsetvl _ _ _ hf
  case vsetvlImm => exact Widths.vsetvlImm _ _ _ hf
  case mwld => exact Widths.mwld _ _ _ hf
  case mwldImg => exact Widths.mwldImg _ _ _ _ hf
  case mwldGl => exact Widths.mwldGl _ _ _ _ hf
  case mma => exact Widths.mma _ _ _ hf
  case mmaSp => exact Widths.mmaSp _ _ _ hf
  case mzero => exact Widths.mzero _ _ _ hf
  case maccRd => exact Widths.maccRd _ _ _ hf
  case maccWr => exact Widths.maccWr _ _ _ hf
  case macq => exact Widths.macq _ _ _ hf
  case mrel => exact Widths.mrel _ _ _ hf
  case mpin => exact Widths.mpin _ _ _ hf
  case munpin => exact Widths.munpin _ _ _ hf
  case mstat => exact Widths.mstat _ _ _ hf
  case deltaUpd => exact Widths.deltaUpd _ _ _ hf
  case deltaChunk => exact Widths.deltaChunk _ _ _ hf
  case deltaQry => exact Widths.deltaQry _ _ _ hf
  case cpy => exact Widths.cpy _ _ _ _ _ _ hf
  case cpy2d => exact Widths.cpy2d _ _ _ _ _ _ _ hf
  case wpwait => exact Widths.wpwait _ _ _ _ hf
  case gath => exact Widths.gath _ _ _ _ _ _ _ hf
  case coll => exact Widths.coll _ _ _ _ _ _ hf
  case snap => exact Widths.snap _ _ _ _ _ _ _ hf
  case sigDec => exact Widths.sigDec _ _ _ _ hf
  case launch => exact Widths.launch _ _ _ hf
  case arm => exact Widths.arm _ _ _ _ _ hf
  case disarm => exact Widths.disarm _ _ _ hf
  case cktReq => exact Widths.cktReq _ _ _ _ _ hf
  case cktRel => exact Widths.cktRel _ _ _ hf
  case cktStat => exact Widths.cktStat _ _ _ hf
  case locq => exact Widths.locq _ _ _ _ hf
  case tfence => exact Widths.tfence _ _ hf
  case trapN => exact Widths.trapN _ _ _ hf
  case svc => exact Widths.svc _ _ _ hf
  case eret => exact Widths.eret _ _ hf
  case srd => exact Widths.srd _ _ _ hf
  case swr => exact Widths.swr _ _ _ _ hf
  case srsRd => exact Widths.srsRd _ _ _ _ hf
  case srsWr => exact Widths.srsWr _ _ _ _ _ hf
  case prio => exact Widths.prio _ _ _ hf
  case time => exact Widths.time _ _ _ hf
  case chkpt => exact Widths.chkpt _ _ hf
  case pwrReq => exact Widths.pwrReq _ _ _ hf
  case halt => exact Widths.halt _ _ hf
  all_goals exact nomatch hf

theorem fcvt_reads {h : Head} {a : Src} {k : CvtKind} {rm : Rm} :
    Reads { h.fields 0 0x11 4 with sa := a.code, imm := k.code + 16 * rm.code } (.fcvt h a k rm) := by
  have hk := cvt_code_lt k
  have hr := rm_code_lt rm
  have e1 : (k.code + 16 * rm.code) % 16 = k.code := by omega
  have e2 : (k.code + 16 * rm.code) / 16 % 4 = rm.code := by omega
  have e3 : (k.code + 16 * rm.code) / 64 = 0 := by omega
  refine ⟨_, rfl, fits_of_hasHead (hasHead_fields ..) rfl (by with_unfolding_all rfl) ?_ ?_ rfl, ?_⟩
  · simp only [e1, e2, Bool.and_eq_true, decide_eq_true_eq, bne_iff_ne]
    omega
  · simp only [e3]
    rfl
  · dsimp only
    rw [e1, e2, srcOf_code, cvtOf_code, rmOf_code]
    exact congrArg (Instr.fcvt · a k rm) (hasHead_fields ..).head_eq

/-- The codes of a head read back as that head. -/
theorem head_codes (h : Head) :
    (⟨guardOf h.guard.ge h.guard.gn h.guard.greg h.guard.gbit, dstOf h.dst.code, h.la⟩ : Head) = h := by
  rw [guardOf_codes, dstOf_code]

section
variable {h : Head} {a b c d : Src}

/-! ### Rows whose opcode or operands share a field -/

theorem ptrOf_add (p : Fin 8) (x : Nat) : ptrOf (p.val + 8 * x) = p := Fin.ext (digit_mod p.isLt)

theorem pset_reads {p : Fin 8} (hk : headOk .n h = true) :
    Reads { h.fields 0 0x19 0 with sa := a.code, sb := b.code, imm := p.val } (.pset h p a b) := by
  have hp := p.isLt
  refine cand_reads (k := .n) hk (congrArg some (if_neg ?_)) rfl (by simp [zero?]; omega) ?_
  · dsimp only
    omega
  · simp only [Fields.head, Head.fields, finOf_val, head_codes, ptrOf_val, srcOf_code]

theorem psetKeep_reads {p : Fin 8} (hk : headOk .n h = true) :
    Reads { h.fields 0 0x19 0 with sa := a.code, imm := p.val + 8 } (.psetKeep h p a) := by
  have hp := p.isLt
  refine cand_reads (k := .n) hk (congrArg some (if_pos ?_)) rfl (by simp [zero?, Head.fields]; omega) ?_
  · dsimp only
    omega
  · simp only [Fields.head, Head.fields, finOf_val, head_codes, ptrOf_add p 1, srcOf_code]

theorem pget_reads {p : Fin 8} {x : Bool} (hk : headOk .s h = true) :
    Reads { h.fields 0 0x19 2 with imm := p.val + 8 * bitOf x } (.pget h p x) := by
  have hp := p.isLt
  have hx := bitOf_lt x
  have e : (p.val + 8 * bitOf x) / 8 % 2 = bitOf x := by omega
  refine cand_reads (k := .s) hk rfl rfl (by simp [zero?, Head.fields]; omega) ?_
  simp only [Fields.head, Head.fields, finOf_val, head_codes, ptrOf_add, e, bitOf_eq_one]

theorem fence_reads {sc : Scope} {kind fn : Nat} {i : Head → Scope → Instr} (hkind : kind < 3) (hfn : fn = 8 * kind + sc.code)
    (hk : headOk .n h = true) (hm : ∀ f : Fields, f.fn / 8 % 4 = kind →
      map2A f = cand f 0 .n (f.fn % 8 != 0 && kind != 3) [f.fn / 32, f.sa, f.sb, f.imm] (i f.head (scopeOf (f.fn % 8)))) :
    Reads (h.fields 0 0x2A fn) (i h sc) := by
  obtain ⟨h0, h8⟩ := scope_code_lt sc
  have hh : HasHead (h.fields 0 0x2A fn) h := hasHead_fields ..
  have e : (h.fields 0 0x2A fn).fn = 8 * kind + sc.code := hfn
  have e1 : (h.fields 0 0x2A fn).fn % 8 = sc.code := by omega
  have e2 : (h.fields 0 0x2A fn).fn / 32 = 0 := by omega
  refine ⟨_, congrArg some (hm _ (by omega)), fits_of_hasHead hh hk rfl ?_ ?_ rfl, ?_⟩
  · simp only [e1, Bool.and_eq_true, bne_iff_ne]
    omega
  · rw [e2]
    rfl
  · dsimp only
    rw [hh.head_eq, e1, scopeOf_code]

theorem ringDef_reads {d n : BitVec 5} {l : Fin 4} {k : Fin 8} (hw : (headOk .n h && ringOk d n) = true) :
    Reads { h.fields 0 0x2E 0 with sa := a.code, sb := b.code, imm := k.val + 8 * (l.val + 4 * (n.toNat + 32 * d.toNat)) }
      (.ringDef h a b d n l k) := by
  obtain ⟨hk, hr⟩ := Bool.and_eq_true_iff.mp hw
  have hd := d.isLt
  have q0 : (k.val + 8 * (l.val + 4 * (n.toNat + 32 * d.toNat))) / 1 = k.val + 8 * _ := Nat.div_one _
  have q1 := digit_next (n := 8) q0 k.isLt rfl
  have q2 := digit_next (n := 32) q1 l.isLt rfl
  have q3 := digit_next (n := 1024) q2 n.isLt rfl
  have en := ofNat_digit q2
  have el := finOf_digit (show 0 < 4 by decide) q1
  have ed : BitVec.ofNat 5 ((k.val + 8 * (l.val + 4 * (n.toNat + 32 * d.toNat))) / 1024) = d := by
    rw [q3, BitVec.ofNat_toNat, BitVec.setWidth_eq]
  refine cand_reads (k := .n) hk rfl ?_ ?_ ?_
  · simpa only [ed, en] using hr
  · simp [zero?]; omega
  · simp only [Fields.head, Head.fields, finOf_val, head_codes, srcOf_code, ptrOf_add, en, el, ed]

/-! ### Matrix instructions that build a weight image (R190) -/

theorem opt_of_mwldUnused {sel : Nat} {m : MArgs} (hu : mwldUnused sel m = true) : m.opt.toNat = sel := by
  simp only [mwldUnused, Bool.and_eq_true, beq_iff_eq] at hu
  exact hu.1.1.1.1.1.1

section
variable {f : Fields} {m : MArgs}

theorem opMap_mwld (ho : f.opm = 0x38) (hn : f.fn = 0) : opMap f = some (candMwld f) := by
  simp only [opMap, ho, map38, hn]

variable (hh : HasHead f h) (hl : f.len = 2) (ho : f.opm = 0x38) (hn : f.fn = 0) (himm : f.imm = 0) (hhi : f.hi = m.word)
include hh hl ho hn himm hhi

theorem mwld_reads (hsa : f.sa = 0) (hsb : f.sb = 0) (hw : (headOk .n h && mwldRange m && mwldUnused 0 m) = true) :
    Reads f (.mwld h m) := by
  obtain ⟨hw, hu⟩ := Bool.and_eq_true_iff.mp hw
  obtain ⟨hk, hr⟩ := Bool.and_eq_true_iff.mp hw
  obtain ⟨hm, hopt⟩ := margs_of_word hhi
  have e : f.hi / 2 ^ 55 % 4 = 0 := by rw [hopt, opt_of_mwldUnused hu]
  refine reads_of_hasHead (zs := [f.sa, f.sb, f.imm, bitOf (!mwldUnused 0 m)]) hh hl hk ?_ hr ?_
  · simp only [opMap_mwld ho hn, candMwld, e, candM, hm, hh.head_eq]
  · rw [hsa, hsb, himm, hu]
    rfl

theorem mwldImg_reads (hsa : f.sa = 0) (hsb : f.sb = a.code) (hw : (headOk .n h && mwldRange m && mwldUnused 1 m) = true) :
    Reads f (.mwldImg h a m) := by
  obtain ⟨hw, hu⟩ := Bool.and_eq_true_iff.mp hw
  obtain ⟨hk, hr⟩ := Bool.and_eq_true_iff.mp hw
  obtain ⟨hm, hopt⟩ := margs_of_word hhi
  have e : f.hi / 2 ^ 55 % 4 = 1 := by rw [hopt, opt_of_mwldUnused hu]
  refine reads_of_hasHead (zs := [f.sa, f.imm, bitOf (!mwldUnused 1 m)]) hh hl hk ?_ hr ?_
  · simp only [opMap_mwld ho hn, candMwld, e, hm, hh.head_eq, hsb, srcOf_code]
  · rw [hsa, himm, hu]
    rfl

theorem mwldGl_reads (hsa : f.sa = a.code) (hsb : f.sb = 0) (hw : (headOk .n h && mwldRange m && mwldUnused 2 m) = true) :
    Reads f (.mwldGl h a m) := by
  obtain ⟨hw, hu⟩ := Bool.and_eq_true_iff.mp hw
  obtain ⟨hk, hr⟩ := Bool.and_eq_true_iff.mp hw
  obtain ⟨hm, hopt⟩ := margs_of_word hhi
  have e : f.hi / 2 ^ 55 % 4 = 2 := by rw [hopt, opt_of_mwldUnused hu]
  refine reads_of_hasHead (zs := [f.sb, f.imm, bitOf (!mwldUnused 2 m)]) hh hl hk ?_ hr ?_
  · simp only [opMap_mwld ho hn, candMwld, e, hm, hh.head_eq, hsa, srcOf_code]
  · rw [hsb, himm, hu]
    rfl

end

/-! ### Engine commands, launches and circuits (R57, R213 to R223) -/

theorem code_pair (c d : Src) : (c.code + 32 * d.code) % 32 = c.code ∧ (c.code + 32 * d.code) / 32 % 32 = d.code ∧
    (c.code + 32 * d.code) / 1024 = 0 := by
  have hc := src_code_lt c
  have hd := src_code_lt d
  omega

theorem cpyOk_of_word {f : Fields} {e : CpyArgs} (hf : f.hi = e.word) (hr : cpyRange e = true) : f.cpyOk = true := by
  obtain ⟨ha, he, hk, hp⟩ := cpyArgs_of_word hf
  simp only [Fields.cpyOk, ha, he, hk, hp, hr, decide_true, Bool.and_self]

theorem collOk_of_word {f : Fields} {e : CollArgs} (hf : f.hi = e.word) (hr : collRange e = true) : f.collOk = true := by
  obtain ⟨ha, hfs, hsc, hop, hp, -, -⟩ := collArgs_of_word hf
  simp only [Fields.collOk, ha, hr, Bool.and_eq_true, decide_eq_true_eq, bne_iff_ne, and_true]
  omega

theorem cpy_reads {e : CpyArgs} (hw : (headOk .n h && cpyRange e && cpyUnused false true e) = true) :
    Reads { h.fields 2 0x3C 0 with sa := a.code, sb := b.code, imm := c.code, hi := e.word } (.cpy h a b c e) := by
  obtain ⟨hw, hu⟩ := Bool.and_eq_true_iff.mp hw
  obtain ⟨hk, hr⟩ := Bool.and_eq_true_iff.mp hw
  have hc := src_code_lt c
  have ha := (cpyArgs_of_word (f := { h.fields 2 0x3C 0 with sa := a.code, sb := b.code, imm := c.code, hi := e.word }) rfl).1
  refine cand_reads (k := .n) hk rfl (cpyOk_of_word rfl hr) ?_ ?_
  · rw [ha, hu]
    simp only [zero?_cons, zero?_nil, Nat.div_eq_of_lt hc, Nat.div_eq_of_lt (cpyArgs_word_lt e)]
    decide
  · rw [ha, (hasHead_fields ..).head_eq]
    simp only [Nat.mod_eq_of_lt hc, srcOf_code]

theorem cpy2d_reads {e : CpyArgs} (hw : (headOk .n h && cpyRange e && cpyUnused true d.isZero e) = true) :
    Reads { h.fields 2 0x3C 1 with sa := a.code, sb := b.code, imm := c.code + 32 * d.code, hi := e.word } (.cpy2d h a b c d e) := by
  obtain ⟨hw, hu⟩ := Bool.and_eq_true_iff.mp hw
  obtain ⟨hk, hr⟩ := Bool.and_eq_true_iff.mp hw
  obtain ⟨e1, e2, e3⟩ := code_pair c d
  have ha := (cpyArgs_of_word
    (f := { h.fields 2 0x3C 1 with sa := a.code, sb := b.code, imm := c.code + 32 * d.code, hi := e.word }) rfl).1
  refine cand_reads (k := .n) hk rfl (cpyOk_of_word rfl hr) ?_ ?_
  · simp only [ha, e2, srcOf_code, hu, e3, zero?_cons, zero?_nil, Nat.div_eq_of_lt (cpyArgs_word_lt e)]
    decide
  · rw [ha, (hasHead_fields ..).head_eq]
    simp only [e1, e2, srcOf_code]

theorem gath_reads {e : GathArgs} (hw : (headOk .n h && gathRange e && gathUnused e) = true) :
    Reads { h.fields 2 0x3C 3 with sa := a.code, sb := b.code, imm := c.code + 32 * d.code, hi := e.word } (.gath h a b c d e) := by
  obtain ⟨hw, hu⟩ := Bool.and_eq_true_iff.mp hw
  obtain ⟨hk, hr⟩ := Bool.and_eq_true_iff.mp hw
  obtain ⟨e1, e2, e3⟩ := code_pair c d
  obtain ⟨ha, he, h0⟩ := gathArgs_of_word
    (f := { h.fields 2 0x3C 3 with sa := a.code, sb := b.code, imm := c.code + 32 * d.code, hi := e.word }) rfl
  refine cand_reads (k := .n) hk rfl ?_ ?_ ?_
  · rw [ha, he, hr]
    rfl
  · rw [ha, hu]
    simp only [h0, e3, zero?_cons, zero?_nil, Nat.div_eq_of_lt (gathArgs_word_lt e)]
    decide
  · rw [ha, (hasHead_fields ..).head_eq]
    simp only [e1, e2, srcOf_code]

theorem coll_reads {e : CollArgs} (hw : (headOk .n h && collRange e) = true) :
    Reads { h.fields 2 0x3C 4 with sa := a.code, sb := b.code, imm := c.code, hi := e.word } (.coll h a b c e) := by
  obtain ⟨hk, hr⟩ := Bool.and_eq_true_iff.mp hw
  have hc := src_code_lt c
  obtain ⟨ha, -, -, -, -, h7, h19⟩ := collArgs_of_word
    (f := { h.fields 2 0x3C 4 with sa := a.code, sb := b.code, imm := c.code, hi := e.word }) rfl
  refine cand_reads (k := .n) hk rfl (collOk_of_word rfl hr) ?_ ?_
  · simp only [h7, h19, zero?_cons, zero?_nil, Nat.div_eq_of_lt hc, Nat.div_eq_of_lt (collArgs_word_lt e)]
    decide
  · rw [ha, (hasHead_fields ..).head_eq]
    simp only [Nat.mod_eq_of_lt hc, srcOf_code]

theorem snap_reads {ch : Fin 8} (hk : headOk .n h = true) :
    Reads { h.fields 2 0x3C 5 with sa := a.code, sb := b.code, imm := c.code + 32 * d.code, hi := ch.val } (.snap h a b c d ch) := by
  obtain ⟨e1, e2, e3⟩ := code_pair c d
  refine cand_reads (k := .n) hk rfl rfl ?_ ?_
  · simp only [e3, zero?_cons, zero?_nil, Nat.div_eq_of_lt ch.isLt]
    decide
  · simp only [Fields.head, Head.fields, finOf_val, head_codes, e1, e2, srcOf_code, ptrOf_val]

theorem arm_reads {x : Bool} (hk : headOk .n h = true) :
    Reads { h.fields 2 0x3C 8 with sa := a.code, sb := b.code, hi := 2 ^ 17 * bitOf x } (.arm h a b x) := by
  have hx := bitOf_lt x
  have e0 : 2 ^ 17 * bitOf x / 2 ^ 18 = 0 := Nat.div_eq_of_lt ((Nat.mul_lt_mul_left (by decide)).mpr hx)
  have e : 2 ^ 17 * bitOf x / 2 ^ 17 % 2 = bitOf x := by rw [Nat.mul_div_cancel_left _ (by decide), Nat.mod_eq_of_lt hx]
  refine cand_reads (k := .n) hk rfl rfl ?_ ?_
  · simp only [Head.fields, zero?_cons, zero?_nil, e0, Nat.mul_mod_right, and_self]
  · simp only [Fields.head, Head.fields, finOf_val, head_codes, e, bitOf_eq_one, srcOf_code]

theorem cktReq_reads {k : CktKind} :
    Reads { h.fields 2 0x3D 0 with sa := a.code, sb := b.code, hi := 2 ^ 17 * k.code } (.cktReq h a b k) := by
  have hk := cktKind_code_lt k
  have e0 : 2 ^ 17 * k.code / 2 ^ 19 = 0 := Nat.div_eq_of_lt ((Nat.mul_lt_mul_left (by decide)).mpr hk)
  have e : 2 ^ 17 * k.code / 2 ^ 17 % 4 = k.code := by rw [Nat.mul_div_cancel_left _ (by decide), Nat.mod_eq_of_lt hk]
  refine cand_reads (k := .l) rfl rfl rfl ?_ ?_
  · simp only [Head.fields, zero?_cons, zero?_nil, e0, Nat.mul_mod_right, and_self]
  · simp only [Fields.head, Head.fields, finOf_val, head_codes, e, cktKindOf_code, srcOf_code]

end

/-- A well-formed instruction is the pad word, or has fields that the opcode map reads as that instruction. -/
theorem reads_of_wellFormed {i : Instr} (hw : i.wellFormed = true) : i = .padWord ∨ ∃ f, i.fields = some f ∧ Reads f i := by
  cases i
  case padWord => exact .inl rfl
  case add h a b | sub h a b | minS h a b | maxS h a b | minu h a b | maxu h a b | andW h a b | orW h a b | xorW h a b | andn h a b |
      orn h a b | shl h a b | shr h a b | sra h a b | rot h a b | bext h a b | sext h a b | zext h a b | ceq h a b | cne h a b |
      clt h a b | cle h a b | cltu h a b | cleu h a b =>
    exact .inr ⟨_, rfl, int2_reads (k := .s) (by decide) hw (by cases b <;> with_unfolding_all rfl)⟩
  case mul h a b | mulh h a b | mulhu h a b | div h a b | divu h a b | rem h a b | remu h a b =>
    exact .inr ⟨_, rfl, int2_reads (k := .l) (by decide) hw (by cases b <;> with_unfolding_all rfl)⟩
  case bins h a b d | sel h a b d => exact .inr ⟨_, rfl, int3_reads (by decide) hw (by cases d <;> with_unfolding_all rfl)⟩
  case clz | ctz | popc => exact .inr ⟨_, rfl, one_reads (k := .s) (by decide) hw rfl⟩
  case fabs | fneg | frcp | frsq | fclass => exact .inr ⟨_, rfl, one_reads (k := .l) (by decide) rfl rfl⟩
  case fadd h a b | fsub h a b | fmul h a b | fmin h a b | fmax h a b | fceq h a b | fclt h a b | fcle h a b =>
    exact .inr ⟨_, rfl, flt2_reads (by decide) (by cases b <;> with_unfolding_all rfl)⟩
  case ffma h a b d => exact .inr ⟨_, rfl, ffma_reads hw (by cases d <;> with_unfolding_all rfl)⟩
  case fcvt => exact .inr ⟨_, rfl, fcvt_reads⟩
  case ld | ldg => exact .inr ⟨_, rfl, load_reads hw rfl⟩
  case st | stg => exact .inr ⟨_, rfl, store_reads hw rfl⟩
  case ldsync | ldsyncC => exact .inr ⟨_, rfl, sync_reads (k := .l) (by decide) rfl fun f hn => by simp only [map24, hn]⟩
  case stfull => exact .inr ⟨_, rfl, stfull_reads hw⟩
  case setempty => exact .inr ⟨_, rfl, sync_reads (k := .n) (by decide) hw fun f hn => by simp only [map24, hn]⟩
  case amoSwap | amoAdd | amoMin | amoMax | amoAnd | amoOr | amoXor =>
    exact .inr ⟨_, rfl, amo_reads (by decide) fun f hn => by simp only [map28, hn]⟩
  case amoFadd => exact .inr ⟨_, rfl, amoFadd_reads hw⟩
  case amoCas => exact .inr ⟨_, rfl, amoCas_reads⟩
  case redAdd | redMin | redMax | redAnd | redOr | redXor =>
    exact .inr ⟨_, rfl, red_reads (by decide) hw fun f hn => by simp only [map29, hn]⟩
  case redFadd => exact .inr ⟨_, rfl, redFadd_reads hw⟩
  case vadd | vsub | vmul | vfma | vfms | vmin | vmax | vabs | vneg | vexp2 | vlog2 | vrcp | vrsq | vcvt | vand | vor | vxor | vshl |
      vshr | vsra | vcmp | vsel | vbcast | vmov | vperm | vscan | vgath | vscat =>
    exact .inr ⟨_, rfl, candV_reads (k := .n) hw rfl⟩
  case vredadd | vredmax | vredmin => exact .inr ⟨_, rfl, candV_reads (k := .l) hw rfl⟩
  case mma | mmaSp | mzero | maccRd | maccWr => exact .inr ⟨_, rfl, candM_reads (k := .n) hw rfl⟩
  case mstat => exact .inr ⟨_, rfl, candM_reads (k := .l) (range := mstatRange) (unused := mstatUnused) hw rfl⟩
  case deltaUpd | deltaChunk | deltaQry =>
    exact .inr ⟨_, rfl, candM_reads (k := .n) (range := fun _ => true) ((congrArg (· && _) (Bool.and_true _)).trans hw) rfl⟩
  case br | jmp | ret | brx | loopI | hexit | nop | rdvPut | disarm | cktRel | tfence | eret | halt | srsWr =>
    exact .inr ⟨_, rfl, cand_reads (k := .n) hw rfl rfl rfl (by simp only [Fields.head, Head.fields, finOf_val, head_codes, srcOf_code, BitVec.ofNat_toNat, BitVec.setWidth_eq])⟩
  case movi | movhi | movR | lit | call | vsetvl =>
    exact .inr ⟨_, rfl, cand_reads (k := .s) hw rfl rfl rfl (by simp only [Fields.head, Head.fields, finOf_val, head_codes, srcOf_code, BitVec.ofNat_toNat, BitVec.setWidth_eq])⟩
  case rdvGet | launch | cktStat | chkpt | srsRd =>
    exact .inr ⟨_, rfl, cand_reads (k := .l) rfl rfl rfl rfl (by simp only [Fields.head, Head.fields, finOf_val, head_codes, srcOf_code, BitVec.ofNat_toNat, BitVec.setWidth_eq])⟩
  case padd h p a | paddImm h p a | wpwait h p a | pwrReq h p =>
    exact .inr ⟨_, rfl, cand_reads (k := .n) hw rfl rfl (by simp [zero?, Head.fields, Nat.div_eq_of_lt p.isLt]) (by simp only
      [Fields.head, Head.fields, finOf_val, head_codes, srcOf_code, ptrOf_val, BitVec.ofNat_toNat, BitVec.setWidth_eq])⟩
  case sigDec h p b =>
    exact .inr ⟨_, rfl, cand_reads (k := .n) hw rfl (decide_eq_true p.isLt) rfl (by simp only
      [Fields.head, Head.fields, finOf_val, head_codes, srcOf_code, ptrOf_val])⟩
  case evsig h n =>
    exact .inr ⟨_, rfl, cand_reads (k := .n) hw rfl rfl (by simp [zero?, Head.fields, Nat.div_eq_of_lt n.isLt]) (by simp only
      [Fields.head, Head.fields, finOf_val, head_codes])⟩
  case barArv h n | barSync h n | barWait h t n =>
    exact .inr ⟨_, rfl, cand_reads (k := .l) rfl rfl rfl (by simp [zero?, Head.fields, Nat.div_eq_of_lt n.isLt]) (by simp only
      [Fields.head, Head.fields, Fields.lvl, finOf_val, head_codes, srcOf_code])⟩
  case trapN h n | svc h n | swr h n a =>
    exact .inr ⟨_, rfl, cand_reads (k := .n) hw rfl rfl (by simp [zero?, Head.fields, Nat.div_eq_of_lt n.isLt]) (by simp only
      [Fields.head, Head.fields, finOf_val, head_codes, srcOf_code, BitVec.ofNat_toNat, BitVec.setWidth_eq])⟩
  case vsetvlImm h n | srd h n =>
    exact .inr ⟨_, rfl, cand_reads (k := .s) hw rfl rfl (by simp [zero?, Head.fields, Nat.div_eq_of_lt n.isLt]) (by simp only
      [Fields.head, Head.fields, finOf_val, head_codes, BitVec.ofNat_toNat, BitVec.setWidth_eq])⟩
  case macq h n =>
    exact .inr ⟨_, rfl, cand_reads (k := .l) rfl rfl rfl (by simp [zero?, Head.fields, Nat.div_eq_of_lt n.isLt]) (by simp only
      [Fields.head, Head.fields, finOf_val, head_codes])⟩
  case mrel h n | mpin h n | munpin h n =>
    exact .inr ⟨_, rfl, cand_reads (k := .n) hw rfl rfl (by simp [zero?, Head.fields, Nat.div_eq_of_lt n.isLt]) (by simp only
      [Fields.head, Head.fields, finOf_val, head_codes])⟩
  case time h n =>
    have hn : n.val % 4 = n.val := by omega
    exact .inr ⟨_, rfl, cand_reads (k := .s) hw rfl (by simp only [hn, bne_iff_ne]; omega) (by simp [zero?, Head.fields]; omega)
      (by simp only [Fields.head, Head.fields, finOf_val, head_codes, hn])⟩
  case locq h a n =>
    have hn : n.val % 4 = n.val := by omega
    exact .inr ⟨_, rfl, cand_reads (k := .l) rfl rfl (by simp only [hn, bne_iff_ne]; omega) (by simp [zero?, Head.fields]; omega)
      (by simp only [Fields.head, Head.fields, finOf_val, head_codes, hn, srcOf_code])⟩
  case hstart h n o | hjoin h n =>
    obtain ⟨hk, hn⟩ := Bool.and_eq_true_iff.mp hw
    exact .inr ⟨_, rfl, cand_reads (k := .n) hk rfl (by simpa [Fields.helper] using hn)
      (by simp [zero?, Head.fields, Nat.div_eq_of_lt n.isLt])
      (by simp only [Fields.head, Head.fields, Fields.helper, finOf_val, head_codes, BitVec.ofNat_toNat, BitVec.setWidth_eq])⟩
  case prio h n =>
    obtain ⟨hk, hn⟩ := Bool.and_eq_true_iff.mp hw
    exact .inr ⟨_, rfl, cand_reads (k := .n) hk rfl (by simpa [Nat.mod_eq_of_lt n.isLt] using hn)
      (by simp [zero?, Head.fields, Nat.div_eq_of_lt n.isLt])
      (by simp only [Fields.head, Head.fields, finOf_val, head_codes, BitVec.ofNat_toNat, BitVec.setWidth_eq])⟩
  case rqput h p d n =>
    exact .inr ⟨_, rfl, cand_reads (k := .n) hw rfl (decide_eq_true p.isLt) (by simp [zero?, Nat.div_eq_of_lt n.isLt])
      (by simp only [Fields.head, Head.fields, finOf_val, head_codes, ptrOf_val, srcOf_code])⟩
  case rqtake h p n =>
    exact .inr ⟨_, rfl, cand_reads (k := .l) rfl rfl (decide_eq_true p.isLt) rfl
      (by simp only [Fields.head, Head.fields, finOf_val, head_codes, ptrOf_val, srcOf_code])⟩
  case pset => exact .inr ⟨_, rfl, pset_reads hw⟩
  case psetKeep => exact .inr ⟨_, rfl, psetKeep_reads hw⟩
  case pget => exact .inr ⟨_, rfl, pget_reads hw⟩
  case fence => exact .inr ⟨_, rfl, fence_reads (kind := 0) (by decide) (by omega) hw fun f hn => by simp only [map2A, hn]⟩
  case fenceAcq => exact .inr ⟨_, rfl, fence_reads (kind := 1) (by decide) (by omega) hw fun f hn => by simp only [map2A, hn]⟩
  case fenceRel => exact .inr ⟨_, rfl, fence_reads (kind := 2) (by decide) (by omega) hw fun f hn => by simp only [map2A, hn]⟩
  case ringDef => exact .inr ⟨_, rfl, ringDef_reads hw⟩
  case mwld => exact .inr ⟨_, rfl, mwld_reads (hasHead_fields ..) rfl rfl rfl rfl rfl rfl rfl hw⟩
  case mwldImg => exact .inr ⟨_, rfl, mwldImg_reads ⟨rfl, rfl, rfl, rfl, rfl, rfl⟩ rfl rfl rfl rfl rfl rfl rfl hw⟩
  case mwldGl => exact .inr ⟨_, rfl, mwldGl_reads ⟨rfl, rfl, rfl, rfl, rfl, rfl⟩ rfl rfl rfl rfl rfl rfl rfl hw⟩
  case cpy => exact .inr ⟨_, rfl, cpy_reads hw⟩
  case cpy2d => exact .inr ⟨_, rfl, cpy2d_reads hw⟩
  case gath => exact .inr ⟨_, rfl, gath_reads hw⟩
  case coll => exact .inr ⟨_, rfl, coll_reads hw⟩
  case snap => exact .inr ⟨_, rfl, snap_reads hw⟩
  case arm => exact .inr ⟨_, rfl, arm_reads hw⟩
  case cktReq => exact .inr ⟨_, rfl, cktReq_reads⟩
  all_goals exact nomatch hw

end Sys2Proof.Proofs
end

section
/-! Decoding and encoding are inverse to each other (02 R45 to R64). -/

namespace Sys2Proof.Proofs

open Sys2Proof.Laws

theorem encode_of_fields {i : Instr} {f : Fields} (hf : i.fields = some f) : encode i = toBytes (lenBytes f.len) f.word := by
  unfold encode
  split
  · exact nomatch hf
  · rw [hf]

theorem four_le_lenBytes (len : Nat) : 4 ≤ lenBytes len := by
  unfold lenBytes
  split <;> decide

/-- LEN stands in the lowest bits, so the first word of a longer instruction shows it. -/
theorem ofBytes_take_four_mod {n : Nat} {bs : List Byte} (h4 : 4 ≤ n) (hn : n ≤ bs.length) :
    ofBytes (bs.take 4) % 4 = ofBytes (bs.take n) % 4 := by
  have hlen : (bs.take n).length = n := List.length_take_of_le hn
  have h := ofBytes_take 4 (bs.take n) (by omega)
  rw [List.take_take, Nat.min_eq_left h4] at h
  rw [h, Nat.mod_mod_of_dvd _ (by decide)]

/-- The bytes that fields within their widths make decode as those fields, whatever follows them. -/
theorem decode_word {f : Fields} {i : Instr} (w : InWidth f) (h : decodeFields f = .ok i) (rest : List Byte) :
    decode (toBytes (lenBytes f.len) f.word ++ rest) = .ok (i, lenBytes f.len) := by
  have h4 := four_le_lenBytes f.len
  have hlen := toBytes_length (lenBytes f.len) f.word
  have hle : lenBytes f.len ≤ (toBytes (lenBytes f.len) f.word ++ rest).length := by rw [List.length_append]; omega
  have hword : ofBytes (toBytes (lenBytes f.len) f.word) = f.word := by rw [ofBytes_toBytes, Nat.mod_eq_of_lt (word_lt w)]
  have htake : (toBytes (lenBytes f.len) f.word ++ rest).take (lenBytes f.len) = toBytes (lenBytes f.len) f.word := by
    rw [List.take_append_of_le_length hlen.ge, List.take_of_length_le hlen.le]
  have hmod := ofBytes_take_four_mod h4 hle
  rw [htake, hword, show f.word % 4 = f.len from digit_mod (lt_trans w.len (by decide))] at hmod
  have hl := w.len
  have h3 : ofBytes ((toBytes (lenBytes f.len) f.word ++ rest).take 4) ≠ 3 := fun e => by rw [e] at hmod; omega
  unfold decode
  dsimp only
  rw [if_neg (by omega), if_neg h3, hmod, if_neg (by omega), if_neg (by omega), htake, hword, fieldsOf_word w, h]

/-- Settles O55: a well-formed instruction is the pad word or has fields that the opcode map reads (`reads_of_wellFormed`), and the
bytes that these fields make hold them and nothing else (`decode_word`). -/
theorem decodeOfEncode : Obligations.DecodeOfEncode := by
  unfold Obligations.DecodeOfEncode
  intro i rest hw
  rcases reads_of_wellFormed hw with rfl | ⟨f, hf, hr⟩
  · rfl
  · rw [encode_of_fields hf, toBytes_length]
    exact decode_word (fields_inWidth hf) (decodeFields_eq_ok.mpr hr) rest

theorem toBytes_of_length {n : Nat} {bs : List Byte} (h : bs.length = n) : toBytes n (ofBytes bs) = bs := by
  subst h
  exact toBytes_ofBytes bs

/-- Settles O56: by the checks of `decode` in their order; what passes them is the pad word, or the opcode map accepts its fields, which
encode it (`encodes_of_opMap`) and make the number that the bytes hold. -/
theorem decodedIsWellFormed : Obligations.DecodedIsWellFormed := by
  unfold Obligations.DecodedIsWellFormed decode
  intro bs i n h
  dsimp only at h
  split_ifs at h with h4 h3 hl hn
  · obtain ⟨rfl, rfl⟩ := Prod.mk.inj (Except.ok.inj h)
    have hlen : (bs.take 4).length = 4 := List.length_take_of_le (Nat.le_of_not_lt h4)
    exact ⟨rfl, Nat.le_of_not_lt h4, by rw [← toBytes_of_length hlen, h3]; rfl⟩
  · split at h
    · exact nomatch h
    · next j hj =>
      obtain ⟨rfl, rfl⟩ := Prod.mk.inj (Except.ok.inj h)
      have hle := Nat.le_of_not_lt hn
      have hmod := ofBytes_take_four_mod (four_le_lenBytes _) hle
      generalize ofBytes (bs.take 4) % 4 = len at hl hj hle hmod ⊢
      have hlen : (bs.take (lenBytes len)).length = lenBytes len := List.length_take_of_le hle
      have hlt := ofBytes_lt (bs.take (lenBytes len))
      have hmod3 : len < 4 := hmod ▸ Nat.mod_lt _ (by decide)
      have w : InWidth (fieldsOf (ofBytes (bs.take (lenBytes len)))) :=
        fieldsOf_inWidth (by omega) (by rw [← hmod]; rwa [hlen] at hlt)
      obtain ⟨c, hc, ft, rfl⟩ := decodeFields_eq_ok.mp hj
      obtain ⟨hw, hf⟩ := encodes_of_opMap w ft hc
      refine ⟨hw, hle, ?_⟩
      rw [encode_of_fields hf, word_fieldsOf, show (fieldsOf (ofBytes (bs.take (lenBytes len)))).len = len from hmod.symm]
      exact toBytes_of_length hlen

end Sys2Proof.Proofs
end

section
/-! Traps and device steps of one context leave the entry of another context as it is (10 R255; 11 R281 to R283). -/

namespace Sys2Proof.Proofs

open Sys2Proof.Machine Sys2Proof.Laws

/-- Context `d` stands in `s` as it does in `r`. -/
def CtxAs (d : CtxId) (r s : State) : Prop := s.ctx d = r.ctx d

section
variable {d : CtxId} {r s : State} (h : CtxAs d r s)
include h

theorem CtxAs.of_undisturbed {t : State} (k : Undisturbed s t) : CtxAs d r t := (k.ctx d).trans h

theorem postCtx_ctxAs {c : CtxId} {code detail : Nat} {w : W64} : CtxAs d r (s.postCtx c code detail w) := by
  have k : Undisturbed s (s.postCtx c code detail w) :=
    ite_keeps (eventOut_undisturbs (.refl s)) (updVd_undisturbs (waitLog_undisturbs (.refl s)))
  exact h.of_undisturbed k

theorem parkEngine_ctxAs {c : CtxId} : CtxAs d r (s.parkEngine c) := by
  obtain ⟨t, m, hp⟩ := parkEngine_frame s c
  exact (congrArg (State.ctx · d) hp).trans h

theorem putCells_ctxAs {cs : List Host.Cell} : CtxAs d r (s.putCells cs) := h
theorem cleanCells_ctxAs {cs : List Host.Cell} : CtxAs d r (s.cleanCells cs) := ite_keeps h h

theorem wakeRet_ctxAs {phys n : Nat} : CtxAs d r (s.wakeRet phys n) := by
  have k : Undisturbed s (s.wakeRet phys n) :=
    foldl_keeps (.refl s) fun _ _ hu => ite_keeps (updCore_undisturbs hu) hu
  exact h.of_undisturbed k

end

section
variable {c d : CtxId} {r s : State} (hne : d ≠ c) (h : CtxAs d r s)
include hne h

theorem updCtx_ctxAs {f : Ctx → Ctx} : CtxAs d r (s.updCtx c f) := (updCtx_ctx_ne s f hne).trans h

theorem deliver_ctxAs {t : Trap} {pc : W64} : CtxAs d r (s.deliver c t pc) := by
  unfold State.deliver
  dsimp only
  split
  · exact h
  · exact ite_keeps (postCtx_ctxAs (updCtx_ctxAs hne h)) (updCtx_ctxAs hne h)

theorem requestPage_ctxAs {t : Trap} {pc : W64} : CtxAs d r (s.requestPage c t pc) := by
  unfold State.requestPage
  dsimp only
  split
  · exact updCtx_ctxAs hne h
  · split
    · exact updCtx_ctxAs hne (updCtx_ctxAs hne h)
    · exact updCtx_ctxAs hne h

theorem enterTrap_ctxAs {t : Trap} {pc : W64} : CtxAs d r (s.enterTrap c t pc) := by
  unfold State.enterTrap
  split
  · exact h
  · exact ite_keeps (postCtx_ctxAs (updCtx_ctxAs hne h)) (ite_keeps (requestPage_ctxAs hne h) (deliver_ctxAs hne h))

theorem takeTrap_ctxAs {t : Trap} {pc : W64} : CtxAs d r (s.takeTrap c t pc) := by
  have hp : CtxAs d r ((s.updCtx c Ctx.recordOut).parkEngine c).fresh := parkEngine_ctxAs (updCtx_ctxAs hne h)
  unfold State.takeTrap
  dsimp only
  split
  · exact hp
  · exact ite_keeps (enterTrap_ctxAs hne hp) (updCtx_ctxAs hne hp)

theorem recorded_ctxAs {cause detail : Nat} {addr : W64} {restart : Bool} {acc : Nat} :
    CtxAs d r (s.recorded c cause detail addr restart acc) := by
  unfold State.recorded
  split
  · exact h
  · exact takeTrap_ctxAs hne h

theorem peerRead_ctxAs : CtxAs d r (s.peerRead c) := by
  unfold State.peerRead
  split
  · exact h
  · split
    · refine ite_keeps h ?_
      split
      · exact recorded_ctxAs hne h
      · split
        · exact recorded_ctxAs hne h
        · exact wakeRet_ctxAs h
        · exact h
        · exact ite_keeps (recorded_ctxAs hne h) (updCtx_ctxAs hne h)
    · exact h

end

end Sys2Proof.Proofs
end

section
/-! A context's turn: what the contexts of lower CTXID put before it, the fetch, and what follows the instruction
(02 R46, R64; 04 R95, R99; 09 R255; 14 R362). -/

namespace Sys2Proof.Proofs

open Sys2Proof.Machine Sys2Proof.Laws

/-! ### What comes before the instruction -/

/-- The contexts of lower CTXID that issued in this cycle. -/
def lowerIssuers (s : State) (c : CtxId) : List CtxId :=
  ((s.ctxsOf c.sheaf c.grain).filter fun e => decide (e.1.ctx < c.ctx) && e.2.lastIssue == s.cycleOf (s.coreOfCtx c / 4)).map
    Prod.fst

/-- Where no context of lower CTXID issued in this cycle, nothing comes before the instruction. -/
theorem lowerFirst_of_none {s : State} {c : CtxId} (h : lowerIssuers s c = []) : s.lowerFirst c = s := by
  unfold lowerIssuers at h
  have hops (vs : List VOp) : vs.filter (fun v => ([] : List CtxId).contains v.ctx && !v.writes.isEmpty) = [] :=
    List.filter_eq_nil_iff.mpr fun v _ => by simp
  simp only [State.lowerFirst, h, hops, List.isEmpty_nil, if_true, List.foldl_nil]

theorem lowerIssuers_eq_nil {s : State} {c : CtxId} (h : ∀ e ∈ s.ctxsOf c.sheaf c.grain, e.1.ctx < c.ctx →
    e.2.lastIssue ≠ s.cycleOf (s.coreOfCtx c / 4)) : lowerIssuers s c = [] := by
  refine List.map_eq_nil_iff.mpr (List.filter_eq_nil_iff.mpr fun e he => ?_)
  simpa using h e he

theorem ne_of_mem_lowerIssuers {s : State} {c k : CtxId} (h : k ∈ lowerIssuers s c) : c ≠ k := by
  obtain ⟨e, he, rfl⟩ := List.mem_map.mp h
  have hlt : e.1.ctx < c.ctx := by
    have := (List.mem_filter.mp he).2
    simp only [Bool.and_eq_true, decide_eq_true_eq] at this
    exact this.1
  exact fun e' => Nat.lt_irrefl _ (e' ▸ hlt)

/-- What the contexts of lower CTXID do first is done to them and to memory, not to the context itself. -/
theorem lowerFirst_ctxAs (s : State) (c : CtxId) : CtxAs c s (s.lowerFirst c) := by
  unfold State.lowerFirst
  refine List.foldlRecOn _ _ (ite_keeps rfl (foldl_keeps rfl fun _ _ hu => cleanCells_ctxAs (putCells_ctxAs hu))) fun u hu k hk => ?_
  exact peerRead_ctxAs (ne_of_mem_lowerIssuers hk) hu

/-- A fetch leaves every context as it is. -/
theorem fetchBlock_ctx (s : State) (c d : CtxId) (pc : W64) : (s.fetchBlock c pc).1.ctx d = s.ctx d := by
  have hx : UndisturbedFst s (s.translate (some (s.coreOfCtx c)) (s.vdOfCtx c) pc .fetch) := translate_undisturbs (.refl s)
  unfold State.fetchBlock
  dsimp only
  split
  · rename_i e
    rw [e] at hx
    exact hx.ctx d
  · rename_i e
    rw [e] at hx
    exact ite_keeps (P := fun p : State × Except Fail (List Byte) => p.1.ctx d = s.ctx d) (hx.ctx d) (hx.ctx d)

/-! ### The turn -/

/-- The state of a context whose turn it is, and that nothing keeps from its next instruction. -/
structure Ready (s : State) (c : CtxId) (x : Ctx) : Prop where
  running : s.dev.halted = false
  ctx : s.ctx c = some x
  live : s.live c x = true
  resume : x.mustResume = false
  taking : x.taking = none
  deferred : x.deferred = []
  issue : s.mayIssue c x = true

/-- A context that is ready prepares by fetching its next instruction. -/
theorem prepare_ready {s : State} {c : CtxId} {x : Ctx} (h : Ready s c x) :
    s.prepare c = (({ s with cur := c } : State).lowerFirst c).fetchNext c x := by
  simp only [State.prepare, h.ctx, h.live, h.resume, h.taking, h.deferred, h.issue, Bool.not_true, Bool.false_eq_true,
    if_false, if_true]

/-- A step whose scheduled move is a context's turn. -/
theorem step_issue {s : State} {c : CtxId} {ms : List Move} (hs : s.sched = .issue c :: ms) (hd : s.dev.halted = false) :
    step s = ({ s with sched := ms } : State).issueMove c := by
  simp only [step, State.stepNext, hs, State.move, hd, Bool.false_eq_true, if_false]

/-- The outcome of an instruction with what follows it. -/
def concluded (s : State) (c : CtxId) (i : Instr) : Host.Outcome State Fault Refusal → Host.Outcome State Fault Refusal
  | .next u => .next (s.conclude c i u)
  | .fault f => .fault f
  | .refused r => .refused r

section
variable {s t y : State} {c : CtxId} {x : Ctx} {bs : List Byte}

theorem fetchNext_instr {i : Instr} {n : Nat} (hf : t.fetchBlock c x.pc = (y, .ok bs)) (hd : decode bs = .ok (i, n)) :
    t.fetchNext c x = (y, .instr i) := by simp only [State.fetchNext, hf, hd]

theorem fetchNext_illegal {e : DecodeError} (hf : t.fetchBlock c x.pc = (y, .ok bs)) (hd : decode bs = .error e) :
    t.fetchNext c x = (y, .illegal e.cause e.detail) := by simp only [State.fetchNext, hf, hd]

theorem fetchNext_fault {f : Fail} (hf : t.fetchBlock c x.pc = (y, .error f)) :
    t.fetchNext c x = (y.fetchFault c f x.pc, .wait) := by simp only [State.fetchNext, hf]

theorem issueMove_instr {i : Instr} (h : s.prepare c = (y, .instr i)) :
    s.issueMove c = concluded y c i (exec i y) := by
  simp only [State.issueMove, h]
  generalize exec i y = o
  cases o <;> rfl

theorem issueMove_illegal {cause : DecodeCause} {detail : Nat} (h : s.prepare c = (y, .illegal cause detail)) :
    s.issueMove c = exec (.illegalInstruction cause (BitVec.ofNat 8 detail)) y := by
  simp only [State.issueMove, h]
  rfl

theorem issueMove_wait (h : s.prepare c = (y, .wait)) : s.issueMove c = .next y := by simp only [State.issueMove, h]

end

/-! ### What follows the instruction -/

theorem emitTrace_off {s : State} {c : CtxId} (h : bit (s.ctl (s.vdOfCtx c) rTRCTL) 63 = false) : s.emitTrace c = s := by
  unfold State.emitTrace
  dsimp only
  split
  · rfl
  · rw [h]
    rfl

theorem tracePeriod_off {s : State} {c : CtxId} {before : Nat} (h : bit (s.ctl (s.vdOfCtx c) rTRCTL) 63 = false) :
    s.tracePeriod c before = s := by
  unfold State.tracePeriod
  dsimp only
  split
  · rfl
  · rw [emitTrace_off h, ite_self]

/-- With DEBUG and the trace off, nothing follows the instruction of a context that comes out of no hold. -/
theorem conclude_off {s u : State} {c : CtxId} {i : Instr} (hh : (s.ctx c).bind (fun x => x.holdLevel) = none)
    (hd : (s.sheafOf c.sheaf).debug = false) (ht : bit (u.ctl (u.vdOfCtx c) rTRCTL) 63 = false) : s.conclude c i u = u := by
  have hdarnel : s.darnel c i u = u := by simp only [State.darnel, hd, Bool.not_false, if_true]
  have hrel : s.released c u = u := by simp only [State.released, hh]
  rw [State.conclude, hdarnel, hrel, tracePeriod_off ht]

/-- Settles O57: a step is the context's turn, whose preparation is the fetch. -/
theorem stepRunsDecodedInstruction : Obligations.StepRunsDecodedInstruction := by
  intro s c ms x now t
  refine ⟨fun hl => lowerFirst_of_none (lowerIssuers_eq_nil hl), fun hs hhalt hx hlive hres htak hdef hmay => ?_⟩
  have hready : Ready { s with sched := ms } c x := ⟨hhalt, hx, hlive, hres, htak, hdef, hmay⟩
  have hprep : ({ s with sched := ms } : State).prepare c = t.fetchNext c x := prepare_ready hready
  have hstep : step s = ({ s with sched := ms } : State).issueMove c := step_issue hs hhalt
  refine ⟨fun y bs i n hf hdec => ?_, fun y bs e hf hdec => ?_, fun y f hf => ?_⟩
  · have hturn := hstep.trans (issueMove_instr (hprep.trans (fetchNext_instr hf hdec)))
    have hy : y.ctx c = some x := by
      have hc := fetchBlock_ctx t c c x.pc
      rw [hf] at hc
      exact (hc.trans (lowerFirst_ctxAs now c)).trans hx
    refine ⟨fun u hu => by rw [hturn, hu, concluded], fun f hu => by rw [hturn, hu, concluded],
      fun r hu => by rw [hturn, hu, concluded], fun u hu hhold hdebug htrace => ?_⟩
    have hnone : (y.ctx c).bind (fun x => x.holdLevel) = none := by rw [hy]; exact hhold
    rw [hturn, hu]
    exact congrArg _ (conclude_off hnone hdebug htrace)
  · exact hstep.trans (issueMove_illegal (hprep.trans (fetchNext_illegal hf hdec)))
  · exact hstep.trans (issueMove_wait (hprep.trans (fetchNext_fault hf)))

end Sys2Proof.Proofs
end

section
/-! `tfence`, `trap`, `svc`, `eret`, priority, time, power and the decode traps (02 R64; 08 R226 to R228, R231, R232, R234). -/

namespace Sys2Proof.Proofs

open Sys2Proof.Machine Sys2Proof.Laws

/-! ### A context without earlier work (R226) -/

/-- The executing context has no result to be written, no access and no vector instruction in progress. -/
structure Idle (s : State) : Prop where
  pend : s.me.pend = []
  out : s.me.out = none
  vec : s.vecBusy s.cur = false

theorem idle_of_workLeft {s : State} (h : s.workLeft = false) : Idle s := by
  simp only [State.workLeft, Bool.or_eq_false_iff, Bool.not_eq_false', List.isEmpty_iff, Option.isSome_eq_false_iff,
    Option.isNone_iff_eq_none] at h
  obtain ⟨⟨⟨hpend, hout⟩, hvec⟩, -⟩ := h
  exact ⟨hpend, hout, hvec⟩

section
variable {s : State} (hl : s.lives = true)
include hl

theorem doneN_me (len : Nat) : (s.doneN len).me = (s.me.tally s.cycle).next len := updMe_me s _ hl

theorem doneN_lives (len : Nat) : (s.doneN len).lives = true := (updMe_lives s _).trans hl

theorem doneN_idle (hi : Idle s) (len : Nat) : Idle (s.doneN len) := by
  refine ⟨?_, ?_, hi.vec⟩
  · rw [doneN_me hl, next_only]
    exact congrArg (List.map _) hi.pend
  · rw [doneN_me hl, next_only]
    exact hi.out

/-! ### A trap of an instruction that has issued -/

/-- It enters the handler of an idle context at once, TRAPPC naming the next instruction. -/
theorem trapAfter_entersHandler (hi : Idle s) (hh : s.me.handler = false) (hd : s.me.dead = false) (he : s.grain.handler ≠ 0)
    {cause detail : Nat} (hc : cause < 256) (hdet : detail < 256) (hsvc : cause ≠ Cause.svc)
    (htr : cause ≠ Cause.translation) (hmi : cause ≠ Cause.migration) :
    (s.trapAfter cause detail).me = { (s.me.tally s.cycle).next 8 with
      trapcause := BitVec.ofNat 64 (cause + detail * 2 ^ 8 + 2 ^ 16)
      trappc := addrField ((s.me.tally s.cycle).next 8).pc
      trapaddr := 0
      taking := none
      handler := true
      pc := s.grain.handler } ∧
    (∀ c, c ≠ s.cur → (s.trapAfter cause detail).ctx c = s.ctx c) ∧ sameMem s (s.trapAfter cause detail) := by
  have hx := doneN_me hl 8
  have hid := doneN_idle hl hi 8
  have hxh : (s.doneN 8).me.handler = false := by rw [hx, next_only]; exact hh
  have hxd : (s.doneN 8).me.dead = false := by rw [hx, next_only]; exact hd
  obtain ⟨hme, hothers, hmem⟩ := exactFaultEntersHandler (s.doneN 8) cause detail 0 true (doneN_lives hl 8) hid.pend hid.out
    hid.vec hxh hxd he hc hdet hsvc htr hmi
  refine ⟨hme.trans ?_, fun c hne => (hothers c hne).trans (updMe_ctx_ne s _ hne), hmem⟩
  rw [hx, next_only]
  rfl

/-- A trap of an idle context does not wait: nothing is recorded, and it is entered from a state with the same contexts. -/
theorem exact_enters (hi : Idle s) (cause detail : Nat) (addr : W64) (restart : Bool) :
    ∃ u : State, u.cur = s.cur ∧ u.ctx s.cur = some s.me ∧ (∀ c, c ≠ s.cur → u.ctx c = s.ctx c) ∧ sameMem s u ∧
      s.exact cause detail addr restart = u.enterTrap s.cur ⟨cause, detail, addr, restart, false, 0⟩ s.me.pc := by
  obtain ⟨t, m, hp⟩ := parkEngine_frame (s.updCtx s.cur Ctx.recordOut) s.cur
  have hrec : s.me.recordOut = s.me := by simp only [Ctx.recordOut, hi.out]
  let u : State := ({ s.updCtx s.cur Ctx.recordOut with tiles := t, sheaves := m } : State).fresh
  have hu : u.ctx s.cur = some s.me := by
    refine (updCtx_ctx_self s s.cur Ctx.recordOut).trans ?_
    rw [ctx_cur_of_lives hl, Option.map_some, hrec]
  have hready : u.trapReady s.cur s.me = true := by
    have hvec : u.vecBusy s.cur = false := hi.vec
    simp only [State.trapReady, hi.pend, hvec, List.isEmpty_nil, Bool.not_false, Bool.and_self]
  refine ⟨u, rfl, hu, fun c hc => updCtx_ctx_ne s _ hc, sameMem_of_eq rfl rfl rfl rfl rfl rfl, ?_⟩
  have hstart : ((s.updCtx s.cur Ctx.recordOut).parkEngine s.cur).fresh = u := congrArg State.fresh hp
  simp only [State.exact, State.takeTrap, hstart, hu, hready, if_true]

/-- An `svc` of an idle context stops it and posts an event (R227). -/
theorem trapAfter_svc (hi : Idle s) {detail : Nat} (hdet : detail < 256) :
    ∃ y, s.trapAfter Cause.svc detail =
        y.postCtx s.cur 1 detail (codeAddr (addrField ((s.me.tally s.cycle).next 8).pc)) ∧
      y.me = { (s.me.tally s.cycle).next 8 with
        trapcause := BitVec.ofNat 64 (0x32 + detail * 2 ^ 8 + 2 ^ 16)
        trappc := addrField ((s.me.tally s.cycle).next 8).pc
        trapaddr := 0
        taking := none
        hostStop := true } ∧
      (∀ c, c ≠ s.cur → y.ctx c = s.ctx c) ∧ sameMem s y := by
  obtain ⟨u, hcur, hu, hothers, hmem, ht⟩ :=
    exact_enters (doneN_lives hl 8) (doneN_idle hl hi 8) Cause.svc detail 0 true
  have hword : (⟨Cause.svc, detail, 0, true, false, 0⟩ : Trap).word = BitVec.ofNat 64 (0x32 + detail * 2 ^ 8 + 2 ^ 16) := by
    have hc : Cause.svc % 256 = 0x32 := by decide
    simp only [Trap.word, hc, Nat.mod_eq_of_lt hdet, if_true, Bool.false_eq_true, if_false, Nat.add_zero]
  have hpc := congrArg Ctx.pc (doneN_me hl 8)
  refine ⟨u.updCtx s.cur fun x => (x.trapRegs ⟨Cause.svc, detail, 0, true, false, 0⟩ (s.doneN 8).me.pc).toHost, ?_, ?_,
    fun c hc => (updCtx_ctx_ne u _ hc).trans ((hothers c hc).trans (updMe_ctx_ne s _ hc)), hmem⟩
  · refine ht.trans ?_
    have hu' : u.ctx s.cur = some (s.doneN 8).me := hu
    simp only [State.enterTrap, hpc]
    rw [show (s.doneN 8).cur = s.cur from rfl, hu']
    rfl
  · have hul : u.lives = true := Option.isSome_iff_exists.mpr ⟨_, hcur ▸ hu⟩
    have hme : u.me = (s.me.tally s.cycle).next 8 := by
      rw [← doneN_me hl 8]
      exact Option.some.inj ((ctx_cur_of_lives hul).symm.trans (hcur ▸ hu))
    rw [show s.cur = u.cur from hcur.symm]
    refine (updMe_me u _ hul).trans ?_
    simp only [hme, hpc, Ctx.trapRegs, Ctx.toHost, hword]
    rw [next_only]
    rfl

end

/-! ### Leaving the handler (R228, R32, R33) -/

section
variable (x : Ctx)

theorem leaveHandler_drops (h : bit x.trapcause 18 = true) : x.leaveHandler = { x with
    trapcause := x.trapcause &&& ~~~(maskBits 18 18), handler := false, pc := codeAddr x.trappc, pv := false, saved := none } := by
  simp only [Ctx.leaveHandler, h, if_true, Ctx.drop]

theorem leaveHandler_plain (h : bit x.trapcause 18 = false) (hp : x.pv = false) : x.leaveHandler = { x with
    trapcause := x.trapcause &&& ~~~(maskBits 18 18), handler := false, pc := codeAddr x.trappc } := by
  simp only [Ctx.leaveHandler, h, hp, Bool.false_eq_true, if_false]

/-- The recorded instruction is in progress again, and every pending result stays. -/
theorem leaveHandler_resumes (h : bit x.trapcause 18 = false) (hp : x.pv = true) {o : Out} (ho : x.saved = some o) :
    x.leaveHandler = { x with
      trapcause := x.trapcause &&& ~~~(maskBits 18 18)
      handler := false
      pc := codeAddr x.trappc
      pv := false
      saved := none
      resuming := true
      out := some { o with
        stage := o.again
        prog := x.prog.toNat
        held := x.held
        due := if isAccess o.instr then none else o.due
        cycle := 0 }
      pend := x.leaveHandler.pend } ∧ ∀ p ∈ x.pend, p ∈ x.leaveHandler.pend := by
  have hres : x.leaveHandler = { x.resume with
      trapcause := x.resume.trapcause &&& ~~~(maskBits 18 18), handler := false, pc := codeAddr x.resume.trappc } := by
    simp only [Ctx.leaveHandler, h, hp, Bool.false_eq_true, if_false, if_true]
  rw [hres, Ctx.resume, ho]
  exact ⟨rfl, fun p hm => ite_keeps (P := fun l : List Pend => p ∈ l) hm (List.mem_append_left _ hm)⟩

end

theorem updGrainOf_cycle (s : State) (c : CtxId) {f : Grain → Grain} (hf : ∀ g, (f g).core = g.core) :
    (s.updGrainOf c f).cycle = s.cycle := by
  have hcore : (s.updGrainOf c f).grain.core = s.grain.core := by
    have hfind : (s.updGrainOf c f).grainOf s.cur =
        if (c.sheaf, c.grain) = (s.cur.sheaf, s.cur.grain) then (s.grainOf s.cur).map f else s.grainOf s.cur :=
      tab_find_upd _ _ _ _
    rw [State.grain, State.grain, show (s.updGrainOf c f).cur = s.cur from rfl, hfind]
    cases s.grainOf s.cur with
    | none => rw [Option.map_none, ite_self]
    | some g =>
      split
      · exact hf g
      · rfl
  simp only [State.cycle, State.myQuad, hcore]
  rfl

theorem dropSaved_frame (s : State) (c : CtxId) :
    (∃ t h g, s.dropSaved c = { s with tiles := t, sheaves := h, grains := g }) ∧ (s.dropSaved c).cycle = s.cycle := by
  unfold State.dropSaved
  split
  · obtain ⟨t, h, hl⟩ := leaveEngine_frame s c []
    rw [hl]
    exact ⟨⟨t, h, _, rfl⟩, updGrainOf_cycle _ c fun _ => rfl⟩
  · exact ⟨⟨s.tiles, s.sheaves, s.grains, rfl⟩, rfl⟩

section
variable {s : State} {h : Head} (hr : s.runs h = true)
include hr

theorem eret_leaves (hh : s.me.handler = true) (ho : s.me.out = none) : ∃ t, exec (.eret h) s = .next t ∧
    t.me = (s.me.tally s.cycle).leaveHandler ∧ (∀ c, c ≠ s.cur → t.ctx c = s.ctx c) ∧ sameMem s t := by
  have key (d : State) (hd : (∃ t m g, d = { s with tiles := t, sheaves := m, grains := g }) ∧ d.cycle = s.cycle) :
      let t := (d.updMe fun c => (c.tally d.cycle).leaveHandler).fresh
      t.me = (s.me.tally s.cycle).leaveHandler ∧ (∀ c, c ≠ s.cur → t.ctx c = s.ctx c) ∧ sameMem s t := by
    obtain ⟨⟨t, m, g, rfl⟩, hcyc⟩ := hd
    rw [hcyc]
    exact ⟨updMe_me _ _ (runs_lives hr), fun c hc => updMe_ctx_ne _ _ hc, sameMem_of_eq rfl rfl rfl rfl rfl rfl⟩
  refine ⟨_, ?_, key (if bit s.me.trapcause 18 || !s.me.pv then s.dropSaved s.cur else s) ?_⟩
  · simp only [exec_eret, execEret, issue_runs hr, hh, ho, Bool.not_true, Bool.false_eq_true, if_false, Option.isSome_none]
  · exact ite_keeps (P := fun d : State => (∃ t m g, d = { s with tiles := t, sheaves := m, grains := g }) ∧ d.cycle = s.cycle)
      (dropSaved_frame s s.cur) ⟨⟨_, _, _, rfl⟩, rfl⟩

theorem tfence_waits (hw : s.workLeft = true) : exec (.tfence h) s = .next s.stall := by
  simp only [exec_tfence, execTfence, issue_runs hr, hw, if_true]

theorem tfence_passes (hw : s.workLeft = false) (hf : s.me.aflags &&& s.me.amask = 0) : GivesN (.tfence h) s s 8 (0x3E, 0) :=
  givesN_of_doneN hr (runs_lives hr) rfl (by
    simp only [exec_tfence, execTfence, hw, hf, ne_eq, not_true_eq_false, Bool.false_eq_true, if_false])

theorem tfence_traps (hw : s.workLeft = false) (hf : s.me.aflags &&& s.me.amask ≠ 0) :
    exec (.tfence h) s = .next (s.trapAfter Cause.arithmetic (s.me.aflags &&& s.me.amask).toNat) := by
  simp only [exec_tfence, execTfence, issue_runs hr, hw, ne_eq, hf, not_false_eq_true, Bool.false_eq_true, if_false, if_true]

theorem trapN_traps (n : BitVec 8) : exec (.trapN h n) s = .next (s.trapAfter Cause.trap n.toNat) := issue_runs hr _ _

theorem svc_traps (n : BitVec 8) (hb : s.rollback s.myVd = false) :
    exec (.svc h n) s = .next (s.trapAfter Cause.svc n.toNat) := by
  have hu : s.unlogged s.cur = s := if_neg (by rw [show s.vdOfCtx s.cur = s.myVd from rfl, hb]; decide)
  simp only [exec_svc, execSvc, issue_runs hr, hu]

theorem eret_refused (hh : s.me.handler = false) : exec (.eret h) s = .next (s.exact Cause.privilege 2) := by
  simp only [exec_eret, execEret, issue_runs hr, hh, Bool.not_false, if_true]

/-- `time` gives the value that its selector names (R232). -/
theorem time_gives (sel : Fin 3) : GivesS (.time h sel) s h (s.timeValue sel.val) 8 (0x3E, 9) :=
  givesS_of_doneS hr rfl rfl

/-- A decode trap is an exact fault (R64). -/
theorem illegalInstruction_faults (n : Byte) :
    exec (.illegalInstruction .illegalInstruction n) s = .next (s.exact Cause.illegalInstruction n.toNat) ∧
      exec (.illegalInstruction .illegalLength n) s = .next (s.exact Cause.illegalLength n.toNat) := by
  have hc := ctx_cur_of_lives (runs_lives hr)
  simp only [exec_illegalInstruction, execIllegalInstruction, hc, and_self]

end

theorem timeValue_issued {s : State} {sel : Nat} (h : s.sheaf.det = true ∨ sel = 2) :
    s.timeValue sel = BitVec.ofNat 64 s.me.issued := if_pos h

theorem timeValue_slot {s : State} (h : s.sheaf.det = false) : s.timeValue 0 = BitVec.ofNat 64 s.slot := by
  simp [State.timeValue, h]

theorem timeValue_cycle {s : State} (h : s.sheaf.det = false) : s.timeValue 1 = BitVec.ofInt 64 (s.cycle - s.grain.cycle0) := by
  simp [State.timeValue, h]

/-- Settles O39: a trap of an idle context is entered at once, and `eret` leaves the handler by one function of the
context. -/
theorem systemInstructions : Obligations.SystemInstructions := by
  intro s h n m sel k hr x idle bothOk inHandler flags
  have hl := runs_lives hr
  have htrap {cause detail : Nat} (hi : idle) (hh : s.me.handler = false) (hd : s.me.dead = false) (he : s.grain.handler ≠ 0)
      (hc : cause = 0x30 ∨ cause = 0x31) (hdet : detail < 256) : inHandler (s.trapAfter cause detail) cause detail := by
    have hcause : cause < 256 ∧ cause ≠ Cause.svc ∧ cause ≠ Cause.translation ∧ cause ≠ Cause.migration := by
      rcases hc with rfl | rfl <;> decide
    obtain ⟨hlt, hsvc, htr, hmi⟩ := hcause
    exact trapAfter_entersHandler hl (idle_of_workLeft hi) hh hd he hlt hdet hsvc htr hmi
  refine ⟨tfence_waits hr, tfence_passes hr, fun hi hh hd he => ⟨fun hf => ⟨_, tfence_traps hr hi hf, ?_⟩,
    ⟨_, trapN_traps hr n, htrap hi hh hd he (.inr rfl) n.isLt⟩⟩, fun hi hb => ?_, eret_refused hr, fun hh ho => ?_,
    givesN_of_doneN hr hl rfl rfl, givesN_of_doneN hr hl rfl rfl, fun hs => ?_, fun hd hs => ?_, fun hd hs => ?_,
    (illegalInstruction_faults hr n).1, (illegalInstruction_faults hr n).2⟩
  · exact htrap hi hh hd he (.inl rfl) (Nat.lt_trans flags.isLt (by decide))
  · obtain ⟨y, ht, hy⟩ := trapAfter_svc hl (idle_of_workLeft hi) n.isLt
    exact ⟨y, (svc_traps hr n hb).trans (congrArg _ ht), hy⟩
  · intro z back
    obtain ⟨t, ht, hme, hrest⟩ := eret_leaves hr hh ho
    refine ⟨fun hb => ⟨t, ht, hme.trans (leaveHandler_drops z hb), hrest⟩,
      fun hb hp => ⟨t, ht, hme.trans (leaveHandler_plain z hb hp), hrest⟩, fun hb hp o hs => ⟨t, ht, ?_, ?_, hrest⟩⟩
    · rw [hme]
      exact (leaveHandler_resumes z hb hp hs).1
    · rw [hme]
      exact (leaveHandler_resumes z hb hp hs).2
  · exact timeValue_issued hs ▸ time_gives hr sel
  · have hv : s.timeValue sel.val = BitVec.ofNat 64 s.slot := hs ▸ timeValue_slot hd
    exact hv ▸ time_gives hr sel
  · have hv : s.timeValue sel.val = BitVec.ofInt 64 (s.cycle - s.grain.cycle0) := hs ▸ timeValue_cycle hd
    exact hv ▸ time_gives hr sel

end Sys2Proof.Proofs
end

section
/-! FP32 comparisons, the class mask, conversions and special operands (03 R81, R82; 04 R106, R107). -/

namespace Sys2Proof.Proofs

open Sys2Proof.Machine Sys2Proof.Laws

/-- An instruction whose body, from `u`, ends in a result of class L. -/
theorem givesL_of_doneL {i : Instr} {s u : State} {h : Head} {lat len : Nat} {v : W64} {fl : Flags} {code : Nat × Nat}
    (hr : s.runs h = true) (hu : u.lives = true) (hc : opFn i = some code)
    (hx : exec i s = issue h len s (u.doneL h len lat v fl)) :
    GivesL i s u h lat v fl len code :=
  ⟨hc, _, hx.trans (issue_runs hr _ _), doneL_reserves hu h len lat v fl⟩

/-- The function code of a two-source FP32 instruction lies below the two bits that give the form of its operand (R55). -/
theorem encFlt2_opFn (h : Head) {opm op : Nat} (hop : op < 64) (a : Src) (b : FOp) :
    ((encFlt2 h opm op a b).opm, (encFlt2 h opm op a b).fn % 64) = (opm, op) := by
  cases b with
  | reg r => exact congrArg (Prod.mk opm) (Nat.mod_eq_of_lt hop)
  | imm20 v => exact congrArg (Prod.mk opm) (show (64 + op) % 64 = op by omega)
  | const n => exact congrArg (Prod.mk opm) (show (128 + op) % 64 = op by omega)
  | lit v => exact congrArg (Prod.mk opm) (show (192 + op) % 64 = op by omega)

/-- The class mask has one bit, one of ten (R106). -/
theorem fclass32_oneHot (x : Nat) : ∃ j, j < 10 ∧ fclass32 x = 2 ^ j := by
  unfold fclass32
  cases fp32.unpack x with
  | nan sig =>
    cases sig
    · exact ⟨9, by decide, rfl⟩
    · exact ⟨8, by decide, rfl⟩
  | inf neg =>
    cases neg
    · exact ⟨7, by decide, rfl⟩
    · exact ⟨0, by decide, rfl⟩
  | fin neg m e =>
    dsimp only
    split_ifs
    · exact ⟨3, by decide, rfl⟩
    · exact ⟨4, by decide, rfl⟩
    · exact ⟨2, by decide, rfl⟩
    · exact ⟨5, by decide, rfl⟩
    · exact ⟨1, by decide, rfl⟩
    · exact ⟨6, by decide, rfl⟩

/-- Only stochastic rounding looks at the generator (R83). -/
theorem rmMode_of_ne_sr {rm : Rm} (h : rm ≠ .sr) (x y : W32) : rmMode rm x = rmMode rm y := by
  cases rm with
  | rne => rfl
  | rtz => rfl
  | sr => exact absurd rfl h

section
variable {s : State} {h : Head} (hr : s.runs h = true)
include hr

theorem fclass_gives (a : Src) : ∃ j, j < 10 ∧ GivesL (.fclass h a) s s h 4 (BitVec.ofNat 64 (2 ^ j)) 0 8 (0x11, 0x03) := by
  obtain ⟨j, hj, hm⟩ := fclass32_oneHot (s.fsrc 1 a)
  refine ⟨j, hj, givesL_of_doneL hr (runs_lives hr) rfl ?_⟩
  rw [exec_fclass, execFclass, fp1, fres, hm]

theorem fcvt_gives (a : Src) (k : CvtKind) {rm : Rm} (hm : rm ≠ .sr) : GivesL (.fcvt h a k rm) s s h 4
    (fcvtOp k (rmMode rm 0) (s.src 1 a)).1 (fcvtOp k (rmMode rm 0) (s.src 1 a)).2 8 (0x11, 0x04) := by
  refine givesL_of_doneL hr (runs_lives hr) rfl ?_
  rw [exec_fcvt, execFcvt, if_neg hm, rmMode_of_ne_sr hm]

theorem fcvt_sr_gives (a : Src) (k : CvtKind) : let rnd := lfsrStep s.me.lfsr[0]
    GivesL (.fcvt h a k .sr) s (s.updMe fun c => { c with lfsr := c.lfsr.set 0 rnd }) h 4
      (fcvtOp k (rmMode .sr rnd) (s.src 1 a)).1 (fcvtOp k (rmMode .sr rnd) (s.src 1 a)).2 8 (0x11, 0x04) := by
  refine givesL_of_doneL hr ((updMe_lives s _).trans (runs_lives hr)) rfl ?_
  rw [exec_fcvt, execFcvt, if_pos rfl]

end

/-- Settles O3: each instruction ends in a result of class L, the class mask is one-hot in every branch, and the special
operands are evaluated. -/
theorem floatCompareConvertAndSpecials : Obligations.FloatCompareConvertAndSpecials := by
  refine ⟨fun s h a b k hr => ?_, ?_⟩
  · intro x y n rnd stepped
    have code {op : Nat} (hop : op < 64) := congrArg some (encFlt2_opFn h (opm := 0x11) hop a b)
    have hl := runs_lives hr
    exact ⟨givesL_of_doneL hr hl (code (op := 0) (by decide)) rfl, givesL_of_doneL hr hl (code (op := 1) (by decide)) rfl,
      givesL_of_doneL hr hl (code (op := 2) (by decide)) rfl, fclass_gives hr a, fun rm hm => fcvt_gives hr a k hm,
      fcvt_sr_gives hr a k⟩
  · decide

end Sys2Proof.Proofs
end

section
/-! Accumulator elements: what a write leaves of the others, and a tile-op of a multiply (03 R90; 07 R189, R193, R194). -/

namespace Sys2Proof.Proofs

open Sys2Proof.Machine Sys2Proof.Laws

/-- Reads of places where two memories agree. -/
theorem mem_read_congr {m m' : Mem} {a n : Nat} (h : ∀ b, a ≤ b → b < a + n → Mem.get m b = Mem.get m' b) :
    Mem.read m a n = Mem.read m' a n := by
  induction n generalizing a with
  | zero => rfl
  | succ n ih =>
    rw [Mem.read, Mem.read, h a (by omega) (by omega), ih fun b hlo hhi => h b (by omega) (by omega)]

/-! ### One element (R185) -/

/-- The elements of a tile lie apart, in the tile's 16 KiB. -/
theorem accAddr_apart (tile a : Nat) {i j k l : Nat} (hj : j < 64) (hl : l < 64) (h : (i, j) ≠ (k, l)) :
    accAddr tile a i j + 4 ≤ accAddr tile a k l ∨ accAddr tile a k l + 4 ≤ accAddr tile a i j := by
  rw [ne_eq, Prod.mk.injEq] at h
  unfold accAddr
  omega

theorem accAddr_inside (tile a : Nat) {i j : Nat} (hi : i < 64) (hj : j < 64) :
    accAddr tile a 0 0 ≤ accAddr tile a i j ∧ accAddr tile a i j + 4 ≤ accAddr tile a 0 0 + 2 ^ 14 := by
  unfold accAddr
  omega

section
variable (s : State) (tile a i j v : Nat)

theorem accPut_frame : s.accPut tile a i j v =
    { s with accm := Mem.write s.accm (accAddr tile a i j) (toBytes 4 v), dev := (s.accPut tile a i j v).dev } := by
  unfold State.accPut State.cleanAcc
  dsimp only
  split <;> rfl

theorem accPut_accm : (s.accPut tile a i j v).accm = Mem.write s.accm (accAddr tile a i j) (toBytes 4 v) :=
  congrArg State.accm (accPut_frame s tile a i j v)

variable {s} (hs : Mem.wf s.accm = true)
include hs

theorem accPut_wf : Mem.wf (s.accPut tile a i j v).accm = true := by
  rw [accPut_accm]
  exact mem_wf_write hs _ _

theorem accPut_get_out {p : Nat} (hp : p < accAddr tile a i j ∨ accAddr tile a i j + 4 ≤ p) :
    Mem.get (s.accPut tile a i j v).accm p = Mem.get s.accm p := by
  rw [accPut_accm]
  exact mem_get_write_out hs (by rwa [toBytes_length])

theorem accGet_accPut_self : (s.accPut tile a i j v).accGet tile a i j = v % 2 ^ 32 := by
  have hr := mem_read_write hs (accAddr tile a i j) (toBytes 4 v)
  rw [toBytes_length] at hr
  rw [State.accGet, accPut_accm, hr, ofBytes_toBytes]

theorem accGet_accPut_ne {k l : Nat} (hj : j < 64) (hl : l < 64) (hne : (i, j) ≠ (k, l)) :
    (s.accPut tile a i j v).accGet tile a k l = s.accGet tile a k l := by
  have hap := accAddr_apart tile a hj hl hne
  exact congrArg ofBytes (mem_read_congr fun b hlo hhi => accPut_get_out tile a i j v hs (by omega))

end

/-! ### Elements one after the other -/

/-- Replaces the element at a place by what a function gives of its place and its value, and gathers the flags. -/
def accUpdate (tile a : Nat) (f : Nat × Nat → Nat → Nat × Flags) (p : State × Flags) (x : Nat × Nat) : State × Flags :=
  let r := f x (p.1.accGet tile a x.1 x.2)
  (p.1.accPut tile a x.1 x.2 r.1, p.2 ||| r.2)

/-- Elements updated at distinct places of a tile: each from its own old value, and nothing else changes. -/
structure UpdatesElements (tile a : Nat) (f : Nat × Nat → Nat → Nat × Flags) (xs : List (Nat × Nat)) (s : State) (fl : Flags)
    (t : State × Flags) : Prop where
  frame : ∃ m d, t.1 = { s with accm := m, dev := d }
  within : ∀ i j, (i, j) ∈ xs → t.1.accGet tile a i j = (f (i, j) (s.accGet tile a i j)).1 % 2 ^ 32
  others : ∀ i j, j < 64 → (i, j) ∉ xs → t.1.accGet tile a i j = s.accGet tile a i j
  outside : ∀ p, p < accAddr tile a 0 0 ∨ accAddr tile a 0 0 + 2 ^ 14 ≤ p → Mem.get t.1.accm p = Mem.get s.accm p
  flags : ∀ k, bit t.2 k = true ↔ bit fl k = true ∨ ∃ i j, (i, j) ∈ xs ∧ bit (f (i, j) (s.accGet tile a i j)).2 k = true

theorem foldl_accUpdate (tile a : Nat) (f : Nat × Nat → Nat → Nat × Flags) {xs : List (Nat × Nat)} (hd : xs.Nodup)
    (hx : ∀ x ∈ xs, x.1 < 64 ∧ x.2 < 64) {s : State} (hs : Mem.wf s.accm = true) (fl : Flags) :
    UpdatesElements tile a f xs s fl (xs.foldl (accUpdate tile a f) (s, fl)) := by
  induction xs generalizing s fl with
  | nil => exact ⟨⟨s.accm, s.dev, rfl⟩, fun _ _ h => absurd h List.not_mem_nil, fun _ _ _ _ => rfl, fun _ _ => rfl,
    fun _ => by simp⟩
  | cons x xs ih =>
    obtain ⟨i₀, j₀⟩ := x
    obtain ⟨hnew, hd⟩ := List.nodup_cons.mp hd
    obtain ⟨h₀, hx⟩ := List.forall_mem_cons.mp hx
    obtain ⟨hi₀, hj₀⟩ : i₀ < 64 ∧ j₀ < 64 := h₀
    let r := f (i₀, j₀) (s.accGet tile a i₀ j₀)
    let u := s.accPut tile a i₀ j₀ r.1
    have hu : ∀ i j, j < 64 → (i, j) ≠ (i₀, j₀) → u.accGet tile a i j = s.accGet tile a i j := fun i j hj hne =>
      accGet_accPut_ne tile a i₀ j₀ r.1 hs hj₀ hj (Ne.symm hne)
    have hkept : ∀ i j, (i, j) ∈ xs → u.accGet tile a i j = s.accGet tile a i j := fun i j hm =>
      hu i j (hx _ hm).2 (ne_of_mem_of_not_mem hm hnew)
    obtain ⟨⟨m, d, hframe⟩, hwithin, hothers, houtside, hflags⟩ := ih hd hx (accPut_wf tile a i₀ j₀ r.1 hs) (fl ||| r.2)
    refine ⟨⟨m, d, ?_⟩, fun i j hm => ?_, fun i j hj hm => ?_, fun p hp => ?_, fun k => ?_⟩
    · exact hframe.trans (congrArg (fun u : State => { u with accm := m, dev := d }) (accPut_frame s tile a i₀ j₀ r.1))
    · rcases List.mem_cons.mp hm with he | hm
      · obtain ⟨rfl, rfl⟩ := Prod.mk.inj he
        exact (hothers _ _ hj₀ hnew).trans (accGet_accPut_self tile a _ _ r.1 hs)
      · exact (hwithin i j hm).trans (by rw [hkept i j hm])
    · obtain ⟨hne, hm⟩ := not_or.mp (mt List.mem_cons.mpr hm)
      exact (hothers i j hj hm).trans (hu i j hj hne)
    · have hin := accAddr_inside tile a hi₀ hj₀
      exact (houtside p hp).trans (accPut_get_out tile a i₀ j₀ r.1 hs (by omega))
    · refine (hflags k).trans ?_
      rw [bit_or, Bool.or_eq_true, or_assoc]
      refine or_congr_right ⟨?_, ?_⟩
      · rintro (hb | ⟨i, j, hm, hb⟩)
        · exact ⟨i₀, j₀, List.mem_cons_self, hb⟩
        · exact ⟨i, j, List.mem_cons_of_mem _ hm, hkept i j hm ▸ hb⟩
      · rintro ⟨i, j, hm, hb⟩
        rcases List.mem_cons.mp hm with he | hm
        · obtain ⟨rfl, rfl⟩ := Prod.mk.inj he
          exact .inl hb
        · exact .inr ⟨i, j, hm, (hkept i j hm).symm ▸ hb⟩

/-! ### A tile-op of a multiply -/

theorem zipIdx_map_range {α : Type} (f : Nat → α) (n : Nat) :
    ((List.range n).map f).zipIdx = (List.range n).map fun i => (f i, i) := by
  refine List.ext_getElem (by simp) fun i _ _ => ?_
  simp

/-- The pairs of K-blocks of an element, in order (R193, R194). -/
def mmaPairs (s : State) (tile lq : Nat) (c : MCmd) (m : MArgs) (kbs : List Nat) (x : Nat × Nat) : List (MBlock × MBlock) :=
  kbs.map fun k => (s.ablock lq c m x.1 k, s.wblock tile m.fb m.woff.toNat (mN m * mNK m) (x.2 * mNK m + k))

/-- A tile-op updates the elements of its rows and columns, one after the other. -/
theorem mmaOp_eq_foldl (s : State) (tile lq : Nat) (c : MCmd) (m : MArgs) (kbs : List Nat) : s.mmaOp tile lq c m kbs =
    (List.range (mM m) ×ˢ List.range (mN m)).foldl
      (accUpdate tile m.acc fun x v => accBlocks v 0 (mmaPairs s tile lq c m kbs x)) (s, 0) := by
  simp only [State.mmaOp, zipIdx_map_range, List.foldl_map, List.zip_map', SProd.sprod, List.product, List.foldl_flatMap,
    accUpdate, mmaPairs]

/-- Settles O31: a tile-op runs over the places below M and N, which are distinct, and updates each once. -/
theorem matrixMultiplyElements : Obligations.MatrixMultiplyElements := by
  intro s tile lq c m kbs hs mm nn nk t pairs element
  have hmem (i j : Nat) : (i, j) ∈ List.range mm ×ˢ List.range nn ↔ i < mm ∧ j < nn := by
    rw [List.mem_product, List.mem_range, List.mem_range]
  have hmm : mm ≤ 64 := m.mm.isLt
  have hnn : nn ≤ 64 := m.nn.isLt
  have hin : ∀ x ∈ List.range mm ×ˢ List.range nn, x.1 < 64 ∧ x.2 < 64 := fun x hx => by
    have := (hmem x.1 x.2).mp hx
    omega
  obtain ⟨⟨_, _, hframe⟩, hwithin, hothers, houtside, hflags⟩ := mmaOp_eq_foldl s tile lq c m kbs ▸
    foldl_accUpdate tile m.acc (fun x v => accBlocks v 0 (mmaPairs s tile lq c m kbs x))
      (List.nodup_range.product List.nodup_range) hin hs 0
  refine ⟨fun i j hi hj => hwithin i j ((hmem i j).mpr ⟨hi, hj⟩), fun i j _ hj hout => hothers i j hj fun hm => ?_, houtside,
    fun k => ?_, ?_⟩
  · have := (hmem i j).mp hm
    omega
  · refine (hflags k).trans ?_
    simp only [hmem, and_assoc]
    exact ⟨fun h => h.resolve_left (by simp [bit]), .inr⟩
  · rw [show t = _ from hframe]
    exact ⟨rfl, rfl, rfl, rfl, rfl, rfl, rfl⟩

end Sys2Proof.Proofs
end

section
/-! What device memory, the log and the engines' writes leave of the tiles (11 R295, R296; 12 R309, R323). -/

namespace Sys2Proof.Proofs

open Sys2Proof.Machine Sys2Proof.Laws

/-- Every tile stands as it was, its channels with it. -/
structure SameTiles (r s : State) : Prop where
  tiles : s.tiles = r.tiles

/-- The same of the state that a function answers with. -/
def SameTilesFst {α : Type} (r : State) (p : State × α) : Prop := SameTiles r p.1

theorem fst_sameTiles {α : Type} {r s : State} {x : α} (h : SameTiles r s) : SameTilesFst r (s, x) := h

section
variable {r s : State} (h : SameTiles r s)
include h

theorem updDev_sameTiles {f : Dev → Dev} : SameTiles r (s.updDev f) := ⟨h.tiles⟩
theorem setMg_sameTiles {off : Nat} {w : W64} : SameTiles r (s.setMg off w) := ⟨h.tiles⟩
theorem updVd_sameTiles {n : Nat} {f : Vd → Vd} : SameTiles r (s.updVd n f) := ⟨h.tiles⟩
theorem updSheaf_sameTiles {n : Nat} {f : Sheaf → Sheaf} : SameTiles r (s.updSheaf n f) := ⟨h.tiles⟩
theorem updCtx_sameTiles {c : CtxId} {f : Ctx → Ctx} : SameTiles r (s.updCtx c f) := ⟨h.tiles⟩

/-! ### Device memory and the log -/

theorem devPut_sameTiles {key : List W64} {a : Nat} {b : Byte} : SameTiles r (s.devPut key a b) :=
  ite_keeps ⟨h.tiles⟩ ⟨h.tiles⟩

theorem devPuts_sameTiles {key : List W64} {a : Nat} {bs : List Byte} : SameTiles r (s.devPuts key a bs) := by
  induction bs generalizing s a with
  | nil => exact h
  | cons b bs ih => exact ih (devPut_sameTiles h)

theorem cleanHbm_sameTiles {p : Nat → Bool} : SameTiles r (s.cleanHbm p) := ite_keeps h (updDev_sameTiles h)

theorem devWrite_sameTiles {key : List W64} {a : Nat} {bs : List Byte} : SameTiles r (s.devWrite key a bs) := by
  unfold State.devWrite
  exact ite_keeps (cleanHbm_sameTiles (devPuts_sameTiles h)) (devPuts_sameTiles h)

theorem setAD_sameTiles {at_ : Nat} {d : Bool} : SameTiles r (s.setAD at_ d) := by
  unfold State.setAD
  exact ite_keeps h (devPuts_sameTiles h)

/-- A walk for the device itself fills no tile's TLB. -/
theorem walkBoth_sameTiles {vd va : Nat} {k : Acc} : SameTilesFst r (s.walkBoth none vd va k) := by
  have hs (l : List Nat) : SameTiles r (l.foldl (fun s at_ => s.setAD at_ false) s) :=
    foldl_keeps h fun _ _ hu => setAD_sameTiles hu
  unfold State.walkBoth
  dsimp only
  split
  · exact h
  · refine ite_keeps (P := SameTilesFst r) (hs _) (ite_keeps (P := SameTilesFst r) (hs _) ?_)
    split
    · exact hs _
    · exact ite_keeps (P := SameTilesFst r) (hs _) (ite_keeps (P := SameTilesFst r) (hs _)
        (fst_sameTiles (setAD_sameTiles (hs _))))

theorem xlate_sameTiles {vd : Nat} {va : W64} {k : Acc} : SameTilesFst r (s.xlate none vd va k) := by
  have ht (e : TlbEntry) : s.tlbRefill none vd (vaNat va) e = s := rfl
  unfold State.xlate
  simp only [ht]
  split
  · exact h
  · split
    · exact walkBoth_sameTiles h
    · exact ite_keeps (P := SameTilesFst r) h (ite_keeps (P := SameTilesFst r) h
        (ite_keeps (P := SameTilesFst r) (walkBoth_sameTiles h) h))

theorem logPut_sameTiles {vd : Nat} {va : W64} {bs : List Byte} {bad : Bool} : SameTiles r (s.logPut vd va bs bad) := by
  have hx := xlate_sameTiles (vd := vd) (va := va) (k := .write) h
  unfold State.logPut
  split
  · rename_i e
    rw [e] at hx
    exact hx
  · rename_i e
    rw [e] at hx
    exact ite_keeps (updDev_sameTiles (devWrite_sameTiles hx)) (devWrite_sameTiles hx)

theorem logDrop_sameTiles {vd : Nat} : SameTiles r (s.logDrop vd) := by
  unfold State.logDrop
  dsimp only
  split
  · exact h
  · exact updVd_sameTiles (updVd_sameTiles h)

theorem logTrim_sameTiles {vd n : Nat} : SameTiles r (s.logTrim vd n) := by
  induction n generalizing s with
  | zero => exact h
  | succ n ih =>
    unfold State.logTrim
    split
    · exact h
    · exact ite_keeps h (ih (logDrop_sameTiles h))

theorem logLine_sameTiles {vd line dpa sid : Nat} {key : List W64} : SameTiles r (s.logLine vd line dpa sid key) := by
  have hd : SameTiles r (s.updDev fun d => { d with seq := d.seq + 1 }) := updDev_sameTiles h
  exact ite_keeps h (logTrim_sameTiles (updVd_sameTiles (ite_keeps hd (logPut_sameTiles (logPut_sameTiles hd)))))

theorem combineU_sameTiles {u : ULine} : SameTiles r (s.combineU u) :=
  foldl_keeps (ite_keeps (logLine_sameTiles h) h) fun _ _ hu => devWrite_sameTiles hu

theorem flushU_sameTiles {p : Nat → ULine → Bool} : SameTiles r (s.flushU p) :=
  foldl_keeps ⟨h.tiles⟩ fun _ _ hu => combineU_sameTiles hu

theorem flushHome_sameTiles {dpa n : Nat} : SameTiles r (s.flushHome dpa n) := ite_keeps h (flushU_sameTiles h)

theorem flushPages_sameTiles {hs : List Held} : SameTiles r (s.flushPages hs) := ite_keeps h (flushU_sameTiles h)

/-! ### Writes of an engine (R208, R323) -/

theorem wakeTag_sameTiles {sheaf kind place q : Nat} : SameTiles r (s.wakeTag sheaf kind place q) :=
  ite_keeps (updSheaf_sameTiles h) h

theorem lessPend_sameTiles {c : CtxId} {level n : Nat} : SameTiles r (s.lessPend c level n) :=
  ite_keeps h (updSheaf_sameTiles h)

theorem putEngine_sameTiles {cs : List Host.Cell} : SameTiles r (s.putEngine cs) := by
  unfold State.putEngine State.cleanCells State.cleanLmem
  exact ite_keeps ⟨h.tiles⟩ ⟨h.tiles⟩

theorem engineLocal_sameTiles {c : CtxId} {q : Nat} {w : View} {lq off : Nat} {bs : List (Option Byte)} :
    SameTiles r (s.engineLocal c q w lq off bs) := by
  unfold State.engineLocal State.engineWake
  exact ite_keeps (foldl_keeps (putEngine_sameTiles h) fun _ _ hu => wakeTag_sameTiles hu) (putEngine_sameTiles h)

theorem enginePiece_sameTiles {c : CtxId} {hs : List Held} {va : W64} {bs : List (Option Byte)} :
    SameTiles r (s.enginePiece c hs va bs) := by
  have hf (dpa n : Nat) : SameTiles r (s.flushHome dpa n) := flushHome_sameTiles h
  unfold State.enginePiece
  dsimp only
  refine ite_keeps (devWrite_sameTiles ?_) (foldl_keeps ?_ fun u b hu => ?_)
  · exact ite_keeps (logLine_sameTiles (hf _ _)) (hf _ _)
  · exact ite_keeps (logLine_sameTiles (hf _ _)) (hf _ _)
  · split
    · exact devPut_sameTiles hu
    · exact hu

theorem cleanHost_sameTiles {a n : Nat} : SameTiles r (s.cleanHost a n) := ite_keeps h (updDev_sameTiles h)

theorem engineGlobal_sameTiles {c : CtxId} {host : Bool} {hs : List Held} {k : Nat} {va : W64} {bs : List (Option Byte)} :
    SameTiles r (s.engineGlobal c host hs k va bs) := by
  induction k generalizing s va bs with
  | zero => exact h
  | succ k ih =>
    cases bs with
    | nil => exact h
    | cons b bs =>
      have hw (m : Mem) : SameTiles r { s with host := m } := ⟨h.tiles⟩
      exact ih (ite_keeps (P := SameTiles r) (cleanHost_sameTiles (hw _)) (enginePiece_sameTiles h))

theorem poisonLine_sameTiles {tile : Nat} {e : ECmd} {j : Job} : SameTiles r (s.poisonLine tile e j) := by
  have hc (place addr : Nat) : SameTiles r (s.countError place addr) := setMg_sameTiles (setMg_sameTiles h)
  exact ite_keeps (updDev_sameTiles (hc _ _)) h

theorem wholeLines_sameTiles {k : CpyKind} {e : ECmd} {dst : Side} {row : Nat → W64} {hi : Nat} :
    SameTiles r (if k = .l2g then s.wholeLines e dst row hi else s) :=
  ite_keeps (ite_keeps h (cleanHbm_sameTiles h)) h

end

/-! ### A line of a copy -/

/-- Where a line of a copy is read, converted and written no tile changes; then the channel counts it (R212). -/
theorem copyLine_counts (s : State) (tile : Nat) (ch : Fin 8) (e : ECmd) (a : CpyArgs) : ∃ u, SameTiles s u ∧ ∃ f : ECmd → ECmd,
    (∀ x, (f x).prog = x.prog + 1 ∧ (f x).instr = x.instr ∧ (f x).ctx = x.ctx) ∧
    s.copyLine tile ch e a = u.updChan tile ch fun k => { k.updHead f with
      wp := k.wp + BitVec.ofNat 64 (min e.localBytes (64 * (e.prog + 1)) - 64 * e.prog) } := by
  refine ⟨_, ?_, _, fun x => ?_, rfl⟩
  · have hs : SameTiles s (if (jobOf a (cap e.caps 2)).kind = .g2l then s.flushPages e.trans else s) :=
      ite_keeps (flushPages_sameTiles ⟨rfl⟩) ⟨rfl⟩
    have hm {α : Type} {go : State × Flags → α → State × Flags} (l : List α)
        (hgo : ∀ p x, SameTilesFst s p → SameTilesFst s (go p x)) : SameTilesFst s (l.foldl go (_, 0)) :=
      foldl_keeps (fst_sameTiles hs) hgo
    refine wakeTag_sameTiles (updCtx_sameTiles (lessPend_sameTiles (wholeLines_sameTiles (poisonLine_sameTiles
      (hm _ fun p x hp => ?_)))))
    exact fst_sameTiles (ite_keeps (engineLocal_sameTiles hp) (engineGlobal_sameTiles hp))
  · exact ⟨rfl, rfl, rfl⟩

end Sys2Proof.Proofs
end

section
/-! The pass of a copy over its pages (08 R214; 03 R77, R78). -/

namespace Sys2Proof.Proofs

open Sys2Proof.Machine Sys2Proof.Laws

/-- A copy is no collective. -/
theorem collArgs_of_cpyArgs {i : Instr} {a : CpyArgs} (h : cpyArgs i = some a) : collArgs i = none := by
  unfold cpyArgs at h
  split at h
  · rfl
  · rfl
  · cases h

section
variable {s : State} {c : CtxId} {o : Out} {a : CpyArgs} {e : ECmd}

theorem engineTranslationDone_copy (ho : s.outOf c = some o) (ha : cpyArgs o.instr = some a) :
    exec (.engineTranslationDone c) s = .next (s.copyPass c o a) := by
  rw [exec_engineTranslationDone, execEngineTranslationDone, State.enginePass, ho]
  unfold cpyArgs at ha
  split at ha
  · next hi => simp only [hi, Option.some.inj ha]
  · next hi => simp only [hi, Option.some.inj ha]
  · cases ha

section
variable (hp : (s.tileOf (s.coreOfCtx c / 8)).pass.find? (fun e => e.ctx == c && e.tag == o.tag) = some e)
  (he : (jobOf a (cap o.caps 2)).e ≠ 0)
include hp he

theorem copyPass_fault {s₁ : State} {f : Fail} : let j := jobOf a (cap o.caps 2)
    s.onePage (isHost j.kind) c j.acc (vaNat (cap o.caps 1) / 4096 * 4096) = (s₁, .fault f) →
    s.copyPass c o a = s₁.recordFail c f (cap o.caps 1) j.acc := by
  intro j hf
  have hq : s.passEntry c o j a.plv.val = (s, e) := by simp only [State.passEntry, hp]
  simp only [State.copyPass, j, hq, he, if_false, hf]

/-- With every page of its rows held, what is left is the format of the pages (R78). -/
theorem copyPass_held {s₁ s₂ : State} {g : Held} {hs : List Held} : let j := jobOf a (cap o.caps 2)
    let sb := cap o.caps 1
    let sd := cap o.caps 3
    let z := j.sized g.fmtCode g.bg
    let side := j.memSide z.1 z.2
    let rows := (List.range side.byteRows).map fun r => memRow sb sd r
    s.onePage (isHost j.kind) c j.acc (vaNat sb / 4096 * 4096) = (s₁, .ok g) →
    (∀ r ∈ rows, canonical r = true ∧ canonical (r + BitVec.ofNat 64 (side.rowLen - 1)) = true) →
    s₁.allPages (isHost j.kind) c j.acc ((rows.flatMap fun r => pagesOf r side.rowLen).foldl (fun l p => insertUp p l) []) =
      (s₂, .ok hs) →
    (∀ d at_, formatFault j sb sd hs = some (d, at_) → s.copyPass c o a = s₂.recordFail c ⟨Cause.formatAccess, d⟩ at_ j.acc) ∧
      (formatFault j sb sd hs = none → s.copyPass c o a = s₂.enterChannel c o j e hs) := by
  intro j sb sd z side rows hf hrows hall
  have hq : s.passEntry c o j a.plv.val = (s, e) := by simp only [State.passEntry, hp]
  have hnone : rows.find? (fun r => !canonical r || !canonical (r + BitVec.ofNat 64 (side.rowLen - 1))) = none :=
    List.find?_eq_none.mpr fun r hr => by simp [hrows r hr]
  simp only [rows, side, z, sd, sb, j] at hq hf hnone hall ⊢
  simp only [State.copyPass, hq, he, if_false, hf, hnone, hall]
  exact ⟨fun d at_ hd => by simp only [hd], fun hd => by simp only [hd]⟩

end

end

end Sys2Proof.Proofs
end

section
/-! The steps of a channel: its head's start, lines and ends (08 R211, R212, R215). -/

namespace Sys2Proof.Proofs

open Sys2Proof.Machine Sys2Proof.Laws

/-! ### Channels -/

theorem updChan_chan (s : State) (tile : Nat) (ch : Fin 8) (f : Chan → Chan) :
    ((s.updChan tile ch f).tileOf tile).chans[ch] = f (s.tileOf tile).chans[ch] := by
  simp [State.updChan]

theorem updHead_of_cons {k : Chan} {e : ECmd} {es : List ECmd} (h : k.cmds = e :: es) (f : ECmd → ECmd) :
    k.updHead f = { k with cmds := f e :: es } := by
  simp only [Chan.updHead, h]

/-- A conversion that changes no element gives the bytes that it reads, without flags (R74, R77). -/
theorem stretch_same {v : Conv} (hv : isKb v.dst.fmt = false) (rd : Reader) (r b n : Nat) :
    v.stretch true rd r b n = ((List.range n).map fun i => some (rd r (b + i)), 0) := by
  have hs (i : Nat) : v.same rd r i = (some (rd r i), 0) := by simp [Conv.same, hv]
  have hf : (List.range n).foldl (fun (f : Flags) _ => f ||| 0) 0 = 0 := List.foldl_fixed' (fun _ => rfl) _
  simp only [Conv.stretch, if_true, hs, List.map_map, Function.comp_def, List.foldl_map, hf]

/-! ### A channel without its head -/

/-- The head of a channel leaves it, and its flags go to its context (R212). -/
def popped (s : State) (tile : Nat) (ch : Fin 8) (e : ECmd) : State :=
  (s.updChan tile ch fun k => { k with cmds := k.cmds.drop 1 }).updCtx e.ctx fun x => { x with aflags := x.aflags ||| e.flags }

/-- A command has ended without an error: what has become of its channel, its context and the memories. -/
structure EndsCommand (s t : State) (tile : Nat) (ch : Fin 8) (e : ECmd) : Prop where
  chan : (t.tileOf tile).chans[ch].cmds = (s.tileOf tile).chans[ch].cmds.drop 1
  flags : ∀ x, s.ctx e.ctx = some x → (t.ctx e.ctx).map (fun y => y.aflags) = some (x.aflags ||| e.flags)
  lmem : t.lmem = s.lmem
  hbm : t.hbm = s.hbm

theorem popped_ends (s : State) (tile : Nat) (ch : Fin 8) (e : ECmd) : EndsCommand s (popped s tile ch e) tile ch e where
  chan := congrArg Chan.cmds (updChan_chan s tile ch fun k => { k with cmds := k.cmds.drop 1 })
  flags x hx := by
    have hc : (popped s tile ch e).ctx e.ctx = (s.ctx e.ctx).map fun x => { x with aflags := x.aflags ||| e.flags } :=
      updCtx_ctx_self _ _ _
    rw [hc, hx]
    rfl
  lmem := rfl
  hbm := rfl

/-- A checkpoint that is to follow (R299) is noted in the context, beside its flags. -/
theorem EndsCommand.unlogged {s t : State} {tile : Nat} {ch : Fin 8} {e : ECmd} (h : EndsCommand s t tile ch e)
    (host : Bool) : EndsCommand s (if host then t.unlogged e.ctx else t) tile ch e := by
  refine ite_keeps (P := fun t => EndsCommand s t tile ch e) (ite_keeps (P := fun t => EndsCommand s t tile ch e)
    ⟨h.chan, fun x hx => ?_, h.lmem, h.hbm⟩ h) h
  rw [updCtx_ctx_self, Option.map_map]
  exact h.flags x hx

section
variable {s : State} {tile : Nat} {ch : Fin 8} {e : ECmd} (hh : s.chanHead tile ch = some e)
include hh

theorem chanHead_cmds : (s.tileOf tile).chans[ch].cmds = e :: (s.tileOf tile).chans[ch].cmds.drop 1 := by
  obtain ⟨hr, -⟩ := Option.filter_eq_some_iff.mp hh
  obtain ⟨es, hc⟩ := List.head?_eq_some_iff.mp hr
  rw [hc]
  rfl

/-! ### The start of a head (R211, R212) -/

theorem lineWrite_waits (hs : e.started = false) (hw : s.cmdHeld e.view e.lq e.seq e.reads e.writes = true) :
    s.lineWrite tile ch = s := by
  simp only [State.lineWrite, hh, hs, hw, Bool.not_false, if_true]

theorem lineWrite_starts (hs : e.started = false) (hw : s.cmdHeld e.view e.lq e.seq e.reads e.writes = false) :
    s.lineWrite tile ch = s.updChan tile ch fun k => { k.updHead fun e => { e with started := true } with
      wp := if (cpyArgs e.instr).any (fun a => a.rst) then 0 else k.wp } := by
  simp only [State.lineWrite, hh, hs, hw, Bool.not_false, if_true, Bool.false_eq_true, if_false]
  cases cpyArgs e.instr <;> rfl

theorem lineWrite_started (hs : e.started = false) (hw : s.cmdHeld e.view e.lq e.seq e.reads e.writes = false) :
    ∃ t, exec (.channelLineWrite tile ch) s = .next t ∧ t = { s with tiles := t.tiles } ∧
      (t.tileOf tile).chans[ch].cmds = { e with started := true } :: (s.tileOf tile).chans[ch].cmds.drop 1 ∧
      (t.tileOf tile).chans[ch].wp = (if (cpyArgs e.instr).any (fun a => a.rst) then 0 else (s.tileOf tile).chans[ch].wp) := by
  refine ⟨_, congrArg Host.Outcome.next (lineWrite_starts hh hs hw), rfl, ?_, ?_⟩
  · rw [updChan_chan, updHead_of_cons (chanHead_cmds hh)]
  · rw [updChan_chan]

/-! ### The lines of a copy -/

section
variable {a : CpyArgs} (hs : e.started = true) (he : s.headError e = none) (ha : cpyArgs e.instr = some a)
include hs he ha

theorem lineWrite_held (hw : s.copyHeld e a = true) : s.lineWrite tile ch = s := by
  simp only [State.lineWrite, hh, hs, he, ha, hw, Bool.not_true, Bool.false_eq_true, if_false, Option.isSome_none,
    or_true, if_true]

theorem lineWrite_copies (hk : a.kind ≠ .l2c) (hp : e.prog < e.lines) (hw : s.copyHeld e a = false) :
    s.lineWrite tile ch = s.copyLine tile ch e a := by
  simp only [State.lineWrite, hh, hs, he, ha, hw, hk, Nat.not_le.mpr hp, Bool.not_true, Bool.false_eq_true, if_false,
    Option.isSome_none, or_false]

theorem lineWrite_moves (hk : a.kind ≠ .l2c) (hp : e.prog < e.lines) (hw : s.copyHeld e a = false) :
    let n := min e.localBytes (64 * (e.prog + 1)) - 64 * e.prog
    ∃ t, exec (.channelLineWrite tile ch) s = .next t ∧
      (t.tileOf tile).chans[ch].wp = (s.tileOf tile).chans[ch].wp + BitVec.ofNat 64 n ∧
      ∃ e', (t.tileOf tile).chans[ch].cmds = e' :: (s.tileOf tile).chans[ch].cmds.drop 1 ∧ e'.prog = e.prog + 1 ∧
        e'.instr = e.instr ∧ e'.ctx = e.ctx := by
  obtain ⟨u, ⟨hu⟩, f, hf, hc⟩ := copyLine_counts s tile ch e a
  have hchan : (u.tileOf tile).chans[ch] = (s.tileOf tile).chans[ch] := by rw [State.tileOf, hu]; rfl
  refine ⟨_, congrArg Host.Outcome.next ((lineWrite_copies hh hs he ha hk hp hw).trans hc), ?_, f e, ?_, hf e⟩
  · rw [updChan_chan, hchan]
  · rw [updChan_chan, hchan, updHead_of_cons (chanHead_cmds hh)]

/-! ### The end of a command -/

theorem commandComplete_pops (hm : s.cmdMoved tile ch e = true) : exec (.engineCommandComplete tile ch) s =
    .next (if isHost a.kind then (popped (s.lessPend e.ctx e.plv e.bytes) tile ch e).unlogged e.ctx
      else popped (s.lessPend e.ctx e.plv e.bytes) tile ch e) := by
  simp only [exec_engineCommandComplete, execEngineCommandComplete, State.chanComplete, hh, hs, he, hm, ha,
    collArgs_of_cpyArgs ha, popped, Bool.not_true, Option.isSome_none, Bool.or_self, Bool.true_or, Bool.false_eq_true, if_false]

theorem commandComplete_ends (hm : s.cmdMoved tile ch e = true) : ∃ t, exec (.engineCommandComplete tile ch) s = .next t ∧
    (t.tileOf tile).chans[ch].cmds = (s.tileOf tile).chans[ch].cmds.drop 1 ∧
    (∀ x, s.ctx e.ctx = some x → (t.ctx e.ctx).map (fun y => y.aflags) = some (x.aflags ||| e.flags)) ∧
    t.lmem = s.lmem ∧ t.hbm = s.hbm := by
  obtain ⟨m, hl⟩ := lessPend_frame s e.ctx e.plv e.bytes
  obtain ⟨hchan, hflags, hlmem, hhbm⟩ := (popped_ends (s.lessPend e.ctx e.plv e.bytes) tile ch e).unlogged (isHost a.kind)
  rw [hl] at hchan hflags hlmem hhbm
  exact ⟨_, (commandComplete_pops hh hs he ha hm).trans (by rw [hl]), hchan, hflags, hlmem, hhbm⟩

end

/-- A channel whose head has met no error does not end it. -/
theorem faultEnd_none (he : s.headError e = none) : s.faultEnd tile ch = s := by
  cases hs : e.started
  · simp only [State.faultEnd, hh, hs, Bool.not_false, if_true]
  · simp only [State.faultEnd, hh, hs, he, Bool.not_true, Bool.false_eq_true, if_false]

theorem faultEnd_error {c d : Nat} {x : W64} (hs : e.started = true) (he : s.headError e = some (c, d, x)) :
    let ends (y : State) : Prop := exec (.engineFaultEnd tile ch) s =
      .next ((y.discard tile e.ctx e.seq).defer e.ctx ⟨c, d, x, false, false, 0⟩)
    (e.fault ≠ none ∨ (∀ a, cpyArgs e.instr = some a → a.kind ≠ .l2h) → ends s) ∧
    ∀ a, cpyArgs e.instr = some a → a.kind = .l2h → e.fault = none →
      ends (s.poisonHost (e.hostLines (jobOf a (cap e.caps 2)))) := by
  intro ends
  simp only [ends, exec_engineFaultEnd, execEngineFaultEnd, State.faultEnd, hh, hs, he, Bool.not_true,
    Bool.false_eq_true, if_false]
  refine ⟨fun hn => ?_, fun a ha hk hf => ?_⟩
  · cases ha : cpyArgs e.instr with
    | none => rfl
    | some a =>
      have hno : ¬ (a.kind = .l2h ∧ e.fault = none) := fun ⟨hk, hf⟩ => hn.elim (· hf) (· a ha hk)
      simp only [hno, if_false]
  · simp only [ha, hk, hf, and_self, if_true]

end

end Sys2Proof.Proofs
end

section
/-! The two steps of a `launch`: its record is read and checked, then the child enters its queue (08 R221; 10 R262, R267). -/

namespace Sys2Proof.Proofs

open Sys2Proof.Machine Sys2Proof.Laws

theorem tab_find_append {κ α : Type} [DecidableEq κ] (t u : Tab κ α) (k : κ) :
    Tab.find (t ++ u) k = (Tab.find t k).or (Tab.find u k) := by
  induction t with
  | nil => rfl
  | cons e t ih =>
    obtain ⟨j, v⟩ := e
    by_cases hj : j = k
    · simp only [List.cons_append, Tab.find, hj, if_true, Option.some_or]
    · simp only [List.cons_append, Tab.find, hj, if_false, ih]

/-! ### What the placement test reads (R262) -/

theorem neverFits_congr {s t : State} (hp : t.dev.parts = s.dev.parts) (hh : ∀ vd off, t.hyp vd off = s.hyp vd off) (vd : Nat)
    (det : Bool) (h : Sheaf) : t.neverFits vd det h = s.neverFits vd det h := by
  have hu : t.usable vd = s.usable vd := by
    unfold State.usable State.vdPart
    rw [hp, hh, hh]
  unfold State.neverFits
  rw [hu]

theorem retest_fits {s : State} {n : Nat} (h : s.neverFits (s.sheafOf n).vd (s.sheafOf n).det (s.sheafOf n) = none) :
    s.retest n = s := by
  simp only [State.retest, h, ite_self]

/-- A checkpoint that is to follow (R299) is noted in the context alone, and in rollback mode only. -/
theorem unlogged_frame (s : State) (c : CtxId) : ∃ cs, s.unlogged c = { s with ctxs := cs } ∧
    (∀ d, d ≠ c → Tab.find cs d = s.ctx d) ∧ (s.rollback (s.vdOfCtx c) = false → cs = s.ctxs) := by
  unfold State.unlogged
  split
  · next hb => exact ⟨_, rfl, fun d hd => updCtx_ctx_ne s _ hd, fun hf => by simp [hb] at hf⟩
  · exact ⟨s.ctxs, rfl, fun _ _ => rfl, fun _ => rfl⟩

/-! ### The accepted child -/

/-- The sheaf of a record that a context launches and that waits for no signal (R221, R262, R274). -/
def childSheaf (s : State) (vd : Nat) (h : Sheaf) (c : CtxId) (call : Nat) (data : W64) : Sheaf :=
  { h with
    vd := vd
    sheafid := (s.vdOf vd).nextSheafid
    st := .pending
    debug := (s.sheafOf c.sheaf).debug
    det := (s.sheafOf c.sheaf).det
    quantum := (s.sheafOf c.sheaf).quantum
    prio := s.childPrio c.sheaf h
    sys := h.recSys
    accepted := s.slot
    parent := some c
    callNo := call
    errData := data }

/-- A virtual device that has given out a SHEAFID (R257). -/
def idGiven (v : Vd) : Vd := { v with nextSheafid := (v.nextSheafid + 1) % 2 ^ 48 }

/-- The state with one sheaf more, and the next SHEAFID of its virtual device (R257). -/
def withSheaf (s : State) (vd : Nat) (x : Sheaf) : State :=
  (State.updDev { s with sheaves := s.sheaves ++ [(s.dev.nextSheaf, x)] } fun d =>
    { d with nextSheaf := s.dev.nextSheaf + 1 }).updVd vd idGiven

section
variable (s : State) (vd : Nat) (x : Sheaf)

theorem withSheaf_sheafOf (hn : Tab.find s.sheaves s.dev.nextSheaf = none) :
    (withSheaf s vd x).sheafOf s.dev.nextSheaf = x := by
  simp [withSheaf, State.sheafOf, State.updVd, State.updDev, Tab.getD, tab_find_append, hn, Tab.find]

theorem withSheaf_vdOfCtx {c : CtxId} (hx : x.vd = s.vdOfCtx c) : (withSheaf s vd x).vdOfCtx c = s.vdOfCtx c := by
  have hf : Tab.find (withSheaf s vd x).sheaves c.sheaf = (Tab.find s.sheaves c.sheaf).or
      (if s.dev.nextSheaf = c.sheaf then some x else none) := tab_find_append _ _ _
  unfold State.vdOfCtx State.sheafOf Tab.getD at hx ⊢
  rw [hf]
  cases h : Tab.find s.sheaves c.sheaf with
  | some y => rfl
  | none =>
    rw [h] at hx
    split
    · exact hx
    · rfl

theorem withSheaf_hyp (v off : Nat) : (withSheaf s vd x).hyp v off = s.hyp v off := by
  refine (congrArg (Vd.hyp · off) (tab_getD_updD s.vds vd v Vd.zero Vd.zero idGiven)).trans ?_
  split
  · next h => subst h; rfl
  · rfl

theorem withSheaf_rollback (v : Nat) : (withSheaf s vd x).rollback v = s.rollback v := by
  simp only [State.rollback, State.logging, withSheaf_hyp]

variable {s} {h : Sheaf} (hn : Tab.find s.sheaves s.dev.nextSheaf = none)
include hn

theorem accept_child (hw : h.waitVa = 0) (c : CtxId) (call : Nat) (data : W64) :
    s.accept vd h (some c) call data = withSheaf s vd (childSheaf s vd h c call data) := by
  have hp : s.accept vd h (some c) call data =
      (withSheaf s vd (childSheaf s vd h c call data)).pollWait s.dev.nextSheaf := by
    simp only [State.accept, hw, if_true, Option.map_some, Option.getD_some]
    rfl
  rw [hp, State.pollWait, withSheaf_sheafOf s vd _ hn]
  rfl

end

/-- The `launch` completes: its child stays pending in its place in the table, and the answer goes to the context. -/
theorem launch_completes {s : State} {vd : Nat} {n : Sheaf} {c : CtxId} (hn : Tab.find s.sheaves s.dev.nextSheaf = none)
    (hv : n.vd = s.vdOfCtx c) (hfits : s.neverFits n.vd n.det n = none) (tag : Nat) (v : W64) : ∃ cs,
    (((withSheaf s vd n).finish c tag v).unlogged c).retest s.dev.nextSheaf =
      { (withSheaf s vd n).finish c tag v with ctxs := cs } ∧
    (s.rollback (s.vdOfCtx c) = false →
      Tab.find cs c = (s.ctx c).map fun x => { x.complete s.freeN tag v 0 with out := none, resuming := false }) ∧
    ∀ d, d ≠ c → Tab.find cs d = s.ctx d := by
  obtain ⟨cs, hcs, hothers, hsame⟩ := unlogged_frame ((withSheaf s vd n).finish c tag v) c
  refine ⟨cs, ?_, fun hb => ?_, fun d hd => (hothers d hd).trans (updCtx_ctx_ne (withSheaf s vd n) _ hd)⟩
  · rw [hcs]
    have hs : State.sheafOf { (withSheaf s vd n).finish c tag v with ctxs := cs } s.dev.nextSheaf = n :=
      withSheaf_sheafOf s vd n hn
    refine retest_fits ?_
    rw [hs]
    exact (neverFits_congr (s := s) (t := { (withSheaf s vd n).finish c tag v with ctxs := cs }) rfl
      (withSheaf_hyp s vd n) n.vd n.det n).trans hfits
  · have hr : (withSheaf s vd n).rollback ((withSheaf s vd n).vdOfCtx c) = false := by
      rw [withSheaf_rollback, withSheaf_vdOfCtx s vd n hv, hb]
    rw [hsame hr]
    exact updCtx_ctx_self (withSheaf s vd n) c _

/-! ### `launch` -/

section
variable {s : State} {c : CtxId} {o : Out} {h : Head} {ra : Src} (ho : s.outOf c = some o) (hi : o.instr = .launch h ra)
include ho hi

theorem launchAccept_reads (hst : o.stage = .accepted) {s₁ : State} {bs : List Byte} : let vd := s.vdOfCtx c
    let up := s.sheafOf c.sheaf
    s.gread (some (s.coreOfCtx c)) vd o.addr 128 = (s₁, .ok bs) →
    let bad := s₁.recordBad vd (ofRecord bs) true (up.sys || bit (s₁.ctl vd rVDMODE) 61) up.det
    (bad = none → exec (.launchAccept c) s = .next (s₁.updOut c fun o => { o with stage := .answered, data := bs })) ∧
      (bad ≠ none → exec (.launchAccept c) s = .next (s₁.recorded c Cause.engineState 6 0 false)) := by
  intro vd up hg bad
  simp only [vd] at hg
  simp only [exec_launchAccept, execLaunchAccept, State.launchStep, ho, hi, isLaunch, hst, hg, Bool.not_true,
    Bool.false_eq_true, if_false]
  refine ⟨fun hb => ?_, fun hb => ?_⟩
  · simp only [bad, vd, up] at hb
    simp only [hb]
  · obtain ⟨d, hd⟩ := Option.ne_none_iff_exists'.mp hb
    simp only [bad, vd, up] at hd
    simp only [hd]

section
variable (hst : o.stage = .answered)
include hst

theorem launchAccept_answered : let vd := s.vdOfCtx c
    let call := (o.caps.getD 0 0).toNat
    let p := s.childPrio c.sheaf (ofRecord o.data)
    exec (.launchAccept c) s = .next (if 64 ≤ s.pendingCount vd p ∨ s.childBefore c call p = true then s
      else (((s.accept vd (ofRecord o.data) (some c) call o.addr).finish c o.tag
        (BitVec.ofNat 64 (call + c.grain * 2 ^ 32))).unlogged c).retest s.dev.nextSheaf) := by
  simp only [exec_launchAccept, execLaunchAccept, State.launchStep, ho, hi, isLaunch, hst, Bool.not_true,
    Bool.false_eq_true, if_false, Bool.or_eq_true, decide_eq_true_eq]

theorem launchAccept_waits (hf : 64 ≤ s.pendingCount (s.vdOfCtx c) (s.childPrio c.sheaf (ofRecord o.data))) :
    exec (.launchAccept c) s = .next s :=
  (launchAccept_answered ho hi hst).trans (congrArg Host.Outcome.next (if_pos (.inl hf)))

theorem launchAccept_enters : let vd := s.vdOfCtx c
    let up := s.sheafOf c.sheaf
    let call := (o.caps.getD 0 0).toNat
    let p := s.childPrio c.sheaf (ofRecord o.data)
    s.pendingCount vd p < 64 → s.childBefore c call p = false → (ofRecord o.data).waitVa = 0 →
      s.neverFits vd up.det (ofRecord o.data) = none → Tab.find s.sheaves s.dev.nextSheaf = none →
      ∃ (t : State) (n : Sheaf), exec (.launchAccept c) s = .next t ∧ t.sheaves = s.sheaves ++ [(s.dev.nextSheaf, n)] ∧
        n.record = (ofRecord o.data).record ∧ n.st = .pending ∧ n.vd = vd ∧ n.sheafid = (s.vdOf vd).nextSheafid ∧
        n.parent = some c ∧ n.callNo = call ∧ n.det = up.det ∧ n.debug = up.debug ∧ n.prio = p ∧
        (t.vdOf vd).nextSheafid = ((s.vdOf vd).nextSheafid + 1) % 2 ^ 48 ∧ t.dev.nextSheaf = s.dev.nextSheaf + 1 ∧
        (∀ x, s.ctx c = some x → s.rollback vd = false → t.ctx c =
          some { x.complete s.freeN o.tag (BitVec.ofNat 64 (call + c.grain * 2 ^ 32)) 0 with out := none, resuming := false }) ∧
        ∀ d, d ≠ c → t.ctx d = s.ctx d := by
  intro vd up call p hroom hfirst hw hfits hn
  obtain ⟨cs, hend, hself, hothers⟩ := launch_completes (vd := vd)
    (n := childSheaf s vd (ofRecord o.data) c call o.addr) hn rfl hfits o.tag (BitVec.ofNat 64 (call + c.grain * 2 ^ 32))
  have hgo : ¬ (64 ≤ s.pendingCount vd p ∨ s.childBefore c call p = true) :=
    not_or.mpr ⟨Nat.not_le.mpr hroom, Bool.eq_false_iff.mp hfirst⟩
  have hx := launchAccept_answered ho hi hst
  dsimp only at hx
  rw [if_neg hgo, accept_child _ hn hw, hend] at hx
  refine ⟨_, childSheaf s vd (ofRecord o.data) c call o.addr, hx, rfl, rfl, rfl, rfl, rfl, rfl, rfl, rfl, rfl, rfl,
    congrArg Vd.nextSheafid (tab_getD_updD_self s.vds vd Vd.zero idGiven), rfl, fun x hc hb => ?_, hothers⟩
  exact (hself hb).trans (by rw [hc]; rfl)

end

end

end Sys2Proof.Proofs
end

section
/-! The steps of engine commands and of `launch` (03 R74, R77; 08 R211 to R221). -/

namespace Sys2Proof.Proofs

open Sys2Proof.Machine Sys2Proof.Laws

/-- Settles O35: the pass of a copy by its first page and by the pages that it holds, each step of a channel by what it does
to its head, and the two stages of a `launch`. -/
theorem engineStepsAndLaunches : Obligations.EngineStepsAndLaunches := by
  refine ⟨fun s c o i a e ho hi ha => ?_, fun s tile ch e hh => ?_, fun v rd r b n hv => stretch_same hv rd r b n,
    fun s c o h ra ho hi => ?_⟩
  · intro tile j sb sd host first hp he
    subst hi
    have hx := engineTranslationDone_copy ho ha
    refine ⟨fun s₁ f hf => hx.trans (congrArg _ (copyPass_fault hp he hf)), fun s₁ s₂ g hs hf => ?_⟩
    intro z side rows hrows hall
    obtain ⟨hbad, hgood⟩ := copyPass_held hp he hf hrows hall
    exact ⟨fun d at_ hd => hx.trans (congrArg _ (hbad d at_ hd)), fun hd => hx.trans (congrArg _ (hgood hd))⟩
  · exact ⟨fun hs hw => congrArg _ (lineWrite_waits hh hs hw), lineWrite_started hh,
      fun a hs he ha hk hp => ⟨fun hw => congrArg _ (lineWrite_held hh hs he ha hw), lineWrite_moves hh hs he ha hk hp⟩,
      fun a hs he ha hm => commandComplete_ends hh hs he ha hm, fun c d x hs he => faultEnd_error hh hs he,
      fun he => congrArg _ (faultEnd_none hh he)⟩
  · exact ⟨fun hst s₁ bs => launchAccept_reads ho hi hst,
      fun hst => ⟨launchAccept_waits ho hi hst, launchAccept_enters ho hi hst⟩⟩

end Sys2Proof.Proofs
end

section
/-! Integer, logical, bit-field and compare results (04 R100 to R104). -/

namespace Sys2Proof.Proofs

open Sys2Proof.Machine Sys2Proof.Laws

/-! ### Function codes and results of instructions of any length -/

/-- The function code of an integer instruction lies below the two bits that give the form of its operand (R53). -/
theorem encInt2_opFn (h : Head) {opm op : Nat} (hop : op < 64) (a : Src) (b : IOp) :
    ((encInt2 h opm op a b).opm, (encInt2 h opm op a b).fn % 64) = (opm, op) := by
  cases b with
  | reg r => exact congrArg (Prod.mk opm) (Nat.mod_eq_of_lt hop)
  | imm v => exact congrArg (Prod.mk opm) (show (64 + op) % 64 = op by omega)
  | const n => exact congrArg (Prod.mk opm) (show (128 + op) % 64 = op by omega)
  | lit v => exact congrArg (Prod.mk opm) (show (192 + op) % 64 = op by omega)

theorem encInt3_opFn (h : Head) {opm op : Nat} (hop : op < 64) (a b : Src) (c : IOp) :
    ((encInt3 h opm op a b c).opm, (encInt3 h opm op a b c).fn % 64) = (opm, op) := by
  cases c with
  | reg r => exact congrArg (Prod.mk opm) (Nat.mod_eq_of_lt hop)
  | imm v => exact congrArg (Prod.mk opm) (show (64 + op) % 64 = op by omega)
  | const n => exact congrArg (Prod.mk opm) (show (128 + op) % 64 = op by omega)
  | lit v => exact congrArg (Prod.mk opm) (show (192 + op) % 64 = op by omega)

theorem opFn_of_fields {i : Instr} {f : Fields} {code : Nat × Nat} (hf : Instr.fields i = some f)
    (hc : (f.opm, f.fn % 64) = code) : opFn i = some code := by
  rw [opFn, hf, Option.map_some, hc]

section
variable {i : Instr} {s : State} {h : Head} {v : W64} {code : Nat × Nat} (hr : s.runs h = true)
include hr

theorem givesS_of_result {len : Nat} (hc : opFn i = some code) (hx : exec i s = issue h len s (s.doneS h len v)) :
    GivesS i s h v len code :=
  ⟨hc, _, hx.trans (issue_runs hr _ _), doneS_writes (runs_lives hr) h len v 0⟩

theorem givesN_of_done {u : State} {len : Nat} (hu : u.lives = true) (hc : opFn i = some code)
    (hx : exec i s = issue h len s (u.doneN len)) : GivesN i s u len code :=
  ⟨hc, _, hx.trans (issue_runs hr _ _), doneN_issues hu len⟩

/-! ### The shared forms of integer instructions (R100) -/

variable {a b : Src} {c : IOp} {opm op : Nat}

theorem alu1_gives {f : W64 → W64} (hf : Instr.fields i = some (encOne h opm op a)) (hx : exec i s = alu1 h a s f)
    (hv : f (s.src 1 a) = v) (hop : op < 64 := by decide) : GivesS i s h v 8 (opm, op) := by
  subst hv
  exact givesS_of_result hr (opFn_of_fields hf (congrArg (Prod.mk opm) (Nat.mod_eq_of_lt hop))) hx

theorem aluS_gives {f : W64 → W64 → W64} (hf : Instr.fields i = some (encInt2 h opm op a c))
    (hx : exec i s = aluS h a c s f) (hv : f (s.src 1 a) (s.iop 2 c) = v) (hop : op < 64 := by decide) :
    GivesS i s h v (iopLen c) (opm, op) := by
  subst hv
  exact givesS_of_result hr (opFn_of_fields hf (encInt2_opFn h hop a c)) hx

theorem aluL_gives {lat : Nat} {fl : Flags} {f : W64 → W64 → W64 × Flags}
    (hf : Instr.fields i = some (encInt2 h opm op a c)) (hx : exec i s = aluL lat h a c s f)
    (hv : f (s.src 1 a) (s.iop 2 c) = (v, fl)) (hop : op < 64 := by decide) :
    GivesL i s s h lat v fl (iopLen c) (opm, op) := by
  obtain ⟨rfl, rfl⟩ := Prod.ext_iff.mp hv
  exact givesL_of_doneL hr (runs_lives hr) (opFn_of_fields hf (encInt2_opFn h hop a c)) hx

theorem alu3_gives {f : W64 → W64 → W64 → W64} (hf : Instr.fields i = some (encInt3 h opm op a b c))
    (hx : exec i s = alu3 h a b c s f) (hv : f (s.src 1 a) (s.src 2 b) (s.iop 3 c) = v) (hop : op < 64 := by decide) :
    GivesS i s h v (iopLen c) (opm, op) := by
  subst hv
  exact givesS_of_result hr (opFn_of_fields hf (encInt3_opFn h hop a b c)) hx

end

/-! ### Division (R101) -/

section
variable (x y : W64)

theorem divV_eq : divV x y = (if y = 0 then ~~~0 else
    if x = BitVec.ofNat 64 (2 ^ 63) ∧ y = ~~~0 then BitVec.ofNat 64 (2 ^ 63) else BitVec.ofInt 64 (x.toInt.tdiv y.toInt),
    if y = 0 then fDZ else 0) := by
  unfold divV
  by_cases hy : y = 0
  · simp only [if_pos hy]
    rfl
  · simp only [if_neg hy]
    split_ifs with ht
    · rw [ht.1, ht.2]
      rfl
    · rfl

theorem divuV_eq : divuV x y = (if y = 0 then ~~~0 else x / y, if y = 0 then fDZ else 0) := by
  unfold divuV
  by_cases hy : y = 0
  · simp only [if_pos hy]
    rfl
  · simp only [if_neg hy, BitVec.udiv_def]

theorem remuV_eq : remuV x y = (if y = 0 then x else x % y, if y = 0 then fDZ else 0) := by
  unfold remuV
  by_cases hy : y = 0
  · simp only [if_pos hy]
  · simp only [if_neg hy, BitVec.umod_def]

/-- The remainder is what the quotient leaves, of the least number divided by -1 too. -/
theorem remV_eq : remV x y = (if y = 0 then x else if x = BitVec.ofNat 64 (2 ^ 63) ∧ y = ~~~0 then 0
    else x - y * BitVec.ofInt 64 (x.toInt.tdiv y.toInt), if y = 0 then fDZ else 0) := by
  unfold remV
  by_cases hy : y = 0
  · simp only [if_pos hy]
  · simp only [if_neg hy]
    split_ifs with ht
    · rw [ht.1, ht.2]
      rfl
    · rw [Int.tmod_def, Int.sub_eq_add_neg, BitVec.ofInt_add, BitVec.ofInt_neg, BitVec.ofInt_mul, BitVec.ofInt_toInt,
        BitVec.ofInt_toInt, BitVec.sub_eq_add_neg]

/-! ### Minima and comparisons (R101, R104) -/

theorem minS_eq : (if y.slt x then y else x) = if x.toInt ≤ y.toInt then x else y := by
  simp only [BitVec.slt_iff_toInt_lt, ← not_le, ite_not]

theorem maxS_eq : (if x.slt y then y else x) = if x.toInt ≤ y.toInt then y else x := by
  by_cases h : x.toInt = y.toInt
  · rw [BitVec.eq_of_toInt_eq h, ite_self, ite_self]
  · simp only [BitVec.slt_iff_toInt_lt, lt_iff_le_and_ne, ne_eq, h, not_false_eq_true, and_true]

theorem minu_eq : (if y.ult x then y else x) = if x ≤ y then x else y := by
  simp only [BitVec.ult_iff_lt, ← BitVec.not_le, ite_not]

theorem maxu_eq : (if x.ult y then y else x) = if x ≤ y then y else x := by
  by_cases h : x.toNat = y.toNat
  · rw [BitVec.eq_of_toNat_eq h, ite_self, ite_self]
  · simp only [BitVec.ult_iff_toNat_lt, BitVec.le_def, lt_iff_le_and_ne, ne_eq, h, not_false_eq_true, and_true]

end

theorem boolW_beq (x y : W64) : boolW (x == y) = if x = y then 1 else 0 := by simp only [boolW, beq_iff_eq]

theorem boolW_bne (x y : W64) : boolW (x != y) = if x = y then 0 else 1 := by simp only [boolW, bne_iff_ne, ne_eq, ite_not]

theorem boolW_decide (p : Prop) [Decidable p] : boolW (decide p) = if p then 1 else 0 := by
  simp only [boolW, decide_eq_true_eq]

/-! ### Shifts (R102) -/

section
variable (x : W64) {c i : Nat} (hi : i < 64)
include hi

theorem bit_sshiftRight : bit (x.sshiftRight c) i = bit x (min 63 (i + c)) := by
  rw [bit, bit, BitVec.getLsbD_sshiftRight, decide_eq_false (Nat.not_le.mpr hi), Bool.not_false, Bool.true_and]
  split_ifs with hc
  · rw [Nat.min_eq_right (by omega), Nat.add_comm]
  · rw [Nat.min_eq_left (by omega)]
    exact BitVec.msb_eq_getLsbD_last x

theorem bit_rotateLeft (hc : c < 64) : bit (x.rotateLeft c) i = bit x ((i + 64 - c) % 64) := by
  rw [bit, bit, BitVec.getLsbD_rotateLeft_of_le hc]
  by_cases h : i < c
  · rw [decide_eq_true h, cond_true, Nat.mod_eq_of_lt (by omega), show 64 - c + i = i + 64 - c by omega]
  · rw [decide_eq_false h, cond_false, decide_eq_true hi, Bool.true_and, show i + 64 - c = i - c + 64 by omega,
      Nat.add_mod_right, Nat.mod_eq_of_lt (by omega)]

end

theorem shCount_lt (y : W64) : shCount y < 64 := Nat.mod_lt _ (by decide)

/-! ### Counts (R103) -/

section
variable (x : W64)

/-- The bits above the highest set one are the leading zeros. -/
theorem clzV_counts : ∃ v, clzV x = BitVec.ofNat 64 v ∧ v ≤ 64 ∧ (v < 64 → bit x (63 - v) = true) ∧
    ∀ i, i < v → bit x (63 - i) = false := by
  unfold clzV
  by_cases hx : x = 0
  · rw [if_pos hx, hx]
    exact ⟨64, rfl, Nat.le_refl _, fun h => absurd h (Nat.lt_irrefl _), fun i _ => BitVec.getLsbD_zero⟩
  · have hn : x.toNat ≠ 0 := fun h => hx (BitVec.eq_of_toNat_eq h)
    have hlog : x.toNat.log2 < 64 := (Nat.log2_lt hn).mpr x.isLt
    rw [if_neg hx]
    refine ⟨_, rfl, by omega, fun _ => ?_, fun i hi => ?_⟩
    · rw [Nat.sub_sub_self (by omega)]
      exact Nat.testBit_log2 hn
    · refine Nat.testBit_lt_two_pow (Nat.lt_of_lt_of_le Nat.lt_log2_self (Nat.pow_le_pow_right (by decide) ?_))
      omega

/-- The search from bit 64 - n on finds the lowest set bit there, or ends at 64. -/
theorem ctzN_finds {n : Nat} (hn : n ≤ 64) : ctzN x n ≤ 64 ∧ (ctzN x n < 64 → bit x (ctzN x n) = true) ∧
    ∀ i, 64 - n ≤ i → i < ctzN x n → bit x i = false := by
  induction n with
  | zero => exact ⟨Nat.le_refl _, fun h => absurd h (Nat.lt_irrefl _), fun i h h' => absurd h' (Nat.not_lt.mpr h)⟩
  | succ n ih =>
    obtain ⟨hle, hset, hclear⟩ := ih (by omega)
    unfold ctzN
    split_ifs with hb
    · exact ⟨by omega, fun _ => hb, fun i h h' => by omega⟩
    · refine ⟨hle, hset, fun i h h' => ?_⟩
      rcases Nat.lt_or_ge i (64 - n) with hi | hi
      · rw [show i = 63 - n by omega]
        exact Bool.eq_false_iff.mpr hb
      · exact hclear i hi h'

theorem ctzV_counts : ∃ v, ctzV x = BitVec.ofNat 64 v ∧ v ≤ 64 ∧ (v < 64 → bit x v = true) ∧
    ∀ i, i < v → bit x i = false := by
  obtain ⟨hle, hset, hclear⟩ := ctzN_finds x (Nat.le_refl 64)
  exact ⟨_, rfl, hle, hset, fun i hi => hclear i (by omega) hi⟩

theorem popcV_eq : popcV x = BitVec.ofNat 64 ((List.range 64).filter fun i => bit x i).length := by
  rw [popcV, List.countP_eq_length_filter]

/-! ### Fields and extensions (R103) -/

theorem bextV_eq (k : W64) : bextV x k = BitVec.ofNat 64 (x.toNat / 2 ^ bits k 5 0 % 2 ^ min 64 (bits k 14 8)) := by
  have hz : zxN (x >>> fieldLo k) (fieldW k) = BitVec.ofNat 64 (x.toNat / 2 ^ bits k 5 0 % 2 ^ min 64 (bits k 14 8)) := by
    rw [zxN, BitVec.toNat_ushiftRight, Nat.shiftRight_eq_div_pow, fieldLo, fieldW]
  unfold bextV
  split_ifs with h0
  · rw [← hz, h0, zxN, Nat.pow_zero, Nat.mod_one]
    rfl
  · exact hz

theorem sxN_eq (n : Nat) : sxN x n = (x.setWidth n).signExtend 64 := by
  unfold sxN
  split_ifs with h0 h64
  · subst h0
    rw [BitVec.eq_nil (x.setWidth 0)]
    rfl
  · rw [BitVec.signExtend_eq_setWidth_of_le _ h64, BitVec.setWidth_setWidth_of_le x h64, BitVec.setWidth_eq]
  · rw [BitVec.signExtend, BitVec.toInt_setWidth]

theorem zextV_eq (k : W64) : zextV x k = (x.setWidth (bits k 6 0)).setWidth 64 := by
  unfold zextV
  split_ifs with h
  · rw [BitVec.setWidth_setWidth_of_le x h, BitVec.setWidth_eq]
  · exact BitVec.eq_of_toNat_eq (by rw [zxN, BitVec.toNat_ofNat, BitVec.toNat_setWidth, BitVec.toNat_setWidth])

end

/-- Settles O1: each instruction has one of the shared forms, and its value is the one that the rule states. -/
theorem integerResults : Obligations.IntegerResults := by
  refine ⟨fun s h a b hr => ?_, fun s h a b hr => ?_, fun s h a b c hr => ?_, fun s h a b hr => ?_⟩
  · intro x y n top
    exact ⟨aluS_gives hr rfl (exec_add ..) rfl, aluS_gives hr rfl (exec_sub ..) rfl, aluL_gives hr rfl (exec_mul ..) rfl,
      aluL_gives hr rfl (exec_mulh ..) rfl, aluL_gives hr rfl (exec_mulhu ..) rfl,
      aluL_gives hr rfl (exec_div ..) (divV_eq x y), aluL_gives hr rfl (exec_divu ..) (divuV_eq x y),
      aluL_gives hr rfl (exec_rem ..) (remV_eq x y), aluL_gives hr rfl (exec_remu ..) (remuV_eq x y),
      aluS_gives hr rfl (exec_minS ..) (minS_eq x y), aluS_gives hr rfl (exec_maxS ..) (maxS_eq x y),
      aluS_gives hr rfl (exec_minu ..) (minu_eq x y), aluS_gives hr rfl (exec_maxu ..) (maxu_eq x y)⟩
  · intro x y n c
    exact ⟨aluS_gives hr rfl (exec_andW ..) rfl, aluS_gives hr rfl (exec_orW ..) rfl,
      aluS_gives hr rfl (exec_xorW ..) rfl, aluS_gives hr rfl (exec_andn ..) rfl, aluS_gives hr rfl (exec_orn ..) rfl,
      aluS_gives hr rfl (exec_shl ..) rfl, aluS_gives hr rfl (exec_shr ..) rfl,
      ⟨_, aluS_gives hr rfl (exec_sra ..) rfl, fun i hi => bit_sshiftRight x hi⟩,
      ⟨_, aluS_gives hr rfl (exec_rot ..) rfl, fun i hi => bit_rotateLeft x hi (shCount_lt y)⟩⟩
  · intro x y n
    obtain ⟨v, hv, clz⟩ := clzV_counts x
    obtain ⟨w, hw, ctz⟩ := ctzV_counts x
    exact ⟨⟨v, alu1_gives hr rfl (exec_clz ..) hv, clz⟩, ⟨w, alu1_gives hr rfl (exec_ctz ..) hw, ctz⟩,
      alu1_gives hr rfl (exec_popc ..) (popcV_eq x), aluS_gives hr rfl (exec_bext ..) (bextV_eq x y),
      alu3_gives hr rfl (exec_bins ..) rfl, aluS_gives hr rfl (exec_sext ..) (sxN_eq x _),
      aluS_gives hr rfl (exec_zext ..) (zextV_eq x y), alu3_gives hr rfl (exec_sel ..) rfl⟩
  · intro x y n
    exact ⟨aluS_gives hr rfl (exec_ceq ..) (boolW_beq x y), aluS_gives hr rfl (exec_cne ..) (boolW_bne x y),
      aluS_gives hr rfl (exec_clt ..) (boolW_decide _), aluS_gives hr rfl (exec_cle ..) (boolW_decide _),
      aluS_gives hr rfl (exec_cltu ..) (boolW_decide _), aluS_gives hr rfl (exec_cleu ..) (boolW_decide _)⟩

end Sys2Proof.Proofs
end

section
/-! FP32 arithmetic results (04 R105). -/

namespace Sys2Proof.Proofs

open Sys2Proof.Machine Sys2Proof.Laws

/-- Adding 2^31 modulo 2^32 changes the sign bit (R105). -/
theorem flip_sign {x : Nat} (hx : x < 2 ^ 32) : (x + 2 ^ 31) % 2 ^ 32 = x ^^^ 2 ^ 31 := by
  have hlow : (x ^^^ 2 ^ 31) % 2 ^ 31 = x % 2 ^ 31 := by rw [Nat.xor_mod_two_pow, Nat.mod_self, Nat.xor_zero]
  have hhigh : (x ^^^ 2 ^ 31) / 2 ^ 31 = x / 2 ^ 31 ^^^ 1 := by rw [Nat.xor_div_two_pow, Nat.div_self (by decide)]
  rcases Nat.lt_or_ge x (2 ^ 31) with h | h
  · rw [show x / 2 ^ 31 = 0 by omega] at hhigh
    simp only [Nat.zero_xor] at hhigh
    omega
  · rw [show x / 2 ^ 31 = 1 by omega] at hhigh
    simp only [Nat.xor_self] at hhigh
    omega

theorem encFfma_opFn (h : Head) (a b : Src) (c : FOp) :
    ((encFfma h a b c).opm, (encFfma h a b c).fn % 64) = (0x10, 0x03) := by
  cases c with
  | reg r => rfl
  | imm20 v => exact congrArg (Prod.mk 0x10) (show 67 % 64 = 3 from rfl)
  | const n => exact congrArg (Prod.mk 0x10) (show 131 % 64 = 3 from rfl)
  | lit v => exact congrArg (Prod.mk 0x10) (show 195 % 64 = 3 from rfl)

section
variable {i : Instr} {s : State} {h : Head} (hr : s.runs h = true) {a b : Src} {c : FOp} {lat : Nat} {v : W64} {fl : Flags}
  {opm op : Nat}
include hr

theorem fp2_gives {f : Nat → Nat → W64 × Flags} (hf : Instr.fields i = some (encFlt2 h opm op a c))
    (hx : exec i s = fp2 lat h a c s f) (hv : f (s.fsrc 1 a) (s.fop 2 c) = (v, fl)) (hop : op < 64 := by decide) :
    GivesL i s s h lat v fl (fopLen c) (opm, op) := by
  obtain ⟨rfl, rfl⟩ := Prod.ext_iff.mp hv
  exact givesL_of_doneL hr (runs_lives hr) (opFn_of_fields hf (encFlt2_opFn h hop a c)) hx

theorem fp1_gives {f : Nat → W64 × Flags} (hf : Instr.fields i = some (encOne h opm op a))
    (hx : exec i s = fp1 lat h a s f) (hv : f (s.fsrc 1 a) = (v, fl)) (hop : op < 64 := by decide) :
    GivesL i s s h lat v fl 8 (opm, op) := by
  obtain ⟨rfl, rfl⟩ := Prod.ext_iff.mp hv
  exact givesL_of_doneL hr (runs_lives hr) (opFn_of_fields hf (congrArg (Prod.mk opm) (Nat.mod_eq_of_lt hop))) hx

theorem ffma_gives : GivesL (.ffma h a b c) s s h 4 (BitVec.ofNat 64 (fp32.fma (s.fsrc 1 a) (s.fsrc 2 b) (s.fop 3 c)).1)
    (fp32.fma (s.fsrc 1 a) (s.fsrc 2 b) (s.fop 3 c)).2 (fopLen c) (0x10, 0x03) :=
  givesL_of_doneL hr (runs_lives hr) (opFn_of_fields rfl (encFfma_opFn h a b c)) rfl

end

/-- Settles O2: each instruction has one of the shared forms, and `fneg` flips the sign bit. -/
theorem floatArithmeticResults : Obligations.FloatArithmeticResults := by
  intro s h a b c hr x y n gives
  have hx : x < 2 ^ 32 := Nat.mod_lt _ (by decide)
  exact ⟨fp2_gives hr rfl (exec_fadd ..) rfl, fp2_gives hr rfl (exec_fsub ..) rfl, fp2_gives hr rfl (exec_fmul ..) rfl,
    ffma_gives hr, fp2_gives hr rfl (exec_fmin ..) rfl, fp2_gives hr rfl (exec_fmax ..) rfl,
    fp1_gives hr rfl (exec_fabs ..) rfl, fp1_gives hr rfl (exec_fneg ..) (by rw [fres, flip_sign hx]),
    fp1_gives hr rfl (exec_frcp ..) rfl, fp1_gives hr rfl (exec_frsq ..) rfl⟩

end Sys2Proof.Proofs
end

section
/-! Moves, literals and pointer instructions (04 R108, R109). -/

namespace Sys2Proof.Proofs

open Sys2Proof.Machine Sys2Proof.Laws

/-- A literal above the low half of a word (R108). -/
theorem append_low (w : W32) (x : W64) : (w ++ x.setWidth 32 : W64) = BitVec.ofNat 64 (w.toNat * 2 ^ 32 + bits x 31 0) := by
  refine BitVec.eq_of_toNat_eq ?_
  have hw := w.isLt
  have hb : bits x 31 0 < 2 ^ 32 := Nat.mod_lt _ (by decide)
  have hx : (x.setWidth 32).toNat = bits x 31 0 := by rw [BitVec.toNat_setWidth, bits, Nat.shiftRight_zero]
  rw [BitVec.toNat_append, hx, BitVec.toNat_ofNat, ← Nat.shiftLeft_add_eq_or_of_lt hb, Nat.shiftLeft_eq]
  omega

/-- Settles O4: each instruction is a result of class S, or one of class N from the state with the pointer set. -/
theorem moveAndPointerResults : Obligations.MoveAndPointerResults := by
  intro s h a b v w p hr x y
  have hl (f : Ctx → Ctx) : (s.updMe f).lives = true := (updMe_lives s f).trans (runs_lives hr)
  exact ⟨givesS_of_result hr rfl rfl, givesS_of_result hr rfl rfl, append_low w x ▸ givesS_of_result hr rfl rfl,
    givesS_of_result hr rfl rfl, givesN_of_done hr (hl _) rfl rfl, givesN_of_done hr (hl _) rfl rfl,
    givesN_of_done hr (hl _) rfl rfl, givesN_of_done hr (hl _) rfl rfl, givesS_of_result hr rfl rfl,
    givesS_of_result hr rfl rfl⟩

end Sys2Proof.Proofs
end

section
/-! Control transfers: the checks of a target, the levels that a taken transfer leaves, and the link (04 R96, R110, R111,
R115). -/

namespace Sys2Proof.Proofs

open Sys2Proof.Machine Sys2Proof.Laws

/-! ### The levels left (R115) -/

/-- An address lies in the body of a loop level. -/
def inLevel (x : Ctx) (t : W64) (j : Fin 4) : Prop :=
  x.ls[j].toNat ≤ (addrField t).toNat ∧ (addrField t).toNat ≤ x.le[j].toNat

/-- The levels are closed from the innermost one outward, up to one whose body holds the target. -/
theorem closeLoops_leaves (x : Ctx) (t : W64) (n : Nat) : x.closeLoops t n ≤ n ∧
    (∀ j : Fin 4, x.closeLoops t n ≤ j.val → j.val < n → ¬ inLevel x t j) ∧
    ∀ j : Fin 4, x.closeLoops t n = j.val + 1 → inLevel x t j := by
  induction n with
  | zero => exact ⟨Nat.le_refl _, fun j _ h => absurd h (Nat.not_lt_zero _), fun j h => nomatch h⟩
  | succ n ih =>
    obtain ⟨hle, hout, hin⟩ := ih
    unfold Ctx.closeLoops
    by_cases h4 : n < 4
    · rw [dif_pos h4]
      split_ifs with hb
      · have hlevel : inLevel x t ⟨n, h4⟩ := by simpa [inLevel] using hb
        refine ⟨Nat.le_refl _, fun j h h' => absurd h (Nat.not_le.mpr h'), fun j h => ?_⟩
        rwa [show j = ⟨n, h4⟩ from Fin.ext (Nat.succ.inj h).symm]
      · have hlevel : ¬ inLevel x t ⟨n, h4⟩ := by simpa [inLevel] using hb
        refine ⟨Nat.le_succ_of_le hle, fun j h h' => ?_, hin⟩
        rcases Nat.lt_succ_iff_lt_or_eq.mp h' with hj | hj
        · exact hout j h hj
        · rwa [show j = ⟨n, h4⟩ from Fin.ext hj]
    · rw [dif_neg h4]
      exact ⟨Nat.le_refl _, fun j h h' => absurd h (Nat.not_le.mpr h'), fun j h => absurd j.isLt (by omega)⟩

/-! ### The state after a taken transfer -/

section
variable {s : State} (hl : s.lives = true) (t : W64)
include hl

theorem doneJump_me : (s.doneJump t).me = (s.me.tally s.cycle).jump t true := updMe_me s _ hl

/-- Control is at the target, and nothing but the levels left has changed besides the issue. -/
theorem doneJump_jumps : let u := s.doneJump t
    u.me = issuedAs s.me u.me ∧ u.me.pc = t ∧ u.me.lc = s.me.lc ∧ u.me.readyAt = s.cycle + 3 ∧
      u.me.issued = s.me.issued + 1 ∧ onlyCtx s.cur s u ∧ sameMem s u := by
  dsimp only
  rw [doneJump_me hl]
  exact ⟨rfl, rfl, rfl, rfl, rfl, onlyCtx_updMe s _, sameMem_updMe s _⟩

theorem doneJump_depth_of_handler (hh : s.me.handler = true) : (s.doneJump t).me.depth = s.me.depth := by
  rw [doneJump_me hl]
  exact if_neg (by rw [show (s.me.tally s.cycle).handler = true from hh]; decide)

theorem doneJump_depth (hh : s.me.handler = false) :
    (s.doneJump t).me.depth = (s.me.tally s.cycle).closeLoops t s.me.depth := by
  rw [doneJump_me hl]
  exact if_pos (by rw [show (s.me.tally s.cycle).handler = false from hh]; rfl)

theorem doneJump_leaves (hh : s.me.handler = false) : let u := s.doneJump t
    u.me.depth ≤ s.me.depth ∧ (∀ j : Fin 4, u.me.depth ≤ j.val → j.val < s.me.depth → ¬ inLevel s.me t j) ∧
      ∀ j : Fin 4, u.me.depth = j.val + 1 → inLevel s.me t j := by
  dsimp only
  rw [doneJump_depth hl t hh]
  exact closeLoops_leaves (s.me.tally s.cycle) t s.me.depth

end

/-- A `call` that is taken: its link is a result of class S, and it leaves no level. -/
theorem call_jumps {s : State} (hl : s.lives = true) (d : Dst) (v t : W64) :
    let u := (s.updMe fun c => ((c.tally s.cycle).result d v).jump t false).fresh
    u.me = { issuedAs s.me u.me with g := gWith s.me d v, q := qWith s.me d v } ∧ u.me.pc = t ∧ u.me.lc = s.me.lc ∧
      u.me.depth = s.me.depth ∧ u.me.readyAt = s.cycle + 3 ∧ u.me.issued = s.me.issued + 1 ∧ onlyCtx s.cur s u ∧
      sameMem s u := by
  intro u
  have hm : u.me = ((s.me.tally s.cycle).result d v).jump t false := updMe_me s _ hl
  rw [hm, result_only]
  exact ⟨rfl, rfl, rfl, rfl, rfl, rfl, onlyCtx_updMe s _, sameMem_updMe s _⟩

/-! ### The checks of a target (R111) -/

section
variable {s : State} {h : Head} (hr : s.runs h = true) {i : Instr} {len : Nat} {t : W64} {go : State}
  (hx : exec i s = issue h len s (s.checkTarget t go))
include hr hx

theorem transfer_taken (hc : canonical t = true) (ha : bits t 1 0 = 0) : exec i s = .next go := by
  rw [hx, issue_runs hr, State.checkTarget, hc, if_neg (by decide), if_neg (not_not.mpr ha)]

theorem transfer_refused : (canonical t = false → exec i s = .next (s.exact Cause.addressForm 1 t)) ∧
    (canonical t = true → bits t 1 0 ≠ 0 → exec i s = .next (s.exact Cause.misaligned 1 t)) := by
  rw [hx, issue_runs hr, State.checkTarget]
  exact ⟨fun hc => by rw [hc, if_pos (by decide)], fun hc ha => by rw [hc, if_neg (by decide), if_pos ha]⟩

end

section
variable (s : State) (h : Head)

theorem exec_br_checks (o : BitVec 16) : exec (.br h o) s = issue h 8 s
    (s.checkTarget (s.me.pc + 4 * o.signExtend 64) (s.doneJump (s.me.pc + 4 * o.signExtend 64))) := target_eq s o ▸ rfl

theorem exec_jmp_checks (w : W32) : exec (.jmp h w) s = issue h 12 s
    (s.checkTarget (s.me.pc + 4 * w.signExtend 64) (s.doneJump (s.me.pc + 4 * w.signExtend 64))) := target_eq s w ▸ rfl

theorem exec_call_checks (w : W32) : exec (.call h w) s = issue h 12 s (s.checkTarget (s.me.pc + 4 * w.signExtend 64)
    (s.updMe fun c => ((c.tally s.cycle).result h.dst (s.me.pc + 12)).jump (s.me.pc + 4 * w.signExtend 64) false).fresh) := by
  rw [← target_eq, exec_call, execCall]
  exact congrArg (fun t : State => issue h 12 s (s.checkTarget (s.target w) t.fresh)) (updMe_congr rfl)

end

/-- Settles O6: every transfer checks its target, and all but `call` end in one function of the state and the target. -/
theorem transfersAndTheirTargets : Obligations.TransfersAndTheirTargets := by
  refine ⟨fun s h a o w hr => ?_, fun s h a o w hr => ?_⟩
  · intro good inBody jumps rel16 rel32
    have hl := runs_lives hr
    have taken {i : Instr} {len : Nat} {t : W64} (hx : exec i s = issue h len s (s.checkTarget t (s.doneJump t)))
        (hg : good t) : jumps i t := by
      obtain ⟨hme, hpc, hlc, hready, hissued, hframe, hmem⟩ := doneJump_jumps hl t
      exact ⟨_, transfer_taken hr hx hg.1 hg.2, hme, hpc, hlc, hready, hissued, hframe, hmem,
        doneJump_depth_of_handler hl t, doneJump_leaves hl t⟩
    exact ⟨taken (exec_br_checks s h o), taken (exec_jmp_checks s h w), taken (i := .ret h a) rfl,
      taken (i := .brx h a) rfl, fun hg =>
      ⟨_, transfer_taken hr (exec_call_checks s h w) hg.1 hg.2, call_jumps hl h.dst (s.me.pc + 12) rel32⟩⟩
  · exact ⟨transfer_refused hr (exec_br_checks s h o), transfer_refused hr (exec_jmp_checks s h w),
      transfer_refused hr (exec_call_checks s h w), transfer_refused hr (i := .ret h a) rfl, transfer_refused hr (i := .brx h a) rfl⟩

end Sys2Proof.Proofs
end

section
/-! Hardware loops: opening a level, and the loop-end test (04 R113, R114; 11 R282). -/

namespace Sys2Proof.Proofs

open Sys2Proof.Machine Sys2Proof.Laws

/-! ### The loop-end test (R114) -/

section
variable (x : Ctx) (p n : W64)

/-- The test starts from the depth that it is given. -/
theorem loopTest_withDepth (k : Nat) (j : Nat) : ({ x with depth := k } : Ctx).loopTest p n j = x.loopTest p n j := by
  induction j generalizing x with
  | zero => rfl
  | succ i ih =>
    simp only [Ctx.loopTest]
    split_ifs
    · rfl
    · exact ih { x with lc := x.lc.set i (x.lc[i] - 1) }
    · rfl
    · rfl

variable (d : Fin 4)

theorem loopTest_elsewhere (h : addrField p ≠ x.le[d]) : x.loopTest p n (d.val + 1) = ({ x with depth := d.val + 1 }, n) := by
  rw [Ctx.loopTest, dif_pos d.isLt]
  exact if_neg h

section
variable (h : addrField p = x.le[d])
include h

theorem loopTest_goesBack (hc : x.lc[d] ≠ 1) : x.loopTest p n (d.val + 1) =
    ({ x with depth := d.val + 1, lc := x.lc.set d (x.lc[d] - 1) }, codeAddr x.ls[d]) := by
  rw [Ctx.loopTest, dif_pos d.isLt]
  exact (if_pos h).trans (if_pos (sub_ne_zero.mpr hc))

theorem loopTest_closes (hc : x.lc[d] = 1) :
    x.loopTest p n (d.val + 1) = ({ x with lc := x.lc.set d 0 } : Ctx).loopTest p n d.val := by
  have h0 : x.lc[d] - 1 = 0 := sub_eq_zero.mpr hc
  rw [Ctx.loopTest, dif_pos d.isLt]
  refine (if_pos h).trans ((if_neg (not_not.mpr h0)).trans ?_)
  rw [show x.lc[d.val] - 1 = 0 from h0]

end

end

section
variable {x : Ctx} (len : Nat) {d : Fin 4} (hh : x.handler = false)
include hh

/-- Outside handler mode an instruction ends in the loop-end test of its depth. -/
theorem next_eq_loopTest : x.next len = { (x.loopTest x.pc (x.pc + BitVec.ofNat 64 len) x.depth).1 with
    pc := (x.loopTest x.pc (x.pc + BitVec.ofNat 64 len) x.depth).2 } := by
  rw [Ctx.next, hh, if_neg Bool.false_ne_true]

variable (hd : x.depth = d.val + 1)
include hd

theorem next_elsewhere (h : addrField x.pc ≠ x.le[d]) : x.next len = { x with pc := x.pc + BitVec.ofNat 64 len } := by
  rw [next_eq_loopTest len hh, hd, loopTest_elsewhere x _ _ d h, ← hd]

theorem next_goesBack (h : addrField x.pc = x.le[d]) (hc : x.lc[d] ≠ 1) :
    x.next len = { x with pc := codeAddr x.ls[d], lc := x.lc.set d (x.lc[d] - 1) } := by
  rw [next_eq_loopTest len hh, hd, loopTest_goesBack x _ _ d h hc, ← hd]

theorem next_closes (h : addrField x.pc = x.le[d]) (hc : x.lc[d] = 1) :
    x.next len = ({ x with depth := d.val, lc := x.lc.set d 0 } : Ctx).next len := by
  rw [next_eq_loopTest len hh, hd, loopTest_closes x _ _ d h hc,
    next_eq_loopTest (x := { x with depth := d.val, lc := x.lc.set d 0 }) len hh]
  dsimp only
  rw [← loopTest_withDepth _ _ _ d.val]

end

/-! ### `loop` (R113) -/

theorem addrField_toNat (a : W64) : (addrField a).toNat = a.toNat / 4 % 2 ^ 55 * 4 := by
  rw [addrField, BitVec.toNat_ofNat, bits, Nat.shiftRight_eq_div_pow]
  omega

/-- A loop's end lies behind the loop instruction, and less than 2^57 bytes away, so that their fields differ (R113). -/
theorem addrField_ne_of_ahead {p : W64} {w : W32}
    (h : ¬ (p + 4 * w.signExtend 64 - (p + 12)).toInt < 0) : addrField p ≠ addrField (p + 4 * w.signExtend 64) := by
  generalize hk : (4 * w.signExtend 64 : W64) = k at h ⊢
  have hrange : k.toNat < 2 ^ 33 ∨ 2 ^ 64 - 2 ^ 33 ≤ k.toNat := by
    have hw := w.isLt
    rw [← hk, BitVec.toNat_mul, BitVec.toNat_signExtend, BitVec.toNat_setWidth, BitVec.msb_eq_decide,
      show (4 : W64).toNat = 4 from rfl]
    split_ifs with hs
    · rw [decide_eq_true_eq] at hs
      omega
    · rw [decide_eq_true_eq] at hs
      omega
  have hahead : 12 ≤ k.toNat ∧ k.toNat < 2 ^ 63 + 12 := by
    rw [show p + k - (p + 12) = k - 12 by ring, BitVec.toInt_neg_iff, BitVec.toNat_sub,
      show (12 : W64).toNat = 12 from rfl] at h
    omega
  intro e
  have he := congrArg BitVec.toNat e
  rw [addrField_toNat, addrField_toNat, BitVec.toNat_add] at he
  omega

theorem openLoop_eq {x : Ctx} {d : Fin 4} (hd : x.depth = d.val) (first last : W64) (n : W32) : x.openLoop first last n =
    { x with
      ls := x.ls.set d (addrField first)
      le := x.le.set d (addrField last)
      lc := x.lc.set d n
      depth := d.val + 1 } := by
  obtain ⟨d, h4⟩ := d
  obtain rfl : x.depth = d := hd
  exact dif_pos h4

/-- A level that has been opened does not end at its own `loop`. -/
theorem openLoop_next {x : Ctx} {d : Fin 4} (hh : x.handler = false) (hd : x.depth = d.val) {first last : W64} (n : W32)
    (hne : addrField x.pc ≠ addrField last) (len : Nat) : (x.openLoop first last n).next len =
    { x.openLoop first last n with pc := x.pc + BitVec.ofNat 64 len } := by
  rw [openLoop_eq hd]
  exact next_elsewhere len hh rfl (by simpa using hne)

section
variable {s : State} {h : Head} {a : Src} {w : W32} (hr : s.runs h = true)
include hr

theorem loopI_inHandler (hh : s.me.handler = true) : exec (.loopI h a w) s = .next (s.exact Cause.loopState 3) := by
  rw [exec_loopI, execLoopI, issue_runs hr]
  simp only [hh, if_true]

variable {t : W64} (ht : s.target w = t) (hh : s.me.handler = false)
include ht hh

theorem loopI_before (hb : (t - (s.me.pc + 12)).toInt < 0) :
    exec (.loopI h a w) s = .next (s.exact Cause.loopState 2) := by
  rw [exec_loopI, execLoopI, issue_runs hr]
  simp only [ht, hh, Bool.false_eq_true, if_false, hb, if_true]

variable (hb : ¬ (t - (s.me.pc + 12)).toInt < 0)
include hb

theorem loopI_full (hn : (s.src 1 a).setWidth 32 ≠ (0 : W32)) (hd : 4 ≤ s.me.depth) :
    exec (.loopI h a w) s = .next (s.exact Cause.loopState 1) := by
  rw [exec_loopI, execLoopI, issue_runs hr]
  simp only [ht, hh, Bool.false_eq_true, if_false, hb, hn, hd, if_true]

theorem loopI_opens (hn : (s.src 1 a).setWidth 32 ≠ (0 : W32)) (hd : ¬ 4 ≤ s.me.depth) : exec (.loopI h a w) s = .next
    (s.updMe fun c => ((c.tally s.cycle).openLoop (s.me.pc + 12) t ((s.src 1 a).setWidth 32)).next 12).fresh := by
  rw [exec_loopI, execLoopI, issue_runs hr]
  simp only [ht, hh, Bool.false_eq_true, if_false, hb, hn, hd]
  exact congrArg (fun t : State => Host.Outcome.next t.fresh) (updMe_congr rfl)

theorem loopI_skips (hn : (s.src 1 a).setWidth 32 = (0 : W32)) {bs : List Byte} {len : Nat}
    (hf : s.fetchBlock s.cur t = (s, .ok bs)) (hlen : lenCheck t (ofBytes (bs.take 4)) = .ok len) :
    exec (.loopI h a w) s =
      .next (s.updMe fun c => (c.tally s.cycle).nextTo (t + BitVec.ofNat 64 len)).fresh := by
  rw [exec_loopI, execLoopI, issue_runs hr]
  simp only [ht, hh, Bool.false_eq_true, if_false, hb, hn, if_true, hf, hlen]

end

/-- The state after a `loop` that has opened a level. -/
theorem openLoop_result {s : State} (hl : s.lives = true) {d : Fin 4} {t : W64} (n : W32) (hh : s.me.handler = false)
    (hd : s.me.depth = d.val) (hne : addrField s.me.pc ≠ addrField t) :
    let u := (s.updMe fun c => ((c.tally s.cycle).openLoop (s.me.pc + 12) t n).next 12).fresh
    u.me = { issuedAs s.me u.me with ls := s.me.ls.set d (addrField (s.me.pc + 12)), le := s.me.le.set d (addrField t) } ∧
      u.me.lc = s.me.lc.set d n ∧ u.me.depth = d.val + 1 ∧ u.me.pc = s.me.pc + 12 ∧ u.me.issued = s.me.issued + 1 ∧
      onlyCtx s.cur s u ∧ sameMem s u := by
  intro u
  have hm : u.me = ((s.me.tally s.cycle).openLoop (s.me.pc + 12) t n).next 12 := updMe_me s _ hl
  rw [hm, openLoop_next (x := s.me.tally s.cycle) hh hd n hne, openLoop_eq (x := s.me.tally s.cycle) hd]
  exact ⟨rfl, rfl, rfl, rfl, rfl, onlyCtx_updMe s _, sameMem_updMe s _⟩

/-- The state after a `loop` that has skipped its body, outside every level. -/
theorem nextTo_result {s : State} (hl : s.lives = true) (hd : s.me.depth = 0) (t : W64) :
    let u := (s.updMe fun c => (c.tally s.cycle).nextTo t).fresh
    u.me = issuedAs s.me u.me ∧ u.me.pc = t ∧ u.me.depth = 0 ∧ onlyCtx s.cur s u ∧ sameMem s u := by
  intro u
  have hm : u.me = (s.me.tally s.cycle).nextTo t := updMe_me s _ hl
  have hx : (s.me.tally s.cycle).nextTo t = { s.me.tally s.cycle with depth := 0, pc := t } := by
    rw [Ctx.nextTo, show (s.me.tally s.cycle).depth = 0 from hd]
    rfl
  rw [hm, hx]
  exact ⟨rfl, rfl, rfl, onlyCtx_updMe s _, sameMem_updMe s _⟩

/-- Settles O8: `loop` in the order of its checks, and the loop-end test by the address and the count of the innermost
level. -/
theorem hardwareLoops : Obligations.HardwareLoops := by
  refine ⟨fun s h a w hr => ?_, fun x len d hh hd => ?_⟩
  · have hl := runs_lives hr
    have ht := target_eq s w
    exact ⟨loopI_inHandler hr, loopI_before hr ht, loopI_full hr ht,
      fun hh hb hn d hd => ⟨_, loopI_opens hr ht hh hb hn (by omega), openLoop_result hl _ hh hd (addrField_ne_of_ahead hb)⟩,
      fun hh hb hn hd bs len hf hlen => ⟨_, loopI_skips hr ht hh hb hn hf hlen, nextTo_result hl hd _⟩⟩
  · exact ⟨next_elsewhere len hh hd, next_goesBack len hh hd, next_closes len hh hd⟩

end Sys2Proof.Proofs
end

section
/-! What the device memory, the log and the U lines change: the tables of units and devices and the device memory, and
nothing else (11 R295, R296; 12 R309). -/

namespace Sys2Proof.Proofs

open Sys2Proof.Machine Sys2Proof.Laws

/-- What is said of a state without its tables of cores, quads, tiles and devices and without the device memory. -/
def DeviceFree (P : State → Prop) : Prop := ∀ (s : State) cores quads tiles vds dev hbm, P s →
  P { s with cores := cores, quads := quads, tiles := tiles, vds := vds, dev := dev, hbm := hbm }

theorem fst_free {α : Type} {P : State → Prop} {s : State} {x : α} (h : P s) : (P ∘ Prod.fst) (s, x) := h

section
variable {P : State → Prop} (hP : DeviceFree P) {s : State} (h : P s)
include hP h

theorem updVd_free {n : Nat} {f : Vd → Vd} : P (s.updVd n f) := hP s _ _ _ _ _ _ h
theorem updDev_free {f : Dev → Dev} : P (s.updDev f) := hP s _ _ _ _ _ _ h

theorem devPut_free {key : List W64} {a : Nat} {b : Byte} : P (s.devPut key a b) :=
  ite_keeps (P := P) (hP s _ _ _ _ _ _ h) (hP s _ _ _ _ _ _ h)

theorem devPuts_free {key : List W64} {a : Nat} {bs : List Byte} : P (s.devPuts key a bs) := by
  induction bs generalizing s a with
  | nil => exact h
  | cons b bs ih => exact ih (devPut_free hP h)

theorem devWrite_free {key : List W64} {a : Nat} {bs : List Byte} : P (s.devWrite key a bs) := by
  have hw : P (s.devPuts key a bs) := devPuts_free hP h
  exact ite_keeps (P := P) (ite_keeps (P := P) hw (updDev_free hP hw)) hw

theorem setAD_free {at_ : Nat} {d : Bool} : P (s.setAD at_ d) := by
  unfold State.setAD
  exact ite_keeps (P := P) h (devPuts_free hP h)

theorem walkBoth_free {vd va : Nat} {k : Acc} : P (s.walkBoth none vd va k).1 := by
  have hs (l : List Nat) : P (l.foldl (fun s at_ => s.setAD at_ false) s) :=
    foldl_keeps (P := P) h fun _ _ hu => setAD_free hP hu
  unfold State.walkBoth
  dsimp only
  split
  · exact h
  · refine ite_keeps (P := P ∘ Prod.fst) (hs _) (ite_keeps (P := P ∘ Prod.fst) (hs _) ?_)
    split
    · exact hs _
    · exact ite_keeps (P := P ∘ Prod.fst) (hs _) (ite_keeps (P := P ∘ Prod.fst) (hs _) (fst_free (setAD_free hP (hs _))))

theorem xlate_free {vd : Nat} {va : W64} {k : Acc} : P (s.xlate none vd va k).1 := by
  unfold State.xlate
  dsimp only [State.tlbRefill]
  refine ite_keeps (P := P ∘ Prod.fst) h ?_
  split
  · exact walkBoth_free hP h
  · exact ite_keeps (P := P ∘ Prod.fst) h (ite_keeps (P := P ∘ Prod.fst) h
      (ite_keeps (P := P ∘ Prod.fst) (walkBoth_free hP h) h))

theorem logPut_free {vd : Nat} {va : W64} {bs : List Byte} {bad : Bool} : P (s.logPut vd va bs bad) := by
  have hx := xlate_free (vd := vd) (va := va) (k := .write) hP h
  unfold State.logPut
  split
  · rename_i e
    rwa [e] at hx
  · rename_i t x e
    rw [e] at hx
    have hw : P (t.devWrite (t.key x.keyid) x.dpa bs) := devWrite_free hP hx
    exact ite_keeps (P := P) (updDev_free hP hw) hw

theorem logDrop_free {vd : Nat} : P (s.logDrop vd) := by
  unfold State.logDrop
  split
  · exact h
  · exact updVd_free hP (updVd_free hP h)

theorem logTrim_free {vd n : Nat} : P (s.logTrim vd n) := by
  induction n generalizing s with
  | zero => exact h
  | succ n ih =>
    unfold State.logTrim
    split
    · exact h
    · exact ite_keeps (P := P) h (ih (logDrop_free hP h))

theorem logLine_free {vd line dpa sid : Nat} {key : List W64} : P (s.logLine vd line dpa sid key) := by
  have hd : P (s.updDev fun d => { d with seq := d.seq + 1 }) := updDev_free hP h
  unfold State.logLine
  dsimp only
  refine ite_keeps (P := P) h (logTrim_free hP (updVd_free hP ?_))
  exact ite_keeps (P := P) hd (logPut_free hP (logPut_free hP hd))

theorem combineU_free {u : ULine} : P (s.combineU u) := by
  unfold State.combineU
  dsimp only
  refine foldl_keeps (P := P) ?_ fun _ _ hu => devWrite_free hP hu
  exact ite_keeps (P := P) (logLine_free hP h) h

/-- Combining U lines changes no other part. -/
theorem flushU_free {p : Nat → ULine → Bool} : P (s.flushU p) :=
  foldl_keeps (P := P) (hP s _ _ _ _ _ _ h) fun _ _ hu => combineU_free hP hu

end

end Sys2Proof.Proofs
end

section
/-! What the end of contexts leaves of the grains, the accumulator entries and the local memories (04 R118; 08 R235). -/

namespace Sys2Proof.Proofs

open Sys2Proof.Machine Sys2Proof.Laws

/-- The executing context, the place and the retirement of each grain, the accumulator entries, and the memories of the
quads and tiles stand as they were. -/
structure UnitsKept (r s : State) : Prop where
  cur : s.cur = r.cur
  grains : ∀ k, (Tab.find s.grains k).map (fun g => (g.core, g.retired)) =
    (Tab.find r.grains k).map fun g => (g.core, g.retired)
  accs : ∀ t, (s.tileOf t).acc = (r.tileOf t).acc
  lmem : s.lmem = r.lmem
  fe : s.fe = r.fe
  wbuf : s.wbuf = r.wbuf
  accm : s.accm = r.accm

theorem UnitsKept.refl (s : State) : UnitsKept s s := ⟨rfl, fun _ => rfl, fun _ => rfl, rfl, rfl, rfl, rfl⟩

section
variable {r s : State} (h : UnitsKept r s)
include h

theorem UnitsKept.trans {t : State} (k : UnitsKept s t) : UnitsKept r t :=
  ⟨k.cur.trans h.cur, fun g => (k.grains g).trans (h.grains g), fun t => (k.accs t).trans (h.accs t), k.lmem.trans h.lmem,
    k.fe.trans h.fe, k.wbuf.trans h.wbuf, k.accm.trans h.accm⟩

theorem UnitsKept.myTile : s.myTile = r.myTile := by
  have hcore (t : State) : t.grain.core = (((Tab.find t.grains (t.cur.sheaf, t.cur.grain)).map
      fun g => (g.core, g.retired)).getD (Grain.zero.core, Grain.zero.retired)).1 := by
    rw [State.grain, State.grainOf]
    cases Tab.find t.grains (t.cur.sheaf, t.cur.grain) with
    | none => rfl
    | some g => rfl
  rw [State.myTile, State.myTile, hcore, hcore, h.grains, h.cur]

/-! ### Changes of one table -/

theorem frame_kept {ctxs sheaves vds freeN} :
    UnitsKept r { s with ctxs := ctxs, sheaves := sheaves, vds := vds, freeN := freeN } :=
  ⟨h.cur, h.grains, h.accs, h.lmem, h.fe, h.wbuf, h.accm⟩

theorem updCtx_kept {c : CtxId} {f : Ctx → Ctx} : UnitsKept r (s.updCtx c f) := frame_kept h
theorem updSheaf_kept {n : Nat} {f : Sheaf → Sheaf} : UnitsKept r (s.updSheaf n f) := frame_kept h
theorem updVd_kept {n : Nat} {f : Vd → Vd} : UnitsKept r (s.updVd n f) := frame_kept h
theorem fresh_kept : UnitsKept r s.fresh := frame_kept h

theorem updTile_kept {n : Nat} {f : Tile → Tile} (hf : ∀ x, (f x).acc = x.acc) : UnitsKept r (s.updTile n f) := by
  refine { h with accs := fun t => Eq.trans ?_ (h.accs t) }
  by_cases e : t = n
  · rw [e, updTile_tileOf_self, hf]
  · rw [updTile_tileOf_ne s f e]

theorem mapTiles_kept {f : Nat × Tile → Tile} (hf : ∀ e, (f e).acc = e.2.acc) :
    UnitsKept r { s with tiles := s.tiles.map fun e => (e.1, f e) } := by
  refine { h with accs := fun t => Eq.trans ?_ (h.accs t) }
  simp only [State.tileOf, Tab.getD, tab_find_mapVal]
  cases Tab.find s.tiles t with
  | none => rfl
  | some x => exact hf (t, x)

theorem updGrainOf_kept {c : CtxId} {f : Grain → Grain} (hf : ∀ g, ((f g).core, (f g).retired) = (g.core, g.retired)) :
    UnitsKept r (s.updGrainOf c f) := by
  refine { h with grains := fun k => Eq.trans ?_ (h.grains k) }
  rw [State.updGrainOf, tab_find_upd]
  split_ifs
  · rw [Option.map_map]
    exact congrArg (Option.map · _) (funext hf)
  · rfl

theorem mapGrains_kept {f : (Nat × Nat) × Grain → Grain}
    (hf : ∀ e, ((f e).core, (f e).retired) = (e.2.core, e.2.retired)) :
    UnitsKept r { s with grains := s.grains.map fun e => (e.1, f e) } := by
  refine { h with grains := fun k => Eq.trans ?_ (h.grains k) }
  dsimp only
  rw [tab_find_mapVal, Option.map_map]
  exact congrArg (Option.map · _) (funext fun g => hf (k, g))

theorem mapUnits_kept {f : Nat × Tile → Tile} {g : (Nat × Nat) × Grain → Grain} (hf : ∀ e, (f e).acc = e.2.acc)
    (hg : ∀ e, ((g e).core, (g e).retired) = (e.2.core, e.2.retired)) :
    UnitsKept r { s with tiles := s.tiles.map fun e => (e.1, f e), grains := s.grains.map fun e => (e.1, g e) } :=
  mapGrains_kept (s := { s with tiles := s.tiles.map fun e => (e.1, f e) }) (mapTiles_kept h hf) hg

/-! ### The end of a context -/

theorem lessPend_kept {c : CtxId} {level n : Nat} : UnitsKept r (s.lessPend c level n) := ite_keeps h (updSheaf_kept h)

theorem leaveEngine_kept {c : CtxId} {keep : List Nat} : UnitsKept r (s.leaveEngine c keep) :=
  ite_keeps h (updTile_kept (foldl_keeps h fun _ _ hu => lessPend_kept hu) fun _ => rfl)

theorem dropSaved_kept {c : CtxId} : UnitsKept r (s.dropSaved c) := by
  unfold State.dropSaved
  split
  · exact updGrainOf_kept (leaveEngine_kept h) fun _ => rfl
  · exact h

theorem emitTrace_kept {c : CtxId} : UnitsKept r (s.emitTrace c) := by
  unfold State.emitTrace
  dsimp only
  split
  · exact h
  · exact ite_keeps h (ite_keeps (updVd_kept (updCtx_kept h)) (updTile_kept (updCtx_kept h) fun _ => rfl))

theorem dropMutexes_kept {c : CtxId} : UnitsKept r (s.dropMutexes c) :=
  ite_keeps h (ite_keeps (updSheaf_kept h) (mapTiles_kept h fun _ => rfl))

theorem endCtx_kept {c : CtxId} : UnitsKept r (s.endCtx c) := by
  have hd : UnitsKept r ((s.leaveEngine c).dropMutexes c) := dropMutexes_kept (leaveEngine_kept h)
  unfold State.endCtx
  extract_lets u ctl x ops fl v w
  have hw : UnitsKept r w := frame_kept hd
  exact mapUnits_kept hw (fun _ => rfl) fun _ => rfl

theorem killHelper_kept {c : CtxId} : UnitsKept r (s.killHelper c) :=
  ite_keeps (updCtx_kept h) (endCtx_kept (emitTrace_kept (dropSaved_kept (updCtx_kept h))))

theorem killHelpers_kept : UnitsKept r s.killHelpers :=
  foldl_keeps h fun _ _ hu => ite_keeps hu (killHelper_kept hu)

theorem flushU_kept {p : Nat → ULine → Bool} : UnitsKept r (s.flushU p) := by
  have hu := flushU_undisturbs s p
  obtain ⟨hfe, haccm⟩ : (s.flushU p).fe = s.fe ∧ (s.flushU p).accm = s.accm :=
    flushU_free (P := fun t => t.fe = s.fe ∧ t.accm = s.accm) (fun _ _ _ _ _ _ _ h => h) ⟨rfl, rfl⟩
  exact h.trans ⟨hu.cur, fun k => by rw [hu.grains], hu.accs, hu.lmem, hfe, hu.wbuf, haccm⟩

end

end Sys2Proof.Proofs
end

section
/-! The end of the helpers of a grain at a `halt` (01 R29, R33; 05 R150; 08 R235). -/

namespace Sys2Proof.Proofs

open Sys2Proof.Machine Sys2Proof.Laws

/-- The control context of a context's grain. -/
def ctlOf (c : CtxId) : CtxId := { c with ctx := 0 }

/-- A context that has taken over flags. -/
def addFlags (fl : Flags) (x : Ctx) : Ctx := { x with aflags := x.aflags ||| fl }

/-- A helper whose `rqput` holds a reservation. -/
def holdsPut (x : Ctx) : Bool := x.out.any fun o => isRqput o.instr && o.stage == .sent

/-- What a `halt` leaves of a helper: only one that holds a reservation, stopped. -/
def helperLeft (o : Option Ctx) : Option Ctx := o.bind fun x => if holdsPut x then some { x with wait := .stopped } else none

theorem holdsPut_iff (x : Ctx) : holdsPut x = true ↔ ∃ o, x.out = some o ∧ isRqput o.instr = true ∧ o.stage = .sent := by
  simp [holdsPut, Option.any_eq_true]

theorem helperLeft_of_put {x : Ctx} (h : holdsPut x = true) : helperLeft (some x) = some { x with wait := .stopped } :=
  if_pos h

theorem helperLeft_of_no_put {x : Ctx} (h : holdsPut x = false) : helperLeft (some x) = none :=
  if_neg (Bool.eq_false_iff.mp h)

theorem helperLeft_helperLeft (o : Option Ctx) : helperLeft (helperLeft o) = helperLeft o := by
  cases o with
  | none => rfl
  | some x =>
    cases hx : holdsPut x
    · rw [helperLeft_of_no_put hx]
      rfl
    · have hy : holdsPut { x with wait := .stopped } = true := hx
      rw [helperLeft_of_put hx, helperLeft_of_put hy]

theorem addFlags_addFlags (a b : Flags) (x : Ctx) : addFlags b (addFlags a x) = addFlags (a ||| b) x := by
  simp only [addFlags, BitVec.or_assoc]

theorem addFlags_zero (x : Ctx) : addFlags 0 x = x := by simp [addFlags]

/-! ### One context that ends -/

/-- Flags gathered from a list contain those that the list started from. -/
theorem or_foldl_or {α : Type} (g : α → Flags) (l : List α) {a b : Flags} (h : a ||| b = b) :
    a ||| l.foldl (fun f v => f ||| g v) b = l.foldl (fun f v => f ||| g v) b :=
  foldl_keeps (P := fun b => a ||| b = b) h fun u v hu => by rw [← BitVec.or_assoc, hu]

/-- A context that ends leaves the table, and its flags go to the control context. -/
theorem endCtx_ctx (s : State) (c : CtxId) : ∃ fl, (∀ x, s.ctx c = some x → x.aflags ||| fl = fl) ∧
    (c.ctx ≠ 0 → (s.endCtx c).ctx (ctlOf c) = (s.ctx (ctlOf c)).map (addFlags fl)) ∧ (s.endCtx c).ctx c = none ∧
    ∀ d, d ≠ c → d ≠ ctlOf c → (s.endCtx c).ctx d = s.ctx d := by
  obtain ⟨t, h, hl⟩ := leaveEngine_frame s c []
  obtain ⟨t', h', hd⟩ := dropMutexes_frame (s.leaveEngine c) c
  let x : Ctx := (s.ctx c).getD Ctx.zero
  let ops := (s.quads.flatMap fun q => q.2.vops).filter fun v => v.ctx == c
  let fl := ops.foldl (fun f v => f ||| v.flags) (x.pend.foldl (fun f p => f ||| p.flags) x.aflags)
  have hend (d : CtxId) : (s.endCtx c).ctx d = Tab.find (Tab.upd (Tab.del s.ctxs c) (ctlOf c) (addFlags fl)) d := by
    unfold State.endCtx
    rw [hd, hl]
    rfl
  refine ⟨fl, fun y hy => ?_, fun hc => ?_, ?_, fun d hdc hdctl => ?_⟩
  · have hx : x = y := by simp only [x, hy, Option.getD_some]
    rw [← hx]
    exact or_foldl_or _ _ (or_foldl_or _ _ (BitVec.or_self))
  · have hne : c ≠ ctlOf c := fun e => hc (congrArg CtxId.ctx e)
    rw [hend, tab_find_upd_self, tab_find_del, if_neg hne]
    rfl
  · rw [hend, tab_find_upd, tab_find_del, if_pos rfl, Option.map_none, ite_self]
  · rw [hend, tab_find_upd_ne _ _ (Ne.symm hdctl), tab_find_del, if_neg (Ne.symm hdc)]
    rfl

/-- What of a helper in progress is recorded changes neither its flags nor those of another context. -/
theorem recordOut_aflags (x : Ctx) : x.recordOut.aflags = x.aflags := by
  unfold Ctx.recordOut
  split
  · split_ifs
    · rfl
    · rfl
  · rfl

/-- Before a helper ends, only its own entry changes, and in it no flags. -/
theorem killHelper_before (s : State) (c : CtxId) : ∃ f : Ctx → Ctx, (∀ x, (f x).aflags = x.aflags) ∧
    ∀ d, (((s.updCtx c Ctx.recordOut).dropSaved c).emitTrace c).ctx d = (s.updCtx c f).ctx d := by
  obtain ⟨⟨t, h, g, hd⟩, -⟩ := dropSaved_frame (s.updCtx c Ctx.recordOut) c
  obtain ⟨t', v, f, he, hf⟩ := emitTrace_frame ((s.updCtx c Ctx.recordOut).dropSaved c) c
  refine ⟨fun x => f x.recordOut, fun x => (hf _).1.trans (recordOut_aflags x), fun d => ?_⟩
  rw [he, hd]
  exact congrArg (Tab.find · d) (tab_upd_upd s.ctxs c Ctx.recordOut f)

/-- One helper at a `halt`. -/
theorem killHelper_ctx (s : State) {c : CtxId} (hc : c.ctx ≠ 0) : ∃ fl,
    (∀ x, s.ctx c = some x → holdsPut x = false → x.aflags ||| fl = fl) ∧
    (s.killHelper c).ctx (ctlOf c) = (s.ctx (ctlOf c)).map (addFlags fl) ∧ (s.killHelper c).ctx c = helperLeft (s.ctx c) ∧
    ∀ d, d ≠ c → d ≠ ctlOf c → (s.killHelper c).ctx d = s.ctx d := by
  have hne : ctlOf c ≠ c := fun e => hc (congrArg CtxId.ctx e).symm
  have hkill : s.killHelper c = if (s.ctx c).any holdsPut then s.updCtx c fun x => { x with wait := .stopped }
      else (((s.updCtx c Ctx.recordOut).dropSaved c).emitTrace c).endCtx c := by
    unfold State.killHelper
    cases s.ctx c with
    | none => rfl
    | some x => rfl
  rw [hkill]
  cases hp : (s.ctx c).any holdsPut
  · rw [if_neg Bool.false_ne_true]
    obtain ⟨f, hf, hbefore⟩ := killHelper_before s c
    obtain ⟨fl, hflags, hctl, hself, hothers⟩ := endCtx_ctx (((s.updCtx c Ctx.recordOut).dropSaved c).emitTrace c) c
    refine ⟨fl, fun x hx _ => ?_, ?_, hself.trans ?_, fun d hd hdctl => ?_⟩
    · rw [← hf x]
      exact hflags _ (by rw [hbefore, updCtx_ctx_self, hx, Option.map_some])
    · rw [hctl hc, hbefore, updCtx_ctx_ne s f hne]
    · cases hx : s.ctx c with
      | none => rfl
      | some x =>
        have hput : holdsPut x = false := by simpa [hx] using hp
        exact (helperLeft_of_no_put hput).symm
    · rw [hothers d hd hdctl, hbefore, updCtx_ctx_ne s f hd]
  · rw [if_pos rfl]
    obtain ⟨x, hx, hput⟩ := (Option.any_eq_true _ _).mp hp
    refine ⟨0, fun y hy hn => ?_, ?_, ?_, fun d hd _ => updCtx_ctx_ne s _ hd⟩
    · rw [hx] at hy
      rw [← Option.some.inj hy, hput] at hn
      exact nomatch hn
    · rw [updCtx_ctx_ne s _ hne, show addFlags 0 = id from funext addFlags_zero, Option.map_id]
      rfl
    · rw [updCtx_ctx_self, hx, helperLeft_of_put hput, Option.map_some]

/-! ### All helpers of a grain -/

/-- From `s` to `u` the helpers among the contexts of a list have ended, whose control context is `c₀`. -/
structure HelpersKilled (keys : List CtxId) (c₀ : CtxId) (s u : State) : Prop where
  helpers : ∀ d, d.ctx ≠ 0 → u.ctx d = if d ∈ keys then helperLeft (s.ctx d) else s.ctx d
  controls : ∀ d, d.ctx = 0 → d ≠ c₀ → u.ctx d = s.ctx d
  flags : ∃ fl, u.ctx c₀ = (s.ctx c₀).map (addFlags fl) ∧
    ∀ d ∈ keys, d.ctx ≠ 0 → ∀ x, s.ctx d = some x → holdsPut x = false → x.aflags ||| fl = fl

theorem helpersKilled_nil (c₀ : CtxId) (s : State) : HelpersKilled [] c₀ s s :=
  ⟨fun _ _ => rfl, fun _ _ _ => rfl, 0, by rw [show addFlags 0 = id from funext addFlags_zero, Option.map_id]; rfl,
    fun _ h => nomatch h⟩

theorem helpersKilled_cons_control {keys : List CtxId} {c₀ c : CtxId} {s u : State} (hc : c.ctx = 0)
    (h : HelpersKilled keys c₀ s u) : HelpersKilled (c :: keys) c₀ s u := by
  obtain ⟨fl, hctl, hfl⟩ := h.flags
  refine ⟨fun d hd => (h.helpers d hd).trans ?_, h.controls, fl, hctl, fun d hm hd => ?_⟩
  · have hne : d ≠ c := fun e => hd (e ▸ hc)
    simp only [List.mem_cons, hne, false_or]
  · rcases List.mem_cons.mp hm with rfl | hm
    · exact absurd hc hd
    · exact hfl d hm hd

theorem helpersKilled_cons_helper {keys : List CtxId} {c₀ c : CtxId} {s u : State} (hc : c.ctx ≠ 0) (h₀ : ctlOf c = c₀)
    (h : HelpersKilled keys c₀ (s.killHelper c) u) : HelpersKilled (c :: keys) c₀ s u := by
  subst h₀
  obtain ⟨fl, hkill, hctl, hself, hothers⟩ := killHelper_ctx s hc
  obtain ⟨fl', hctl', hfl'⟩ := h.flags
  have hne (d : CtxId) (hd : d.ctx ≠ 0) : d ≠ ctlOf c := fun e => hd (congrArg CtxId.ctx e)
  refine ⟨fun d hd => (h.helpers d hd).trans ?_, fun d hd hdc => (h.controls d hd hdc).trans ?_, fl ||| fl', ?_,
    fun d hm hd x hx hp => ?_⟩
  · by_cases e : d = c
    · subst e
      rw [hself, helperLeft_helperLeft, ite_self, if_pos List.mem_cons_self]
    · simp only [hothers d e (hne d hd), List.mem_cons, e, false_or]
  · exact hothers d (fun e => hc (e ▸ hd)) hdc
  · rw [hctl', hctl, Option.map_map]
    exact congrArg (Option.map · _) (funext (addFlags_addFlags fl fl'))
  · by_cases e : d = c
    · subst e
      rw [← BitVec.or_assoc, hkill x hx hp]
    · have hm' : d ∈ keys := (List.mem_cons.mp hm).resolve_left e
      have hx' : (s.killHelper c).ctx d = some x := (hothers d e (hne d hd)).trans hx
      rw [BitVec.or_comm fl, ← BitVec.or_assoc, hfl' d hm' hd x hx' hp]

/-- A `halt` ends the helpers of a list of contexts one after another. -/
theorem foldl_killHelper {c₀ : CtxId} (l : List (CtxId × Ctx)) (hl : ∀ e ∈ l, ctlOf e.1 = c₀) (s : State) :
    HelpersKilled (l.map Prod.fst) c₀ s (l.foldl (fun s e => if e.1.ctx = 0 then s else s.killHelper e.1) s) := by
  induction l generalizing s with
  | nil => exact helpersKilled_nil c₀ s
  | cons e l ih =>
    have hrest := ih fun e' he' => hl e' (List.mem_cons_of_mem _ he')
    rw [List.foldl_cons, List.map_cons]
    split_ifs with hc
    · exact helpersKilled_cons_control hc (hrest s)
    · exact helpersKilled_cons_helper hc (hl e List.mem_cons_self) (hrest _)

/-- A context belongs to the grain of another one. -/
def OfGrain (c d : CtxId) : Prop := d.sheaf = c.sheaf ∧ d.grain = c.grain

theorem mem_ctxsOf {s : State} {c : CtxId} {e : CtxId × Ctx} : e ∈ s.ctxsOf c.sheaf c.grain ↔ e ∈ s.ctxs ∧ OfGrain c e.1 := by
  simp [State.ctxsOf, OfGrain]

section
variable {s : State} (hc : s.cur.ctx = 0)
include hc

theorem eq_cur_of_control {d : CtxId} (hd : OfGrain s.cur d) (h0 : d.ctx = 0) : d = s.cur := by
  obtain ⟨sheaf, grain, ctx⟩ := d
  obtain ⟨rfl, rfl⟩ := hd
  obtain rfl : ctx = s.cur.ctx := h0.trans hc.symm
  rfl

theorem killHelpers_killed :
    HelpersKilled ((s.ctxsOf s.cur.sheaf s.cur.grain).map Prod.fst) s.cur s s.killHelpers := by
  refine foldl_killHelper _ (fun e he => ?_) s
  exact eq_cur_of_control hc (d := ctlOf e.1) (mem_ctxsOf.mp he).2 rfl

/-- What is left of the helpers of the grain. -/
theorem killHelpers_ctx {d : CtxId} (hd : OfGrain s.cur d) (h0 : d.ctx ≠ 0) : s.killHelpers.ctx d = helperLeft (s.ctx d) := by
  refine ((killHelpers_killed hc).helpers d h0).trans ?_
  cases hx : s.ctx d with
  | none => exact ite_self _
  | some x => exact if_pos (List.mem_map.mpr ⟨(d, x), mem_ctxsOf.mpr ⟨tab_mem_of_find hx, hd⟩, rfl⟩)

theorem killHelpers_ctx_of_other {d : CtxId} (hd : ¬ OfGrain s.cur d) : s.killHelpers.ctx d = s.ctx d := by
  have hk := killHelpers_killed hc
  by_cases h0 : d.ctx = 0
  · exact hk.controls d h0 fun e => hd (e ▸ ⟨rfl, rfl⟩)
  · refine (hk.helpers d h0).trans (if_neg fun hm => hd ?_)
    obtain ⟨e, he, rfl⟩ := List.mem_map.mp hm
    exact (mem_ctxsOf.mp he).2

theorem killHelpers_flags (hl : s.lives = true) {d : CtxId} {x : Ctx} (hd : OfGrain s.cur d) (h0 : d.ctx ≠ 0)
    (hx : s.ctx d = some x) (hp : holdsPut x = false) : s.killHelpers.me.aflags ||| x.aflags = s.killHelpers.me.aflags := by
  obtain ⟨fl, hctl, hfl⟩ := (killHelpers_killed hc).flags
  have hcur : s.killHelpers.cur = s.cur := (killHelpers_kept (UnitsKept.refl s)).cur
  have hme : s.killHelpers.me = addFlags fl s.me := by
    rw [State.me, hcur]
    change (s.killHelpers.ctx s.cur).getD Ctx.zero = _
    rw [hctl, ctx_cur_of_lives hl]
    rfl
  have hfl' := hfl d (List.mem_map.mpr ⟨(d, x), mem_ctxsOf.mpr ⟨tab_mem_of_find hx, hd⟩, rfl⟩) h0 x hx hp
  rw [hme, addFlags, BitVec.or_assoc, BitVec.or_comm fl, hfl']

end

/-- A key that stands in a table is found there. -/
theorem tab_find_isSome_of_mem {κ α : Type} [DecidableEq κ] {t : Tab κ α} {e : κ × α} (he : e ∈ t) :
    ∃ v, Tab.find t e.1 = some v := by
  induction t with
  | nil => exact nomatch he
  | cons a t ih =>
    obtain ⟨j, v⟩ := a
    by_cases hj : j = e.1
    · exact ⟨v, if_pos hj⟩
    · obtain ⟨w, hw⟩ := ih ((List.mem_cons.mp he).resolve_left fun h => hj (h ▸ rfl))
      exact ⟨w, (if_neg hj).trans hw⟩

theorem ctxsOf_any_helper {s : State} {c : CtxId} : ((s.ctxsOf c.sheaf c.grain).any fun e => e.1.ctx != 0) = true ↔
    ∃ d x, OfGrain c d ∧ d.ctx ≠ 0 ∧ s.ctx d = some x := by
  simp only [List.any_eq_true, bne_iff_ne]
  constructor
  · rintro ⟨e, he, h0⟩
    obtain ⟨hmem, hgrain⟩ := mem_ctxsOf.mp he
    obtain ⟨x, hx⟩ := tab_find_isSome_of_mem hmem
    exact ⟨e.1, x, hgrain, h0, hx⟩
  · rintro ⟨d, x, hd, h0, hx⟩
    exact ⟨(d, x), mem_ctxsOf.mpr ⟨tab_mem_of_find hx, hd⟩, h0⟩

end Sys2Proof.Proofs
end

section
/-! `chkpt` and `halt` (04 R118; 05 R150; 08 R233, R235; 11 R294, R296). -/

namespace Sys2Proof.Proofs

open Sys2Proof.Machine Sys2Proof.Laws

/-! ### `chkpt` -/

/-- The grain once a context of number `c` has counted a checkpoint. -/
def countChk (s : State) (c : Fin 11) : State := s.updGrain fun g => { g with chk := g.chk.set c (s.grain.chk[c] + 1) }

theorem nextChk_eq {s : State} {c : Fin 11} (hc : s.cur.ctx = c.val) : s.nextChk = (countChk s c, s.grain.chk[c] + 1) := by
  have hn : s.grain.chk.toList.getD s.cur.ctx 0 = s.grain.chk[c] := by
    rw [hc]
    simp [List.getD]
  have hset (g : Grain) (n : Nat) : (if h : s.cur.ctx < 11 then g.chk.set s.cur.ctx n h else g.chk) = g.chk.set c n := by
    simp only [hc, c.isLt, dif_pos]
  simp only [State.nextChk, hn, hset]
  rfl

section
variable {s : State} {h : Head} (hr : s.runs h = true)
include hr

theorem chkpt_waits (hw : s.workLeft = true) : exec (.chkpt h) s = .next s.stall := by
  rw [exec_chkpt, execChkpt, issue_runs hr, hw, if_pos rfl]

variable (hw : s.workLeft = false)
include hw

theorem chkpt_stops_later (hl : s.logging s.myVd = true) (hs : s.sheaf.stop ≠ .none) : exec (.chkpt h) s = .next s.stall := by
  rw [exec_chkpt, execChkpt, issue_runs hr, hw, if_neg Bool.false_ne_true, hl, if_pos rfl, if_pos hs]

variable {c : Fin 11} (hc : s.cur.ctx = c.val)
include hc

theorem chkpt_numbers (hl : s.logging s.myVd = false) :
    GivesL (.chkpt h) s (countChk s c) h 4 (BitVec.ofNat 64 (s.grain.chk[c] + 1)) 0 8 (0x3E, 0xA) := by
  refine givesL_of_doneL hr (runs_lives hr) rfl ?_
  rw [exec_chkpt, execChkpt, hw, if_neg Bool.false_ne_true, hl, if_neg Bool.false_ne_true, nextChk_eq hc]

theorem chkpt_stops (hl : s.logging s.myVd = true) (hs : s.sheaf.stop = .none) :
    exec (.chkpt h) s = .next
      ((((countChk s c).withOut ⟨s.freeN + 1, .chkpt h, s.me.pc, h.dst, 0, false, .past, 0,
        [BitVec.ofNat 64 (s.grain.chk[c] + 1)], [], 0, none, s.cycle, s.quantumOf s.cur⟩).doneTag h 8 (s.freeN + 1)).updSheaf
          s.cur.sheaf fun x => { x with stop := .checkpoint, stopAt := s.slot, ckptBy := some s.cur }) := by
  have hcyc : (countChk s c).cycle = s.cycle := updGrainOf_cycle s s.cur fun _ => rfl
  rw [exec_chkpt, execChkpt, issue_runs hr, hw, if_neg Bool.false_ne_true, hl, if_pos rfl, if_neg (not_not.mpr hs),
    nextChk_eq hc]
  dsimp only
  rw [State.startL, start_eq_withOut, hcyc]
  rfl

end

/-! ### The retirement of a grain -/

/-- The accumulator tiles that the executing grain owns are FREE. -/
def freeOwnAccs (s : State) : State := s.updTile s.myTile fun t => { t with
  acc := t.acc.map fun a => if a == .owned s.cur.sheaf s.cur.grain then .free else a }

/-- The U lines of the executing grain are combined. -/
def grainCombined (s : State) : State :=
  s.flushU fun _ u => u.by_.any fun c => c.sheaf == s.cur.sheaf && c.grain == s.cur.grain

/-- Then its accumulator tiles are freed, and it tells its last trace record. -/
def grainTraced (s : State) : State := (freeOwnAccs (grainCombined s)).emitTrace (freeOwnAccs (grainCombined s)).cur

/-- Then it counts as retired; only the end of its control context is left. -/
def grainRetiring (s : State) : State := (grainTraced s).updGrain fun g => { g with retired := true }

theorem retireGrain_eq (s : State) : s.retireGrain = ((grainRetiring s).endCtx (grainRetiring s).cur).fresh := rfl

theorem grainCombined_kept (s : State) : UnitsKept s (grainCombined s) := flushU_kept (UnitsKept.refl s)

theorem grainTraced_kept (s : State) : UnitsKept (freeOwnAccs (grainCombined s)) (grainTraced s) :=
  emitTrace_kept (UnitsKept.refl _)

theorem retireGrain_kept (s : State) : UnitsKept (grainRetiring s) s.retireGrain := by
  rw [retireGrain_eq]
  exact fresh_kept (endCtx_kept (UnitsKept.refl _))

theorem grainTraced_cur (s : State) : (grainTraced s).cur = s.cur :=
  (grainTraced_kept s).cur.trans (grainCombined_kept s).cur

/-- From `s` to `t` the executing grain has retired at its place: the accumulator tiles that it owned are FREE, and the
memories of quads and tiles stand as they were (R186, R235). -/
def RetiresGrain (s t : State) : Prop :=
  (∀ g, s.grainOf s.cur = some g → ∃ k, t.grainOf s.cur = some k ∧ k.retired = true ∧ k.core = g.core) ∧
    (∀ a : Fin 64, (s.tileOf s.myTile).acc[a] = .owned s.cur.sheaf s.cur.grain → (t.tileOf s.myTile).acc[a] = .free) ∧
    t.lmem = s.lmem ∧ t.fe = s.fe ∧ t.wbuf = s.wbuf ∧ t.accm = s.accm

/-- A grain keeps its place and its mark of retirement. -/
theorem UnitsKept.grainOf {r s : State} (h : UnitsKept r s) {c : CtxId} {g : Grain} (hg : r.grainOf c = some g) :
    ∃ k, s.grainOf c = some k ∧ k.core = g.core ∧ k.retired = g.retired := by
  have hk := h.grains (c.sheaf, c.grain)
  rw [show Tab.find r.grains (c.sheaf, c.grain) = some g from hg, Option.map_some] at hk
  obtain ⟨k, hfind, he⟩ := Option.map_eq_some_iff.mp hk
  obtain ⟨hcore, hret⟩ := Prod.ext_iff.mp he
  exact ⟨k, hfind, hcore, hret⟩

section
variable (s : State)

theorem freeOwnAccs_acc {a : Fin 64} (ha : (s.tileOf s.myTile).acc[a] = .owned s.cur.sheaf s.cur.grain) :
    ((freeOwnAccs s).tileOf s.myTile).acc[a] = .free := by
  have hacc : (s.tileOf s.myTile).acc[a.val] = .owned s.cur.sheaf s.cur.grain := ha
  simp [freeOwnAccs, hacc]

theorem retireGrain_retires : RetiresGrain s s.retireGrain := by
  have hf := grainCombined_kept s
  have hw := grainTraced_kept s
  have ht := retireGrain_kept s
  refine ⟨fun g hg => ?_, fun a ha => ?_, (ht.lmem.trans hw.lmem).trans hf.lmem, (ht.fe.trans hw.fe).trans hf.fe,
    (ht.wbuf.trans hw.wbuf).trans hf.wbuf, (ht.accm.trans hw.accm).trans hf.accm⟩
  · obtain ⟨g₁, hg₁, hcore₁, -⟩ := hf.grainOf hg
    obtain ⟨g₂, hg₂, hcore₂, -⟩ := hw.grainOf hg₁
    have hret : (grainRetiring s).grainOf s.cur = some { g₂ with retired := true } := by
      rw [← grainTraced_cur] at hg₂ ⊢
      exact (tab_find_upd_self _ _ _).trans (congrArg (Option.map _) hg₂)
    obtain ⟨k, hk, hcore, hretired⟩ := ht.grainOf hret
    exact ⟨k, hk, hretired, hcore.trans (hcore₂.trans hcore₁)⟩
  · have hacc : (s.retireGrain.tileOf s.myTile).acc = ((freeOwnAccs (grainCombined s)).tileOf s.myTile).acc :=
      (ht.accs _).trans (hw.accs _)
    rw [hacc, ← hf.myTile]
    refine freeOwnAccs_acc (grainCombined s) ?_
    rw [hf.accs, hf.myTile, hf.cur]
    exact ha

/-- The grain that retires loses its control context, and the other contexts stay. -/
theorem retireGrain_ctx (h0 : s.cur.ctx = 0) :
    s.retireGrain.ctx s.cur = none ∧ ∀ d, d ≠ s.cur → s.retireGrain.ctx d = s.ctx d := by
  obtain ⟨t, v, g, he, -⟩ := emitTrace_frame (freeOwnAccs (grainCombined s)) (freeOwnAccs (grainCombined s)).cur
  have hcur : (grainRetiring s).cur = s.cur := grainTraced_cur s
  have hbefore (d : CtxId) (hd : d ≠ s.cur) : (grainRetiring s).ctx d = s.ctx d := by
    refine (congrArg (State.ctx · d) he).trans ((updCtx_ctx_ne (freeOwnAccs (grainCombined s)) g ?_).trans ?_)
    · rwa [show (freeOwnAccs (grainCombined s)).cur = s.cur from (grainCombined_kept s).cur]
    · exact (flushU_undisturbs s _).ctx d
  obtain ⟨-, -, -, hself, hothers⟩ := endCtx_ctx (grainRetiring s) s.cur
  have hctl : ctlOf s.cur = s.cur := eq_cur_of_control h0 ⟨rfl, rfl⟩ rfl
  rw [retireGrain_eq, hcur]
  exact ⟨hself, fun d hd => (hothers d hd (hctl.symm ▸ hd)).trans (hbefore d hd)⟩

end

/-! ### `halt` -/

/-- A helper of the executing grain holds the reservation of an `rqput`. -/
def putsLeft (s : State) : Prop := ∃ d x, OfGrain s.cur d ∧ d.ctx ≠ 0 ∧ s.ctx d = some x ∧ holdsPut x = true

/-- A helper is left after the end of the helpers where one held a reservation. -/
theorem putsLeft_iff {s : State} (hc : s.cur.ctx = 0) :
    ((s.killHelpers.ctxsOf s.killHelpers.cur.sheaf s.killHelpers.cur.grain).any fun e => e.1.ctx != 0) = true ↔
      putsLeft s := by
  rw [(killHelpers_kept (UnitsKept.refl s)).cur, ctxsOf_any_helper]
  refine exists_congr fun d => ⟨?_, ?_⟩
  · rintro ⟨y, hd, h0, hy⟩
    rw [killHelpers_ctx hc hd h0] at hy
    obtain ⟨x, hx, hleft⟩ := Option.bind_eq_some_iff.mp hy
    refine ⟨x, hd, h0, hx, by_contra fun hn => ?_⟩
    rw [if_neg hn] at hleft
    exact nomatch hleft
  · rintro ⟨x, hd, h0, hx, hp⟩
    exact ⟨_, hd, h0, (killHelpers_ctx hc hd h0).trans (hx ▸ helperLeft_of_put hp)⟩

section
variable {s : State} {h : Head} (hr : s.runs h = true)
include hr

theorem halt_of_helper (hc : s.cur.ctx ≠ 0) : exec (.halt h) s = .next (s.exact Cause.helperState 5) := by
  rw [exec_halt, execHalt, issue_runs hr, if_pos hc]

variable (hc : s.cur.ctx = 0)
include hc

theorem halt_waits (hw : s.killHelpers.workLeft = true ∨ putsLeft s) : exec (.halt h) s = .next s.killHelpers.stall := by
  rw [exec_halt, execHalt, issue_runs hr, if_neg (not_not.mpr hc)]
  exact congrArg _ (if_pos (Bool.or_eq_true_iff.mpr (hw.imp_right (putsLeft_iff hc).mpr)))

variable (hw : s.killHelpers.workLeft = false) (hp : ¬ putsLeft s)
include hw hp

theorem halt_goesOn : exec (.halt h) s = .next (if s.killHelpers.grainLog
    then (s.killHelpers.waitLog s.killHelpers.myVd).stall else s.killHelpers.retireGrain) := by
  rw [exec_halt, execHalt, issue_runs hr, if_neg (not_not.mpr hc)]
  refine congrArg _ (if_neg ?_)
  rw [Bool.or_eq_true_iff, hw]
  exact not_or.mpr ⟨Bool.false_ne_true, fun h => hp ((putsLeft_iff hc).mp h)⟩

end

/-- No context of the grain is left after its retirement, and the others are as they were. -/
theorem halt_ctx {s : State} (hc : s.cur.ctx = 0) (hp : ¬ putsLeft s) :
    (∀ d, OfGrain s.cur d → s.killHelpers.retireGrain.ctx d = none) ∧
      ∀ d, ¬ OfGrain s.cur d → s.killHelpers.retireGrain.ctx d = s.ctx d := by
  have hcur : s.killHelpers.cur = s.cur := (killHelpers_kept (UnitsKept.refl s)).cur
  obtain ⟨hself, hothers⟩ := retireGrain_ctx s.killHelpers (hcur ▸ hc)
  rw [hcur] at hself hothers
  refine ⟨fun d hd => ?_, fun d hd => ?_⟩
  · by_cases e : d = s.cur
    · exact e ▸ hself
    · have h0 : d.ctx ≠ 0 := fun h0 => e (eq_cur_of_control hc hd h0)
      rw [hothers d e, killHelpers_ctx hc hd h0]
      cases hx : s.ctx d with
      | none => rfl
      | some x =>
        have hn : holdsPut x = false := Bool.eq_false_iff.mpr fun hput => hp ⟨d, x, hd, h0, hx, hput⟩
        exact helperLeft_of_no_put hn
  · exact (hothers d fun e => hd (e ▸ ⟨rfl, rfl⟩)).trans (killHelpers_ctx_of_other hc hd)

/-- The end of the helpers before the retirement changes nothing of this. -/
theorem halt_retires (s : State) : RetiresGrain s s.killHelpers.retireGrain := by
  have hk : UnitsKept s s.killHelpers := killHelpers_kept (UnitsKept.refl s)
  obtain ⟨hgrain, hacc, hlmem, hfe, hwbuf, haccm⟩ := retireGrain_retires s.killHelpers
  rw [hk.cur, hk.myTile, hk.accs] at hacc
  rw [hk.cur] at hgrain
  refine ⟨fun g hg => ?_, hacc, hlmem.trans hk.lmem, hfe.trans hk.fe, hwbuf.trans hk.wbuf, haccm.trans hk.accm⟩
  obtain ⟨g₁, hg₁, hcore₁, -⟩ := hk.grainOf hg
  obtain ⟨k, hfind, hret, hcore⟩ := hgrain g₁ hg₁
  exact ⟨k, hfind, hret, hcore.trans hcore₁⟩

/-- Settles O41: `chkpt` in the order of its conditions; a `halt` ends the helpers one after another, and then waits or
retires the grain. -/
theorem checkpointAndHalt : Obligations.CheckpointAndHalt := by
  intro s h hr
  have hl := runs_lives hr
  refine ⟨chkpt_waits hr, fun c hw hc => ⟨chkpt_numbers hr hw hc, chkpt_stops_later hr hw, fun hlog hs hf =>
    ⟨_, _, chkpt_stops hr hw hc hlog hs, doneTag_reserves ?_ h 8 _, rfl, ?_⟩⟩, halt_of_helper hr, fun hc => ?_⟩
  · exact (updMe_lives _ _).trans hl
  · obtain ⟨x, hx⟩ := Option.isSome_iff_exists.mp hf
    have hx' : s.sheaf = x := sheafOf_of_find hx
    rw [hx']
    exact updSheaf_sheafOf_self hx _
  · intro u mine puts left
    have hputs (x : Ctx) : puts x ↔ holdsPut x = true := (holdsPut_iff x).symm
    have hleft : left ↔ putsLeft s := by simp only [left, putsLeft, hputs]; rfl
    refine ⟨fun d x hd h0 hx hn => ?_, fun d x hd h0 hx hp => ?_, fun d hd => killHelpers_ctx_of_other hc hd,
      fun hw => halt_waits hr hc (hw.imp_right hleft.mp), fun hw hn hg => ?_, fun hw hn hg => ?_⟩
    · have hput : holdsPut x = false := Bool.eq_false_iff.mpr fun hp => hn ((hputs x).mpr hp)
      exact ⟨(killHelpers_ctx hc hd h0).trans (hx ▸ helperLeft_of_no_put hput), killHelpers_flags hc hl hd h0 hx hput⟩
    · exact (killHelpers_ctx hc hd h0).trans (hx ▸ helperLeft_of_put ((hputs x).mp hp))
    · exact (halt_goesOn hr hc hw fun hp => hn (hleft.mpr hp)).trans (congrArg _ (if_pos hg))
    · have hp : ¬ putsLeft s := fun hp => hn (hleft.mpr hp)
      obtain ⟨hmine, hothers⟩ := halt_ctx hc hp
      exact ⟨_, (halt_goesOn hr hc hw hp).trans (congrArg _ (if_neg (by rw [hg]; decide))), hmine, hothers, halt_retires s⟩

end Sys2Proof.Proofs
end
